-- ==== Sys2Proof/Word.lean ====
section
/-! DEFINITION. The word types of the management space and of the byte structures: a register is 32 bits (R17), a
structure is a list of bytes, byte 0 first (R11). -/

namespace Sys2Proof

/-- One byte of a structure, a frame or a serial memory. -/
abbrev Byte := BitVec 8
/-- One 32-bit register word (R17). -/
abbrev Word := BitVec 32
/-- A 64-bit register or timestamp (R14, R18). -/
abbrev Word64 := BitVec 64
/-- A byte structure, byte 0 first: sent first on a link, stored at the lowest address (R11). -/
abbrev Bytes := List Byte

end Sys2Proof
end

