-- ==== Sys2Proof/Machine/Tab.lean ====
section
/-! DEFINITION. A table by key: a list of pairs, no key twice, oldest entry first. Queue-pair contexts, windows, map
words, event records and the other sparse tables of the head are tables of this kind. -/

namespace Sys2Proof.Machine

/-- A table from keys to values, oldest entry first. -/
abbrev Tab (κ α : Type) := List (κ × α)

/-- The value at a key. -/
def tabGet {κ α : Type} [DecidableEq κ] (k : κ) : Tab κ α → Option α
  | [] => none
  | (k', v) :: t => if k' = k then some v else tabGet k t

/-- The value at a key, or a default. -/
def tabGetD {κ α : Type} [DecidableEq κ] (k : κ) (d : α) (t : Tab κ α) : α := (tabGet k t).getD d

/-- Put a value at a key: in place where the key stands, at the end where it is new. -/
def tabPut {κ α : Type} [DecidableEq κ] (k : κ) (v : α) : Tab κ α → Tab κ α
  | [] => [(k, v)]
  | (k', v') :: t => if k' = k then (k, v) :: t else (k', v') :: tabPut k v t

/-- Remove a key. -/
def tabDel {κ α : Type} [DecidableEq κ] (k : κ) (t : Tab κ α) : Tab κ α := t.filter (fun p => !decide (p.1 = k))

/-- Change the value at a key, where it stands. -/
def tabUpd {κ α : Type} [DecidableEq κ] (k : κ) (f : α → α) : Tab κ α → Tab κ α
  | [] => []
  | (k', v) :: t => if k' = k then (k, f v) :: t else (k', v) :: tabUpd k f t

/-- Change the value at a key, starting from a default where the key is new. -/
def tabUpdD {κ α : Type} [DecidableEq κ] (k : κ) (d : α) (f : α → α) (t : Tab κ α) : Tab κ α :=
  tabPut k (f (tabGetD k d t)) t

/-- Whether a key stands in the table. -/
def tabHas {κ α : Type} [DecidableEq κ] (k : κ) (t : Tab κ α) : Bool := (tabGet k t).isSome

/-- The values of a table, oldest first. -/
def tabVals {κ α : Type} (t : Tab κ α) : List α := t.map (·.2)

/-- Keep the entries a test lets through. -/
def tabKeep {κ α : Type} (p : κ → α → Bool) (t : Tab κ α) : Tab κ α := t.filter (fun e => p e.1 e.2)

/-- Change every value. -/
def tabMap {κ α : Type} (f : κ → α → α) (t : Tab κ α) : Tab κ α := t.map (fun e => (e.1, f e.1 e.2))

end Sys2Proof.Machine
end

