-- ==== Sys2Proof/Machine/Params.lean ====
section
/-! DEFINITION. The parameter catalogue (R66, R67, R119, R582 and the parameter tables of the chapters): each PARAM_ID an
image may set, its range, default and dependency, and the resolution of SCOPE (R65). -/

namespace Sys2Proof.Machine

/-- One PARAM entry of an image (R65): its ID, its SCOPE (0 both heads, 1 head 0, 2 head 1) and its value. -/
structure PEntry where
  id : Nat
  scope : Nat
  value : Nat
deriving DecidableEq, Repr

/-- What a parameter's value must satisfy besides its range (R66). -/
inductive PCheck where
  | any
  | oneOf (vs : List Nat)
  | notEq (v : Nat)
  | multOf (n : Nat)
  | pow2
  | geParam (id : Nat) (plus : Nat)
  | leParam (id : Nat)
  | ltParam (id : Nat)
  /-- HP_BREAKOUT: each two-bit field is 0, 1 or 2. -/
  | breakout
  /-- DDR_WEIGHTS: each of bytes 0 to 3 is 1 to 15. -/
  | weights
  /-- VF_TJ_SOFT: at most the Tj max of the part's grade. -/
  | tjSoft
  /-- MGMT_IPV4: 0, or a PREFIX of 1 to 30 (R582). -/
  | mgmtIp
  /-- MGMT_ALLOW: 0, ANY, or a PREFIX of 0 to 32 (R582). -/
  | mgmtAllow
deriving DecidableEq, Repr

/-- A row of the catalogue. -/
structure PRow where
  id : Nat
  lo : Nat
  hi : Nat
  dflt : Nat
  check : PCheck
deriving DecidableEq, Repr

/-- hpBreakout (R67). -/
abbrev P.hpBreakout : Nat := 0x0100
/-- pmtu (chapter 04, parameter table). -/
abbrev P.pmtu : Nat := 0x0101
/-- pfcMask (chapter 04, parameter table). -/
abbrev P.pfcMask : Nat := 0x0102
/-- rocePrio (chapter 04, parameter table). -/
abbrev P.rocePrio : Nat := 0x0103
/-- lotUdpPort (R67). -/
abbrev P.lotUdpPort : Nat := 0x0104
/-- lotEnable (chapter 04, parameter table). -/
abbrev P.lotEnable : Nat := 0x0105
/-- dscpData (chapter 04, parameter table). -/
abbrev P.dscpData : Nat := 0x0106
/-- ecnEnable (chapter 04, parameter table). -/
abbrev P.ecnEnable : Nat := 0x0107
/-- pauseMode (chapter 04, parameter table). -/
abbrev P.pauseMode : Nat := 0x0108
/-- retryTimeoutInit (R67). -/
abbrev P.retryTimeoutInit : Nat := 0x0110
/-- retryLimit (R67). -/
abbrev P.retryLimit : Nat := 0x0111
/-- retryTimeoutMax (chapter 04, parameter table). -/
abbrev P.retryTimeoutMax : Nat := 0x0112
/-- rnrRetryLimit (chapter 04, parameter table). -/
abbrev P.rnrRetryLimit : Nat := 0x0113
/-- rnrDelay (chapter 04, parameter table). -/
abbrev P.rnrDelay : Nat := 0x0114
/-- cnpGap (chapter 04, parameter table). -/
abbrev P.cnpGap : Nat := 0x0120
/-- cnpCut (chapter 04, parameter table). -/
abbrev P.cnpCut : Nat := 0x0121
/-- cnpRaisePeriod (chapter 04, parameter table). -/
abbrev P.cnpRaisePeriod : Nat := 0x0122
/-- cnpRaiseStep (chapter 04, parameter table). -/
abbrev P.cnpRaiseStep : Nat := 0x0123
/-- lotRxWindow (chapter 04, parameter table). -/
abbrev P.lotRxWindow : Nat := 0x0130
/-- qpMax (R67). -/
abbrev P.qpMax : Nat := 0x0200
/-- qpErrLinger (chapter 04, parameter table). -/
abbrev P.qpErrLinger : Nat := 0x0201
/-- missXoff (chapter 04, parameter table). -/
abbrev P.missXoff : Nat := 0x0202
/-- trWindowMax (R67). -/
abbrev P.trWindowMax : Nat := 0x0300
/-- trPerCmd (chapter 05, parameter table). -/
abbrev P.trPerCmd : Nat := 0x0301
/-- windowTimeout (chapter 05, parameter table). -/
abbrev P.windowTimeout : Nat := 0x0302
/-- qdepthMax (chapter 05, parameter table). -/
abbrev P.qdepthMax : Nat := 0x0303
/-- cmdMaxLen (chapter 05, parameter table). -/
abbrev P.cmdMaxLen : Nat := 0x0304
/-- pullEnable (chapter 05, parameter table). -/
abbrev P.pullEnable : Nat := 0x0305
/-- openTakesMax (chapter 05, parameter table). -/
abbrev P.openTakesMax : Nat := 0x0306
/-- orphanKeep (chapter 05, parameter table). -/
abbrev P.orphanKeep : Nat := 0x0307
/-- dirtyBound (R67). -/
abbrev P.dirtyBound : Nat := 0x0400
/-- dirtyResume (chapter 06, parameter table). -/
abbrev P.dirtyResume : Nat := 0x0401
/-- repairRetry (chapter 06, parameter table). -/
abbrev P.repairRetry : Nat := 0x0402
/-- backlogAlarm (chapter 06, parameter table). -/
abbrev P.backlogAlarm : Nat := 0x0403
/-- fprIndexSize (chapter 07, parameter table). -/
abbrev P.fprIndexSize : Nat := 0x0500
/-- fprRebuildFill (chapter 07, parameter table). -/
abbrev P.fprRebuildFill : Nat := 0x0501
/-- cmpMinGain (chapter 07, parameter table). -/
abbrev P.cmpMinGain : Nat := 0x0600
/-- cmpSearch (chapter 07, parameter table). -/
abbrev P.cmpSearch : Nat := 0x0601
/-- cmpLaneFaultLimit (chapter 07, parameter table). -/
abbrev P.cmpLaneFaultLimit : Nat := 0x0602
/-- keyClearAllow (chapter 07, parameter table). -/
abbrev P.keyClearAllow : Nat := 0x0700
/-- cipSlice (chapter 07, parameter table). -/
abbrev P.cipSlice : Nat := 0x0701
/-- ctxSpillSize (chapter 07, parameter table). -/
abbrev P.ctxSpillSize : Nat := 0x0702
/-- cipFaultLimit (chapter 07, parameter table). -/
abbrev P.cipFaultLimit : Nat := 0x0703
/-- cipFaultWindow (chapter 07, parameter table). -/
abbrev P.cipFaultWindow : Nat := 0x0704
/-- ddrRate (R67). -/
abbrev P.ddrRate : Nat := 0x0800
/-- ddrGrain (R67). -/
abbrev P.ddrGrain : Nat := 0x0801
/-- ddrRefSb (chapter 14, parameter table). -/
abbrev P.ddrRefSb : Nat := 0x0802
/-- ddrMr4Period (chapter 14, parameter table). -/
abbrev P.ddrMr4Period : Nat := 0x0803
/-- actThresh (chapter 14, parameter table). -/
abbrev P.actThresh : Nat := 0x0804
/-- nrrMode (chapter 14, parameter table). -/
abbrev P.nrrMode : Nat := 0x0805
/-- scrubPeriod (chapter 14, parameter table). -/
abbrev P.scrubPeriod : Nat := 0x0806
/-- ceMark (chapter 14, parameter table). -/
abbrev P.ceMark : Nat := 0x0807
/-- ueFailLimit (chapter 14, parameter table). -/
abbrev P.ueFailLimit : Nat := 0x0808
/-- ddrWeights (chapter 14, parameter table). -/
abbrev P.ddrWeights : Nat := 0x0809
/-- class0Cap (chapter 14, parameter table). -/
abbrev P.class0Cap : Nat := 0x080A
/-- streamTableSize (chapter 14, parameter table). -/
abbrev P.streamTableSize : Nat := 0x080B
/-- gcStartFree (R67). -/
abbrev P.gcStartFree : Nat := 0x0900
/-- gcUrgentFree (chapter 09, parameter table). -/
abbrev P.gcUrgentFree : Nat := 0x0901
/-- spareInit (chapter 09, parameter table). -/
abbrev P.spareInit : Nat := 0x0902
/-- spareLowMark (chapter 09, parameter table). -/
abbrev P.spareLowMark : Nat := 0x0903
/-- wlSpread (chapter 09, parameter table). -/
abbrev P.wlSpread : Nat := 0x0904
/-- peLimit (chapter 09, parameter table). -/
abbrev P.peLimit : Nat := 0x0905
/-- rdLimit (chapter 09, parameter table). -/
abbrev P.rdLimit : Nat := 0x0906
/-- mapSpillMax (chapter 09, parameter table). -/
abbrev P.mapSpillMax : Nat := 0x0907
/-- shareTableSize (chapter 09, parameter table). -/
abbrev P.shareTableSize : Nat := 0x0908
/-- rtLadder (chapter 09, parameter table). -/
abbrev P.rtLadder : Nat := 0x0909
/-- rtHigh (chapter 09, parameter table). -/
abbrev P.rtHigh : Nat := 0x090A
/-- rtRefresh (chapter 09, parameter table). -/
abbrev P.rtRefresh : Nat := 0x090B
/-- rtDwell (chapter 09, parameter table). -/
abbrev P.rtDwell : Nat := 0x090C
/-- rtLimit (chapter 09, parameter table). -/
abbrev P.rtLimit : Nat := 0x090D
/-- dieRetireLimit (chapter 09, parameter table). -/
abbrev P.dieRetireLimit : Nat := 0x090E
/-- unitFreeAlarm (chapter 08, parameter table). -/
abbrev P.unitFreeAlarm : Nat := 0x0980
/-- unitStrandAlarm (chapter 08, parameter table). -/
abbrev P.unitStrandAlarm : Nat := 0x0981
/-- patrolPeriod (R67). -/
abbrev P.patrolPeriod : Nat := 0x0A00
/-- rebuildTrigger (chapter 10, parameter table). -/
abbrev P.rebuildTrigger : Nat := 0x0A01
/-- rebuildWait (chapter 10, parameter table). -/
abbrev P.rebuildWait : Nat := 0x0A02
/-- rbMinRate (chapter 10, parameter table). -/
abbrev P.rbMinRate : Nat := 0x0A03
/-- partialWait (chapter 10, parameter table). -/
abbrev P.partialWait : Nat := 0x0A04
/-- padWait (chapter 10, parameter table). -/
abbrev P.padWait : Nat := 0x0A05
/-- rowIdleClose (chapter 10, parameter table). -/
abbrev P.rowIdleClose : Nat := 0x0A06
/-- jnlHome0 (R67). -/
abbrev P.jnlHome0 : Nat := 0x0B00
/-- jnlHome1 (R67). -/
abbrev P.jnlHome1 : Nat := 0x0B01
/-- jnlHome2 (R67). -/
abbrev P.jnlHome2 : Nat := 0x0B02
/-- jnlSpillMax (chapter 10, parameter table). -/
abbrev P.jnlSpillMax : Nat := 0x0B03
/-- jnlMaxRecords (chapter 10, parameter table). -/
abbrev P.jnlMaxRecords : Nat := 0x0B04
/-- sldPortMask (R67). -/
abbrev P.sldPortMask : Nat := 0x0C00
/-- sldCmdTimeout (chapter 11, parameter table). -/
abbrev P.sldCmdTimeout : Nat := 0x0C01
/-- sldReplayLimit (chapter 11, parameter table). -/
abbrev P.sldReplayLimit : Nat := 0x0C02
/-- sldRetrainLimit (chapter 11, parameter table). -/
abbrev P.sldRetrainLimit : Nat := 0x0C03
/-- sldPrsntDebounce (chapter 11, parameter table). -/
abbrev P.sldPrsntDebounce : Nat := 0x0C04
/-- sldRestAllow (chapter 11, parameter table). -/
abbrev P.sldRestAllow : Nat := 0x0C05
/-- sldX1Allow (chapter 11, parameter table). -/
abbrev P.sldX1Allow : Nat := 0x0C06
/-- hbPeriod (R67). -/
abbrev P.hbPeriod : Nat := 0x0D00
/-- hbMisses (R67). -/
abbrev P.hbMisses : Nat := 0x0D01
/-- plLanes (R67). -/
abbrev P.plLanes : Nat := 0x0D02
/-- plLostWait (chapter 12, parameter table). -/
abbrev P.plLostWait : Nat := 0x0D03
/-- joinWait (chapter 12, parameter table). -/
abbrev P.joinWait : Nat := 0x0D04
/-- plKeySlot (chapter 12, parameter table). -/
abbrev P.plKeySlot : Nat := 0x0D05
/-- handbackAuto (chapter 12, parameter table). -/
abbrev P.handbackAuto : Nat := 0x0D06
/-- claimWait (chapter 12, parameter table). -/
abbrev P.claimWait : Nat := 0x0D07
/-- snapMax (chapter 13, parameter table). -/
abbrev P.snapMax : Nat := 0x0E00
/-- snapPageSize (chapter 13, parameter table). -/
abbrev P.snapPageSize : Nat := 0x0E01
/-- replPeriod (chapter 13, parameter table). -/
abbrev P.replPeriod : Nat := 0x0E02
/-- replBufSize (chapter 13, parameter table). -/
abbrev P.replBufSize : Nat := 0x0E03
/-- replChunkMax (chapter 13, parameter table). -/
abbrev P.replChunkMax : Nat := 0x0E04
/-- replSessionWait (chapter 13, parameter table). -/
abbrev P.replSessionWait : Nat := 0x0E05
/-- replLagAlarm (chapter 13, parameter table). -/
abbrev P.replLagAlarm : Nat := 0x0E06
/-- replOutstanding (chapter 13, parameter table). -/
abbrev P.replOutstanding : Nat := 0x0E07
/-- vfFmin (R67). -/
abbrev P.vfFmin : Nat := 0x0F00
/-- vfFmax (R67). -/
abbrev P.vfFmax : Nat := 0x0F01
/-- vfUtilTarget (chapter 15, parameter table). -/
abbrev P.vfUtilTarget : Nat := 0x0F02
/-- vfDwellDown (chapter 15, parameter table). -/
abbrev P.vfDwellDown : Nat := 0x0F03
/-- vfTjSoft (chapter 15, parameter table). -/
abbrev P.vfTjSoft : Nat := 0x0F04
/-- gcBgShareMax (chapter 15, parameter table). -/
abbrev P.gcBgShareMax : Nat := 0x0F10
/-- gcUrgentPace (chapter 15, parameter table). -/
abbrev P.gcUrgentPace : Nat := 0x0F11
/-- gcDwell (chapter 15, parameter table). -/
abbrev P.gcDwell : Nat := 0x0F12
/-- plWTime (chapter 15, parameter table). -/
abbrev P.plWTime : Nat := 0x0F20
/-- rbMaxRate (chapter 15, parameter table). -/
abbrev P.rbMaxRate : Nat := 0x0F30
/-- rbHostLat (chapter 15, parameter table). -/
abbrev P.rbHostLat : Nat := 0x0F31
/-- rbDwell (chapter 15, parameter table). -/
abbrev P.rbDwell : Nat := 0x0F32
/-- rbStep (chapter 15, parameter table). -/
abbrev P.rbStep : Nat := 0x0F33
/-- eqTarget (chapter 15, parameter table). -/
abbrev P.eqTarget : Nat := 0x0F40
/-- eqFloor (chapter 15, parameter table). -/
abbrev P.eqFloor : Nat := 0x0F41
/-- eqDwell (chapter 15, parameter table). -/
abbrev P.eqDwell : Nat := 0x0F42
/-- adpOscLimit (chapter 15, parameter table). -/
abbrev P.adpOscLimit : Nat := 0x0F50
/-- adpFreezeInit (chapter 15, parameter table). -/
abbrev P.adpFreezeInit : Nat := 0x0F51
/-- agreePeriod (R67). -/
abbrev P.agreePeriod : Nat := 0x1000
/-- chainOrigin (R582). -/
abbrev P.chainOrigin : Nat := 0x1001
/-- agreeInstall (R582). -/
abbrev P.agreeInstall : Nat := 0x1002
/-- mgmtUdpPort (R582). -/
abbrev P.mgmtUdpPort : Nat := 0x1003
/-- mgmtIpv4 (R582). -/
abbrev P.mgmtIpv4 : Nat := 0x1004
/-- mgmtAllow (R582). -/
abbrev P.mgmtAllow : Nat := 0x1005
/-- mgmtPhyMode (R582). -/
abbrev P.mgmtPhyMode : Nat := 0x1006
/-- spillRateMax (R582). -/
abbrev P.spillRateMax : Nat := 0x1007
/-- evrRateDefault (R582). -/
abbrev P.evrRateDefault : Nat := 0x1008
/-- evrBurstDefault (R582). -/
abbrev P.evrBurstDefault : Nat := 0x1009
/-- debugAllow (R582). -/
abbrev P.debugAllow : Nat := 0x100A
/-- updAutoActivate (R582). -/
abbrev P.updAutoActivate : Nat := 0x100B
/-- updConfirmWait (R582). -/
abbrev P.updConfirmWait : Nat := 0x100C
/-- sensPoll (R582). -/
abbrev P.sensPoll : Nat := 0x100D
/-- fanTmin (R582). -/
abbrev P.fanTmin : Nat := 0x100E
/-- fanTmax (R582). -/
abbrev P.fanTmax : Nat := 0x100F
/-- fanMinDuty (R582). -/
abbrev P.fanMinDuty : Nat := 0x1010
/-- fanTachMin (R582). -/
abbrev P.fanTachMin : Nat := 0x1011
/-- fanCount (R582). -/
abbrev P.fanCount : Nat := 0x1012
/-- wdogPeriod (R119). -/
abbrev P.wdogPeriod : Nat := 0x1100
/-- armIdle (R119). -/
abbrev P.armIdle : Nat := 0x1101
/-- vwarnMargin (R119). -/
abbrev P.vwarnMargin : Nat := 0x1102
/-- quietAllow (R119). -/
abbrev P.quietAllow : Nat := 0x1103
/-- dormantAllow (R119). -/
abbrev P.dormantAllow : Nat := 0x1104

/-- The settable parameters of group 0x01. -/
def paramRows01 : List PRow := [
  ⟨P.hpBreakout, 0, 255, 0, .breakout⟩,
  ⟨P.pmtu, 1024, 4096, 4096, .oneOf [1024, 2048, 4096]⟩,
  ⟨P.pfcMask, 0, 255, 8, .any⟩,
  ⟨P.rocePrio, 0, 7, 3, .any⟩,
  ⟨P.lotUdpPort, 1024, 65535, 19640, .notEq 4791⟩,
  ⟨P.lotEnable, 0, 1, 1, .any⟩,
  ⟨P.dscpData, 0, 63, 26, .any⟩,
  ⟨P.ecnEnable, 0, 1, 1, .any⟩,
  ⟨P.pauseMode, 0, 2, 0, .any⟩,
  ⟨P.retryTimeoutInit, 1, 1000000, 64, .any⟩,
  ⟨P.retryLimit, 1, 7, 7, .any⟩,
  ⟨P.retryTimeoutMax, 1, 1000000, 4096, .geParam 0x0110 0⟩,
  ⟨P.rnrRetryLimit, 0, 7, 7, .any⟩,
  ⟨P.rnrDelay, 10, 10000, 100, .any⟩,
  ⟨P.cnpGap, 1, 1000, 50, .any⟩,
  ⟨P.cnpCut, 1, 7, 4, .any⟩,
  ⟨P.cnpRaisePeriod, 10, 10000, 50, .any⟩,
  ⟨P.cnpRaiseStep, 1, 100, 5, .any⟩,
  ⟨P.lotRxWindow, 256, 16384, 4096, .any⟩]

/-- The settable parameters of group 0x02. -/
def paramRows02 : List PRow := [
  ⟨P.qpMax, 1024, 262144, 262144, .any⟩,
  ⟨P.qpErrLinger, 1, 60000, 1000, .any⟩,
  ⟨P.missXoff, 25, 100, 75, .any⟩]

/-- The settable parameters of group 0x03. -/
def paramRows03 : List PRow := [
  ⟨P.trWindowMax, 4096, 16777216, 1048576, .multOf 4096⟩,
  ⟨P.trPerCmd, 1, 16, 2, .any⟩,
  ⟨P.windowTimeout, 1, 10000, 200, .any⟩,
  ⟨P.qdepthMax, 1, 1024, 256, .any⟩,
  ⟨P.cmdMaxLen, 4096, 268435456, 268435456, .multOf 4096⟩,
  ⟨P.pullEnable, 0, 1, 1, .any⟩,
  ⟨P.openTakesMax, 1, 64, 16, .any⟩,
  ⟨P.orphanKeep, 1, 600, 30, .any⟩]

/-- The settable parameters of group 0x04. -/
def paramRows04 : List PRow := [
  ⟨P.dirtyBound, 64, 4096, 512, .any⟩,
  ⟨P.dirtyResume, 50, 99, 90, .any⟩,
  ⟨P.repairRetry, 1, 4, 2, .any⟩,
  ⟨P.backlogAlarm, 16, 4096, 64, .any⟩]

/-- The settable parameters of group 0x05. -/
def paramRows05 : List PRow := [
  ⟨P.fprIndexSize, 1, 65536, 16384, .any⟩,
  ⟨P.fprRebuildFill, 10, 60, 40, .any⟩]

/-- The settable parameters of group 0x06. -/
def paramRows06 : List PRow := [
  ⟨P.cmpMinGain, 1, 4, 1, .any⟩,
  ⟨P.cmpSearch, 1, 4, 2, .any⟩,
  ⟨P.cmpLaneFaultLimit, 1, 16, 4, .any⟩]

/-- The settable parameters of group 0x07. -/
def paramRows07 : List PRow := [
  ⟨P.keyClearAllow, 0, 1, 0, .any⟩,
  ⟨P.cipSlice, 4, 1024, 64, .multOf 4⟩,
  ⟨P.ctxSpillSize, 1, 64, 4, .any⟩,
  ⟨P.cipFaultLimit, 1, 16, 3, .any⟩,
  ⟨P.cipFaultWindow, 1, 3600, 60, .any⟩]

/-- The settable parameters of group 0x08. -/
def paramRows08 : List PRow := [
  ⟨P.ddrRate, 4800, 6400, 6400, .oneOf [4800, 5600, 6400]⟩,
  ⟨P.ddrGrain, 256, 65536, 4096, .pow2⟩,
  ⟨P.ddrRefSb, 0, 1, 1, .any⟩,
  ⟨P.ddrMr4Period, 1, 64, 16, .any⟩,
  ⟨P.actThresh, 256, 16384, 2048, .any⟩,
  ⟨P.nrrMode, 0, 1, 1, .any⟩,
  ⟨P.scrubPeriod, 1, 168, 24, .any⟩,
  ⟨P.ceMark, 1, 65535, 256, .any⟩,
  ⟨P.ueFailLimit, 1, 1000, 16, .any⟩,
  ⟨P.ddrWeights, 0, 4294967295, 0x01040808, .weights⟩,
  ⟨P.class0Cap, 1, 25, 10, .any⟩,
  ⟨P.streamTableSize, 256, 65536, 8192, .any⟩]

/-- The settable parameters of group 0x09. -/
def paramRows09 : List PRow := [
  ⟨P.gcStartFree, 2, 50, 10, .any⟩,
  ⟨P.gcUrgentFree, 1, 49, 4, .ltParam 0x0900⟩,
  ⟨P.spareInit, 1, 64, 8, .any⟩,
  ⟨P.spareLowMark, 0, 32, 2, .any⟩,
  ⟨P.wlSpread, 50, 5000, 300, .any⟩,
  ⟨P.peLimit, 500, 100000, 3000, .any⟩,
  ⟨P.rdLimit, 10000, 10000000, 200000, .any⟩,
  ⟨P.mapSpillMax, 1, 10000, 100, .any⟩,
  ⟨P.shareTableSize, 0, 65536, 4096, .any⟩,
  ⟨P.rtLadder, 1, 15, 8, .any⟩,
  ⟨P.rtHigh, 1, 200, 40, .any⟩,
  ⟨P.rtRefresh, 1, 255, 80, .geParam 0x090A 0⟩,
  ⟨P.rtDwell, 1000, 1000000, 10000, .any⟩,
  ⟨P.rtLimit, 1, 64, 24, .any⟩,
  ⟨P.dieRetireLimit, 1, 50, 10, .any⟩,
  ⟨P.unitFreeAlarm, 1, 50, 5, .any⟩,
  ⟨P.unitStrandAlarm, 1, 50, 20, .any⟩]

/-- The settable parameters of group 0x0A. -/
def paramRows0A : List PRow := [
  ⟨P.patrolPeriod, 1, 90, 14, .any⟩,
  ⟨P.rebuildTrigger, 0, 1, 1, .any⟩,
  ⟨P.rebuildWait, 0, 3600, 60, .any⟩,
  ⟨P.rbMinRate, 1, 64, 2, .any⟩,
  ⟨P.partialWait, 10, 100000, 2000, .any⟩,
  ⟨P.padWait, 10, 10000, 200, .any⟩,
  ⟨P.rowIdleClose, 1, 60000, 1000, .any⟩]

/-- The settable parameters of group 0x0B. -/
def paramRows0B : List PRow := [
  ⟨P.jnlHome0, 0, 65535, 0xFFFF, .any⟩,
  ⟨P.jnlHome1, 0, 65535, 0xFFFF, .any⟩,
  ⟨P.jnlHome2, 0, 65535, 0xFFFF, .any⟩,
  ⟨P.jnlSpillMax, 10, 10000, 500, .any⟩,
  ⟨P.jnlMaxRecords, 1024, 65536, 65536, .any⟩]

/-- The settable parameters of group 0x0C. -/
def paramRows0C : List PRow := [
  ⟨P.sldPortMask, 0, 4294967295, 0xFFFFFFFF, .any⟩,
  ⟨P.sldCmdTimeout, 1, 1000, 50, .any⟩,
  ⟨P.sldReplayLimit, 1, 16, 4, .any⟩,
  ⟨P.sldRetrainLimit, 1, 16, 3, .any⟩,
  ⟨P.sldPrsntDebounce, 1, 1000, 10, .any⟩,
  ⟨P.sldRestAllow, 0, 1, 1, .any⟩,
  ⟨P.sldX1Allow, 0, 1, 1, .any⟩]

/-- The settable parameters of group 0x0D. -/
def paramRows0D : List PRow := [
  ⟨P.hbPeriod, 1, 16, 1, .any⟩,
  ⟨P.hbMisses, 2, 16, 4, .any⟩,
  ⟨P.plLanes, 8, 16, 16, .oneOf [8, 16]⟩,
  ⟨P.plLostWait, 10, 100000, 100, .any⟩,
  ⟨P.joinWait, 1, 600, 10, .any⟩,
  ⟨P.plKeySlot, 0, 1023, 1023, .any⟩,
  ⟨P.handbackAuto, 0, 1, 1, .any⟩,
  ⟨P.claimWait, 2, 5, 4, .any⟩]

/-- The settable parameters of group 0x0E. -/
def paramRows0E : List PRow := [
  ⟨P.snapMax, 1, 64, 16, .any⟩,
  ⟨P.snapPageSize, 0, 65536, 2048, .any⟩,
  ⟨P.replPeriod, 1000, 3600000, 10000, .any⟩,
  ⟨P.replBufSize, 16, 4096, 256, .any⟩,
  ⟨P.replChunkMax, 16384, 268435456, 16777216, .leParam 0x0304⟩,
  ⟨P.replSessionWait, 1, 60, 5, .any⟩,
  ⟨P.replLagAlarm, 1, 3600, 60, .any⟩,
  ⟨P.replOutstanding, 1, 16, 4, .any⟩]

/-- The settable parameters of group 0x0F. -/
def paramRows0F : List PRow := [
  ⟨P.vfFmin, 1200, 1800, 1200, .any⟩,
  ⟨P.vfFmax, 1200, 1800, 1800, .geParam 0x0F00 0⟩,
  ⟨P.vfUtilTarget, 50, 95, 80, .any⟩,
  ⟨P.vfDwellDown, 10, 10000, 200, .any⟩,
  ⟨P.vfTjSoft, 70, 105, 95, .tjSoft⟩,
  ⟨P.gcBgShareMax, 5, 90, 50, .any⟩,
  ⟨P.gcUrgentPace, 50, 99, 90, .any⟩,
  ⟨P.gcDwell, 1, 1000, 10, .any⟩,
  ⟨P.plWTime, 0, 1000, 100, .any⟩,
  ⟨P.rbMaxRate, 1, 64, 16, .geParam 0x0A03 0⟩,
  ⟨P.rbHostLat, 50, 10000, 400, .any⟩,
  ⟨P.rbDwell, 1, 1000, 20, .any⟩,
  ⟨P.rbStep, 1, 8, 1, .any⟩,
  ⟨P.eqTarget, 8, 40, 20, .any⟩,
  ⟨P.eqFloor, 2, 40, 8, .leParam 0x0F40⟩,
  ⟨P.eqDwell, 1, 1000, 10, .any⟩,
  ⟨P.adpOscLimit, 4, 60, 16, .any⟩,
  ⟨P.adpFreezeInit, 0, 63, 0, .any⟩]

/-- The settable parameters of group 0x10. -/
def paramRows10 : List PRow := [
  ⟨P.agreePeriod, 100, 60000, 1000, .any⟩,
  ⟨P.chainOrigin, 0, 1, 0, .any⟩,
  ⟨P.agreeInstall, 0, 1, 1, .any⟩,
  ⟨P.mgmtUdpPort, 1024, 65535, 19642, .any⟩,
  ⟨P.mgmtIpv4, 0, 0xFFFFFFFFFF, 0, .mgmtIp⟩,
  ⟨P.mgmtAllow, 0, 0x1FFFFFFFFFF, 0, .mgmtAllow⟩,
  ⟨P.mgmtPhyMode, 0, 1, 1, .any⟩,
  ⟨P.spillRateMax, 16, 4096, 256, .any⟩,
  ⟨P.evrRateDefault, 0, 10000, 100, .any⟩,
  ⟨P.evrBurstDefault, 1, 1000, 20, .any⟩,
  ⟨P.debugAllow, 0, 1, 0, .any⟩,
  ⟨P.updAutoActivate, 0, 1, 0, .any⟩,
  ⟨P.updConfirmWait, 10, 3600, 120, .any⟩,
  ⟨P.sensPoll, 10, 10000, 100, .any⟩,
  ⟨P.fanTmin, 30, 90, 60, .any⟩,
  ⟨P.fanTmax, 35, 110, 90, .geParam 0x100E 5⟩,
  ⟨P.fanMinDuty, 10, 100, 30, .any⟩,
  ⟨P.fanTachMin, 0, 20000, 1000, .any⟩,
  ⟨P.fanCount, 0, 4, 4, .any⟩]

/-- The settable parameters of group 0x11. -/
def paramRows11 : List PRow := [
  ⟨P.wdogPeriod, 10, 10000, 1000, .any⟩,
  ⟨P.armIdle, 0, 600000, 0, .any⟩,
  ⟨P.vwarnMargin, 3, 10, 6, .any⟩,
  ⟨P.quietAllow, 0, 1, 1, .any⟩,
  ⟨P.dormantAllow, 0, 1, 1, .any⟩]

/-- REPL_TGT_ADDR_t, REPL_TGT_CFG_t (R473) and SENS_I2C_n (R549): numbered families whose values are whole 64-bit words. -/
def paramRowsWide : List PRow :=
  (List.range 16).map (fun t => ⟨0x0E10 + t, 0, 2 ^ 64 - 1, 0, .any⟩)
    ++ (List.range 16).map (fun t => ⟨0x0E20 + t, 0, 2 ^ 64 - 1, 0, .any⟩)
    ++ (List.range 32).map (fun n => ⟨0x1020 + n, 0, 2 ^ 64 - 1, 0, .any⟩)

/-- The whole catalogue (R66): an ID outside it is reserved. -/
def paramCatalogue : List PRow :=
  paramRows01 ++ paramRows02 ++ paramRows03 ++ paramRows04 ++ paramRows05 ++ paramRows06 ++ paramRows07 ++ paramRows08 ++ paramRows09 ++ paramRows0A ++ paramRows0B ++ paramRows0C ++ paramRows0D ++ paramRows0E ++ paramRows0F ++ paramRows10 ++ paramRows11 ++ paramRowsWide

/-- The catalogue row of a PARAM_ID. -/
def paramRow (id : Nat) : Option PRow := paramCatalogue.find? (fun r => r.id == id)

/-- The default of a parameter (R65: one with no entry takes its default). -/
def paramDefault (id : Nat) : Nat := match paramRow id with
  | some r => r.dflt
  | none => 0

/-- The entry that decides a parameter for a head (R65): one of the head's own SCOPE before one of SCOPE 0. -/
def paramEntry (es : List PEntry) (head : Nat) (id : Nat) : Option PEntry :=
  match es.find? (fun e => e.id == id && e.scope == head + 1) with
  | some e => some e
  | none => es.find? (fun e => e.id == id && e.scope == 0)

/-- The value a head resolves for a parameter (R65). -/
def paramFor (es : List PEntry) (head : Nat) (id : Nat) : Nat :=
  match paramEntry es head id with
  | some e => e.value
  | none => paramDefault id

/-- Whether the check of a catalogue row holds of a value, other parameters read through `get` (R66). -/
def PCheck.holds (gradeE : Bool) (get : Nat → Nat) (v : Nat) : PCheck → Bool
  | .any => true
  | .oneOf vs => vs.contains v
  | .notEq w => v != w
  | .multOf n => v % n == 0
  | .pow2 => (List.range 64).any (fun k => v == 2 ^ k)
  | .geParam id plus => get id + plus ≤ v
  | .leParam id => v ≤ get id
  | .ltParam id => v < get id
  | .breakout => (List.range 4).all (fun p => (v / 4 ^ p) % 4 ≤ 2)
  | .weights => (List.range 4).all (fun b => let w := (v / 256 ^ b) % 256; 1 ≤ w && w ≤ 15)
  | .tjSoft => v ≤ (if gradeE then 105 else 100)
  | .mgmtIp => v == 0 || (let p := v / 2 ^ 32; 1 ≤ p && p ≤ 30)
  | .mgmtAllow => v == 0 || v / 2 ^ 40 == 1 || v / 2 ^ 32 ≤ 32

/-- R65, R66: an ID, its SCOPE and its uniqueness are right for every entry. -/
def paramIdsOk (es : List PEntry) : Bool :=
  es.all (fun e => (paramRow e.id).isSome && e.scope ≤ 2)
    && (es.map (fun e => (e.id, e.scope))).Pairwise (fun a b => a ≠ b)

/-- R65, R66: every value and dependency of the set that applies to a head is in range. -/
def paramRangesOk (gradeE : Bool) (es : List PEntry) (head : Nat) : Bool :=
  paramCatalogue.all (fun r =>
    match paramEntry es head r.id with
    | some e => r.lo ≤ e.value && e.value ≤ r.hi && r.check.holds gradeE (paramFor es head) e.value
    | none => r.check.holds gradeE (paramFor es head) r.dflt
      || (match r.check with | .any => true | _ => false))

end Sys2Proof.Machine
end

