-- ==== Sys2Proof/Blocks/Image.lean ====
section
/-! DEFINITION. What a configuration image carries once it is in force: host addresses (R70), unit descriptors (R281 to
R284), volume policies (R72), parameters (R65) and the trailer (R61). -/

namespace Sys2Proof.Machine

/-- A HOST_ADDR entry (R70). Addresses are the integers of R609. -/
structure HostAddr where
  head : Nat := 0
  /-- PORT: 4 × host port + sub-port. -/
  port : Nat := 0
  v4ok : Bool := false
  v6ok : Bool := false
  tagged : Bool := false
  v4len : Nat := 0
  vlan : Nat := 0
  mac : Nat := 0
  ipv4 : Nat := 0
  ipv6 : Nat := 0
  v6len : Nat := 0
deriving DecidableEq, Repr

/-- The kind of a unit (R279). -/
inductive UnitKind where
  | die
  | band
  | span
deriving DecidableEq, Repr

/-- The role of a unit (R281, ROLE 0 to 4). -/
inductive UnitRole where
  | member
  | top
  | mapBand
  | jnlBand
  | spare
deriving DecidableEq, Repr

/-- A unit descriptor (R281 to R284); the fields of the other kinds are 0. -/
structure UnitDesc where
  kind : UnitKind := .die
  role : UnitRole := .member
  head : Nat := 0
  /-- FLAGS.STREAM -/
  stream : Bool := false
  /-- PARENT, none for 0xFFFF -/
  parent : Option Nat := none
  pos : Nat := 0
  /-- die: PORT, DIE, FDOM, PLANES, BLOCKS, PAGES, PAGE_KIB (R282) -/
  port : Nat := 0
  die : Nat := 0
  fdom : Nat := 0
  planes : Nat := 0
  blocks : Nat := 0
  pages : Nat := 0
  pageKib : Nat := 0
  /-- band and span: MEMBER_BASE, WIDTH or COUNT (R283, R284) -/
  base : Nat := 0
  width : Nat := 0
  /-- band: RSV_SEGS (R283) -/
  rsvSegs : Nat := 0
  /-- span: SPARE0, SPARE1, none for 0xFFFF (R284) -/
  spare0 : Option Nat := none
  spare1 : Option Nat := none
deriving DecidableEq, Repr

/-- A VOLUME_POLICY entry (R72). -/
structure VolPolicy where
  /-- VOL: the ID in [11:0] and the generation in [15:12] -/
  vol : Nat := 0
  /-- KIND 1, a stream volume -/
  stream : Bool := false
  dedup : Bool := false
  compress : Bool := false
  encrypt : Bool := false
  replicate : Bool := false
  snapshots : Bool := false
  topUnit : Nat := 0
  keySlot : Nat := 0
  capacity : Nat := 0
  maxTakes : Nat := 0
  wbShare : Nat := 100
  replTarget : Nat := 0xFFFF
deriving DecidableEq, Repr

/-- The part of an image that is in force (R74 steps 5 and 6). -/
structure Image where
  entries : List PEntry := []
  addrs : List HostAddr := []
  units : List UnitDesc := []
  vols : List VolPolicy := []
  imgLen : Nat := 0
  seq : Nat := 0
  kenasy : Nat := 0
  arrayId : Nat := 0
  stepMask : Nat := 0
  fuseMask : Nat := 0
  digest : Bytes := []
  sigR : Bytes := []
  sigS : Bytes := []
  keyId : Nat := 0
deriving DecidableEq, Repr

end Sys2Proof.Machine
end

