-- ==== Sys2Proof/Blocks/Ctl.lean ====
section
/-! DEFINITION. The always-on blocks: reset (RST), clocks (CLK), power (PWR), the configuration loader (CFG), the access
latches of the two requesters, and the fixed facts of the part. -/

namespace Sys2Proof.Machine

/-- The four reset levels (R86), L0 the deepest. -/
inductive Level where
  | l0
  | l1
  | l2
  | l3
deriving DecidableEq, Repr

/-- The targets of an L3 reset, by the TARGET field of RST_SOFT (R118). -/
inductive Target where
  | fab | qpc | cmd | ing | fpr | cmp | cip | ftl | par | jnl | sld | rpl | adp
  | mgmt
deriving DecidableEq, Repr

/-- The reset causes, by their bit in RST_CAUSE (R118). -/
inductive Cause where
  | por | brownout | ext | wdog | partner | soft | therm | debug | clkfail | escalate
deriving DecidableEq, Repr

/-- Where the head stands in the release order of R95 or in an L2 reset (R97). -/
inductive Stage where
  /-- a reset is held: a cause of it still stands, or the AO clock is not good -/
  | held
  /-- step 1: tPOR runs (L0 only) -/
  | por
  /-- R597: waiting for every rail above its warning level -/
  | railWait
  /-- step 3: the loader runs R74 -/
  | loading
  /-- step 4: the management PLL starts -/
  | mgStart
  /-- step 5: the DDR PLL starts, BUF initialises -/
  | ddrStart
  /-- step 6: the cluster PLLs start -/
  | dpStart
  /-- released: step 8 of R95 is done -/
  | run
  /-- R76: load failed, recovery mode -/
  | loadFailed
  /-- R491: BUF initialisation failed -/
  | bufFailed
  /-- R97 step 2 and 3: waiting for the clusters' clocks -/
  | l2Clocks
  /-- R97 step 4: the loader rereads the datapath records -/
  | l2Reread
deriving DecidableEq, Repr

/-- RST: reset state (chapter 03). -/
structure Rst where
  /-- where the release order stands; R95, R97 -/
  stage : Stage := .held
  /-- the level of the reset in progress or last taken; R86, R118 RST_LAST[1:0] -/
  level : Level := .l0
  /-- RST_LAST[6:2], the L3 target of the last reset; R118 -/
  lastTarget : BitVec 5 := 0
  /-- RST_CAUSE; R118 -/
  cause : BitVec 10 := 0
  /-- causes of the reset in progress, moved into RST_CAUSE at its release; R88, R95 -/
  newCause : BitVec 10 := 1
  /-- RST_COUNT[7:0], L1 resets; R118 -/
  countL1 : BitVec 8 := 0
  /-- RST_COUNT[15:8], L2 resets; R118 -/
  countL2 : BitVec 8 := 0
  /-- RST_COUNT[23:16], L3 resets; R118 -/
  countL3 : BitVec 8 := 0
  /-- the AO rail group is in its operating range; R95, R597 -/
  aoRails : Bool := false
  /-- REFCLK_25 runs; R95, R96 -/
  ref25 : Bool := true
  /-- RESET_N is low and was taken; R89 -/
  extHeld : Bool := false
  /-- a thermal trip holds THERM_TRIP_N low; R90 -/
  trip : Bool := false
  /-- rails below their brown-out level; R115 -/
  brown : BitVec 16 := 0
  /-- the always-on domain is released; R95 step 1 -/
  aoUp : Bool := false
  /-- the management domain is released; R95 step 4 -/
  mgUp : Bool := false
  /-- BUF's controller is released; R95 step 5 -/
  ddrUp : Bool := false
  /-- the datapath is released; R95 step 6 -/
  dpUp : Bool := false
  /-- the host ports are released; R95 step 8 -/
  hostUp : Bool := false
  /-- the targets that L3 resets hold while their records are reread; R93 -/
  l3Held : List Target := []
  /-- resets deferred by R120, oldest first: level, target, cause -/
  deferred : List (Level × Option Target × Cause) := []
  /-- HEAD_ID as sampled at step 1 of R74; R85 -/
  headId : Bool := false
  /-- PREF_HEAD as sampled at step 1 of R74; R100, R602 -/
  prefHead : Bool := false
  /-- the watchdog runs; R91 -/
  wdogOn : Bool := false
  /-- RST_WDOG_STAT[0], first expiry seen; R118 -/
  wdogFirst : Bool := false
  /-- RST_WDOG_STAT[31:8], milliseconds remaining; R118 -/
  wdogLeft : BitVec 24 := 0
  /-- the step from Dormant: release from step 3 of R95 without a reset; R109 -/
  dormantWake : Bool := false
deriving DecidableEq, Repr

/-- One clock-domain crossing (R103, R104). -/
structure Cdc where
  /-- on its dual-clock queue; CLK_CDC_STAT[0] -/
  onQueue : Bool := false
  /-- events merged away; CLK_CDC_MERGE -/
  merges : Word := 0
deriving DecidableEq, Repr

/-- CLK: clock state (chapter 03). -/
structure Clk where
  /-- CLK_STAT[12:0]; R118 -/
  good : BitVec 13 := 0
  /-- CLK_FAIL[12:0]; R118 -/
  fail : BitVec 13 := 0
  /-- CLK_CDC_SEL[9:0]; R118 -/
  cdcSel : BitVec 10 := 0
  /-- the crossings that have fallen back or merged, by index; R103, R104 -/
  cdc : Tab Nat Cdc := []
  /-- REFCLK_156 runs; R96 -/
  ref156 : Bool := true
  /-- REFCLK_100 runs; R96 -/
  ref100 : Bool := true
deriving DecidableEq, Repr

/-- The power states (R105), encoded as PWR_REQ.TARGET. -/
inductive Power where
  | run
  | armed
  | quiet
  | dormant
deriving DecidableEq, Repr

/-- PWR: power state and brown-out hold (chapter 03). -/
structure Pwr where
  /-- PWR_REQ.TARGET; R118 -/
  req : BitVec 2 := 0
  /-- PWR_STAT.STATE; R118 -/
  state : Power := .run
  /-- PWR_STAT.TRANSIT: the state a transition in progress goes to; R118, R122 -/
  transit : Option Power := none
  /-- PWR_STAT.PAIR_WAIT: the state proposed to the partner; R106, R118 -/
  proposed : Option Power := none
  /-- PWR_STAT.HOLD; R112 -/
  hold : Bool := false
  /-- PWR_STAT.LAST_WAKE; R118 -/
  lastWake : BitVec 4 := 0
  /-- PWR_STAT.DENY; R118 -/
  deny : BitVec 4 := 0
  /-- PWR_RAIL_STAT[15:0]; R118 -/
  railLow : BitVec 16 := 0
  /-- PWR_RAIL_LATCH[15:0]; R118 -/
  railLatch : BitVec 16 := 0
  /-- PWR_HOLD_COUNT; R118 -/
  holdCount : Word := 0
  /-- PWR_WAKE_TIMER; R118 -/
  wakeTimer : Word64 := 0
  /-- PWR_WARN_N is low; R112 -/
  warnLow : Bool := false
  /-- the tBOR interval runs; R114 -/
  borRuns : Bool := false
  /-- the hold's flush and spill run; R113, R114, R120 -/
  flushing : Bool := false
deriving DecidableEq, Repr

/-- The two serial memories (R55). -/
inductive Device where
  | primary
  | alternate
deriving DecidableEq, Repr

/-- What the loader does: CFG_LOAD_STAT.STATE (R79), and idle before any load. -/
inductive LoadState where
  | options
  | image
  | checks
  | apply
  | done
  | failed
deriving DecidableEq, Repr

/-- What a reread under R77 serves. -/
inductive Reread where
  | l2
  | quiet
  /-- of every target of RST that an L3 reset holds -/
  | l3
deriving DecidableEq, Repr

/-- CFG: the loader and its registers (chapter 02). -/
structure Cfg where
  /-- CFG_LOAD_STAT.STATE; R79 -/
  state : LoadState := .options
  /-- the device being read; R74 -/
  dev : Device := .primary
  /-- CFG_LOAD_STAT.CODE_P; R79 -/
  codeP : BitVec 8 := 0
  /-- CFG_LOAD_STAT.CODE_A; R79 -/
  codeA : BitVec 8 := 0
  /-- CFG_LOAD_STAT.SRC; R79 -/
  src : Device := .primary
  /-- CFG_LOAD_STAT.SLOT, true for B; R79 -/
  slotB : Bool := false
  /-- CFG_ATTEMPTS[3:0]; R79 -/
  optP : BitVec 4 := 0
  /-- CFG_ATTEMPTS[7:4]; R79 -/
  optA : BitVec 4 := 0
  /-- CFG_ATTEMPTS[11:8]; R79 -/
  recP : BitVec 4 := 0
  /-- CFG_ATTEMPTS[15:12]; R79 -/
  recA : BitVec 4 := 0
  /-- CFG_FAIL_REC; R78 -/
  failRec : Word := 0
  /-- CFG_LOAD_TIME, microseconds; R78 -/
  loadTime : Word := 0
  /-- the timestamp at which the load began; R78 CFG_LOAD_TIME -/
  loadStart : Word64 := 0
  /-- option bytes 0 to 63 of the loaded device, CFG_OPT0 to CFG_OPT15; R78 -/
  opt : Bytes := List.replicate 64 0
  /-- CFG_PARAM_SEL[15:0]; R78 -/
  paramSel : BitVec 16 := 0
  /-- the tOPTR interval runs before the next option-byte attempt; R58 -/
  rereadWait : Bool := false
  /-- failed reads of the record being read; R61, R63 -/
  recFails : Nat := 0
  /-- records accepted so far on this device: TYPE and BODY, none for a skipped one; R62 -/
  recs : List (Option Nat × Bytes) := []
  /-- every byte from the start of IMAGE_HEADER, for the digest; R64 -/
  bytes : Bytes := []
  /-- bytes of the records passed so far in a reread; R77 -/
  pos : Nat := 0
  /-- the image in force, none before the first good load; R74 -/
  img : Option Image := none
  /-- the reread under R77 in progress -/
  reread : Option Reread := none
deriving DecidableEq, Repr

/-- The two requesters of the management space (R16). -/
inductive Requester where
  | core
  | jtag
deriving DecidableEq, Repr

/-- What the space keeps for one requester (R589). -/
structure BusPort where
  /-- the 64-bit read latch: the register's low-word address and the latched high word; R589 -/
  latch : Option (Nat × Word) := none
  /-- pending low words of 64-bit RW registers, by the low word's address; R589 -/
  lows : Tab Nat Word := []
  /-- MSR_VAL latch, twelve words; R560, R589 -/
  msrLatch : List Word := List.replicate 12 0
  /-- the last value a read returned, the model's own record of the access; R19 -/
  lastRead : Word := 0
deriving DecidableEq, Repr

/-- The access state of the two requesters (R589). -/
structure Bus where
  core : BusPort := {}
  jtag : BusPort := {}
  /-- EVR_ACCESS_ADDR, the offset of the last access error; R583 -/
  accessAddr : Word := 0
  /-- the model's own count of access errors since the last reset, by which a datagram knows that its word met one; R545 -/
  errors : Nat := 0
deriving DecidableEq, Repr

/-- The fixed facts of the part (R3, R5, R544): none of them changes. DESIGN CHOICE (log entry 2): the part this model
starts from is of stepping 0, fuse profile 1, grade C; a statement holds for every part. -/
structure Part where
  /-- MGT_CHIP_ID.STEP; R544 -/
  stepping : BitVec 8 := 0
  /-- fuse profile 2; R87 -/
  profile2 : Bool := false
  /-- temperature grade E; R4 -/
  gradeE : Bool := false
  /-- revoked public-key indices, fuses that only burn; R567 -/
  revoked : BitVec 4 := 0
deriving DecidableEq, Repr

end Sys2Proof.Machine
end

