-- ==== Sys2Proof/Blocks/Mg.lean ====
section
/-! DEFINITION. The management-domain blocks: event recorder (EVR), measurement registers (MSR), sensors, fans and debug
(MGT), update chain and agreement token (UPD); chapter 16. -/

namespace Sys2Proof.Machine

/-- The record of one event code (R551, R552). -/
structure EvRec where
  count : Word := 0
  supp : Word := 0
  /-- DETAIL and timestamp of the last raise; none before the first since a clear -/
  last : Option (Word × Word64) := none
  /-- the 32 bins of VALUE, by bin; a bin that is absent holds 0 -/
  bins : Tab Nat Word := []
  /-- minimum and maximum VALUE, each with its timestamp -/
  lo : Option (Word × Word64) := none
  hi : Option (Word × Word64) := none
  /-- raises suppressed since the code's previous ring entry (R554) -/
  suppRun : BitVec 16 := 0
  /-- tokens in the bucket in units of 1/50,000,000 at `stamp`; none is a full bucket (R553) -/
  tokens : Option (Nat × Word64) := none
deriving DecidableEq, Repr

/-- One entry of the event ring (R554), ESEQ being its place. -/
structure RingEntry where
  eseq : Nat
  code : BitVec 16
  supp : BitVec 16
  detail : Word
  value : Word
  time : Word64
deriving DecidableEq, Repr

/-- EVR: the event recorder. -/
structure Evr where
  /-- EVR_CTRL.FREEZE; R556 -/
  freeze : Bool := false
  /-- EVR_CTRL.TRIG_EN; R556 -/
  trigEn : Bool := false
  /-- EVR_TRIG_CODE; R583 -/
  trigCode : BitVec 16 := 0
  /-- EVR_SEL[15:0], the selected code; R583 -/
  selCode : BitVec 16 := 0
  /-- EVR_SEL[20:16], the selected bin; R583 -/
  selBin : BitVec 5 := 0
  /-- the records by code, at most 512 codes; R551 -/
  recs : Tab Nat EvRec := []
  /-- the previous raise of each code since its clear, of which VALUE counts the microseconds; R552 -/
  prev : Tab Nat Word64 := []
  /-- EVR_RATE written by software, by code: RATE and BURST; R553, R583 -/
  rates : Tab Nat (BitVec 16 × BitVec 16) := []
  /-- the ring, oldest first, the newest 32,768 entries; R554 -/
  ring : List RingEntry := []
  /-- ESEQ of the next entry; R554 -/
  nextSeq : Nat := 0
  /-- entries below this ESEQ have been spilled; EVR_RING_SPILLED; R555 -/
  spilled : Nat := 0
  /-- EVR_MISSED; R556 -/
  missed : Word := 0
  /-- EVR_LOST; R554 -/
  lost : Word := 0
  /-- EVR_RING_SEL; R583 -/
  ringSel : Word := 0
  /-- the log spill region: SSEQ of the next sector; R555 -/
  sseq : Nat := 0
  /-- entries already in the sector being written, none before the first sector; R555 -/
  sectorFill : Option Nat := none
deriving DecidableEq, Repr

/-- MSR: measurement registers and the digest engine. -/
structure Msr where
  /-- MSR0 to MSR15, 48 bytes each; R558 -/
  regs : List Bytes := List.replicate 16 (List.replicate 48 0)
  /-- extends of each register, MSR_STAT[31:16]; R583 -/
  counts : List (BitVec 16) := List.replicate 16 0
  /-- MSR_SEL[3:0]; R583 -/
  sel : BitVec 4 := 0
  /-- MSR_EXT_DATA0 to MSR_EXT_DATA11; R583 -/
  extData : List Word := List.replicate 12 0
  /-- MSR_STAT.BUSY: a software digest job runs; R561, R583 -/
  busy : Bool := false
  /-- MSR_STAT[1], job done; R583 -/
  jobDone : Bool := false
  /-- MSR_DIG_ADDR[21:0]; R583 -/
  digAddr : BitVec 22 := 0
  /-- MSR_DIG_LEN[22:0]; R583 -/
  digLen : BitVec 23 := 0
  /-- MSR_DIG_OUT0 to MSR_DIG_OUT11; R583 -/
  digOut : List Word := List.replicate 12 0
deriving DecidableEq, Repr

/-- One sensor (R547, R548). -/
structure Sensor where
  /-- MGT_SENS_VAL, signed -/
  val : Int := 0
  /-- lowest and highest reading since the last read, MGT_SENS_MINMAX; none before a reading -/
  minmax : Option (Int × Int) := none
  /-- MGT_SENS_WARN and MGT_SENS_CRIT as written, 0 for the default -/
  warnTh : Word := 0
  critTh : Word := 0
  /-- MGT_SENS_STAT -/
  warn : Bool := false
  crit : Bool := false
  fault : Bool := false
  /-- a LINEAR16 sensor's exponent, once VOUT_MODE has been read; R549 -/
  exp : Option Int := none
deriving DecidableEq, Repr

/-- MGT: the management core's own state. -/
structure Mgt where
  /-- MGT_STAT.RECOVERY; R76, R583 -/
  recovery : Bool := false
  /-- MGT_STAT.DEBUG; R546 -/
  debug : Bool := false
  /-- MGT_STAT[3], CHN_UP link; R583 -/
  linkUp : Bool := false
  /-- MGT_STAT[4], CHN_DN link; R583 -/
  linkDn : Bool := false
  /-- MGT_STAT[5], management Ethernet link; R583 -/
  linkEth : Bool := false
  /-- MGT_SENS_SEL[5:0]; R583 -/
  sensSel : BitVec 6 := 0
  /-- the sensors by index, absent ones never sampled; R547 -/
  sensors : Tab Nat Sensor := []
  /-- MGT_SENS_LATCH0; R548 -/
  latch0 : Word := 0
  /-- MGT_SENS_LATCH1; R548 -/
  latch1 : Word := 0
  /-- MGT_FAN_DUTY[6:0]; R550 -/
  duty : BitVec 7 := 0x64
  /-- MGT_FAN_TACH0 to MGT_FAN_TACH3; R583 -/
  tach : List (BitVec 16) := List.replicate 4 0
  /-- a fan failed: every fan at 100 % until the next L1 reset; R550 -/
  fanFailed : Bool := false
deriving DecidableEq, Repr

/-- A chain frame sent and not acknowledged (R563): CSEQ, frame bytes, resends so far. -/
structure ChainSent where
  cseq : Nat
  frame : Bytes
  resends : Nat := 0
deriving DecidableEq, Repr

/-- The state of the update unit (UPD_STAT.STATE; R583). -/
inductive UpdState where
  | idle
  | receiving
  | verifying
  | staged
  | actHold
  | confirming
deriving DecidableEq, Repr

/-- An image verified in a slot (R566, R569): its sequence, digest and signing key. -/
structure Verified where
  seq : Nat
  digest : Bytes
  keyId : Nat
deriving DecidableEq, Repr

/-- UPD: update chain and agreement token. -/
structure Upd where
  /-- UPD_STAT.STATE; R583 -/
  state : UpdState := .idle
  /-- UPD_STAT[7:4], last failure code; R583 -/
  fail : BitVec 4 := 0
  /-- UPD_STAT.UPDATING; R571 -/
  updating : Bool := false
  /-- UPD_STAT.DENY; R568 -/
  deny : BitVec 3 := 0
  /-- UPD_ID; R583 -/
  updId : Word := 0
  /-- UPD_BLOCKS[29:16], BLKS; R583 -/
  blks : Nat := 0
  /-- IMG_LEN of the update; R562 -/
  imgLen : Nat := 0
  /-- ARRAY_ID taken from the first block in recovery; R570 -/
  recArray : Option Nat := none
  /-- the blocks stored, by BLK; R565, UPD_BLOCKS[13:0] -/
  stored : Tab Nat Bytes := []
  /-- BLOCK bodies in the staging buffer that wait for CFG, oldest first; R575 -/
  staging : List Bytes := []
  /-- the image staged in the inactive slot and verified; R566 -/
  stagedImg : Option Verified := none
  /-- the verified image the other slot holds for a rollback; R569 -/
  other : Option Verified := none
  /-- UPD_PEND[0]; R583 -/
  pend : Bool := false
  /-- UPD_PEND[1], the old slot; R583 -/
  pendSlot : Bool := false
  /-- UPD_PEND[31:8], the old UPDATE_SEQ; R583 -/
  pendSeq : BitVec 24 := 0
  /-- an automatic activation of head 0 was let through by UPD_DONE; R568 -/
  autoReady : Bool := false
  /-- UPD_ACTIVATED was raised: head 1 says so in every later session; R568 -/
  confirmed : Bool := false
  /-- the pending activation is by rollback; R569 -/
  rollingBack : Bool := false
  /-- UPD_RESENDS; R583 -/
  resends : Word := 0
  /-- UPD_CRC_ERR; R583 -/
  crcErr : Word := 0
  /-- UPD_AGREE_STAT[0], a good token within three periods; R583 -/
  tokenSeen : Bool := false
  /-- UPD_AGREE_STAT[1], last comparison mismatched; R583 -/
  mismatch : Bool := false
  /-- UPD_AGREE_STAT[7:2], COUNT of the last token; R583 -/
  tokCount : BitVec 6 := 0
  /-- UPD_AGREE_STAT[31:8], TSEQ of the last token; R583 -/
  tokSeq : BitVec 24 := 0
  /-- UPD_AGREE_MISMATCH; R583 -/
  mismatches : Word := 0
  /-- AGREE_LOST was raised for the present loss; R572 -/
  lostRaised : Bool := false
deriving DecidableEq, Repr

/-- One chain port (R562, R563). -/
structure ChainPort where
  /-- CSEQ of the next BLOCK or TOKEN frame -/
  next : Nat := 0
  /-- frames sent and not acknowledged, oldest first -/
  sent : List ChainSent := []
  /-- treated as down after 16 resends until the link next comes up -/
  down : Bool := false
  /-- frames waiting for room among the 64 outstanding, oldest first -/
  waiting : List Bytes := []
deriving DecidableEq, Repr

/-- The chain ports and the origin's token count (R562, R571). -/
structure Chain where
  /-- CHN_UP -/
  up : ChainPort := {}
  /-- CHN_DN -/
  dn : ChainPort := {}
  /-- TSEQ of the origin's next token; R571 -/
  tseq : Nat := 0
deriving DecidableEq, Repr

end Sys2Proof.Machine
end

