-- ==== Sys2Proof/Blocks/Host.lean ====
section
/-! DEFINITION. The host fabric (FAB) and the queue-pair contexts (QPC); chapter 04. -/

namespace Sys2Proof.Machine

/-- The position of a packet in its RC message. -/
inductive PktPos where
  | first
  | middle
  | last
  | only
deriving DecidableEq, Repr

/-- What the head reads of an inbound RoCEv2 packet's standard headers. -/
structure RoceHdr where
  /-- sub-port, 4 × port + sub-port -/
  sub : BitVec 4
  /-- source IP address, IPv4 written as an IPv4-mapped IPv6 address -/
  src : BitVec 128
  /-- destination QPN of the BTH -/
  qpn : BitVec 24
  psn : BitVec 24
  /-- the BTH opcode names transport RC -/
  rc : Bool
  icrcOk : Bool
  /-- the IP header shows congestion experienced -/
  ce : Bool
deriving DecidableEq, Repr

/-- What the head reads of the layers below a LOT packet. -/
structure LotHdr where
  sub : BitVec 4
  src : BitVec 128
  ce : Bool
deriving DecidableEq, Repr

/-- A REQ received on QP1 (R132, R133): what the head reads of it. -/
structure ConnReq where
  sub : BitVec 4
  src : BitVec 128
  /-- the remote communication ID and QPN -/
  commId : BitVec 32
  qpn : BitVec 24
  /-- the starting PSN of the host's requests -/
  psn : BitVec 24
  /-- path MTU in bytes -/
  pmtu : Nat
  /-- responder resources and initiator depth asked -/
  respRes : Nat
  initDepth : Nat
  /-- the service asked is RC, with no SRQ -/
  rc : Bool
  serviceId : BitVec 64
  priv : Bytes
  /-- the host's MAC address, UDP source port and partition key, which the connection record carries (R613) -/
  mac : BitVec 48
  sport : BitVec 16
  pkey : BitVec 16
deriving DecidableEq, Repr

/-- An inbound packet on a connection, as it may wait in a miss buffer (R149). -/
inductive Inbound where
  | send (h : RoceHdr) (pos : PktPos) (payload : Bytes)
  | write (h : RoceHdr) (pos : PktPos) (rkey : BitVec 32) (va : BitVec 64) (payload : Bytes)
  | writeImm (h : RoceHdr) (pos : PktPos) (rkey : BitVec 32) (va : BitVec 64) (imm : BitVec 32) (payload : Bytes)
  | readReq (h : RoceHdr) (rkey : BitVec 32) (va : BitVec 64) (len : BitVec 32)
  | ack (h : RoceHdr)
  | nak (h : RoceHdr) (code : BitVec 8) (delay : BitVec 32)
  | cnp (h : RoceHdr)
  | unsupported (h : RoceHdr)
  | lot (h : LotHdr) (raw : Bytes)
deriving DecidableEq, Repr

/-- What an outbound packet that needs an acknowledgement carries. -/
inductive OutBody where
  /-- an RC SEND only or a LOT SEND: a head message (R172) -/
  | send (msg : Bytes)
  /-- an RC RDMA WRITE packet to the host (R182) -/
  | write (pos : PktPos) (hkey : Nat) (addr : Nat) (data : Bytes)
  /-- a LOT DATA packet (R137): message length, key, address, payload, FINAL -/
  | data (msgLen : Nat) (hkey : Nat) (addr : Nat) (data : Bytes) (final : Bool)
  /-- an RC NAK of takeover needs none; a LOT OPEN of replication does (R473) -/
  | lotOpen (body : Bytes)
  /-- after a takeover: the part-th packet of a block of a READ that is read again to send it (R447), by the READ's acceptance number -/
  | again (acc blk part : Nat)
deriving DecidableEq, Repr

/-- A packet as it goes on the wire of a sub-port: an RC packet to a remote queue pair, or a LOT packet to a host address. -/
inductive OutWire where
  | rc (qpn psn : Nat) (body : OutBody) (retx : Bool)
  | readResp (qpn psn : Nat) (pos : PktPos) (data : Bytes)
  | lot (dst : Nat) (raw : Bytes)
  /-- an acknowledgement with its MSN, a NAK by its code, an RNR NAK with its delay, a CNP -/
  | ack (qpn psn msn : Nat)
  | nak (qpn psn code : Nat)
  | rnr (qpn psn delay : Nat)
  | cnp (qpn : Nat)
deriving DecidableEq, Repr

/-- FAB: ports, counters and addresses (R160). -/
structure Fab where
  /-- FAB_CTRL[3:0], enable of HP0 to HP3; R160 -/
  ctrl : BitVec 4 := 0xF
  /-- FAB_PORT_STAT.SUB_UP; R160 -/
  subUp : BitVec 16 := 0
  /-- sub-ports in auto-negotiation or link training, FAB_PORT_STAT.TRAINING by port; R129, R160 -/
  training : BitVec 16 := 0
  /-- FAB_PORT_LATCH[15:0]; R160 -/
  latch : BitVec 16 := 0
  /-- FAB_CNT_SEL: sub-port [3:0], counter [11:8]; R160 -/
  cntSel : Word := 0
  /-- the FAB counters by sub-port and counter number; R160 -/
  cnt : Tab (Nat × Nat) Word64 := []
  /-- FAB_RETRY_EXCEEDED; R160 -/
  retryExceeded : Word := 0
  /-- FAB_CNP_RX; R160 -/
  cnpRx : Word := 0
  /-- FAB_CNP_TX; R160 -/
  cnpTx : Word := 0
  /-- FAB_ADDR_TAKEN[15:0]; R157, R160 -/
  addrTaken : BitVec 16 := 0
  /-- taken addresses that wait for their sub-port to come up; R157 -/
  addrWait : BitVec 16 := 0
  /-- announcements of taken addresses still to repeat, by sub-port: repeats made; R157 -/
  announces : Tab Nat Nat := []
  /-- sub-ports stopped by link-level pause; R126 -/
  paused : BitVec 16 := 0
  /-- priorities stopped by PFC, by sub-port; R126 -/
  pfc : Tab Nat (BitVec 8) := []
  /-- XOFF sent on a host port and not yet ended; R150 -/
  xoff : BitVec 4 := 0
  /-- echo replies in the present second by sub-port: its start and their count; R127 -/
  echo : Tab Nat (Word64 × Nat) := []
  /-- MISS_DROP was raised in the present 1 ms, by host port: its start; R156 table -/
  dropWin : Tab Nat Word64 := []
  /-- packets to sub-ports that pause or PFC stops, oldest first: sub-port and packet, sent when the stop ends; R126 -/
  stopped : List (Nat × OutWire) := []
deriving DecidableEq, Repr

/-- The states of a context (R147), encoded 0 to 4. -/
inductive CtxState where
  | closed
  | connecting
  | ready
  | draining
  | error
deriving DecidableEq, Repr

/-- An outbound packet sent and not acknowledged (R153). -/
structure OutPkt where
  /-- PSN or packet number -/
  num : Nat
  /-- message number: MSN or LOT MSG -/
  msg : Nat
  body : OutBody
  sub : Nat
  /-- fast retransmission already made (R141) -/
  fast : Bool := false
  /-- the window and command bookkeeping this packet ends, if any: a head response closes nothing further -/
  rnrWait : Bool := false
deriving DecidableEq, Repr

/-- An inbound LOT DATA message tracker (R138). -/
structure Tracker where
  /-- slots marked received -/
  slots : List Nat := []
  bytes : Nat := 0
  final : Bool := false
  msgLen : Nat
  mkey : Nat
deriving DecidableEq, Repr

/-- What a completed LOT message delivers to CMD in MSG order (R139). -/
inductive LotDone where
  /-- a DATA message for a window key -/
  | data (mkey : Nat) (bytes : Nat)
  /-- a capsule -/
  | capsule (raw : Bytes)
  /-- a SEND refused under R172: delivered with no capsule -/
  | nothing
deriving DecidableEq, Repr

/-- An event merge interval of one code on one connection (R156). -/
structure Merge where
  /-- raises held since the interval began -/
  held : Nat := 0
  /-- DETAIL and TIME of the first held raise -/
  detail : Word := 0
  time : Word64 := 0
deriving DecidableEq, Repr

/-- A checkpoint record sent and not confirmed (R152). -/
structure CkptSent where
  seq : Nat
  rxNext : Nat
  /-- the received LOT packets beyond rxNext at that time -/
  rxSet : List Nat
  rxMsg : Nat
  time : Word64
deriving DecidableEq, Repr

/-- A queue-pair context (R146, R147). -/
structure Ctx where
  /-- generation, 1 to 63; R146 -/
  gen : Nat := 1
  state : CtxState := .connecting
  lot : Bool := false
  /-- the host address the connection comes from -/
  src : Nat := 0
  /-- sub-port of an RC connection -/
  sub : Nat := 0
  /-- LOT: the peer's addresses, index 0 to NADDR − 1; R135 -/
  addrs : List Nat := []
  /-- RC: remote QPN. LOT: PEER_CONN; R152 -/
  peer : Nat := 0
  /-- the DREQ, CM exchange identity of an RC connection -/
  commId : Nat := 0
  /-- RC: host MAC, UDP source port the head sends with, partition key; R613 -/
  mac : Nat := 0
  sport : Nat := 0
  pkey : Nat := 0
  /-- PORT of the HOST_ADDR entry the connection uses; R613 -/
  localPort : Nat := 0
  /-- Munatra queue: DEPTH granted, EVENTS granted, PULL granted, HOST_ID; R169 -/
  depth : Nat := 0
  events : Bool := false
  pull : Bool := false
  hostId : Nat := 0
  /-- RC: expected PSN. LOT: lowest packet number not received; R152 -/
  rxNext : Nat := 0
  /-- LOT packets received beyond rxNext -/
  rxSet : List Nat := []
  /-- RC: MSN. LOT: next message to complete; R152 -/
  rxMsg : Nat := 0
  /-- a sequence-error NAK is out for the present gap; R134 -/
  gapNak : Bool := false
  /-- what the host has been told: RC expected PSN, LOT lowest not received -/
  acked : Nat := 0
  /-- LOT: packets beyond `acked` the host may be told of; RC: the MSN it may be told -/
  ackedSet : List Nat := []
  ackedMsg : Nat := 0
  /-- acceptances not yet covered by an acknowledgement -/
  ackOwed : Bool := false
  /-- the RDMA WRITE message in progress: key and next offset; RC middle and last packets carry no RETH -/
  wrCur : Option (Nat × Nat) := none
  /-- RDMA READ requests outstanding, oldest first: PSN, window key, offset, length left; R130, R183 -/
  reads : List (Nat × Nat × Nat × Nat) := []
  /-- LOT trackers by MSG; R138 -/
  trackers : Tab Nat Tracker := []
  /-- completed LOT messages not yet delivered in order, by MSG; R139 -/
  done : Tab Nat LotDone := []
  /-- outbound: next PSN or packet number, next message number, oldest not acknowledged; R152 -/
  txNext : Nat := 0
  txMsg : Nat := 0
  txUna : Nat := 0
  sent : List OutPkt := []
  /-- retries made without progress, current timeout in µs (0: no timer), RNR retries; R153, R154 -/
  retries : Nat := 0
  timeout : Nat := 0
  rnrs : Nat := 0
  /-- REPs sent and unanswered; R147 -/
  reps : Nat := 0
  /-- per sub-port sending rate in units of 0.01 % of the sub-port rate; R155 -/
  rates : Tab Nat Nat := []
  /-- the last CNP taken and the last CNP sent; R155 -/
  cnpAt : Option Word64 := none
  cnpSentAt : Option Word64 := none
  /-- event merge intervals by code; R156 -/
  merges : Tab Nat Merge := []
  /-- checkpointing: changed since the last record, records numbered, records in flight, last confirmed; R152 -/
  changed : Bool := true
  ckptSeq : Nat := 0
  ckpts : List CkptSent := []
  ckptConf : Nat := 0
  /-- in the on-chip cache; R148 -/
  cached : Bool := true
  /-- a DREQ or CLOSE waits for packets in a miss buffer; R162 -/
  closeWait : Bool := false
  /-- lost to an uncorrectable error: answers nothing until the index is used anew; R151 -/
  lost : Bool := false
  /-- LOT: unanswered timeouts by host address index; R156 LOT_PATH_DOWN -/
  pathMiss : Tab Nat Nat := []
  /-- the replication target this outbound connection serves, if the head opened it; R473 -/
  replTarget : Option Nat := none
  /-- taken over, and nothing outbound leaves before its resends (R447) -/
  held : Bool := false
  /-- taken over from the partner: its packets are checked against the partner's window table first (R447) -/
  taken : Bool := false
deriving DecidableEq, Repr

/-- QPC: the context space (R146 to R152). -/
structure Qpc where
  /-- contexts by index, every one not Closed; R146 -/
  ctx : Tab Nat Ctx := []
  /-- the last generation used of each index; R146 -/
  gens : Tab Nat Nat := []
  /-- the cache, oldest first, with each context's second-chance bit; R148 -/
  cache : List (Nat × Bool) := []
  /-- context fetches running, oldest first; R149 -/
  fetching : List (Nat × Word64) := []
  /-- packets waiting in the miss buffers, in arrival order: host port, context index, packet; R149 -/
  miss : List (Nat × Nat × Inbound) := []
  /-- QPC_HITS; R160 -/
  hits : Word64 := 0
  /-- QPC_MISSES; R160 -/
  misses : Word64 := 0
  /-- QPC_FETCH_MAX; R160 -/
  fetchMax : Word := 0
  /-- QPC_MISS_DROP0 to 3; R160 -/
  drops : List Word := List.replicate 4 0
  /-- QPC_CTX_SEL[23:0]; R160 -/
  ctxSel : BitVec 24 := 0
  /-- QPC_CKPT_LAG; R160 -/
  ckptLag : Word := 0
deriving DecidableEq, Repr

end Sys2Proof.Machine
end

