-- ==== Sys2Proof/Blocks/Cmd.lean ====
section
/-! DEFINITION. The Munatra command unit (CMD) and the ingest unit (ING): commands, windows, orphans, the write buffer and
the dirty account; chapters 05, 06. -/

namespace Sys2Proof.Machine

/-- Where an outstanding command stands. -/
inductive Phase where
  /-- its capsule is accepted and its opcode's step has not run -/
  | accepted
  /-- checked, waiting under FENCE, R188, R189 or R191 to start -/
  | waiting
  /-- started: windows are named, or blocks are read, or its map change is on its way -/
  | moving
  /-- every window is complete: only the conditions of R36 or R38 are open -/
  | finishing
deriving DecidableEq, Repr

/-- A block of a read (R182, R184). -/
inductive RdState where
  /-- read from the sleds or the buffer and not yet verified -/
  | pending
  /-- verified, waiting for the blocks before it -/
  | ready (data : Bytes)
  | sent
  /-- not sent: the stage code, or none for MEDIA_UNRECOVERED (R187) -/
  | failed (stage : Option Nat)
  /-- its key slot stopped being usable (R269) -/
  | noKey
deriving DecidableEq, Repr

/-- An outstanding command (R171). -/
structure Cmd where
  /-- head-wide acceptance number; R189 -/
  acc : Nat
  qpn : Nat
  cid : Nat
  op : Nat
  fence : Bool := false
  pull : Bool := false
  /-- volume ID and generation as in the capsule -/
  vol : Nat := 0
  lba : Nat := 0
  take : Nat := 0
  len : Nat := 0
  hkey : Nat := 0
  haddr : Nat := 0
  param : Nat := 0
  phase : Phase := .accepted
  /-- the raw capsule, for the checks its opcode's step makes -/
  raw : Bytes := []
  /-- windows named so far, windows completed or expired so far, bytes named -/
  named : Nat := 0
  closedWins : Nat := 0
  namedBytes : Nat := 0
  /-- bytes received in good windows plus bytes placed in bad ones; R192 -/
  rxBytes : Nat := 0
  /-- the failure known so far: STATUS, DETAIL, RESULT; R192, R222 -/
  fail : Option (Nat × Nat × Nat) := none
  /-- blocks of a WRITE that a later-accepted command has already replaced; R189 rule 1 -/
  hidden : List Nat := []
  /-- blocks whose A1 holds, and blocks failed; R218, R222 -/
  blocksIn : List Nat := []
  blocksBad : List Nat := []
  /-- segments teed and not receipted; A2, R215 -/
  segsOwed : List Nat := []
  /-- the checkpoint number that must be confirmed; A3, R36 -/
  needCkpt : Option Nat := none
  /-- timestamp of the final data packet; R206 CMD_LAT_MAX -/
  finalAt : Option Word64 := none
  /-- blocks of a read by number; R182 -/
  reads : List RdState := []
  /-- bytes sent to the host -/
  sentBytes : Nat := 0
  /-- the LOG_SEQ of the map change whose receipt or durability this command waits for (R175, R189 rule 4) -/
  waitSeq : Option Nat := none
  /-- a FLUSH: the acceptance numbers of the completed writes it covers (R189 rule 4) -/
  waitAccs : List Nat := []
  /-- the capsule's PSN or MSG, and whether a command record of it has gone to the partner; R439 -/
  capSeq : Nat := 0
  recorded : Bool := false
  /-- accepted during a claim round or a handover; R52, R202 -/
  inRound : Bool := false
  /-- the outcome of a command that is over, until its response may be sent (R44, R52, R194): STATUS, DONE_LEN, DETAIL, RESULT,
  EXTRA -/
  held : Option (Nat × Nat × Nat × Nat × Bytes) := none
  /-- this command's queue pair entered Error; R196 -/
  orphan : Bool := false
  /-- taken over from the partner; R448 -/
  takenOver : Bool := false
deriving DecidableEq, Repr

/-- A window (R142). -/
structure Window where
  /-- KEY[31:20] -/
  tag : Nat
  valid : Bool := true
  /-- the command's acceptance number -/
  acc : Nat
  seq : Nat
  wlen : Nat
  /-- CMD_OFF -/
  off : Nat
  /-- read permission, for a pull window; else write permission -/
  readPerm : Bool := false
  last : Bool := false
  placed : Nat := 0
  /-- bytes arrived beyond the end, or the completion flag taken -/
  beyond : Bool := false
  complete : Bool := false
  /-- segments reserved in the descriptor budget, and teed so far; R230 -/
  reserved : Nat := 0
  used : Nat := 0
deriving DecidableEq, Repr

/-- An orphan record (R196). -/
structure Orphan where
  qpn : Nat
  cid : Nat
  status : Nat
  op : Nat
  time : Word64
  src : Nat
  hostId : Nat
deriving DecidableEq, Repr

/-- CMD: commands, windows, orphans and registers (R206). -/
structure CmdU where
  /-- the outstanding commands, in acceptance order; R171, R189 -/
  cmds : List Cmd := []
  /-- the next acceptance number; R189 -/
  nextAcc : Nat := 0
  /-- windows by index; R142 -/
  wins : Tab Nat Window := []
  /-- the last tag used of each window index; R142 -/
  tags : Tab Nat Nat := []
  /-- the next window index tried; R142 -/
  nextWin : Nat := 0
  /-- orphan records, oldest first; R196 -/
  orphans : List Orphan := []
  /-- CMD_ORPHAN_DROP; R206 -/
  orphanDrop : Word := 0
  /-- CMD_STAT_SEL[7:0]; R206 -/
  statSel : BitVec 8 := 0
  /-- completions by status; CMD_STAT_CNT; R206 -/
  statCnt : Tab Nat Word64 := []
  /-- CMD_HIT; R206 -/
  hits : Word64 := 0
  /-- CMD_LAT_MAX; R206 -/
  latMax : Word := 0
  /-- CMD_RELEASE_DISC; R206 -/
  releaseDisc : Word := 0
  /-- CMD_TR_HOLD.DIRTY; R228 -/
  holdDirty : Bool := false
  /-- volumes held at their WB_SHARE; CMD_TR_HOLD.SHARE; R228 -/
  holdShare : List Nat := []
deriving DecidableEq, Repr

/-- The block tag (R209), as numbers. -/
structure BlockTag where
  k : Nat := 0
  pos : Nat := 0
  form : Nat := 0
  vol : Nat := 0
  clen : Nat := 4096
deriving DecidableEq, Repr

/-- Where a logical block belongs: a block of a block volume, or a block of a frame of a take. -/
inductive BlkAddr where
  | block (vol lba : Nat)
  | frame (vol take frame blk : Nat)
deriving DecidableEq, Repr

/-- A logical block in the write buffer (R210 stage 6). -/
structure BufBlk where
  /-- the command's acceptance number and the block's number in it -/
  acc : Nat
  num : Nat
  /-- the connection and CID of its command, for RELEASE and REPAIR_REQ; R436 -/
  qpn : Nat := 0
  cid : Nat := 0
  /-- the 4 KiB slot of the write-buffer region it lies in; R212 -/
  slot : Nat := 0
  addr : BlkAddr
  tag : BlockTag
  /-- the plaintext the media form stands for -/
  plain : Bytes
  /-- the media form's sectors of 512 bytes -/
  sectors : List Bytes
  /-- a duplicate holds a reference to this map word instead of a media form; R211 -/
  ref : Option Nat := none
  /-- the command has completed with SUCCESS: the block is readable and newest by acceptance order -/
  visible : Bool := false
  /-- a frame's block: the key of its draft, the acceptance number of its FRAME_APPEND, or a replicated frame's own -/
  draft : Nat := 0
  /-- the strip place the flush gave it: map word -/
  place : Option Nat := none
  /-- programmed with its parity -/
  programmed : Bool := false
  /-- LOG_SEQ of the log block that carries its map change, once entered; R334 -/
  seqAt : Option Nat := none
  /-- a command accepted later and completed covers its address (R189 rule 1), or its own command failed: never mapped -/
  dead : Bool := false
  /-- a repair under R224 is running: fetches made -/
  repair : Option Nat := none
deriving DecidableEq, Repr

/-- A payload fragment accepted for a window and not yet assembled (R210 stage 2). -/
structure Frag where
  acc : Nat
  off : Nat
  data : Bytes
deriving DecidableEq, Repr

/-- A tee segment (R213) queued, parked or sent: its number, command and bytes (descriptor and payload). -/
structure Seg where
  num : Nat
  acc : Nat
  bytes : Bytes
deriving DecidableEq, Repr

/-- A segment in the shadow kept for the partner (R229): its descriptor fields and payload. -/
structure ShadowSeg where
  seg : Nat
  qpn : Nat
  cid : Nat
  vol : Nat
  flags : Nat
  off : Nat
  partialCrc : Nat
  data : Bytes
  /-- an uncorrectable DRAM error struck it, and the partner's copy is asked for; R500 -/
  bad : Bool := false
deriving DecidableEq, Repr

/-- ING: tee, carry checks, write buffer and dirty account (R232). -/
structure Ing where
  /-- fragments accepted and not yet through the engines; R210 -/
  frags : List Frag := []
  /-- the write buffer, oldest first; R210 stage 6 -/
  buf : List BufBlk := []
  /-- SEG of the next segment; R213 -/
  nextSeg : Nat := 0
  /-- ING_TEE_SEG: SEG of the last segment queued; R232 -/
  lastSeg : Word := 0
  /-- the tee backlog, oldest first; R216 -/
  backlog : List Seg := []
  /-- TEE_BACKLOG was raised for the present crossing; R216 -/
  alarm : Bool := false
  /-- segments sent and not receipted; R215 -/
  teed : List Seg := []
  /-- ING_TEE_STAT.SEGFAIL; R232 -/
  segfail : Bool := false
  /-- ING_TEE_LAT_MAX; R232 -/
  teeLat : Word := 0
  /-- dirty count in 4 KiB blocks, by volume; R227 -/
  dirty : Tab Nat Nat := []
  /-- ING_DIRTY_PEAK[20:0]; R232 -/
  dirtyPeak : Nat := 0
  /-- dirty blocks of each command still counted; R227 -/
  dirtyBy : Tab Nat Nat := []
  /-- descriptor-budget bytes reserved, by acceptance number and window number; R230 -/
  budget : Tab (Nat × Nat) Nat := []
  /-- extra descriptor bytes taken from the unreserved budget, by command; R230 -/
  extra : Tab Nat Nat := []
  /-- the partner's shadow: segments held for its dirty data; R229 -/
  shadow : List ShadowSeg := []
  /-- ING_FAIL_SEL[7:0]; R232 -/
  failSel : BitVec 8 := 0
  /-- ING_FAIL_CNT by stage code; R232 -/
  failCnt : Tab Nat Word := []
  /-- ING_FAIL_LAST; R232 -/
  failLast : Word := 0
  /-- ING_FAIL_TIME; R232 -/
  failTime : Word64 := 0
  /-- ING_REPAIRED; R232 -/
  repaired : Word := 0
  /-- ING_UNRECOVERED; R232 -/
  unrecovered : Word := 0
  /-- ING_DEDUP_MISMATCH; R232 -/
  dedupMismatch : Word := 0
deriving DecidableEq, Repr

end Sys2Proof.Machine
end

