-- ==== Sys2Proof/Blocks/Tx.lean ====
section
/-! DEFINITION. What the head sends: the model's own record of every packet, frame, transaction, reply and pin the head
drives, newest first. Nothing in the model reads it; statements read it to say what goes out. -/

namespace Sys2Proof.Machine

/-- What the head sends on a RoCEv2 queue pair (R130). -/
inductive RoceOut where
  | body (b : OutBody) (retx : Bool)
  /-- RDMA READ response: position, payload -/
  | readResp (pos : PktPos) (data : Bytes)
  | ack (msn : Nat)
  /-- NAK by its code: 0 sequence error, 1 invalid request, 2 remote access error -/
  | nak (code : Nat)
  /-- RNR NAK with its delay in µs (R134) -/
  | rnr (delay : Nat)
  | cnp
deriving DecidableEq, Repr

/-- Frames of the host port that belong to no connection (R126, R127, R157). -/
inductive EthOut where
  | arpReply (ip dstMac : Nat)
  | naReply (ip dst : Nat)
  | echoReply (ip dst : Nat) (data : Bytes)
  | gratuitousArp (mac ip : Nat)
  | unsolicitedNa (mac ip : Nat)
  | xoff (prio : Nat)
  | xon (prio : Nat)
  /-- auto-negotiation starts on the sub-port (R129) -/
  | autoneg
deriving DecidableEq, Repr

/-- Communication-management messages of QP1 (R133). -/
inductive CmOut where
  | rep (commId qpn : Nat) (priv : Bytes) (respRes initDepth : Nat)
  | rej (commId : Nat)
  | drep (commId : Nat)
deriving DecidableEq, Repr

/-- What the head does to a serial memory (R7, R58, R60, R555, R565). -/
inductive SpiOut where
  | readOptions
  | readImage (op dummy mode div : Nat) (off : Nat)
  | enter4
  | eraseSector (off : Nat)
  | program (off : Nat) (data : Bytes)
  | readBack (off len : Nat)
deriving DecidableEq, Repr

/-- The output pins the model names. -/
inductive PinOut where
  | thermTripN (low : Bool)
  | ddrResetN (low : Bool)
  | fanPwm (fan duty : Nat)
deriving DecidableEq, Repr

/-- One thing the head sends. -/
inductive Tx where
  | roce (sub qpn psn : Nat) (what : RoceOut)
  /-- a LOT packet, header to PCRC, to a host address -/
  | lot (sub dst : Nat) (raw : Bytes)
  | eth (sub : Nat) (what : EthOut)
  | cm (sub : Nat) (what : CmOut)
  | mgmt (raw : Bytes)
  /-- a chain frame's payload, on CHN_DN if `dn` -/
  | chain (dn : Bool) (raw : Bytes)
  | spi (dev : Device) (what : SpiOut)
  /-- an SMBus read-word of a board sensor -/
  | smbus (bus addr cmd : Nat)
  | pin (what : PinOut)
  /-- a flit on a sled port (R404) -/
  | osl (port : Nat) (raw : Bytes)
  /-- what a sled port does below the flits: 1 retrain, 2 leave rest, 3 electrical idle, 4 detect (R406, R418, R422) -/
  | oslCtl (port : Nat) (kind value : Nat)
  /-- a partner-link frame -/
  | pl (raw : Bytes)
  /-- a pulse frame -/
  | pulse (raw : Bytes)
  /-- a DDR command on a channel and rank -/
  | ddr (channel rank : Nat) (op : Nat)
deriving DecidableEq, Repr

end Sys2Proof.Machine
end

