-- ==== Sys2Proof/Blocks/Prt.lean ====
section
/-! DEFINITION. The partner unit (PRT): partner link, pulse link, heartbeat, claim rounds, the Cloak's shadow and takeover;
chapter 12. -/

namespace Sys2Proof.Machine

/-- The pairing states (R32), encoded 0 to 3 in HB_STATE.PAIR. -/
inductive Pair where
  | joining
  | paired
  | lone
  | fenced
deriving DecidableEq, Repr

/-- The acknowledged message classes of the partner link (R435). -/
inductive PlClass where
  | ckpt
  | jnl
  | map
  /-- segments, which ING keeps until their receipt -/
  | mirror
deriving DecidableEq, Repr

/-- What a sent message's acknowledgement tells the head. -/
inductive PlTag where
  /-- checkpoint records: context index and CKPT_SEQ (R152) -/
  | ckpts (l : List (Nat × Nat))
  /-- a stripe record or span entry of the journal, by its record number (R373) -/
  | jnl (rec : Nat)
  /-- map changes up to a LOG_SEQ (R441) -/
  | mapUpTo (logSeq : Nat)
  | none
deriving DecidableEq, Repr

/-- A message sent and not acknowledged (R435). -/
structure PlMsg where
  cseq : Nat
  mtype : Nat
  body : Bytes
  /-- the frame that carried it last -/
  fseq : Nat
  tag : PlTag := .none
deriving DecidableEq, Repr

/-- A checkpoint-class message received and waiting for its SEG_FENCE (R436). -/
inductive CkptMsg where
  | qp (recs : Bytes)
  | cmd (recs : Bytes)
  | win (recs : Bytes)
  | out (recs : Bytes)
  | conn (recs : Bytes)
  | hello (body : Bytes)
  /-- one control word: code and its seven argument bytes -/
  | control (code : Nat) (args : Bytes)
deriving DecidableEq, Repr

/-- One class's send and receive counters (R435). -/
structure PlChan where
  next : Nat := 0
  sent : List PlMsg := []
  /-- CSEQ expected next from the partner -/
  rxNext : Nat := 0
deriving DecidableEq, Repr

/-- A checkpoint record the Cloak holds (R152). -/
structure ShCkpt where
  state : Nat
  lot : Bool
  rxNext : Nat
  rxMsg : Nat
  txNext : Nat
  txUna : Nat
  peer : Nat
  seq : Nat
  /-- SEG_FENCE of the message that brought it; R436 -/
  fence : Nat := 0
deriving DecidableEq, Repr

/-- A command record the Cloak holds (R439). -/
structure ShCmd where
  cstate : Nat
  vol : Nat
  acc : Nat
  capSeq : Nat
  op : Nat
  status : Nat
  wins : Nat
  lba : Nat
  param : Nat
  take : Nat
  len : Nat
  hkey : Nat
  haddr : Nat
  /-- a checkpoint confirmed after the record reached CSTATE 2 (R448) -/
  ckptAfter : Bool := false
  /-- blocks that RELEASE entries have covered (R436, R439); of a TRIM, blocks whose map change has come -/
  released : List Nat := []
  /-- read-data runs recorded so far (R440) -/
  runs : Nat := 0
deriving DecidableEq, Repr

/-- A window record the Cloak holds. -/
structure ShWin where
  wstate : Nat
  wkey : Nat
  wlen : Nat
  off : Nat
deriving DecidableEq, Repr

/-- An outbound record the Cloak holds (R440). -/
structure ShOut where
  qpn : Nat
  okind : Nat
  oseq : Nat
  ocount : Nat
  cid : Nat
  body : Bytes
  /-- of a read-data run: how many runs of its command went before -/
  run : Nat := 0
deriving DecidableEq, Repr

/-- Why a claim round runs (PRT_ROUND_STAT.CAUSE). -/
inductive RoundCause where
  | partnerLost
  | linkLost
  | given
  | solo
deriving DecidableEq, Repr

/-- A claim round in progress (R444). -/
structure Round where
  cause : RoundCause
  epoch : Nat
  /-- the second part, after a tie -/
  tie : Bool := false
  /-- sleds whose CLAIM has not completed -/
  waiting : List Nat
  granted : List Nat
  /-- a HANDOVER asked for the volumes: a planned handover (R452) -/
  planned : Bool := false
deriving DecidableEq, Repr

/-- Where a join or handback stands (R450, R451). -/
inductive JoinStep where
  | none
  /-- R450 step 1: both HELLOs agree; head 1 waits for CLAIMED of head 0 -/
  | waitTurn
  /-- R450 steps 2 and 3: this head's join claims are out -/
  | claiming
  /-- R450 step 4: recovery runs -/
  | recovering
  /-- step 4 done: SYNCED sent -/
  | synced
  /-- R451: this head, Joining, is being filled -/
  | filled
  /-- R451 step 3: this head, Lone, fills the partner -/
  | filling
  /-- R451 steps 3 and 4: the Lone head's join claims are out -/
  | handing
  /-- R451 step 5: the joining head's claims are out -/
  | taking
deriving DecidableEq, Repr

/-- PRT: partner link, pulse, heartbeat, claim round and the Cloak's shadow. -/
structure Prt where
  /-- PRT_STAT.PAIR; R443 -/
  pair : Pair := .joining
  /-- PRT_STAT.GROUPS; R432, R461 -/
  groups : BitVec 4 := 0
  /-- the head's own SESSION while one is up, PRT_STAT.PL_UP; R434 -/
  session : Option (BitVec 32) := none
  /-- FSEQ of the next frame; R434 -/
  fseq : Nat := 0
  /-- the partner's SESSION last seen; R434 -/
  peerSession : Option (BitVec 32) := none
  /-- highest FSEQ of the partner's session received with every earlier one, FACK; R434 -/
  fack : Option Nat := none
  /-- FSEQs received beyond a gap; R435 -/
  ahead : List Nat := []
  /-- checkpoint class; R435 -/
  ckpt : PlChan := {}
  /-- journal class; R435 -/
  jnl : PlChan := {}
  /-- map class; R435 -/
  map : PlChan := {}
  /-- reply class: FILL and REPAIR messages sent; R435 -/
  reply : PlChan := {}
  /-- the highest SEG of the partner receipted together with every earlier one, SEG_ACK; R434 -/
  segAck : Option Nat := none
  /-- SEGs receipted beyond a gap; R435 -/
  segAhead : List Nat := []
  /-- SEG_ACK as the partner last reported it; R434 -/
  segAcked : Option Nat := none
  /-- checkpoint-class messages received in order and held by their SEG_FENCE, oldest first; R436 -/
  fenceWait : List (Nat × Nat × CkptMsg) := []
  /-- own heartbeat count HB_SEQ; R437 -/
  hbSeq : BitVec 32 := 0
  /-- the partner's last HB_SEQ; PRT_PARTNER_HB[31:8]; R442 -/
  peerHb : BitVec 32 := 0
  /-- HB_SEQ last seen on the partner link and on the pulse link since the partner was last lost; R442 -/
  hbPl : Option Nat := none
  hbPulse : Option Nat := none
  /-- the partner's last HB_STATE; PRT_PARTNER_HB[7:0] -/
  peerState : BitVec 8 := 0
  /-- a good heartbeat was ever seen since the head entered Joining; R449 -/
  peerSeen : Bool := false
  /-- periods missed in a row on the partner link and on the pulse link; R442 -/
  missPl : Nat := 0
  missPulse : Nat := 0
  /-- PL_DOWN, PULSE_DOWN and PARTNER_LOST were raised for the present loss; R442 -/
  plDown : Bool := false
  pulseDown : Bool := false
  lostRaised : Bool := false
  /-- PRT_HB_MISS; R461 -/
  hbMiss : Word := 0
  /-- PRT_STAT.HOLD; R44 -/
  hold : Bool := false
  /-- the pulse command being repeated: CMD_ID, PCMD, PARG, frames still to carry it; R437, R438 -/
  pulseCmd : BitVec 8 × Nat × Nat × Nat := (0, 0, 0, 0)
  /-- the last CMD_ID acted on; R438 -/
  peerCmdId : Option (BitVec 8) := none
  /-- RESET_REQs discarded; R438 -/
  resetReqDisc : Word := 0
  /-- the claim round in progress; PRT_STAT.ROUND; R444 -/
  round : Option Round := none
  /-- PRT_ROUND_STAT[15:0]; R461 -/
  roundStat : BitVec 16 := 0
  /-- PRT_ROUNDS; R461 -/
  rounds : Word := 0
  /-- sleds still owed the sole claim of R612 -/
  claimOwed : List Nat := []
  /-- sleds still owed the join claim of R450 step 2, with its epoch -/
  joinOwed : List Nat := []
  /-- PRT_STAT.ACTIVATING; R446 -/
  activating : Bool := false
  /-- start of the interval PRT_TKOV_LAST measures -/
  tkovStart : Word64 := 0
  /-- PRT_TKOV_LAST; R461 -/
  tkovLast : Word := 0
  /-- PRT_TKOV_MAX; R461 -/
  tkovMax : Word := 0
  /-- the join or handback in progress; R450, R451 -/
  join : JoinStep := .none
  /-- the epoch of the join claims; R450 -/
  joinEpoch : Nat := 0
  /-- sleds whose join CLAIM has not completed -/
  joinWait : List Nat := []
  /-- a join CLAIM was refused with DETAIL 1: the epoch of CUR; R450 -/
  joinAgain : Option Nat := none
  /-- SYNCED sent, SYNCED received; PRT_STAT.SYNCED; R450 -/
  syncedTx : Bool := false
  syncedRx : Bool := false
  /-- the partner's HELLO of this session: ARRAY_ID, HEAD_ID, pairing state, highest claim; R450 -/
  peerHello : Option (Nat × Nat × Nat × Nat) := none
  /-- volumes held as during a claim round by a handover this head makes; R451, R452 -/
  handover : Bool := false
  /-- CLAIM fields read for a solo start: sled, claim number; R449 -/
  soloReads : Tab Nat Nat := []
  /-- sleds whose solo-start IDENTIFY has not answered; R449 -/
  soloWait : List Nat := []
  /-- PL_NO_KEY was raised for the present lack; R434 -/
  noKey : Bool := false
  /-- the Cloak's checkpoints by QPN; R439 -/
  shCkpt : Tab Nat ShCkpt := []
  /-- the Cloak's connection records by QPN; R613 -/
  shConn : Tab Nat Bytes := []
  /-- the Cloak's command records by QPN and CID; PRT_SHADOW_CMDS; R439 -/
  shCmd : Tab (Nat × Nat) ShCmd := []
  /-- the Cloak's window records by QPN, CID and SEQ; R439 -/
  shWin : Tab (Nat × Nat × Nat) ShWin := []
  /-- the Cloak's outbound records; R440 -/
  shOut : List ShOut := []
  /-- the map item whose further log blocks may follow: TYPE, VOL, KEY, body so far; R333 CONT_OF -/
  mapCont : Nat × Nat × Nat × Bytes := (0, 0, 0, [])
  /-- a head being filled: MAP bodies (true) and JNL bodies that wait for the end of the fill; R451 -/
  fillWait : List (Bool × Bytes) := []
  /-- CLAIMED has been sent in the present join or handback; R450, R451 -/
  claimedTx : Bool := false
  /-- RoCEv2 connections probed at takeover, by context index: P; R447 -/
  probes : Tab Nat Nat := []
  /-- the commands whose resent segments are answered, PRT_FRAMES_LOST; R461 -/
  framesLost : Word := 0
  /-- PRT_AUTH_FAIL; R461 -/
  authFail : Word := 0
  /-- PRT_PULSE_ERR; R461 -/
  pulseErr : Word := 0
  /-- PRT_QP_LOST; R461 -/
  qpLost : Word := 0
deriving DecidableEq, Repr

end Sys2Proof.Machine
end

