-- ==== Sys2Proof/Blocks/Eng.lean ====
section
/-! DEFINITION. The data engines: compression (CMP), fingerprint (FPR) and cipher (CIP); chapter 07. -/

namespace Sys2Proof.Machine

/-- A CMP job (R246): its descriptor fields, and who submitted it. -/
structure CmpJob where
  op : Nat
  client : Nat
  blocks : Nat
  inAddr : Nat
  outAddr : Nat
  outSize : Nat
  jobId : Nat
deriving DecidableEq, Repr

/-- A CMP job's completion record (R248). -/
structure CmpDone where
  jobId : Nat
  status : Nat
  inBlocks : Nat
  inBytes : Nat
  outBytes : Nat
  /-- the output written -/
  out : Bytes := []
deriving DecidableEq, Repr

/-- CMP: lanes, jobs and counters (R277). -/
structure Cmp where
  /-- CMP_LANE_UP; R277 -/
  laneUp : BitVec 32 := 0xFFFFFFFF
  /-- jobs queued and running, oldest first; CMP_JOBS; R277 -/
  jobs : List CmpJob := []
  /-- completion records given to their clients, oldest first; R248 -/
  done : List CmpDone := []
  /-- expansion-check failures by lane: their timestamps within 60 s; R264 -/
  fails : Tab Nat (List Word64) := []
  /-- CMP_IN; R277 -/
  blocksIn : Word64 := 0
  /-- CMP_OUT; R277 -/
  sectorsOut : Word64 := 0
  /-- CMP_NOGAIN; R277 -/
  noGain : Word64 := 0
  /-- CMP_VERIFY_FAIL; R277 -/
  verifyFail : Word := 0
  /-- CMP_FORMAT_ERR; R277 -/
  formatErr : Word := 0
  /-- CMP_JOB_STOPS; R277 -/
  jobStops : Word := 0
deriving DecidableEq, Repr

/-- A valid dedup index entry (R251). -/
structure DedupEntry where
  fp : Bytes
  k : Nat
  loc : Nat
  domain : Nat
  vol : Nat
  lastHit : Nat
  /-- the stored ECRC is right -/
  ecrcOk : Bool := true
deriving DecidableEq, Repr

/-- FPR: filter, index and counters (R277). -/
structure Fpr where
  /-- words of the active filter bank that are not zero, by word number; R250 -/
  active : Tab Nat Word64 := []
  /-- the second bank while a rebuild runs; R254 -/
  second : Tab Nat Word64 := []
  /-- FPR_STAT[0], rebuild in progress; R277 -/
  rebuilding : Bool := false
  /-- every test is positive until the rebuild after an L3 reset completes; R272 -/
  allPositive : Bool := false
  /-- FPR_STAT[1], an insert has replaced an entry since the last rebuild; R277 -/
  replaced : Bool := false
  /-- FPR_STAT[5:2], pipelines in service; R277 -/
  pipes : BitVec 4 := 0xF
  /-- the dedup index by bucket, at most four entries each; FPR_INDEX_USED; R251 -/
  index : Tab Nat (List DedupEntry) := []
  /-- FPR_LOOKUPS; R277 -/
  lookups : Word64 := 0
  /-- FPR_NEG; R277 -/
  neg : Word64 := 0
  /-- FPR_DUPS; R277 -/
  dups : Word64 := 0
  /-- FPR_FALSE_POS; R277 -/
  falsePos : Word := 0
  /-- FPR_EVICT; R277 -/
  evict : Word := 0
  /-- FPR_INDEX_ERR; R277 -/
  indexErr : Word := 0
deriving DecidableEq, Repr

/-- The states of a key slot (R258), encoded 0 to 4. -/
inductive SlotState where
  | empty
  | loading
  | ready
  | erasing
  | failed
deriving DecidableEq, Repr

/-- A key slot (R258). -/
structure KeySlot where
  state : SlotState := .empty
  /-- 0 none, 1 XTS, 2 GCM, 3 KEK -/
  kind : Nat := 0
  wrapped : Bool := false
  key : Bytes := []
  kcv : Bytes := [0, 0, 0]
deriving DecidableEq, Repr

/-- A key-bus operation running (R259). -/
structure KbusOp where
  slot : Nat
  kind : Nat
  wrapped : Bool
  /-- the key as it goes into the slot -/
  key : Bytes
deriving DecidableEq, Repr

/-- A saved cipher context (R267). -/
structure CipCtx where
  cls : Nat
  slot : Nat
  y : Bytes
  ctr : Bytes
  alen : Nat
  dlen : Nat
  ref : Nat
deriving DecidableEq, Repr

/-- A GCM message on a lane or waiting for one (R266). -/
structure GcmMsg where
  ref : Nat
  cls : Nat
  slot : Nat
  /-- data bytes of the message, and those processed -/
  total : Nat
  doneBytes : Nat := 0
  /-- KiB processed since it last started or resumed -/
  held : Nat := 0
  /-- the context at its last 4 KiB boundary -/
  y : Bytes := List.replicate 16 0
  ctr : Bytes := List.replicate 16 0
  alen : Nat := 0
deriving DecidableEq, Repr

/-- CIP: key slots, key bus, lanes and saved contexts (R277). -/
structure Cip where
  /-- CIP_XTS_UP[15:0]; R277 -/
  xtsUp : BitVec 16 := 0xFFFF
  /-- CIP_GCM_UP; R277 -/
  gcmUp : BitVec 32 := 0xFFFFFFFF
  /-- the key slots that are not plainly EMPTY, by number; R258 -/
  slots : Tab Nat KeySlot := []
  /-- CIP_KBUS_DATA0 to 17, key bytes 0 to 71; R259 -/
  kbusData : List Word := List.replicate 18 0
  /-- CIP_KBUS_WRAP[9:0]; R277 -/
  kbusWrap : BitVec 10 := 0
  /-- CIP_KBUS_STAT[1:0]: 0 idle, 1 busy, 2 done, 3 refused; R277 -/
  kbusStat : BitVec 2 := 0
  /-- CIP_KBUS_STAT[7:4], refusal reason; R277 -/
  kbusReason : BitVec 4 := 0
  /-- CIP_KBUS_STAT[17:8], slot of the last operation; R277 -/
  kbusSlot : BitVec 10 := 0
  /-- the load running; R259 -/
  kbusOp : Option KbusOp := none
  /-- CIP_SLOT_SEL[9:0]; R277 -/
  slotSel : BitVec 10 := 0
  /-- GCM messages on lanes 16 to 47, by lane; R266 -/
  lanes : Tab Nat GcmMsg := []
  /-- GCM messages waiting, oldest first; R266 -/
  waiting : List GcmMsg := []
  /-- contexts in the on-chip RAM, oldest first; CIP_CTX_RAM; R267 -/
  ctxRam : List CipCtx := []
  /-- contexts wrapped in the DRAM spill, oldest first; CIP_CTX_SPILL; R267 -/
  ctxSpill : List CipCtx := []
  /-- faults by lane: their timestamps within the window; R264 -/
  laneFaults : Tab Nat (List Word64) := []
  /-- CIP_CTX_SAVES; R277 -/
  ctxSaves : Word := 0
  /-- CIP_CTX_LOST; R277 -/
  ctxLost : Word := 0
  /-- CIP_MISMATCH; R277 -/
  mismatch : Word := 0
  /-- CIP_FAULTS; R277 -/
  faults : Word := 0
  /-- CIP_AUTH_FAIL; R277 -/
  authFail : Word := 0
  /-- KEY_SLOTS_CLEARED owed at the datapath's release, with its cause; R260 -/
  clearedCause : Option Nat := none
deriving DecidableEq, Repr

end Sys2Proof.Machine
end

