-- ==== Sys2Proof/Blocks/Ftl.lean ====
section
/-! DEFINITION. The flash translation layer (FTL): erase blocks, segments, the block-volume map, the shared table, takes
and frames, the map log, collection and relocation; chapters 08, 09. A die is named by PORT × 64 + DIE. -/

namespace Sys2Proof.Machine

/-- The states of an erase block (R325), encoded 0 to 4. -/
inductive BlkState where
  | ecru
  | indigo
  | sable
  | russet
  | retired
deriving DecidableEq, Repr

/-- An erase block of a die (R325, R347). -/
structure EBlk where
  state : BlkState := .ecru
  trimmed : Bool := false
  /-- held as a spare -/
  spare : Bool := false
  /-- the segment bound -/
  seg : Nat := 0
  /-- bad at formatting -/
  factory : Bool := false
  /-- retirement cause, 0 if not retired (R346) -/
  cause : Nat := 0
  pe : Nat := 0
  reads : Nat := 0
  /-- signed offsets of read levels 1 to 15 (R347) -/
  rt : List Int := List.replicate 15 0
  /-- last good ladder step, ladder exhaustions (R347) -/
  step : Nat := 0
  exhaust : Nat := 0
  /-- corrected bits and codewords of 1 KiB of the last 64 reads, newest first (R349) -/
  means : List (Nat × Nat) := []
  /-- reads since the record last changed (R349) -/
  sinceRt : Nat := 0
  /-- probe reads running: corrected bits of the probe above, of the probe below (R349) -/
  probe : Option (Option Nat × Option Nat) := none
  /-- AL-RT on the block: all reads of it, the direction of its last action, and the read counts of its reversals (R516, R519) -/
  rtReads : Nat := 0
  rtDir : Option Bool := none
  rtRevs : List Nat := []
  /-- a relocation of this block runs (R343) -/
  moving : Bool := false
  /-- program-time class; R527 -/
  cls : Nat := 0
  /-- its PROGRAMs since it opened: their service times in ticks added up, and how many; R527 -/
  progTime : Nat := 0
  progs : Nat := 0
  /-- programmed while its die was throttled; R527 -/
  hot : Bool := false
deriving DecidableEq, Repr

/-- A die unit's media state (R328, R418). -/
structure DieSt where
  failed : Bool := false
  missing : Bool := true
  /-- SPARE_LOW was raised for the present crossing (R326) -/
  lowRaised : Bool := false
  /-- timestamp of the last completion of a PROGRAM on the die; R527 -/
  lastDone : Word64 := 0
deriving DecidableEq, Repr

/-- What a segment of a top unit is (R294, R298, R339). -/
inductive SegState where
  | free
  | open
  | full
  | trimmed
  /-- a part segment of a stream top unit (R298) -/
  | part
  | dismantled
deriving DecidableEq, Repr

/-- A segment of a data top unit, map band, journal band or spare. -/
structure Seg9 where
  state : SegState := .free
  /-- SEG_SEQ of its present opening -/
  seq : Nat := 0
  /-- the next tree row to program in it, 0 to PAGES -/
  nextRow : Nat := 0
  /-- opened for collection copies (R297) -/
  gc : Bool := false
  /-- the take that holds it: volume and take (R298) -/
  take : Option (Nat × Nat) := none
  /-- valid sectors (R341) -/
  valid : Nat := 0
  /-- takes that hold rows in it: volume, take, rows (R301) -/
  rowsOf : List (Nat × Nat × Nat) := []
  /-- blocks whose erase has not completed -/
  erasing : List Nat := []
deriving DecidableEq, Repr

/-- The garbage-collection modes (R340), encoded 0 to 3. -/
inductive GcMode where
  | idle
  | background
  | urgent
  | floor
deriving DecidableEq, Repr

/-- A media form as it is placed: sectors of 512 bytes and the block tag (R209). -/
structure Form where
  sectors : List Bytes
  tag : Bytes
deriving DecidableEq, Repr

/-- A strip ready to be programmed: its bytes without the page-group header, CONT_VALID, and whether it is row padding. -/
structure Strip where
  body : Bytes
  cont : Bool := false
  pad : Bool := false
deriving DecidableEq, Repr

/-- A frame being appended: media forms in block order not yet drawn into strips (R299). -/
structure Draft where
  /-- the next block whose form joins the frame, and how many there are -/
  next : Nat := 0
  total : Nat := 0
  /-- number within the take of the frame's first block; R209 -/
  base : Nat := 0
  /-- forms in order that do not yet fill a strip, and how many of the first one's sectors a drawn strip already holds -/
  forms : List Form := []
  used : Nat := 0
  extents : List (Nat × Nat) := []
  lens : List Nat := []
  /-- every block has joined and its last strip is drawn -/
  whole : Bool := false
deriving DecidableEq, Repr

/-- A collection in progress (R341). -/
structure Collect where
  victim : Nat
  /-- tree rows of the victim still to read -/
  rows : List Nat
  /-- forms read and verified, waiting to be placed: location and form -/
  ready : List (Nat × Form) := []
  /-- copies placed and not yet programmed: from, to -/
  moving : List (Nat × Nat) := []
  /-- the LOG_SEQ that makes every map change durable, once every copy is programmed -/
  waitLog : Option Nat := none
  /-- step 3 onward: the trim is logged and erases run -/
  trimmed : Bool := false
deriving DecidableEq, Repr

/-- A data top unit, map band, journal band or spare in service (R324, R338 to R340). -/
structure TopSt where
  formatted : Bool := false
  /-- left unformatted for too few segments: FAILED until a new image (R324 step 5) -/
  unfit : Bool := false
  /-- SEG_SEQ of the next opening -/
  nextSeq : Nat := 0
  /-- the open segment for new data, and the one for collection copies (R297) -/
  openSeg : Option Nat := none
  gcSeg : Option Nat := none
  /-- sectors reserved by commands, by acceptance number (R338) -/
  reserved : Tab Nat Nat := []
  mode : GcMode := .idle
  collect : Option Collect := none
  /-- UNIT_FREE_LOW and UNIT_STRANDED were raised for the present crossing (R307) -/
  freeRaised : Bool := false
  strandRaised : Bool := false
deriving DecidableEq, Repr

/-- A shared-table entry (R331). -/
structure Share where
  loc : Nat
  refs : Nat
deriving DecidableEq, Repr

/-- The states of a take (R333 take record), encoded 0 to 3. -/
inductive TakeState where
  | open
  | sealing
  | sealed
  | deleted
deriving DecidableEq, Repr

/-- A stored frame (R300). -/
structure Frame where
  bytes : Nat
  /-- extents in the take's strip space: first strip, strips -/
  extents : List (Nat × Nat)
  /-- sectors of each logical block's media form -/
  lens : List Nat
  short : Bool
deriving DecidableEq, Repr

/-- A take (R298, R299, R335). -/
structure Take where
  state : TakeState := .open
  frames : Tab Nat Frame := []
  /-- frame indices reserved by outstanding appends, with their acceptance numbers (R191) -/
  pending : Tab Nat Nat := []
  /-- segment list: segment, first row, rows (R333) -/
  segs : List (Nat × Nat × Nat) := []
  /-- strips drawn so far from the take's strip space (R299) -/
  strips : Nat := 0
  /-- block numbers given so far; R209 POS -/
  blocks : Nat := 0
  /-- appends under way, by acceptance number -/
  drafts : Tab Nat Draft := []
  /-- strips drawn and not yet issued, with their append's acceptance number -/
  row : List (Nat × Strip) := []
deriving DecidableEq, Repr

/-- One change of the map log (R333). -/
inductive LogItem where
  | delta (vol lba : Nat) (trim : Bool) (w : Nat)
  | share (idx loc refs : Nat)
  /-- event: 0 bound, 1 trimmed, 2 free, 3 opened, 4 dismantled; a bound entry names one die, the others the segment -/
  | segment (top seg die blk event segSeq : Nat)
  | take (vol take : Nat) (state : TakeState) (frames rows segs : Nat)
  | frame (vol take frame : Nat) (f : Frame)
  | takeSegs (vol take : Nat) (segs : List (Nat × Nat × Nat))
  | valid (top seg sectors segSeq : Nat)
  /-- a snapshot catalogue record or preserved page of chapter 13 -/
  | snap (slot : Nat) (record : Bytes)
  /-- a preserved page of a SLOT, or with SLOT 0 a page of the volume's own map, entered again by R336 -/
  | page (vol slot page : Nat) (words : List Nat)
deriving DecidableEq, Repr

/-- What a log item is the current version of (R336): the items of one key replace each other. -/
inductive LogKey where
  | page (vol slot page : Nat)
  | share (idx : Nat)
  | segment (top seg die : Nat)
  | take (vol take : Nat)
  | takeSegs (vol take : Nat)
  | frame (vol take frame : Nat)
  | valid (top seg : Nat)
  | snap (slot : Nat)
deriving DecidableEq, Repr

/-- A log row being programmed: its row program, its first and last LOG_SEQ, when its oldest change entered, whether every
program is complete (R334). -/
structure LogRow where
  id : Nat
  first : Nat
  last : Nat
  since : Word64
  done : Bool := false
deriving DecidableEq, Repr

/-- The map log of one head (R333, R611). -/
structure MapLog where
  /-- LOG_SEQ of the next log block -/
  nextSeq : Nat := 0
  /-- FTL_MAP_SEQ: every block up to here is durable -/
  durable : Nat := 0
  /-- the open log row: changes with their LOG_SEQ and the time they entered, oldest first -/
  openRow : List (Nat × LogItem × Word64) := []
  /-- rows programming, oldest first -/
  rows : List LogRow := []
  /-- the map band in turn (R333) -/
  turn : Nat := 0
  /-- the map band and segment that hold the newest version of each item, for R336 -/
  place : Tab LogKey (Nat × Nat) := []
deriving DecidableEq, Repr

/-- A relocation in progress (R343). -/
structure Reloc where
  die : Nat
  src : Nat
  dst : Nat
  /-- retirement cause, 0 for refresh, 8 for wear levelling, 9 for a read-threshold limit -/
  cause : Nat
  /-- page groups still to copy -/
  todo : List Nat
  /-- page group read and being programmed -/
  busy : Option Nat := none
  /-- the block was indigo: its segment goes on -/
  going : Bool := false
  /-- page groups still to program on the target for row programs: row program, page group, bytes; R343 step 3 -/
  late : List (Nat × Nat × Bytes) := []
  /-- row programs whose page group the target holds, and which count once the binding is durable; R343 -/
  lateDone : List Nat := []
  /-- page groups written with recomputed bytes; R387 -/
  fix : List (Nat × Bytes) := []
  /-- the LOG_SEQ of the SEGMENT bound entry (step 4) -/
  waitLog : Option Nat := none
deriving DecidableEq, Repr

/-- FTL: flash translation (R317, R359). -/
structure Ftl where
  /-- FTL_STAT.REPLAY; R359 -/
  replay : Bool := false
  /-- when the replay began; FTL_REPLAY_MS -/
  replayAt : Word64 := 0
  /-- the log and journal blocks of the replay are applied; what is left of R377 runs -/
  replayed : Bool := false
  /-- FTL_STAT.MAP_READY; R359 -/
  ready : Bool := false
  /-- FTL_STAT.NO_LOG; R337, R359 -/
  noLog : Bool := false
  /-- FTL_STAT.FORMATTING; R359 -/
  formatting : Bool := false
  /-- FTL_STAT.FORMAT_ERR; R359 -/
  formatErr : Bool := false
  /-- bands frozen, oldest first; R327 -/
  frozen : List Nat := []
  /-- erase blocks by die and block; R325 -/
  blks : Tab (Nat × Nat) EBlk := []
  /-- die units by PORT × 64 + DIE; R328 -/
  dies : Tab Nat DieSt := []
  /-- top units, map bands, journal bands and spares by descriptor; R324 -/
  tops : Tab Nat TopSt := []
  /-- segments by descriptor and number; R324 -/
  segs : Tab (Nat × Nat) Seg9 := []
  /-- health states last computed, by descriptor: state and margin + 1; R303, R306 -/
  health : Tab Nat (Nat × Nat) := []
  /-- FTL_HEALTH_CHG; R317 -/
  healthChg : Word := 0
  /-- map words by volume and logical block, an absent one unmapped; R329, R332 -/
  map : Tab (Nat × Nat) Nat := []
  /-- the shared table by index; R331 -/
  shares : Tab Nat Share := []
  /-- takes by volume and take ID; R335 -/
  takes : Tab (Nat × Nat) Take := []
  /-- the map logs of heads 0 and 1; R333, R611 -/
  log0 : MapLog := {}
  log1 : MapLog := {}
  /-- relocations in progress; R343 -/
  relocs : List Reloc := []
  /-- FTL_DIE_SEL[10:0]; R359 -/
  dieSel : BitVec 11 := 0
  /-- FTL_BLK_SEL[12:0]; R359 -/
  blkSel : BitVec 13 := 0
  /-- FTL_UNIT_SEL[12:0]; R317 -/
  unitSel : BitVec 13 := 0
  /-- FTL_GC_SECT; R359 -/
  gcSect : Word64 := 0
  /-- FTL_ERASES; R359 -/
  erases : Word64 := 0
  /-- FTL_MAP_LAG; R359 -/
  mapLag : Word := 0
  /-- FTL_MAP_FILL was above 90 % and MAP_LOG_FULL raised; R336 -/
  fullRaised : Bool := false
  /-- FTL_RETIRED; R359 -/
  retired : Word := 0
  /-- FTL_RELOCATED[15:0] and [31:16]; R359 -/
  relocRefresh : BitVec 16 := 0
  relocWear : BitVec 16 := 0
  /-- FTL_RT_RETRIES; R359 -/
  rtRetries : Word := 0
  /-- FTL_RT_FAILS; R359 -/
  rtFails : Word := 0
  /-- FTL_SHARE_FULL; R359 -/
  shareFull : Word := 0
  /-- FTL_REPLAY_MS; R359 -/
  replayMs : Word := 0
  /-- FTL_GC_DISCARD; R359 -/
  gcDiscard : Word := 0
  /-- the bad-block lists read in formatting, by die; R324 -/
  badLists : Tab Nat (List Nat) := []
deriving DecidableEq, Repr

end Sys2Proof.Machine
end

