-- ==== Sys2Proof/Blocks/Par.lean ====
section
/-! DEFINITION. Parity, reads that need reconstruction, rows being programmed, rebuild and patrol (PAR), and the stripe
journal (JNL); chapters 08 and 10. -/

namespace Sys2Proof.Machine

/-- A page group of a tree row: the descriptor whose segments it belongs to (a top unit, map band or spare), segment,
tree row and die (R290, R294). -/
structure PgAddr where
  top : Nat
  seg : Nat
  row : Nat
  die : Nat
deriving DecidableEq, Repr

/-- What a read job serves. -/
inductive JobFor where
  /-- a block of a host command: acceptance number and block number -/
  | cmd (acc blk : Nat)
  /-- a form a collection copies: victim's top unit, location, volume, position -/
  | gc (top loc vol pos : Nat)
  /-- a page group a relocation copies: die, source block, page group -/
  | reloc (die src pg : Nat)
  /-- a row of a rebuild's walk: span -/
  | rebuild (span : Nat)
  /-- a row that patrol checks: top unit -/
  | patrol (top : Nat)
  /-- the page groups of a row to close: top unit -/
  | close (top : Nat)
  /-- the covered strips or versions of a stripe: top unit, stripe -/
  | version (top stripe : Nat)
  /-- a block of a replication point being built: volume, and logical block or block of the frame (R476) -/
  | repl (vol blk : Nat)
  /-- the flash copy of a buffered block under repair: acceptance number and block number (R224) -/
  | repair (acc num : Nat)
  /-- the resynchronisation of a die -/
  | resync (die : Nat)
deriving DecidableEq, Repr

/-- A read job: the page groups it wants, what has come back, and what is on its way (R223, R362, R363). -/
structure Job where
  id : Nat
  what : JobFor
  /-- page groups the job wants, in order -/
  want : List PgAddr
  /-- sectors and metadata of the wanted page groups that a read returned directly (R330, R323) -/
  direct : List (PgAddr × Bytes) := []
  /-- whole page groups read for reconstruction: their bytes without the header, or none for one that cannot be read -/
  got : List (PgAddr × Option Bytes) := []
  /-- reads on their way -/
  out : List PgAddr := []
  /-- for one media form: first sector in the first wanted page group, sectors in all -/
  sec : Nat := 0
  cnt : Nat := 128
deriving DecidableEq, Repr

/-- What a row being programmed is. -/
inductive RowKind where
  | data
  | gc
  /-- a strip of a partial stripe or a version of its parity (R369) -/
  | extend
  | close
  | mapLog
  | journal
  | rebuild
  | reloc
  | resync
deriving DecidableEq, Repr

/-- Page groups issued together: a tree row, or an extension, or one page group of a relocation (R294, R364, R369). -/
structure RowProg where
  id : Nat
  kind : RowKind
  top : Nat
  seg : Nat
  row : Nat
  /-- dies whose program has not completed -/
  left : List Nat
  /-- dies whose program failed or counts as lost -/
  failed : List Nat := []
  /-- the write-buffer blocks it makes programmed: acceptance number and block number -/
  blocks : List (Nat × Nat) := []
  /-- copies of a collection it makes programmed: from, to -/
  moves : List (Nat × Nat) := []
  /-- the highest LOG_SEQ of a map log row; the highest JSEQ of a journal row -/
  upTo : Nat := 0
  /-- stripes whose records its completion commits, with COVERED after it -/
  stripes : List (Nat × Nat) := []
  /-- once every program is complete: REC_SEQs of the commits still open -/
  commits : Option (List Nat) := none
  /-- the relocation or rebuild it belongs to: die or span -/
  owner : Nat := 0
deriving DecidableEq, Repr

/-- A location of a page group: PORT, DIE, segment, page group (R371). -/
structure Loc where
  port : Nat := 0
  die : Nat := 0
  seg : Nat := 0
  pg : Nat := 0
deriving DecidableEq, Repr

/-- The kinds of a stripe record (R371), encoded 1 to 3. -/
inductive RecKind where
  | intent
  | committed
  | retired
deriving DecidableEq, Repr

/-- A stripe record (R371). -/
structure StripeRec where
  kind : RecKind := .intent
  complete : Bool := false
  closed : Bool := false
  bandTop : Bool := false
  row : Nat
  seg : Nat
  version : Nat := 0
  covered : Nat := 0
  prior : Nat := 0
  recSeq : Nat := 0
  p : Loc := {}
  q : Loc := {}
  priorP : Loc := {}
  priorQ : Loc := {}
  opened : Nat := 0
deriving DecidableEq, Repr

/-- A span entry (R375). -/
structure SpanEnt where
  complete : Bool := false
  spare : Nat
  rowsDone : Nat := 0
  rowsTotal : Nat := 0
  recSeq : Nat := 0
deriving DecidableEq, Repr

/-- A tree row of a block top unit that is not complete (R366 to R370). -/
structure PartRow where
  seg : Nat
  row : Nat
  /-- data strips programmed so far with their page groups, by tree-row strip index; empty bytes where PAR no longer holds
  them (R370) -/
  strips : List (Nat × Bytes) := []
  /-- dies whose page group of the row is issued -/
  dies : List Nat := []
  /-- timestamp of the last extension; ROW_IDLE_CLOSE -/
  last : Word64 := 0
  /-- a close was ordered (R394) -/
  closing : Bool := false
deriving DecidableEq, Repr

/-- A rewrite segment (R368). -/
structure RewSeg where
  seg : Nat
  /-- next page group by die -/
  next : Tab Nat Nat := []
  /-- live versions: stripe -/
  live : List Nat := []
deriving DecidableEq, Repr

/-- A rebuild in progress (R379 to R384). -/
structure Rebuild where
  pos : Nat
  spare : Nat
  /-- rows still to walk: segment and row -/
  walk : List (Nat × Nat)
  done : Nat := 0
  total : Nat
  /-- the data top unit above the span -/
  top : Nat
deriving DecidableEq, Repr

/-- PAR: parity, rows in flight, rebuild and patrol (R399). -/
structure Par where
  /-- identifier of the next read job or row program -/
  nextId : Nat := 0
  /-- read jobs running, oldest first -/
  jobs : List Job := []
  /-- rows being programmed, oldest first -/
  rows : List RowProg := []
  /-- incomplete tree rows by block top unit -/
  part : Tab Nat PartRow := []
  /-- stripes whose running parity PAR holds, by top unit and stripe, newest last, at most 256: P and Q so far; R369,
  PAR_STAT[15:8] -/
  running : List ((Nat × Nat) × (Bytes × Bytes)) := []
  /-- rewrite segments by top unit, at most two; R368, PAR_STAT[3] -/
  rew : Tab Nat (List RewSeg) := []
  /-- page groups that PAR knows unreadable markers for; R385 -/
  markers : List PgAddr := []
  /-- rebuilds in progress by span; R378, PAR_RB_UNIT, PAR_RB_TARGET, PAR_RB_DONE, PAR_RB_TOTAL -/
  rebuilds : Tab Nat Rebuild := []
  /-- spans that raised REBUILD_NO_SPARE for the present wait; R378 -/
  noSpare : List Nat := []
  /-- dies missing for REBUILD_WAIT; R378 -/
  waited : List Nat := []
  /-- resynchronisations in progress: die to the rows still to program, segment and row; R421 -/
  resyncs : Tab Nat (List (Nat × Nat)) := []
  /-- PAR_RB_RATE, the last rate reported; R399 -/
  rbRate : Word := 0
  /-- PAR_TWO_ERASE; R399 -/
  twoErase : Word := 0
  /-- PAR_UNRECOVERED; R399 -/
  unrecovered : Word := 0
  /-- PAR_RMW_READS; R399 -/
  rmwReads : Word := 0
  /-- PAR_CLOSED; R399 -/
  closed : Word := 0
  /-- patrol position: rows of the pass done; R386, PAR_PATROL_POS -/
  patrolPos : Nat := 0
  /-- rows skipped under a live record, read at the end of the pass: top, segment, row; R386 -/
  patrolSkip : List (Nat × Nat × Nat) := []
  /-- PAR_PATROL_PASSES; R399 -/
  passes : Word := 0
  /-- PAR_PATROL_FIX; R399 -/
  patrolFix : Word := 0
  /-- PAR_PATROL_UNFIX; R399 -/
  patrolUnfix : Word := 0
  /-- PAR_SUBST_SEL[12:0]; R399 -/
  substSel : BitVec 13 := 0
deriving DecidableEq, Repr

/-- A journal entry (a stripe record or a span entry) as it stands in DRAM and travels (R373, R374). -/
structure JEntry where
  recSeq : Nat
  bytes : Bytes
  /-- timestamp at which its commit began -/
  since : Word64
  /-- an INTENT is never spilled; R373 -/
  intent : Bool := false
deriving DecidableEq, Repr

/-- JNL: the stripe journal (R399). -/
structure Jnl where
  /-- live stripe records of this head by top unit and stripe; JNL_RECORDS; R372 -/
  recs : Tab (Nat × Nat) StripeRec := []
  /-- span entries of this head by span and POS; R375 -/
  spans : Tab (Nat × Nat) SpanEnt := []
  /-- the partner's entries by REC_SEQ, as JNL messages brought them; R439 -/
  peer : Tab Nat Bytes := []
  /-- REC_SEQ of the next entry; R371 -/
  nextRec : Nat := 1
  /-- entries in own DRAM whose commit waits for the partner or the homes, oldest first; R373 -/
  waiting : List JEntry := []
  /-- entries committed and not yet spilled to every home, oldest first; R373 -/
  toSpill : List JEntry := []
  /-- journal rows being programmed: row program, home's descriptor, REC_SEQs; R374 -/
  spilling : List (Nat × Nat × List Nat) := []
  /-- home and segment that hold the newest copy of each entry, by REC_SEQ; R374 -/
  place : List (Nat × Nat × Nat) := []
  /-- JSEQ of the next journal block; R374 -/
  jseq : Nat := 0
  /-- JNL_SEQ: JSEQ of the last journal block durable on every home; R399 -/
  durable : Nat := 0
  /-- homes lost or frozen: home and frozen; JNL_HOME_STAT; R376 -/
  homesOut : List (Nat × Bool) := []
  /-- JNL_PEAK[16:0]; R399 -/
  peak : Nat := 0
  /-- JNL_FULL_WAIT; R399 -/
  fullWait : Word := 0
  /-- JNL_FULL was raised for the present crossing; R376 -/
  fullRaised : Bool := false
  /-- JNL_COMMIT_MAX; R399 -/
  commitMax : Word := 0
  /-- JNL_SPILL_LAG; R399 -/
  spillLag : Word := 0
  /-- JNL_REPLAYED; R399 -/
  replayed : Word := 0
deriving DecidableEq, Repr

end Sys2Proof.Machine
end

