-- ==== Sys2Proof/Blocks/Sld.lean ====
section
/-! DEFINITION. The sled link (SLD): ports, flits, transactions and claims; chapter 11. -/

namespace Sys2Proof.Machine

/-- The link states of a sled port (SLD_PORT_STAT.LSTATE), encoded 0 to 5. -/
inductive LState where
  | down
  | training
  | l0
  | rest
  | recovery
  | resync
deriving DecidableEq, Repr

/-- Why a CLAIM is sent. -/
inductive ClaimFor where
  /-- part of the claim round running -/
  | round
  /-- R612: a sled owed a sole claim -/
  | owed
  /-- R450: a join claim -/
  | join
  /-- R419: the claim last granted, sent again after the sled's power loss -/
  | again
deriving DecidableEq, Repr

/-- What a transaction is for. -/
inductive OslFor where
  | identify
  /-- an IDENTIFY of the solo start of R449 -/
  | soloIdentify
  | dieInfo (die : Nat)
  | badList (die : Nat)
  | bind
  | claim (why : ClaimFor) (num mode mask : Nat)
  /-- a page-group read of a job -/
  | read (job : Nat) (pg : PgAddr)
  /-- an AL-RT probe read (R349): die, block, above -/
  | probe (die blk : Nat) (above : Bool)
  /-- a program of a row -/
  | program (row : Nat)
  /-- an erase: die, block, the top unit and segment it frees, or none for a retired or freed block -/
  | erase (die blk : Nat) (seg : Option (Nat × Nat))
  /-- RECALL of a transaction (R420) -/
  | recall (tag : Nat)
deriving DecidableEq, Repr

/-- An outstanding transaction of a port (R409). -/
structure OslTx where
  what : OslFor
  /-- OP, channel, ARGS and data as sent, kept for a reissue -/
  op : Nat
  chan : Nat
  args : Bytes
  data : Bytes
  /-- timestamp of issue -/
  since : Word64
  /-- ladder step of a READ; R348 -/
  step : Nat := 0
  /-- covered by a timeout or a link loss: recalled or reissued when the link is back; R418, R419 -/
  overdue : Bool := false
deriving DecidableEq, Repr

/-- One sled port (R401 to R423). -/
structure SledPort where
  /-- SLD_PORT_STAT.LSTATE; R430 -/
  state : LState := .down
  /-- SLnn_PRSNT_N is low, before the debounce; R418 -/
  raw : Bool := false
  /-- SLD_PRESENT, SLD_PORT_STAT.PRSNT; R430 -/
  present : Bool := false
  /-- the debounce interval runs; R418 -/
  bouncing : Bool := false
  /-- SLD_PORT_STAT.X1; R402 -/
  x1 : Bool := false
  /-- SLD_FOREIGN; R419 -/
  foreign : Bool := false
  /-- SLD_PORT_STAT.FENCED; R416 -/
  fenced : Bool := false
  /-- identified since it came up; R419 -/
  known : Bool := false
  /-- the claim granted: number, sole, die mask; SLD_GRANT, SLD_SOLE; R416, R417 -/
  grant : Option (Nat × Bool × Nat) := none
  /-- the bridge's last reply showed the claim as current; R417 -/
  current : Bool := false
  /-- SLD_PORT_STAT.DIES; R412 -/
  dies : BitVec 8 := 0
  /-- the head believes that it holds the sled by that grant; R416 -/
  holds : Bool := false
  /-- BOOTS from IDENTIFY; R412 -/
  boots : Word := 0
  /-- BOOTS before the port last went down; R419 -/
  bootsWas : Option Word := none
  /-- SLD_SLED_ID, 0 if never identified; R430 -/
  sledId : Word64 := 0
  /-- BIND_ARRAY and BIND_PORT; R412 -/
  bound : Nat × Nat := (0, 0xFF)
  /-- dies whose DIE_INFO is still awaited after IDENTIFY -/
  infoLeft : List Nat := []
  /-- typical tPROG and tR in µs by die; R409 -/
  tprog : Tab Nat Nat := []
  /-- read levels by die; R409 -/
  levels : Tab Nat Nat := []
  /-- the head's transmitter by lane, pre-cursor, post-cursor and cursor; SLD_EQ_STAT; R423 -/
  eq : List (Nat × Nat × Nat) := [(0, 0, 0), (0, 0, 0)]
  /-- the bridge's transmitter by lane as EQ_ACK reports it; R423 -/
  eqFar : List (Nat × Nat × Nat) := [(0, 0, 0), (0, 0, 0)]
  /-- FSLF from IDENTIFY; R412 -/
  fsLf : Nat := 0
  /-- FSEQ of the next non-idle flit, modulo 4,096; R404 -/
  fseq : BitVec 12 := 0
  /-- ACKSEQ: the last non-idle flit accepted; none before the first; R405 -/
  acked : Option (BitVec 12) := none
  /-- discarding until FSEQ = ACKSEQ + 1; R405 -/
  naked : Bool := false
  /-- non-idle flits sent and not acknowledged with their replays, oldest first; R405 -/
  replay : List (BitVec 12 × Bytes × Nat) := []
  /-- credits held by channel, in 64-byte units; R408 -/
  credit : List Nat := [0, 0, 0, 0]
  /-- credits to return with the next flit by channel; R404, R408 -/
  owed : List Nat := [0, 0, 0, 0]
  /-- transactions waiting for credit, oldest first: tag; R408 -/
  queue : List Nat := []
  /-- transactions outstanding by TAG; SLD_OUTSTANDING; R409 -/
  tx : Tab Nat OslTx := []
  /-- TAG of the next transaction; R409 -/
  nextTag : Nat := 0
  /-- timestamps of the retrains of the last second; R406 -/
  retrains : List Word64 := []
  /-- the retrain running follows a transaction timeout, so its failure is cause 2; R418 -/
  forTimeout : Bool := false
  /-- the throttle level of the sled's dies; R426 -/
  throttle : Nat := 0
  /-- REST_REQ sent and not answered; R422 -/
  restAsked : Bool := false
  /-- what the sled missed while it was gone: rows programmed and segments erased, as (segment owner, segment, row or none
  for an erase), oldest first; R421 -/
  missed : List (Nat × Nat × Option Nat) := []
deriving DecidableEq, Repr

/-- SLD: the sled ports and their registers (R430). -/
structure Sld where
  /-- the ports by number; one that is absent is in its reset state -/
  ports : Tab Nat SledPort := []
  /-- SLD_CLAIM_EPOCH, always-on; R416, R430 -/
  epoch : Word64 := 0
  /-- SLD_PORT_LATCH; R430 -/
  latch : Word := 0
  /-- SLD_PORT_SEL[4:0]; R430 -/
  sel : BitVec 5 := 0
  /-- SLD_REPLAYS; R430 -/
  replays : Word := 0
  /-- SLD_RETRAINS; R430 -/
  retrains : Word := 0
  /-- SLD_TIMEOUTS; R430 -/
  timeouts : Word := 0
  /-- SLD_FENCED_CPL; R430 -/
  fencedCpl : Word := 0
  /-- SLD_CLAIM_REFUSED; R430 -/
  refused : Word := 0
deriving DecidableEq, Repr

end Sys2Proof.Machine
end

