-- ==== Sys2Proof/Blocks/Rpl.lean ====
section
/-! DEFINITION. Snapshots and replication (RPL); chapter 13. -/

namespace Sys2Proof.Machine

/-- A catalogue record (R469). -/
structure Snap where
  vol : Nat
  snap : Nat
  /-- SKIND: 0 block snapshot, 1 take hold, 2 replication base, 3 replication point in transfer -/
  kind : Nat
  /-- SSTATE 1, releasing -/
  releasing : Bool := false
  sseq : Nat
  take : Nat := 0
  /-- it holds a take: SKIND 1, or a point of a stream volume; R468, R475 -/
  hold : Bool := false
  created : Word64 := 0
  point : Nat := 0
  /-- acceptance number of its SNAP_CREATE or REPL_POINT, the model's own: which writes its view holds; R463 -/
  acc : Nat := 0
deriving DecidableEq, Repr

/-- A chunk the source has sent and that is not complete (R477, R479). -/
structure ChunkOut where
  firstMnum : Nat
  lastMnum : Nat
  cid : Nat
  /-- the chunk's bytes, clear header to tag, held until it completes -/
  bytes : Bytes
deriving DecidableEq, Repr

/-- The message a source is building (R476): its MNUM, and its blocks by logical block or block of the frame, read so far. -/
structure Build where
  mnum : Nat
  blocks : List (Nat × RdState)
deriving DecidableEq, Repr

/-- A source volume's points (R474, R475). -/
structure Source where
  /-- the last point number given; R474 -/
  last : Nat := 0
  /-- NONCE[31:12] of the present REPL_BEGIN; R477 -/
  nonce : Nat := 0
  /-- MNUM of the next message to build; none before REPL_BEGIN has answered; R479 -/
  nextMnum : Option Nat := none
  /-- the message being built -/
  build : Option Build := none
  /-- messages built and not yet in a chunk, with their MNUM, oldest first -/
  out : List (Nat × Bytes) := []
  /-- chunks outstanding; R477 -/
  chunks : List ChunkOut := []
  /-- failures of a chunk by its first MNUM; R479 -/
  fails : Tab Nat Nat := []
  /-- REPL_BEGIN, REPL_END or REPL_TAKE_DELETE outstanding: opcode and CID -/
  asked : Option (Nat × Nat) := none
  /-- the point stopped after three failures of a chunk, until REPL_SESSION_WAIT; R479 -/
  stopped : Bool := false
  /-- takes whose deletion waits to be replicated; R475 -/
  delTakes : List Nat := []
deriving DecidableEq, Repr

/-- A chunk a replica holds that arrived early (R477). -/
structure ChunkIn where
  acc : Nat
  firstMnum : Nat
  bytes : Bytes
deriving DecidableEq, Repr

/-- A replica volume (R472, R477, R478). -/
structure Replica where
  /-- the point begun, and on which connection; R471 REPL_POINT_MISMATCH -/
  begun : Option (Nat × Nat) := none
  /-- the last MNUM applied of it -/
  mnum : Nat := 0
  /-- the last committed point -/
  base : Nat := 0
  promoted : Bool := false
  /-- chunks that wait for an earlier one -/
  held : List ChunkIn := []
deriving DecidableEq, Repr

/-- One target's connection (R473). -/
structure Target16 where
  /-- the context index of the outbound connection -/
  conn : Option Nat := none
  /-- OPEN_REPLY came: the connection is Ready; RPL_STAT[15:0] -/
  ready : Bool := false
  /-- CID of the next command on the connection -/
  nextCid : Nat := 0
  /-- the peer's HEAD_ID that NOT_OWNER reported; R473 -/
  peerHead : Nat := 0
  /-- REPL_LAG was raised for the present crossing; R488 -/
  lagRaised : Bool := false
deriving DecidableEq, Repr

/-- RPL: snapshots and replication (R487). -/
structure Rpl where
  /-- the catalogue by SLOT, live and releasing records; RPL_SNAPS; R469 -/
  snaps : Tab Nat Snap := []
  /-- preserved pages by SLOT and page; RPL_PAGES; R464 -/
  pages : Tab (Nat × Nat) (List Nat) := []
  /-- SSEQ of each volume; R464 -/
  sseq : Tab Nat Nat := []
  /-- PSEQ by volume and page; R464 -/
  pseq : Tab (Nat × Nat) Nat := []
  /-- frames of deleted takes that a snapshot holds, by volume, take and SLOT; R468 -/
  heldTakes : Tab (Nat × Nat × Nat) Take := []
  /-- source volumes; R474 -/
  sources : Tab Nat Source := []
  /-- replica volumes; R477 -/
  replicas : Tab Nat Replica := []
  /-- targets 0 to 15; R473 -/
  targets : Tab Nat Target16 := []
  /-- RPL_PRESERVE_FAIL; R487 -/
  preserveFail : Word := 0
  /-- RPL_TGT_SEL[3:0]; R487 -/
  tgtSel : BitVec 4 := 0
  /-- RPL_TX; R487 -/
  tx : Word64 := 0
  /-- RPL_POINTS; R487 -/
  points : Word := 0
  /-- RPL_CHUNK_FAIL; R487 -/
  chunkFail : Word := 0
deriving DecidableEq, Repr

end Sys2Proof.Machine
end

