-- ==== Sys2Proof/Blocks/Buf.lean ====
section
/-! DEFINITION. The buffer memory controller (BUF, chapter 14) and the adaptive control unit (ADP, chapter 15). -/

namespace Sys2Proof.Machine

/-- What BUF_INIT_DONE finds in one channel (R489, R490). -/
structure Channel where
  /-- an SPD of the channel could not be read -/
  spdBad : Bool := false
  /-- modules fitted, 0 to 2 -/
  modules : Nat := 1
  /-- capacity of each module in GiB, ranks of each, device density -/
  gib : Nat := 16
  ranks : Nat := 1
  density : Nat := 16
  /-- an RDIMM of x4 devices with 8 ECC bits for each 32-bit subchannel -/
  supported : Bool := true
  /-- the lowest of the highest speeds its modules' SPD state -/
  speed : Nat := 4800
  /-- the SPD reports DRFM -/
  drfm : Bool := false
  /-- training failed once, or twice -/
  trainFails : Nat := 0
deriving DecidableEq, Repr

/-- BUF: the buffer memory controller (R514). -/
structure Buf where
  /-- BUF_STAT.STATE; R514 -/
  state : BitVec 2 := 0
  /-- BUF_STAT.FAIL; R514 -/
  fail : Bool := false
  /-- BUF_STAT.CODE; R514 -/
  code : BitVec 4 := 0
  /-- BUF_STAT.CHAN; R514 -/
  chan : BitVec 4 := 0
  /-- modules per channel, capacity of a module in GiB, ranks of a channel, DRFM: BUF_STAT.DPC, MODCAP; R489 -/
  dpc : Nat := 0
  gib : Nat := 0
  ranks : Nat := 0
  drfm : Bool := false
  /-- BUF_CH_STAT[11:0]; R514 -/
  trained : BitVec 12 := 0
  /-- BUF_CH_STAT[23:12]; R514 -/
  selfRef : BitVec 12 := 0
  /-- channels that have failed; BUF_CH_STAT[24]; R501 -/
  failedCh : BitVec 12 := 0
  /-- ranks at doubled refresh, by channel and rank: readings at the normal rate in a row; BUF_REF_STAT[11:0]; R503 -/
  doubled : Tab (Nat × Nat) Nat := []
  /-- ranks whose last reading was above range; BUF_REF_STAT[23:12]; R503 -/
  hot : List (Nat × Nat) := []
  /-- refreshes issued, by channel and rank -/
  refreshes : Tab (Nat × Nat) Nat := []
  /-- BUF_CH_SEL[3:0]; R514 -/
  chSel : BitVec 4 := 0
  /-- BUF_CH_SEL[5:4]; R514 -/
  rankSel : BitVec 2 := 0
  /-- BUF_CE_CNT by channel; R514 -/
  ce : Tab Nat Word := []
  /-- BUF_UE_CNT by channel; R514 -/
  ue : Tab Nat Word := []
  /-- uncorrectable lines of the last second by channel: timestamps; R501 -/
  ueTimes : Tab Nat (List Word64) := []
  /-- corrections of the last 24 h by channel, subchannel, rank and device: timestamps; R499 -/
  ceTimes : Tab (Nat × Nat × Nat × Nat) (List Word64) := []
  /-- the marked device by channel, subchannel and rank; BUF_MARKED; R499 -/
  marked : Tab (Nat × Nat × Nat) Nat := []
  /-- devices that raised DRAM_DEVICE_MARKED without being marked; R499 -/
  unmarked : List (Nat × Nat × Nat × Nat) := []
  /-- BUF_NRR_CNT; R514 -/
  nrr : Word := 0
  /-- BUF_ERR_ADDR; R514 -/
  errAddr : Word64 := 0
  /-- the scrub position: lines done of the pass; BUF_SCRUB_POS; R502 -/
  scrubPos : Nat := 0
  /-- BUF_CLASS_SEL[2:0]; R514 -/
  classSel : BitVec 3 := 0
  /-- BUF_CLASS_BW by class; R514 -/
  classBw : Tab Nat Word := []
  /-- BUF_CLASS_LAT_MAX by class; R514 -/
  classLat : Tab Nat Word := []
  /-- BUF_REGION_SEL[3:0]; R514 -/
  regionSel : BitVec 4 := 0
  /-- the regions placed: base and size in bytes, in table order; R494 -/
  regions : List (Nat × Nat) := []
  /-- activate tables by channel, subchannel, rank and bank: row and count, at most 32; R504 -/
  acts : Tab (Nat × Nat × Nat × Nat) (List (Nat × Nat)) := []
  /-- the last line returned to its source: address, armed set, bytes or poison; R500 -/
  lastLine : Option (Nat × Bool × Option Bytes) := none
  /-- the exit from self-refresh under way: channels; R506 -/
  exiting : BitVec 12 := 0
deriving DecidableEq, Repr

/-- What a loop keeps of one of its objects (R516, R519, R541). -/
structure LoopInst where
  /-- ADP_LOOP_MEAS -/
  meas : Nat := 0
  /-- ADP_LOOP_ACT -/
  act : Nat := 0
  /-- timestamp and direction of the last action; ADP_LOOP_LAST -/
  last : Option (Word64 × Bool) := none
  /-- timestamps of its reversals within 64 dwells -/
  revs : List Word64 := []
  /-- at the lower limit, at the upper limit; ADP_LOOP_STAT -/
  atLo : Bool := false
  atHi : Bool := false
  /-- AL-EQ: a change on trial: coefficient (0 pre-cursor, 1 post-cursor, 2 the head's receiver), up, margin before it; R530 -/
  trial : Option (Nat × Bool × Nat) := none
  /-- AL-EQ: samples in a row below EQ_FLOOR; R530 -/
  low : Nat := 0
  /-- AL-EQ: the receiver setting -/
  coef : Int := 0
deriving DecidableEq, Repr

/-- ADP: the adaptive control unit (R541). -/
structure Adp where
  /-- ADP_FREEZE[5:0]; R541 -/
  freeze : BitVec 6 := 0
  /-- ADP_FREEZE_CAUSE[5:0]; R541 -/
  cause : BitVec 6 := 0
  /-- ADP_LOOP_SEL[2:0]; R541 -/
  selLoop : BitVec 3 := 0
  /-- ADP_LOOP_SEL[28:16]; R541 -/
  selInst : BitVec 13 := 0
  /-- ADP_LOOP_ACTIONS by loop; R541 -/
  actions : Tab Nat Word := []
  /-- ADP_LOOP_LIMIT_HITS by loop; R541 -/
  hits : Tab Nat Word := []
  /-- ADP_REVERSALS by loop; R541 -/
  reversals : Tab Nat Word := []
  /-- the objects of each loop, by loop and number; R516 -/
  inst : Tab (Nat × Nat) LoopInst := []
  /-- timestamps of the AL-RT probe reads of the last 1 ms; R541 -/
  probeTimes : List Word64 := []
  /-- points of the clusters DP0 to DP7 in MHz, 0 before one starts; CLK_DP_FREQ0 to 3; R522 -/
  freq : List Nat := List.replicate 8 0
  /-- VF_HOT was raised for the present crossing; R521 -/
  vfHot : Bool := false
  /-- ADP_GC_DEMAND; R541 -/
  gcDemand : Word := 0
  /-- the background share of collection by top unit, in units of 0.01 %; R524 -/
  bgShare : Tab Nat Nat := []
  /-- the host pace H by top unit in MB/s, for a unit in Urgent; R525 -/
  pace : Tab Nat Nat := []
deriving DecidableEq, Repr

end Sys2Proof.Machine
end

