-- ==== Sys2Proof/Syntax.lean ====
section
/-! DEFINITION. The commands of the block: one constructor for each row of spec/opcode_table.json, in the table's order, with
what comes from outside the block (a register access, a packet, a frame, a reading, the expiry of a timer) as its operands. -/

namespace Sys2Proof

open Sys2Proof.Machine

/-- The commands and events of the head. Each names the rule that governs it. -/
inductive Instr where
  /-- REGISTER_WRITE; R19 -/
  | registerWrite (r : Requester) (addr : BitVec 24) (size : Nat) (val : Word)
  /-- READ_RC_FIELD; R25 -/
  | readRcField (r : Requester) (addr : BitVec 24) (size : Nat)
  /-- READ_64_LOW; R18 -/
  | read64Low (r : Requester) (addr : BitVec 24) (size : Nat)
  /-- READ_64_HIGH; R589 -/
  | read64High (r : Requester) (addr : BitVec 24) (size : Nat)
  /-- WRITE_64_LOW; R589 -/
  | write64Low (r : Requester) (addr : BitVec 24) (size : Nat) (val : Word)
  /-- WRITE_64_HIGH; R18 -/
  | write64High (r : Requester) (addr : BitVec 24) (size : Nat) (val : Word)
  /-- AO_RAILS_IN_RANGE; R95 -/
  | aoRailsInRange
  /-- AO_RELEASE_TIMER; R95 -/
  | aoReleaseTimer
  /-- RAIL_WAIT_END; R597 -/
  | railWaitEnd (headId : Bool) (prefHead : Bool)
  /-- OPTION_BYTE_READ_DONE; R58 -/
  | optionByteReadDone (raw : Bytes)
  /-- OPTION_REREAD_TIMER; R58 -/
  | optionRereadTimer
  /-- RECORD_READ_DONE; R61 -/
  | recordReadDone (raw : Bytes)
  /-- LOAD_CHECKS_DONE; R74 -/
  | loadChecksDone
  /-- CLOCK_GOOD; R94 -/
  | clockGood (domain : Nat)
  /-- CLOCK_FAILURE; R96 -/
  | clockFailure (source : Nat)
  /-- CDC_FALLBACK; R103 -/
  | cdcFallback (crossing : Nat)
  /-- BROWNOUT_RESET; R115 -/
  | brownoutReset (rail : Nat)
  /-- RESET_N_LOW; R89 -/
  | resetNLow (ns : Nat)
  /-- RESET_N_HIGH; R89 -/
  | resetNHigh
  /-- WATCHDOG_EXPIRY; R91 -/
  | watchdogExpiry
  /-- RST_WDOG_KICK; R91 -/
  | rstWdogKick (r : Requester) (val : Word)
  /-- SOFT_RESET_L0; R92 -/
  | softResetL0 (r : Requester) (val : Word)
  /-- SOFT_RESET_L1; R92 -/
  | softResetL1 (r : Requester) (val : Word)
  /-- SOFT_RESET_L2; R92 -/
  | softResetL2 (r : Requester) (val : Word)
  /-- SOFT_RESET_L3; R93 -/
  | softResetL3 (r : Requester) (val : Word)
  /-- THERMAL_TRIP; R90 -/
  | thermalTrip (temp : Int)
  /-- THERMAL_TRIP_END; R90 -/
  | thermalTripEnd (temp : Int)
  /-- DEBUG_RESET; R92 -/
  | debugReset
  /-- PWR_REQ_RUN; R108 -/
  | pwrReqRun (r : Requester) (val : Word)
  /-- PWR_REQ_ARMED; R107 -/
  | pwrReqArmed (r : Requester) (val : Word)
  /-- PWR_REQ_QUIET; R107 -/
  | pwrReqQuiet (r : Requester) (val : Word)
  /-- PWR_REQ_DORMANT; R107 -/
  | pwrReqDormant (r : Requester) (val : Word)
  /-- ARM_IDLE_EXPIRY; R107 -/
  | armIdleExpiry
  /-- PWR_WAKE_TIMER; R108 -/
  | pwrWakeTimer
  /-- POWER_ENTRY_DONE; R110 -/
  | powerEntryDone
  /-- WAKE_COMPLETE; R109 -/
  | wakeComplete
  /-- HOLD_START; R112 -/
  | holdStart (rail : Option Nat)
  /-- HOLD_CLEAR_TIMER; R114 -/
  | holdClearTimer
  /-- HOLD_FLUSH_DONE; R120 -/
  | holdFlushDone
  /-- SUBPORT_DOWN; R129 -/
  | subportDown (sub : BitVec 4)
  /-- SUBPORT_UP; R129 -/
  | subportUp (sub : BitVec 4)
  /-- FAB_CTRL_WRITE; R160 -/
  | fabCtrlWrite (r : Requester) (val : Word)
  /-- ARP_REQUEST; R127 -/
  | arpRequest (port : Option (BitVec 4)) (ip : BitVec 32) (mac : BitVec 48)
  /-- NEIGHBOUR_SOLICITATION; R127 -/
  | neighbourSolicitation (sub : BitVec 4) (target : BitVec 128) (src : BitVec 128)
  /-- ICMP_ECHO; R127 -/
  | icmpEcho (port : Option (BitVec 4)) (dst : BitVec 128) (src : BitVec 128) (data : Bytes)
  /-- ROCE_SEND; R172 -/
  | roceSend (h : RoceHdr) (pos : PktPos) (payload : Bytes)
  /-- ROCE_RDMA_WRITE; R144 -/
  | roceRdmaWrite (h : RoceHdr) (pos : PktPos) (rkey : BitVec 32) (va : BitVec 64) (payload : Bytes)
  /-- ROCE_RDMA_WRITE_IMM; R181 -/
  | roceRdmaWriteImm (h : RoceHdr) (pos : PktPos) (rkey : BitVec 32) (va : BitVec 64) (imm : BitVec 32) (payload : Bytes)
  /-- ROCE_RDMA_READ_REQUEST; R183 -/
  | roceRdmaReadRequest (h : RoceHdr) (rkey : BitVec 32) (va : BitVec 64) (len : BitVec 32)
  /-- ROCE_ACK; R153 -/
  | roceAck (h : RoceHdr)
  /-- ROCE_NAK; R154 -/
  | roceNak (h : RoceHdr) (code : BitVec 8) (delay : BitVec 32)
  /-- ROCE_CNP; R155 -/
  | roceCnp (h : RoceHdr)
  /-- ROCE_UNSUPPORTED_OPCODE; R131 -/
  | roceUnsupportedOpcode (h : RoceHdr)
  /-- CM_REQ; R133 -/
  | cmReq (req : ConnReq)
  /-- CM_RTU; R147 -/
  | cmRtu (qpn : BitVec 24)
  /-- CM_DREQ; R147 -/
  | cmDreq (qpn : BitVec 24)
  /-- REP_RETRY_TIMER; R147 -/
  | repRetryTimer (qpn : BitVec 24)
  /-- LOT_DATA; R138 -/
  | lotData (h : LotHdr) (raw : Bytes)
  /-- LOT_SEND; R139 -/
  | lotSend (h : LotHdr) (raw : Bytes)
  /-- LOT_ACK; R141 -/
  | lotAck (h : LotHdr) (raw : Bytes)
  /-- LOT_NAK; R154 -/
  | lotNak (h : LotHdr) (raw : Bytes)
  /-- LOT_OPEN; R136 -/
  | lotOpen (h : LotHdr) (raw : Bytes)
  /-- LOT_CLOSE; R136 -/
  | lotClose (h : LotHdr) (raw : Bytes)
  /-- LOT_CNP; R155 -/
  | lotCnp (h : LotHdr) (raw : Bytes)
  /-- QP_CONTEXT_FETCH_DONE; R149 -/
  | qpContextFetchDone (idx : Nat)
  /-- RETRY_TIMEOUT; R153 -/
  | retryTimeout (qpn : BitVec 24)
  /-- RNR_RESEND_TIMER; R154 -/
  | rnrResendTimer (qpn : BitVec 24)
  /-- QP_ERR_LINGER_EXPIRY; R147 -/
  | qpErrLingerExpiry (qpn : BitVec 24)
  /-- CHECKPOINT_BATCH; R152 -/
  | checkpointBatch
  /-- CNP_RATE_RAISE; R155 -/
  | cnpRateRaise (qpn : BitVec 24) (sub : BitVec 4)
  /-- EVENT_MERGE_INTERVAL; R156 -/
  | eventMergeInterval (qpn : BitVec 24) (code : BitVec 16)
  /-- ADDR_ANNOUNCE_REPEAT; R157 -/
  | addrAnnounceRepeat (sub : BitVec 4)
  /-- READ; R182 -/
  | read (qpn : BitVec 24)
  /-- WRITE; R179 -/
  | write (qpn : BitVec 24)
  /-- TRIM; R175 -/
  | trim (qpn : BitVec 24)
  /-- FLUSH; R189 -/
  | flush (qpn : BitVec 24)
  /-- RELEASE; R183 -/
  | release (qpn : BitVec 24)
  /-- TAKE_OPEN; R190 -/
  | takeOpen (qpn : BitVec 24)
  /-- FRAME_APPEND; R191 -/
  | frameAppend (qpn : BitVec 24)
  /-- FRAME_READ; R185 -/
  | frameRead (qpn : BitVec 24)
  /-- TAKE_SEAL; R191 -/
  | takeSeal (qpn : BitVec 24)
  /-- TAKE_DELETE; R191 -/
  | takeDelete (qpn : BitVec 24)
  /-- TAKE_INFO; R178 -/
  | takeInfo (qpn : BitVec 24)
  /-- IDENTIFY; R178 -/
  | identify (qpn : BitVec 24)
  /-- VOLUME_INFO; R178 -/
  | volumeInfo (qpn : BitVec 24)
  /-- ABORT; R194 -/
  | abort (qpn : BitVec 24)
  /-- ORPHAN_STATUS; R197 -/
  | orphanStatus (qpn : BitVec 24)
  /-- TRANSFER_READY_SEND; R179 -/
  | transferReadySend (qpn : BitVec 24) (cid : BitVec 16)
  /-- WINDOW_TIMEOUT; R193 -/
  | windowTimeout (index : Nat)
  /-- ORPHAN_KEEP_EXPIRY; R196 -/
  | orphanKeepExpiry
  /-- INGEST_BLOCK_DONE; R218 -/
  | ingestBlockDone (qpn : BitVec 24) (cid : BitVec 16) (num : Nat) (fault : Option Nat) (lane : Nat)
  /-- DRAM_LINE_READ; R498 -/
  | dramLineRead (armed : Bool) (addr : BitVec 40) (raw : Bytes)
  /-- CMP_JOB_SUBMIT; R246 -/
  | cmpJobSubmit (job : CmpJob)
  /-- CMP_JOB_DONE; R248 -/
  | cmpJobDone (jobId : Nat) (input : Bytes)
  /-- FPR_REBUILD; R254 -/
  | fprRebuild (r : Requester) (val : Word)
  /-- FILTER_REBUILD_DONE; R254 -/
  | filterRebuildDone
  /-- KEY_LOAD; R259 -/
  | keyLoad (r : Requester) (val : Word)
  /-- KEY_ERASE; R258 -/
  | keyErase (r : Requester) (val : Word)
  /-- KEY_LOAD_DONE; R259 -/
  | keyLoadDone (selfTest : Bool)
  /-- KEY_ERASE_DONE; R258 -/
  | keyEraseDone (slot : Nat)
  /-- CIP_CONTEXT_SAVE; R267 -/
  | cipContextSave (lane : Nat)
  /-- CIP_CONTEXT_RESUME; R267 -/
  | cipContextResume (lane : Nat) (ref : Nat)
  /-- FTL_FORMAT; R324 -/
  | ftlFormat (r : Requester) (val : Word)
  /-- FORMAT_DONE; R324 -/
  | formatDone
  /-- FTL_REPLAY_DONE; R337 -/
  | ftlReplayDone (mapBlocks : List Bytes) (jnlBlocks : List Bytes) (used : List (Nat × Nat × Nat))
  /-- MAP_SPILL_TIMER; R334 -/
  | mapSpillTimer
  /-- GC_VICTIM_START; R341 -/
  | gcVictimStart (top : Nat)
  /-- PARTIAL_WAIT_EXPIRY; R366 -/
  | partialWaitExpiry (top : Nat)
  /-- PAD_WAIT_EXPIRY; R365 -/
  | padWaitExpiry (qpn : BitVec 24) (cid : BitVec 16)
  /-- ROW_IDLE_CLOSE_EXPIRY; R370 -/
  | rowIdleCloseExpiry (top : Nat)
  /-- JOURNAL_SPILL; R373 -/
  | journalSpill
  /-- REBUILD_WAIT_EXPIRY; R378 -/
  | rebuildWaitExpiry (die : Nat)
  /-- HEM_PATROL_PACE; R386 -/
  | hemPatrolPace
  /-- PRSNT_CHANGE; R418 -/
  | prsntChange (port : Nat) (low : Bool)
  /-- PRSNT_DEBOUNCE_EXPIRY; R418 -/
  | prsntDebounceExpiry (port : Nat)
  /-- SLED_LINK_L0; R419 -/
  | sledLinkL0 (port : Nat) (lost : Option Nat)
  /-- OSL_FLIT_RECEIVE; R405 -/
  | oslFlitReceive (port : Nat) (raw : Bytes)
  /-- OSL_NAK; R405 -/
  | oslNak (port : Nat) (raw : Bytes)
  /-- OSL_INIT_CREDIT; R408 -/
  | oslInitCredit (port : Nat) (raw : Bytes)
  /-- OSL_EQ_SET; R423 -/
  | oslEqSet (port : Nat) (raw : Bytes)
  /-- OSL_EQ_ACK; R423 -/
  | oslEqAck (port : Nat) (raw : Bytes)
  /-- SLED_REST_IDLE; R422 -/
  | sledRestIdle (port : Nat)
  /-- OSL_REST_ACK; R422 -/
  | oslRestAck (port : Nat)
  /-- REST_EXIT; R422 -/
  | restExit (port : Nat)
  /-- RETRAIN_COMPLETE; R406 -/
  | retrainComplete (port : Nat)
  /-- RETRAIN_TIMEOUT; R406 -/
  | retrainTimeout (port : Nat)
  /-- SLD_CMD_TIMEOUT_EXPIRY; R418 -/
  | sldCmdTimeoutExpiry (port : Nat) (tag : Nat)
  /-- OSL_CPL; R410 -/
  | oslCpl (port : Nat) (raw : Bytes)
  /-- OSL_RDATA; R410 -/
  | oslRdata (port : Nat) (raw : Bytes)
  /-- OSL_NOTICE; R409 -/
  | oslNotice (port : Nat) (raw : Bytes)
  /-- CLAIM_WAIT_EXPIRY; R444 -/
  | claimWaitExpiry
  /-- PL_GROUP_UP; R432 -/
  | plGroupUp (group : Nat)
  /-- PL_GROUP_DOWN; R432 -/
  | plGroupDown (group : Nat)
  /-- PL_SESSION_START; R434 -/
  | plSessionStart (session : BitVec 32)
  /-- PL_FRAME_RECEIVE; R434 -/
  | plFrameReceive (raw : Bytes)
  /-- PL_QP_CKPT; R439 -/
  | plQpCkpt (cseq : BitVec 32) (fence : BitVec 32) (body : Bytes)
  /-- PL_CMD_REC; R439 -/
  | plCmdRec (cseq : BitVec 32) (fence : BitVec 32) (body : Bytes)
  /-- PL_WIN_REC; R439 -/
  | plWinRec (cseq : BitVec 32) (fence : BitVec 32) (body : Bytes)
  /-- PL_OUT_REC; R440 -/
  | plOutRec (cseq : BitVec 32) (fence : BitVec 32) (body : Bytes)
  /-- PL_CONN_REC; R613 -/
  | plConnRec (cseq : BitVec 32) (fence : BitVec 32) (body : Bytes)
  /-- PL_HELLO; R450 -/
  | plHello (cseq : BitVec 32) (fence : BitVec 32) (body : Bytes)
  /-- PL_JNL; R439 -/
  | plJnl (cseq : BitVec 32) (body : Bytes)
  /-- PL_MAP; R439 -/
  | plMap (cseq : BitVec 32) (body : Bytes)
  /-- PL_RELEASE; R441 -/
  | plRelease (body : Bytes)
  /-- PL_SEG; R215 -/
  | plSeg (body : Bytes)
  /-- PL_FILL; R451 -/
  | plFill (cseq : BitVec 32) (body : Bytes)
  /-- PL_REPAIR; R224 -/
  | plRepair (cseq : BitVec 32) (body : Bytes)
  /-- PL_LOST; R435 -/
  | plLost (args : Bytes)
  /-- PL_SEGFAIL; R215 -/
  | plSegfail (args : Bytes)
  /-- PL_DISCARD; R53 -/
  | plDiscard (args : Bytes)
  /-- PL_REPAIR_REQ; R500 -/
  | plRepairReq (args : Bytes)
  /-- PL_POWER; R106 -/
  | plPower (args : Bytes)
  /-- PL_SYNCED; R450 -/
  | plSynced (args : Bytes)
  /-- PL_HANDOVER; R442 -/
  | plHandover (args : Bytes)
  /-- PL_CLAIMED; R450 -/
  | plClaimed (args : Bytes)
  /-- PL_UPD_DONE; R568 -/
  | plUpdDone (args : Bytes)
  /-- PL_RESEND_TIMER; R435 -/
  | plResendTimer (cls : PlClass)
  /-- PULSE_SEND; R437 -/
  | pulseSend
  /-- PULSE_FRAME_RECEIVE; R437 -/
  | pulseFrameReceive (raw : Bytes)
  /-- PULSE_WAKE; R108 -/
  | pulseWake (raw : Bytes)
  /-- PULSE_RESET_REQ; R438 -/
  | pulseResetReq (raw : Bytes)
  /-- PULSE_YIELD; R442 -/
  | pulseYield (raw : Bytes)
  /-- PULSE_HANDOVER; R442 -/
  | pulseHandover (raw : Bytes)
  /-- HEARTBEAT_PERIOD_MISS; R442 -/
  | heartbeatPeriodMiss (pulse : Bool)
  /-- PL_LOST_WAIT_EXPIRY; R442 -/
  | plLostWaitExpiry
  /-- JOIN_WAIT_EXPIRY; R449 -/
  | joinWaitExpiry
  /-- PRT_CTRL_GIVE_VOLUMES; R452 -/
  | prtCtrlGiveVolumes (r : Requester) (val : Word)
  /-- PRT_CTRL_HANDBACK; R451 -/
  | prtCtrlHandback (r : Requester) (val : Word)
  /-- PRT_CTRL_SOLO_START; R449 -/
  | prtCtrlSoloStart (r : Requester) (val : Word)
  /-- PRT_CTRL_SEND_RESET_REQ; R438 -/
  | prtCtrlSendResetReq (r : Requester) (val : Word)
  /-- SNAP_CREATE; R463 -/
  | snapCreate (qpn : BitVec 24)
  /-- SNAP_DELETE; R467 -/
  | snapDelete (qpn : BitVec 24)
  /-- PRESERVED_PAGE_RELEASE; R467 -/
  | preservedPageRelease (slot : Nat) (page : Nat)
  /-- SNAP_READ; R465 -/
  | snapRead (qpn : BitVec 24)
  /-- SNAP_FRAME_READ; R468 -/
  | snapFrameRead (qpn : BitVec 24)
  /-- SNAP_LIST; R470 -/
  | snapList (qpn : BitVec 24)
  /-- REPL_POINT; R474 -/
  | replPoint (qpn : BitVec 24)
  /-- REPL_INFO; R470 -/
  | replInfo (qpn : BitVec 24)
  /-- REPL_PROMOTE; R480 -/
  | replPromote (qpn : BitVec 24)
  /-- REPL_BEGIN; R470 -/
  | replBegin (qpn : BitVec 24)
  /-- REPL_DATA; R477 -/
  | replData (qpn : BitVec 24)
  /-- REPL_END; R478 -/
  | replEnd (qpn : BitVec 24)
  /-- REPL_TAKE_DELETE; R475 -/
  | replTakeDelete (qpn : BitVec 24)
  /-- REPL_PERIOD_EXPIRY; R474 -/
  | replPeriodExpiry (vol : Nat)
  /-- REPL_SESSION_WAIT_EXPIRY; R479 -/
  | replSessionWaitExpiry (target : Nat)
  /-- REPL_LAG; R488 -/
  | replLag (target : Nat)
  /-- BUF_INIT_DONE; R491 -/
  | bufInitDone (channels : List Channel)
  /-- SCRUB_STEP; R502 -/
  | scrubStep (raw : Bytes)
  /-- MR4_POLL; R503 -/
  | mr4Poll (channel : Nat) (rank : Nat) (rate : Nat)
  /-- REFRESH_DUE; R503 -/
  | refreshDue (channel : Nat) (rank : Nat)
  /-- ACT_TABLE_WINDOW; R504 -/
  | actTableWindow
  /-- SELF_REFRESH_EXIT_DONE; R506 -/
  | selfRefreshExitDone (readings : List (Nat × Nat × Nat))
  /-- AL_VF_SAMPLE; R522 -/
  | alVfSample (clusters : List (Nat × Bool)) (tj : Int)
  /-- AL_EQ_SAMPLE; R530 -/
  | alEqSample (margins : List (Nat × Nat))
  /-- AL_GC_SAMPLE; R523 -/
  | alGcSample (dies : List (Nat × Nat × Nat))
  /-- AL_RB_SAMPLE; R529 -/
  | alRbSample (latency : Nat) (rate : Nat)
  /-- ADP_FREEZE_WRITE; R518 -/
  | adpFreezeWrite (r : Requester) (val : Word)
  /-- MGMT_READ; R545 -/
  | mgmtRead (src : Option (BitVec 32)) (raw : Bytes)
  /-- MGMT_WRITE; R545 -/
  | mgmtWrite (src : Option (BitVec 32)) (raw : Bytes)
  /-- MGMT_UPD_BLOCK; R564 -/
  | mgmtUpdBlock (src : Option (BitVec 32)) (raw : Bytes)
  /-- MGMT_EVR_READ; R545 -/
  | mgmtEvrRead (src : Option (BitVec 32)) (raw : Bytes)
  /-- JUNCTION_SAMPLE; R547 -/
  | junctionSample (readings : List (Nat × Int))
  /-- SENSOR_POLL; R549 -/
  | sensorPoll (readings : List (Nat × Option (BitVec 16) × BitVec 5))
  /-- FAN_UPDATE; R550 -/
  | fanUpdate (tach : List (BitVec 16))
  /-- FAN_TACH_FAIL; R550 -/
  | fanTachFail (fan : Nat) (rpm : BitVec 16)
  /-- MGT_DEBUG_SET; R546 -/
  | mgtDebugSet (r : Requester) (val : Word)
  /-- MGT_DEBUG_CLEAR; R546 -/
  | mgtDebugClear (r : Requester) (val : Word)
  /-- EVR_CTRL_WRITE; R556 -/
  | evrCtrlWrite (r : Requester) (val : Word)
  /-- EVR_CLEAR; R557 -/
  | evrClear (r : Requester) (val : Word)
  /-- EVR_SPILL; R555 -/
  | evrSpill (count : Nat)
  /-- MSR_EXT_GO; R559 -/
  | msrExtGo (r : Requester) (val : Word)
  /-- MSR_DIG_GO; R561 -/
  | msrDigGo (r : Requester) (val : Word)
  /-- MSR_DIG_DONE; R561 -/
  | msrDigDone
  /-- MSR_VAL0_READ; R560 -/
  | msrVal0Read (r : Requester)
  /-- CHAIN_BLOCK; R563 -/
  | chainBlock (dn : Bool) (raw : Bytes)
  /-- CHAIN_ACK; R563 -/
  | chainAck (dn : Bool) (raw : Bytes)
  /-- CHAIN_NAK; R563 -/
  | chainNak (dn : Bool) (raw : Bytes)
  /-- CHAIN_RESEND_TIMER; R563 -/
  | chainResendTimer (dn : Bool) (cseq : Nat)
  /-- CHAIN_TOKEN; R572 -/
  | chainToken (dn : Bool) (raw : Bytes)
  /-- AGREE_PERIOD_TOKEN; R571 -/
  | agreePeriodToken
  /-- AGREE_LOST_TIMER; R572 -/
  | agreeLostTimer
  /-- UPD_VERIFY_DONE; R566 -/
  | updVerifyDone (same : Bool)
  /-- UPD_CTRL_ACTIVATE; R568 -/
  | updCtrlActivate (r : Requester) (val : Word)
  /-- UPD_CTRL_ABANDON; R566 -/
  | updCtrlAbandon (r : Requester) (val : Word)
  /-- UPD_CTRL_ROLLBACK; R569 -/
  | updCtrlRollback (r : Requester) (val : Word)
  /-- UPD_CTRL_REVOKE; R567 -/
  | updCtrlRevoke (r : Requester) (val : Word)
  /-- UPD_CONFIRM_TIMEOUT; R569 -/
  | updConfirmTimeout
  /-- REFCLK_RETURN; R96 -/
  | refclkReturn (source : Nat)
  /-- PWR_WARN_N_HIGH; R114 -/
  | pwrWarnNHigh
  /-- RAIL_RECOVERED; R95 -/
  | railRecovered (rail : Nat)
  /-- CM_REJ; R133 -/
  | cmRej (qpn : BitVec 24)
  /-- LOT_OPEN_REPLY; R473 -/
  | lotOpenReply (h : LotHdr) (raw : Bytes)
  /-- PAUSE_FRAME_RECEIVE; R126 -/
  | pauseFrameReceive (sub : BitVec 4) (prio : Option (BitVec 8)) (stop : BitVec 8)
  /-- CHAIN_LINK_UP; R563 -/
  | chainLinkUp (dn : Bool)
deriving DecidableEq, Repr

end Sys2Proof
end

