-- ==== Sys2Proof/Config.lean ====
section
/-! DEFINITION. The free values: what the spec leaves open while the head goes on. Each is an opaque constant with no body, so
that a statement holds whatever it is (log entry 3). -/

namespace Sys2Proof

/-- A free word: the n-th value the spec leaves open, applied to the State's counter. -/
opaque freeWord : Nat → BitVec 64

/-- A free bit of the same kind. -/
opaque freeBit : Nat → Bool

/-- The token sequence the compressor emits for a block under a CMP_SEARCH (R244): the spec lets it be any one that expands to
the block, always the same for the same block. -/
opaque compressor : Nat → Bytes → Bytes

/-- Whether an ECDSA P-384 signature (r, s) by the public key of an index verifies over a digest (R64, R567): the standard's
verdict under keys that the spec does not give. -/
opaque signatureGood : Nat → Bytes → Bytes → Bytes → Bool

/-- SHA-384 of the mask ROM (R558): the spec does not give the ROM's contents. -/
opaque romDigest : Bytes

/-- The source and destination domain of a clock-domain crossing, 0 to 12 as CLK_STAT numbers them (R103, R118): the spec gives no table
of the crossings. -/
opaque crossingDomains : Nat → Nat × Nat

/-- LF of the head's own sled transmitters, with FS at 63 (R423): the spec gives it no value. -/
opaque headLf : Nat

/-- How many of a number of CMP jobs held run at once (R277): the spec gives no number. -/
opaque cmpRunning : Nat → Nat

end Sys2Proof
end

