-- ==== Sys2Proof/Machine/Bits.lean ====
section
/-! DEFINITION. Bit fields, little-endian fields of byte structures (R10, R11) and saturating counts. Every structure
Fingaut defines is little-endian, so a field is read and written by the two functions leNat and leBytes alone. -/

namespace Sys2Proof.Machine

/-- The unsigned little-endian value of a byte string (R11): byte 0 is the least significant. -/
def leNat : Bytes → Nat
  | [] => 0
  | b :: bs => b.toNat + 256 * leNat bs

/-- The low `k` bytes of a number, least significant first (R11). -/
def leBytes : Nat → Nat → Bytes
  | 0, _ => []
  | k + 1, n => BitVec.ofNat 8 (n % 256) :: leBytes k (n / 256)

/-- `len` bytes of a structure from byte offset `off`. -/
def slice (bs : Bytes) (off len : Nat) : Bytes := (bs.drop off).take len

/-- The little-endian field of `len` bytes at byte offset `off` (R11). -/
def fieldLe (bs : Bytes) (off len : Nat) : Nat := leNat (slice bs off len)

/-- Bits [lo+w-1:lo] of a number (R10). -/
def bitsAt (n lo w : Nat) : Nat := (n / 2 ^ lo) % 2 ^ w

/-- Bit `i` of a number (R10). -/
def bitAt (n i : Nat) : Bool := (n / 2 ^ i) % 2 == 1

/-- A Boolean as a one-bit number. -/
def b2n (b : Bool) : Nat := if b then 1 else 0

/-- A register word from a number (the value's low 32 bits). -/
def word (n : Nat) : Word := BitVec.ofNat 32 n

/-- A count of `w` bits that saturates at all ones. -/
def satN (w n : Nat) : Nat := min n (2 ^ w - 1)

/-- Add to a saturating count held as a bit vector. -/
def satAdd {w : Nat} (a : BitVec w) (n : Nat) : BitVec w := BitVec.ofNat w (min (a.toNat + n) (2 ^ w - 1))

/-- Add one to a saturating count. -/
def satInc {w : Nat} (a : BitVec w) : BitVec w := satAdd a 1

/-- Pad a byte string with zero bytes up to `n` bytes, and cut it there. -/
def padTo (n : Nat) (bs : Bytes) : Bytes := (bs ++ List.replicate (n - bs.length) 0).take n

/-- Whether every byte is zero (a reserved field). -/
def allZero (bs : Bytes) : Bool := bs.all (· == 0)

/-- Set bit `i` of a bit vector to `v`. -/
def setBit {w : Nat} (x : BitVec w) (i : Nat) (v : Bool) : BitVec w :=
  if v then x ||| (BitVec.ofNat w (2 ^ i)) else x &&& ~~~(BitVec.ofNat w (2 ^ i))

/-- Bit `i` of a bit vector. -/
def getBit {w : Nat} (x : BitVec w) (i : Nat) : Bool := x.getLsbD i

/-- How many bits of a bit vector are set. -/
def popCount {w : Nat} (x : BitVec w) : Nat := (List.range w).countP (fun i => x.getLsbD i)

/-- The numbers below `w` whose bits are set, rising. -/
def setBits {w : Nat} (x : BitVec w) : List Nat := (List.range w).filter (fun i => x.getLsbD i)

/-- A signed number in `w` bits, two's complement. -/
def toSigned (w n : Nat) : Int := if n % 2 ^ w < 2 ^ (w - 1) then (n % 2 ^ w : Nat) else (n % 2 ^ w : Nat) - (2 ^ w : Nat)

/-- The two's complement number of `w` bits of an integer. -/
def ofSigned (w : Nat) (i : Int) : Nat := (i % (2 ^ w : Nat)).toNat

/-- Whole quotient rounded up. -/
def ceilDiv (a b : Nat) : Nat := (a + b - 1) / b

/-- Cut a list into pieces of `n`, the last one shorter; `fuel` bounds the pieces. -/
def chunks {α : Type} (n : Nat) : Nat → List α → List (List α)
  | 0, _ => []
  | _ + 1, [] => []
  | fuel + 1, x :: xs => (x :: xs).take n :: chunks n fuel ((x :: xs).drop n)

/-- The first element that a test lets through, and its place. -/
def findIdxFrom {α : Type} (p : α → Bool) : Nat → List α → Option (Nat × α)
  | _, [] => none
  | k, x :: xs => if p x then some (k, x) else findIdxFrom p (k + 1) xs

/-- Replace the element at a place; unchanged past the end. -/
def setAt {α : Type} (i : Nat) (v : α) (l : List α) : List α := l.set i v

/-- Change the element at a place by a function. -/
def modAt {α : Type} (i : Nat) (f : α → α) : List α → List α
  | [] => []
  | x :: xs => match i with
    | 0 => f x :: xs
    | k + 1 => x :: modAt k f xs

/-- Keep the elements of a list that differ from those before them, first occurrences first. -/
def nubNat (l : List Nat) : List Nat := l.foldl (fun acc x => if acc.contains x then acc else acc ++ [x]) []

end Sys2Proof.Machine
end

