-- ==== Sys2Proof/Machine/Crc.lean ====
section
/-! DEFINITION. The check codes of the head: CRC-32C over byte structures and the CRC-64 of the carry checks (R207). Both
are bit-serial over bytes, least significant bit first; the remainders are numbers so that they evaluate fast. -/

namespace Sys2Proof.Machine

/-- One bit of a reflected CRC. -/
def crcBit (poly c : Nat) : Nat := if c % 2 = 1 then Nat.xor (c / 2) poly else c / 2

/-- One byte of a reflected CRC. -/
def crcByte (poly c : Nat) (b : Byte) : Nat :=
  let c0 := Nat.xor c b.toNat
  let c4 := crcBit poly (crcBit poly (crcBit poly (crcBit poly c0)))
  crcBit poly (crcBit poly (crcBit poly (crcBit poly c4)))

/-- PRESUMED (log entry 5): CRC-32C is the Castagnoli code of the published standards, polynomial 0x1EDC6F41 reflected,
started and ended with all ones. The spec names the code and gives no polynomial. -/
def crc32cPoly : Nat := 0x82F63B78

/-- CRC-32C of a byte string. -/
def crc32c (bs : Bytes) : Nat := Nat.xor (bs.foldl (crcByte crc32cPoly) 0xFFFFFFFF) 0xFFFFFFFF

/-- Whether the CRC-32C stored little-endian at the end of a structure is right (R13). -/
def crcGood (bs : Bytes) : Bool := 4 ≤ bs.length && leNat (bs.drop (bs.length - 4)) == crc32c (bs.take (bs.length - 4))

/-- A structure with its CRC-32C appended (R13). -/
def withCrc (bs : Bytes) : Bytes := bs ++ leBytes 4 (crc32c bs)

end Sys2Proof.Machine
end

