-- ==== Sys2Proof/Machine/Crypto.lean ====
section
/-! DEFINITION. The published standards the spec names without giving them (PRESUMED, log entry 8): SHA-256 and SHA-384
(FIPS 180-4), AES-256 (FIPS 197), GCM, XTS and key wrap, and the CRC-64 carry checks, whose parameters R207 gives. -/

namespace Sys2Proof.Machine

/-- Reflected form of the CRC-64 polynomial 0xAD93_D235_94C9_3659 (R207). -/
def crc64Poly : Nat := 0x9A6C9329AC4BC9B5

/-- K, the carry check of a 4 KiB block (R207); also Z over compressed bytes. -/
def carryK (bs : Bytes) : Nat := Nat.xor (bs.foldl (crcByte crc64Poly) (2 ^ 64 - 1)) (2 ^ 64 - 1)

/-- P, the partial of a fragment (R207). -/
def partialP (bs : Bytes) : Nat := bs.foldl (crcByte crc64Poly) 0

/-- A byte string as a big-endian number, as the standards hold words. -/
def beNat (bs : Bytes) : Nat := bs.foldl (fun n b => n * 256 + b.toNat) 0

/-- The big-endian bytes of a number. -/
def beBytes (k n : Nat) : Bytes := (leBytes k n).reverse

/-- Rotate a `w`-bit number right. -/
def rotr (w n k : Nat) : Nat := (n / 2 ^ k + n % 2 ^ k * 2 ^ (w - k)) % 2 ^ w

/-- What distinguishes SHA-256 from SHA-384: word bits, rotations, constants. -/
structure ShaKind where
  w : Nat
  big0 : Nat × Nat × Nat
  big1 : Nat × Nat × Nat
  small0 : Nat × Nat × Nat
  small1 : Nat × Nat × Nat
  rounds : List Nat
deriving DecidableEq, Repr

/-- Round constants of SHA-256. -/
def sha256K : List Nat := [0x428A2F98, 0x71374491, 0xB5C0FBCF, 0xE9B5DBA5, 0x3956C25B, 0x59F111F1, 0x923F82A4, 0xAB1C5ED5]
    ++ [0xD807AA98, 0x12835B01, 0x243185BE, 0x550C7DC3, 0x72BE5D74, 0x80DEB1FE, 0x9BDC06A7, 0xC19BF174]
    ++ [0xE49B69C1, 0xEFBE4786, 0x0FC19DC6, 0x240CA1CC, 0x2DE92C6F, 0x4A7484AA, 0x5CB0A9DC, 0x76F988DA]
    ++ [0x983E5152, 0xA831C66D, 0xB00327C8, 0xBF597FC7, 0xC6E00BF3, 0xD5A79147, 0x06CA6351, 0x14292967]
    ++ [0x27B70A85, 0x2E1B2138, 0x4D2C6DFC, 0x53380D13, 0x650A7354, 0x766A0ABB, 0x81C2C92E, 0x92722C85]
    ++ [0xA2BFE8A1, 0xA81A664B, 0xC24B8B70, 0xC76C51A3, 0xD192E819, 0xD6990624, 0xF40E3585, 0x106AA070]
    ++ [0x19A4C116, 0x1E376C08, 0x2748774C, 0x34B0BCB5, 0x391C0CB3, 0x4ED8AA4A, 0x5B9CCA4F, 0x682E6FF3]
    ++ [0x748F82EE, 0x78A5636F, 0x84C87814, 0x8CC70208, 0x90BEFFFA, 0xA4506CEB, 0xBEF9A3F7, 0xC67178F2]

/-- Round constants of SHA-384. -/
def sha384K : List Nat := [0x428A2F98D728AE22, 0x7137449123EF65CD, 0xB5C0FBCFEC4D3B2F, 0xE9B5DBA58189DBBC, 0x3956C25BF348B538]
    ++ [0x59F111F1B605D019, 0x923F82A4AF194F9B, 0xAB1C5ED5DA6D8118, 0xD807AA98A3030242, 0x12835B0145706FBE]
    ++ [0x243185BE4EE4B28C, 0x550C7DC3D5FFB4E2, 0x72BE5D74F27B896F, 0x80DEB1FE3B1696B1, 0x9BDC06A725C71235]
    ++ [0xC19BF174CF692694, 0xE49B69C19EF14AD2, 0xEFBE4786384F25E3, 0x0FC19DC68B8CD5B5, 0x240CA1CC77AC9C65]
    ++ [0x2DE92C6F592B0275, 0x4A7484AA6EA6E483, 0x5CB0A9DCBD41FBD4, 0x76F988DA831153B5, 0x983E5152EE66DFAB]
    ++ [0xA831C66D2DB43210, 0xB00327C898FB213F, 0xBF597FC7BEEF0EE4, 0xC6E00BF33DA88FC2, 0xD5A79147930AA725]
    ++ [0x06CA6351E003826F, 0x142929670A0E6E70, 0x27B70A8546D22FFC, 0x2E1B21385C26C926, 0x4D2C6DFC5AC42AED]
    ++ [0x53380D139D95B3DF, 0x650A73548BAF63DE, 0x766A0ABB3C77B2A8, 0x81C2C92E47EDAEE6, 0x92722C851482353B]
    ++ [0xA2BFE8A14CF10364, 0xA81A664BBC423001, 0xC24B8B70D0F89791, 0xC76C51A30654BE30, 0xD192E819D6EF5218]
    ++ [0xD69906245565A910, 0xF40E35855771202A, 0x106AA07032BBD1B8, 0x19A4C116B8D2D0C8, 0x1E376C085141AB53]
    ++ [0x2748774CDF8EEB99, 0x34B0BCB5E19B48A8, 0x391C0CB3C5C95A63, 0x4ED8AA4AE3418ACB, 0x5B9CCA4F7763E373]
    ++ [0x682E6FF3D6B2B8A3, 0x748F82EE5DEFB2FC, 0x78A5636F43172F60, 0x84C87814A1F0AB72, 0x8CC702081A6439EC]
    ++ [0x90BEFFFA23631E28, 0xA4506CEBDE82BDE9, 0xBEF9A3F7B2C67915, 0xC67178F2E372532B, 0xCA273ECEEA26619C]
    ++ [0xD186B8C721C0C207, 0xEADA7DD6CDE0EB1E, 0xF57D4F7FEE6ED178, 0x06F067AA72176FBA, 0x0A637DC5A2C898A6]
    ++ [0x113F9804BEF90DAE, 0x1B710B35131C471B, 0x28DB77F523047D84, 0x32CAAB7B40C72493, 0x3C9EBE0A15C9BEBC]
    ++ [0x431D67C49C100D4C, 0x4CC5D4BECB3E42B6, 0x597F299CFC657E2A, 0x5FCB6FAB3AD6FAEC, 0x6C44198C4A475817]

/-- SHA-256. -/
def sha256Kind : ShaKind := ⟨32, (2, 13, 22), (6, 11, 25), (7, 18, 3), (17, 19, 10), sha256K⟩

/-- SHA-384. -/
def sha384Kind : ShaKind := ⟨64, (28, 34, 39), (14, 18, 41), (1, 8, 7), (19, 61, 6), sha384K⟩

/-- The exclusive or of three rotations. -/
def shaBig (w : Nat) (r : Nat × Nat × Nat) (x : Nat) : Nat :=
  Nat.xor (rotr w x r.1) (Nat.xor (rotr w x r.2.1) (rotr w x r.2.2))

/-- The exclusive or of two rotations and a shift. -/
def shaSmall (w : Nat) (r : Nat × Nat × Nat) (x : Nat) : Nat :=
  Nat.xor (rotr w x r.1) (Nat.xor (rotr w x r.2.1) (x / 2 ^ r.2.2))

/-- Extend a message schedule held newest first by `n` words. -/
def shaExtend (k : ShaKind) : Nat → List Nat → List Nat
  | 0, ws => ws
  | n + 1, ws =>
    let x := (shaSmall k.w k.small1 (ws.getD 1 0) + ws.getD 6 0 + shaSmall k.w k.small0 (ws.getD 14 0) + ws.getD 15 0) % 2 ^ k.w
    shaExtend k n (x :: ws)

/-- One round on the eight working words. -/
def shaRound (k : ShaKind) (v : List Nat) (kw : Nat × Nat) : List Nat :=
  match v with
  | [a, b, c, d, e, f, g, h] =>
    let ch := Nat.xor (Nat.land e f) (Nat.land (2 ^ k.w - 1 - e) g)
    let maj := Nat.xor (Nat.land a b) (Nat.xor (Nat.land a c) (Nat.land b c))
    let t1 := h + shaBig k.w k.big1 e + ch + kw.1 + kw.2
    let t2 := shaBig k.w k.big0 a + maj
    [(t1 + t2) % 2 ^ k.w, a, b, c, (d + t1) % 2 ^ k.w, e, f, g]
  | _ => v

/-- One block into the hash words. -/
def shaBlock (k : ShaKind) (hs : List Nat) (block : Bytes) : List Nat :=
  let ws := (chunks (k.w / 8) 16 block).map beNat
  let sched := (shaExtend k (k.rounds.length - 16) ws.reverse).reverse
  let v := (k.rounds.zip sched).foldl (shaRound k) hs
  List.zipWith (fun a b => (a + b) % 2 ^ k.w) hs v

/-- Pad a message: a one bit, zeros, and its length in bits. -/
def shaPad (k : ShaKind) (m : Bytes) : Bytes :=
  let blk := k.w * 2
  let len := k.w / 4
  let zeros := (blk - (m.length + 1 + len) % blk) % blk
  m ++ [0x80] ++ List.replicate zeros 0 ++ beBytes len (m.length * 8)

/-- The hash words of a message. -/
def shaWords (k : ShaKind) (h0 : List Nat) (m : Bytes) : List Nat :=
  let p := shaPad k m
  (chunks (k.w * 2) (p.length + 1) p).foldl (shaBlock k) h0

/-- SHA-256. -/
def sha256 (m : Bytes) : Bytes :=
  (shaWords sha256Kind [0x6A09E667, 0xBB67AE85, 0x3C6EF372, 0xA54FF53A, 0x510E527F, 0x9B05688C, 0x1F83D9AB, 0x5BE0CD19] m).flatMap (beBytes 4)

/-- SHA-384. -/
def sha384 (m : Bytes) : Bytes :=
  ((shaWords sha384Kind
    ([0xCBBB9D5DC1059ED8, 0x629A292A367CD507, 0x9159015A3070DD17, 0x152FECD8F70E5939]
    ++ [0x67332667FFC00B31, 0x8EB44A8768581511, 0xDB0C2E0D64F98FA7, 0x47B5481DBEFA4FA4]) m).flatMap (beBytes 8)).take 48

/-- The AES S-box. -/
def aesS : List Nat :=
  [0x63, 0x7C, 0x77, 0x7B, 0xF2, 0x6B, 0x6F, 0xC5, 0x30, 0x01, 0x67, 0x2B, 0xFE, 0xD7, 0xAB, 0x76]
    ++ [0xCA, 0x82, 0xC9, 0x7D, 0xFA, 0x59, 0x47, 0xF0, 0xAD, 0xD4, 0xA2, 0xAF, 0x9C, 0xA4, 0x72, 0xC0]
    ++ [0xB7, 0xFD, 0x93, 0x26, 0x36, 0x3F, 0xF7, 0xCC, 0x34, 0xA5, 0xE5, 0xF1, 0x71, 0xD8, 0x31, 0x15]
    ++ [0x04, 0xC7, 0x23, 0xC3, 0x18, 0x96, 0x05, 0x9A, 0x07, 0x12, 0x80, 0xE2, 0xEB, 0x27, 0xB2, 0x75]
    ++ [0x09, 0x83, 0x2C, 0x1A, 0x1B, 0x6E, 0x5A, 0xA0, 0x52, 0x3B, 0xD6, 0xB3, 0x29, 0xE3, 0x2F, 0x84]
    ++ [0x53, 0xD1, 0x00, 0xED, 0x20, 0xFC, 0xB1, 0x5B, 0x6A, 0xCB, 0xBE, 0x39, 0x4A, 0x4C, 0x58, 0xCF]
    ++ [0xD0, 0xEF, 0xAA, 0xFB, 0x43, 0x4D, 0x33, 0x85, 0x45, 0xF9, 0x02, 0x7F, 0x50, 0x3C, 0x9F, 0xA8]
    ++ [0x51, 0xA3, 0x40, 0x8F, 0x92, 0x9D, 0x38, 0xF5, 0xBC, 0xB6, 0xDA, 0x21, 0x10, 0xFF, 0xF3, 0xD2]
    ++ [0xCD, 0x0C, 0x13, 0xEC, 0x5F, 0x97, 0x44, 0x17, 0xC4, 0xA7, 0x7E, 0x3D, 0x64, 0x5D, 0x19, 0x73]
    ++ [0x60, 0x81, 0x4F, 0xDC, 0x22, 0x2A, 0x90, 0x88, 0x46, 0xEE, 0xB8, 0x14, 0xDE, 0x5E, 0x0B, 0xDB]
    ++ [0xE0, 0x32, 0x3A, 0x0A, 0x49, 0x06, 0x24, 0x5C, 0xC2, 0xD3, 0xAC, 0x62, 0x91, 0x95, 0xE4, 0x79]
    ++ [0xE7, 0xC8, 0x37, 0x6D, 0x8D, 0xD5, 0x4E, 0xA9, 0x6C, 0x56, 0xF4, 0xEA, 0x65, 0x7A, 0xAE, 0x08]
    ++ [0xBA, 0x78, 0x25, 0x2E, 0x1C, 0xA6, 0xB4, 0xC6, 0xE8, 0xDD, 0x74, 0x1F, 0x4B, 0xBD, 0x8B, 0x8A]
    ++ [0x70, 0x3E, 0xB5, 0x66, 0x48, 0x03, 0xF6, 0x0E, 0x61, 0x35, 0x57, 0xB9, 0x86, 0xC1, 0x1D, 0x9E]
    ++ [0xE1, 0xF8, 0x98, 0x11, 0x69, 0xD9, 0x8E, 0x94, 0x9B, 0x1E, 0x87, 0xE9, 0xCE, 0x55, 0x28, 0xDF]
    ++ [0x8C, 0xA1, 0x89, 0x0D, 0xBF, 0xE6, 0x42, 0x68, 0x41, 0x99, 0x2D, 0x0F, 0xB0, 0x54, 0xBB, 0x16]

/-- Multiplication in GF(2^8) with a reduction polynomial of nine bits, `n` bits of `b`. -/
def gfMul (poly : Nat) : Nat → Nat → Nat → Nat
  | 0, _, _ => 0
  | n + 1, a, b =>
    let a2 := if 128 ≤ a then Nat.xor (2 * a) poly else 2 * a
    let r := gfMul poly n a2 (b / 2)
    if b % 2 = 1 then Nat.xor a r else r

/-- Multiplication in AES's field. -/
def aesMul (a b : Nat) : Nat := gfMul 0x11B 8 a b

/-- Exclusive or of byte strings, as long as the shorter. -/
def xorBytes (a b : Bytes) : Bytes := List.zipWith (fun x y => x ^^^ y) a b

/-- A byte through the S-box. -/
def subByte (b : Byte) : Byte := BitVec.ofNat 8 (aesS.getD b.toNat 0)

/-- A byte back through the S-box. -/
def invSubByte (b : Byte) : Byte := BitVec.ofNat 8 (aesS.findIdx (· == b.toNat))

/-- Grow the AES-256 key schedule, words newest first: `n` more words from word number `i`. -/
def aesExpand : Nat → Nat → Nat → List Bytes → List Bytes
  | 0, _, _, ws => ws
  | n + 1, i, rcon, ws =>
    let prev := ws.getD 0 []
    let old := ws.getD 7 []
    let t := if i % 8 = 0 then
        xorBytes ((prev.drop 1 ++ prev.take 1).map subByte) [BitVec.ofNat 8 rcon, 0, 0, 0]
      else if i % 8 = 4 then prev.map subByte else prev
    aesExpand n (i + 1) (if i % 8 = 0 then aesMul rcon 2 else rcon) (xorBytes old t :: ws)

/-- The fifteen round keys of a 32-byte key. -/
def aesKeys (key : Bytes) : List Bytes :=
  (chunks 4 15 ((aesExpand 52 8 1 (chunks 4 8 key).reverse).reverse)).map List.flatten

/-- Shift the rows of a block held by columns: row `r` left by `k × r`. -/
def shiftRows (k : Nat) (b : Bytes) : Bytes :=
  (List.range 16).map fun i => b.getD ((i % 4) + 4 * (((i / 4) + k * (i % 4)) % 4)) 0

/-- Mix each column by a circulant row. -/
def mixColumns (m : List Nat) (b : Bytes) : Bytes :=
  (List.range 16).map fun i =>
    BitVec.ofNat 8 ((List.range 4).foldl (fun acc j =>
      Nat.xor acc (aesMul (b.getD (4 * (i / 4) + j) 0).toNat (m.getD ((j + 4 - i % 4) % 4) 0))) 0)

/-- AES-256 of one block. -/
def aesEnc (key block : Bytes) : Bytes :=
  match aesKeys key with
  | k0 :: ks =>
    let mid := (ks.take 13).foldl
      (fun b k => xorBytes (mixColumns [2, 3, 1, 1] (shiftRows 1 (b.map subByte))) k) (xorBytes block k0)
    xorBytes (shiftRows 1 (mid.map subByte)) (ks.getD 13 [])
  | [] => block

/-- AES-256 of one block backwards. -/
def aesDec (key block : Bytes) : Bytes :=
  match (aesKeys key).reverse with
  | k0 :: ks =>
    let mid := (ks.take 13).foldl
      (fun b k => mixColumns [14, 11, 13, 9] (xorBytes ((shiftRows 3 b).map invSubByte) k)) (xorBytes block k0)
    xorBytes ((shiftRows 3 mid).map invSubByte) (ks.getD 13 [])
  | [] => block

/-- Multiplication in GCM's field, over the `n` low bits of `y`, `x` already shifted. -/
def ghashMul : Nat → Nat → Nat → Nat → Nat
  | 0, _, _, z => z
  | n + 1, v, y, z =>
    let z1 := if (y / 2 ^ n) % 2 = 1 then Nat.xor z v else z
    let v1 := if v % 2 = 1 then Nat.xor (v / 2) (0xE1 * 2 ^ 120) else v / 2
    ghashMul n v1 y z1

/-- Absorb one block into GHASH. -/
def ghashStep (h y : Nat) (block : Bytes) : Nat :=
  ghashMul 128 h (Nat.xor y (beNat (padTo 16 block))) 0

/-- GHASH of additional data and ciphertext. -/
def ghash (h : Nat) (aad ct : Bytes) : Nat :=
  let y := (chunks 16 (aad.length + 1) aad).foldl (ghashStep h) 0
  let y := (chunks 16 (ct.length + 1) ct).foldl (ghashStep h) y
  ghashStep h y (beBytes 8 (aad.length * 8) ++ beBytes 8 (ct.length * 8))

/-- GCM's key stream over a message, from counter `c`. -/
def gcmStream (key iv : Bytes) (m : Bytes) : Bytes :=
  ((chunks 16 (m.length + 1) m).zipIdx.map fun (b, i) =>
    xorBytes b (aesEnc key (iv.take 12 ++ beBytes 4 (i + 2)))).flatten

/-- The tag of a ciphertext under a 12-byte IV. -/
def gcmTag (key iv aad ct : Bytes) : Bytes :=
  let h := beNat (aesEnc key (List.replicate 16 0))
  xorBytes (beBytes 16 (ghash h aad ct)) (aesEnc key (iv.take 12 ++ [0, 0, 0, 1]))

/-- Seal a message: ciphertext and tag. -/
def gcmSeal (key iv aad pt : Bytes) : Bytes :=
  let ct := gcmStream key iv pt
  ct ++ gcmTag key iv aad ct

/-- Open a sealed message: the plaintext, if the tag verifies. -/
def gcmOpen (key iv aad sealed : Bytes) : Option Bytes :=
  let n := sealed.length - 16
  let ct := sealed.take n
  if 16 ≤ sealed.length ∧ gcmTag key iv aad ct = sealed.drop n then some (gcmStream key iv ct) else none

/-- Multiply an XTS tweak by x. -/
def xtsNext (t : Nat) : Nat := if 2 ^ 127 ≤ t then Nat.xor ((2 * t) % 2 ^ 128) 0x87 else 2 * t

/-- XTS over whole blocks with a block function. -/
def xtsBlocks (f : Bytes → Bytes) : Nat → List Bytes → List Bytes
  | _, [] => []
  | t, b :: bs =>
    let tb := leBytes 16 t
    xorBytes (f (xorBytes b tb)) tb :: xtsBlocks f (xtsNext t) bs

/-- AES-256-XTS of data of whole blocks under a 64-byte key and a 16-byte tweak; `dec` for decryption. -/
def xts (dec : Bool) (key tweak data : Bytes) : Bytes :=
  let t := leNat (aesEnc (key.drop 32) tweak)
  let f := if dec then aesDec (key.take 32) else aesEnc (key.take 32)
  (xtsBlocks f t (chunks 16 (data.length + 1) data)).flatten

/-- Step `t` of the unwrap of AES key wrap: the register A and the blocks. -/
def kwStep (kek : Bytes) (n : Nat) (s : Bytes × List Bytes) (t : Nat) : Bytes × List Bytes :=
  let i := (t - 1) % n
  let a := xorBytes s.1 (beBytes 8 t)
  let b := aesDec kek (a ++ s.2.getD i [])
  (b.take 8, s.2.set i (b.drop 8))

/-- Unwrap a key wrapped under AES key wrap; none if the check value is wrong. -/
def kwUnwrap (kek wrapped : Bytes) : Option Bytes :=
  match chunks 8 (wrapped.length + 1) wrapped with
  | a :: rs =>
    let n := rs.length
    let steps := ((List.range (6 * n)).map (· + 1)).reverse
    let r := steps.foldl (kwStep kek n) (a, rs)
    if r.1 = List.replicate 8 0xA6 then some r.2.flatten else none
  | [] => none

end Sys2Proof.Machine
end

