-- ==== Sys2Proof/Machine/State.lean ====
section
/-! DEFINITION. The state of the head: its blocks, the commands that wait, and the reasons a step can stop. Each block's
registers, queues and tables are the fields of its structure in Sys2Proof/Blocks, whose comments name the spec's register
and rule; the defaults there are the reset values. -/

namespace Sys2Proof.Machine

/-- The faults of a step. No command of the head ends in one: an access, packet or event that the spec refuses is answered,
counted or ignored as the spec says, and the block goes on. -/
inductive Fault where
deriving DecidableEq, Repr

/-- The refusals of a step. -/
inductive Refusal where
  /-- raised by exec for a row of the opcode table whose meaning is not written yet; safe: the block stops -/
  | notModelled (mnemonic : String)
deriving DecidableEq, Repr

/-- The state of the head. The defaults are the values at reset: power-on, with the always-on rails not yet in range. -/
structure State where
  /-- reset levels, causes and the release order; chapter 03 -/
  rst : Rst := {}
  /-- clocks and crossings; chapter 03 -/
  clk : Clk := {}
  /-- power states and the brown-out hold; chapter 03 -/
  pwr : Pwr := {}
  /-- the configuration loader; chapter 02 -/
  cfg : Cfg := {}
  /-- what the management space keeps for its two requesters; chapters 01, 17 -/
  bus : Bus := {}
  /-- the fixed facts of the part -/
  part : Part := {}
  /-- the event recorder; chapter 16 -/
  evr : Evr := {}
  /-- the measurement registers; chapter 16 -/
  msr : Msr := {}
  /-- the management core's sensors, fans and debug; chapter 16 -/
  mgt : Mgt := {}
  /-- the update chain's image store and agreement; chapter 16 -/
  upd : Upd := {}
  /-- the chain ports; chapter 16 -/
  chain : Chain := {}
  /-- the host fabric; chapter 04 -/
  fab : Fab := {}
  /-- the queue-pair contexts; chapter 04 -/
  qpc : Qpc := {}
  /-- commands, windows and orphans; chapter 05 -/
  cmd : CmdU := {}
  /-- the ingest path; chapter 06 -/
  ing : Ing := {}
  /-- the partner unit; chapter 12 -/
  prt : Prt := {}
  /-- compression; chapter 07 -/
  cmp : Cmp := {}
  /-- fingerprints and deduplication; chapter 07 -/
  fpr : Fpr := {}
  /-- ciphers and key slots; chapter 07 -/
  cip : Cip := {}
  /-- flash translation; chapters 08, 09 -/
  ftl : Ftl := {}
  /-- parity, rebuild and patrol; chapter 10 -/
  par : Par := {}
  /-- the stripe journal; chapter 10 -/
  jnl : Jnl := {}
  /-- the sled ports; chapter 11 -/
  sld : Sld := {}
  /-- snapshots and replication; chapter 13 -/
  rpl : Rpl := {}
  /-- the buffer memory controller; chapter 14 -/
  buf : Buf := {}
  /-- the adaptive loops; chapter 15 -/
  adp : Adp := {}
  /-- the timestamp counter, in 20 ns ticks of the always-on clock; R14 -/
  time : Word64 := 0
  /-- the model's own record of what the head has sent, newest first; nothing reads it -/
  tx : List Tx := []
  /-- the model's own counter of free values taken (DESIGN CHOICE, log entry 3) -/
  free : Nat := 0
  /-- the commands that wait, first in, first out -/
  pending : List Instr := []
deriving DecidableEq, Repr

/-- The machine at reset: power-on, every field at its default. -/
def State.reset : State := {}

/-- Change the Rst block. -/
def State.onRst (f : Rst → Rst) (s : State) : State := { s with rst := f s.rst }

/-- Change the Clk block. -/
def State.onClk (f : Clk → Clk) (s : State) : State := { s with clk := f s.clk }

/-- Change the Pwr block. -/
def State.onPwr (f : Pwr → Pwr) (s : State) : State := { s with pwr := f s.pwr }

/-- Change the Cfg block. -/
def State.onCfg (f : Cfg → Cfg) (s : State) : State := { s with cfg := f s.cfg }

/-- Change the Bus block. -/
def State.onBus (f : Bus → Bus) (s : State) : State := { s with bus := f s.bus }

/-- Change the Evr block. -/
def State.onEvr (f : Evr → Evr) (s : State) : State := { s with evr := f s.evr }

/-- Change the Msr block. -/
def State.onMsr (f : Msr → Msr) (s : State) : State := { s with msr := f s.msr }

/-- Change the Mgt block. -/
def State.onMgt (f : Mgt → Mgt) (s : State) : State := { s with mgt := f s.mgt }

/-- Change the Upd block. -/
def State.onUpd (f : Upd → Upd) (s : State) : State := { s with upd := f s.upd }

/-- Change the Chain block. -/
def State.onChain (f : Chain → Chain) (s : State) : State := { s with chain := f s.chain }

/-- Change the Fab block. -/
def State.onFab (f : Fab → Fab) (s : State) : State := { s with fab := f s.fab }

/-- Change the Qpc block. -/
def State.onQpc (f : Qpc → Qpc) (s : State) : State := { s with qpc := f s.qpc }

/-- Change the CmdU block. -/
def State.onCmd (f : CmdU → CmdU) (s : State) : State := { s with cmd := f s.cmd }

/-- Change the Ing block. -/
def State.onIng (f : Ing → Ing) (s : State) : State := { s with ing := f s.ing }

/-- Change the Prt block. -/
def State.onPrt (f : Prt → Prt) (s : State) : State := { s with prt := f s.prt }

/-- Change the Cmp block. -/
def State.onCmp (f : Cmp → Cmp) (s : State) : State := { s with cmp := f s.cmp }

/-- Change the Fpr block. -/
def State.onFpr (f : Fpr → Fpr) (s : State) : State := { s with fpr := f s.fpr }

/-- Change the Cip block. -/
def State.onCip (f : Cip → Cip) (s : State) : State := { s with cip := f s.cip }

/-- Change the Ftl block. -/
def State.onFtl (f : Ftl → Ftl) (s : State) : State := { s with ftl := f s.ftl }

/-- Change the Par block. -/
def State.onPar (f : Par → Par) (s : State) : State := { s with par := f s.par }

/-- Change the Jnl block. -/
def State.onJnl (f : Jnl → Jnl) (s : State) : State := { s with jnl := f s.jnl }

/-- Change the Sld block. -/
def State.onSld (f : Sld → Sld) (s : State) : State := { s with sld := f s.sld }

/-- Change the Rpl block. -/
def State.onRpl (f : Rpl → Rpl) (s : State) : State := { s with rpl := f s.rpl }

/-- Change the Buf block. -/
def State.onBuf (f : Buf → Buf) (s : State) : State := { s with buf := f s.buf }

/-- Change the Adp block. -/
def State.onAdp (f : Adp → Adp) (s : State) : State := { s with adp := f s.adp }

/-- Record one thing sent. -/
def State.send (x : Tx) (s : State) : State := { s with tx := x :: s.tx }

/-- Put the queue of waiting commands. -/
def State.withPending (q : List Instr) (s : State) : State := { s with pending := q }

end Sys2Proof.Machine
end

