-- ==== Sys2Proof/Machine/Ops.lean ====
section
/-! DEFINITION. The named operations every block uses: time, parameters, free values, and raising an event into the
recorder. -/

namespace Sys2Proof.Machine

/-- Ticks of 20 ns in a microsecond (R14). -/
def usTicks : Nat := 50

/-- Ticks from a timestamp to now, on the counter's 64 bits (R14). -/
def State.since (s : State) (t : Word64) : Nat := (s.time - t).toNat

/-- The HEAD_ID as a number (R85). -/
def State.head (s : State) : Nat := b2n s.rst.headId

/-- The value of a parameter for head `h`: the image's in force, else the default (R65). -/
def State.paramOf (s : State) (h id : Nat) : Nat :=
  match s.cfg.img with
  | some i => paramFor i.entries h id
  | none => paramDefault id

/-- The value of a parameter for this head (R65). -/
def State.param (s : State) (id : Nat) : Nat := s.paramOf s.head id

/-- Whether a parameter that is 0 or 1 is 1. -/
def State.flag (s : State) (id : Nat) : Bool := s.param id == 1

/-- A free value of `w` bits for something the spec leaves open, and the state that has used it up (log entry 3). -/
def State.freeNat (w : Nat) (s : State) : Nat × State :=
  ((Sys2Proof.freeWord s.free).toNat % 2 ^ w, { s with free := s.free + 1 })

/-- A free bit, and the state that has used it up (log entry 3). -/
def State.freeBit (s : State) : Bool × State := (Sys2Proof.freeBit s.free, { s with free := s.free + 1 })

/-- The VALUE that DETAIL carries, for the codes of the table "Measured events" (R552); the sensor events carry their reading
beside DETAIL. -/
def measuredValue (code detail : Nat) : Option Nat :=
  if code = 0x0404 then some (bitsAt detail 0 13)
  else if code = 0x0501 then some (bitsAt detail 0 10)
  else if code = 0x0903 then some (bitsAt detail 16 8)
  else if code = 0x0D05 then some (bitsAt detail 0 24)
  else if code = 0x0F02 then some (bitsAt detail 0 8)
  else none

/-- The histogram bin of a VALUE (R552). -/
def valueBin (v : Nat) : Nat := if v = 0 then 0 else min (Nat.log2 v + 1) 31

/-- RATE and BURST of a code: as software wrote EVR_RATE, else the image's defaults (R553, R583). -/
def State.evrRate (s : State) (code : Nat) : Nat × Nat :=
  match tabGet code s.evr.rates with
  | some (r, b) => (r.toNat, b.toNat)
  | none => (s.param P.evrRateDefault, s.param P.evrBurstDefault)

/-- Units of a token: a bucket gains RATE units per 20 ns tick (R553). -/
def tokenUnit : Nat := 50000000

/-- The bucket's units now (R553): full at a reset or clear, then gaining continuously up to BURST. -/
def State.bucket (s : State) (code : Nat) (r : EvRec) : Nat :=
  let (rate, burst) := s.evrRate code
  match r.tokens with
  | none => burst * tokenUnit
  | some (u, at_) => min (u + rate * s.since at_) (burst * tokenUnit)

/-- The record after a raise with VALUE `v`, none for the first raise since a clear or reset (R551, R552). DEDUCED (log
entry 6): the first raise updates only the count and the last raise, for measured codes as for the others. -/
def EvRec.raised (r : EvRec) (detail : Nat) (v : Option Nat) (now : Word64) : EvRec :=
  let r1 := { r with count := satInc r.count, last := some (word detail, now) }
  match r.last, v with
  | some _, some v =>
    { r1 with
      bins := tabUpdD (valueBin v) 0 satInc r1.bins
      lo := match r1.lo with
        | some (m, t) => if v < m.toNat then some (word v, now) else some (m, t)
        | none => some (word v, now)
      hi := match r1.hi with
        | some (m, t) => if m.toNat < v then some (word v, now) else some (m, t)
        | none => some (word v, now) }
  | _, _ => r1

/-- How many entries the ring holds (R554). -/
def ringSize : Nat := 32768

/-- An entry goes into the ring; the oldest of 32,768 is overwritten and counted if it was never spilled (R554). -/
def Evr.enter (e : Evr) (code : Nat) (supp : BitVec 16) (detail value : Nat) (now : Word64) : Evr :=
  let entry : RingEntry := ⟨e.nextSeq, BitVec.ofNat 16 code, supp, word detail, word value, now⟩
  let lost := e.ring.length = ringSize ∧ e.spilled ≤ e.nextSeq - ringSize
  { e with
    ring := (if e.ring.length = ringSize then e.ring.drop 1 else e.ring) ++ [entry]
    nextSeq := e.nextSeq + 1
    lost := if lost then satInc e.lost else e.lost }

/-- The VALUE of a raise (R552): a measured code's own, else the microseconds since the code's previous raise; a free value
for the ring entry of a first raise, for which the spec gives none (log entry 6). -/
def State.raiseValue (s : State) (code detail : Nat) (reading : Option Nat) : Option Nat × Nat × State :=
  let m := match reading with
    | some v => some v
    | none => measuredValue code detail
  match m with
  | some v => (some v, v, s)
  | none => match tabGet code s.evr.prev with
    | some t => let v := satN 32 (s.since t / usTicks); (some v, v, s)
    | none => let (v, s') := s.freeNat 32; (none, v, s')

/-- One raise into the recorder (R551 to R556): the record unless the records are frozen, the bucket, the ring. `reading` is
the VALUE of a sensor event. -/
def evrRecord (code detail : Nat) (reading : Option Nat) (s0 : State) : State :=
  let (v, ringV, s) := s0.raiseValue code detail reading
  let r := tabGetD code {} s.evr.recs
  let s1 := s.onEvr fun e => { e with prev := tabPut code s.time e.prev }
  if s.evr.freeze then
    s1.onEvr fun e => { e.enter code r.suppRun detail ringV s.time with missed := satInc e.missed }
  else
    let r1 := r.raised detail v s.time
    let unlimited := (s.evrRate code).1 = 0
    let units := s.bucket code r
    if unlimited ∨ tokenUnit ≤ units then
      let left := if unlimited then r.tokens else some (units - tokenUnit, s.time)
      s1.onEvr fun e =>
        { e.enter code r.suppRun detail ringV s.time with
          recs := tabPut code { r1 with tokens := left, suppRun := 0 } e.recs }
    else
      s1.onEvr fun e =>
        { e with
          recs := tabPut code
            { r1 with tokens := some (units, s.time), supp := satInc r1.supp, suppRun := satInc r1.suppRun } e.recs }

/-- A raise into the recorder, with the trigger of R556: the raise of EVR_TRIG_CODE is recorded, then freezes the records
and raises EVR_TRIGGERED (DEDUCED order, log entry 6). -/
def evrRaise (code detail : Nat) (reading : Option Nat) (s : State) : State :=
  let s1 := evrRecord code detail reading s
  if s.evr.trigEn ∧ s.evr.trigCode.toNat = code ∧ ¬ s.evr.freeze then
    evrRecord 0x1007 code none (s1.onEvr fun e => { e with freeze := true })
  else s1

/-- An access error (R17, R584): ACCESS_ERROR with the offset, the requester and whether it was a write. -/
def accessError (r : Requester) (addr : Nat) (write : Bool) (s : State) : State :=
  evrRaise 0x1001 (addr % 2 ^ 24 + (match r with | .core => 0 | .jtag => 2 ^ 24) + (if write then 2 ^ 25 else 0)) none
    (s.onBus fun b => { b with accessAddr := word (addr % 2 ^ 24), errors := b.errors + 1 })

end Sys2Proof.Machine
end

