-- ==== Sys2Proof/Machine/Net.lean ====
section
/-! DEFINITION. Sending: sub-ports, packets on connections, and head messages (chapter 04, R128 to R155; R172). -/

namespace Sys2Proof.Machine

/-- The mode of host port `p`: sub-ports 1, 2 or 4 (R125). -/
def State.subPorts (s : State) (p : Nat) : Nat := 2 ^ bitsAt (s.param P.hpBreakout) (2 * p) 2

/-- Whether sub-port `n`, 4 × port + sub-port, exists in the port's mode and its port is enabled (R125, R160). -/
def State.subEnabled (s : State) (n : Nat) : Bool :=
  decide (n < 16) && decide (n % 4 < s.subPorts (n / 4)) && getBit s.fab.ctrl (n / 4)

/-- Whether a sub-port is up. -/
def State.subIsUp (s : State) (n : Nat) : Bool := getBit s.fab.subUp n

/-- Whether pause or PFC stops the head's RoCEv2 and LOT packets on a sub-port (R126). DEDUCED (log entry 7): they are of
priority ROCE_PRIO. -/
def State.subStopped (s : State) (n : Nat) : Bool :=
  getBit s.fab.paused n || getBit (tabGetD n 0 s.fab.pfc) (s.param P.rocePrio)

/-- Add to a FAB counter of a sub-port (R160). -/
def fabCount (sub k n : Nat) (s : State) : State :=
  s.onFab fun f => { f with cnt := tabUpdD (sub, k) 0 (fun c => c + BitVec.ofNat 64 n) f.cnt }

/-- Put a packet on the wire of a sub-port. -/
def OutWire.sent (sub : Nat) : OutWire → Tx
  | .rc q p b r => .roce sub q p (.body b r)
  | .readResp q p pos d => .roce sub q p (.readResp pos d)
  | .lot d raw => .lot sub d raw
  | .ack q p m => .roce sub q p (.ack m)
  | .nak q p c => .roce sub q p (.nak c)
  | .rnr q p d => .roce sub q p (.rnr d)
  | .cnp q => .roce sub q 0 .cnp

/-- Send a packet on a sub-port: nothing leaves a sub-port that is down, and a stopped one keeps it until the stop ends
(R126, R129). -/
def wire (sub : Nat) (w : OutWire) (s : State) : State :=
  if ¬ s.subIsUp sub ∨ s.prt.pair = .fenced then s
  else if s.subStopped sub then s.onFab fun f => { f with stopped := f.stopped ++ [(sub, w)] }
  else s.send (w.sent sub)

/-- Send something on a host port that belongs to no connection; a Fenced head sends nothing there (R445). -/
def hostSend (x : Tx) (s : State) : State := if s.prt.pair = .fenced then s else s.send x

/-- A LOT packet: header, payload and PCRC (R135). -/
def lotPacket (op flags conn msg pkt mkey msgLen addr : Nat) (payload : Bytes) : Bytes :=
  withCrc (leBytes 1 (op + 16) ++ leBytes 1 flags ++ leBytes 2 payload.length ++ leBytes 4 (conn % 2 ^ 24) ++ leBytes 4 msg
    ++ leBytes 4 pkt ++ leBytes 4 mkey ++ leBytes 4 msgLen ++ leBytes 8 addr ++ payload)

/-- The sub-port a LOT packet goes out on (R141): with no bytes queued, the lowest that is up. -/
def State.lotSub (s : State) : Option Nat := (List.range 16).find? fun n => s.subIsUp n

/-- The host address a LOT packet on a sub-port goes to (R141). -/
def Ctx.lotDst (c : Ctx) (sub : Nat) : Nat := c.addrs.getD (sub % max c.addrs.length 1) 0

/-- The connection number of a context (R146). -/
def qpnOf (idx : Nat) (c : Ctx) : Nat := c.gen * 2 ^ 18 + idx

/-- The context a connection number names, if its generation matches (R146). -/
def State.ctxAt (s : State) (qpn : Nat) : Option (Nat × Ctx) :=
  match tabGet (qpn % 2 ^ 18) s.qpc.ctx with
  | some c => if c.gen = bitsAt qpn 18 6 then some (qpn % 2 ^ 18, c) else none
  | none => none

/-- Change a context; it has changed for the next checkpoint (R152). -/
def onCtx (idx : Nat) (f : Ctx → Ctx) (s : State) : State :=
  s.onQpc fun q => { q with ctx := tabUpd idx (fun c => { f c with changed := true }) q.ctx }

/-- Change a context without a mark for the next checkpoint: fields the checkpoint record does not carry. -/
def onCtxQuiet (idx : Nat) (f : Ctx → Ctx) (s : State) : State :=
  s.onQpc fun q => { q with ctx := tabUpd idx f q.ctx }

/-- The modulus of a connection's packet numbers: PSNs have 24 bits, LOT packet numbers 32. -/
def Ctx.modulus (c : Ctx) : Nat := if c.lot then 2 ^ 32 else 2 ^ 24

/-- Transmit an outbound packet of a connection, first time or again (R141, R153). -/
def transmit (c : Ctx) (p : OutPkt) (retx : Bool) (s : State) : State :=
  if c.held then s
  else if c.lot then
    match s.lotSub with
    | none => s
    | some sub =>
      let fl := (if retx then 4 else 0)
      let raw := match p.body with
        | .send m => lotPacket 2 fl c.peer p.msg p.num 0 m.length 0 m
        | .write _ k a d => lotPacket 1 fl c.peer p.msg p.num k d.length a d
        | .data ml k a d fin => lotPacket 1 (fl + b2n fin) c.peer p.msg p.num k ml a d
        | .lotOpen b => lotPacket 5 fl 0 p.msg p.num 0 b.length 0 b
        | .again .. => lotPacket 1 fl c.peer p.msg p.num 0 0 0 []
      wire sub (.lot (c.lotDst sub) raw) (if retx then fabCount sub 11 1 s else s)
  else wire c.sub (.rc c.peer p.num p.body retx) (if retx then fabCount c.sub 11 1 s else s)

/-- Send an outbound packet that needs an acknowledgement: numbered, kept, transmitted, its retry timer running (R153). A
packet that ends its message advances the message number. -/
def ctxSend (idx : Nat) (body : OutBody) (endsMsg : Bool) (s : State) : State :=
  match tabGet idx s.qpc.ctx with
  | none => s
  | some c =>
    let p : OutPkt := { num := c.txNext, msg := c.txMsg, body := body, sub := if c.lot then s.lotSub.getD 0 else c.sub }
    let s1 := onCtx idx (fun c =>
      { c with
        txNext := (c.txNext + 1) % c.modulus
        txMsg := if endsMsg then (c.txMsg + 1) % c.modulus else c.txMsg
        sent := c.sent ++ [p]
        timeout := if c.timeout = 0 then s.param P.retryTimeoutInit else c.timeout }) s
    transmit c p false s1

/-- Send a head message on a queue (R172): a 64-byte SEND. -/
def sendMsg (idx : Nat) (msg : Bytes) (s : State) : State := ctxSend idx (.send msg) true s

/-- A 64-byte head message closed by its MCRC (R173). -/
def withMcrc (bs : Bytes) : Bytes := withCrc (padTo 60 bs)

end Sys2Proof.Machine
end

