-- ==== Sys2Proof/Machine/Plink.lean ====
section
/-! DEFINITION. Sending on the partner link and the pulse link (chapter 12, R432 to R441, R613). -/

namespace Sys2Proof.Machine

/-- The key of a slot that is READY and of a kind (R258). -/
def State.slotKey (s : State) (slot kind : Nat) : Option Bytes :=
  match tabGet slot s.cip.slots with
  | some k => if k.state = .ready ∧ k.kind = kind then some k.key else none
  | none => none

/-- The partner link's GCM key, while its slot is READY (R434). -/
def State.plKey (s : State) : Option Bytes := s.slotKey (s.param P.plKeySlot) 2

/-- The pairing state as HB_STATE encodes it (R437). -/
def pairCode : Pair → Nat
  | .joining => 0
  | .paired => 1
  | .lone => 2
  | .fenced => 3

/-- A power state as PWR_REQ.TARGET encodes it (R118). -/
def powerCode : Power → Nat
  | .run => 0
  | .armed => 1
  | .quiet => 2
  | .dormant => 3

/-- HB_STATE as the head sends it (R437). -/
def State.hbState (s : State) : Nat :=
  pairCode s.prt.pair + 4 * powerCode s.pwr.state + 16 * b2n (s.rst.stage != .run)
    + 32 * b2n (s.prt.pulseCmd.2.1 = 3) + 64 * b2n s.prt.handover

/-- The 48-byte partner-link header (R434). DESIGN CHOICE (log entry 9): an acknowledgement field before anything was
received is one below the first number, modulo its width. -/
def State.plHeader (s : State) (ptype bodyLen : Nat) : Bytes :=
  let below (n w : Nat) := (n + 2 ^ w - 1) % 2 ^ w
  leBytes 1 (ptype + 16) ++ leBytes 1 s.head ++ leBytes 2 bodyLen ++ leBytes 4 (match s.prt.session with
    | some x => x.toNat
    | none => 0)
    ++ leBytes 8 s.prt.fseq ++ leBytes 8 (s.prt.fack.getD (2 ^ 64 - 1)) ++ leBytes 4 s.prt.hbSeq.toNat
    ++ leBytes 1 s.hbState ++ [0, 0, 0] ++ leBytes 4 (s.prt.segAck.getD (2 ^ 32 - 1))
    ++ leBytes 4 (below s.prt.ckpt.rxNext 32) ++ leBytes 4 (below s.prt.jnl.rxNext 32) ++ leBytes 4 (below s.prt.map.rxNext 32)

/-- Send one partner-link frame with a body: header, sealed body and tag (R433, R434). Nothing is sent without a session. -/
def plFrame (body : Bytes) (s : State) : State :=
  match s.prt.session, s.plKey with
  | some ses, some key =>
    let h := s.plHeader (if body = [] then 2 else 1) body.length
    let iv := leBytes 4 ses.toNat ++ leBytes 8 s.prt.fseq
    (s.send (.pl (h ++ gcmSeal key iv h body))).onPrt fun p => { p with fseq := p.fseq + 1 }
  | _, _ => s

/-- A message with its 8-byte header (R435). -/
def plMsgBytes (mtype cseq : Nat) (body : Bytes) : Bytes :=
  leBytes 1 mtype ++ [0] ++ leBytes 2 body.length ++ leBytes 4 cseq ++ body

/-- One class's counters in the PRT block. -/
def Prt.chan (p : Prt) : PlClass → PlChan
  | .ckpt => p.ckpt
  | .jnl => p.jnl
  | .map => p.map
  | .mirror => {}

/-- Change one class's counters. -/
def Prt.onChan (c : PlClass) (f : PlChan → PlChan) (p : Prt) : Prt :=
  match c with
  | .ckpt => { p with ckpt := f p.ckpt }
  | .jnl => { p with jnl := f p.jnl }
  | .map => { p with map := f p.map }
  | .mirror => p

/-- Send a message of an acknowledged class, and keep it until its acknowledgement; without a session it waits for the next
one (R435). -/
def plSend (c : PlClass) (mtype : Nat) (body : Bytes) (tag : PlTag) (s : State) : State :=
  let ch := s.prt.chan c
  let m : PlMsg := { cseq := ch.next, mtype := mtype, body := body, fseq := s.prt.fseq, tag := tag }
  plFrame (plMsgBytes mtype ch.next body)
    (s.onPrt fun p => p.onChan c fun ch => { ch with next := (ch.next + 1) % 2 ^ 32, sent := ch.sent ++ [m] })

/-- The head of a checkpoint-class message: SEG_FENCE and COUNT (R436). -/
def State.fencePrefix (s : State) (count : Nat) : Bytes :=
  leBytes 4 ((s.ing.nextSeg + 2 ^ 32 - 1) % 2 ^ 32) ++ leBytes 2 count ++ [0, 0]

/-- Send checkpoint-class records (R436). -/
def plRecords (mtype : Nat) (recs : List Bytes) (tag : PlTag) (s : State) : State :=
  plSend .ckpt mtype (s.fencePrefix recs.length ++ recs.flatten) tag s

/-- Send a control word (R436). -/
def plControl (code : Nat) (args : Bytes) (s : State) : State :=
  plRecords 0x05 [leBytes 1 code ++ padTo 7 args] .none s

/-- Mirror something of the head's state to the partner, in the Paired state only (R439). -/
def mirror (f : State → State) (s : State) : State := if s.prt.pair = .paired then f s else s

/-- Send a map or journal change to the partner: in the Paired state, and from the start of a fill on (R439, R451). -/
def mirrorMap (f : State → State) (s : State) : State :=
  if s.prt.pair = .paired ∨ s.prt.join = .filling ∨ s.prt.join = .handing then f s else s

/-- A pulse frame as the head sends it (R437). -/
def State.pulseFrame (s : State) : Bytes :=
  let (id, cmd, arg, _) := s.prt.pulseCmd
  withCrc ([1] ++ leBytes 1 s.head ++ [id, 0] ++ leBytes 4 s.prt.hbSeq.toNat ++ leBytes 1 s.hbState
    ++ leBytes 1 cmd ++ leBytes 2 arg)

/-- Send a new pulse command at once; the next three frames repeat it (R437, R438). -/
def pulseCommand (cmd arg : Nat) (s : State) : State :=
  let s1 := s.onPrt fun p => { p with pulseCmd := (p.pulseCmd.1 + 1, cmd, arg, 3) }
  s1.send (.pulse s1.pulseFrame)

/-- A connection record (R613). -/
def State.connRecord (s : State) (idx : Nat) (c : Ctx) : Bytes :=
  let v6 := c.addrs.any fun a => decide (a / 2 ^ 32 ≠ 0xFFFF)
  withCrc (leBytes 3 (qpnOf idx c) ++ leBytes 1 (b2n c.lot + 2 * b2n c.events + 4 * b2n c.pull + 8 * b2n v6)
    ++ leBytes 2 c.depth ++ leBytes 1 c.sub ++ leBytes 1 c.addrs.length ++ leBytes 4 c.hostId ++ leBytes 2 (s.param P.pmtu)
    ++ leBytes 2 c.sport ++ padTo 64 (c.addrs.flatMap (leBytes 16)) ++ leBytes 6 c.mac ++ leBytes 2 c.pkey
    ++ leBytes 1 c.localPort ++ List.replicate 35 0)

/-- The numeric code of a context state (R147). -/
def ctxCode : CtxState → Nat
  | .closed => 0
  | .connecting => 1
  | .ready => 2
  | .draining => 3
  | .error => 4

/-- A checkpoint record (R152). -/
def ckptRecord (idx : Nat) (c : Ctx) (seq : Nat) : Bytes :=
  withCrc (leBytes 3 (qpnOf idx c) ++ leBytes 1 (ctxCode c.state + 8 * b2n c.lot) ++ leBytes 4 c.rxNext ++ leBytes 4 c.rxMsg
    ++ leBytes 4 c.txNext ++ leBytes 4 c.txUna ++ leBytes 4 c.peer ++ leBytes 4 seq)

/-- An outbound record (R440). -/
def outRecord (qpn okind oseq ocount cid : Nat) (body : Bytes) : Bytes :=
  let a := leBytes 3 qpn ++ leBytes 1 okind ++ leBytes 4 oseq ++ leBytes 2 ocount ++ leBytes 2 cid
  let b := padTo 64 body
  a ++ leBytes 4 (crc32c (a ++ b)) ++ b

/-- Send a head message on a queue under R440: its outbound record goes to the partner first, in the Paired state. -/
def sendHead (idx : Nat) (msg : Bytes) (s : State) : State :=
  match tabGet idx s.qpc.ctx with
  | none => s
  | some c =>
    sendMsg idx msg (mirror (plRecords 0x04 [outRecord (qpnOf idx c) 1 c.txNext 1 0 msg] .none) s)

/-- The session ends (R434): what is not acknowledged waits for the next one, in which the partner says HELLO anew. -/
def plSessionEnd (s : State) : State := s.onPrt fun p => { p with session := none, peerHello := none }

end Sys2Proof.Machine
end

