-- ==== Sys2Proof/Machine/Events.lean ====
section
/-! DEFINITION. Events: their delivery to host queues, with the merging of repeats, and raising them (R156, R177). -/

namespace Sys2Proof.Machine

/-- An event message (R176). -/
def eventMsg (code detail merged : Nat) (time : Word64) : Bytes :=
  withMcrc ([0x82, 0] ++ leBytes 2 code ++ leBytes 4 detail ++ leBytes 4 merged ++ leBytes 8 time.toNat)

/-- Deliver an event to one queue, or hold it in the queue's 1 ms interval of that code (R156, R177). -/
def deliver (code detail : Nat) (idx : Nat) (s : State) : State :=
  match tabGet idx s.qpc.ctx with
  | none => s
  | some c =>
    if c.state ≠ .ready ∨ ¬ c.events then s
    else match tabGet code c.merges with
      | none =>
        sendHead idx (eventMsg code detail 0 s.time)
          (onCtxQuiet idx (fun c => { c with merges := tabPut code {} c.merges }) s)
      | some m =>
        let m1 := if m.held = 0 then { held := 1, detail := word detail, time := s.time } else { m with held := m.held + 1 }
        onCtxQuiet idx (fun c => { c with merges := tabPut code m1 c.merges }) s

/-- Where an event goes besides the recorder (R156, R177 and the event tables of the chapters). -/
inductive Dest where
  | recorder
  /-- every Ready queue with EVENTS granted -/
  | all
  /-- the other queues from the same host address as a context -/
  | sameHost (idx : Nat)
  /-- every queue from the same host address and HOST_ID as a context -/
  | sameHostId (idx : Nat)
  | queue (idx : Nat)
deriving DecidableEq, Repr

/-- The contexts an event goes to. -/
def State.destCtxs (s : State) : Dest → List Nat
  | .recorder => []
  | .all => s.qpc.ctx.map (·.1)
  | .queue i => [i]
  | .sameHost i => match tabGet i s.qpc.ctx with
    | none => []
    | some c => (s.qpc.ctx.filter fun e => e.1 ≠ i ∧ e.2.src = c.src).map (·.1)
  | .sameHostId i => match tabGet i s.qpc.ctx with
    | none => []
    | some c => (s.qpc.ctx.filter fun e => e.2.src = c.src ∧ e.2.hostId = c.hostId).map (·.1)

/-- Raise an event: into the recorder, and to the queues it goes to. -/
def raise (code detail : Nat) (dest : Dest) (s : State) : State :=
  (s.destCtxs dest).foldl (fun s i => deliver code detail i s) (evrRaise code detail none s)

/-- Raise an event that goes to the recorder only. -/
def note (code detail : Nat) (s : State) : State := evrRaise code detail none s

end Sys2Proof.Machine
end

