-- ==== Sys2Proof/Machine/Tree.lean ====
section
/-! DEFINITION. The unit tree: descriptors, address arithmetic (R290 to R295), parity of a tree row (R291, R361, R364),
reconstruction (R322, R362, R363), margins and health (R302 to R308). -/

namespace Sys2Proof.Machine

/-- The unit descriptors in force. -/
def State.units (s : State) : List UnitDesc := match s.cfg.img with
  | some i => i.units
  | none => []

/-- A unit descriptor by its index. -/
def State.unit (s : State) (u : Nat) : Option UnitDesc := s.units[u]?

/-- How many members a unit has (R283, R284). -/
def UnitDesc.size (d : UnitDesc) : Nat := match d.kind with
  | .die => 0
  | _ => d.width

/-- The descriptor indices of a unit's members (R285). -/
def UnitDesc.members (d : UnitDesc) : List Nat := (List.range d.size).map (d.base + ·)

/-- The tolerance of a unit kind (R279). -/
def UnitKind.tolerance : UnitKind → Nat
  | .die => 0
  | .band => 1
  | .span => 2

/-- A die's name in the model: PORT × 64 + DIE. -/
def UnitDesc.dieName (d : UnitDesc) : Nat := d.port * 64 + d.die

/-- No unit is deeper than this (R286). -/
def maxDepth : Nat := 7

/-- The depth of a unit (R286); `fuel` bounds the levels. -/
def depthOf (us : List UnitDesc) : Nat → Nat → Nat
  | 0, _ => 0
  | fuel + 1, u => match us[u]? with
    | none => 0
    | some d => match d.kind with
      | .die => 1
      | _ => 1 + (d.members.map (depthOf us fuel)).foldl max 0

/-- The descriptors of the dies under a unit, in member order. -/
def diesUnder (us : List UnitDesc) : Nat → Nat → List Nat
  | 0, _ => []
  | fuel + 1, u => match us[u]? with
    | none => []
    | some d => match d.kind with
      | .die => [u]
      | _ => d.members.flatMap (diesUnder us fuel)

/-- The dies under a unit of the tree in force. -/
def State.diesOf (s : State) (u : Nat) : List Nat := diesUnder s.units maxDepth u

/-- The first die under a unit, whose geometry every die under it shares (R288). -/
def State.geometry (s : State) (u : Nat) : UnitDesc := match s.diesOf u with
  | d :: _ => (s.unit d).getD {}
  | [] => {}

/-- Data strips of a tree row of a unit: T of R293. -/
def stripsPerRow (us : List UnitDesc) : Nat → Nat → Nat
  | 0, _ => 0
  | fuel + 1, u => match us[u]? with
    | none => 0
    | some d => match d.kind with
      | .die => 1
      | .band => d.width - 1
      | .span => (d.width - 2) * stripsPerRow us fuel d.base

/-- T of a unit of the tree in force. -/
def State.rowStrips (s : State) (u : Nat) : Nat := stripsPerRow s.units maxDepth u

/-- RSV_SEGS of a unit's bands (R288). -/
def State.rsvSegs (s : State) (u : Nat) : Nat :=
  match (s.unit u).bind fun d => match d.kind with
    | .band => some d.rsvSegs
    | .die => d.parent.bind fun p => (s.unit p).map (·.rsvSegs)
    | .span => none with
  | some r => r
  | none => match s.diesOf u with
    | d :: _ => match ((s.unit d).bind (·.parent)).bind s.unit with
      | some b => b.rsvSegs
      | none => 0
    | [] => 0

/-- Nominal capacity in data strips (R295). -/
def nominalStrips (us : List UnitDesc) (rsv : Nat) : Nat → Nat → Nat
  | 0, _ => 0
  | fuel + 1, u => match us[u]? with
    | none => 0
    | some d => match d.kind with
      | .die => (d.blocks - rsv) * d.pages
      | .band => (match us[d.base]? with
        | some m => (m.blocks - d.rsvSegs) * m.pages * (d.width - 1)
        | none => 0)
      | .span => (d.width - 2) * nominalStrips us rsv fuel d.base

/-- Nominal capacity in logical blocks (R295). -/
def State.nominalBlocks (s : State) (u : Nat) : Nat := 16 * nominalStrips s.units (s.rsvSegs u) maxDepth u

/-- One step of the resolution of R292 through the members given by `mem`: the die descriptor and its page group number. -/
def resolveStrip (us : List UnitDesc) (mem : Nat → Nat → Nat) : Nat → Nat → Nat → Option (Nat × Nat)
  | 0, _, _ => none
  | fuel + 1, u, g => match us[u]? with
    | none => none
    | some d => match d.kind with
      | .die => some (u, g)
      | .span =>
        let n := d.width
        let st := g / (n - 2)
        resolveStrip us mem fuel (mem u ((st % n + 2 + g % (n - 2)) % n)) st
      | .band =>
        let w := d.width
        let r := g / (w - 1)
        let k := g % (w - 1)
        resolveStrip us mem fuel (d.base + (if k < r % w then k else k + 1)) r

/-- The resolution of R292: die unit, segment and page group of data strip `g` of unit `u`. -/
def State.resolve (s : State) (u g : Nat) : Option (Nat × Nat × Nat) :=
  match resolveStrip s.units (fun sp pos => ((s.unit sp).getD {}).base + pos) maxDepth u g with
  | some (d, pg) => let p := ((s.unit d).getD {}).pages
    some (d, pg / p, pg % p)
  | none => none

/-! ## Substituted members (R379, R382, R383) -/

/-- The descriptor that stands in for a member of a span: for programs the spare from the start of its rebuild, for reads the
spare in every row the walk has done or that was programmed after the start. -/
def State.memberFor (s : State) (write : Bool) (seg row span pos : Nat) : Nat :=
  let home := ((s.unit span).getD {}).base + pos
  match tabGet (span, pos) s.jnl.spans with
  | none => home
  | some e =>
    if e.complete ∨ write then e.spare
    else match tabGet span s.par.rebuilds with
      | some r => if r.pos = pos ∧ r.walk.contains (seg, row) then home else e.spare
      | none => home

/-! ## Parity of a tree row -/

/-- A page group to program: PGKIND and its bytes without the 64-byte header: 65,536 data bytes and metadata bytes 64 to
4,095 (R319, R361). -/
structure PageGroup where
  kind : Nat
  body : Bytes
  /-- CONT_VALID: the last media form goes on in the next data strip (R320, R323) -/
  cont : Bool := false
deriving DecidableEq, Repr

/-- Bytes of a page group's body. -/
def pgBodyLen : Nat := 65536 + 4032

/-- The body of zeros. -/
def zeroBody : Bytes := List.replicate pgBodyLen 0

/-- Powers of the generator 2 in GF(2^8) with 0x11D (R361). -/
def gfPow : Nat → Nat
  | 0 => 1
  | k + 1 => gfMul 0x11D 8 (gfPow k) 2

/-- The inverse in that field: the 254th power. -/
def gfInv (a : Nat) : Nat :=
  let m (x y : Nat) := gfMul 0x11D 8 x y
  let a2 := m a a; let a4 := m a2 a2; let a8 := m a4 a4; let a16 := m a8 a8
  let a32 := m a16 a16; let a64 := m a32 a32; let a128 := m a64 a64
  m a128 (m a64 (m a32 (m a16 (m a8 (m a4 a2)))))

/-- A byte string times a field element. -/
def gfScale (c : Nat) (b : Bytes) : Bytes := b.map fun x => BitVec.ofNat 8 (gfMul 0x11D 8 c x.toNat)

/-- Exclusive or of page-group bodies (R291, R322). -/
def xorAll (bs : List Bytes) : Bytes := bs.foldl xorBytes zeroBody

/-- P of data strips (R361). -/
def parityP (bs : List Bytes) : Bytes := xorAll bs

/-- Q of data strips (R361). -/
def parityQ (bs : List Bytes) : Bytes := xorAll (bs.zipIdx.map fun (b, j) => gfScale (gfPow j) b)

/-- Every page group of tree row `r` of a unit from the row's data strips in order, parity of every level included (R290,
R291, R361, R364); `mem` names the member at a position of a span. -/
def rowGroups (us : List UnitDesc) (mem : Nat → Nat → Nat) (r : Nat) : Nat → Nat → List PageGroup → List (Nat × PageGroup)
  | 0, _, _ => []
  | fuel + 1, u, strips => match us[u]? with
    | none => []
    | some d => match d.kind with
      | .die => match strips with
        | p :: _ => [(u, p)]
        | [] => []
      | .band =>
        let x := r % d.width
        (strips.zipIdx.map fun (p, k) => (d.base + (if k < x then k else k + 1), p))
          ++ [(d.base + x, ⟨2, xorAll (strips.map (·.body)), false⟩)]
      | .span =>
        let n := d.width
        let stripes := chunks (n - 2) (strips.length + 1) strips
        let s0 := r * stripes.length
        (List.range n).flatMap fun i =>
          rowGroups us mem r fuel (mem u i) (stripes.zipIdx.map fun (ds, t) =>
            let st := s0 + t
            let p := st % n
            if i = p then ⟨3, parityP (ds.map (·.body)), false⟩
            else if i = (st + 1) % n then ⟨4, parityQ (ds.map (·.body)), false⟩
            else ds.getD ((i + n + n - p - 2) % n) ⟨7, zeroBody, false⟩)

/-! ## Reconstruction -/

/-- What is known of a wanted strip: its body, further dies whose page groups must be read first, or that it is lost. -/
inductive Found where
  | have_ (b : Bytes)
  | need (dies : List Nat)
  | lost
deriving DecidableEq, Repr

/-- Gather strips that must all be there: every body, or what is still needed, or none. -/
def gather : List Found → Found × List Bytes
  | [] => (.have_ [], [])
  | f :: fs => match f, gather fs with
    | .lost, _ => (.lost, [])
    | _, (.lost, _) => (.lost, [])
    | .need a, (.need b, _) => (.need (a ++ b), [])
    | .need a, _ => (.need a, [])
    | .have_ _, (.need b, _) => (.need b, [])
    | .have_ b, (.have_ _, bs) => (.have_ [], b :: bs)

/-- The two parities and the data of a span stripe with what is known of each of its `n` strips by place (0 is P, 1 is Q,
2 + j is data j): the body of place `a` reconstructed by R362, two erasures at most. -/
def solveStripe (n a : Nat) (places : List Found) : Found :=
  let known (i : Nat) : Option Bytes := match places.getD i .lost with
    | .have_ b => some b
    | _ => none
  let needs := places.flatMap fun
    | .need l => l
    | _ => []
  if needs ≠ [] then .need needs
  else
    let erased := (List.range n).filter fun i => (known i).isNone
    let data := (List.range (n - 2)).filterMap fun j => (known (j + 2)).map fun b => (j, b)
    let pPart := xorAll (data.map (·.2))
    let qPart := xorAll (data.map fun (j, b) => gfScale (gfPow j) b)
    let p' := xorBytes ((known 0).getD zeroBody) pPart
    let q' := xorBytes ((known 1).getD zeroBody) qPart
    if 2 < erased.length then .lost
    else match erased.filter (2 ≤ ·) with
      | [] => if a = 0 then .have_ pPart else if a = 1 then .have_ qPart else .have_ ((known a).getD zeroBody)
      | [x] =>
        let j := x - 2
        let dx := if erased.contains 0 then gfScale (gfInv (gfPow j)) q' else p'
        if a = x then .have_ dx
        else if a = 0 then .have_ (xorBytes pPart dx)
        else if a = 1 then .have_ (xorBytes qPart (gfScale (gfPow j) dx))
        else .have_ ((known a).getD zeroBody)
      | x :: y :: _ =>
        let j := x - 2
        let k := y - 2
        let dy := gfScale (gfInv (Nat.xor (gfPow j) (gfPow k))) (xorBytes (gfScale (gfPow j) p') q')
        if a = y then .have_ dy else if a = x then .have_ (xorBytes p' dy) else .have_ ((known a).getD zeroBody)

/-- Place (0 P, 1 Q, 2 + j) of member `i` in stripe `st` of a span of `n` (R290). -/
def placeOf (n st i : Nat) : Nat := (i + n - st % n) % n

/-- Member of a place in a stripe. -/
def memberAt (n st place : Nat) : Nat := (st % n + place) % n

/-- Strip `t` (within tree row `r`) of a unit, from what is known of page groups by die: `got` is none for a page group not
read, `some none` for one that cannot be read. The innermost reconstruction is tried first (R363): a band row by XOR (R322),
a span stripe by R362. -/
def findStrip (us : List UnitDesc) (mem : Nat → Nat → Nat) (got : Nat → Option (Option Bytes)) (r : Nat) :
    Nat → Nat → Nat → Found
  | 0, _, _ => .lost
  | fuel + 1, u, t => match us[u]? with
    | none => .lost
    | some d => match d.kind with
      | .die => match got u with
        | none => .need [u]
        | some (some b) => .have_ b
        | some none => .lost
      | .band =>
        let x := r % d.width
        let me := d.base + (if t < x then t else t + 1)
        match findStrip us mem got r fuel me t with
        | .lost =>
          match gather ((d.members.filter (· ≠ me)).map fun m => findStrip us mem got r fuel m t) with
          | (.have_ _, bs) => .have_ (xorAll bs)
          | (f, _) => f
        | f => f
      | .span =>
        let n := d.width
        let tc := t / (n - 2)
        let st := r * stripsPerRow us fuel d.base + tc
        let a := 2 + t % (n - 2)
        match findStrip us mem got r fuel (mem u (memberAt n st a)) tc with
        | .lost => solveStripe n a ((List.range n).map fun p =>
            if p = a then .lost else findStrip us mem got r fuel (mem u (memberAt n st p)) tc)
        | f => f

/-- The strip a member of a span holds in stripe position `tc` of tree row `r`, whatever it is (data, P or Q), reconstructed
within the member first and from the other members otherwise (R380). -/
def findMemberStrip (us : List UnitDesc) (mem : Nat → Nat → Nat) (got : Nat → Option (Option Bytes)) (r span pos tc : Nat) :
    Found :=
  match us[span]? with
  | none => .lost
  | some d =>
    let n := d.width
    let st := r * stripsPerRow us maxDepth d.base + tc
    match findStrip us mem got r maxDepth (mem span pos) tc with
    | .lost => solveStripe n (placeOf n st pos) ((List.range n).map fun p =>
        if p = placeOf n st pos then .lost else findStrip us mem got r maxDepth (mem span (memberAt n st p)) tc)
    | f => f

/-! ## Health -/

/-- Insert into a rising list. -/
def insertUp (x : Int) : List Int → List Int
  | [] => [x]
  | y :: ys => if x ≤ y then x :: y :: ys else y :: insertUp x ys

/-- Sort rising. -/
def sortUp (l : List Int) : List Int := l.foldr insertUp []

/-- The margin of a unit (R302): `lostDie` and `target` say which dies are lost and which member is a rebuild's target;
`mem` names the member at a position. -/
def marginOf (us : List UnitDesc) (mem : Nat → Nat → Nat) (lostDie : Nat → Bool) (target : Nat → Nat → Bool) :
    Nat → Nat → Int
  | 0, _ => -1
  | fuel + 1, u => match us[u]? with
    | none => -1
    | some d => match d.kind with
      | .die => if lostDie u then -1 else 0
      | k =>
        let vs := (List.range d.size).map fun i =>
          (marginOf us mem lostDie target fuel (match k with
            | .span => mem u i
            | _ => d.base + i), target u i)
        let lost := (vs.filter fun v => v.1 < 0 || v.2).length
        let costs := sortUp ((vs.filter fun v => !(v.1 < 0 || v.2)).map fun v => v.1 + 1)
        let t := k.tolerance
        if t < lost then -1 else (costs.take (t - lost + 1)).foldl (· + ·) 0 - 1

/-- Whether a die unit is lost: failed or missing (R302). -/
def State.dieLost (s : State) (d : Nat) : Bool :=
  match s.unit d with
  | none => true
  | some u => match tabGet u.dieName s.ftl.dies with
    | some st => st.failed || st.missing
    | none => true

/-- The member at a position of a span as margins count it: the spare once its rebuild is complete (R383). -/
def State.memberNow (s : State) (span pos : Nat) : Nat :=
  match tabGet (span, pos) s.jnl.spans with
  | some e => if e.complete then e.spare else ((s.unit span).getD {}).base + pos
  | none => ((s.unit span).getD {}).base + pos

/-- Whether a member is the target of a rebuild not yet complete (R302), which a resynchronising die is too (R421). -/
def State.rebuildTarget (s : State) (u pos : Nat) : Bool :=
  match tabGet (u, pos) s.jnl.spans with
  | some e => !e.complete
  | none => match s.unit u with
    | some d => match d.kind with
      | .band => match s.unit (d.base + pos) with
        | some m => tabHas m.dieName s.par.resyncs
        | none => false
      | _ => false
    | none => false

/-- The margin of a unit now (R302). -/
def State.margin (s : State) (u : Nat) : Int :=
  marginOf s.units s.memberNow s.dieLost s.rebuildTarget maxDepth u

/-- Whether a unit, or one under it, satisfies a test. -/
def anyUnder (us : List UnitDesc) (p : Nat → Bool) : Nat → Nat → Bool
  | 0, _ => false
  | fuel + 1, u => p u || (match us[u]? with
    | none => false
    | some d => d.members.any (anyUnder us p fuel))

/-- REBUILDING: the unit or a unit under it is the target of a rebuild (R303). -/
def State.rebuilding (s : State) (u : Nat) : Bool :=
  anyUnder s.units (fun v => match s.unit v with
    | some d => match d.parent with
      | some p => s.rebuildTarget p d.pos
      | none => false
    | none => false) maxDepth u

/-- Whether a die under a unit is missing (R303). -/
def State.missingUnder (s : State) (u : Nat) : Bool :=
  (s.diesOf u).any fun d => match s.unit d with
    | some ud => (tabGetD ud.dieName {} s.ftl.dies).missing
    | none => false

/-- The health state of a unit: 0 OPTIMAL, 1 DEGRADED, 2 CRITICAL, 3 FAILED (R303). -/
def State.healthOf (s : State) (u : Nat) : Nat :=
  match s.unit u with
  | none => 0
  | some d => match d.kind with
    | .die => if s.dieLost u then 3 else 0
    | _ =>
      let m := s.margin u
      if (tabGetD u {} s.ftl.tops).unfit ∨ m < 0 then 3 else if m = 0 then 2
      else if (s.diesOf u).any s.dieLost || s.rebuilding u then 1 else 0

/-- MARGIN as FTL_UNIT_STAT reports it (R317). -/
def State.marginField (s : State) (u : Nat) : Nat :=
  match s.unit u with
  | none => 0
  | some d => match d.kind with
    | .die => if s.dieLost u then 0 else 1
    | _ => if (tabGetD u {} s.ftl.tops).unfit then 0 else satN 8 (s.margin u + 1).toNat

/-- The units that report UNIT_HEALTH: data top units, map bands and journal bands (R306). -/
def reportsHealth (d : UnitDesc) : Bool := d.role == .top || d.role == .mapBand || d.role == .jnlBand

/-- Whether this head works the dies of a unit: its own, or in the Lone state every one, but for the partner's while they are being handed
back (R34, R35, R451 step 4); a Fenced head works none (R445). -/
def State.serves (s : State) (u : Nat) : Bool :=
  s.prt.pair != .fenced && (((s.unit u).getD {}).head == s.head || (s.prt.pair == .lone && s.prt.join != .handing))

/-- Recompute every unit's health; each change of state counts, and one at a top unit, map band or journal band raises
UNIT_HEALTH (R306, R309). -/
def recomputeHealth (s : State) : State :=
  ((List.range s.units.length).filter s.serves).foldl (fun st u =>
    let now := (s.healthOf u, s.marginField u)
    let old := tabGetD u (0, 0) s.ftl.health
    let st1 := st.onFtl fun f => { f with health := tabPut u now f.health }
    if old.1 = now.1 then st1
    else
      let st2 := st1.onFtl fun f => { f with healthChg := satInc f.healthChg }
      if reportsHealth ((s.unit u).getD {}) then
        raise 0x0981 (u + now.1 * 2 ^ 13 + b2n (s.missingUnder u) * 2 ^ 15 + now.2 * 2 ^ 16) .all st2
      else st2) s

/-- The sled mask of a unit (R308). -/
def State.sledMask (s : State) (u : Nat) : Nat :=
  (nubNat ((s.diesOf u).map fun d => ((s.unit d).getD {}).port)).foldl (fun m p => m + 2 ^ p) 0

/-- The margin of a unit of the tree as loaded with every die that a test lets through lost (R304, R308). -/
def loadMargin (us : List UnitDesc) (lost : UnitDesc → Bool) (u : Nat) : Int :=
  marginOf us (fun sp i => ((us[sp]?).getD {}).base + i) (fun d => lost ((us[d]?).getD {})) (fun _ _ => false) maxDepth u

/-- The fault-domain tolerance of a unit (R308). -/
def State.fdTol (s : State) (u : Nat) : Nat :=
  let fds := nubNat ((s.diesOf u).map fun d => ((s.unit d).getD {}).fdom)
  (fds.filter fun f => decide (0 ≤ loadMargin s.units (fun d => d.fdom == f) u)).foldl (fun m f => m + 2 ^ f) 0

end Sys2Proof.Machine
end

