-- ==== Sys2Proof/Machine/Link.lean ====
section
/-! DEFINITION. The sled link: ports, flits with replay, credits and transactions as the head sends them (chapter 11, R404 to
R409, R417). -/

namespace Sys2Proof.Machine

/-- A sled port. -/
def State.port (s : State) (p : Nat) : SledPort := tabGetD p {} s.sld.ports

/-- Change a sled port. -/
def onPort (p : Nat) (f : SledPort → SledPort) (s : State) : State :=
  s.onSld fun l => { l with ports := tabUpdD p {} f l.ports }

/-- Flits that may be on their way unacknowledged (R405). -/
def flitWindow : Nat := 2048

/-- Payload bytes of a flit (R404). -/
def flitPayload : Nat := 488

/-- A flit's 512 bytes (R404). DESIGN CHOICE (log entry 10): payload bytes behind the last transaction byte are zero. -/
def SledPort.flit (q : SledPort) (ftype fseq : Nat) (payload : Bytes) : Bytes :=
  let b := leBytes 1 ftype ++ leBytes 1 (b2n q.acked.isSome) ++ leBytes 2 fseq
    ++ leBytes 2 ((q.acked.getD 0).toNat) ++ q.owed.flatMap (leBytes 2) ++ [0, 0] ++ padTo flitPayload payload
  b ++ leBytes 8 (carryK b)

/-- Send one non-idle flit: it takes the next FSEQ, returns the credits owed and joins the replay buffer; a flit beyond the
2,048 outstanding leaves when an acknowledgement makes room (R404, R405). -/
def sendFlit (p ftype : Nat) (payload : Bytes) (s : State) : State :=
  let q := s.port p
  let raw := q.flit ftype q.fseq.toNat payload
  let s1 := onPort p (fun q =>
    { q with fseq := q.fseq + 1, owed := [0, 0, 0, 0], replay := q.replay ++ [(q.fseq, raw, 0)] }) s
  if q.replay.length < flitWindow then s1.send (.osl p raw) else s1

/-- Send bytes as transaction flits (R404, R408): each transaction starts a flit of its own (DESIGN CHOICE, log entry 10). -/
def sendFlits (p : Nat) (bytes : Bytes) (s : State) : State :=
  (chunks flitPayload (bytes.length + 1) bytes).foldl (fun s b => sendFlit p 1 b s) s

/-- Send one control word in a control flit (R407). -/
def sendControl (p code arg : Nat) (s : State) : State :=
  sendFlit p 2 (leBytes 1 code ++ leBytes 7 (arg / 256)) s

/-- Credit units a transaction takes (R408). -/
def oslUnits (dlen : Nat) : Nat := ceilDiv (32 + ceilDiv dlen 8 * 8) 64

/-- The CLAIM field of the head's transactions (R417): the number granted on the sled, 0 while it holds none; a CLAIM carries
the number it asks for (DEDUCED, log entry 11: R414 decides by a number that no other field carries). -/
def SledPort.claimField (q : SledPort) (t : OslTx) : Nat :=
  match t.what with
  | .claim _ n _ _ => n
  | _ => match q.grant with
    | some (n, _, _) => n
    | none => 0

/-- A transaction's bytes: the 32-byte header and the data padded to a multiple of 8 (R409). -/
def SledPort.txBytes (q : SledPort) (tag : Nat) (t : OslTx) : Bytes :=
  leBytes 1 t.op ++ leBytes 1 t.chan ++ leBytes 2 tag ++ leBytes 4 t.data.length ++ leBytes 8 (q.claimField t)
    ++ padTo 16 t.args ++ padTo (ceilDiv t.data.length 8 * 8) t.data

/-- The next transaction of a port's queue that may start: channel 0 first, each channel in order and only with credit for
all of its first transaction (R408). -/
def SledPort.nextSend (q : SledPort) : Option (Nat × OslTx) :=
  let heads := [0, 1, 2, 3].filterMap fun c =>
    (q.queue.filterMap fun tag => (tabGet tag q.tx).map fun t => (tag, t)).find? fun e => e.2.chan == c
  let ok := heads.filter fun e => decide (oslUnits e.2.data.length ≤ q.credit.getD e.2.chan 0)
  match ok with
  | [] => none
  | e :: rest => if e.2.chan = 0 then some e
    else q.queue.findSome? fun tag => (e :: rest).find? fun x => x.1 == tag

/-- Start every transaction that a port's credits allow (R408). Nothing starts outside L0; `fuel` bounds the starts. -/
def pumpPort (p : Nat) : Nat → State → State
  | 0, s => s
  | fuel + 1, s =>
    let q := s.port p
    if q.state ≠ .l0 ∧ q.state ≠ .resync then s
    else match q.nextSend with
      | none => s
      | some (tag, t) =>
        let s1 := onPort p (fun q =>
          { q with
            queue := q.queue.filter (· ≠ tag)
            credit := modAt t.chan (· - oslUnits t.data.length) q.credit
            tx := tabUpd tag (fun t => { t with since := s.time }) q.tx }) s
        pumpPort p fuel (sendFlits p (q.txBytes tag t) s1)

/-- Start what waits on a port; one at rest leaves rest for it (R422). -/
def pumpSled (p : Nat) (s : State) : State :=
  let q := s.port p
  if q.state = .rest ∧ q.queue ≠ [] then (onPort p (fun q => { q with state := .recovery }) s).send (.oslCtl p 2 0)
  else pumpPort p (q.queue.length + 1) s

/-- A TAG not outstanding on the port; 0xFFFF is NOTICE's (R409). -/
def SledPort.freeTag (q : SledPort) : Nat :=
  match (List.range (q.tx.length + 1)).find? fun i => !tabHas ((q.nextTag + i) % 65535) q.tx with
  | some i => (q.nextTag + i) % 65535
  | none => q.nextTag

/-- Whether a port carries transactions or will again without being identified anew. -/
def SledPort.live (q : SledPort) : Bool :=
  match q.state with
  | .l0 | .rest | .recovery | .resync => true
  | _ => false

/-- Issue a transaction on a port (R408, R409); a Fenced head issues none but IDENTIFY and RECALL (R445). -/
def osl (p : Nat) (what : OslFor) (op chan : Nat) (args data : Bytes) (step : Nat) (s : State) : State :=
  if s.prt.pair = .fenced ∧ op ≠ 0x01 ∧ op ≠ 0x04 then s else
  let tag := (s.port p).freeTag
  pumpSled p (onPort p (fun q =>
    { q with
      tx := tabPut tag { what := what, op := op, chan := chan, args := args, data := data, since := s.time, step := step } q.tx
      nextTag := (tag + 1) % 65535
      queue := q.queue ++ [tag] }) s)

/-- IDENTIFY, DIE_INFO and BADLIST (R409, R417). -/
def oslIdentify (p : Nat) (what : OslFor) (s : State) : State := osl p what 0x01 0 [] [] 0 s

/-- DIE_INFO of a die. -/
def oslDieInfo (p die : Nat) (s : State) : State := osl p (.dieInfo die) 0x02 1 (leBytes 1 die) [] 0 s

/-- BADLIST of a die. -/
def oslBadList (p die : Nat) (s : State) : State := osl p (.badList die) 0x03 1 (leBytes 1 die) [] 0 s

/-- RECALL of a transaction, under a TAG of its own (R420). -/
def oslRecall (p tag : Nat) (s : State) : State := osl p (.recall tag) 0x04 0 (leBytes 2 tag) [] 0 s

/-- CLAIM with a number, MODE (1 JOIN, 2 SOLE) and MASK; the number counts as sent for SLD_CLAIM_EPOCH (R409, R416). -/
def oslClaim (p : Nat) (why : ClaimFor) (num mode mask : Nat) (s : State) : State :=
  osl p (.claim why num mode mask) 0x20 0 (leBytes 1 mode ++ List.replicate 7 0 ++ leBytes 8 mask) [] 0
    (s.onSld fun l => { l with epoch := BitVec.ofNat 64 (max l.epoch.toNat num) })

/-- The image's ARRAY_ID in force. -/
def State.arrayId (s : State) : Nat := match s.cfg.img with
  | some i => i.arrayId
  | none => 0

/-- BIND of a sled to this array and port, while the claim there is current (R417, R419). -/
def oslBind (p : Nat) (s : State) : State :=
  if (s.port p).current then osl p .bind 0x21 0 (leBytes 8 s.arrayId ++ leBytes 1 p) [] 0 s else s

/-- Keep the highest claim number seen (R416). -/
def claimSeen (n : Nat) (s : State) : State :=
  s.onSld fun l => { l with epoch := BitVec.ofNat 64 (max l.epoch.toNat n) }

end Sys2Proof.Machine
end

