-- ==== Sys2Proof/Machine/Media.lean ====
section
/-! DEFINITION. Page groups on the dies: where a segment's erase block lies, page-group metadata (R319 to R323), media forms and
their checks, programs, erases, reads with their threshold records (R347, R348), and read jobs that reconstruct what cannot be
read (R223, R363). -/

namespace Sys2Proof.Machine

/-! ## Dies and erase blocks -/

/-- Whether a die can be read: not lost, its port live and identified, and the head's claim there current (R417). -/
def State.dieReady (s : State) (d : Nat) : Bool :=
  match s.unit d with
  | none => false
  | some u =>
    let q := s.port u.port
    !s.dieLost d && q.live && q.known && !q.foreign && q.current && q.grant.isSome

/-- Whether a die can be programmed and erased: the claim held owns it, and the head is not fenced there (R416, R417). -/
def State.dieWritable (s : State) (d : Nat) : Bool :=
  s.dieReady d && (match s.unit d with
    | none => false
    | some u => let q := s.port u.port
      !q.fenced && (match q.grant with
        | some (_, sole, mask) => sole || bitAt mask u.die
        | none => false))

/-- A die's name, PORT × 64 + DIE, of a die descriptor. -/
def State.dieName (s : State) (d : Nat) : Nat := ((s.unit d).getD {}).dieName

/-- The die descriptor of a die's name. -/
def State.dieOf (s : State) (name : Nat) : Option Nat :=
  s.units.findIdx? fun u => u.kind == .die && u.dieName == name

/-- Whether an erase block stands in its die's segment table: it is no spare, no retired block and no target of a relocation
under way (R324, R343). -/
def State.blkBound (s : State) (name b : Nat) (e : EBlk) : Bool :=
  !e.spare && e.state != .retired && !(s.ftl.relocs.any fun r => r.die == name && r.dst == b && r.waitLog.isNone)

/-- The segment table: the erase block that backs a segment of a die (R324). -/
def State.blockOf (s : State) (name seg : Nat) : Option Nat :=
  (s.ftl.blks.find? fun e => e.1.1 == name && e.2.seg == seg && s.blkBound name e.1.2 e.2).map (·.1.2)

/-- An erase block. -/
def State.blk (s : State) (name b : Nat) : EBlk := tabGetD (name, b) {} s.ftl.blks

/-- Change an erase block. -/
def onBlk (name b : Nat) (f : EBlk → EBlk) (s : State) : State :=
  s.onFtl fun t => { t with blks := tabUpdD (name, b) {} f t.blks }

/-- A segment of a unit. -/
def State.seg (s : State) (top m : Nat) : Seg9 := tabGetD (top, m) {} s.ftl.segs

/-- Change a segment of a unit. -/
def onSeg (top m : Nat) (f : Seg9 → Seg9) (s : State) : State :=
  s.onFtl fun t => { t with segs := tabUpdD (top, m) {} f t.segs }

/-- A unit's service state. -/
def State.top (s : State) (u : Nat) : TopSt := tabGetD u {} s.ftl.tops

/-- Change a unit's service state. -/
def onTop (u : Nat) (f : TopSt → TopSt) (s : State) : State :=
  s.onFtl fun t => { t with tops := tabUpdD u {} f t.tops }

/-- Page groups in a segment of a unit. -/
def State.pagesOf (s : State) (top : Nat) : Nat := max (s.geometry top).pages 1

/-- The tree row of a page group within its unit (R293). -/
def State.treeRow (s : State) (top seg row : Nat) : Nat := seg * s.pagesOf top + row

/-- The member at a position of a span as a program to a row finds it (R379). -/
def State.memW (s : State) (seg row : Nat) : Nat → Nat → Nat := s.memberFor true seg row

/-- The member at a position of a span as a read of a row finds it (R382). -/
def State.memR (s : State) (seg row : Nat) : Nat → Nat → Nat := s.memberFor false seg row

/-- The die of data strip `t` of a tree row (R292). -/
def State.stripDie (s : State) (mem : Nat → Nat → Nat) (top seg row t : Nat) : Option Nat :=
  (resolveStrip s.units mem maxDepth top (s.treeRow top seg row * s.rowStrips top + t)).map (·.1)

/-- The data strip of a tree row that a die holds, none for a parity page group. -/
def State.stripAt (s : State) (mem : Nat → Nat → Nat) (top seg row die : Nat) : Option Nat :=
  (List.range (s.rowStrips top)).find? fun t => s.stripDie mem top seg row t == some die

/-! ## Page groups -/

/-- Bytes of a page group as read and programmed: data and metadata (R319). -/
def pgLen : Nat := 65536 + 4096

/-- The header of a page group's metadata (R320). -/
def pgHeader (kind : Nat) (cont : Option Nat) (top segSeq treeRow : Nat) : Bytes :=
  withCrc (leBytes 1 kind ++ leBytes 1 (b2n cont.isSome) ++ leBytes 2 top ++ leBytes 4 segSeq ++ leBytes 4 treeRow
    ++ leBytes 2 (cont.getD 0) ++ List.replicate 46 0)

/-- A page group's bytes from its body and header. -/
def pgBytes (header body : Bytes) : Bytes := body.take 65536 ++ header ++ body.drop 65536

/-- A page group's body: data bytes and metadata bytes 64 to 4,095. -/
def pgBody (raw : Bytes) : Bytes := raw.take 65536 ++ slice raw (65536 + 64) 4032

/-- A page group's header. -/
def pgHead (raw : Bytes) : Bytes := slice raw 65536 64

/-- M values of a strip's sectors and the tags: metadata bytes 64 to 4,095 (R320). -/
def pgMeta (sectors : List Bytes) (tags : List Bytes) : Bytes :=
  padTo 4032 (padTo 512 (sectors.flatMap fun x => leBytes 4 (crc32c x)) ++ padTo 3072 tags.flatten)

/-- A strip's body from its sectors, each with the tag of the form that starts there (R320). -/
def stripBody (sectors : List (Bytes × Option Bytes)) : Bytes :=
  let full := sectors ++ List.replicate (128 - sectors.length) (List.replicate 512 0, none)
  (full.flatMap (·.1)) ++ pgMeta (full.map (·.1)) (full.map fun e => padTo 24 (e.2.getD []))

/-- The body of a row padding strip: zero data, M over every sector, no tag (R320). -/
def padBody : Bytes := stripBody []

/-- The sectors of forms packed one behind another, with their tags. -/
def formSectors (fs : List Form) : List (Bytes × Option Bytes) :=
  fs.flatMap fun f => f.sectors.zipIdx.map fun (x, i) => (x, if i = 0 then some f.tag else none)

/-- Whether a sector read agrees with its M (R207, R220). -/
def sectorGood (data md : Bytes) (i q : Nat) : Bool := crc32c (slice data (512 * i) 512) == fieldLe md (64 + 4 * q) 4

/-- Whether a whole page group's HCRC and, in one that is no parity, every M are good (R343, R387). -/
def pgGood (raw : Bytes) : Bool :=
  let h := pgHead raw
  let md := raw.drop 65536
  crcGood h && ([2, 3, 4].contains (fieldLe h 0 1)
    || (List.range 128).all fun q => sectorGood raw md q q)

/-- Whether a page group is a marker of R385: its HCRC is the complement of the CRC. -/
def pgMarker (raw : Bytes) : Bool :=
  let h := pgHead raw
  fieldLe h 60 4 == 2 ^ 32 - 1 - crc32c (h.take 60)

/-- A marker page group (R385). -/
def markerBytes (top segSeq treeRow : Nat) : Bytes :=
  let h := (pgHeader 1 none top segSeq treeRow).take 60
  pgBytes (h ++ leBytes 4 (2 ^ 32 - 1 - crc32c h)) padBody

/-- Whether a block tag's TCRC, VOL and POS are right (R220). -/
def tagGood (tag : Bytes) (vol pos : Nat) : Bool :=
  crcGood tag && fieldLe tag 14 2 == vol && fieldLe tag 8 5 == pos

/-! ## Programs and erases -/

/-- The kind of a page group that holds no data, by the layout: XOR, P or Q are the row's own; the others follow the unit's
role (R320). -/
def dataKind (d : UnitDesc) : Nat := match d.role with
  | .mapBand => 5
  | .jnlBand => 6
  | _ => 1

/-- PROGRAM a page group of an erase block, for a row program (R409). -/
def programBlock (row name b pg : Nat) (raw : Bytes) (s : State) : State :=
  osl (name / 64) (.program row) 0x11 2 (leBytes 1 (name % 64) ++ [0] ++ leBytes 2 b ++ leBytes 2 pg) raw 0
    (onBlk name b (fun e => { e with hot := e.hot || decide ((s.port (name / 64)).throttle ≠ 0) }) s)

/-- PROGRAM a page group on a die; false where the die is lost or may not be programmed, so that the page group counts as one
of a lost die (R322, R418). While the block is relocated for a failed program, the page group waits for the target (R343). -/
def programPage (row die seg pg : Nat) (raw : Bytes) (s : State) : Bool × State :=
  let name := s.dieName die
  match s.blockOf name seg with
  | some b =>
    if ¬ s.dieWritable die then (false, s)
    else if s.ftl.relocs.any fun r => r.die == name && r.src == b && r.going then
      (true, s.onFtl fun f => { f with relocs := f.relocs.map fun r =>
        if r.die = name ∧ r.src = b then { r with late := r.late ++ [(row, pg, raw)] } else r })
    else (true, programBlock row name b pg raw s)
  | none => (false, s)

/-- A die that is missing misses a row's program or a segment's erase: its sled's resynchronisation is to make it up (R421). -/
def missRow (d top m : Nat) (row : Option Nat) (s : State) : State :=
  let name := s.dieName d
  if (tabGetD name {} s.ftl.dies).missing then
    onPort (name / 64) (fun q => if q.missed.contains (top, m, row) then q else { q with missed := q.missed ++ [(top, m, row)] }) s
  else s

/-- ERASE a block of a die; false where it cannot be issued. FTL_ERASES counts it (R359). -/
def eraseBlock (name b : Nat) (seg : Option (Nat × Nat)) (s : State) : Bool × State :=
  match s.dieOf name with
  | none => (false, s)
  | some d =>
    if s.dieWritable d then
      (true, osl (name / 64) (.erase name b seg) 0x12 1 (leBytes 1 (name % 64) ++ [0] ++ leBytes 2 b) [] 0
        (s.onFtl fun f => { f with erases := f.erases + 1 }))
    else (false, match seg with
      | some (top, m) => missRow d top m none s
      | none => s)

/-- Issue page groups together as one row program (R294, R364); page groups of lost dies are left out (R322). -/
def issueRow (r : RowProg) (pages : List (Nat × Bytes)) (s : State) : State :=
  let go := pages.foldl (fun (acc : List Nat × List Nat × State) e =>
    let (ok, s') := programPage r.id e.1 r.seg r.row e.2 acc.2.2
    if ok then (acc.1 ++ [e.1], acc.2.1, s') else (acc.1, acc.2.1 ++ [e.1], missRow e.1 r.top r.seg (some r.row) s')) ([], [], s)
  go.2.2.onPar fun p => { p with rows := p.rows ++ [{ r with left := go.1, failed := r.failed ++ go.2.1 }] }

/-- A fresh identifier for a row program or a read job. -/
def State.newId (s : State) : Nat × State := (s.par.nextId, s.onPar fun p => { p with nextId := p.nextId + 1 })

/-- The page groups of a whole tree row as programmed, from its data strips (R290, R291, R320, R364). -/
def State.rowPages (s : State) (top seg row : Nat) (strips : List PageGroup) : List (Nat × Bytes) :=
  let mem := s.memW seg row
  let r := s.treeRow top seg row
  let seqNo := (s.seg top seg).seq
  let dies := (List.range strips.length).filterMap fun t => s.stripDie mem top seg row t
  (rowGroups s.units mem r maxDepth top strips).map fun (d, g) =>
    let cont := if g.cont then
        match dies.findIdx? (· == d) with
        | some i => (dies[i + 1]?).map s.dieName
        | none => none
      else none
    (d, pgBytes (pgHeader g.kind cont top seqNo r) g.body)

/-! ## Reads -/

/-- The offset that ladder step `k` adds to every read level (R348). -/
def ladderOffset (k : Nat) : Int := if k % 2 = 1 then -(2 * ceilDiv k 2 : Nat) else (2 * ceilDiv k 2 : Nat)

/-- An offset within ±RT_LIMIT (R348, R349). -/
def State.clampRt (s : State) (x : Int) : Int :=
  let l : Int := (s.param P.rtLimit : Nat)
  if x < -l then -l else if l < x then l else x

/-- The 16 bytes of a block's threshold record with an offset added to every level that the die has (R347, R527). -/
def EBlk.rtBytes (e : EBlk) (levels : Nat) (add : Int) : Bytes :=
  e.rt.zipIdx.map (fun (x, i) => if i < levels then BitVec.ofInt 8 (x + add) else 0) ++ leBytes 1 (e.step % 16 + 16 * (e.exhaust % 4) + 64 * e.cls)

/-- READ sectors of a page group with its metadata, under the block's threshold record shifted by a ladder step (R330, R347,
R409); every read counts toward RD_LIMIT (R345). -/
def readPage (what : OslFor) (name b pg sec cnt : Nat) (add : Int) (step : Nat) (s : State) : State :=
  osl (name / 64) what 0x10 1
    (leBytes 1 (name % 64) ++ [1] ++ leBytes 2 b ++ leBytes 2 pg ++ leBytes 1 sec ++ leBytes 1 (cnt - 1))
    ((s.blk name b).rtBytes (tabGetD (name % 64) 15 (s.port (name / 64)).levels) add) step
    (onBlk name b (fun e => { e with reads := e.reads + 1, sinceRt := e.sinceRt + 1, rtReads := e.rtReads + 1 }) s)

/-- The erase block a page-group address reads from. -/
def State.pgBlock (s : State) (a : PgAddr) : Option (Nat × Nat) :=
  let name := s.dieName a.die
  (s.blockOf name a.seg).map fun b => (name, b)

/-- Whether a page group can be asked for at all: its die is ready and its segment bound. -/
def State.pgReadable (s : State) (a : PgAddr) : Bool := s.dieReady a.die && (s.pgBlock a).isSome

/-! ## Read jobs -/

/-- What a job has of the page group of die `d` in the row of `a`, without its header: none where a read is still owed, `some
none` where it cannot be read. -/
def State.jobGot (s : State) (j : Job) (a : PgAddr) (d : Nat) : Option (Option Bytes) :=
  let x : PgAddr := { a with die := d }
  match j.got.find? fun e => e.1 == x with
  | some e => some (e.2.map pgBody)
  | none =>
    if s.par.markers.contains x then some none
    else if s.pgReadable x then none else some none

/-- The bytes PAR still holds of a strip of an incomplete row (R321, R370). -/
def State.heldStrip (s : State) (a : PgAddr) : Option Bytes :=
  match tabGet a.top s.par.part with
  | none => none
  | some p =>
    if p.seg = a.seg ∧ p.row = a.row then
      match s.stripAt (s.memW a.seg a.row) a.top a.seg a.row a.die with
      | none => none
      | some t => (p.strips.find? fun e => e.1 == t && !e.2.isEmpty).map (·.2)
    else none

/-- Data strip `t` of a unit reconstructed through the units above it when it cannot return the strip itself (R363). -/
def climb (us : List UnitDesc) (mem : Nat → Nat → Nat) (got : Nat → Option (Option Bytes)) (r : Nat) :
    Nat → Nat → Nat → Found
  | 0, _, _ => .lost
  | fuel + 1, u, t =>
    match findStrip us mem got r maxDepth u t with
    | .lost => match (us[u]?).bind fun d => d.parent.map fun p => (p, d.pos) with
      | none => .lost
      | some (sp, pos) =>
        match findMemberStrip us mem got r sp pos t with
        | .lost =>
          let n := ((us[sp]?).getD {}).width
          let st := r * stripsPerRow us maxDepth u + t
          let a := placeOf n st pos
          if a < 2 then .lost else climb us mem got r fuel sp (t * (n - 2) + (a - 2))
        | f => f
    | f => f

/-- The page group of a die in a tree row, whatever it holds: read, or the XOR of its band row (R322), or from the span
above (R363). `pos` of a spare that stands in for a member is the member's. -/
def findPage (us : List UnitDesc) (mem : Nat → Nat → Nat) (got : Nat → Option (Option Bytes)) (r d : Nat)
    (stand : Nat → Option (Nat × Nat)) : Found :=
  match got d with
  | none => .need [d]
  | some (some b) => .have_ b
  | some none => match us[d]? with
    | none => .lost
    | some u => match u.parent.bind fun p => (us[p]?).map fun b => (p, b) with
      | none => .lost
      | some (bi, band) =>
        match gather ((band.members.filter (· ≠ d)).map fun m => match got m with
          | none => .need [m]
          | some (some b) => .have_ b
          | some none => .lost) with
        | (.have_ _, bs) => .have_ (xorAll bs)
        | (.need l, _) => .need l
        | (.lost, _) =>
          let x := r % band.width
          let up (k : Nat) : Found := match stand bi with
            | some (sp, pos) => findMemberStrip us mem got r sp pos k
            | none => climb us mem got r maxDepth bi k
          if u.pos = x then
            match gather ((List.range (band.width - 1)).map up) with
            | (.have_ _, bs) => .have_ (xorAll bs)
            | (f, _) => f
          else up (if u.pos < x then u.pos else u.pos - 1)

/-- The span and position a spare stands in for, for a unit under it. -/
def State.standFor (s : State) (u : Nat) : Option (Nat × Nat) := (s.jnl.spans.find? fun e => e.2.spare == u).map (·.1)

/-- What a job finds of a page group it wants. -/
def State.jobFind (s : State) (j : Job) (a : PgAddr) : Found :=
  match s.heldStrip a with
  | some b => .have_ b
  | none =>
    if s.par.markers.contains a then .lost
    else findPage s.units (s.memR a.seg a.row) (s.jobGot j a) (s.treeRow a.top a.seg a.row) a.die s.standFor

/-- Whether a job reads one media form directly (R330), rather than whole page groups. -/
def Job.isForm (j : Job) : Bool := match j.what with
  | .cmd .. | .repl .. | .repair .. => true
  | _ => false

/-- Change a job. -/
def onJob (id : Nat) (f : Job → Job) (s : State) : State :=
  s.onPar fun p => { p with jobs := p.jobs.map fun j => if j.id = id then f j else j }

/-- The sectors a job reads of the i-th page group it wants. -/
def Job.part (j : Job) (i : Nat) : Nat × Nat :=
  if i = 0 then (j.sec, min j.cnt (128 - j.sec)) else (0, j.cnt - (128 - j.sec))

/-- Page groups a job must still ask for. -/
def State.jobNeeds (s : State) (j : Job) : List PgAddr :=
  let all := j.want.flatMap fun a =>
    if j.direct.any fun e => e.1 == a then []
    else match s.jobFind j a with
      | .need ds => ds.map fun d => { a with die := d }
      | _ => []
  (all.foldl (fun acc x => if acc.contains x then acc else acc ++ [x]) []).filter fun x => !j.out.contains x

/-- Ask for what a job still needs: a form's own page group by its sectors, every other one whole (R223, R323). -/
def advanceJob (id : Nat) (s : State) : State :=
  match s.par.jobs.find? fun j => j.id == id with
  | none => s
  | some j =>
    (s.jobNeeds j).foldl (fun s a =>
      match s.pgBlock a with
      | none => s
      | some (name, b) =>
        let i := j.want.findIdx (· == a)
        let (sec, cnt) := if j.isForm ∧ i < j.want.length then j.part i else (0, 128)
        readPage (.read id a) name b a.row sec cnt 0 0 (onJob id (fun j => { j with out := j.out ++ [a] }) s)) s

/-- Start a read job and ask for its page groups. -/
def startJob (what : JobFor) (want : List PgAddr) (sec cnt : Nat) (s : State) : State :=
  let (id, s1) := s.newId
  advanceJob id (s1.onPar fun p => { p with jobs := p.jobs ++ [{ id := id, what := what, want := want, sec := sec, cnt := cnt }] })

/-- What a job has found, in the order it wants: bodies, or none for a page group that is lost; nothing while it waits. -/
def State.jobBodies (s : State) (j : Job) : Option (List (Option Bytes)) :=
  if j.out ≠ [] ∨ s.jobNeeds j ≠ [] then none
  else some (j.want.map fun a => match s.jobFind j a with
    | .have_ b => some b
    | _ => none)

/-- End a job. -/
def endJob (id : Nat) (s : State) : State := s.onPar fun p => { p with jobs := p.jobs.filter (·.id ≠ id) }

/-- Where a direct map word's media form begins: page-group address, first sector, sectors (R329, R330). -/
def State.wordAt (s : State) (top w : Nat) : Option (PgAddr × Nat × Nat) :=
  match s.dieOf (bitsAt w 43 5 * 64 + bitsAt w 37 6) with
  | none => none
  | some d => some ({ top := top, seg := bitsAt w 24 13, row := bitsAt w 12 12, die := d },
      bitsAt w 8 4 * 8 + bitsAt w 5 3, bitsAt w 2 3 + 1)

/-- The direct map word of a media form (R329). -/
def directWord (name seg pg sec len : Nat) : Nat :=
  2 + (len - 1) * 2 ^ 2 + (sec % 8) * 2 ^ 5 + (pg * 16 + sec / 8) * 2 ^ 8 + seg * 2 ^ 24 + (name % 64) * 2 ^ 37
    + (name / 64) * 2 ^ 43

end Sys2Proof.Machine
end

