-- ==== Sys2Proof/Machine/MapLog.lean ====
section
/-! DEFINITION. The map log (R333 to R336, R611): log items and their bytes, entering a change, mirroring it to the Cloak, and
programming log rows. -/

namespace Sys2Proof.Machine

/-- Data bytes of a log block (R333). -/
def logBody : Nat := 4064

/-- A take state's code (R333). -/
def takeCode : TakeState → Nat
  | .open => 0
  | .sealing => 1
  | .sealed => 2
  | .deleted => 3

/-- The take state of a code (R333). -/
def takeOfCode : Nat → TakeState
  | 0 => .open
  | 1 => .sealing
  | 2 => .sealed
  | _ => .deleted

/-- A frame record with its extent and length lists (R300). -/
def frameRecord (frame : Nat) (f : Frame) : Bytes :=
  let nib (i : Nat) := f.lens.getD i 1 - 1
  let ext := f.extents.flatMap fun (a, n) => leBytes 5 a ++ leBytes 3 n
  let lens := (List.range (ceilDiv f.lens.length 2)).flatMap fun i =>
    leBytes 1 (nib (2 * i) + 16 * (if 2 * i + 1 < f.lens.length then nib (2 * i + 1) else 0))
  let h := leBytes 5 frame ++ leBytes 1 (b2n f.short) ++ leBytes 2 f.extents.length ++ leBytes 4 f.lens.length
    ++ leBytes 4 (f.lens.foldl (· + ·) 0) ++ leBytes 4 f.bytes ++ List.replicate 8 0
  h ++ leBytes 4 (crc32c (h ++ ext ++ lens)) ++ ext ++ lens

/-- The frame of a frame record (R300): its index and the frame. -/
def frameOf (b : Bytes) : Nat × Frame :=
  let ne := fieldLe b 6 2
  let nb := fieldLe b 8 4
  let lens := b.drop (32 + 8 * ne)
  (fieldLe b 0 5, {
    bytes := fieldLe b 16 4
    extents := (List.range ne).map fun i => (fieldLe b (32 + 8 * i) 5, fieldLe b (37 + 8 * i) 3)
    lens := (List.range nb).map fun i => bitsAt (fieldLe lens (i / 2) 1) (4 * (i % 2)) 3 + 1
    short := bitAt (fieldLe b 5 1) 0 })

/-- TYPE, VOL and KEY of the log block an item goes into, and the item's entry (R333, R469). -/
def LogItem.parts : LogItem → Nat × Nat × Nat × Bytes
  | .page vol slot p ws => (1, vol, p + slot * 2 ^ 48, ws.flatMap (leBytes 6))
  | .delta vol lba trim w =>
    (2, 0xFFFF, 0, leBytes 2 vol ++ leBytes 5 lba ++ leBytes 1 (b2n trim) ++ leBytes 6 w ++ [0, 0])
  | .share i loc refs => (3, 0xFFFF, 0, leBytes 4 i ++ leBytes 6 loc ++ leBytes 4 refs ++ [0, 0])
  | .segment top seg die blk ev q =>
    (4, 0xFFFF, 0, leBytes 2 top ++ leBytes 2 seg ++ leBytes 2 die ++ leBytes 2 blk ++ leBytes 1 ev ++ leBytes 4 q ++ [0, 0, 0])
  | .take vol t st frames rows segs =>
    (5, 0xFFFF, 0, withCrc (leBytes 2 vol ++ [0, 0] ++ leBytes 4 t ++ leBytes 1 (takeCode st) ++ [0, 0, 0] ++ leBytes 4 frames
      ++ leBytes 8 rows ++ leBytes 4 segs))
  | .frame vol t fr f => (6, vol, t, frameRecord fr f)
  | .valid top seg n q => (7, 0xFFFF, 0, leBytes 2 top ++ leBytes 2 seg ++ leBytes 4 n ++ leBytes 4 q ++ [0, 0, 0, 0])
  | .takeSegs vol t l => (8, vol, t, l.flatMap fun (m, r, n) => leBytes 8 (m + r * 2 ^ 16 + n * 2 ^ 32))
  | .snap _ rec => (9, 0xFFFF, 0, rec)

/-- Bytes of one entry of a type, none for a type whose block holds one item (R333). -/
def entryLen : Nat → Option Nat
  | 2 | 3 | 4 | 7 => some 16
  | 5 | 9 => some 32
  | _ => none

/-- What key an item is the newest version of (R336); a delta belongs to its map page. -/
def LogItem.key : LogItem → LogKey
  | .page vol slot p _ => .page vol slot p
  | .delta vol lba _ _ => .page vol 0 (lba / 677)
  | .share i _ _ => .share i
  | .segment top seg die _ ev _ => .segment top seg (if ev = 0 then die + 1 else 0)
  | .take vol t _ _ _ _ => .take vol t
  | .frame vol t fr _ => .frame vol t fr
  | .valid top seg _ _ => .valid top seg
  | .takeSegs vol t _ => .takeSegs vol t
  | .snap slot _ => .snap slot

/-- A log block header (R333). -/
def logHeader (ty count vol seqNo key contOf : Nat) (body : Bytes) : Bytes :=
  let h := leBytes 1 ty ++ leBytes 1 count ++ leBytes 2 vol ++ [0, 0, 0, 0] ++ leBytes 8 seqNo ++ leBytes 8 key ++ leBytes 4 contOf
  h ++ leBytes 4 (crc32c (h ++ body))

/-- Stands for the place of an item whose log segment this head does not know, as after a replay or a takeover: it counts as lying in
every segment (DESIGN CHOICE, log entry 17). -/
def placeUnknown : Nat × Nat := (0xFFFF, 0)

/-- The map log of a head (R611). -/
def State.mapLog (s : State) (h : Nat) : MapLog := if h = 0 then s.ftl.log0 else s.ftl.log1

/-- Change the map log of a head. -/
def onLog (h : Nat) (f : MapLog → MapLog) (s : State) : State :=
  s.onFtl fun t => if h = 0 then { t with log0 := f t.log0 } else { t with log1 := f t.log1 }

/-- Log blocks an item takes (R333): more than one for a frame or a segment list longer than a body. -/
def LogItem.blocks (i : LogItem) : Nat := max 1 (ceilDiv i.parts.2.2.2.length logBody)

/-- The LOG_SEQ an item enters under: the open log block of its TYPE while it has room, else the next (R333). -/
def MapLog.seqFor (l : MapLog) (i : LogItem) : Nat × Nat :=
  match l.openRow.getLast?, entryLen i.parts.1 with
  | some (q, j, _), some n =>
    if j.parts.1 = i.parts.1 ∧ (l.openRow.countP fun e => e.1 == q) < (if i.parts.1 = 5 then 126 else logBody / n) then (q, l.nextSeq)
    else (l.nextSeq, l.nextSeq + 1)
  | _, _ => (l.nextSeq, l.nextSeq + i.blocks)

/-- COUNT of a log block that carries part of one item: the entries of a segment list, saturating, else the one item (R333). -/
def partCount (ty : Nat) (part : Bytes) : Nat := if ty = 8 then min 255 (part.length / 8) else 1

/-- The log blocks of one item that fills blocks of its own: header and body part, with the LOG_SEQ of each; parts behind the first
name it in CONT_OF (R333). -/
def itemBlocks (q ty vol key : Nat) (e : Bytes) : List (Nat × Bytes × Bytes) :=
  (chunks logBody (e.length + 1) (if e = [] then [0] else e)).zipIdx.map fun (c, k) =>
    (q + k, logHeader ty (partCount ty c) vol (q + k) key (if k = 0 then 0 else q) (padTo logBody c), c)

/-- The log blocks of a row's items, each 4,096 bytes with its LOG_SEQ (R333); `fuel` bounds them. -/
def logBlocks : Nat → List (Nat × LogItem) → List (Nat × Bytes)
  | 0, _ => []
  | _ + 1, [] => []
  | fuel + 1, (q, i) :: rest =>
    let (ty, vol, key, e) := i.parts
    match entryLen ty with
    | some _ =>
      let same := ((q, i) :: rest).filter fun x => x.1 == q
      let body := padTo logBody (same.flatMap fun x => x.2.parts.2.2.2)
      (q, logHeader ty same.length vol q key 0 body ++ body) :: logBlocks fuel (rest.filter fun x => x.1 != q)
    | none =>
      ((itemBlocks q ty vol key e).map fun (n, h, c) => (n, h ++ padTo logBody c)) ++ logBlocks fuel rest

/-- The map bands of a head, in descriptor order. -/
def State.mapBands (s : State) (h : Nat) : List Nat :=
  (List.range s.units.length).filter fun u => ((s.unit u).getD {}).role == .mapBand && ((s.unit u).getD {}).head == h

/-- Whether a band takes programs: neither frozen nor FAILED (R322, R327). -/
def State.takesPrograms (s : State) (u : Nat) : Bool := !s.ftl.frozen.contains u && s.healthOf u != 3

/-- The map bands of a head that take the log now (R327). -/
def State.logBands (s : State) (h : Nat) : List Nat :=
  (s.mapBands h).filter fun u => s.takesPrograms u && (s.top u).formatted
    && ((s.top u).openSeg.isSome || (s.ftl.segs.any fun e => e.1.1 == u && e.2.state == .free && e.2.erasing.isEmpty))

/-- Log blocks a row of a head's map bands holds (R333). -/
def State.rowBlocks (s : State) (h : Nat) : Nat :=
  match s.logBands h with
  | b :: _ => 16 * s.rowStrips b
  | [] => 16

/-- A strip of 16 blocks of 4 KiB as a data strip (R333, R374). -/
def blockStrip (kind : Nat) (bs : List Bytes) : PageGroup :=
  ⟨kind, stripBody ((chunks 512 129 (padTo 65536 bs.flatten)).map fun x => (x, none)), false⟩

/-- A volume ID with the generation its policy gives it, as the log's VOL fields carry it (R333). -/
def State.volWord (s : State) (vol : Nat) : Nat :=
  match s.cfg.img with
  | some i => ((i.vols.find? fun v => v.vol % 2 ^ 12 == vol % 2 ^ 12).map (·.vol)).getD vol
  | none => vol

/-- An item with the generations of its volumes, as it is written (R333). -/
def State.written (s : State) : LogItem → LogItem
  | .page vol slot p ws => .page (s.volWord vol) slot p ws
  | .delta vol lba t w => .delta (s.volWord vol) lba t w
  | .take vol t st f r g => .take (s.volWord vol) t st f r g
  | .frame vol t fr f => .frame (s.volWord vol) t fr f
  | .takeSegs vol t l => .takeSegs (s.volWord vol) t l
  | .share i l r => .share i l r
  | .segment t m d b e q => .segment t m d b e q
  | .valid t m n q => .valid t m n q
  | .snap n r => .snap n r

/-- Enter a change into the log of a head (R334) and, in the Paired state and during a fill, send its entry to the Cloak (R439, R451).
It answers with the LOG_SEQ that carries the change. -/
def logItem (h : Nat) (i : LogItem) (s : State) : Nat × State :=
  let l := s.mapLog h
  let (q, next) := l.seqFor i
  let (ty, vol, key, e) := (s.written i).parts
  let s1 := onLog h (fun l => { l with nextSeq := next, openRow := l.openRow ++ [(q, i, s.time)] }) s
  let msgs := match entryLen ty with
    | some _ => [(q, logHeader ty 1 vol q key 0 e, e)]
    | none => itemBlocks q ty vol key e
  (q, mirrorMap (fun s => msgs.foldl (fun s (n, hd, c) => plSend .map 0x20 (hd ++ c) (.mapUpTo n) s) s) s1)

/-- Enter several changes. -/
def logItems (h : Nat) (is : List LogItem) (s : State) : State := is.foldl (fun s i => (logItem h i s).2) s

/-- The LOG_SEQ under which the last change so far stands. -/
def State.lastLog (s : State) (h : Nat) : Nat := (s.mapLog h).nextSeq - 1

/-- FTL_MAP_SEQ: whether every change up to a LOG_SEQ is durable (R334). -/
def State.logDurable (s : State) (h q : Nat) : Bool :=
  let l := s.mapLog h
  l.openRow.all (fun e => decide (q < e.1)) && l.rows.all fun r => r.done || decide (q < r.first)

end Sys2Proof.Machine
end

