-- ==== Sys2Proof/Machine/Space.lean ====
section
/-! DEFINITION. Segments, spares, retirement and freezing (R324 to R328, R339, R344, R346), free space (R307, R338), map words,
shared entries and preserved pages (R329 to R332, R464), and issuing log rows (R334). -/

namespace Sys2Proof.Machine

/-! ## Units and their segments -/

/-- The unit without a parent above a unit. -/
def topAbove (us : List UnitDesc) : Nat → Nat → Nat
  | 0, u => u
  | fuel + 1, u => match (us[u]?).bind (·.parent) with
    | some p => topAbove us fuel p
    | none => u

/-- The top unit, map band, journal band or spare that a die belongs to. -/
def State.topOf (s : State) (d : Nat) : Nat := topAbove s.units maxDepth d

/-- The dies under a unit with the spare in the place of a member it stands in for. -/
def diesWith (us : List UnitDesc) (mem : Nat → Nat → Nat) : Nat → Nat → List Nat
  | 0, _ => []
  | fuel + 1, u => match us[u]? with
    | none => []
    | some d => match d.kind with
      | .die => [u]
      | .span => (List.range d.size).flatMap fun i => diesWith us mem fuel (mem u i)
      | .band => d.members

/-- The dies that take a unit's programs now (R379). -/
def State.liveDies (s : State) (top : Nat) : List Nat := diesWith s.units (s.memW 0 0) maxDepth top

/-- The head that owns a unit. -/
def State.ownerOf (s : State) (u : Nat) : Nat := ((s.unit u).getD {}).head

/-- The segments of a unit in service (R324). -/
def State.segsOf (s : State) (top : Nat) : List (Nat × Seg9) :=
  (s.ftl.segs.filter fun e => e.1.1 == top && e.2.state != .dismantled).map fun e => (e.1.2, e.2)

/-- The free segments of a unit (R339). -/
def State.freeSegs (s : State) (top : Nat) : List Nat :=
  ((s.segsOf top).filter fun e => e.2.state == .free && e.2.erasing.isEmpty).map (·.1)

/-- The free level of a top unit, in percent (R339). -/
def State.freeLevel (s : State) (top : Nat) : Nat := (s.freeSegs top).length * 100 / max 1 (s.segsOf top).length

/-- The fewest segments a unit may have (R324 step 5). -/
def State.floorSegs (s : State) (top : Nat) : Nat := (s.geometry top).blocks - s.rsvSegs top + 1

/-- The AL-PL score of a free segment (R528), in thousandths of its sum over the unit's dies; the dies being as many for
every segment of the unit, the order is that of the means. -/
def State.plScore (s : State) (top seg : Nat) : Nat :=
  (s.diesOf top).foldl (fun acc d =>
    match s.blockOf (s.dieName d) seg with
    | some b => let e := s.blk (s.dieName d) b
      acc + 1000 * e.pe / max 1 (s.param P.peLimit) + s.param P.plWTime * e.cls
    | none => acc) 0

/-- The element of a list with the least measure, the first of equals. -/
def leastBy (f : Nat → Nat) : List Nat → Option Nat
  | [] => none
  | x :: xs => match leastBy f xs with
    | some y => if f x ≤ f y then some x else some y
    | none => some x

/-- Put an element into a list ordered by a measure, after its equals. -/
def insertBy (f : Nat → Nat) (x : Nat) : List Nat → List Nat
  | [] => [x]
  | y :: ys => if f x < f y then x :: y :: ys else y :: insertBy f x ys

/-- A list in rising order of a measure, equals in the order they had. -/
def sortOn (f : Nat → Nat) (l : List Nat) : List Nat := l.foldl (fun a x => insertBy f x a) []

/-- The element of a list with the greatest measure, the first of equals. -/
def mostBy (f : Nat → Nat) : List Nat → Option Nat
  | [] => none
  | x :: xs => match mostBy f xs with
    | some y => if f y ≤ f x then some x else some y
    | none => some x

/-! ## Spares -/

/-- The spares of a die, in block order. -/
def State.spares (s : State) (name : Nat) : List Nat :=
  (s.ftl.blks.filter fun e => e.1.1 == name && e.2.spare && e.2.state == .ecru).map (·.1.2)

/-- SPARE_LOW when a die's spares fall to SPARE_LOW_MARK (R326). -/
def spareLow (name : Nat) (s : State) : State :=
  let n := (s.spares name).length
  let st := tabGetD name {} s.ftl.dies
  let low := decide (n ≤ s.param P.spareLowMark)
  let s1 := s.onFtl fun f => { f with dies := tabPut name { st with lowRaised := low } f.dies }
  if low ∧ ¬ st.lowRaised then note 0x0903 (name + n * 2 ^ 16) s1 else s1

/-- Freeze a band (R327). -/
def freezeBand (u : Nat) (s : State) : State :=
  if s.ftl.frozen.contains u then s
  else raise 0x0901 u .all (s.onFtl fun f => { f with frozen := f.frozen ++ [u] })

/-- Dismantle a free segment of a unit: every die under it gains its block as a spare (R326 step 2). -/
def dismantle (top m : Nat) (s : State) : State :=
  let s1 := (s.diesOf top).foldl (fun s d =>
    match s.blockOf (s.dieName d) m with
    | some b => onBlk (s.dieName d) b (fun e => { e with spare := true }) s
    | none => s) s
  note 0x0904 (top + m * 2 ^ 13)
    (logItem (s.ownerOf top) (.segment top m 0 0 4 (s.seg top m).seq) (onSeg top m (fun g => { g with state := .dismantled }) s1)).2

/-- How a spare is chosen: by the lowest or the highest erase count (R344, R345). -/
inductive Pick where
  | lowest
  | highest
deriving DecidableEq, Repr

/-- A spare of a die by a rule. -/
def State.pickSpare (s : State) (rule : Pick) (name : Nat) : Option Nat :=
  match rule with
  | .lowest => leastBy (fun b => (s.blk name b).pe) (s.spares name)
  | .highest => mostBy (fun b => (s.blk name b).pe) (s.spares name)

/-- The mean erase count of a segment's blocks, as its sum over the dies. -/
def State.segPe (s : State) (top m : Nat) : Nat :=
  (s.diesOf top).foldl (fun a d => a + (match s.blockOf (s.dieName d) m with
    | some b => (s.blk (s.dieName d) b).pe
    | none => 0)) 0

/-- The band a die belongs to. -/
def State.bandOf (s : State) (d : Nat) : Nat := (((s.unit d).getD {}).parent).getD d

/-- Obtain a replacement block for a die (R326): a spare by the rule, else one gained by dismantling, else the die is out of
spares and its band freezes. -/
def takeSpare (rule : Pick) (d : Nat) (s : State) : Option Nat × State :=
  let name := s.dieName d
  let take (b : Nat) (s : State) : Option Nat × State := (some b, spareLow name (onBlk name b (fun e => { e with spare := false }) s))
  match s.pickSpare rule name with
  | some b => take b s
  | none =>
    let top := s.topOf d
    let victim := if s.floorSegs top < (s.segsOf top).length then leastBy (s.segPe top) (s.freeSegs top) else none
    match victim with
    | none => (none, freezeBand (s.bandOf d) s)
    | some m =>
      let s1 := dismantle top m s
      match s1.pickSpare rule name with
      | some b => take b s1
      | none => (none, freezeBand (s.bandOf d) s1)

/-! ## Dies failing -/

/-- The blocks of a die that are retired. -/
def State.retiredOf (s : State) (name : Nat) : Nat := s.ftl.blks.countP fun e => e.1.1 == name && e.2.state == .retired

/-- A die unit becomes failed (R328): cause 0 bridge report, 1 retirement limit, 2 no bad-block list. -/
def failDie (name cause : Nat) (s : State) : State :=
  let st := tabGetD name {} s.ftl.dies
  if st.failed then s
  else
    recomputeHealth (raise 0x0906 (name + cause * 2 ^ 11) .all
      (s.onFtl fun f => { f with dies := tabPut name { st with failed := true } f.dies }))

/-- Retire a block for a cause (R346); too many retired blocks fail the die (R328). -/
def retireBlock (name b cause : Nat) (s : State) : State :=
  let s1 := note 0x0902 (name + b * 2 ^ 11 + cause * 2 ^ 24)
    ((onBlk name b (fun e => { e with state := .retired, cause := cause, moving := false }) s).onFtl fun f =>
      { f with retired := satInc f.retired })
  let blocks := match s.dieOf name with
    | some d => ((s.unit d).getD {}).blocks
    | none => 0
  if blocks * s.param P.dieRetireLimit < s1.retiredOf name * 100 then failDie name 1 s1 else s1

/-! ## Opening and freeing segments -/

/-- Bind a block to a segment of a die: the binding is logged (R324, R343). -/
def bindBlock (top m d b : Nat) (s : State) : State :=
  let name := s.dieName d
  (logItem (s.ownerOf top) (.segment top m name b 0 (s.seg top m).seq)
    (onBlk name b (fun e => { e with spare := false, seg := m }) s)).2

/-- The exchange of R344 on one die as a segment opens; a die without a block for the segment takes a replacement (R346,
cause 1). -/
def exchangeBlock (top m d : Nat) (s : State) : State :=
  let name := s.dieName d
  match s.blockOf name m with
  | none => match takeSpare .lowest d s with
    | (some b, s1) => bindBlock top m d b s1
    | (none, s1) => s1
  | some b => match s.pickSpare .lowest name with
    | some y =>
      if (s.blk name y).pe < (s.blk name b).pe then
        bindBlock top m d y (onBlk name b (fun e => { e with spare := true }) s)
      else s
    | none => s

/-- Open a segment: blocks exchanged and indigo, a new SEG_SEQ, the opening logged (R325, R339, R344). -/
def openSegment (top m : Nat) (gc : Bool) (take : Option (Nat × Nat)) (s : State) : State :=
  let dies := s.liveDies top
  let s1 := dies.foldl (fun s d => exchangeBlock top m d s) s
  let s2 := dies.foldl (fun s d =>
    match s.blockOf (s.dieName d) m with
    | some b => onBlk (s.dieName d) b (fun e => { e with state := .indigo, progTime := 0, progs := 0, hot := false }) s
    | none => s) s1
  let q := (s2.top top).nextSeq
  let s3 := onTop top (fun t => { t with nextSeq := q + 1 })
    (onSeg top m (fun g => { g with state := .open, seq := q, nextRow := 0, gc := gc, take := take, valid := 0 }) s2)
  let s4 := s3.onAdp fun a => { a with inst := tabUpdD (4, top) {} (fun l => { l with act := m }) a.inst }
  (logItem (s4.ownerOf top) (.segment top m 0 0 3 q) s4).2

/-- The free segment to open next: the lowest AL-PL score, ties to the lowest number (R339). -/
def State.nextFree (s : State) (top : Nat) : Option Nat := leastBy (s.plScore top) (s.freeSegs top)

/-- The program-time class of a block that becomes sable (R527); AL-PL frozen, it keeps its class. -/
def blockClass (d b : Nat) (s : State) : State :=
  let name := s.dieName d
  let e := s.blk name b
  let typ := tabGetD (name % 64) 0 (s.port (name / 64)).tprog * usTicks
  if e.hot ∨ e.progs = 0 ∨ typ = 0 ∨ getBit s.adp.freeze 4 then s
  else
    let mean := e.progTime / e.progs
    let cls := if mean * 100 < typ * 110 then 0 else if mean * 100 < typ * 125 then 1 else if mean * 100 < typ * 150 then 2 else 3
    onBlk name b (fun e => { e with cls := cls }) s

/-- A segment is full or closed: its blocks turn sable (R325) and its valid sectors enter the log (R333). -/
def closeSegment (top m : Nat) (s : State) : State :=
  let s1 := (s.liveDies top).foldl (fun s d =>
    match s.blockOf (s.dieName d) m with
    | some b => blockClass d b (onBlk (s.dieName d) b (fun e => if e.state = .indigo then { e with state := .sable } else e) s)
    | none => s) s
  let g := s1.seg top m
  (logItem (s.ownerOf top) (.valid top m g.valid g.seq) (onSeg top m (fun g => { g with state := .full }) s1)).2

/-- Log a segment trimmed and erase every block of it (R294, R325, R341); a block that cannot be erased now stays trimmed. -/
def trimSegment (top m : Nat) (s : State) : State :=
  let g := s.seg top m
  let s1 := (logItem (s.ownerOf top) (.segment top m 0 0 1 g.seq) s).2
  let go := (s.liveDies top).foldl (fun (acc : List Nat × State) d =>
    let name := acc.2.dieName d
    match acc.2.blockOf name m with
    | none => acc
    | some b =>
      let s' := onBlk name b (fun e => { e with trimmed := true }) acc.2
      match eraseBlock name b (some (top, m)) s' with
      | (true, s'') => (acc.1 ++ [name], s'')
      | (false, s'') => (acc.1, s'')) ([], s1)
  onSeg top m (fun g => { g with state := .trimmed, erasing := go.1, take := none, rowsOf := [] }) go.2

/-- A segment whose every erase is done is free (R339, R341). -/
def freeSegment (top m : Nat) (s : State) : State :=
  (logItem (s.ownerOf top) (.segment top m 0 0 2 (s.seg top m).seq)
    (onSeg top m (fun g => { g with state := .free, nextRow := 0, valid := 0, gc := false }) s)).2

/-! ## Capacity -/

/-- Valid sectors of a unit. -/
def State.validOf (s : State) (top : Nat) : Nat := (s.segsOf top).foldl (fun a e => a + e.2.valid) 0

/-- Sectors a WRITE may still reserve in a block top unit: A of R338. -/
def State.roomOf (s : State) (top : Nat) : Nat :=
  128 * (s.nominalBlocks top / 16) - s.validOf top - (s.top top).reserved.foldl (fun a e => a + e.2) 0

/-- Unprogrammed strips of open segments and part segments of a unit. -/
def State.openStrips (s : State) (top : Nat) : Nat :=
  (s.segsOf top).foldl (fun a e => if e.2.state = .open ∨ e.2.state = .part
    then a + (s.pagesOf top - e.2.nextRow) * s.rowStrips top else a) 0

/-- Free capacity of a unit in data strips (R307, R339). -/
def State.freeStrips (s : State) (u : Nat) : Nat :=
  match s.unit u with
  | none => 0
  | some d =>
    let perSeg := s.pagesOf u * s.rowStrips u
    let own := match d.kind, d.role with
      | .die, _ =>
        let name := d.dieName
        (s.ftl.blks.filter fun e => e.1.1 == name && s.blkBound name e.1.2 e.2).foldl (fun a e =>
          let g := s.seg (s.topOf u) e.2.seg
          if g.state = .free ∨ g.state = .open ∨ g.state = .part then a + (s.pagesOf u - g.nextRow) else a) 0
      | _, .top =>
        if d.stream then (s.freeSegs u).length * perSeg + s.openStrips u
        else ((s.freeSegs u).length - 1) * perSeg + s.openStrips u
          + (s.segsOf u).foldl (fun a e => if e.2.state = .full then a + (perSeg * 128 - e.2.valid) / 128 else a) 0
      | _, _ => ((s.freeSegs u).length - 1) * perSeg + s.openStrips u
    let limited := match d.kind with
      | .span =>
        let live := d.members.filter fun m => decide (0 ≤ s.margin m)
        let frees := live.map fun m => if s.ftl.frozen.contains m then 0 else
          ((s.freeSegs u).length * s.pagesOf u + s.openStrips u / max 1 (s.rowStrips u)) * s.rowStrips m
        match frees with
        | [] => 0
        | f :: fs => min own ((d.width - 2) * fs.foldl min f)
      | _ => own
    if s.ftl.frozen.contains u then 0 else limited

/-- Stranded tree rows of a stream top unit, in data strips (R301, R307). -/
def State.strandedStrips (s : State) (u : Nat) : Nat :=
  if ((s.unit u).getD {}).stream then
    (s.segsOf u).foldl (fun a e =>
      let held := e.2.rowsOf.foldl (fun n r => n + r.2.2) 0
      if e.2.state = .full ∨ e.2.state = .part ∨ e.2.state = .open then a + (e.2.nextRow - held) * s.rowStrips u else a) 0
  else 0

/-- UNIT_FREE_LOW and UNIT_STRANDED at the crossing of their levels (R307). -/
def spaceAlarms (u : Nat) (s : State) : State :=
  let nom := s.nominalBlocks u / 16
  let low := decide (s.freeStrips u * 100 < nom * s.param P.unitFreeAlarm)
  let strand := decide (nom * s.param P.unitStrandAlarm < s.strandedStrips u * 100)
  let t := s.top u
  let s1 := if low ∧ ¬ t.freeRaised then note 0x0982 u s else s
  let s2 := if strand ∧ ¬ t.strandRaised then note 0x0983 u s1 else s1
  onTop u (fun t => { t with freeRaised := low, strandRaised := strand }) s2

/-! ## Map words and shared entries -/

/-- The volume policy of a volume ID. -/
def State.vol (s : State) (id : Nat) : Option VolPolicy :=
  match s.cfg.img with
  | some i => i.vols.find? fun v => v.vol % 2 ^ 12 == id % 2 ^ 12
  | none => none

/-- The map word of a logical block, 0 unmapped (R329, R332). -/
def State.mapWord (s : State) (vol lba : Nat) : Nat := tabGetD (vol, lba) 0 s.ftl.map

/-- KIND of a map word (R329). -/
def wordKind (w : Nat) : Nat := w % 4

/-- The direct word a map word leads to (R330). -/
def State.direct (s : State) (w : Nat) : Option Nat :=
  if wordKind w = 2 then some w
  else if wordKind w = 1 then (tabGet (bitsAt w 2 32) s.ftl.shares).map (·.loc)
  else none

/-- Change the valid-sector count of the segment a direct word names (R341). -/
def addValid (w : Nat) (gain : Bool) (s : State) : State :=
  match s.dieOf (bitsAt w 43 5 * 64 + bitsAt w 37 6) with
  | none => s
  | some d => onSeg (s.topOf d) (bitsAt w 24 13)
      (fun g => { g with valid := if gain then g.valid + bitsAt w 2 3 + 1 else g.valid - (bitsAt w 2 3 + 1) }) s

/-- Clear the dedup index entries that name a location, before its media form counts invalid (R253, R331). -/
def fprClear (loc : Nat) (s : State) : State :=
  s.onFpr fun f => { f with index := f.index.map fun b => (b.1, b.2.filter fun e => e.loc ≠ loc) }

/-- Keep LOC current for a form that moves (R253, R341). -/
def fprMove (a b : Nat) (s : State) : State :=
  s.onFpr fun f => { f with index := f.index.map fun x => (x.1, x.2.map fun e => if e.loc = a then { e with loc := b } else e) }

/-- The head whose log carries a volume's changes (R611). -/
def State.volOwner (s : State) (vol : Nat) : Nat :=
  match s.vol vol with
  | some v => s.ownerOf v.topUnit
  | none => s.head

/-- Take one reference from a shared entry; the last one frees the entry and its media form (R331). -/
def shareDrop (h i : Nat) (s : State) : State :=
  match tabGet i s.ftl.shares with
  | none => s
  | some e =>
    if e.refs ≤ 1 then
      (logItem h (.share i e.loc 0) (addValid e.loc false (fprClear e.loc
        (s.onFtl fun f => { f with shares := tabDel i f.shares })))).2
    else (logItem h (.share i e.loc (e.refs - 1)) (s.onFtl fun f =>
      { f with shares := tabPut i { e with refs := e.refs - 1 } f.shares })).2

/-- Add one reference to a shared entry (R331). -/
def shareAdd (h i : Nat) (s : State) : State :=
  match tabGet i s.ftl.shares with
  | none => s
  | some e => (logItem h (.share i e.loc (e.refs + 1)) (s.onFtl fun f =>
      { f with shares := tabPut i { e with refs := e.refs + 1 } f.shares })).2

/-- Entries the shared table holds (R331). -/
def State.shareCap (s : State) : Nat := s.param P.shareTableSize * 2 ^ 20 / 16

/-- Make a shared entry for a direct location with some references, if the table has room (R331). -/
def shareNew (h loc refs : Nat) (s : State) : Option (Nat × State) :=
  if s.shareCap ≤ s.ftl.shares.length then none
  else
    -- the heads of an array take different entries, so that either can hold the other's table (DESIGN CHOICE, log entry 20)
    match ((List.range (s.ftl.shares.length + 1)).map fun i => 2 * i + h % 2).find? fun i => !tabHas i s.ftl.shares with
    | none => none
    | some i => some (i, (logItem h (.share i loc refs) (s.onFtl fun f => { f with shares := tabPut i ⟨loc, refs⟩ f.shares })).2)

/-- The shared map word of an entry. -/
def sharedWord (i : Nat) : Nat := 1 + i * 4

/-- Put a map word in DRAM; 0 removes it. -/
def putWord (vol lba w : Nat) (s : State) : State :=
  s.onFtl fun f => { f with map := if w = 0 then tabDel (vol, lba) f.map else tabPut (vol, lba) w f.map }

/-- Logical blocks of a map page (R332). -/
def pageWords : Nat := 677

/-- Preserve map page `p` of a volume for the snapshot in SLOT `slot` (R464): direct words turn shared in both copies, shared
words gain a reference, and the copy enters the log. -/
def preservePage (vol p slot sseq : Nat) (s : State) : State :=
  let h := s.volOwner vol
  let s1 := (List.range pageWords).foldl (fun s k =>
    let lba := p * pageWords + k
    let w := s.mapWord vol lba
    if wordKind w = 2 then match shareNew h w 2 s with
      | some (i, s') => (logItem h (.delta vol lba false (sharedWord i)) (putWord vol lba (sharedWord i) s')).2
      | none => s
    else if wordKind w = 1 then shareAdd h (bitsAt w 2 32) s
    else s) s
  let ws := (List.range pageWords).map fun k => s1.mapWord vol (p * pageWords + k)
  (logItem h (.page vol slot p ws) (s1.onRpl fun r =>
    { r with pages := tabPut (slot, p) ws r.pages, pseq := tabPut (vol, p) sseq r.pseq })).2

/-- The newest live block view, snapshot or replication point, that a change accepted under number `acc` must not touch: SLOT and
SSEQ (R463, R464). -/
def State.newestView (s : State) (vol acc : Nat) : Option (Nat × Nat) :=
  (s.rpl.snaps.filter fun e => e.2.vol % 2 ^ 12 == vol && !e.2.releasing && !e.2.hold && decide (e.2.acc < acc)).foldl (fun a e =>
    match a with
    | some (sl, q) => if q < e.2.sseq then some (e.1, e.2.sseq) else some (sl, q)
    | none => some (e.1, e.2.sseq)) none

/-- The view that a change of a page under number `acc` must preserve first, if any (R464). -/
def State.needsView (s : State) (vol page acc : Nat) : Option (Nat × Nat) :=
  match s.newestView vol acc with
  | some (slot, q) => if tabGetD (vol, page) 0 s.rpl.pseq < q then some (slot, q) else none
  | none => none

/-- Preserved pages the snapshot page store holds (R464, R494). -/
def State.pageCap (s : State) : Nat := s.param P.snapPageSize * 256

/-- Whether the shared table and the page store have room to preserve a page; else which lacks it: 0 the table, 1 the store
(R466). -/
def State.noViewRoom (s : State) (vol page : Nat) : Option Nat :=
  let direct := s.ftl.map.countP fun e => e.1.1 == vol && e.1.2 / pageWords == page && wordKind e.2 == 2
  if s.shareCap < s.ftl.shares.length + direct then some 0
  else if s.pageCap ≤ s.rpl.pages.length then some 1 else none

/-- Preserve the page of a logical block for the newest view that a change under number `acc` must not touch (R464). -/
def preserve (vol lba acc : Nat) (s : State) : State :=
  match s.needsView vol (lba / pageWords) acc with
  | some (slot, q) => preservePage vol (lba / pageWords) slot q s
  | none => s

/-- Let go of what a map word names (R331, R341). -/
def dropWord (h w : Nat) (s : State) : State :=
  if wordKind w = 2 then addValid w false (fprClear w s)
  else if wordKind w = 1 then shareDrop h (bitsAt w 2 32) s
  else s

/-- Change the map word of a logical block: the page preserved first, the old word let go, the change in the log. It answers
with its LOG_SEQ (R331, R333, R464). A direct word's sectors become valid; a shared word's reference is the caller's. -/
def setWord (vol lba acc w : Nat) (s : State) : Nat × State :=
  let h := s.volOwner vol
  let s1 := preserve vol lba acc s
  let old := s1.mapWord vol lba
  let s2 := putWord vol lba w (if old = w ∧ wordKind w = 2 then s1 else dropWord h old s1)
  let s3 := if wordKind w = 2 ∧ old ≠ w then addValid w true s2 else s2
  logItem h (.delta vol lba (w == 0) w) s3

/-! ## Log rows -/

/-- The segment of a map band or journal band to program next, opened if none is open. -/
def logSegment (u : Nat) (s : State) : Option Nat × State :=
  match (s.top u).openSeg with
  | some m => (some m, s)
  | none => match s.nextFree u with
    | none => (none, s)
    | some m => (some m, onTop u (fun t => { t with openSeg := some m }) (openSegment u m false none s))

/-- One row of a segment is issued: the next row is one up, and after the last the segment closes. -/
def rowTaken (top m : Nat) (s : State) : State :=
  let s1 := onSeg top m (fun g => { g with nextRow := g.nextRow + 1 }) s
  if s.pagesOf top ≤ (s1.seg top m).nextRow then
    onTop top (fun t =>
      { t with
        openSeg := if t.openSeg = some m then none else t.openSeg
        gcSeg := if t.gcSeg = some m then none else t.gcSeg }) (closeSegment top m s1)
  else s1

/-- Program one row of log blocks on a map band: the blocks in strips of 16, the rest PGKIND 7 padding (R334). -/
def mapRow (h u : Nat) (items : List (Nat × LogItem × Word64)) (s : State) : State :=
  match logSegment u s with
  | (none, s1) => s1
  | (some m, s1) =>
    let row := (s1.seg u m).nextRow
    let blocks := logBlocks (items.length + 1) (items.map fun e => (e.1, s.written e.2.1))
    let strips := (chunks 16 (blocks.length + 1) (blocks.map (·.2))).map (blockStrip 5)
    let full := strips ++ List.replicate (s.rowStrips u - strips.length) ⟨7, padBody, false⟩
    let first := (blocks.map (·.1)).foldl min ((blocks.map (·.1)).headD 0)
    let last := (blocks.map (·.1)).foldl max 0
    let since := match items with
      | e :: _ => e.2.2
      | [] => s.time
    let (id, s2) := s1.newId
    let s3 := onLog h (fun l =>
      { l with
        rows := l.rows ++ [{ id := id, first := first, last := last, since := since }]
        place := items.foldl (fun t e => tabPut e.2.1.key (u, m) t) l.place }) s2
    rowTaken u m (issueRow { id := id, kind := .mapLog, top := u, seg := m, row := row, left := [], upTo := last }
      (s3.rowPages u m row full) s3)

/-- Close the open log row of a head and program it, on the map band in turn (R333, R334); `fuel` bounds the rows. Items beyond
what one row holds go into the next. -/
def flushLog (h : Nat) : Nat → State → State
  | 0, s => s
  | fuel + 1, s =>
    let l := s.mapLog h
    let bands := s.logBands h
    match l.openRow, bands[l.turn % max 1 bands.length]? with
    | _ :: _, some u =>
      let cap := 16 * s.rowStrips u
      let base := (l.openRow.map (·.1)).headD 0
      let now := l.openRow.filter fun e => decide (e.1 + e.2.1.blocks ≤ base + max cap (match l.openRow with
        | x :: _ => x.2.1.blocks
        | [] => cap))
      let later := l.openRow.filter fun e => !now.contains e
      flushLog h fuel (mapRow h u now (onLog h (fun l => { l with openRow := later, turn := l.turn + 1 }) s))
    | _, _ => s

/-- Force a head's open log row (R334). -/
def forceLog (h : Nat) (s : State) : State := flushLog h ((s.mapLog h).openRow.length) s

/-- Program log rows that are full (R333). -/
def fullLog (h : Nat) (s : State) : State :=
  let l := s.mapLog h
  match l.openRow with
  | e :: _ => if s.rowBlocks h ≤ l.nextSeq - e.1 then forceLog h s else s
  | [] => s

/-- FTL_MAP_FILL of a head: the share of its map-band segments in use, in percent (R336). -/
def State.mapFill (s : State) (h : Nat) : Nat :=
  let all := (s.mapBands h).flatMap fun u => s.segsOf u
  (all.filter fun e => e.2.state != .free).length * 100 / max 1 all.length

/-- MAP_LOG_FULL above 90 %, once for each crossing (R336). -/
def mapFullAlarm (s : State) : State :=
  let f := s.mapFill s.head
  let s1 := if 90 < f ∧ ¬ s.ftl.fullRaised then note 0x0908 f s else s
  s1.onFtl fun t => { t with fullRaised := decide (90 < f) }

end Sys2Proof.Machine
end

