-- ==== Sys2Proof/Machine/Journal.lean ====
section
/-! DEFINITION. The stripe journal: stripe records and span entries, their commit in each pairing state, and journal blocks on
the homes (R371 to R376, R395, R611). -/

namespace Sys2Proof.Machine

/-- A location's 6 bytes (R371). -/
def Loc.bytes (l : Loc) : Bytes := leBytes 6 (l.port + l.die * 2 ^ 5 + l.seg * 2 ^ 11 + l.pg * 2 ^ 24)

/-- A location from its 6 bytes (R371). -/
def locOf (n : Nat) : Loc := { port := bitsAt n 0 5, die := bitsAt n 5 6, seg := bitsAt n 11 13, pg := bitsAt n 24 12 }

/-- A record kind's code (R371). -/
def recCode : RecKind → Nat
  | .intent => 1
  | .committed => 2
  | .retired => 3

/-- A stripe record's 64 bytes (R371). -/
def StripeRec.bytes (r : StripeRec) (top stripe : Nat) : Bytes :=
  withCrc (leBytes 1 (recCode r.kind) ++ leBytes 1 (b2n r.complete + 2 * b2n r.closed + 4 * b2n r.bandTop) ++ leBytes 2 top
    ++ leBytes 4 r.row ++ leBytes 4 stripe ++ leBytes 2 r.version ++ leBytes 1 r.covered ++ leBytes 1 r.prior ++ leBytes 8 r.recSeq
    ++ r.p.bytes ++ r.q.bytes ++ r.priorP.bytes ++ r.priorQ.bytes ++ leBytes 4 r.opened ++ List.replicate 8 0)

/-- A stripe record from its bytes: top unit, stripe, record (R371). The segment is the row's. -/
def stripeRecOf (b : Bytes) (pages : Nat → Nat) : Nat × Nat × StripeRec :=
  let f := fieldLe b 1 1
  let top := fieldLe b 2 2
  (top, fieldLe b 8 4, {
    kind := match fieldLe b 0 1 with
      | 1 => .intent
      | 2 => .committed
      | _ => .retired
    complete := bitAt f 0, closed := bitAt f 1, bandTop := bitAt f 2
    row := fieldLe b 4 4, seg := fieldLe b 4 4 / max 1 (pages top), version := fieldLe b 12 2, covered := fieldLe b 14 1
    prior := fieldLe b 15 1, recSeq := fieldLe b 16 8, p := locOf (fieldLe b 24 6), q := locOf (fieldLe b 30 6)
    priorP := locOf (fieldLe b 36 6), priorQ := locOf (fieldLe b 42 6), opened := fieldLe b 48 4 })

/-- A span entry's 64 bytes (R375). -/
def SpanEnt.bytes (e : SpanEnt) (span pos : Nat) : Bytes :=
  withCrc ([0x10] ++ leBytes 1 (if e.complete then 2 else 1) ++ leBytes 2 span ++ leBytes 1 pos ++ [0] ++ leBytes 2 e.spare
    ++ leBytes 4 e.rowsDone ++ leBytes 4 e.rowsTotal ++ leBytes 8 e.recSeq ++ List.replicate 36 0)

/-- A span entry from its bytes: span, POS, entry (R375). -/
def spanEntOf (b : Bytes) : Nat × Nat × SpanEnt :=
  (fieldLe b 2 2, fieldLe b 4 1, { complete := fieldLe b 1 1 == 2, spare := fieldLe b 6 2, rowsDone := fieldLe b 8 4
                                   rowsTotal := fieldLe b 12 4, recSeq := fieldLe b 16 8 })

/-- The journal homes of a head as its image names them (R373). -/
def State.homesOf (s : State) (h : Nat) : List Nat :=
  [s.paramOf h P.jnlHome0, s.paramOf h P.jnlHome1, s.paramOf h P.jnlHome2]

/-- The usable homes of a head: not lost, frozen or out (R373, R376). -/
def State.homesUsable (s : State) (h : Nat) : List Nat :=
  (s.homesOf h).filter fun u => !(s.jnl.homesOut.any fun e => e.1 == u) && s.takesPrograms u

/-- The longest commit, in ns (R399). -/
def commitTime (since : Word64) (s : State) : State :=
  s.onJnl fun j => { j with commitMax := word (max j.commitMax.toNat (satN 32 (s.since since * 20))) }

/-- Whether the commit of an entry is still open. -/
def State.jnlOpen (s : State) (recSeq : Nat) : Bool := s.jnl.waiting.any fun e => e.recSeq == recSeq

/-- An entry is committed (R373): in the Paired state it then waits to be spilled to every home. -/
def jnlCommitted (recSeq : Nat) (s : State) : State :=
  match s.jnl.waiting.find? fun e => e.recSeq == recSeq with
  | none => s
  | some e =>
    commitTime e.since (s.onJnl fun j =>
      { j with
        waiting := j.waiting.filter fun x => x.recSeq ≠ recSeq
        toSpill := if e.intent ∨ s.prt.pair ≠ .paired then j.toSpill else j.toSpill ++ [{ e with since := s.time }] })

/-- A journal block of up to 63 entries (R374). -/
def jnlBlock (h jseq : Nat) (entries : List Bytes) : Bytes :=
  let hd := [1] ++ leBytes 1 entries.length ++ leBytes 1 h ++ List.replicate 5 0 ++ leBytes 8 jseq ++ List.replicate 44 0
  let body := padTo 4032 entries.flatten
  hd ++ leBytes 4 (crc32c (hd ++ body)) ++ body

/-- Program entries in one row on every usable home of a head, the row closed with empty journal blocks (R374). -/
def spillRow (h : Nat) (entries : List JEntry) (s : State) : State :=
  (s.homesUsable h).foldl (fun s u =>
    match logSegment u s with
    | (none, s1) => s1
    | (some m, s1) =>
      let row := (s1.seg u m).nextRow
      let groups := chunks 63 (entries.length + 1) (entries.map (·.bytes))
      let blocks := groups.zipIdx.map fun (g, k) => jnlBlock h (s1.jnl.jseq + k) g
      let total := 16 * s1.rowStrips u
      let all := blocks ++ (List.range (total - blocks.length)).map fun k => jnlBlock h (s1.jnl.jseq + blocks.length + k) []
      let strips := (chunks 16 (total + 1) all).map (blockStrip 6)
      let (id, s2) := s1.newId
      let s3 := s2.onJnl fun j =>
        { j with
          spilling := j.spilling ++ [(id, u, entries.map (·.recSeq))]
          place := entries.map (fun e => (e.recSeq, u, m)) ++ j.place.filter fun x => !(x.2.1 == u && entries.any fun e => e.recSeq == x.1) }
      rowTaken u m (issueRow { id := id, kind := .journal, top := u, seg := m, row := row, left := []
                               upTo := s2.jnl.jseq + total - 1 } (s3.rowPages u m row strips) s3)) s

/-- Journal blocks one row of a head's homes takes. -/
def State.jnlRowBlocks (s : State) (h : Nat) : Nat := match s.homesUsable h with
  | u :: _ => 16 * s.rowStrips u
  | [] => 0

/-- Write entries to the homes of a head now, a row at a time (R373, R374); `fuel` bounds the rows. -/
def spillNow (h : Nat) : Nat → List JEntry → State → State
  | 0, _, s => s
  | _ + 1, [], s => s
  | fuel + 1, e :: es, s =>
    let cap := 63 * max 1 (s.jnlRowBlocks h)
    let s1 := spillRow h ((e :: es).take cap) s
    spillNow h fuel ((e :: es).drop cap) (s1.onJnl fun j => { j with jseq := j.jseq + s.jnlRowBlocks h })

/-- Start the commit of an entry that a top unit of head `h` needs (R373): to the partner in the Paired state; onto the homes
otherwise. An INTENT stands once it is in DRAM, and is confirmed by the partner in the Paired state. -/
def jnlCommit (h : Nat) (e : JEntry) (s : State) : State :=
  if s.prt.pair = .paired then
    plSend .jnl 0x10 e.bytes (.jnl e.recSeq) (s.onJnl fun j => { j with waiting := j.waiting ++ [e] })
  else
    let s1 := mirrorMap (plSend .jnl 0x10 e.bytes .none) s
    if e.intent then s1 else spillNow h 2 [e] (s1.onJnl fun j => { j with waiting := j.waiting ++ [e] })

/-- Write a stripe record under a new REC_SEQ and start its commit (R371, R373). It answers with the REC_SEQ. -/
def jnlRecord (top stripe : Nat) (r : StripeRec) (s : State) : Nat × State :=
  let q := s.jnl.nextRec
  let r1 := { r with recSeq := q }
  let s1 := s.onJnl fun j =>
    { j with
      nextRec := q + 1
      recs := if r.kind = .retired then tabDel (top, stripe) j.recs else tabPut (top, stripe) r1 j.recs }
  let s2 := s1.onJnl fun j => { j with peak := max j.peak j.recs.length }
  (q, jnlCommit (s.ownerOf top) { recSeq := q, bytes := r1.bytes top stripe, since := s.time, intent := r.kind == .intent } s2)

/-- Write a span entry under a new REC_SEQ and start its commit (R375). -/
def jnlSpan (span pos : Nat) (e : SpanEnt) (s : State) : Nat × State :=
  let q := s.jnl.nextRec
  let e1 := { e with recSeq := q }
  (q, jnlCommit (s.ownerOf span) { recSeq := q, bytes := e1.bytes span pos, since := s.time }
    (s.onJnl fun j => { j with nextRec := q + 1, spans := tabPut (span, pos) e1 j.spans }))

/-- Spill the committed entries that wait, oldest first (R373). -/
def spillWaiting (s : State) : State :=
  let es := s.jnl.toSpill
  spillNow s.head (es.length + 1) es (s.onJnl fun j => { j with toSpill := [] })

/-- A home is out of use: JNL_HOME_LOST (R376). -/
def homeOut (u : Nat) (frozen : Bool) (s : State) : State :=
  if s.jnl.homesOut.any fun e => e.1 == u then s
  else
    let idx := ((s.homesOf (s.ownerOf u)).findIdx? (· == u)).getD 0
    note 0x0B01 (idx + 4 * b2n frozen) (s.onJnl fun j => { j with homesOut := j.homesOut ++ [(u, frozen)] })

/-- Homes that are frozen or FAILED go out of use (R376): this head's own once its state is there, and the partner's too while it serves
alone (DEDUCED, log entry 102). -/
def checkHomes (s : State) : State :=
  let homes := if ¬ s.ftl.ready then [] else if s.prt.pair = .lone then s.homesOf 0 ++ s.homesOf 1 else s.homesOf s.head
  homes.foldl (fun s u =>
    match s.unit u with
    | none => s
    | some d => if d.role ≠ .jnlBand then s
      else if s.ftl.frozen.contains u then homeOut u true s
      else if s.healthOf u = 3 then homeOut u false s else s) s

end Sys2Proof.Machine
end

