-- ==== Sys2Proof/Machine/Flush.lean ====
section
/-! DEFINITION. The flush of block and stream top units: packing media forms into tree rows (R297, R299), whole rows (R364, R365),
extensions of partial stripes (R366 to R369), closing rows (R370), and what their completion brings (R343, R372). -/

namespace Sys2Proof.Machine

/-! ## The write buffer -/

/-- The volume of a buffered block. -/
def BlkAddr.volume : BlkAddr → Nat
  | .block v _ => v
  | .frame v _ _ _ => v

/-- Change a buffered block. -/
def onBuf (acc num : Nat) (f : BufBlk → BufBlk) (s : State) : State :=
  s.onIng fun i => { i with buf := i.buf.map fun b => if b.acc = acc ∧ b.num = num then f b else b }

/-- The block tag's 24 bytes (R209). -/
def BlockTag.bytes (t : BlockTag) : Bytes :=
  withCrc (leBytes 8 t.k ++ leBytes 5 t.pos ++ leBytes 1 t.form ++ leBytes 2 t.vol ++ leBytes 2 t.clen ++ [0, 0])

/-- A block tag from its bytes (R209). -/
def tagOf (b : Bytes) : BlockTag :=
  { k := fieldLe b 0 8, pos := fieldLe b 8 5, form := fieldLe b 13 1, vol := fieldLe b 14 2, clen := fieldLe b 16 2 }

/-- A buffered block's media form. -/
def BufBlk.form (b : BufBlk) : Form := { sectors := b.sectors, tag := b.tag.bytes }

/-- The blocks of a top unit that the flush may place: media forms not placed, not dead and not under repair (R224). -/
def State.unplaced (s : State) (top : Nat) : List BufBlk :=
  s.ing.buf.filter fun b => b.place.isNone && b.ref.isNone && !b.dead && b.repair.isNone
    && (match b.addr with
      | .block v _ => ((s.vol v).map (·.topUnit)) == some top
      | .frame .. => false)

/-- Forms taken in order while they fit into a number of sectors; a form never crosses the end of the row (R297). -/
def packFit : Nat → List BufBlk → List BufBlk
  | _, [] => []
  | cap, b :: bs => if b.sectors.length ≤ cap then b :: packFit (cap - b.sectors.length) bs else []

/-- Forms cut into data strips: sectors in groups of 128, CONT_VALID where a form goes on in the next strip (R297, R320). -/
def cutStrips (fs : List Form) : List Strip :=
  let secs := formSectors fs
  let starts := (chunks 128 (secs.length + 1) secs)
  starts.zipIdx.map fun (g, i) =>
    { body := stripBody g, cont := match secs[128 * (i + 1)]? with
      | some (_, none) => true
      | _ => false }

/-- The strip at index `t` of a row as a page group (R320). -/
def Strip.group (x : Strip) : PageGroup := ⟨if x.pad then 7 else 1, x.body, x.cont⟩

/-- A padding strip (R320). -/
def padStrip : Strip := { body := padBody, pad := true }

/-- Places of packed forms: each with the map word of its media form, from strip `t0` of a row (R329). -/
def State.placeForms (s : State) (top seg row t0 : Nat) (lens : List Nat) : List Nat :=
  (lens.foldl (fun (acc : List Nat × Nat) n =>
    let t := t0 + acc.2 / 128
    let d := (s.stripDie (s.memW seg row) top seg row t).getD 0
    (acc.1 ++ [directWord (s.dieName d) seg row (acc.2 % 128) n], acc.2 + n)) ([], 0)).1

/-! ## Stripes of a row -/

/-- Data strips of one stripe of a top unit's top level (R290, R291, R366). -/
def State.stripeData (s : State) (top : Nat) : Nat := match s.unit top with
  | some d => match d.kind with
    | .span => d.width - 2
    | .band => d.width - 1
    | .die => 1
  | none => 1

/-- Whether a top unit is a band (R371 BAND_TOP). -/
def State.bandTop (s : State) (top : Nat) : Bool := ((s.unit top).getD {}).kind == .band

/-- The number of the first stripe of a tree row (R290). -/
def State.firstStripe (s : State) (top seg row : Nat) : Nat :=
  s.treeRow top seg row * (s.rowStrips top / max 1 (s.stripeData top))

/-- The home dies of a stripe's parity: P and Q of a span, or the band XOR (R290, R291). -/
def State.parityDies (s : State) (top seg row stripe : Nat) : List Nat :=
  match s.unit top with
  | none => []
  | some d =>
    let mem := s.memW seg row
    match d.kind with
    | .span =>
      [stripe % d.width, (stripe + 1) % d.width].filterMap fun m =>
        (resolveStrip s.units mem maxDepth (mem top m) stripe).map (·.1)
    | _ => [d.base + s.treeRow top seg row % d.width]

/-- A location record of a page group. -/
def State.loc (s : State) (die seg pg : Nat) : Loc :=
  let u := (s.unit die).getD {}
  { port := u.port, die := u.die, seg := seg, pg := pg }

/-- Timestamp bits [57:26] (R371 OPENED). -/
def State.openedStamp (s : State) : Nat := bitsAt s.time.toNat 26 32

/-- The record that stands for a stripe, or none yet. -/
def State.stripeRec (s : State) (top stripe : Nat) : Option StripeRec := tabGet (top, stripe) s.jnl.recs

/-- Write the INTENT of a change of a stripe: COVERED after it, its new parity locations, PRIOR the record so far (R369,
R372). -/
def jnlIntent (top seg row stripe covered : Nat) (complete closed : Bool) (p q : Loc) (s : State) : State :=
  let old := s.stripeRec top stripe
  let r : StripeRec := {
    kind := .intent, complete := complete, closed := closed, bandTop := s.bandTop top, row := s.treeRow top seg row, seg := seg
    version := (old.map (·.version)).getD 0, covered := covered
    prior := (old.map fun o => if o.kind = .intent then o.prior else o.covered).getD 0
    recSeq := 0, p := p, q := q
    priorP := (old.map fun o => if o.kind = .intent then o.priorP else o.p).getD {}
    priorQ := (old.map fun o => if o.kind = .intent then o.priorQ else o.q).getD {}
    opened := (old.map (·.opened)).getD s.openedStamp }
  (jnlRecord top stripe r s).2

/-- Commit a stripe's record (R369, R373): VERSION one up, COVERED as the INTENT says. It answers with the REC_SEQ. -/
def jnlCommitStripe (top stripe : Nat) (s : State) : Option Nat × State :=
  match s.stripeRec top stripe with
  | none => (none, s)
  | some r =>
    let (q, s1) := jnlRecord top stripe
      { r with kind := .committed, version := (r.version + 1) % 2 ^ 16, prior := r.covered, priorP := r.p, priorQ := r.q } s
    (some q, s1)

/-- Whether the journal has slots for `n` new stripes (R376); without them the flush holds back and JNL_FULL is raised once. -/
def jnlRoom (n : Nat) (s : State) : Bool × State :=
  if s.jnl.recs.length + n ≤ s.param P.jnlMaxRecords then (true, s.onJnl fun j => { j with fullRaised := false })
  else
    let s1 := s.onJnl fun j => { j with fullWait := satAdd j.fullWait n }
    (false, if s.jnl.fullRaised then s1 else note 0x0B02 0 (s1.onJnl fun j => { j with fullRaised := true }))

/-! ## Data rows of block top units -/

/-- The segment new data of a block top unit goes to, opened if need be; in Floor the flush opens none (R297, R340). -/
def dataSegment (top : Nat) (s : State) : Option Nat × State :=
  match (s.top top).openSeg with
  | some m => (some m, s)
  | none =>
    if (s.top top).mode = .floor ∨ (s.freeSegs top).length ≤ 1 then (none, s)
    else match s.nextFree top with
      | none => (none, s)
      | some m => (some m, onTop top (fun t => { t with openSeg := some m }) (openSegment top m false none s))

/-- The incomplete row of a top unit, or a fresh one at the next row of its segment. -/
def State.partRow (s : State) (top seg : Nat) : PartRow :=
  match tabGet top s.par.part with
  | some p => p
  | none => { seg := seg, row := (s.seg top seg).nextRow }

/-- Parity bodies of a stripe from the data strips it has so far: P and Q, or the XOR of a band row (R361, R321). -/
def State.stripeParity (s : State) (top : Nat) (bodies : List Bytes) : List (Nat × Bytes) :=
  if s.bandTop top then [(2, xorAll bodies)] else [(3, parityP bodies), (4, parityQ bodies)]

/-- Complete a tree row: its remaining strips, and every page group of every level that is not yet programmed, go out as one
row; every stripe's record is INTENT, COMPLETE (R364, R369, R370, R372). -/
def completeRow (top seg : Nat) (kind : RowKind) (p : PartRow) (new : List Strip) (blocks : List (Nat × Nat))
    (moves : List (Nat × Nat)) (s : State) : State :=
  let old := p.strips.map fun (_, b) => ({ body := b } : Strip)
  let strips := (old ++ new).map (·.group)
  let first := s.firstStripe top seg p.row
  let n := s.rowStrips top / max 1 (s.stripeData top)
  let stripes := (List.range n).map (first + ·)
  let closed := kind == .close
  let s1 := stripes.foldl (fun s st =>
    let pd := s.parityDies top seg p.row st
    match s.stripeRec top st with
    | some r => if r.complete then s
      else jnlIntent top seg p.row st (s.stripeData top) true closed (s.loc (pd.getD 0 0) seg p.row)
        (if s.bandTop top then {} else s.loc (pd.getD 1 0) seg p.row) s
    | none => jnlIntent top seg p.row st (s.stripeData top) true closed (s.loc (pd.getD 0 0) seg p.row)
        (if s.bandTop top then {} else s.loc (pd.getD 1 0) seg p.row) s) s
  let todo := stripes.filter fun st => match s.stripeRec top st with
    | some r => !r.complete
    | none => true
  let (id, s2) := s1.newId
  let pages := (s2.rowPages top seg p.row strips).filter fun e => !p.dies.contains e.1
  let s3 := issueRow { id := id, kind := kind, top := top, seg := seg, row := p.row, left := [], blocks := blocks, moves := moves
                       stripes := todo.map fun st => (st, s.stripeData top) } pages s2
  let s4 := if kind = .gc then s3 else s3.onPar fun q =>
    { q with part := tabDel top q.part, running := q.running.filter fun e => e.1.1 ≠ top }
  rowTaken top seg (if closed then s4.onPar fun q => { q with closed := satInc q.closed } else s4)

/-- The rewrite segment a version goes to: one with room on the dies it needs, else a second one, never a third (R368). -/
def rewriteSegment (top : Nat) (dies : List Nat) (s : State) : Option Nat × State :=
  let pages := s.pagesOf top
  let rs := tabGetD top [] s.par.rew
  match rs.find? fun r => dies.all fun d => tabGetD d 0 r.next < pages with
  | some r => (some r.seg, s)
  | none =>
    if 2 ≤ rs.length then (none, s)
    else match s.nextFree top with
      | none => (none, s)
      | some m => (some m, (openSegment top m false none s).onPar fun p => { p with rew := tabPut top (rs ++ [{ seg := m }]) p.rew })

/-- Program one parity version in a rewrite segment on a die (R368): the page group next in order there. It answers with the
location. -/
def programVersion (row top m die kind treeRow : Nat) (body : Bytes) (s : State) : Loc × Bool × State :=
  let rs := tabGetD top [] s.par.rew
  let pg := match rs.find? (·.seg == m) with
    | some r => tabGetD die 0 r.next
    | none => 0
  let s1 := s.onPar fun p => { p with rew := tabUpd top (fun rs => rs.map fun r =>
    if r.seg = m then { r with next := tabPut die (pg + 1) r.next } else r) p.rew }
  let (ok, s2) := programPage row die m pg (pgBytes (pgHeader kind none top (s.seg top m).seq treeRow) body) s1
  (s.loc die m pg, ok, s2)

/-- One stripe of an extension (R369): the INTENT, and its parity either at home, where the stripe completes, or as a new
version. It answers with the page groups still to program at home and the dies already programmed or lost. -/
def extendStripe (id top seg row stripe : Nat) (bodies : List Bytes) (s : State) :
    List (Nat × Bytes) × List Nat × List Nat × State :=
  let r := s.treeRow top seg row
  let pd := s.parityDies top seg row stripe
  let par := s.stripeParity top bodies
  if bodies.length = s.stripeData top then
    let pages := (pd.zip par).map fun (d, k, b) => (d, pgBytes (pgHeader k none top (s.seg top seg).seq r) b)
    (pages, [], [], jnlIntent top seg row stripe bodies.length true false (s.loc (pd.getD 0 0) seg row)
      (s.loc (pd.getD 1 0) seg row) s)
  else
    match rewriteSegment top pd s with
    | (none, s1) => ([], [], [], s1)
    | (some m, s1) =>
      let locOfDie (d : Nat) : Loc := s1.loc d m (match (tabGetD top [] s1.par.rew).find? (·.seg == m) with
        | some x => tabGetD d 0 x.next
        | none => 0)
      let s2 := jnlIntent top seg row stripe bodies.length false false (locOfDie (pd.getD 0 0))
        (if s.bandTop top then {} else locOfDie (pd.getD 1 0)) s1
      let go := (pd.zip par).foldl (fun (acc : List Nat × List Nat × State) e =>
        let (_, ok, s') := programVersion id top m e.1 e.2.1 r e.2.2 acc.2.2
        if ok then (acc.1 ++ [e.1], acc.2.1, s') else (acc.1, acc.2.1 ++ [e.1], s')) ([], [], s2)
      ([], go.1, go.2.1, go.2.2.onPar fun p =>
        { p with
          running := ((p.running.filter fun e => e.1 ≠ (top, stripe))
            ++ [((top, stripe), ((par.getD 0 (0, [])).2, (par.getD 1 (0, [])).2))]).reverse.take 256 |>.reverse })

/-- Extend the row of a block top unit by strips that leave it incomplete (R366 to R369). -/
def extendRow (top seg : Nat) (p : PartRow) (new : List Strip) (blocks : List (Nat × Nat)) (s : State) : State :=
  let t0 := p.strips.length
  let all := p.strips.map (·.2) ++ new.map (·.body)
  let n := s.stripeData top
  let first := s.firstStripe top seg p.row
  let touched := (List.range (ceilDiv all.length n)).filter fun i => decide (t0 < (i + 1) * n)
  let mem := s.memW seg p.row
  let (id, s0) := s.newId
  let dies := (List.range (all.length + 1)).map fun t => (s0.stripDie mem top seg p.row t).getD 0
  let data := new.zipIdx.map fun (x, i) =>
    let d := dies.getD (t0 + i) 0
    let cont := if x.cont then some (s0.dieName (dies.getD (t0 + i + 1) 0)) else none
    (d, pgBytes (pgHeader (if x.pad then 7 else 1) cont top (s0.seg top seg).seq (s0.treeRow top seg p.row)) x.body)
  let go := touched.foldl (fun (acc : List (Nat × Bytes) × List Nat × List Nat × State) i =>
    let (pg, ok, bad, s') := extendStripe id top seg p.row (first + i) ((all.drop (i * n)).take n) acc.2.2.2
    (acc.1 ++ pg, acc.2.1 ++ ok, acc.2.2.1 ++ bad, s')) ([], [], [], s0)
  let s1 := issueRow { id := id, kind := .extend, top := top, seg := seg, row := p.row, left := [], failed := go.2.2.1, blocks := blocks
                       stripes := touched.map fun i => (first + i, ((all.drop (i * n)).take n).length) } (data ++ go.1) go.2.2.2
  s1.onPar fun q =>
    { q with
      rows := q.rows.map fun r => if r.id = id then { r with left := r.left ++ go.2.1 } else r
      part := tabPut top { p with
        strips := p.strips ++ new.zipIdx.map fun (x, i) => (t0 + i, x.body)
        dies := p.dies ++ data.map (·.1) ++ go.1.map (·.1), last := s.time } q.part }

/-- Mark packed blocks placed (R297). -/
def placeBlocks (bs : List BufBlk) (ws : List Nat) (s : State) : State :=
  (bs.zip ws).foldl (fun s (b, w) => onBuf b.acc b.num (fun x => { x with place := some w }) s) s

/-- Close the partial row of a block top unit with padding (R370). A close ordered while an extension runs waits for it
(R394). -/
def closeRow (top : Nat) (s : State) : State :=
  match tabGet top s.par.part with
  | none => s
  | some p =>
    if s.par.rows.any fun r => r.top == top && r.kind == .extend then
      s.onPar fun q => { q with part := tabPut top { p with closing := true } q.part }
    else if p.strips.any fun e => e.2.isEmpty then
      -- the running parity is gone: the row's page groups are read again first
      let want := p.strips.filterMap fun e => (s.stripDie (s.memR p.seg p.row) top p.seg p.row e.1).map fun d =>
        ({ top := top, seg := p.seg, row := p.row, die := d } : PgAddr)
      if s.par.jobs.any fun j => j.what == .close top then s else startJob (.close top) want 0 128 s
    else completeRow top p.seg .close p (List.replicate (s.rowStrips top - p.strips.length) padStrip) [] [] s

/-- Flush a block top unit: whole rows as long as forms fill one, and with `force` the rest as an extension (R364, R366);
`fuel` bounds the rows. -/
def flushTop (top : Nat) (force : Bool) : Nat → State → State
  | 0, s => s
  | fuel + 1, s =>
    let q := s.unplaced top
    if q = [] ∨ ¬ s.takesPrograms top ∨ (tabGet top s.par.part).any (·.closing) then s
    else match dataSegment top s with
      | (none, s1) => s1
      | (some m, s1) =>
        let p := s1.partRow top m
        let cap := (s1.rowStrips top - p.strips.length) * 128
        let fit := packFit cap q
        let used := fit.foldl (fun a b => a + b.sectors.length) 0
        let whole := decide (fit.length < q.length) || used == cap
        if ¬ whole ∧ ¬ force then s1
        else
          let n := s1.rowStrips top / max 1 (s1.stripeData top)
          match jnlRoom (if p.strips = [] then n else 0) s1 with
          | (false, s2) => s2
          | (true, s2) =>
            let strips := cutStrips (fit.map (·.form))
            let ws := s2.placeForms top p.seg p.row p.strips.length (fit.map fun b => b.sectors.length)
            let s3 := placeBlocks fit ws s2
            let ids := fit.map fun b => (b.acc, b.num)
            if whole then
              let pad := List.replicate (s1.rowStrips top - p.strips.length - strips.length) { body := padBody }
              flushTop top force fuel (completeRow top p.seg .data p (strips ++ pad) ids [] s3)
            else
              let t1 := p.strips.length + strips.length
              let n := s3.stripeData top
              let pd := s3.parityDies top p.seg p.row (s3.firstStripe top p.seg p.row + t1 / n)
              match t1 % n, rewriteSegment top pd s3 with
              | 0, _ => extendRow top p.seg p strips ids s3
              | _, (some _, s4) => extendRow top p.seg p strips ids s4
              | _, (none, s4) =>
                -- no rewrite segment has room: the row is closed in place of the extension (R368)
                completeRow top p.seg .close p (strips ++ List.replicate (s4.rowStrips top - t1) padStrip) ids [] s4

/-- The block top units this head serves. -/
def State.blockTops (s : State) : List Nat :=
  (List.range s.units.length).filter fun u => let d := (s.unit u).getD {}
    d.role == .top && !d.stream && (s.top u).formatted && s.serves u

/-- Flush every block top unit: whole rows, or with `force` everything placed. -/
def flushBlocks (force : Bool) (s : State) : State :=
  s.blockTops.foldl (fun s u => flushTop u force (s.ing.buf.length + 1) s) s

/-! ## Stream rows -/

/-- A take. -/
def State.take (s : State) (vol t : Nat) : Option Take := tabGet (vol, t) s.ftl.takes

/-- Change a take. -/
def onTake (vol t : Nat) (f : Take → Take) (s : State) : State :=
  s.onFtl fun x => { x with takes := tabUpd (vol, t) f x.takes }

/-- Draw the strips that a frame's forms fill, in block order; with `last` the rest goes into one more, zero filled (R299). -/
def drawStrips (acc vol t : Nat) (last : Bool) (s : State) : State :=
  match s.take vol t with
  | none => s
  | some tk =>
    let d := tabGetD acc {} tk.drafts
    let secs := (formSectors d.forms).drop d.used
    let n := if last then ceilDiv secs.length 128 else secs.length / 128
    let strips := (List.range n).map fun i => ({
      body := stripBody ((secs.drop (128 * i)).take 128)
      cont := match secs[128 * (i + 1)]? with
        | some (_, none) => true
        | _ => false } : Strip)
    let ext := if n = 0 then d.extents else match d.extents.getLast? with
      | some (a, k) => if a + k = tk.strips then d.extents.dropLast ++ [(a, k + n)] else d.extents ++ [(tk.strips, n)]
      | none => [(tk.strips, n)]
    onTake vol t (fun tk =>
      { tk with
        strips := tk.strips + n
        row := tk.row ++ strips.map fun x => (acc, x)
        drafts := tabPut acc { d with forms := if last then [] else d.forms, used := d.used + 128 * n, extents := ext, whole := last }
          tk.drafts }) s

/-- The segment a take appends to: its own, else the oldest part segment, else a free one (R298). -/
def takeSegment (top vol t : Nat) (s : State) : Option Nat × State :=
  match (s.segsOf top).find? fun e => e.2.take == some (vol, t) && e.2.state == .open with
  | some (m, _) => (some m, s)
  | none =>
    let parts := (s.segsOf top).filter fun e => e.2.state == .part
    match leastBy (fun m => (s.seg top m).seq) (parts.map (·.1)) with
    | some m => (some m, onSeg top m (fun g => { g with state := .open, take := some (vol, t) }) s)
    | none => match s.nextFree top with
      | some m => (some m, openSegment top m false (some (vol, t)) s)
      | none => (none, s)

/-- Program one tree row of a take from its drawn strips, padded to a whole row (R299, R365). -/
def streamRow (top vol t : Nat) (s : State) : State :=
  match s.take vol t with
  | none => s
  | some tk =>
    match takeSegment top vol t s with
    | (none, s1) => s1
    | (some m, s1) =>
      let T := s1.rowStrips top
      let now := tk.row.take T
      let pad := T - now.length
      let row := (s1.seg top m).nextRow
      let segs := match tk.segs.getLast? with
        | some (m', r, n) => if m' = m ∧ r + n = row then tk.segs.dropLast ++ [(m, r, n + 1)] else tk.segs ++ [(m, row, 1)]
        | none => [(m, row, 1)]
      let (id, s2) := s1.newId
      let s3 := onTake vol t (fun tk => { tk with row := tk.row.drop T, strips := tk.strips + pad, segs := segs }) s2
      let s4 := onSeg top m (fun g =>
        { g with rowsOf := match g.rowsOf.find? fun e => e.1 == vol && e.2.1 == t with
          | some (_, _, k) => (g.rowsOf.filter fun e => !(e.1 == vol && e.2.1 == t)) ++ [(vol, t, k + 1)]
          | none => g.rowsOf ++ [(vol, t, 1)] }) s3
      let accs := nubNat (now.map (·.1))
      let h := s4.ownerOf top
      let s5 := if tk.segs.length < segs.length then (logItem h (.takeSegs vol t segs) s4).2 else s4
      rowTaken top m (issueRow { id := id, kind := .data, top := top, seg := m, row := row, left := []
                                 blocks := accs.map fun a => (a, 0), owner := t }
        (s5.rowPages top m row ((now.map fun e => e.2.group) ++ List.replicate pad (padStrip.group))) s5)

/-- Program every whole row a take's strips fill, and with `close` the rest with padding (R365); `fuel` bounds the rows. -/
def flushTake (vol t : Nat) (close : Bool) : Nat → State → State
  | 0, s => s
  | fuel + 1, s =>
    match s.take vol t, s.vol vol with
    | some tk, some v =>
      if tk.row ≠ [] ∧ (s.rowStrips v.topUnit ≤ tk.row.length ∨ close) ∧ s.takesPrograms v.topUnit then
        flushTake vol t close fuel (streamRow v.topUnit vol t s)
      else s
    | _, _ => s

/-- Flush every open take. -/
def flushTakes (close : Bool) (s : State) : State :=
  s.ftl.takes.foldl (fun s e => flushTake e.1.1 e.1.2 close (e.2.row.length + 1) s) s

/-! ## Completions -/

/-- A row program whose page groups are all programmed or counted lost starts the commits of its stripes (R369, R372). -/
def rowPrograms (id : Nat) (s : State) : State :=
  match s.par.rows.find? fun r => r.id == id with
  | none => s
  | some r =>
    if r.left ≠ [] ∨ r.commits.isSome then s
    else
      let go := r.stripes.foldl (fun (acc : List Nat × State) e =>
        match jnlCommitStripe r.top e.1 acc.2 with
        | (some q, s') => (acc.1 ++ [q], s')
        | (none, s') => (acc.1, s')) ([], s)
      go.2.onPar fun p => { p with rows := p.rows.map fun x => if x.id = id then { x with commits := some go.1 } else x }

/-- A page group of a row program is programmed, or counts as one of a lost die. -/
def pageDone (id die : Nat) (lost : Bool) (s : State) : State :=
  rowPrograms id (s.onPar fun p => { p with rows := p.rows.map fun r =>
    if r.id = id then { r with left := r.left.erase die, failed := if lost then r.failed ++ [die] else r.failed } else r })

/-- Row programs that are over: every program done and every commit made. -/
def State.rowsOver (s : State) : List RowProg :=
  s.par.rows.filter fun r => match r.commits with
    | some l => l.all fun q => !s.jnlOpen q
    | none => false

/-- Trim the rewrite segments that hold no live version and are not the one in use (R368). -/
def dropRewrites (top : Nat) (s : State) : State :=
  let rs := tabGetD top [] s.par.rew
  let live (m : Nat) : Bool := s.jnl.recs.any fun e => e.1.1 == top && (e.2.p.seg == m || (!e.2.bandTop && e.2.q.seg == m)
    || (e.2.kind == .intent && decide (e.2.prior ≠ 0) && e.2.priorP.seg == m))
  match rs with
  | [a, b] => if live a.seg then s
      else trimSegment top a.seg (closeSegment top a.seg (s.onPar fun p => { p with rew := tabPut top [b] p.rew }))
  | [a] =>
    if ¬ live a.seg ∧ (s.diesOf top).any (fun d => decide (s.pagesOf top ≤ tabGetD d 0 a.next)) then
      trimSegment top a.seg (closeSegment top a.seg (s.onPar fun p => { p with rew := tabDel top p.rew }))
    else s
  | _ => s

end Sys2Proof.Machine
end

