-- ==== Sys2Proof/Machine/Engines.lean ====
section
/-! DEFINITION. What the data engines compute: LR1 compression and expansion (R242 to R245), the media form of a block (R209, R256)
and back (R220), the fingerprint filter and index (R249 to R254). -/

namespace Sys2Proof.Machine

/-! ## LR1 -/

/-- Copy `n` bytes one at a time from `off` bytes before the end of an output held newest first (R243). -/
def lr1Copy (off : Nat) : Nat → Bytes → Bytes
  | 0, out => out
  | n + 1, out => lr1Copy off n (out.getD (off - 1) 0 :: out)

/-- Expand LR1 tokens onto an output held newest first; none for a malformed stream (R242, R243). `fuel` bounds the tokens. -/
def lr1Tokens : Nat → Bytes → Bytes → Option Bytes
  | _, [], out => if out.length = 4096 then some out.reverse else none
  | 0, _ :: _, _ => none
  | fuel + 1, t :: ts, out =>
    let x := t.toNat
    let room (n : Nat) (rest : Bytes) (out' : Bytes) : Option Bytes :=
      if out.length + n ≤ 4096 then lr1Tokens fuel rest out' else none
    match x / 64 with
    | 0 =>
      let n := x % 64 + 1
      if ts.length < n then none else room n (ts.drop n) ((ts.take n).reverse ++ out)
    | 1 => match ts with
      | b :: rest =>
        let n := bitsAt x 2 4 + 4
        let off := x % 4 * 256 + b.toNat + 1
        if out.length < off then none else room n rest (lr1Copy off (min n 4096) out)
      | [] => none
    | 2 => match ts with
      | b :: c :: rest =>
        let n := x % 64 + 4
        let off := b.toNat + c.toNat % 16 * 256 + 1
        if out.length < off ∨ 16 ≤ c.toNat then none else room n rest (lr1Copy off n out)
      | _ => none
    | _ => let n := (x % 64 + 1) * 64
      room n ts (List.replicate n 0 ++ out)

/-- Expand a compressed form of CLEN bytes to its block, if it is well formed (R243). -/
def lr1Expand (b : Bytes) : Option Bytes := lr1Tokens b.length b []

/-- The compressed form of a block, none for NO_GAIN (R244, R245): used only where it expands to the block. -/
def State.lr1Compress (s : State) (plain : Bytes) : Option Bytes :=
  let c := Sys2Proof.compressor (s.param P.cmpSearch) plain
  if c.length ≤ (8 - s.param P.cmpMinGain) * 512 ∧ 1 ≤ c.length ∧ lr1Expand c = some plain then some c else none

/-- A block has gone through compression (R277 CMP_IN, CMP_OUT, CMP_NOGAIN). -/
def cmpCount (plain : Bytes) (s : State) : State :=
  let c := s.lr1Compress plain
  s.onCmp fun x =>
    { x with blocksIn := x.blocksIn + 1, sectorsOut := x.sectorsOut + BitVec.ofNat 64 (ceilDiv ((c.map (·.length)).getD 4096) 512)
             noGain := if c.isNone then x.noGain + 1 else x.noGain }

/-! ## The media form -/

/-- The take ID of a block's address, 0 on block volumes (R256). -/
def BlkAddr.takeId : BlkAddr → Nat
  | .block .. => 0
  | .frame _ t _ _ => t

/-- The XTS tweak of a media form (R256). -/
def xtsTweak (pos vol take : Nat) : Bytes :=
  leBytes 5 pos ++ leBytes 2 (vol % 2 ^ 12) ++ [0] ++ leBytes 4 take ++ [0, 0, 0, 0]

/-- The XTS key of a volume's slot, while the slot is READY and of that kind (R262). -/
def State.volKey (s : State) (v : VolPolicy) : Option Bytes := s.slotKey v.keySlot 1

/-- The media form of a plaintext block with its POS: tag and sectors (R209, R245, R256); none where the volume's key is not
usable. POS of a stream block: FRAME_APPEND gives the blocks of its frame the next numbers of the take (DEDUCED, log entry 12). -/
def State.mediaForm (s : State) (v : VolPolicy) (pos take : Nat) (short : Bool) (plain : Bytes) : Option (BlockTag × List Bytes) :=
  let comp := if v.compress then s.lr1Compress plain else none
  let clen := (comp.map (·.length)).getD 4096
  let data := padTo (ceilDiv clen 512 * 512) (comp.getD plain)
  let form := b2n comp.isSome + 2 * b2n (v.compress && comp.isNone) + 4 * b2n v.encrypt + 8 * b2n short
  let tag : BlockTag := { k := carryK plain, pos := pos, form := form, vol := v.vol, clen := clen }
  if v.encrypt then
    (s.volKey v).map fun key => (tag, chunks 512 9 (xts false key (xtsTweak tag.pos tag.vol take) data))
  else some (tag, chunks 512 9 data)

/-- What reading a media form gives: the verified plaintext, or the stage that fails (R220, R221). -/
inductive Opened where
  | plain (b : Bytes)
  | fault (stage : Nat)
  /-- the key slot is not usable (R273) -/
  | noKey
deriving DecidableEq, Repr

/-- Decrypt, expand and check a media form against its tag (R220, R221): K is compared with the tag's. -/
def State.openForm (s : State) (v : VolPolicy) (take : Nat) (tag : BlockTag) (sectors : List Bytes) : Opened :=
  let data := sectors.flatten
  let clear := if bitAt tag.form 2 then (s.volKey v).map fun key => xts true key (xtsTweak tag.pos tag.vol take) data
    else some data
  match clear with
  | none => .noKey
  | some d =>
    let plain := if bitAt tag.form 0 then lr1Expand (d.take tag.clen) else some d
    match plain with
    | none => .fault 0x12
    | some p => if carryK p = tag.k then .plain p else .fault 0x12

/-! ## Fingerprints -/

/-- The fingerprint as a number, FP[n] its bit n (R249, R11). -/
def fpNat (plain : Bytes) : Nat := leNat (sha256 plain)

/-- The filter word a fingerprint selects and the mask of its four bits (R250). -/
def fpWord (fp : Nat) : Nat × Word64 :=
  (bitsAt fp 0 16, BitVec.ofNat 64 (Nat.lor (2 ^ bitsAt fp 16 6) (Nat.lor (2 ^ bitsAt fp 22 6)
    (Nat.lor (2 ^ bitsAt fp 28 6) (2 ^ bitsAt fp 34 6)))))

/-- The filter test (R250); after an L3 reset every test is positive until the rebuild is done (R272). -/
def State.fpTest (s : State) (fp : Nat) : Bool :=
  let (w, m) := fpWord fp
  s.fpr.allPositive || (tabGetD w 0 s.fpr.active &&& m == m)

/-- Set a fingerprint's bits in a bank (R250). -/
def fpSet (fp : Nat) (bank : Tab Nat Word64) : Tab Nat Word64 :=
  let (w, m) := fpWord fp
  tabUpdD w 0 (· ||| m) bank

/-- Buckets of the dedup index (R251). -/
def State.fpBuckets (s : State) : Nat := max 1 (s.param P.fprIndexSize * 2 ^ 20 / 256)

/-- The bucket of a fingerprint (R251). -/
def State.fpBucket (s : State) (fp : Nat) : Nat := bitsAt fp 40 32 % s.fpBuckets

/-- DOMAIN of a volume's blocks (R252). -/
def VolPolicy.domain (v : VolPolicy) : Nat := if v.encrypt then v.keySlot else 0x8000

/-! ## Cipher lanes -/

/-- The GCM lanes of a user class: 16 to 31 outbound, 32 to 47 inbound (R255, R266). -/
def classLanes (cls : Nat) : List Nat := (List.range 16).map (fun k => (if cls % 2 = 0 then 16 else 32) + k)

/-- Whether a GCM lane is in service. -/
def State.laneInService (s : State) (l : Nat) : Bool := decide (16 ≤ l) && getBit s.cip.gcmUp (l - 16)

/-- Waiting GCM messages take free lanes, partner classes first, oldest first in a class (R266); `fuel` bounds them. -/
def fillLanes : Nat → State → State
  | 0, s => s
  | fuel + 1, s =>
    let free (m : GcmMsg) : Option Nat := (classLanes m.cls).find? fun l => s.laneInService l && !tabHas l s.cip.lanes
    match (List.range 4).findSome? fun c => (s.cip.waiting.find? fun m => m.cls == c && (free m).isSome) with
    | none => s
    | some m => match free m with
      | none => s
      | some l => fillLanes fuel (s.onCip fun c => { c with lanes := tabPut l { m with held := 0 } c.lanes, waiting := c.waiting.filter (·.ref ≠ m.ref) })

/-- A GCM message is given to CIP (R266). -/
def gcmStart (m : GcmMsg) (s : State) : State := fillLanes 48 (s.onCip fun c => { c with waiting := c.waiting ++ [m] })

/-- A GCM message is over: its lane, its place in the queue and any saved context are free. -/
def gcmEnd (ref : Nat) (s : State) : State :=
  fillLanes 48 (s.onCip fun c =>
    { c with lanes := c.lanes.filter fun e => e.2.ref ≠ ref, waiting := c.waiting.filter (·.ref ≠ ref)
             ctxRam := c.ctxRam.filter (·.ref ≠ ref), ctxSpill := c.ctxSpill.filter (·.ref ≠ ref) })

/-- Set bits in a filter bank. -/
def bankFill (bank : Tab Nat Word64) : Nat := bank.foldl (fun n e => n + popCount e.2) 0

/-- Start a filter rebuild (R254): FPR scans the index into the second bank. -/
def fpRebuild (s : State) : State :=
  if s.fpr.rebuilding then s
  else note 0x0501 (bankFill s.fpr.active * 1000 / (65536 * 64)) (s.onFpr fun f =>
    { f with rebuilding := true, replaced := false
             second := (f.index.flatMap (·.2)).foldl (fun bank e => fpSet (leNat e.fp) bank) [] })

/-- Insert an entry for a new block when its map word is committed (R253). -/
def fpInsert (v : VolPolicy) (fp : Bytes) (k loc : Nat) (s : State) : State :=
  let n := leNat fp
  let b := s.fpBucket n
  let es := tabGetD b [] s.fpr.index
  let e : DedupEntry := { fp := fp, k := k, loc := loc, domain := v.domain, vol := v.vol, lastHit := s.openedStamp }
  let s1 := s.onFpr fun f =>
    { f with active := fpSet n f.active, second := if f.rebuilding then fpSet n f.second else f.second }
  let s2 :=
    if es.any fun x => x.fp == fp && x.domain == v.domain then s1
    else if es.length < 4 then s1.onFpr fun f => { f with index := tabPut b (es ++ [e]) f.index }
    else
      let oldest := (es.map (·.lastHit)).foldl min ((es.map (·.lastHit)).headD 0)
      match es.findIdx? fun x => x.lastHit == oldest with
      | some i => s1.onFpr fun f => { f with index := tabPut b (es.set i e) f.index, evict := satInc f.evict, replaced := true }
      | none => s1
  if s2.param P.fprRebuildFill * 65536 * 64 ≤ bankFill s2.fpr.active * 100 then fpRebuild s2 else s2

/-- What FPR decides of a block. -/
inductive Dup where
  | fresh
  /-- a duplicate of the stored block at a location, by a shared map word -/
  | dup (w : Nat)
deriving DecidableEq, Repr

/-- Take a reference to a stored block (R331, R351): a shared entry gains one; a direct map word turns shared with REFS 2. None
where the location is no longer current, or the shared table is full. -/
def takeReference (loc vol : Nat) (s : State) : Option (Nat × State) :=
  let h := s.volOwner vol
  match s.ftl.shares.find? fun e => e.2.loc == loc with
  | some (i, _) => some (sharedWord i, shareAdd h i s)
  | none => match s.ftl.map.find? fun e => e.2 == loc with
    | none => none
    | some ((v, lba), _) => match shareNew h loc 2 s with
      | some (i, s1) => some (sharedWord i, (logItem h (.delta v lba false (sharedWord i)) (putWord v lba (sharedWord i) s1)).2)
      | none => none

/-- The decision of R252 for a block of a volume with dedup set. -/
def fpDecide (v : VolPolicy) (fp : Bytes) (k : Nat) (s : State) : Dup × State :=
  let n := leNat fp
  let s1 := s.onFpr fun f => { f with lookups := f.lookups + 1 }
  if ¬ s.fpTest n then (.fresh, s1.onFpr fun f => { f with neg := f.neg + 1 })
  else
    let b := s.fpBucket n
    let all := tabGetD b [] s.fpr.index
    let bad := all.filter fun e => !e.ecrcOk
    let good := all.filter (·.ecrcOk)
    let s2 := bad.foldl (fun s _ => note 0x0502 0 s) (s1.onFpr fun f =>
      { f with index := if bad = [] then f.index else tabPut b good f.index, indexErr := satAdd f.indexErr bad.length })
    match good.find? fun e => e.fp == fp && e.domain == v.domain with
    | none => (.fresh, s2.onFpr fun f => { f with falsePos := satInc f.falsePos })
    | some e =>
      if s2.ing.buf.any fun x => x.repair.isSome && x.place == some e.loc then (.fresh, s2)  -- R238
      else if e.k ≠ k then
        (.fresh, note 0x0405 (v.vol * 2 ^ 8) (s2.onIng fun i => { i with dedupMismatch := satInc i.dedupMismatch }))
      else match takeReference e.loc v.vol s2 with
        | some (w, s3) => (.dup w, s3.onFpr fun f =>
            { f with dups := f.dups + 1
                     index := tabUpd b (fun es => es.map fun x => if x = e then { x with lastHit := s.openedStamp } else x) f.index })
        | none =>
          let full := decide (s2.shareCap ≤ s2.ftl.shares.length)
          (.fresh, if full then s2.onFtl fun f => { f with shareFull := satInc f.shareFull } else s2)

end Sys2Proof.Machine
end

