-- ==== Sys2Proof/Machine/Ingest.lean ====
section
/-! DEFINITION. The ingest unit: the dirty account and the descriptor budget (R227 to R230), the mirror tee and its backlog (R213 to
R216), placing accepted data in a window (R142, R144, R192), and assembling logical blocks (R208, R210). -/

namespace Sys2Proof.Machine

/-! ## Commands and windows -/

/-- An outstanding command by its acceptance number. -/
def State.cmdAt (s : State) (acc : Nat) : Option Cmd := s.cmd.cmds.find? (·.acc == acc)

/-- Change an outstanding command. -/
def chg (acc : Nat) (f : Cmd → Cmd) (s : State) : State :=
  s.onCmd fun u => { u with cmds := u.cmds.map fun c => if c.acc = acc then f c else c }

/-- Whether a command takes data from the host into a volume: WRITE or FRAME_APPEND. -/
def Cmd.isWrite (c : Cmd) : Bool := c.op == 0x02 || c.op == 0x11

/-- Whether a command's data goes through windows with write permission: a WRITE, a FRAME_APPEND or a REPL_DATA. -/
def Cmd.takesData (c : Cmd) : Bool := c.isWrite || c.op == 0x59

/-- Logical blocks of a command's data (R208). -/
def Cmd.blocks (c : Cmd) : Nat := ceilDiv c.len 4096

/-- A command's windows, by index, in the order named. -/
def State.winsOf (s : State) (acc : Nat) : List (Nat × Window) := s.cmd.wins.filter fun e => e.2.acc == acc

/-- Change a window. -/
def onWin (i : Nat) (f : Window → Window) (s : State) : State := s.onCmd fun u => { u with wins := tabUpd i f u.wins }

/-- The key of a window (R142). -/
def winKey (i : Nat) (w : Window) : Nat := i % 2 ^ 20 + w.tag * 2 ^ 20

/-- The window a key names, while its tag is current and the window valid (R142, R144). After a takeover the partner's windows keep their
keys: they stand in a second table, 2^20 places up, which a taken-over connection asks first (R446, R447). -/
def State.winAt (s : State) (taken : Bool) (key : Nat) : Option (Nat × Window) :=
  ((if taken then [key % 2 ^ 20 + 2 ^ 20, key % 2 ^ 20] else [key % 2 ^ 20]).filterMap fun i =>
    (tabGet i s.cmd.wins).map fun w => (i, w)).find? fun e => e.2.tag == bitsAt key 20 12 && e.2.valid

/-! ## The dirty account -/

/-- DIRTY_BOUND in logical blocks (R227; the parameter is in MiB). -/
def State.dirtyMax (s : State) : Nat := s.param P.dirtyBound * 256

/-- The dirty count in logical blocks (R227). -/
def State.dirtyNow (s : State) : Nat := s.ing.dirty.foldl (fun a e => a + e.2) 0

/-- A volume's part of DIRTY_BOUND (R228). -/
def State.shareMax (s : State) (vol : Nat) : Nat := s.dirtyMax * ((s.vol vol).map (·.wbShare)).getD 100 / 100

/-- DIRTY and SHARE clear once their counts have fallen to DIRTY_RESUME percent (R228). -/
def holdsClear (s : State) : State :=
  let r := s.param P.dirtyResume
  s.onCmd fun u =>
    { u with
      holdDirty := u.holdDirty && decide (s.dirtyMax * r < s.dirtyNow * 100)
      holdShare := u.holdShare.filter fun v => decide (s.shareMax v * r < tabGetD v 0 s.ing.dirty * 100) }

/-- Count blocks of a command dirty (R227). -/
def dirtyAdd (acc vol n : Nat) (s : State) : State :=
  let s1 := s.onIng fun i => { i with dirty := tabUpdD vol 0 (· + n) i.dirty, dirtyBy := tabUpdD acc 0 (· + n) i.dirtyBy }
  s1.onIng fun i => { i with dirtyPeak := max i.dirtyPeak s1.dirtyNow }

/-- Take blocks of a command out of the count (R227): never more than it still holds there. -/
def dirtyDrop (acc vol n0 : Nat) (s : State) : State :=
  let n := min n0 (tabGetD acc 0 s.ing.dirtyBy)
  let left := tabGetD acc 0 s.ing.dirtyBy - n
  holdsClear (s.onIng fun i =>
    { i with
      dirty := (tabUpdD vol 0 (· - n) i.dirty).filter fun e => e.2 ≠ 0
      dirtyBy := if left = 0 then tabDel acc i.dirtyBy else tabPut acc left i.dirtyBy })

/-- The window number that covers a block of a command (R179). -/
def State.winOfBlock (s : State) (num : Nat) : Nat := num * 4096 / max 4096 (s.param P.trWindowMax)

/-- The reference a buffered block itself still holds (R331): once its map entry is made, the map holds it. -/
def BufBlk.ownRef (b : BufBlk) : Option Nat := if b.seqAt.isNone then b.ref else none

/-- A buffered block leaves: the dirty count falls, and with the last block of its window the descriptor budget's reservation
returns (R227, R230). -/
def leaveBlock (b : BufBlk) (s : State) : State :=
  let w := s.winOfBlock b.num
  let s1 := s.onIng fun i => { i with buf := i.buf.filter fun x => !(x.acc == b.acc && x.num == b.num) }
  let last := !(s1.ing.buf.any fun x => x.acc == b.acc && s.winOfBlock x.num == w)
  let gone := !(s1.ing.buf.any fun x => x.acc == b.acc)
  dirtyDrop b.acc b.addr.volume 1 (s1.onIng fun i =>
    { i with
      budget := if last then tabDel (b.acc, w) i.budget else i.budget
      extra := if gone then tabDel b.acc i.extra else i.extra })

/-- Everything a failed or aborted command holds in the write buffer and in the accounts is released (R222, R227, R230); a
duplicate's reference is given back (R331). -/
def dropData (acc vol : Nat) (s : State) : State :=
  let refs := (s.ing.buf.filter (·.acc == acc)).filterMap (·.ownRef)
  let s1 := refs.foldl (fun s w => dropWord (s.volOwner vol) w s) s
  dirtyDrop acc vol (tabGetD acc 0 s.ing.dirtyBy) (s1.onIng fun i =>
    { i with
      buf := i.buf.filter fun b => b.acc ≠ acc
      frags := i.frags.filter fun f => f.acc ≠ acc
      budget := i.budget.filter fun e => e.1.1 ≠ acc
      extra := tabDel acc i.extra })

/-! ## The descriptor budget -/

/-- The descriptor budget in bytes (R230). -/
def State.budgetMax (s : State) : Nat := s.dirtyMax * 4096 / 16

/-- What of the descriptor budget is not reserved or taken (R230). -/
def State.budgetFree (s : State) : Nat :=
  s.budgetMax - s.ing.budget.foldl (fun a e => a + e.2) 0 - s.ing.extra.foldl (fun a e => a + e.2) 0

/-! ## The tee -/

/-- The tee descriptor (R213). -/
def teeDescriptor (qpn flags cid vol off seg : Nat) (payload : Bytes) : Bytes :=
  leBytes 3 qpn ++ leBytes 1 flags ++ leBytes 2 cid ++ leBytes 2 vol ++ leBytes 8 off ++ leBytes 2 payload.length ++ [0, 0]
    ++ leBytes 4 seg ++ leBytes 8 (partialP payload)

/-- Whether the partner link takes segments now (R216). -/
def State.teeOpen (s : State) : Bool := s.prt.session.isSome && s.plKey.isSome && !s.prt.hold

/-- Send a segment on the partner link (R435: its CSEQ is its SEG). -/
def sendSeg (g : Seg) (s : State) : State := plFrame (plMsgBytes 0x30 g.num g.bytes) s

/-- The tee backlog in MiB, rounded up (R216). -/
def State.backlogMib (s : State) : Nat := ceilDiv (s.ing.backlog.foldl (fun a g => a + g.bytes.length) 0) (2 ^ 20)

/-- TEE_BACKLOG each time the backlog crosses BACKLOG_ALARM (R216). -/
def teeAlarm (s : State) : State :=
  let n := s.backlogMib
  let high := decide (s.param P.backlogAlarm < n)
  let s1 := s.onIng fun i => { i with alarm := high }
  if high ∧ ¬ s.ing.alarm then note 0x0404 n s1 else s1

/-- Send the backlog in SEG order, ahead of new segments (R216). -/
def teeDrain (s : State) : State :=
  if s.teeOpen then
    let q := s.ing.backlog
    teeAlarm (q.foldl (fun s g => sendSeg g s) (s.onIng fun i => { i with backlog := [], teed := i.teed ++ q }))
  else s

/-- Tee an accepted payload of a command (R213): its segment goes to the link, or into the backlog while the link cannot take
it. Only a Paired head has a partner to tee to. -/
def tee (c : Cmd) (lot stream completes : Bool) (off : Nat) (payload : Bytes) (s : State) : State :=
  if s.prt.pair ≠ .paired ∨ payload = [] then s
  else
    let n := s.ing.nextSeg
    let d := teeDescriptor c.qpn (b2n completes + 2 * b2n lot + 4 * b2n stream) c.cid c.vol off n payload
    let g : Seg := { num := n, acc := c.acc, bytes := d ++ payload }
    let s1 := chg c.acc (fun c => { c with segsOwed := c.segsOwed ++ [n] })
      (s.onIng fun i => { i with nextSeg := (n + 1) % 2 ^ 32, lastSeg := word n })
    if s.teeOpen ∧ s.ing.backlog = [] then sendSeg g (s1.onIng fun i => { i with teed := i.teed ++ [g] })
    else teeAlarm (s1.onIng fun i => { i with backlog := i.backlog ++ [g] })

/-- Whether `a` is at or below `b` in 32-bit sequence order. -/
def seqLe (a b : Nat) : Bool := (b + 2 ^ 32 - a) % 2 ^ 32 < 2 ^ 31

/-- The partner has receipted every segment up to one (R215). -/
def segReceipts (upTo : Nat) (s : State) : State :=
  let got := (s.ing.teed.filter fun g => seqLe g.num upTo).map (·.num)
  (s.onIng fun i => { i with teed := i.teed.filter fun g => !seqLe g.num upTo }).onCmd fun u =>
    { u with cmds := u.cmds.map fun c => { c with segsOwed := c.segsOwed.filter fun n => !got.contains n } }

/-! ## Placing data in a window -/

/-- The failure of a command becomes known; the first one decides (R192, R235). -/
def failCmd (acc status detail result : Nat) (s : State) : State :=
  chg acc (fun c => if c.fail.isSome then c else { c with fail := some (status, detail, result) }) s

/-- How many of `len` bytes of a command's data from `lo` are not held yet (R447: on a window of a taken-over command every byte counts
once). -/
def State.newBytes (s : State) (c : Cmd) (lo len : Nat) : Nat :=
  let fs := s.ing.frags.filter fun f => f.acc == c.acc
  (List.range len).countP fun k =>
    !(fs.any fun f => decide (f.off ≤ lo + k) && decide (lo + k < f.off + f.data.length)) && !c.blocksIn.contains ((lo + k) / 4096)

/-- Place accepted data in a write window at a byte offset (R143, R144, R213, R230): what lies beyond the end, what comes after the
completion flag, and what the descriptor budget cannot cover makes the command fail with LENGTH_MISMATCH. -/
def placeData (lot completes : Bool) (i off : Nat) (data : Bytes) (s : State) : State :=
  match tabGet i s.cmd.wins with
  | none => s
  | some w => match s.cmdAt w.acc with
    | none => s
    | some c =>
      let inside := if w.complete then [] else data.take (w.wlen - off)
      let paired := decide (s.prt.pair = .paired)
      let beyond := decide (w.reserved ≤ w.used) && paired && inside != []
      let refused := beyond && decide (s.budgetFree < 32)
      let put := if refused then [] else inside
      let s1 := if beyond ∧ ¬ refused then s.onIng fun x => { x with extra := tabUpdD c.acc 0 (· + 32) x.extra } else s
      let s2 := onWin i (fun w =>
        { w with
          placed := w.placed + (if i < 2 ^ 20 then put.length else s.newBytes c (w.off + off) put.length)
          used := if put = [] then w.used else w.used + 1
          beyond := w.beyond || decide (put.length < data.length) }) s1
      let s3 := if put = [] then s2 else s2.onIng fun x => { x with frags := x.frags ++ [{ acc := c.acc, off := w.off + off, data := put }] }
      let s4 := if put.length < data.length then failCmd c.acc 0x10 0 0 s3 else s3
      tee c lot ((s.vol c.vol).any (·.stream)) completes (w.off + off) put s4

/-! ## Block assembly -/

/-- Lay a fragment's bytes over the cells of a block. -/
def overlay (start : Nat) (cells : List (Option Byte)) (f : Frag) : List (Option Byte) :=
  let lo := f.off - start
  let skip := start - f.off
  let d := (f.data.drop skip).take (cells.length - lo)
  cells.take lo ++ d.map some ++ cells.drop (lo + d.length)

/-- The bytes of a command's data from `start`, `len` of them, once every one has been accepted (R208, R210 stage 2). -/
def State.assemble (s : State) (acc start len : Nat) : Option Bytes :=
  let fs := s.ing.frags.filter fun f => f.acc == acc && decide (f.off < start + len) && decide (start < f.off + f.data.length)
  (fs.foldl (overlay start) (List.replicate len none)).mapM id

/-- Bytes of a block within its command's data: 4,096, or fewer in the last block (R208). -/
def Cmd.blockLen (c : Cmd) (num : Nat) : Nat := min 4096 (c.len - num * 4096)

/-- The address of a block of a write command. -/
def Cmd.addrOf (c : Cmd) (num : Nat) : BlkAddr :=
  if c.op = 0x11 then .frame (c.vol % 2 ^ 12) c.take (c.lba % 2 ^ 40) num else .block (c.vol % 2 ^ 12) (c.lba + num)

/-- The lowest free slot of the write-buffer region (R212). -/
def State.freeSlot (s : State) : Nat :=
  ((List.range (s.ing.buf.length + 1)).find? fun i => !(s.ing.buf.any fun b => b.slot == i)).getD 0

/-- A stage check fails (R221, R222): counted, the command fails with INTEGRITY, INTEGRITY_FAIL is raised. -/
def stageFail (acc stage num : Nat) (s : State) : State :=
  match s.cmdAt acc with
  | none => s
  | some c =>
    let bad := (c.blocksBad ++ [num]).length
    let first := (c.blocksBad ++ [num]).foldl min num
    let s1 := s.onIng fun i =>
      { i with failCnt := tabUpdD stage 0 satInc i.failCnt, failLast := word (stage + c.vol * 2 ^ 8), failTime := s.time }
    let s2 := note 0x0401 (stage + c.vol * 2 ^ 8) (chg acc (fun c => { c with blocksBad := c.blocksBad ++ [num] }) s1)
    match c.fail with
    | none => failCmd acc 0x19 (stage + bad * 2 ^ 8) (first * 4096) s2
    | some (0x19, d, _) => chg acc (fun c => { c with fail := some (0x19, d % 2 ^ 8 + bad * 2 ^ 8, first * 4096) }) s2
    | some _ => s2

/-! ## Frames -/

/-- A draft of a take. -/
def State.draft (s : State) (vol t key : Nat) : Draft := match s.take vol t with
  | some tk => tabGetD key {} tk.drafts
  | none => {}

/-- The buffered blocks of a frame whose forms are next in block order join it; `fuel` bounds them. -/
def joinBlocks (vol t key : Nat) : Nat → State → State
  | 0, s => s
  | fuel + 1, s =>
    let d := s.draft vol t key
    match s.ing.buf.find? fun b => b.draft == key && (match b.addr with
        | .frame x y _ blk => x == vol && y == t && blk == d.next
        | .block .. => false) with
    | none => s
    | some b =>
      if d.total ≤ d.next then s
      else joinBlocks vol t key fuel (onTake vol t (fun tk =>
        { tk with drafts := tabPut key { d with next := d.next + 1, forms := d.forms ++ [b.form], lens := d.lens ++ [b.sectors.length] } tk.drafts }) s)

/-- Forms that have left the engines join their frame in block order, and the strips they fill are drawn from the take (R191 rule
2, R299). -/
def joinDraft (vol t key : Nat) (s : State) : State :=
  let s1 := joinBlocks vol t key (s.ing.buf.length + 1) s
  let d := s1.draft vol t key
  if d.whole then s1 else drawStrips key vol t (decide (d.total ≤ d.next)) s1

end Sys2Proof.Machine
end

