-- ==== Sys2Proof/Machine/Commands.lean ====
section
/-! DEFINITION. The command unit: capsules and their checks (R174, R175, R185), head messages (R176), the records it mirrors
(R439), windows (R142, R179 to R183), sending read data (R182 to R187), and the end of a command (R186, R192, R196). -/

namespace Sys2Proof.Machine

/-! ## Opcodes and capsules -/

/-- The class of volume an opcode names (R175, R470). -/
inductive OpVol where
  | block
  | stream
  | any
  | admin
deriving DecidableEq, Repr

/-- The class of each opcode and the capsule fields it uses, by byte offset (R174, R175, R470); none for a reserved opcode. -/
def opInfo (op : Nat) : Option (OpVol × List Nat) :=
  match op with
  | 0x01 => some (.block, [8, 20, 24, 32])
  | 0x02 => some (.block, [8, 20])
  | 0x03 => some (.block, [8, 40])
  | 0x04 => some (.any, [])
  | 0x0F => some (.any, [40])
  | 0x10 => some (.stream, [16])
  | 0x11 => some (.stream, [8, 16, 20])
  | 0x12 => some (.stream, [8, 16, 20, 24, 32, 40])
  | 0x13 => some (.stream, [16])
  | 0x14 => some (.stream, [16])
  | 0x15 => some (.stream, [16])
  | 0x40 => some (.admin, [])
  | 0x41 => some (.admin, [40])
  | 0x42 => some (.admin, [40])
  | 0x43 => some (.admin, [20, 24, 32, 40])
  | 0x50 => some (.any, [16, 40])
  | 0x51 => some (.any, [40])
  | 0x52 => some (.block, [8, 20, 24, 32, 40])
  | 0x53 => some (.stream, [8, 16, 20, 24, 32, 40])
  | 0x54 => some (.any, [20, 24, 32])
  | 0x55 => some (.any, [])
  | 0x56 => some (.any, [])
  | 0x57 => some (.any, [])
  | 0x58 => some (.any, [16, 40])
  | 0x59 => some (.any, [20, 40])
  | 0x5A => some (.any, [40])
  | 0x5B => some (.any, [16])
  | _ => none

/-- A command as its capsule describes it (R174). -/
def cmdOf (acc qpn capSeq : Nat) (raw : Bytes) : Cmd :=
  let f := fieldLe raw 1 1
  { acc := acc, qpn := qpn, cid := fieldLe raw 2 2, op := fieldLe raw 0 1, fence := bitAt f 0, pull := bitAt f 1
    vol := fieldLe raw 4 2, lba := fieldLe raw 8 8, take := fieldLe raw 16 4, len := fieldLe raw 20 4, hkey := fieldLe raw 24 4
    haddr := fieldLe raw 32 8, param := fieldLe raw 40 8, raw := raw, capSeq := capSeq }

/-- The volume ID of a command. -/
def Cmd.volId (c : Cmd) : Nat := c.vol % 2 ^ 12

/-- The volume policy a command names. -/
def State.volOf (s : State) (c : Cmd) : Option VolPolicy := s.vol c.volId

/-- Whether the head is Mantle for a volume in its image (R32, R34). -/
def State.mantle (s : State) (v : VolPolicy) : Bool :=
  match s.prt.pair with
  | .lone => s.ftl.ready
  | .paired => s.ownerOf v.topUnit == s.head
  | _ => false

/-- The HEAD_ID of the head that is Mantle for a volume, 0xFF where it is not known (R34, R186). -/
def State.mantleOf (s : State) (vol : Nat) : Nat :=
  match s.vol vol with
  | none => 0xFF
  | some v => match s.prt.pair with
    | .lone => if s.ftl.ready then s.head else 0xFF
    | .paired => s.ownerOf v.topUnit
    | _ => 0xFF

/-- Whether a claim round or a handover holds completions (R52, R452). -/
def State.inRound (s : State) : Bool := s.prt.round.isSome || s.prt.handover

/-- Whether a claim round holds the commands of a volume, or a handover does: a head's own volumes when it gives them, the partner's at a
handback (R451, R452). -/
def State.roundHolds (s : State) (vol : Nat) : Bool :=
  s.prt.round.isSome || (s.prt.handover && (s.prt.pair == .paired || s.volOwner (vol % 2 ^ 12) != s.head))

/-! ## Head messages and mirrored records -/

/-- A response (R176). -/
def responseMsg (c : Cmd) (status credit done detail result : Nat) (time : Word64) (extra : Bytes) : Bytes :=
  withMcrc ([0x80] ++ leBytes 1 status ++ leBytes 2 c.cid ++ leBytes 2 c.vol ++ leBytes 2 credit ++ leBytes 4 done
    ++ leBytes 4 detail ++ leBytes 8 result ++ leBytes 8 time.toNat ++ padTo 28 extra)

/-- A transfer-ready message (R176). -/
def transferReady (c : Cmd) (last read : Bool) (seq wkey wlen off : Nat) : Bytes :=
  withMcrc ([0x81] ++ leBytes 1 (b2n last + 2 * b2n read) ++ leBytes 2 c.cid ++ leBytes 2 c.vol ++ leBytes 2 seq
    ++ leBytes 4 wkey ++ leBytes 4 wlen ++ leBytes 8 off)

/-- A command record (R439). -/
def cmdRecord (c : Cmd) (cstate status : Nat) : Bytes :=
  withCrc (leBytes 3 c.qpn ++ leBytes 1 cstate ++ leBytes 2 c.cid ++ leBytes 2 c.vol ++ leBytes 8 c.acc ++ leBytes 4 c.capSeq
    ++ leBytes 1 c.op ++ leBytes 1 status ++ leBytes 2 c.named ++ leBytes 8 c.lba ++ leBytes 8 c.param ++ leBytes 4 c.take
    ++ leBytes 4 c.len ++ leBytes 4 c.hkey ++ leBytes 8 c.haddr)

/-- A window record (R439): WSTATE 1 named, 2 complete, 3 invalidated. -/
def winRecord (c : Cmd) (wstate i : Nat) (w : Window) : Bytes :=
  withCrc (leBytes 3 c.qpn ++ leBytes 1 wstate ++ leBytes 2 c.cid ++ leBytes 2 w.seq ++ leBytes 4 (winKey i w)
    ++ leBytes 4 w.wlen ++ leBytes 8 w.off ++ [0, 0, 0, 0])

/-- Mirror a command's state to the partner (R439). -/
def mirrorCmd (c : Cmd) (cstate status : Nat) (s : State) : State :=
  mirror (plRecords 0x02 [cmdRecord c cstate status] .none) s

/-- Mirror a window's state to the partner (R439). -/
def mirrorWin (c : Cmd) (wstate i : Nat) (w : Window) (s : State) : State :=
  mirror (plRecords 0x03 [winRecord c wstate i w] .none) s

/-- Commands outstanding on a queue (R171). -/
def State.outstandingOn (s : State) (qpn : Nat) : List Cmd := s.cmd.cmds.filter fun c => c.qpn == qpn && !c.orphan

/-- CREDIT of a queue (R171). -/
def State.credit (s : State) (qpn : Nat) : Nat :=
  match s.ctxAt qpn with
  | some (_, c) => c.depth - (s.outstandingOn qpn).length
  | none => 0

/-- Send a head message on the queue of a connection number, if it still stands. -/
def sendOn (qpn : Nat) (msg : Bytes) (s : State) : State :=
  match s.ctxAt qpn with
  | some (i, _) => sendHead i msg s
  | none => s

/-- Answer a capsule that never became outstanding (R171, R185 check 1). -/
def reject (c : Cmd) (status : Nat) (s : State) : State :=
  sendOn c.qpn (responseMsg c status (s.credit c.qpn) 0 0 0 s.time [])
    (s.onCmd fun u => { u with statCnt := tabUpdD status 0 (· + 1) u.statCnt })

/-! ## Orphans -/

/-- Orphan records the head holds (R196). -/
def orphanMax : Nat := 65536

/-- Keep an orphan record of a command that ended with a status; ORPHANS_RECORDED goes to the other queues of its host (R177,
R196). -/
def recordOrphan (c : Cmd) (status : Nat) (s : State) : State :=
  let (src, hid) := match tabGet (c.qpn % 2 ^ 18) s.qpc.ctx with
    | some x => (x.src, x.hostId)
    | none => (0, 0)
  let o : Orphan := { qpn := c.qpn, cid := c.cid, status := status, op := c.op, time := s.time, src := src, hostId := hid }
  let full := decide (orphanMax ≤ s.cmd.orphans.length)
  s.onCmd fun u =>
    { u with
      orphans := (if full then u.orphans.drop 1 else u.orphans) ++ [o]
      orphanDrop := if full then satInc u.orphanDrop else u.orphanDrop }

/-- ORPHANS_RECORDED for a queue (R177). -/
def orphansRaised (qpn : Nat) (s : State) : State := raise 0x0301 (qpn % 2 ^ 24) (.sameHostId (qpn % 2 ^ 18)) s

/-! ## The end of a command -/

/-- Mark an address newer under a command (R189 rule 1): blocks of earlier-accepted commands there are superseded, unless a view
accepted between the two still needs them (R463); earlier outstanding commands learn it. A superseded block that has no place
leaves at once. -/
def supersede (acc : Nat) (addr : BlkAddr) (s : State) : State :=
  let vol := addr.volume
  let viewed (a : Nat) : Bool := (s.rpl.snaps.any fun e => e.2.vol % 2 ^ 12 == vol && !e.2.releasing && !e.2.hold && decide (a ≤ e.2.acc ∧ e.2.acc < acc))
    || s.cmd.cmds.any fun c => c.op == 0x50 && c.volId == vol && decide (a ≤ c.acc ∧ c.acc < acc)
  let old := s.ing.buf.filter fun b => b.addr == addr && b.visible && decide (b.acc < acc) && !b.dead && !viewed b.acc
  let s1 := old.foldl (fun s b =>
    let s' := match b.ownRef with
      | some w => dropWord (s.volOwner vol) w s
      | none => s
    if b.place.isNone then leaveBlock b s' else onBuf b.acc b.num (fun b => { b with dead := true, ref := none }) s') s
  match addr with
  | .block _ lba => s1.onCmd fun u => { u with cmds := u.cmds.map fun c =>
      if (c.op = 0x02 ∨ c.op = 0x03) ∧ c.volId = vol ∧ c.acc < acc ∧ c.lba ≤ lba then { c with hidden := c.hidden ++ [lba - c.lba] } else c }
  | .frame .. => s1

/-- The sectors or strips a command reserved are given back (R338). -/
def unreserve (c : Cmd) (s : State) : State :=
  match s.volOf c with
  | some v => onTop v.topUnit (fun t => { t with reserved := tabDel c.acc t.reserved }) s
  | none => s

/-- A write's data takes effect (R189, R191, R338): its blocks become readable, or stay dead where a later command has already
replaced them; a frame enters its take. -/
def writeEffect (c : Cmd) (s : State) : State :=
  let s1 := unreserve c s
  let mine := s1.ing.buf.filter (·.acc == c.acc)
  let s2 := mine.foldl (fun s b =>
    if c.op = 0x02 ∧ c.hidden.contains b.num then
      if b.place.isNone then leaveBlock b (match b.ownRef with
        | some w => dropWord (s.volOwner c.volId) w s
        | none => s)
      else onBuf b.acc b.num (fun b => { b with visible := true, dead := true }) s
    else supersede c.acc b.addr (onBuf b.acc b.num (fun b => { b with visible := true }) s)) s1
  if c.op = 0x11 then
    onTake c.volId c.take (fun t =>
      let d := tabGetD c.acc {} t.drafts
      { t with
        frames := tabPut (c.lba % 2 ^ 40) { bytes := c.len, extents := d.extents, lens := d.lens, short := c.len % 4096 != 0 } t.frames
        pending := tabKeep (fun _ a => a != c.acc) t.pending
        drafts := tabDel c.acc t.drafts }) s2
  else s2

/-- What a failed or aborted command leaves undone (R186, R222): its data is dropped, here and at the partner (R53), its frame
index and its reservation are free again. -/
def failEffect (c : Cmd) (s : State) : State :=
  if c.takesData then
    let had := c.rxBytes ≠ 0 || (s.ing.frags.any fun f => f.acc == c.acc) || (s.ing.buf.any fun b => b.acc == c.acc)
    let s1 := dropData c.acc c.volId (unreserve c s)
    let s2 := if had ∨ c.named ≠ 0 then mirror (plControl 0x03 (leBytes 3 c.qpn ++ leBytes 2 c.cid)) s1 else s1
    if c.op = 0x11 then
      onTake c.volId c.take (fun t => { t with pending := tabKeep (fun _ a => a != c.acc) t.pending, drafts := tabDel c.acc t.drafts }) s2
    else s2
  else if c.op = 0x10 ∧ c.recorded then
    (logItem (s.volOwner c.volId) (.take c.volId c.take .deleted 0 0 0) (s.onFtl fun f => { f with takes := tabDel (c.volId, c.take) f.takes })).2
  else if c.op = 0x13 ∧ c.recorded then
    onTake c.volId c.take (fun t => if t.state = .sealing then { t with state := .open } else t) s
  else s

/-- Whether the end of a command must wait: a claim round or handover holds it (R52, R202, R452), the partner link's hold does
(R44), or an ABORT that names it is to answer first (R194). -/
def State.endBlocked (s : State) (c : Cmd) : Bool :=
  (s.roundHolds c.vol && (c.takesData || c.inRound)) || (s.prt.hold && c.takesData)
    || s.cmd.cmds.any fun a => a.op == 0x42 && (a.phase == .accepted || a.held.isSome) && !a.fence && a.qpn == c.qpn && decide (c.acc < a.acc)
      && a.param % 2 ^ 16 == c.cid && !a.orphan

/-- The queue pair number of what the head orders itself, which no connection has: a point made every REPL_PERIOD (R474). -/
def headQpn : Nat := 2 ^ 24

/-- End a command whose outcome is known: its effect, then its response, or its orphan record (R171, R186, R196). -/
def endCmd (c : Cmd) (st done detail result : Nat) (extra : Bytes) (s : State) : State :=
  let s1 := if st = 0 then (if c.takesData then writeEffect c s else s) else failEffect c s
  let s2 := s1.onCmd fun u =>
    { u with
      cmds := u.cmds.filter (·.acc ≠ c.acc)
      wins := u.wins.filter fun e => e.2.acc ≠ c.acc
      statCnt := if c.qpn = headQpn then u.statCnt else tabUpdD st 0 (· + 1) u.statCnt
      latMax := match c.finalAt with
        | some t => word (max u.latMax.toNat (satN 32 (s.since t * 20)))
        | none => u.latMax }
  let s3 := s2.onPar fun p => { p with jobs := p.jobs.filter fun j => match j.what with
    | .cmd a _ => a != c.acc
    | _ => true }
  let s4 := if c.qpn = headQpn then s3
    else if c.orphan then orphansRaised c.qpn (recordOrphan c st s3)
    else if c.op = 0x0F then s3
    else sendOn c.qpn (responseMsg c st (s3.credit c.qpn) done detail result s.time extra) s3
  if c.recorded then mirrorCmd c (if st = 0 then 3 else 4) st s4 else s4

/-- End a command that is over, if nothing holds its end. -/
def tryEnd (acc : Nat) (s : State) : State :=
  match s.cmdAt acc with
  | none => s
  | some c => match c.held with
    | none => s
    | some (st, done, detail, result, extra) => if s.endBlocked c then s else endCmd c st done detail result extra s

/-- A command is over with a status (R186). -/
def finish (acc st done detail result : Nat) (extra : Bytes) (s : State) : State :=
  tryEnd acc (chg acc (fun c => if c.held.isSome then c else { c with held := some (st, done, detail, result, extra), phase := .finishing }) s)

/-- Invalidate every window of a command (R193, R194). -/
def dropWindows (acc : Nat) (s : State) : State :=
  match s.cmdAt acc with
  | none => s
  | some c => (s.winsOf acc).foldl (fun s (i, w) => mirrorWin c 3 i w s)
      (s.onCmd fun u => { u with wins := u.wins.filter fun e => e.2.acc ≠ acc })

/-! ## Windows -/

/-- Window indices (R142). -/
def winIndices : Nat := 2 ^ 20

/-- The next free window index and the tag it takes (R142): the tag goes on from the index's last, never 0. -/
def State.nextWindow (s : State) : Option (Nat × Nat) :=
  match (List.range (s.cmd.wins.length + 1)).find? fun k =>
      let i := (s.cmd.nextWin + k) % winIndices
      !tabHas i s.cmd.wins && !tabHas (i + winIndices) s.cmd.wins with
  | none => none
  | some k =>
    let i := (s.cmd.nextWin + k) % winIndices
    if winIndices ≤ s.cmd.wins.length then none
    else
      let t := (tabGetD i 0 s.cmd.tags + 1) % 2 ^ 12
      some (i, if t = 0 then 1 else t)

/-- LOT trackers and bitmap words that open write windows hold (R138). -/
def State.trackersUsed (s : State) : Nat × Nat :=
  let lot (acc : Nat) : Bool := match s.cmdAt acc with
    | some c => match s.ctxAt c.qpn with
      | some (_, x) => x.lot
      | none => false
    | none => false
  s.cmd.wins.foldl (fun a e =>
    if lot e.2.acc && !e.2.readPerm && !e.2.complete then (a.1 + 1, a.2 + ceilDiv (ceilDiv e.2.wlen 4096) 64) else a) (0, 0)

/-- Whether AL-GC spaces the transfer-ready messages of a unit (R43, R340). -/
def State.paced (s : State) (top : Nat) : Bool := (s.top top).mode == .urgent

/-- Whether a reason in CMD_TR_HOLD keeps every window of a volume from being named (R180, R206, R340); the pace of AL-GC is not
among them: it spaces the messages. -/
def State.trHeld (s : State) (v : VolPolicy) : Bool :=
  s.pwr.hold || s.prt.hold || s.roundHolds v.vol || s.cmd.holdDirty || s.cmd.holdShare.contains (v.vol % 2 ^ 12)
    || (s.top v.topUnit).mode == .floor

/-- Open windows of a command: named and not complete. -/
def State.openWins (s : State) (acc : Nat) : Nat := (s.winsOf acc).countP fun e => !e.2.complete

/-- Put a window at an index and tell the host of it (R142, R179, R439). -/
def openWindow (c : Cmd) (i : Nat) (w : Window) (s : State) : State :=
  let s1 := s.onCmd fun u =>
    { u with wins := tabPut i w u.wins, tags := tabPut i w.tag u.tags, nextWin := (i + 1) % winIndices }
  let s2 := chg c.acc (fun c => { c with named := c.named + 1, namedBytes := c.namedBytes + w.wlen, phase := .moving }) s1
  sendOn c.qpn (transferReady c w.last w.readPerm w.seq (winKey i w) w.wlen w.off) (mirrorWin c 1 i w s2)

/-- Name the next write window of a command if it has one, TR_PER_CMD lets it, and nothing holds it (R179, R180, R227, R228, R230,
R138). -/
def nameWindow (acc : Nat) (s : State) : State :=
  match s.cmdAt acc with
  | none => s
  | some c => match s.volOf c, s.ctxAt c.qpn, s.nextWindow with
    | some v, some (_, x), some (i, tag) =>
      let left := c.len - c.namedBytes
      if left = 0 ∨ c.fail.isSome ∨ c.held.isSome ∨ s.param P.trPerCmd ≤ s.openWins acc ∨ s.trHeld v then s
      else
        let wlen := min (s.param P.trWindowMax) left
        let n := ceilDiv wlen 4096
        let dirtyFull := decide (s.dirtyMax < s.dirtyNow + n)
        let shareFull := decide (s.shareMax c.volId < tabGetD c.volId 0 s.ing.dirty + n)
        let trk := s.trackersUsed
        let noTrk := x.lot && (decide (65536 ≤ trk.1) || decide (262144 < trk.2 + ceilDiv n 64))
        if dirtyFull then s.onCmd fun u => { u with holdDirty := true }
        else if shareFull then s.onCmd fun u => { u with holdShare := if u.holdShare.contains c.volId then u.holdShare else u.holdShare ++ [c.volId] }
        else if noTrk then s
        else
          let u := if x.lot then 4096 else s.param P.pmtu
          let segs := ceilDiv wlen u
          let w : Window := { tag := tag, acc := acc, seq := c.named, wlen := wlen, off := c.namedBytes, last := wlen == left, reserved := segs }
          openWindow c i w (dirtyAdd acc c.volId n (s.onIng fun g => { g with budget := tabPut (acc, c.named) (32 * segs) g.budget }))
    | _, _, _ => s

/-- Name as many windows as TR_PER_CMD and the holds allow; `fuel` bounds them. A paced unit's windows wait for
TRANSFER_READY_SEND (R340). -/
def nameWindows (acc : Nat) : Nat → State → State
  | 0, s => s
  | fuel + 1, s =>
    match s.cmdAt acc with
    | none => s
    | some c =>
      let pace := match s.volOf c with
        | some v => s.paced v.topUnit
        | none => false
      if pace then s
      else
        let s1 := nameWindow acc s
        if (s1.winsOf acc).length = (s.winsOf acc).length then s1 else nameWindows acc fuel s1

/-- A write window completes: its completion flag is accepted, or its LOT message is complete (R181). With the last one, the
command's final data is in (R36 A3, A4). -/
def windowDone (i : Nat) (s : State) : State :=
  match tabGet i s.cmd.wins with
  | none => s
  | some w => match s.cmdAt w.acc with
    | none => s
    | some c =>
      let good := w.placed = w.wlen ∧ ¬ w.beyond
      let s1 := chg c.acc (fun c => { c with closedWins := c.closedWins + 1, rxBytes := c.rxBytes + w.placed })
        (mirrorWin c 2 i w (onWin i (fun w => { w with complete := true }) s))
      let s2 := if good then s1 else failCmd c.acc 0x10 0 0 s1
      let final := decide (c.namedBytes = c.len) && decide (c.closedWins + 1 = c.named)
      if final then
        let conf := match s.ctxAt c.qpn with
          | some (_, x) => x.ckptSeq + 1
          | none => 0
        let s3 := chg c.acc (fun c => { c with phase := .finishing, needCkpt := some conf, finalAt := some s.time }) s2
        if good ∧ c.fail.isNone then mirrorCmd c 2 0 s3 else s3
      else s2

/-! ## Conditions of a write -/

/-- Whether every window a command has named is complete. -/
def State.allComplete (s : State) (acc : Nat) : Bool := (s.winsOf acc).all fun e => e.2.complete

/-- Whether the conditions of R36, or in the Lone state those of R38, hold for a write. -/
def State.writeReady (s : State) (c : Cmd) : Bool :=
  let a1 := if c.op = 0x59 then !c.blocksIn.isEmpty else decide (c.blocksIn.length = c.blocks)
  let a4 := c.namedBytes == c.len && s.allComplete c.acc && c.rxBytes == c.len
  match s.prt.pair with
  | .paired =>
    let conf := match s.ctxAt c.qpn with
      | some (_, x) => x.ckptConf
      | none => 0
    a1 && a4 && c.segsOwed.isEmpty && decide ((c.needCkpt.getD 0) ≤ conf)
  | .lone => a1 && a4 && s.ing.buf.all fun b => b.acc != c.acc || b.programmed || b.ref.isSome
  | _ => false

/-- Look at a write: complete it when its conditions hold, or end it once its failure is known and its windows are over (R36, R38,
R192). -/
def checkWrite (acc : Nat) (s : State) : State :=
  match s.cmdAt acc with
  | none => s
  | some c =>
    if c.held.isSome then s
    else match c.fail with
      | some (st, detail, result) =>
        if s.allComplete acc then finish acc st c.rxBytes (if st = 0x10 then c.rxBytes else detail) result [] s else s
      | none => if c.phase = .finishing ∧ s.writeReady c then finish acc 0 c.rxBytes 0 0 [] s else s

/-! ## Reading -/

/-- Where a block of a read comes from (R184). -/
inductive Src where
  /-- verified bytes: a read hit, or zeros of a block that holds none -/
  | bytes (b : Bytes)
  /-- a media form on the sleds: its page groups, first sector, sectors -/
  | form (want : List PgAddr) (sec cnt : Nat)
  /-- a buffered block under repair (R240) -/
  | waits
  | fails (stage : Option Nat)
  | noKey
deriving DecidableEq, Repr

/-- The page groups of a media form that may go on in the next strip of its row (R292, R297). -/
def State.formPages (s : State) (a : PgAddr) (sec cnt : Nat) : List PgAddr :=
  if sec + cnt ≤ 128 then [a]
  else
    let mem := s.memR a.seg a.row
    match s.stripAt mem a.top a.seg a.row a.die with
    | none => [a]
    | some t => match s.stripDie mem a.top a.seg a.row (t + 1) with
      | some d => [a, { a with die := d }]
      | none => [a]

/-- The source of a block by its map word (R329, R330): an unmapped one reads as zeros (R175). -/
def State.srcOfWord (s : State) (top w : Nat) : Src :=
  if wordKind w = 0 then .bytes (List.replicate 4096 0)
  else if wordKind w = 3 then .fails none
  else match s.direct w with
    | none => .fails none
    | some d => match s.wordAt top d with
      | none => .fails none
      | some (a, sec, cnt) => .form (s.formPages a sec cnt) sec cnt

/-- The newest readable buffered block of an address that a command of acceptance number below `bound` wrote (R184, R189). -/
def State.newestBuf (s : State) (addr : BlkAddr) (bound : Nat) : Option BufBlk :=
  (s.ing.buf.filter fun b => b.addr == addr && b.visible && !b.dead && decide (b.acc < bound)).foldl (fun a b => match a with
    | some x => if x.acc ≤ b.acc then some b else some x
    | none => some b) none

/-- A read hit (R184): the buffered media form decrypted, expanded and checked (R220, R221). -/
def State.srcOfBuf (s : State) (v : VolPolicy) (b : BufBlk) : Src :=
  if b.repair.isSome then .waits
  else match b.ref with
    | some w => s.srcOfWord v.topUnit w
    | none => match s.openForm v b.addr.takeId b.tag b.sectors with
      | .plain p => .bytes p
      | .fault _ => .fails (some 0x13)
      | .noKey => .noKey

/-- The source of a block of a block volume (R184). -/
def State.srcOfBlock (s : State) (v : VolPolicy) (lba : Nat) : Src :=
  match s.newestBuf (.block (v.vol % 2 ^ 12) lba) (2 ^ 64) with
  | some b => s.srcOfBuf v b
  | none => s.srcOfWord v.topUnit (s.mapWord (v.vol % 2 ^ 12) lba)

/-- The page group of a strip of a take's strip space (R299): its tree rows in the order the take received them. -/
def State.takeStrip (s : State) (top : Nat) (tk : Take) (strip : Nat) : Option PgAddr :=
  let T := max 1 (s.rowStrips top)
  let go := tk.segs.foldl (fun (acc : Nat × Option (Nat × Nat)) e =>
    match acc.2 with
    | some _ => acc
    | none => if strip / T < acc.1 + e.2.2 then (acc.1, some (e.1, e.2.1 + (strip / T - acc.1))) else (acc.1 + e.2.2, none)) (0, none)
  match go.2 with
  | none => none
  | some (m, r) => (s.stripDie (s.memR m r) top m r (strip % T)).map fun d => { top := top, seg := m, row := r, die := d }

/-- The strip at index `k` of a frame, through its extents (R300). -/
def Frame.stripAt (f : Frame) (k : Nat) : Option Nat :=
  (f.extents.foldl (fun (acc : Nat × Option Nat) e => match acc.2 with
    | some _ => acc
    | none => if k < acc.1 + e.2 then (acc.1, some (e.1 + (k - acc.1))) else (acc.1 + e.2, none)) (0, none)).2

/-- The source of a block of a stored frame (R184, R299, R300). -/
def State.srcOfFrame (s : State) (v : VolPolicy) (take frame : Nat) (tk : Take) (f : Frame) (blk : Nat) : Src :=
  match s.newestBuf (.frame (v.vol % 2 ^ 12) take frame blk) (2 ^ 64) with
  | some b => s.srcOfBuf v b
  | none =>
    let off := (f.lens.take blk).foldl (· + ·) 0
    let cnt := f.lens.getD blk 1
    let sec := off % 128
    match (f.stripAt (off / 128)).bind (s.takeStrip v.topUnit tk) with
    | none => .fails none
    | some a =>
      if sec + cnt ≤ 128 then .form [a] sec cnt
      else match (f.stripAt (off / 128 + 1)).bind (s.takeStrip v.topUnit tk) with
        | none => .fails none
        | some b => .form [a, b] sec cnt

/-- Begin a read of the blocks that sources name: hits and zeros are there at once, the others are read from the sleds (R184). -/
def startReads (acc : Nat) (srcs : List Src) (s : State) : State :=
  let s1 := chg acc (fun c =>
    { c with phase := .moving, reads := srcs.map fun x => match x with
      | .bytes b => .ready b
      | .form .. => .pending
      | .waits => .pending
      | .fails st => .failed st
      | .noKey => .noKey }) s
  srcs.zipIdx.foldl (fun s (x, i) => match x with
    | .form want sec cnt => startJob (.cmd acc i) want sec cnt s
    | _ => s) s1

/-- A read hit is counted (R206 CMD_HIT). -/
def countHits (n : Nat) (s : State) : State := s.onCmd fun u => { u with hits := u.hits + BitVec.ofNat 64 n }

/-- Whether a command reads blocks for a host. -/
def Cmd.isRead (c : Cmd) : Bool := c.op == 0x01 || c.op == 0x12 || c.op == 0x52 || c.op == 0x53

/-- The bytes a read wants of a block: every one, or fewer in the last block of a frame. -/
def Cmd.wanted (c : Cmd) (i : Nat) (b : Bytes) : Bytes := b.take (c.len - i * 4096)

/-- Send bytes to the host at an offset from HADDR (R182): an RDMA WRITE message in packets of the path MTU, or a LOT DATA message; the
run's outbound record goes first (R440). -/
def sendData (c : Cmd) (off : Nat) (data : Bytes) (s : State) : State :=
  match s.ctxAt c.qpn with
  | none => s
  | some (idx, x) =>
    let mtu := if x.lot then 4096 else max 256 (s.param P.pmtu)
    let parts := chunks mtu (data.length + 1) data
    let n := parts.length
    let s1 := mirror (plRecords 0x04 [outRecord c.qpn 2 x.txNext n c.cid []] .none) s
    (parts.zipIdx).foldl (fun s (d, k) =>
      let at_ := c.haddr + off + k * mtu
      let body : OutBody :=
        if x.lot then .data data.length c.hkey at_ d (decide (k + 1 = n))
        else .write (if n = 1 then .only else if k = 0 then .first else if k + 1 = n then .last else .middle) c.hkey at_ d
      ctxSend idx body (decide (k + 1 = n)) s) s1

/-- Send every block of a read whose turn it is, in ascending order (R182); `fuel` bounds them. -/
def sendReady (acc : Nat) : Nat → State → State
  | 0, s => s
  | fuel + 1, s =>
    match s.cmdAt acc with
    | none => s
    | some c =>
      match findIdxFrom (fun r => match r with
        | .pending | .ready _ => true
        | _ => false) 0 c.reads with
      | some (i, .ready b) =>
        let d := c.wanted i b
        let s1 := sendData c (i * 4096) d s
        sendReady acc fuel (chg acc (fun c => { c with reads := c.reads.set i .sent, sentBytes := c.sentBytes + d.length }) s1)
      | _ => s

/-- How a read ends (R186, R187, R269): SUCCESS, or the status of the first block not sent, with the blocks not sent of that kind. -/
def readOutcome (reads : List RdState) : Nat × Nat × Nat :=
  match findIdxFrom (fun r => match r with
    | .failed _ => true
    | _ => false) 0 reads with
  | some (i, .failed (some st)) =>
    (0x19, st + 2 ^ 8 * reads.countP (fun r => match r with
      | .failed (some _) => true
      | _ => false), i * 4096)
  | some (i, _) => (0x1A, reads.countP (fun r => match r with
      | .failed none => true
      | _ => false), i * 4096)
  | none => (0, 0, 0)

/-- Runs of verified blocks that pull windows cover: offset and length (R183, R187). -/
def pullRuns (c : Cmd) (max : Nat) : List (Nat × Nat) :=
  (c.reads.zipIdx.foldl (fun (acc : List (Nat × Nat)) e => match e.1 with
    | .ready b =>
      let n := (c.wanted e.2 b).length
      match acc.getLast? with
      | some (o, l) => if o + l = e.2 * 4096 ∧ l + n ≤ max then acc.dropLast ++ [(o, l + n)] else acc ++ [(e.2 * 4096, n)]
      | none => [(e.2 * 4096, n)]
    | _ => acc) [])

/-- Name the pull windows of a read that are due (R183); `fuel` bounds them. Nothing is named before every block is settled, so that
LAST can be set (DESIGN CHOICE, log entry 13). -/
def pullWindows (acc : Nat) : Nat → State → State
  | 0, s => s
  | fuel + 1, s =>
    match s.cmdAt acc with
    | none => s
    | some c =>
      let runs := pullRuns c (s.param P.trWindowMax)
      match runs[c.named]?, s.nextWindow with
      | some (o, n), some (i, tag) =>
        if s.param P.trPerCmd ≤ (s.winsOf acc).length ∨ c.held.isSome then s
        else pullWindows acc fuel (openWindow c i
          { tag := tag, acc := acc, seq := c.named, wlen := n, off := o, readPerm := true, last := decide (c.named + 1 = runs.length) } s)
      | _, _ => s

/-- Look at a read: send what is ready, and end it when nothing is left (R182, R183, R187). -/
def checkRead (acc : Nat) (s : State) : State :=
  match s.cmdAt acc with
  | none => s
  | some c =>
    if c.held.isSome ∨ c.phase ≠ .moving then s
    else if c.reads.any (· == .noKey) then
      let slot := ((s.volOf c).map (·.keySlot)).getD 0
      finish acc 0x0B c.sentBytes slot 0 [] (dropWindows acc s)
    else if c.pull then
      if c.reads.any (· == .pending) then s
      else
        let s1 := pullWindows acc (s.param P.trPerCmd) s
        match s1.cmdAt acc with
        | none => s1
        | some c =>
          if c.closedWins = (pullRuns c (s.param P.trWindowMax)).length then
            let (st, detail, result) := readOutcome c.reads
            finish acc st c.sentBytes detail result [] s1
          else s1
    else
      let s1 := sendReady acc (c.reads.length + 1) s
      match s1.cmdAt acc with
      | none => s1
      | some c =>
        if c.reads.any fun r => match r with
          | .pending | .ready _ => true
          | _ => false then s1
        else
          let (st, detail, result) := readOutcome c.reads
          finish acc st c.sentBytes detail result [] s1

/-- A block of a read has come from the sleds, or cannot (R220, R223). -/
def readBlock (acc i : Nat) (r : RdState) (s : State) : State :=
  chg acc (fun c => { c with reads := c.reads.modify i fun x => if x = .pending then r else x }) s

/-- Send records as the data of a command that has no blocks (R197, R470), then end it. -/
def sendRecords (acc : Nat) (data : Bytes) (s : State) : State :=
  match s.cmdAt acc with
  | none => s
  | some c =>
    let s1 := (chunks 4096 (data.length + 1) data).zipIdx.foldl (fun s (d, k) => sendData c (k * 4096) d s) s
    finish acc 0 data.length 0 0 [] s1

end Sys2Proof.Machine
end

