-- ==== Sys2Proof/Machine/Snaps.lean ====
section
/-! DEFINITION. Snapshots and take holds (R463 to R469): the catalogue, the views, and freeing what no take or hold keeps (R301,
R468). -/

namespace Sys2Proof.Machine

/-- A snapshot record's 32 bytes (R469); SSTATE is 2 for a deleted one. -/
def Snap.record (e : Snap) (slot : Nat) (deleted : Bool) : Bytes :=
  withCrc (leBytes 2 e.vol ++ leBytes 2 e.snap ++ leBytes 2 slot ++ leBytes 1 e.kind
    ++ leBytes 1 (if deleted then 2 else b2n e.releasing) ++ leBytes 4 e.sseq ++ leBytes 4 e.take ++ leBytes 8 e.created.toNat
    ++ leBytes 4 e.point)

/-- A snapshot from its record: SLOT, SSTATE, snapshot (R469). -/
def snapOf (b : Bytes) : Nat × Nat × Snap :=
  (fieldLe b 4 2, fieldLe b 7 1, {
    vol := fieldLe b 0 2, snap := fieldLe b 2 2, kind := fieldLe b 6 1, releasing := fieldLe b 7 1 == 1, sseq := fieldLe b 8 4
    take := fieldLe b 12 4, hold := fieldLe b 6 1 == 1, created := BitVec.ofNat 64 (fieldLe b 16 8), point := fieldLe b 24 4 })

/-- Live records of a volume. -/
def State.snapsOf (s : State) (vol : Nat) : List (Nat × Snap) :=
  s.rpl.snaps.filter fun e => e.2.vol % 2 ^ 12 == vol && !e.2.releasing

/-- A volume's host snapshot by its SNAP. -/
def State.hostSnap (s : State) (vol snap : Nat) : Option (Nat × Snap) :=
  (s.snapsOf vol).find? fun e => e.2.snap == snap && decide (e.2.kind ≤ 1)

/-- A free SLOT, 1 to 4,095 (R469): head 0 takes the lowest, head 1 the highest (DESIGN CHOICE, log entry 20). -/
def State.freeSlot9 (s : State) : Option Nat :=
  if 4095 ≤ s.rpl.snaps.length then none
  else (List.range (s.rpl.snaps.length + 1)).map (fun i => if s.head = 0 then i + 1 else 4095 - i) |>.find? fun i => !tabHas i s.rpl.snaps

/-- Put a record into the catalogue and the map log (R469). It answers with the LOG_SEQ. -/
def putSnap (slot : Nat) (e : Snap) (s : State) : Nat × State :=
  logItem (s.volOwner e.vol) (.snap slot (e.record slot false)) (s.onRpl fun r => { r with snaps := tabPut slot e r.snaps })

/-- Remove a record (R469, SSTATE deleted). -/
def dropSnap (slot : Nat) (s : State) : Nat × State :=
  match tabGet slot s.rpl.snaps with
  | none => (0, s)
  | some e => logItem (s.volOwner e.vol) (.snap slot (e.record slot true)) (s.onRpl fun r => { r with snaps := tabDel slot r.snaps })

/-- Create a record of a volume: SSEQ rises by one (R464). It answers with the SLOT and the LOG_SEQ; none while no SLOT is free. -/
def addSnap (vol snap kind take point acc : Nat) (hold : Bool) (s : State) : Option (Nat × Nat × State) :=
  match s.freeSlot9 with
  | none => none
  | some slot =>
    let q := tabGetD (vol % 2 ^ 12) 0 s.rpl.sseq + 1
    let e : Snap := { vol := vol, snap := snap, kind := kind, sseq := q, take := take, hold := hold, created := s.time, point := point, acc := acc }
    let (l, s1) := putSnap slot e (s.onRpl fun r => { r with sseq := tabPut (vol % 2 ^ 12) q r.sseq })
    some (slot, l, s1)

/-! ## Views -/

/-- The word of a logical block in a snapshot's view (R465): its own preserved copy, that of the nearest newer one, or the volume's
current page. -/
def State.viewWord (s : State) (e : Snap) (lba : Nat) : Nat :=
  let vol := e.vol % 2 ^ 12
  let newer := (s.rpl.snaps.filter fun x => x.2.vol % 2 ^ 12 == vol && decide (e.sseq ≤ x.2.sseq) && tabHas (x.1, lba / pageWords) s.rpl.pages)
  let near := newer.foldl (fun (a : Option (Nat × Snap)) x => match a with
    | some y => if x.2.sseq < y.2.sseq then some x else some y
    | none => some x) none
  match near with
  | some (slot, _) => (tabGetD (slot, lba / pageWords) [] s.rpl.pages).getD (lba % pageWords) 0
  | none => s.mapWord vol lba

/-- The source of a block in a snapshot's view (R463, R465): a buffered block of a write accepted before the snapshot, else the
view's word. -/
def State.srcOfView (s : State) (v : VolPolicy) (e : Snap) (lba : Nat) : Src :=
  match s.newestBuf (.block (v.vol % 2 ^ 12) lba) e.acc with
  | some b => s.srcOfBuf v b
  | none => s.srcOfWord v.topUnit (s.viewWord e lba)

/-! ## Releasing preserved pages -/

/-- Let go of the shared words of a released page (R467). -/
def releaseWords (h : Nat) (ws : List Nat) (s : State) : State :=
  ws.foldl (fun s w => if wordKind w = 1 then shareDrop h (bitsAt w 2 32) s else s) s

/-- Release one preserved page of a snapshot that is being released: it passes to the next older snapshot if that has no copy of
the page, else its shared words are let go (R467). With its last page the record is deleted. -/
def releasePage (slot page : Nat) (s : State) : State :=
  match tabGet slot s.rpl.snaps, tabGet (slot, page) s.rpl.pages with
  | some e, some ws =>
    if ¬ e.releasing then s
    else
      let vol := e.vol % 2 ^ 12
      let older := (s.snapsOf vol).filter fun x => !x.2.hold && decide (x.2.sseq < e.sseq)
      let next := older.foldl (fun (a : Option (Nat × Snap)) x => match a with
        | some y => if y.2.sseq < x.2.sseq then some x else some y
        | none => some x) none
      let h := s.volOwner vol
      let s1 := s.onRpl fun r => { r with pages := tabDel (slot, page) r.pages }
      let s2 := match next with
        | some (sl, _) =>
          if tabHas (sl, page) s1.rpl.pages then releaseWords h ws s1
          else (logItem h (.page vol sl page ws) (s1.onRpl fun r => { r with pages := tabPut (sl, page) ws r.pages })).2
        | none => releaseWords h ws s1
      if s2.rpl.pages.any fun x => x.1.1 == slot then s2 else (dropSnap slot s2).2
  | _, _ => s

/-- Whether a record holds a take (R468, R475). -/
def Snap.holds (e : Snap) (vol take : Nat) : Bool := e.vol % 2 ^ 12 == vol && e.take == take && e.hold

/-- Free the tree rows of a take that is gone from its volume and that nothing holds: its segments are trimmed once no row of a
take that still exists lies in them (R301). -/
def freeRows (top vol t : Nat) (tk : Take) (s : State) : State :=
  let segs := nubNat (tk.segs.map (·.1))
  segs.foldl (fun s m =>
    let n := tk.segs.foldl (fun a e => if e.1 = m then a + e.2.2 else a) 0
    let s1 := onSeg top m (fun g =>
      { g with rowsOf := (g.rowsOf.map fun e => if e.1 = vol ∧ e.2.1 = t then (e.1, e.2.1, e.2.2 - n) else e).filter fun e => e.2.2 != 0 }) s
    let g := s1.seg top m
    let mine := g.state = .open ∧ g.take = some (vol, t)
    if g.rowsOf = [] ∧ (mine ∨ g.state = .full ∨ g.state = .part) then trimSegment top m s1
    else if mine then onSeg top m (fun g => { g with state := .part, take := none }) s1
    else s1) s

/-- A segment a take holds and has programmed nothing in is free of it (R301). -/
def dropOpenSeg (top vol t : Nat) (s : State) : State :=
  match (s.segsOf top).find? fun e => e.2.take == some (vol, t) && e.2.state == .open with
  | some (m, g) => if g.rowsOf = [] then trimSegment top m s else onSeg top m (fun g => { g with state := .part, take := none }) s
  | none => s

/-- Remove a take from its volume (R191 rule 4): what a record holds stays readable until the hold ends (R468). It answers with
the LOG_SEQ of the change. -/
def deleteTake (v : VolPolicy) (t : Nat) (s : State) : Nat × State :=
  let vol := v.vol % 2 ^ 12
  match s.take vol t with
  | none => (0, s)
  | some tk =>
    let hs := s.rpl.snaps.filter fun e => e.2.holds vol t
    let gone := s.ing.buf.filter fun b => match b.addr with
      | .frame x y _ _ => x == vol && y == t
      | .block .. => false
    let s1 := s.onFtl fun f => { f with takes := tabDel (vol, t) f.takes }
    let s2 := hs.foldl (fun s e => s.onRpl fun r => { r with heldTakes := tabPut (vol, t, e.1) tk r.heldTakes }) s1
    let s3 := if hs = [] then gone.foldl (fun s b => leaveBlock b s) s2 else s2
    let s4 := if hs = [] then dropOpenSeg v.topUnit vol t (freeRows v.topUnit vol t tk s3) else s3
    logItem (s.volOwner vol) (.take vol t .deleted 0 0 0) s4

/-- A hold on a take ends (R467, R468): with the last hold on a deleted take, its rows are free. -/
def endHold (slot : Nat) (s : State) : Nat × State :=
  match tabGet slot s.rpl.snaps with
  | none => (0, s)
  | some e =>
    let vol := e.vol % 2 ^ 12
    let (q, s1) := dropSnap slot s
    match tabGet (vol, e.take, slot) s.rpl.heldTakes, s.vol vol with
    | some tk, some v =>
      let s2 := s1.onRpl fun r => { r with heldTakes := tabDel (vol, e.take, slot) r.heldTakes }
      let more := s2.rpl.heldTakes.any fun x => x.1.1 == vol && x.1.2.1 == e.take && x.2.segs == tk.segs
      (q, if more then s2 else freeRows v.topUnit vol e.take tk s2)
    | _, _ => (q, s1)

/-- Delete a record (R467): a take hold ends at once; a block view's pages are released one by one. It answers with the LOG_SEQ. -/
def deleteSnap (slot : Nat) (s : State) : Nat × State :=
  match tabGet slot s.rpl.snaps with
  | none => (0, s)
  | some e =>
    if e.hold then endHold slot s
    else if s.rpl.pages.any fun x => x.1.1 == slot then putSnap slot { e with releasing := true } s
    else dropSnap slot s

/-- The take a record holds, still in the volume or deleted from it (R468). -/
def State.heldTake (s : State) (slot : Nat) (e : Snap) : Option Take :=
  match tabGet (e.vol % 2 ^ 12, e.take, slot) s.rpl.heldTakes with
  | some tk => some tk
  | none => s.take (e.vol % 2 ^ 12) e.take

end Sys2Proof.Machine
end

