-- ==== Sys2Proof/Machine/Repl.lean ====
section
/-! DEFINITION. Replication (R472 to R480): roles, the source's session and points, building messages and chunks, and what a
replica does with a chunk. -/

namespace Sys2Proof.Machine

/-! ## Roles and targets -/

/-- REPL_TGT_CFG of a target (R473). -/
def State.tgtCfg (s : State) (t : Nat) : Nat := s.param (0x0E20 + t)

/-- The role of a volume in replication (R472). -/
inductive Role where
  | none
  | source (target : Nat)
  | replica (target : Nat)
deriving DecidableEq, Repr

/-- The role of a volume (R472). -/
def State.role (s : State) (v : VolPolicy) : Role :=
  if 16 ≤ v.replTarget then .none
  else if bitAt (s.tgtCfg v.replTarget) 1 then .replica v.replTarget
  else if v.replicate then .source v.replTarget else .none

/-- The GCM key of a target's slot while it is usable (R473, R477). -/
def State.tgtKey (s : State) (t : Nat) : Option Bytes := s.slotKey (bitsAt (s.tgtCfg t) 2 10) 2

/-- Whether a volume is a replica that has not been promoted (R472, R480). -/
def State.isReplica (s : State) (v : VolPolicy) : Bool :=
  match s.role v with
  | .replica _ => !(tabGetD (v.vol % 2 ^ 12) {} s.rpl.replicas).promoted
  | _ => false

/-- A source volume's state. -/
def State.source (s : State) (vol : Nat) : Source := tabGetD vol {} s.rpl.sources

/-- Change a source volume's state. -/
def onSource (vol : Nat) (f : Source → Source) (s : State) : State :=
  s.onRpl fun r => { r with sources := tabUpdD vol {} f r.sources }

/-- Change a replica volume's state. -/
def onReplica (vol : Nat) (f : Replica → Replica) (s : State) : State :=
  s.onRpl fun r => { r with replicas := tabUpdD vol {} f r.replicas }

/-- A target's state. -/
def State.target (s : State) (t : Nat) : Target16 := tabGetD t {} s.rpl.targets

/-- Change a target's state. -/
def onTarget (t : Nat) (f : Target16 → Target16) (s : State) : State :=
  s.onRpl fun r => { r with targets := tabUpdD t {} f r.targets }

/-- The volumes of a target that this head is Mantle for and that are sources. -/
def State.sourcesOf (s : State) (t : Nat) : List VolPolicy :=
  match s.cfg.img with
  | none => []
  | some i => i.vols.filter fun v => s.role v == .source t && s.mantle v

/-! ## Connections -/

/-- An IPv4 address written as an IPv4-mapped IPv6 address (R135). -/
def mapped4 (ip : Nat) : Nat := 0xFFFF * 2 ^ 32 + ip

/-- This head's own host addresses, at most four, as a LOT OPEN names them (R135); IPv4 where an entry has it. -/
def State.ownAddrs (s : State) : List Nat :=
  match s.cfg.img with
  | none => []
  | some i => ((i.addrs.filter fun a => a.head == s.head && (a.v4ok || a.v6ok)).map fun a => if a.v4ok then mapped4 a.ipv4 else a.ipv6).take 4

/-- A free context index and its next generation (R146): head 0 takes the lowest, head 1 the highest, so that a context taken over keeps
its number (DESIGN CHOICE, log entry 20). -/
def State.freeCtx (s : State) : Option (Nat × Nat) :=
  let n := s.param P.qpMax
  match ((List.range (min n (s.qpc.ctx.length + 1))).map fun i => if s.head = 0 then i else n - 1 - i).find? fun i => !tabHas i s.qpc.ctx with
  | some i => let g := (tabGetD i 0 s.qpc.gens + 1) % 64
      some (i, if g = 0 then 1 else g)
  | none => none

/-- Put a new context at an index (R146). -/
def addCtx (i : Nat) (c : Ctx) (s : State) : State :=
  s.onQpc fun q => { q with ctx := tabPut i c q.ctx, gens := tabPut i c.gen q.gens, cache := q.cache ++ [(i, true)] }

/-- A LOT OPEN or OPEN_REPLY body (R135): the sender's connection number and status, its first numbers, its addresses, the Munatra
connect parameters. -/
def lotOpenBody (conn status pkt0 msg0 : Nat) (addrs : List Nat) (munatra : Bytes) : Bytes :=
  leBytes 4 (conn % 2 ^ 24 + status * 2 ^ 24) ++ leBytes 4 pkt0 ++ leBytes 4 msg0 ++ leBytes 4 addrs.length
    ++ padTo 64 (addrs.flatMap (leBytes 16)) ++ padTo 8 munatra

/-- Open the LOT connection of an outbound target (R473): OPEN goes to the peer's head, and is repeated under the retry timer. -/
def openTarget (t : Nat) (s : State) : State :=
  let cfg := s.tgtCfg t
  if ¬ bitAt cfg 0 ∨ bitAt cfg 1 ∨ (s.target t).conn.isSome ∨ s.sourcesOf t = [] then s
  else match s.freeCtx with
    | none => s
    | some (i, g) =>
      let dst := mapped4 (bitsAt (s.param (0x0E10 + t)) (32 * (s.target t).peerHead) 32)
      let body := lotOpenBody (g * 2 ^ 18 + i) 0 0 0 s.ownAddrs ([1, 0] ++ leBytes 2 (s.param P.qdepthMax))
      let p : OutPkt := { num := 0, msg := 0, body := .lotOpen body, sub := s.lotSub.getD 0 }
      let c : Ctx := { gen := g, state := .connecting, lot := true, src := dst, addrs := [dst], depth := s.param P.qdepthMax
                       sent := [p], timeout := s.param P.retryTimeoutInit, replTarget := some t }
      transmit c p false (onTarget t (fun x => { x with conn := some i, ready := false }) (addCtx i c s))

/-- Open the connections of every outbound target with a source volume of which this head is Mantle (R473). -/
def openTargets (s : State) : State := (List.range 16).foldl (fun s t => openTarget t s) s

/-- Everything a source has under way on a connection that ended (R479): it goes on from what the target reports. -/
def sessionEnd (t : Nat) (s0 : State) : State :=
  let refs := (s0.sourcesOf t).flatMap fun v => (s0.source (v.vol % 2 ^ 12)).chunks.map fun c => t * 2 ^ 16 + c.cid
  let s := refs.foldl (fun s r => gcmEnd r s) s0
  (s.sourcesOf t).foldl (fun s v => onSource (v.vol % 2 ^ 12) (fun x =>
      { x with nextMnum := none, build := none, out := [], chunks := [], asked := none }) s)
    (onTarget t (fun x => { x with conn := none, ready := false }) s)

/-- An outbound connection enters Error or closes (R479, R488). -/
def replConnDown (t : Nat) (s : State) : State := note 0x0E05 t (sessionEnd t s)

/-- A capsule the head sends as a host (R174, R470). -/
def capsule (op cid vol take len param : Nat) : Bytes :=
  withMcrc (leBytes 1 op ++ [0] ++ leBytes 2 cid ++ leBytes 2 vol ++ [0, 0] ++ leBytes 8 0 ++ leBytes 4 take ++ leBytes 4 len
    ++ List.replicate 16 0 ++ leBytes 8 param)

/-- Send a capsule on a target's connection; it answers with the CID. -/
def sendCapsule (t op vol take len param : Nat) (s : State) : Nat × State :=
  let x := s.target t
  match x.conn with
  | some i => (x.nextCid, sendHead i (capsule op x.nextCid vol take len param)
      (onTarget t (fun x => { x with nextCid := (x.nextCid + 1) % 2 ^ 16 }) s))
  | none => (0, s)

/-! ## The source: points -/

/-- The points of a source that are not committed, by number: the first is in transfer, the second pending (R474, R475). -/
def State.points (s : State) (vol : Nat) : List (Nat × Snap) :=
  let ps := (s.snapsOf vol).filter fun e => e.2.kind == 3
  ps.foldl (fun acc x => acc.takeWhile (fun y => decide (y.2.point < x.2.point)) ++ [x] ++ acc.dropWhile (fun y => decide (y.2.point < x.2.point))) []

/-- The base of a volume: its last committed point (R474, R478). -/
def State.baseSnap (s : State) (vol : Nat) : Option (Nat × Snap) := (s.snapsOf vol).find? fun e => e.2.kind == 2

/-- Create a point of a source (R474): while one is pending, a request merges into it. It answers with the point. -/
def createPoint (v : VolPolicy) (take acc : Nat) (s : State) : Option (Nat × Nat × State) :=
  let vol := v.vol % 2 ^ 12
  let merge := if v.stream then none else (s.points vol)[1]?
  match merge with
  | some (_, e) => some (e.point, 0, s)
  | none =>
    let p := (s.source vol).last + 1
    match addSnap v.vol 0 3 take p acc v.stream s with
    | none => none
    | some (_, q, s1) => some (p, q, onSource vol (fun x => { x with last := p }) s1)

/-- A message of a point, by what it covers (R476). -/
inductive MsgSpec where
  | blocks (first : Nat) (lbas : List Nat)
  | frame (idx first count : Nat)
deriving DecidableEq, Repr

/-- Insert a number into a rising list without repeats. -/
def insertNat (x : Nat) : List Nat → List Nat
  | [] => [x]
  | y :: ys => if x < y then x :: y :: ys else if x = y then y :: ys else y :: insertNat x ys

/-- The word of a logical block in the base of a point: unmapped where there is no base (R474). -/
def State.baseWord (s : State) (vol lba : Nat) : Nat :=
  match s.baseSnap vol with
  | some (_, b) => s.viewWord b lba
  | none => 0

/-- The messages of a point, in MNUM order (R476). -/
def State.pointMsgs (s : State) (v : VolPolicy) (slot : Nat) (e : Snap) : List MsgSpec :=
  let vol := v.vol % 2 ^ 12
  if v.stream then
    match s.heldTake slot e with
    | none => []
    | some tk =>
      let idxs := (tk.frames.map (·.1)).foldl (fun a x => insertNat x a) []
      idxs.flatMap fun i =>
        let n := ceilDiv (((tabGet i tk.frames).map (·.bytes)).getD 0) 4096
        (List.range (ceilDiv n 4096)).map fun k => .frame i (4096 * k) (min 4096 (n - 4096 * k))
  else
    let here := (s.ftl.map.filter fun m => m.1.1 == vol).map (·.1.2)
    let kept := (s.rpl.pages.filter fun p => match tabGet p.1.1 s.rpl.snaps with
      | some x => x.vol % 2 ^ 12 == vol
      | none => false).flatMap fun p => (List.range pageWords).map (p.1.2 * pageWords + ·)
    let lbas := ((here ++ kept).filter fun l => s.viewWord e l != s.baseWord vol l).foldl (fun a x => insertNat x a) []
    let groups := (lbas.map (· / 256)).foldl (fun a x => insertNat x a) []
    groups.map fun g => .blocks (g * 256) (lbas.filter fun l => l / 256 == g)

/-- A data record of a block: what a CMP compress job makes of it (R246, R476). -/
def State.dataRecord (s : State) (plain : Bytes) : Bytes :=
  let c := s.lr1Compress plain
  let d := c.getD plain
  padTo (16 + ceilDiv d.length 16 * 16) (leBytes 2 d.length ++ leBytes 1 (if c.isSome then 1 else 2) ++ List.replicate 5 0
    ++ leBytes 8 (carryK d) ++ d)

/-- A replication message (R476). -/
def replMsg (ty mnum : Nat) (body : Bytes) : Bytes := leBytes 1 ty ++ [0, 0, 0] ++ leBytes 4 body.length ++ leBytes 4 mnum ++ body

/-- The message of a specification whose blocks have been read (R476). -/
def State.msgBytes (s : State) (slot : Nat) (e : Snap) (mnum : Nat) (spec : MsgSpec) (blocks : List (Nat × RdState)) : Bytes :=
  let plain := blocks.filterMap fun b => match b.2 with
    | .ready d => some d
    | _ => none
  match spec with
  | .blocks first lbas =>
    let w (l : Nat) := wordKind (s.viewWord e l)
    let lost (l : Nat) : Bool := (w l == 3) || blocks.any fun b => b.1 == l && (match b.2 with
      | .ready _ => false
      | _ => true)
    let bits (f : Nat → Bool) := (lbas.filter f).foldl (fun a l => a + 2 ^ (l - first)) 0
    replMsg 1 mnum (leBytes 8 first ++ leBytes 32 (bits fun l => lost l || w l != 0) ++ leBytes 32 (bits fun l => lost l || w l == 0)
      ++ plain.flatMap (fun d => leBytes 8 (carryK d)) ++ plain.flatMap s.dataRecord)
  | .frame i first count =>
    let f := ((s.heldTake slot e).bind fun tk => tabGet i tk.frames).getD { bytes := 0, extents := [], lens := [], short := false }
    replMsg 2 mnum (leBytes 5 i ++ leBytes 1 (b2n f.short) ++ [0, 0] ++ leBytes 4 f.bytes ++ leBytes 4 first ++ leBytes 4 count
      ++ plain.flatMap (fun d => leBytes 8 (carryK d)) ++ plain.flatMap s.dataRecord)

/-- Whether a point's view is settled: every write it holds has its word in the map (DESIGN CHOICE, log entry 15). -/
def State.viewSettled (s : State) (vol acc : Nat) : Bool :=
  !(s.ing.buf.any fun b => b.addr.volume == vol && b.visible && !b.dead && b.seqAt.isNone && decide (b.acc < acc))

/-- CIP's reference of a chunk's message (R267 MSGREF): its target and CID. -/
def gcmRef (t cid : Nat) : Nat := t * 2 ^ 16 + cid

/-- Send the next chunk of a source: as many whole messages as REPL_CHUNK_MAX takes, sealed under the target's key (R477). -/
def sendChunk (t : Nat) (v : VolPolicy) (e : Snap) (s : State) : State :=
  let vol := v.vol % 2 ^ 12
  let src := s.source vol
  let cap := s.param P.replChunkMax
  let n := (src.out.foldl (fun (a : Nat × Nat × Bool) m =>
    if a.2.2 ∧ (a.1 = 0 ∨ a.2.1 + m.2.length ≤ cap) then (a.1 + 1, a.2.1 + m.2.length, true) else (a.1, a.2.1, false)) (0, 32, true)).1
  match src.out, s.tgtKey t with
  | (first, _) :: _, some key =>
    if s.pwr.hold ∨ s.param P.replOutstanding ≤ src.chunks.length then s
    else
      let now := src.out.take n
      let hdr := leBytes 2 v.vol ++ [0, 0] ++ leBytes 4 (vol + src.nonce * 2 ^ 12) ++ leBytes 4 e.point ++ leBytes 4 first
      let bytes := hdr ++ gcmSeal key (hdr.drop 4) hdr (now.flatMap (·.2))
      let (cid, s1) := sendCapsule t 0x59 v.vol 0 bytes.length e.point s
      let last := ((now.map (·.1)).getLast?).getD first
      let s1 := gcmStart { ref := gcmRef t cid, cls := 2, slot := bitsAt (s.tgtCfg t) 2 10, total := bytes.length - 32, alen := 128 } s1
      onSource vol (fun x => { x with out := x.out.drop n, chunks := x.chunks ++ [{ firstMnum := first, lastMnum := last, cid := cid, bytes := bytes }] }) s1
  | _, _ => s

/-- Start the message with the next MNUM: its blocks are read through the read path (R476). -/
def startBuild (v : VolPolicy) (slot : Nat) (e : Snap) (mnum : Nat) (spec : MsgSpec) (s : State) : State :=
  let vol := v.vol % 2 ^ 12
  let srcs : List (Nat × Src) := match spec with
    | .blocks _ lbas => (lbas.filter fun l => wordKind (s.viewWord e l) != 0 && wordKind (s.viewWord e l) != 3).map fun l => (l, s.srcOfView v e l)
    | .frame i first count => match (s.heldTake slot e).bind fun tk => (tabGet i tk.frames).map fun f => (tk, f) with
      | some (tk, f) => (List.range count).map fun k => (first + k, s.srcOfFrame v e.take i tk f (first + k))
      | none => []
  let s1 := onSource vol (fun x =>
    { x with
      nextMnum := some (mnum + 1)
      build := some { mnum := mnum, blocks := srcs.map fun (l, y) => (l, match y with
        | .bytes b => .ready b
        | .form .. => .pending
        | _ => .failed none) } }) s
  srcs.foldl (fun s (l, y) => match y with
    | .form want sec cnt => startJob (.repl vol l) want sec cnt s
    | _ => s) s1

/-- Carry a source volume's transfer on as far as it goes now (R474 to R477, R479); `fuel` bounds the messages. -/
def pumpSource (t : Nat) (v : VolPolicy) : Nat → State → State
  | 0, s => s
  | fuel + 1, s =>
    let vol := v.vol % 2 ^ 12
    let src := s.source vol
    if ¬ (s.target t).ready ∨ src.stopped ∨ src.asked.isSome then s
    else match s.points vol with
      | [] => match src.delTakes with
        | tk :: rest =>
          let (cid, s1) := sendCapsule t 0x5B v.vol tk 0 0 s
          onSource vol (fun x => { x with asked := some (0x5B, cid), delTakes := rest }) s1
        | [] => s
      | (slot, e) :: _ =>
        if ¬ v.stream ∧ ¬ s.viewSettled vol e.acc then s
        else match src.nextMnum with
          | none =>
            let (n, s1) := s.freeNat 20
            let (cid, s2) := sendCapsule t 0x58 v.vol e.take 0 e.point s1
            onSource vol (fun x => { x with asked := some (0x58, cid), nonce := n }) s2
          | some m =>
            let specs := s.pointMsgs v slot e
            match src.build with
            | some b =>
              if b.blocks.any fun x => x.2 == .pending then s
              else match specs[b.mnum - 1]? with
                | none => s
                | some spec => pumpSource t v fuel (onSource vol (fun x =>
                    { x with build := none, out := x.out ++ [(b.mnum, s.msgBytes slot e b.mnum spec b.blocks)] })
                  (b.blocks.foldl (fun (s : State) x => match x.2 with
                    | .ready d => cmpCount d s
                    | _ => s) s))
            | none =>
              let size := src.out.foldl (fun a x => a + x.2.length) 32
              match specs[m - 1]? with
              | some spec =>
                if s.param P.replChunkMax < size then
                  let s1 := sendChunk t v e s
                  if (s1.source vol).out.length = src.out.length then s1 else pumpSource t v fuel s1
                else pumpSource t v fuel (startBuild v slot e m spec s)
              | none =>
                if src.out ≠ [] then
                  let s1 := sendChunk t v e s
                  if (s1.source vol).out.length = src.out.length then s1 else pumpSource t v fuel s1
                else if src.chunks ≠ [] then s
                else
                  let (cid, s1) := sendCapsule t 0x5A v.vol 0 0 (e.point + (m - 1) * 2 ^ 32) s
                  onSource vol (fun x => { x with asked := some (0x5A, cid) }) s1

/-- Carry every source on. -/
def pumpSources (s : State) : State :=
  (List.range 16).foldl (fun s t => if (s.target t).ready then (s.sourcesOf t).foldl (fun s v => pumpSource t v 64 s) s else s) s

/-- A block of a message being built has come from the sleds, or cannot (R476). -/
def replBlock (vol blk : Nat) (r : RdState) (s : State) : State :=
  onSource vol (fun x => { x with build := x.build.map fun b =>
    { b with blocks := b.blocks.map fun y => if y.1 = blk ∧ y.2 = .pending then (y.1, r) else y } }) s

/-- RPL_TGT_LAG of a target (R487): the age in ms of the oldest point of its sources that is not committed. -/
def State.tgtLag (s : State) (t : Nat) : Nat :=
  satN 32 (((s.sourcesOf t).flatMap fun v => (s.points (v.vol % 2 ^ 12)).map fun e => s.since e.2.created / (1000 * usTicks)).foldl max 0)

/-- The lag of a target against REPL_LAG_ALARM (R488): REPL_LAG at an upward crossing. -/
def replLag (t : Nat) (s : State) : State :=
  let beyond := decide (s.param P.replLagAlarm * 1000 ≤ s.tgtLag t)
  if beyond ∧ ¬ (s.target t).lagRaised then raise 0x0E04 t .all (onTarget t (fun x => { x with lagRaised := true }) s)
  else onTarget t (fun x => { x with lagRaised := beyond }) s

/-- A point is committed at the target (R474, R478): it becomes the base, the previous base is deleted. -/
def pointCommitted (v : VolPolicy) (s : State) : State :=
  let vol := v.vol % 2 ^ 12
  let done (s : State) := onSource vol (fun x => { x with nextMnum := none, build := none, out := [], chunks := [], fails := [], asked := none })
    (s.onRpl fun r => { r with points := satInc r.points })
  match s.points vol with
  | [] => s
  | (slot, e) :: _ =>
    let s1 := match s.baseSnap vol with
      | some (b, _) => (deleteSnap b s).2
      | none => s
    let s2 := done (if e.hold then (endHold slot s1).2 else (putSnap slot { e with kind := 2 } s1).2)
    if v.replTarget < 16 then replLag v.replTarget s2 else s2

/-- A chunk of a source failed at the target (R479): sent again, or after three failures the point stops. -/
def chunkFailed (t : Nat) (v : VolPolicy) (ch : ChunkOut) (counts : Bool) (s : State) : State :=
  let vol := v.vol % 2 ^ 12
  let n := tabGetD ch.firstMnum 0 (s.source vol).fails + b2n counts
  let s1 := gcmEnd (gcmRef t ch.cid) (if counts then s.onRpl fun r => { r with chunkFail := satInc r.chunkFail } else s)
  if 3 ≤ n then
    raise 0x0E03 v.vol .all (onSource vol (fun x =>
      { x with stopped := true, nextMnum := none, build := none, out := [], chunks := [], fails := [], asked := none }) s1)
  else
    let (cid, s2) := sendCapsule t 0x59 v.vol 0 ch.bytes.length (fieldLe ch.bytes 8 4) s1
    let s2 := gcmStart { ref := gcmRef t cid, cls := 2, slot := bitsAt (s.tgtCfg t) 2 10, total := ch.bytes.length - 32, alen := 128 } s2
    onSource vol (fun x =>
      { x with fails := tabPut ch.firstMnum n x.fails
               chunks := x.chunks.map fun c => if c.cid = ch.cid then { c with cid := cid } else c }) s2

/-- A response from a target's head (R473, R477 to R479). -/
def replResponse (t : Nat) (m : Bytes) (s : State) : State :=
  let cid := fieldLe m 2 2
  let st := fieldLe m 1 1
  match (s.sourcesOf t).find? fun v => let x := s.source (v.vol % 2 ^ 12)
      (x.asked.map (·.2)) == some cid || x.chunks.any fun c => c.cid == cid with
  | none => s
  | some v =>
    let vol := v.vol % 2 ^ 12
    let x := s.source vol
    match x.chunks.find? fun c => c.cid == cid with
    | some ch =>
      if st = 0 then onSource vol (fun x => { x with chunks := x.chunks.filter fun c => c.cid ≠ cid }) s
      else if st = 0x39 then onSource vol (fun x => { x with nextMnum := none, build := none, out := [], chunks := [] }) s
      else chunkFailed t v ch (st = 0x3A ∨ st = 0x3B) s
    | none =>
      let op := (x.asked.map (·.1)).getD 0
      let s1 := onSource vol (fun x => { x with asked := none }) s
      if st = 0x06 then onTarget t (fun y => { y with peerHead := fieldLe m 32 1 % 2 }) s1
      else if op = 0x58 then
        if st ≠ 0 then onSource vol (fun x => { x with stopped := true }) s1
        else match s1.points vol with
          | (_, e) :: _ => if e.point ≤ fieldLe m 16 8 then pointCommitted v s1
              else onSource vol (fun x => { x with nextMnum := some (fieldLe m 12 4 + 1) }) s1
          | [] => s1
      else if op = 0x5A then
        if st = 0 then pointCommitted v s1 else onSource vol (fun x => { x with nextMnum := none }) s1
      else s1

/-- A transfer-ready message from a target's head (R477): the window's part of the chunk goes out as one DATA message. -/
def replReady (t : Nat) (m : Bytes) (s : State) : State :=
  let cid := fieldLe m 2 2
  let key := fieldLe m 8 4
  let n := fieldLe m 12 4
  match (s.sourcesOf t).findSome? (fun v => (s.source (v.vol % 2 ^ 12)).chunks.find? fun c => c.cid == cid), (s.target t).conn with
  | some ch, some idx =>
    let data := slice ch.bytes (fieldLe m 16 8) n
    let parts := chunks 4096 (data.length + 1) data
    let s := gcmEnd (gcmRef t cid) s
    parts.zipIdx.foldl (fun s (d, k) => ctxSend idx (.data n key (k * 4096) d (decide (k + 1 = parts.length))) (decide (k + 1 = parts.length)) s)
      (s.onRpl fun r => { r with tx := r.tx + BitVec.ofNat 64 data.length })
  | _, _ => s

/-- A message a source receives on an outbound connection; one whose MCRC fails is not acted on (R173). -/
def replMessage (t : Nat) (m : Bytes) (s : State) : State :=
  if ¬ crcGood m ∨ m.length ≠ 64 then s
  else if fieldLe m 0 1 = 0x80 then replResponse t m s
  else if fieldLe m 0 1 = 0x81 then replReady t m s
  else s

/-! ## The replica: chunks -/

/-- What a message gives a replica: a block's content by logical block or block of a frame. -/
inductive NewBlk where
  | data (b : Bytes)
  | zero
  | lost
deriving DecidableEq, Repr

/-- A message read from a chunk (R476). -/
structure InMsg where
  mnum : Nat
  /-- a FRAME message's frame index and BYTES -/
  frame : Option (Nat × Nat) := none
  blocks : List (Nat × NewBlk)
deriving DecidableEq, Repr

/-- Expand the data records of a message, checking Z and the K list (R246, R477); the plaintexts, or none for a malformed record or a
mismatch. -/
def expandRecords : List Nat → Bytes → Option (List Bytes)
  | [], rest => if rest = [] then some [] else none
  | k :: ks, rest =>
    let clen := fieldLe rest 0 2
    let size := 16 + ceilDiv clen 16 * 16
    let d := slice rest 16 clen
    if rest.length < size ∨ clen = 0 ∨ 4096 < clen ∨ carryK d ≠ fieldLe rest 8 8 then none
    else
      let plain := if bitAt (fieldLe rest 2 1) 0 then lr1Expand d else if clen = 4096 then some d else none
      match plain with
      | some p => if carryK p = k then (expandRecords ks (rest.drop size)).map (p :: ·) else none
      | none => none

/-- One message of a chunk from its body (R476). -/
def readMsg (ty mnum : Nat) (b : Bytes) : Option InMsg :=
  if ty = 1 then
    let first := fieldLe b 0 8
    let data := fieldLe b 8 32
    let zeros := fieldLe b 40 32
    let bits := (List.range 256).filter fun i => bitAt data i || bitAt zeros i
    let withRec := bits.filter fun i => bitAt data i && !bitAt zeros i
    let n := withRec.length
    if b.length < 72 ∨ first % 256 ≠ 0 then none
    else (expandRecords ((List.range n).map fun i => fieldLe b (72 + 8 * i) 8) (b.drop (72 + 8 * n))).map fun ps =>
      { mnum := mnum, blocks := bits.map fun i => (first + i, match withRec.findIdx? (· == i) with
        | some j => .data (ps.getD j [])
        | none => if bitAt data i then .lost else .zero) }
  else if ty = 2 then
    let n := fieldLe b 16 4
    if b.length < 20 ∨ 4096 < n then none
    else (expandRecords ((List.range n).map fun i => fieldLe b (20 + 8 * i) 8) (b.drop (20 + 8 * n))).map fun ps =>
      { mnum := mnum, frame := some (fieldLe b 0 5, fieldLe b 8 4), blocks := ps.zipIdx.map fun (p, i) => (fieldLe b 12 4 + i, .data p) }
  else none

/-- The messages of a chunk's plaintext, or the MNUM at which it is malformed (R471 REPL_FORMAT); `fuel` bounds them. -/
def readMsgs : Nat → Nat → Bytes → Except Nat (List InMsg)
  | _, _, [] => .ok []
  | 0, m, _ :: _ => .error m
  | fuel + 1, m, x :: xs =>
    let b := x :: xs
    let n := fieldLe b 4 4
    if b.length < 12 + n ∨ fieldLe b 8 4 ≠ m then .error m
    else match readMsg x.toNat m (slice b 12 n) with
      | none => .error m
      | some g => match readMsgs fuel (m + 1) (b.drop (12 + n)) with
        | .ok l => .ok (g :: l)
        | .error e => .error e

/-- The draft key of a replicated frame: apart from every acceptance number. -/
def frameKey (frame : Nat) : Nat := 2 ^ 64 + frame

/-- Put a block of a chunk into the write buffer (R477 step 3): zeros and lost blocks as map words to enter in their turn. -/
def replPut (c : Cmd) (v : VolPolicy) (take num : Nat) (frame : Option (Nat × Nat)) (blk : Nat) (x : NewBlk) (s : State) : State :=
  let vol := v.vol % 2 ^ 12
  let addr : BlkAddr := match frame with
    | some (f, _) => .frame vol take f blk
    | none => .block vol blk
  let b0 : BufBlk := { acc := c.acc, num := num, qpn := c.qpn, cid := c.cid, slot := s.freeSlot, addr := addr, tag := {}, plain := [], sectors := [] }
  match x with
  | .zero => s.onIng fun i => { i with buf := i.buf ++ [{ b0 with ref := some 0 }] }
  | .lost => s.onIng fun i => { i with buf := i.buf ++ [{ b0 with ref := some 3 }] }
  | .data p =>
    let (pos, short, key) := match frame with
      | some (f, n) => ((s.draft vol take (frameKey f)).base + blk, decide (n % 4096 ≠ 0 ∧ blk + 1 = ceilDiv n 4096), frameKey f)
      | none => (blk, false, 0)
    match s.mediaForm v pos take short p with
    | some (tag, secs) => s.onIng fun i => { i with buf := i.buf ++ [{ b0 with tag := tag, plain := p, sectors := secs, draft := key }] }
    | none => failCmd c.acc 0x0B v.keySlot 0 s

end Sys2Proof.Machine
end

