-- ==== Sys2Proof/Machine/Starts.lean ====
section
/-! DEFINITION. The checks of a capsule (R185, R190, R191, R470 to R472), when a command may start (R188, R189), and what each command
does when it starts. -/

namespace Sys2Proof.Machine

/-! ## Checks -/

/-- The verdict of the checks: a status, DETAIL and EXTRA. -/
abbrev Verdict := Nat × Nat × Bytes

/-- The first check of a list that fails. -/
def firstFail : List (Option Verdict) → Option Verdict
  | [] => none
  | some v :: _ => some v
  | none :: rest => firstFail rest

/-- A failing check where a condition holds. -/
def failIf (b : Bool) (st : Nat) (detail : Nat := 0) : Option Verdict := if b then some (st, detail, []) else none

/-- The first capsule field that is not 0 though the opcode does not use it, by byte offset (R174). -/
def Cmd.unusedField (c : Cmd) (used : List Nat) : Option Nat :=
  ([(8, c.lba), (16, c.take), (20, c.len), (24, c.hkey), (32, c.haddr), (40, c.param)].find? fun f => !used.contains f.1 && f.2 != 0).map (·.1)

/-- SNAP of a snapshot command (R470). -/
def Cmd.snap (c : Cmd) : Nat := bitsAt c.param 32 16

/-- The byte offset in the frame of a FRAME_READ or SNAP_FRAME_READ. -/
def Cmd.frameOff (c : Cmd) : Nat := if c.op = 0x53 then bitsAt c.param 0 32 else c.param

/-- Check 7: LENGTH, PARAM, PULL and alignment; the byte offset of the first field found wrong (R174, R175, R183, R470). -/
def State.badField (s : State) (c : Cmd) (x : Ctx) (stream : Bool) : Option Nat :=
  let badLen : Bool := match c.op with
    | 0x01 | 0x02 | 0x52 => c.len == 0 || c.len % 4096 != 0
    | 0x11 | 0x12 | 0x53 => c.len == 0
    | 0x43 => c.len % 16 != 0
    | 0x54 => c.len % 32 != 0
    | 0x59 => decide (c.len < 32)
    | _ => false
  let badParam : Bool := match c.op with
    | 0x03 => c.param == 0
    | 0x0F => decide (2 ^ 32 ≤ c.param)
    | 0x12 => c.param % 4096 != 0
    | 0x41 => decide (2 ^ 16 ≤ c.param) || (s.vol c.param).isNone
    | 0x42 => decide (2 ^ 16 ≤ c.param)
    | 0x43 => decide (2 ^ 24 ≤ c.param)
    | 0x50 | 0x51 | 0x52 => c.param % 2 ^ 32 != 0 || decide (2 ^ 48 ≤ c.param) || c.snap == 0
    | 0x53 => c.frameOff % 4096 != 0 || decide (2 ^ 48 ≤ c.param) || c.snap == 0
    | 0x58 | 0x59 => decide (2 ^ 32 ≤ c.param)
    | _ => false
  if c.pull ∧ (c.op ≠ 0x01 ∧ c.op ≠ 0x12 ∨ x.lot ∨ ¬ x.pull) then some 1
  else if c.op = 0x50 ∧ ¬ stream ∧ c.take ≠ 0 then some 16
  else if badLen || decide (s.param P.cmdMaxLen < c.len) then some 20
  else if badParam then some 40
  else none

/-- Whether a command changes a volume's data or takes, for check 9 (R185, R472). -/
def Cmd.changes (c : Cmd) : Bool := [0x02, 0x03, 0x11, 0x10, 0x13, 0x14].contains c.op

/-- Another outstanding command of the same take (R191). -/
def State.takeCmds (s : State) (c : Cmd) : List Cmd :=
  s.cmd.cmds.filter fun x => x.acc != c.acc && x.volId == c.volId && x.take == c.take
    && (0x10 ≤ x.op && x.op ≤ 0x15) && x.phase != .accepted

/-- The take a command names, unless its deletion is under way or a host does not see it yet: a replica's take counts once its point
is committed (R190, R191, R472). -/
def State.takeFor (s : State) (c : Cmd) (v : VolPolicy) : Option Take :=
  if (s.takeCmds c).any fun x => x.op == 0x14 && x.recorded then none
  else match s.take c.volId c.take with
    | some t => if s.isReplica v ∧ t.state ≠ .sealed then none else some t
    | none => none

/-- The parts of checks 7 and 8 that need the frame's length (R185). -/
def Cmd.frameRange (c : Cmd) (bytes : Nat) : Option Verdict :=
  firstFail [failIf (c.len % 4096 != 0 && c.frameOff + c.len != bytes) 0x03 20, failIf (decide (bytes < c.frameOff + c.len)) 0x09]

/-- Whether an outstanding FRAME_APPEND reserves a frame index (R191 rule 1). -/
def Take.reserved (t : Take) (frame : Nat) : Bool := tabHas frame t.pending

/-- Check 11: the take and frame rules (R185, R190, R191). -/
def State.takeCheck (s : State) (c : Cmd) (v : VolPolicy) : Option Verdict :=
  let frame := c.lba % 2 ^ 40
  let tk := s.takeFor c v
  let opens := s.ftl.takes.filter fun e => e.2.state == .open || e.2.state == .sealing
  match c.op with
  | 0x10 => firstFail [failIf (s.take c.volId c.take).isSome 0x21,
      failIf (decide (v.maxTakes ≤ s.ftl.takes.countP fun e => e.1.1 == c.volId)) 0x23 0,
      failIf (decide (s.param P.openTakesMax ≤ opens.countP fun e => e.1.1 == c.volId)) 0x23 1,
      failIf (decide (1024 ≤ opens.length)) 0x23 2]
  | 0x11 => match tk with
    | none => some (0x20, 0, [])
    | some t => firstFail [failIf (t.state != .open) 0x22, failIf (tabHas frame t.frames || t.reserved frame) 0x25]
  | 0x12 => match tk with
    | none => some (0x20, 0, [])
    | some t => failIf (!(tabHas frame t.frames) && !(t.reserved frame)) 0x26
  | 0x13 | 0x15 => failIf tk.isNone 0x20
  | 0x14 => match tk with
    | none => some (0x20, 0, [])
    | some _ => failIf (s.takeCmds c != []) 0x24
  | _ => none

/-- The checks of the snapshot and replication commands that follow check 10 (R467 to R472, R480, R482). -/
def State.replCheck (s : State) (c : Cmd) (v : VolPolicy) : Option Verdict :=
  let sn := s.hostSnap c.volId c.snap
  let reading := s.cmd.cmds.any fun x => (x.op == 0x52 || x.op == 0x53) && x.volId == c.volId && x.snap == c.snap && x.recorded
  let hosts := s.rpl.snaps.countP fun e => e.2.vol % 2 ^ 12 == c.volId && decide (e.2.kind ≤ 1) && !e.2.releasing
  let isRepl := match s.role v with
    | .replica _ => true
    | _ => false
  let isSrc := match s.role v with
    | .source _ => true
    | _ => false
  let rep := tabGetD c.volId {} s.rpl.replicas
  let promoted := failIf rep.promoted 0x3C
  let wrongPoint := failIf (rep.begun != some (c.param % 2 ^ 32, c.qpn)) 0x39 ((rep.begun.map (·.1)).getD 0)
  match c.op with
  | 0x50 =>
    let noTake := v.stream && (s.takeFor c v).isNone
    let unsealed := v.stream && (match s.takeFor c v with
      | some t => t.state != .sealed
      | none => false)
    firstFail [failIf (!v.snapshots) 0x33, failIf sn.isSome 0x31, failIf noTake 0x20, failIf unsealed 0x34,
      failIf (decide (s.param P.snapMax ≤ hosts)) 0x32 0, failIf s.freeSlot9.isNone 0x32 1]
  | 0x51 => firstFail [failIf sn.isNone 0x30, failIf reading 0x35]
  | 0x52 => failIf (match sn with
      | some (_, e) => e.hold
      | none => true) 0x30
  | 0x53 => match sn with
    | some (slot, e) =>
      let frame := (s.heldTake slot e).bind fun t => tabGet (c.lba % 2 ^ 40) t.frames
      firstFail [failIf (e.take != c.take) 0x20, failIf frame.isNone 0x26, frame.bind fun f => c.frameRange f.bytes]
    | none => some (0x30, 0, [])
  | 0x55 => firstFail [failIf (!isSrc || v.stream) 0x38, failIf s.freeSlot9.isNone 0x32 1]
  | 0x56 => failIf (!isSrc && !isRepl) 0x38
  | 0x57 => firstFail [failIf (!isRepl) 0x38, promoted]
  | 0x58 => firstFail [failIf (!isRepl) 0x38, promoted]
  | 0x59 | 0x5A => firstFail [failIf (!isRepl) 0x38, promoted, wrongPoint]
  | 0x5B => firstFail [failIf (!isRepl) 0x38, promoted, failIf (s.take c.volId c.take).isNone 0x20, failIf (s.takeCmds c != []) 0x24]
  | _ => none

/-- The capsule checks 2 to 11 in the order of the table (R185). -/
def State.checkCapsule (s : State) (c : Cmd) (x : Ctx) : Option Verdict :=
  match opInfo c.op with
  | none => some (0x02, 0, [])
  | some (kind, used) =>
    let stream := kind == .stream
    let early := firstFail [failIf (fieldLe c.raw 1 1 / 4 != 0) 0x03 1, failIf (!allZero (slice c.raw 6 2)) 0x03 6,
      failIf (stream && decide (2 ^ 40 ≤ c.lba)) 0x03 8, failIf (!allZero (slice c.raw 28 4)) 0x03 28,
      failIf (!allZero (slice c.raw 48 12)) 0x03 48,
      failIf ((s.outstandingOn c.qpn).any fun y => y.acc != c.acc && y.cid == c.cid) 0x04]
    let fields (st : Bool) := firstFail [(c.unusedField used).map fun o => (0x03, o, []), (s.badField c x st).map fun o => (0x03, o, [])]
    match early with
    | some v => some v
    | none =>
      if kind = .admin then firstFail [failIf (c.vol != 0) 0x03 4, fields false]
      else match s.volOf c with
        | none => some (0x06, 0, leBytes 1 0xFF)
        | some v =>
          let n := c.len / 4096
          let stored := if c.op = 0x12 then (s.takeFor c v).bind fun t => (tabGet (c.lba % 2 ^ 40) t.frames).map (·.bytes) else none
          let beyond := match c.op with
            | 0x01 | 0x02 | 0x52 => decide (v.capacity < c.lba + n)
            | 0x03 => decide (v.capacity < c.lba + c.param)
            | _ => false
          firstFail [if s.mantle v then none else some (0x06, 0, leBytes 1 (s.mantleOf c.volId)),
            failIf (c.vol / 2 ^ 12 != v.vol / 2 ^ 12) 0x07 (v.vol / 2 ^ 12),
            failIf ((kind == .block && v.stream) || (stream && !v.stream)) 0x08,
            fields v.stream, failIf beyond 0x09, stored.bind c.frameRange,
            failIf (c.changes && s.isReplica v) 0x0A,
            failIf (v.encrypt && (s.volKey v).isNone) 0x0B v.keySlot,
            s.takeCheck c v, s.replCheck c v]

/-! ## Order -/

/-- First and last block a block command covers, one past the end. -/
def Cmd.span (c : Cmd) : Nat × Nat := (c.lba, c.lba + (if c.op = 0x03 then c.param else c.len / 4096))

/-- Whether an earlier-accepted outstanding command keeps a later one waiting (R189 rule 2, R191 rule 5, R463, R484). -/
def waitsFor (c e : Cmd) : Bool :=
  c.volId == e.volId && e.recorded && (
    (c.op == 0x01 && (e.op == 0x02 || e.op == 0x03) && decide (c.span.1 < e.span.2) && decide (e.span.1 < c.span.2))
    || (c.op == 0x12 && e.op == 0x11 && c.take == e.take && c.lba % 2 ^ 40 == e.lba % 2 ^ 40)
    || ((c.op == 0x50 || c.op == 0x55) && (e.op == 0x02 || e.op == 0x03))
    || (c.op == 0x57 && (e.op == 0x59 || e.op == 0x5A)))

/-- Whether a waiting command may start (R188, R189). -/
def State.mayStart (s : State) (c : Cmd) : Bool :=
  let early := s.cmd.cmds.filter fun e => decide (e.acc < c.acc)
  let same := early.filter fun e => e.qpn == c.qpn && !e.orphan
  if c.op = 0x42 ∧ ¬ c.fence then true
  else (same.all fun e => e.phase != .accepted && e.phase != .waiting) && (!c.fence || same.isEmpty) && !(early.any fun e => waitsFor c e)

/-! ## Starting -/

/-- Bytes that a head's stream structures take: take records, segment lists and frame records, as the log writes them (R335, R495;
DEDUCED, log entry 48). -/
def State.streamBytes (s : State) (h : Nat) : Nat :=
  (s.ftl.takes.map fun e => if s.volOwner e.1.1 = h then 32 + 8 * e.2.segs.length + (e.2.frames.map fun f => (frameRecord f.1 f.2).length).sum else 0).sum

/-- Whether a head's stream structures have no room for one more record (R495, R555). -/
def State.streamFull (s : State) (h : Nat) : Bool := decide (s.paramOf h P.streamTableSize * 2 ^ 20 < s.streamBytes h + 32)

/-- The unit for whose want of space a change stops (R305, R327), or the journal home that became unusable last (R373), if any. -/
def State.spaceStop (s : State) (c : Cmd) (v : VolPolicy) : Option Nat :=
  let bands := s.mapBands (s.ownerOf v.topUnit)
  let changing := c.changes || [0x50, 0x51, 0x55, 0x57, 0x59, 0x5A, 0x5B].contains c.op
  if ¬ changing then none
  else if s.healthOf v.topUnit = 3 then some v.topUnit
  else if s.ftl.frozen.contains v.topUnit ∧ [0x02, 0x10, 0x11, 0x59].contains c.op then some v.topUnit
  else if (c.op = 0x10 ∨ c.op = 0x11) ∧ s.streamFull (s.ownerOf v.topUnit) then some v.topUnit
  else if bands ≠ [] ∧ bands.all fun u => s.ftl.frozen.contains u then (s.ftl.frozen.filter fun u => bands.contains u).getLast?
  else if s.prt.pair = .lone ∧ ¬ v.stream ∧ (c.op = 0x02 ∨ c.op = 0x03) ∧ (s.homesUsable (s.ownerOf v.topUnit)).length < 2 then
    some ((((s.jnl.homesOut.filter fun e => (s.homesOf (s.ownerOf v.topUnit)).contains e.1).getLast?).map (·.1)).getD 0)
  else none

/-- Pages of a block volume that a command changes. -/
def State.pagesTouched (s : State) (c : Cmd) : List Nat :=
  if c.op = 0x03 then nubNat ((s.ftl.map.filter fun e => e.1.1 == c.volId && decide (c.lba ≤ e.1.2) && decide (e.1.2 < c.lba + c.param)).map fun e => e.1.2 / pageWords)
  else (List.range (ceilDiv (c.lba % pageWords + c.len / 4096) pageWords)).map fun k => c.lba / pageWords + k

/-- What a preservation that a command needs lacks, if anything (R466). -/
def State.viewLack (s : State) (c : Cmd) : Option Nat :=
  ((s.pagesTouched c).filter fun p => (s.needsView c.volId p c.acc).isSome).findSome? fun p => s.noViewRoom c.volId p

/-- SNAP_SPACE and PRESERVE_FAIL (R466). -/
def viewFail (c : Cmd) (lack : Nat) (s : State) : State :=
  finish c.acc 0x36 0 lack 0 [] (note 0x0E01 (c.vol + lack * 2 ^ 16) (s.onRpl fun r => { r with preserveFail := satInc r.preserveFail }))

/-- Sectors a WRITE reserves (R338). -/
def State.writeNeeds (s : State) (c : Cmd) : Nat :=
  (List.range c.blocks).foldl (fun a k =>
    let w := s.mapWord c.volId (c.lba + k)
    a + (if wordKind w = 2 then 8 - (bitsAt w 2 3 + 1) else 8)) 0

/-- Reserve space in a top unit under a command's number. -/
def reserve (top acc n : Nat) (s : State) : State := onTop top (fun t => { t with reserved := tabPut acc n t.reserved }) s

/-- Start a WRITE (R179, R338, R466). -/
def startWrite (c : Cmd) (v : VolPolicy) (s : State) : State :=
  match s.viewLack c with
  | some l => viewFail c l s
  | none =>
    let n := s.writeNeeds c
    if s.roomOf v.topUnit < n then finish c.acc 0x18 0 v.topUnit 0 [] s
    else nameWindows c.acc (s.param P.trPerCmd) (reserve v.topUnit c.acc n s)

/-- Strips that a stream unit can still give a take: its open segment, part segments and free segments, less what is reserved (R298,
R338). -/
def State.stripRoom (s : State) (top vol t : Nat) : Nat :=
  let T := s.rowStrips top
  let pages := s.pagesOf top
  let own := (s.segsOf top).foldl (fun a e =>
    if (e.2.state = .open ∧ e.2.take = some (vol, t)) ∨ e.2.state = .part then a + (pages - e.2.nextRow) * T else a) 0
  let drawn := match s.take vol t with
    | some tk => tk.row.length
    | none => 0
  own + (s.freeSegs top).length * pages * T - drawn - (s.top top).reserved.foldl (fun a e => a + e.2) 0

/-- Start a FRAME_APPEND (R179, R191, R298, R338): the take has a segment, the frame a draft and its block numbers. -/
def startAppend (c : Cmd) (v : VolPolicy) (s : State) : State :=
  let n := ceilDiv c.blocks 16
  match takeSegment v.topUnit c.volId c.take s with
  | (none, s1) => finish c.acc 0x18 0 v.topUnit 0 [] s1
  | (some _, s1) =>
    if s1.stripRoom v.topUnit c.volId c.take < n then finish c.acc 0x18 0 v.topUnit 0 [] s1
    else nameWindows c.acc (s.param P.trPerCmd) (onTake c.volId c.take (fun t =>
      { t with drafts := tabPut c.acc { base := t.blocks, total := c.blocks } t.drafts, blocks := t.blocks + c.blocks })
        (reserve v.topUnit c.acc n s1))

/-- Start a TRIM (R175, R189): the blocks it clears become map changes in acceptance order; a block that a later-accepted write has
already replaced is left alone. -/
def startTrim (c : Cmd) (s : State) : State :=
  match s.viewLack c with
  | some l => viewFail c l s
  | none =>
    let inside (l : Nat) : Bool := decide (c.lba ≤ l) && decide (l < c.lba + c.param) && !c.hidden.contains (l - c.lba)
    let mapped := (s.ftl.map.filter fun e => e.1.1 == c.volId && inside e.1.2).map (·.1.2)
    let held := s.ing.buf.filterMap fun b => match b.addr with
      | .block x l => if x = c.volId ∧ inside l ∧ b.acc < c.acc ∧ ¬ b.dead then some l else none
      | .frame .. => none
    let lbas := nubNat (mapped ++ held)
    let s1 := s.onCmd fun u => { u with cmds := u.cmds.map fun x =>
      if x.op = 0x02 ∧ x.volId = c.volId ∧ x.acc < c.acc then
        { x with hidden := x.hidden ++ (List.range x.blocks).filter fun k => inside (x.lba + k) } else x }
    lbas.foldl (fun s l =>
      let b : BufBlk := { acc := c.acc, num := l - c.lba, qpn := c.qpn, cid := c.cid, slot := s.freeSlot, addr := .block c.volId l, tag := {}
                          plain := [], sectors := [], ref := some 0, visible := true }
      (supersede c.acc (.block c.volId l) s).onIng fun i => { i with buf := i.buf ++ [b] }) s1

/-- Whether the change under a LOG_SEQ has reached what its command waits for (R175, R441): the partner holds it, or in the Lone state it
is durable in the map band. -/
def State.changeHeld (s : State) (h q : Nat) : Bool :=
  if s.prt.pair = .paired then !(s.prt.map.sent.any fun m => match m.tag with
    | .mapUpTo x => decide (x ≤ q)
    | _ => false)
  else s.logDurable h q

/-- A command waits for a change under a LOG_SEQ. -/
def awaitLog (acc q : Nat) (s : State) : State := chg acc (fun c => { c with waitSeq := some q }) s

/-- Blocks from a list of sources for a READ or SNAP_READ. -/
def startBlockRead (c : Cmd) (srcs : List Src) (s : State) : State :=
  startReads c.acc srcs (countHits (srcs.countP fun x => match x with
    | .waits => true
    | _ => false) s)

/-- Start a READ (R182 to R184): a replica serves its last committed point (R472). -/
def startRead (c : Cmd) (v : VolPolicy) (s : State) : State :=
  let lbas := (List.range c.blocks).map (c.lba + ·)
  if s.isReplica v then
    match s.baseSnap c.volId with
    | some (_, e) => startReads c.acc (lbas.map fun l => s.srcOfView v e l) s
    | none => startReads c.acc (lbas.map fun _ => .bytes (List.replicate 4096 0)) s
  else
    let hits := lbas.countP fun l => (s.newestBuf (.block c.volId l) (2 ^ 64)).isSome
    startReads c.acc (lbas.map fun l => s.srcOfBlock v l) (countHits hits s)

/-- Start a FRAME_READ or SNAP_FRAME_READ of a stored frame (R184, R185, R191 rule 5, R468). -/
def startFrameRead (c : Cmd) (v : VolPolicy) (tk : Option Take) (s : State) : State :=
  let frame := c.lba % 2 ^ 40
  match tk.bind fun t => (tabGet frame t.frames).map fun f => (t, f) with
  | none => finish c.acc 0x26 0 0 0 [] s
  | some (t, f) => match c.frameRange f.bytes with
    | some (st, d, _) => finish c.acc st 0 d 0 [] s
    | none =>
      let b0 := c.frameOff / 4096
      let blks := (List.range c.blocks).map (b0 + ·)
      let hits := blks.countP fun k => (s.newestBuf (.frame c.volId c.take frame k) (2 ^ 64)).isSome
      startReads c.acc (blks.map fun k => s.srcOfFrame v c.take frame t f k) (countHits hits s)

/-- The part register MGT_CHIP_ID (R544). -/
def State.chipId (s : State) : Nat :=
  s.part.stepping.toNat + (if s.part.profile2 then 2 else 1) * 2 ^ 8 + b2n s.part.gradeE * 2 ^ 10 + 0x9640 * 2 ^ 16

/-- Blocks of a volume that hold data: mapped ones, or those of its stored frames (R178). -/
def State.blocksInUse (s : State) (v : VolPolicy) : Nat :=
  let id := v.vol % 2 ^ 12
  if v.stream then (s.ftl.takes.filter fun e => e.1.1 == id).foldl (fun a e => a + (e.2.frames.foldl (fun n f => n + f.2.lens.length) 0)) 0
  else s.ftl.map.countP fun e => e.1.1 == id

/-- EXTRA and RESULT of IDENTIFY (R178). -/
def State.identifyInfo (s : State) : Nat × Bytes :=
  let own := match s.cfg.img with
    | some i => i.vols.countP fun v => s.mantle v
    | none => 0
  let q := match s.cfg.img with
    | some i => i.seq
    | none => 0
  (s.arrayId, leBytes 4 s.chipId ++ leBytes 1 s.head ++ leBytes 1 (pairCode s.prt.pair) ++ leBytes 2 own ++ leBytes 4 q)

/-- EXTRA and RESULT of VOLUME_INFO (R178). -/
def State.volumeInfo (s : State) (v : VolPolicy) : Nat × Bytes :=
  let id := v.vol % 2 ^ 12
  let flags := b2n v.dedup + 2 * b2n v.compress + 4 * b2n v.encrypt + 8 * b2n v.replicate + 16 * b2n v.snapshots
  (v.capacity, leBytes 1 (b2n v.stream) ++ leBytes 1 flags ++ leBytes 1 (s.mantleOf id) ++ [0] ++ leBytes 8 (s.blocksInUse v)
    ++ leBytes 4 (s.ftl.takes.countP fun e => e.1.1 == id))

/-- RESULT and EXTRA of TAKE_INFO (R178). -/
def takeInfo (t : Take) : Nat × Bytes :=
  (t.frames.foldl (fun a f => a + f.2.bytes) 0, leBytes 8 t.frames.length ++ leBytes 1 (takeCode t.state) ++ List.replicate 7 0
    ++ leBytes 8 (t.frames.foldl (fun a f => max a f.1) 0))

/-- The capsule of a passed command leaves with no more to say (R175 RELEASE): no response. -/
def discardRelease (c : Cmd) (s : State) : State :=
  finish c.acc 0x13 0 0 0 [] (s.onCmd fun u => { u with releaseDisc := satInc u.releaseDisc })

/-- RELEASE (R183): the named pull window of its queue is invalidated; one that names none is discarded and counted. -/
def release (c : Cmd) (s : State) : State :=
  let t := s.cmd.cmds.find? fun x => x.qpn == c.qpn && x.cid == c.param % 2 ^ 16 && x.pull && x.acc != c.acc && !x.orphan
  match t.bind fun t => ((s.winsOf t.acc).find? fun e => e.2.readPerm && e.2.valid && e.2.seq == bitsAt c.param 16 16).map fun e => (t, e) with
  | none => discardRelease c s
  | some (t, i, w) =>
    let s1 := mirrorWin t 3 i w (s.onCmd fun u => { u with wins := tabDel i u.wins })
    finish c.acc 0 0 0 0 [] (chg t.acc (fun t => { t with closedWins := t.closedWins + 1, sentBytes := t.sentBytes + w.wlen }) s1)

/-- ABORT (R194, R236): by the table "Abort outcomes". A TRIM, FLUSH, take command or information opcode is TOO_LATE even while it waits
(DEDUCED, log entry 14). -/
def abort (c : Cmd) (s : State) : State :=
  match s.cmd.cmds.find? fun x => x.qpn == c.qpn && x.cid == c.param % 2 ^ 16 && x.acc != c.acc && !x.orphan with
  | none => finish c.acc 0x13 0 1 0 [] s
  | some t =>
    let late (s : State) : State := finish c.acc 0x13 0 0 0 [] s
    let ended (st done detail result : Nat) (s : State) : State :=
      tryEnd t.acc (finish c.acc 0 0 0 0 [] (chg t.acc (fun t => { t with held := some (st, done, detail, result, []), phase := .finishing }) (dropWindows t.acc s)))
    if t.takesData then
      if t.held.isSome ∨ (t.phase ≠ .waiting ∧ t.namedBytes = t.len ∧ s.allComplete t.acc) then late s
      else match t.fail with
        | some (0x19, d, r) => ended 0x19 t.rxBytes d r s
        | _ => ended 0x12 t.rxBytes 0 0 s
    else if t.isRead then ended 0x12 t.sentBytes 0 0 s
    else late s

/-- An orphan record's 16 bytes (R196). -/
def Orphan.bytes (o : Orphan) : Bytes :=
  leBytes 3 o.qpn ++ [0] ++ leBytes 2 o.cid ++ leBytes 1 o.status ++ leBytes 1 o.op ++ leBytes 8 o.time.toNat

/-- ORPHAN_STATUS (R197): the matching records of this host, oldest first, as many as LENGTH takes; each one returned is removed. -/
def orphanStatus (c : Cmd) (s : State) : State :=
  match s.ctxAt c.qpn with
  | none => finish c.acc 0x12 0 0 0 [] s
  | some (_, x) =>
    let hit (o : Orphan) : Bool := (c.param == 0xFFFFFF || o.qpn == c.param) && o.src == x.src && o.hostId == x.hostId
    let out := (s.cmd.orphans.filter hit).take (c.len / 16)
    let keep := s.cmd.orphans.foldl (fun (a : List Orphan × Nat) o => if hit o ∧ a.2 < out.length then (a.1, a.2 + 1) else (a.1 ++ [o], a.2)) ([], 0)
    sendRecords c.acc (out.flatMap (·.bytes)) (s.onCmd fun u => { u with orphans := keep.1 })

/-- Start a command that names no volume (R178, R194, R197). -/
def startAdmin (c : Cmd) (s : State) : State :=
  match c.op with
  | 0x40 => let (r, e) := s.identifyInfo
            finish c.acc 0 0 0 r e s
  | 0x41 => match s.vol c.param with
    | some v => let (r, e) := s.volumeInfo v
                finish c.acc 0 0 0 r e s
    | none => finish c.acc 0x03 0 40 0 [] s
  | 0x42 => abort c s
  | _ => orphanStatus c s

/-- Start a command that passed its checks; what it cannot do yet, the settling of the head does later. -/
def startCmd (c0 : Cmd) (s0 : State) : State :=
  let s := chg c0.acc (fun c => { c with phase := .moving }) s0
  let c := { c0 with phase := .moving }
  if [0x40, 0x41, 0x42, 0x43].contains c.op then startAdmin c s
  else match s.volOf c with
  | none => s
  | some v => match s.spaceStop c v with
    | some u => finish c.acc 0x18 0 u 0 [] s
    | none => match c.op with
      | 0x01 => startRead c v s
      | 0x02 => startWrite c v s
      | 0x03 => startTrim c s
      | 0x10 => let (q, s1) := logItem (s.volOwner c.volId) (.take c.volId c.take .open 0 0 0) s
                awaitLog c.acc q s1
      | 0x11 => startAppend c v s
      | 0x12 => startFrameRead c v (s.take c.volId c.take) s
      | 0x13 => s
      | 0x14 => let (q, s1) := deleteTake v c.take s
                let s2 := match s.role v with
                  | .source t => if bitAt (s.tgtCfg t) 12 then onSource c.volId (fun x => { x with delTakes := x.delTakes ++ [c.take] }) s1 else s1
                  | _ => s1
                awaitLog c.acc q s2
      | 0x15 => match s.take c.volId c.take with
        | some t => let (r, e) := takeInfo t
                    finish c.acc 0 0 0 r e s
        | none => finish c.acc 0x20 0 0 0 [] s
      | 0x50 => match addSnap v.vol c.snap (b2n v.stream) (if v.stream then c.take else 0) 0 c.acc v.stream s with
        | some (_, q, s1) => awaitLog c.acc q s1
        | none => finish c.acc 0x32 0 1 0 [] s
      | 0x51 => match s.hostSnap c.volId c.snap with
        | some (slot, _) => let (q, s1) := deleteSnap slot s
                            awaitLog c.acc q s1
        | none => finish c.acc 0x30 0 0 0 [] s
      | 0x52 => match s.hostSnap c.volId c.snap with
        | some (_, e) => startReads c.acc ((List.range c.blocks).map fun k => s.srcOfView v e (c.lba + k)) s
        | none => finish c.acc 0x30 0 0 0 [] s
      | 0x53 => match s.hostSnap c.volId c.snap with
        | some (slot, e) => startFrameRead c v (s.heldTake slot e) s
        | none => finish c.acc 0x30 0 0 0 [] s
      | 0x54 => sendRecords c.acc (((s.snapsOf c.volId).filter fun e => decide (e.2.kind ≤ 1)).flatMap (fun e => e.2.record e.1 false) |>.take c.len) s
      | 0x55 => match createPoint v 0 c.acc s with
        | some (p, q, s1) => awaitLog c.acc q (chg c.acc (fun c => { c with rxBytes := p }) s1)
        | none => finish c.acc 0x32 0 1 0 [] s
      | 0x56 =>
        let base := match s.role v with
          | .replica _ => (tabGetD c.volId {} s.rpl.replicas).base
          | _ => ((s.baseSnap c.volId).map (·.2.point)).getD 0
        let xfer := match s.role v with
          | .replica _ => ((tabGetD c.volId {} s.rpl.replicas).begun.map (·.1)).getD 0
          | _ => (((s.points c.volId).head?).map (·.2.point)).getD 0
        finish c.acc 0 0 xfer base [] s
      | 0x58 =>
        let r := tabGetD c.volId {} s.rpl.replicas
        let p := c.param % 2 ^ 32
        let again := (r.begun.map (·.1)) == some p
        let s1 := onReplica c.volId (fun r => { r with begun := some (p, c.qpn), mnum := if again then r.mnum else 0, held := [] }) s
        let s2 := if v.stream ∧ (s.take c.volId c.take).isNone ∧ p ≠ r.base then
            (logItem (s.volOwner c.volId) (.take c.volId c.take .open 0 0 0)
              (s1.onFtl fun f => { f with takes := tabPut (c.volId, c.take) {} f.takes })).2 else s1
        finish c.acc 0 0 (if again then r.mnum else 0) r.base [] s2
      | 0x59 => nameWindows c.acc (s.param P.trPerCmd) s
      | 0x5A => if v.stream then onTake c.volId (((s.ftl.takes.find? fun e => e.1.1 == c.volId && e.2.state == .open).map (·.1.2)).getD 0)
          (fun t => { t with state := .sealing }) s else s
      | 0x5B => let (q, s1) := deleteTake v c.take s
                awaitLog c.acc q s1
      | 0x0F => release c s
      | _ => s

end Sys2Proof.Machine
end

