-- ==== Sys2Proof/Machine/Upkeep.lean ====
section
/-! DEFINITION. What the head does on its own to its media: collection (R340, R341), relocation (R343 to R346), rebuild (R378 to
R385), resynchronisation (R421) and Hem patrol (R386, R387). -/

namespace Sys2Proof.Machine

/-! ## Page groups by their place -/

/-- The data top unit whose layout a die's page groups follow: its own, or that of the span a spare stands in for. -/
def State.dataTop (s : State) (d : Nat) : Nat :=
  let u := s.topOf d
  match s.standFor u with
  | some (sp, _) => topAbove s.units maxDepth sp
  | none => u

/-- The PGKIND of a die's page group in a tree row, by the layout (R290, R291, R320). -/
def State.kindOf (s : State) (top seg row die : Nat) : Nat :=
  let fake := List.replicate (s.rowStrips top) (⟨dataKind ((s.unit top).getD {}), [], false⟩ : PageGroup)
  match (rowGroups s.units (s.memW seg row) (s.treeRow top seg row) maxDepth top fake).find? fun e => e.1 == die with
  | some e => e.2.kind
  | none => 1

/-- Whether the last media form of a strip goes on in the next one: by the tag of the last form that starts in it (R320). -/
def bodyGoesOn (body : Bytes) : Bool :=
  let starts := (List.range 128).filter fun q => crcGood (slice body (65536 + 512 + 24 * q) 24)
  match starts.getLast? with
  | some q => decide (128 < q + ceilDiv (max 1 (tagOf (slice body (65536 + 512 + 24 * q) 24)).clen) 512)
  | none => false

/-- A page group made again from its body: the header its place and the row give it (R320, R343, R380). -/
def State.remade (s : State) (top seg row die : Nat) (body : Bytes) : Bytes :=
  let kind := s.kindOf top seg row die
  let cont := if kind = 1 ∧ bodyGoesOn body then
      (s.stripAt (s.memW seg row) top seg row die).bind fun t => (s.stripDie (s.memW seg row) top seg row (t + 1)).map s.dieName
    else none
  pgBytes (pgHeader kind cont top (s.seg top seg).seq (s.treeRow top seg row)) body

/-- Whether an erase block has a read on its way (R341, R343). -/
def State.blockRead (s : State) (name b : Nat) : Bool :=
  (s.port (name / 64)).tx.any fun t => t.2.op == 0x10 && fieldLe t.2.args 0 1 == name % 64 && fieldLe t.2.args 2 2 == b

/-- Page groups of a block with a program on its way. -/
def State.blockProgs (s : State) (name b : Nat) : List Nat :=
  ((s.port (name / 64)).tx.filter fun t => t.2.op == 0x11 && fieldLe t.2.args 0 1 == name % 64 && fieldLe t.2.args 2 2 == b).map
    fun t => fieldLe t.2.args 4 2

/-! ## Collection -/

/-- The mode a free level selects (R340). -/
def State.gcModeOf (s : State) (top : Nat) : GcMode :=
  let l := s.freeLevel top
  if (s.freeSegs top).length ≤ 1 then .floor
  else if l < s.param P.gcUrgentFree then .urgent
  else if l < s.param P.gcStartFree then .background
  else .idle

/-- The code of a mode (R340). -/
def gcCode : GcMode → Nat
  | .idle => 0
  | .background => 1
  | .urgent => 2
  | .floor => 3

/-- The victim of a top unit: the sable segment with the fewest valid sectors that no relocation works in (R341). -/
def State.gcVictim (s : State) (top : Nat) : Option Nat :=
  let rew := (tabGetD top [] s.par.rew).map (·.seg)
  let moving (m : Nat) : Bool := s.ftl.relocs.any fun r => (s.dieOf r.die).any (fun d => s.topOf d == top) && (s.blk r.die r.src).seg == m
  let sable := (s.segsOf top).filter fun e => e.2.state == .full && !rew.contains e.1 && !moving e.1
  leastBy (fun m => (s.seg top m).valid * 2 ^ 32 + (s.seg top m).seq) (sable.map (·.1))

/-- Whether a unit that takes a top unit's programs is frozen (R327, R352): collection stops until it is replaced. -/
def State.collectStopped (s : State) (top : Nat) : Bool :=
  s.ftl.frozen.any fun u => (s.diesOf u).any fun d => (s.liveDies top).contains d

/-- Begin the collection of a victim (R341); a hold lets none begin (R113). -/
def startCollect (top : Nat) (s : State) : State :=
  if (s.top top).collect.isSome ∨ s.collectStopped top ∨ (s.top top).mode = .idle ∨ s.pwr.hold ∨ s.pwr.state ≠ .run ∨ ((s.unit top).getD {}).stream then s
  else match s.gcVictim top with
    | none => s
    | some m => onTop top (fun t => { t with collect := some { victim := m, rows := List.range (s.pagesOf top) } }) s

/-- Map words that name a media form in a row of a segment of a top unit, each once: shared entries and direct words (R341
valid). -/
def State.formsIn (s : State) (top seg row : Nat) : List Nat :=
  let here (w : Nat) : Bool := wordKind w == 2 && bitsAt w 24 13 == seg && bitsAt w 12 12 == row
    && (match s.dieOf (bitsAt w 43 5 * 64 + bitsAt w 37 6) with
      | some d => s.dataTop d == top
      | none => false)
  ((s.ftl.map.map (·.2)).filter here ++ (s.ftl.shares.map (·.2.loc)).filter here).foldl (fun a w => if a.contains w then a else a ++ [w]) []

/-- Change a collection. -/
def onCollect (top : Nat) (f : Collect → Collect) (s : State) : State := onTop top (fun t => { t with collect := t.collect.map f }) s

/-- Whether a form's map word or shared entry still names it (R341). -/
def State.formValid (s : State) (w : Nat) : Bool := (s.ftl.map.any fun e => e.2 == w) || s.ftl.shares.any fun e => e.2.loc == w

/-- A form that a collection read, or cannot read (R341): a form lost for good leaves its map words unrecovered (DESIGN CHOICE, log
entry 16). -/
def gcForm (top loc : Nat) (f : Option Form) (s : State) : State :=
  match f with
  | some x => onCollect top (fun c => { c with ready := c.ready ++ [(loc, x)] }) s
  | none =>
    let sh := s.ftl.shares.filter fun e => e.2.loc == loc
    let s1 := (s.ftl.map.filter fun e => e.2 == loc || sh.any fun x => e.2 == sharedWord x.1).foldl (fun s e =>
      (setWord e.1.1 e.1.2 0 3 s).2) s
    s1.onPar fun p => { p with unrecovered := satInc p.unrecovered }

/-- The segment collection copies go to (R297). -/
def gcSegment (top : Nat) (s : State) : Option Nat × State :=
  match (s.top top).gcSeg with
  | some m => (some m, s)
  | none => match s.nextFree top with
    | none => (none, s)
    | some m => (some m, onTop top (fun t => { t with gcSeg := some m }) (openSegment top m true none s))

/-- Place the copies that fill a row, or with `rest` all that are left, the row padded (R297, R341). -/
def placeCopies (top : Nat) (rest : Bool) (s : State) : State :=
  match (s.top top).collect with
  | none => s
  | some c =>
    let cap := s.rowStrips top * 128
    let fit := (c.ready.foldl (fun (a : List (Nat × Form) × Nat × Bool) e =>
      if a.2.2 ∧ a.2.1 + e.2.sectors.length ≤ cap then (a.1 ++ [e], a.2.1 + e.2.sectors.length, true) else (a.1, a.2.1, false)) ([], 0, true))
    let full := decide (fit.1.length < c.ready.length) || fit.2.1 == cap
    if fit.1 = [] ∨ (¬ full ∧ ¬ rest) then s
    else
      let n := s.rowStrips top / max 1 (s.stripeData top)
      match jnlRoom n s with
      | (false, s1) => s1
      | (true, s1) => match gcSegment top s1 with
        | (none, s2) => s2
        | (some m, s2) =>
          let row := (s2.seg top m).nextRow
          let strips := cutStrips (fit.1.map (·.2))
          let ws := s2.placeForms top m row 0 (fit.1.map fun e => e.2.sectors.length)
          let pad := List.replicate (s2.rowStrips top - strips.length) ({ body := padBody } : Strip)
          let moves := (fit.1.map (·.1)).zip ws
          completeRow top m .gc { seg := m, row := row } (strips ++ pad) [] moves
            (onCollect top (fun c => { c with ready := c.ready.drop fit.1.length, moving := c.moving ++ moves }) s2)

/-- Apply one programmed copy (R341): the word or entry that still names the old location takes the new one. -/
def applyMove (top : Nat) (mv : Nat × Nat) (s : State) : State :=
  let (a, b) := mv
  let s0 := (onCollect top (fun c => { c with moving := c.moving.filter fun x => x ≠ mv }) s).onFtl fun f =>
    { f with gcSect := f.gcSect + BitVec.ofNat 64 (bitsAt b 2 3 + 1) }
  let s1 := match s.ftl.shares.find? fun e => e.2.loc == a with
    | some (i, e) => (logItem (s.ownerOf top) (.share i b e.refs) (addValid b true (addValid a false
        (s0.onFtl fun f => { f with shares := tabPut i { e with loc := b } f.shares })))).2
    | none => match s.ftl.map.find? fun e => e.2 == a with
      | some ((v, l), _) => (logItem (s.ownerOf top) (.delta v l false b) (addValid b true (addValid a false (putWord v l b s0)))).2
      | none => s0.onFtl fun f => { f with gcDiscard := satInc f.gcDiscard }
  fprMove a b s1

/-- Start the reads of the next row of a victim (R341). -/
def collectRow (top : Nat) (c : Collect) (s : State) : State :=
  match c.rows with
  | [] => s
  | r :: rest =>
    (s.formsIn top c.victim r).foldl (fun s w => match s.wordAt top w with
      | some (a, sec, cnt) => startJob (.gc top w 0 0) (s.formPages a sec cnt) sec cnt s
      | none => s) (onCollect top (fun c => { c with rows := rest }) s)

/-- Carry a collection on (R341); `fuel` bounds the rows it begins. -/
def stepCollect (top : Nat) : Nat → State → State
  | 0, s => s
  | fuel + 1, s =>
    match (s.top top).collect with
    | none => s
    | some c =>
      let h := s.ownerOf top
      let reading := s.par.jobs.any fun j => match j.what with
        | .gc t _ _ _ => t == top
        | _ => false
      if c.trimmed then
        if (s.seg top c.victim).state = .free then onTop top (fun t => { t with collect := none }) s else s
      else if s.collectStopped top then
        -- R352: rows already issued finish; the other copies are discarded, and the victim is not erased
        if reading ∨ c.moving ≠ [] then onCollect top (fun c => { c with rows := [], ready := [] }) s
        else onTop top (fun t => { t with collect := none }) s
      else if reading ∨ s.pwr.hold ∨ s.pwr.state ≠ .run then placeCopies top false s
      else if c.rows ≠ [] then stepCollect top fuel (collectRow top c (placeCopies top false s))
      else if c.ready ≠ [] then
        let s1 := placeCopies top true s
        if ((s1.top top).collect.map (·.ready.length)) = some c.ready.length then s1 else stepCollect top fuel s1
      else if c.moving ≠ [] then s
      else match c.waitLog with
        | none => stepCollect top fuel (onCollect top (fun c => { c with waitLog := some (s.lastLog h) }) s)
        | some q =>
          let busy := (s.diesOf top).any fun d => match s.blockOf (s.dieName d) c.victim with
            | some b => s.blockRead (s.dieName d) b
            | none => false
          if s.logDurable h q ∧ ¬ busy then trimSegment top c.victim (onCollect top (fun c => { c with trimmed := true }) s) else s

/-! ## Relocation -/

/-- Change a relocation. -/
def onReloc (name src : Nat) (f : Reloc → Reloc) (s : State) : State :=
  s.onFtl fun t => { t with relocs := t.relocs.map fun r => if r.die = name ∧ r.src = src then f r else r }

/-- Page groups of a segment programmed on a die. -/
def State.programmedPages (s : State) (top m die : Nat) : List Nat :=
  match (tabGetD top [] s.par.rew).find? (·.seg == m) with
  | some r => List.range (tabGetD die 0 r.next)
  | none =>
    let base := List.range (s.seg top m).nextRow
    match tabGet top s.par.part with
    | some p => if p.seg = m ∧ p.dies.contains die then base ++ [p.row] else base
    | none => base

/-- Begin the relocation of a block for a cause (R343): retirement causes 1 to 5 of R346, 0 refresh, 8 wear levelling, 9 a threshold
limit. `late` are page groups that its failed programs leave to the target; `fix` page groups with recomputed bytes. -/
def startReloc (name src cause : Nat) (late : List (Nat × Nat × Bytes)) (fix : List (Nat × Bytes)) (s : State) : State :=
  match s.dieOf name with
  | none => s
  | some d =>
    let e := s.blk name src
    if s.ftl.relocs.any fun r => r.die == name && r.src == src then
      onReloc name src (fun r => { r with late := r.late ++ late, fix := r.fix ++ fix }) s
    else if e.spare ∨ e.state = .retired ∨ e.state = .ecru then s
    else match takeSpare (if cause = 8 then .highest else .lowest) d s with
      | (none, s1) => s1
      | (some y, s1) =>
        let top := s.dataTop d
        let busy := s.blockProgs name src ++ late.map (·.2.1)
        let todo := (s.programmedPages top e.seg d).filter fun p => !busy.contains p
        let going := e.state == .indigo
        let s2 := onBlk name y (fun b => { b with state := .indigo, seg := e.seg }) s1
        let s3 := onBlk name src (fun b => { b with moving := true, state := if cause = 2 ∨ cause = 4 ∨ cause = 5 then .russet else b.state }) s2
        s3.onFtl fun f => { f with relocs := f.relocs ++ [{ die := name, src := src, dst := y, cause := cause, todo := todo
                                                            going := going, late := late, fix := fix }] }

/-- Program a page group on a relocation's target. -/
def relocProgram (r : Reloc) (d pg : Nat) (raw : Bytes) (s : State) : State :=
  let (id, s1) := s.newId
  let row : RowProg := { id := id, kind := .reloc, top := s.dataTop d, seg := (s.blk r.die r.src).seg, row := pg, left := [d], owner := r.die }
  programBlock id r.die r.dst pg raw (s1.onPar fun p => { p with rows := p.rows ++ [row] })

/-- The page group a relocation asked for is read, or cannot be (R343 step 2): rebuilt, or a marker in its place (DESIGN CHOICE, log
entry 16). -/
def relocRead (name src pg : Nat) (raw body : Option Bytes) (s : State) : State :=
  match s.ftl.relocs.find? fun r => r.die == name && r.src == src, s.dieOf name with
  | some r, some d =>
    let top := s.dataTop d
    let seg := (s.blk name src).seg
    let bytes := match (r.fix.find? fun e => e.1 == pg).map (·.2), raw, body with
      | some b, _, _ => b
      | none, some b, _ => b
      | none, none, some b => s.remade top seg pg d b
      | none, none, none => markerBytes top (s.seg top seg).seq (s.treeRow top seg pg)
    relocProgram r d pg bytes s
  | _, _ => s

/-- A relocation's program is done (R343 steps 2 and 3). -/
def relocDone (name pg : Nat) (s : State) : State :=
  match s.ftl.relocs.find? fun r => r.die == name && r.busy == some pg with
  | some r => onReloc name r.src (fun r => match r.late with
      | (row, p, _) :: rest => if p = pg ∧ r.todo = [] then { r with busy := none, late := rest, lateDone := r.lateDone ++ [row] } else { r with busy := none }
      | [] => { r with busy := none }) s
  | none => s

/-- A relocation's target failed a program: it is retired and the copy starts again on another spare (R346). -/
def relocFailed (name src : Nat) (s : State) : State :=
  match s.ftl.relocs.find? fun r => r.die == name && r.src == src with
  | none => s
  | some r =>
    let s1 := s.onFtl fun f => { f with relocs := f.relocs.filter fun x => !(x.die == name && x.src == src) }
    let s2 := retireBlock name r.dst 2 (onBlk name src (fun b => { b with moving := false, state := if r.going then .indigo else .sable }) s1)
    startReloc name src r.cause (r.late) r.fix s2

/-- Bind the target in place of the block (R343 step 4). -/
def relocBind (r : Reloc) (d : Nat) (s : State) : State :=
  let top := s.dataTop d
  let seg := (s.blk r.die r.src).seg
  let st := if r.going then BlkState.indigo else .sable
  let s1 := onBlk r.die r.dst (fun b => { b with state := st, cls := (s.blk r.die r.src).cls }) (onBlk r.die r.src (fun b => { b with spare := true }) s)
  let (q, s2) := logItem (s.ownerOf top) (.segment top seg r.die r.dst 0 (s.seg top seg).seq) s1
  onReloc r.die r.src (fun r => { r with waitLog := some q }) s2

/-- The last steps of a relocation (R343 steps 5 and 6): the block is retired, or erased back to the spares. -/
def relocEnd (r : Reloc) (d : Nat) (s : State) : State :=
  let s1 := s.onFtl fun f =>
    { f with
      relocs := f.relocs.filter fun x => !(x.die == r.die && x.src == r.src)
      relocRefresh := if r.cause = 0 ∨ r.cause = 9 then satInc f.relocRefresh else f.relocRefresh
      relocWear := if r.cause = 8 then satInc f.relocWear else f.relocWear }
  let s2 := onBlk r.die r.src (fun b => { b with moving := false }) s1
  let s3 := if 1 ≤ r.cause ∧ r.cause ≤ 7 then retireBlock r.die r.src r.cause (onBlk r.die r.src (fun b => { b with spare := false }) s2)
    else (eraseBlock r.die r.src none s2).2
  r.lateDone.foldl (fun s row => pageDone row d false s) s3

/-- Carry a relocation on (R343). -/
def stepReloc (r : Reloc) (s : State) : State :=
  match s.dieOf r.die with
  | none => s
  | some d =>
    if r.busy.isSome then s
    else match r.waitLog with
      | some q => if s.logDurable (s.ownerOf (s.dataTop d)) q ∧ ¬ s.blockRead r.die r.src then relocEnd r d s else s
      | none => match r.todo, r.late with
        | p :: rest, _ =>
          if s.dieWritable d then
            startJob (.reloc r.die r.src p) [{ top := s.dataTop d, seg := (s.blk r.die r.src).seg, row := p, die := d }] 0 128
              (onReloc r.die r.src (fun r => { r with todo := rest, busy := some p }) s)
          else s
        | [], (_, pg, raw) :: _ =>
          if s.dieWritable d then relocProgram r d pg raw (onReloc r.die r.src (fun r => { r with busy := some pg }) s) else s
        | [], [] => if s.blockProgs r.die r.src = [] then relocBind r d s else s

/-- Wear levelling after an erase (R344): one block of a die at a time. -/
def wearLevel (name : Nat) (s : State) : State :=
  let live := (s.ftl.blks.filter fun e => e.1.1 == name && e.2.state != .retired).map (·.1.2)
  let pe (b : Nat) := (s.blk name b).pe
  let hi := (live.map pe).foldl max 0
  let lo := (live.map pe).foldl min hi
  let sable := live.filter fun b => (s.blk name b).state == .sable && !(s.blk name b).moving && !(s.blk name b).spare
  if lo + s.param P.wlSpread < hi ∧ ¬ (s.ftl.relocs.any fun r => r.die == name && r.cause == 8) then
    match leastBy pe sable with
    | some b => startReloc name b 8 [] [] s
    | none => s
  else s

/-- A sable block that has reached RD_LIMIT is relocated (R345). -/
def readLimit (name b : Nat) (s : State) : State :=
  let e := s.blk name b
  if e.state = .sable ∧ ¬ e.spare ∧ ¬ e.moving ∧ s.param P.rdLimit ≤ e.reads then startReloc name b 0 [] [] s else s

/-! ## Rebuild -/

/-- Whether a member of a span qualifies for a rebuild (R378). -/
def State.qualifies (s : State) (span pos : Nat) : Bool :=
  let m := ((s.unit span).getD {}).base + pos
  let missing := (s.diesOf m).any fun d => (tabGetD (s.dieName d) {} s.ftl.dies).missing
  let long := (s.diesOf m).any fun d => (tabGetD (s.dieName d) {} s.ftl.dies).missing && s.par.waited.contains (s.dieName d)
  !(tabHas (span, pos) s.jnl.spans)
    && ((decide (s.margin m < 0) && !missing) || long || s.ftl.frozen.contains m || (s.param P.rebuildTrigger == 1 && s.margin m == 0))

/-- A spare of a span that is free (R378): not lost, not frozen, and held by no other rebuild. -/
def State.freeSpare (s : State) (span : Nat) : Option Nat :=
  let d := (s.unit span).getD {}
  ([d.spare0, d.spare1].filterMap id).find? fun u =>
    decide (0 ≤ s.margin u) && !s.ftl.frozen.contains u && !(s.jnl.spans.any fun e => e.2.spare == u)

/-- Rows of a data top unit programmed so far, in segment and row order (R379). -/
def State.rowsOf (s : State) (top : Nat) : List (Nat × Nat) :=
  ((s.segsOf top).filter fun e => e.2.state == .open || e.2.state == .full || e.2.state == .part).flatMap fun e =>
    (List.range e.2.nextRow).map fun r => (e.1, r)

/-- Begin the rebuild of a member onto a spare (R379). -/
def startRebuild (span pos spare : Nat) (s : State) : State :=
  let top := topAbove s.units maxDepth span
  let walk := s.rowsOf top
  let (_, s1) := jnlSpan span pos { spare := spare, rowsTotal := walk.length, recSeq := 0 } s
  raise 0x0A01 (span + pos * 2 ^ 13) .all (recomputeHealth ((s1.onAdp fun a => { a with inst := tabDel (5, span) a.inst }).onPar fun p =>
    { p with rebuilds := tabPut span { pos := pos, spare := spare, walk := walk, total := walk.length, top := top } p.rebuilds
             noSpare := p.noSpare.filter (· ≠ span) }))

/-- Start what rebuilds are due (R378): one a span, one a data top unit, the lowest margin first. A partial row of the unit is closed before,
so that every row before the start is whole and no version of R368 is live (DESIGN CHOICE, log entry 103). -/
def checkRebuilds (s : State) : State :=
  let spans := sortOn (fun u => (s.margin (topAbove s.units maxDepth u) + 1).toNat)
    ((List.range s.units.length).filter fun u => ((s.unit u).getD {}).kind == .span && s.serves u)
  spans.foldl (fun s sp =>
    let top := topAbove s.units maxDepth sp
    if tabHas sp s.par.rebuilds ∨ s.par.rebuilds.any (fun e => e.2.top == top) ∨ ¬ (s.top top).formatted then s
    else
      let d := (s.unit sp).getD {}
      match leastBy (fun p => (s.margin (d.base + p) + 1).toNat) ((List.range d.width).filter fun p => s.qualifies sp p) with
      | none => s
      | some pos => match s.freeSpare sp with
        | some t => if tabHas top s.par.part then closeRow top s else startRebuild sp pos t s
        | none => if s.par.noSpare.contains sp then s
            else note 0x0A04 sp (s.onPar fun p => { p with noSpare := p.noSpare ++ [sp] })) s

/-- A row of the walk has been read (R380): the spare's page groups go out as one row, a marker for what is beyond repair (R385). -/
def rebuildRow (span : Nat) (bodies : List (Option Bytes)) (s : State) : State :=
  match tabGet span s.par.rebuilds with
  | none => s
  | some r => match r.walk with
    | [] => s
    | (seg, row) :: _ =>
      let home := s.diesOf (((s.unit span).getD {}).base + r.pos)
      let dies := s.diesOf r.spare
      let q := (s.seg r.top seg).seq
      let tr := s.treeRow r.top seg row
      let pages := (dies.zip (home.zip bodies)).map fun (d, _, b) => (d, match b with
        | some x => s.remade r.top seg row d x
        | none => markerBytes r.top q tr)
      let lost := bodies.countP Option.isNone
      let s1 := dies.foldl (fun s d => match s.blockOf (s.dieName d) seg with
        | some b => onBlk (s.dieName d) b (fun e => if e.state = .ecru then { e with state := .indigo } else e) s
        | none => exchangeBlock r.top seg d s) s
      let (id, s2) := s1.newId
      let s3 := issueRow { id := id, kind := .rebuild, top := r.top, seg := seg, row := row, left := [], owner := span } pages s2
      if lost = 0 then s3
      else
        let gone := (List.range (s.rowStrips r.top)).filter fun t => match s.stripDie (s.memR seg row) r.top seg row t with
          | some d => (home.zip bodies).any fun e => e.1 == d && e.2.isNone
          | none => false
        let words := (s3.formsIn r.top seg row).filter fun w => match s3.wordAt r.top w with
          | some (a, _, _) => (home.zip bodies).any fun e => e.1 == a.die && e.2.isNone
          | none => false
        let s4 := if ((s.unit r.top).getD {}).stream then s3 else words.foldl (fun s w =>
          let sh := s.ftl.shares.filter fun e => e.2.loc == w
          (s.ftl.map.filter fun e => e.2 == w || sh.any fun x => e.2 == sharedWord x.1).foldl (fun s e => (setWord e.1.1 e.1.2 0 3 s).2) s) s3
        raise 0x0A03 (span + min gone.length 31 * 2 ^ 13) .all (s4.onPar fun p =>
          { p with unrecovered := satAdd p.unrecovered gone.length
                   markers := p.markers ++ (home.zip bodies).filterMap fun e => if e.2.isNone then some { top := r.top, seg := seg, row := row, die := e.1 } else none })

/-- A row of the walk is programmed on the spare (R380): ROWS_DONE is committed, and the walk goes on or ends (R383). -/
def rebuildDone (span : Nat) (s : State) : State :=
  match tabGet span s.par.rebuilds with
  | none => s
  | some r =>
    let r1 := { r with walk := r.walk.drop 1, done := r.done + 1 }
    let e : SpanEnt := { spare := r.spare, rowsDone := r1.done, rowsTotal := r.total }
    (jnlSpan span r.pos e (s.onPar fun p => { p with rebuilds := tabPut span r1 p.rebuilds })).2

/-- The live versions of incomplete stripes that lie on the member a rebuild replaces, with their strips at hand (R368, R379). -/
def State.versionsOn (s : State) (span : Nat) (r : Rebuild) : List (Nat × StripeRec) :=
  let home := s.diesOf (((s.unit span).getD {}).base + r.pos)
  let here (l : Loc) : Bool := match s.dieOf (l.port * 64 + l.die) with
    | some d => home.contains d
    | none => false
  s.jnl.recs.filterMap fun e =>
    if e.1.1 = r.top ∧ ¬ e.2.complete ∧ e.2.covered ≠ 0 ∧ (here e.2.p ∨ (e.2.bandTop = false ∧ here e.2.q))
      ∧ (tabGet r.top s.par.part).any (fun p => p.strips ≠ [] && p.strips.all fun x => x.2 ≠ []) then some (e.1.2, e.2)
    else none

/-- The parity of one live version that stood on a member is written into a segment of row rewrites: the extension takes the members'
places there (R380, R383). `par` are the parity dies with their bodies, `todo` those of the member. -/
def regenInto (span : Nat) (r : Rebuild) (stripe : Nat) (v : StripeRec) (p : PartRow) (here : Loc → Bool) (par todo : List (Nat × Nat × Bytes))
    (m : Nat) (s1 : State) : State :=
  let s2 := todo.foldl (fun s e => if (s.blockOf (s.dieName e.1) m).isSome then s else exchangeBlock r.top m e.1 s) s1
  let next (d : Nat) : Loc := s2.loc d m (match (tabGetD r.top [] s2.par.rew).find? (·.seg == m) with
    | some x => tabGetD d 0 x.next
    | none => 0)
  let newLoc (l : Loc) (k : Nat) : Loc := if here l then next ((par.getD k (0, 0, [])).1) else l
  let s3 := jnlIntent r.top p.seg p.row stripe v.covered false false (newLoc v.p 0) (if v.bandTop then v.q else newLoc v.q 1) s2
  let (id, s4) := s3.newId
  let go := todo.foldl (fun (acc : List Nat × List Nat × State) e =>
    let (_, ok, s') := programVersion id r.top m e.1 e.2.1 v.row e.2.2 acc.2.2
    if ok then (acc.1 ++ [e.1], acc.2.1, s') else (acc.1, acc.2.1 ++ [e.1], s')) ([], [], s4)
  go.2.2.onPar fun q => { q with rows := q.rows ++ [{ id := id, kind := .extend, top := r.top, seg := p.seg, row := p.row, left := go.1
                                                      failed := go.2.1, stripes := [(stripe, v.covered)], owner := span + 1 }] }

/-- Regenerate one version (R379, R388): recomputed from its covered strips, it is programmed in the rewrite segment on the spare, and the
new location is committed. -/
def regenVersion (span : Nat) (r : Rebuild) (stripe : Nat) (v : StripeRec) (s : State) : State :=
  match tabGet r.top s.par.part with
  | none => s
  | some p =>
    let home := s.diesOf (((s.unit span).getD {}).base + r.pos)
    let here (l : Loc) : Bool := match s.dieOf (l.port * 64 + l.die) with
      | some d => home.contains d
      | none => false
    let n := s.stripeData r.top
    let first := s.firstStripe r.top p.seg p.row
    let bodies := (((p.strips.map (·.2)).drop ((stripe - first) * n)).take v.covered)
    let par := (s.parityDies r.top p.seg p.row stripe).zip (s.stripeParity r.top bodies)
    let todo := (par.zip [here v.p, here v.q]).filterMap fun e => if e.2 then some e.1 else none
    match rewriteSegment r.top (todo.map (·.1)) s with
    | (none, s1) => closeRow r.top s1
    | (some m, s1) => regenInto span r stripe v p here par todo m s1

/-- Carry a rebuild on (R379, R380, R383, R384): the live versions on the member first, then the walk. -/
def stepRebuild (span : Nat) (r : Rebuild) (s : State) : State :=
  let committing : Bool := match tabGet (span, r.pos) s.jnl.spans with
    | some e => s.jnlOpen e.recSeq
    | none => true
  let busy := (s.par.jobs.any fun j => j.what == .rebuild span) || s.par.rows.any fun x => x.kind == .rebuild && x.owner == span
  if s.margin r.spare < 0 ∨ s.ftl.frozen.contains r.spare then
    -- R384: the spare itself is gone; the next free one is tried from the first row
    let s1 := s.onPar fun p => { p with rebuilds := tabDel span p.rebuilds }
    match s1.freeSpare span with
    | some t => startRebuild span r.pos t (s1.onJnl fun j => { j with spans := tabDel (span, r.pos) j.spans })
    | none => if s.par.noSpare.contains span then s1 else note 0x0A04 span (s1.onPar fun p => { p with noSpare := p.noSpare ++ [span] })
  else if committing ∨ busy ∨ s.pwr.hold then s
  else if s.versionsOn span r ≠ [] then
    if s.par.rows.any (fun x => x.kind == .extend && x.top == r.top) then s
    else (s.versionsOn span r).foldl (fun s e => regenVersion span r e.1 e.2 s) s
  else match r.walk with
    | [] =>
      let (_, s1) := jnlSpan span r.pos { complete := true, spare := r.spare, rowsDone := r.done, rowsTotal := r.total, recSeq := 0 } s
      recomputeHealth (raise 0x0A02 (span + r.pos * 2 ^ 13) .all (s1.onPar fun p => { p with rebuilds := tabDel span p.rebuilds }))
    | (seg, row) :: _ =>
      let home := s.diesOf (((s.unit span).getD {}).base + r.pos)
      startJob (.rebuild span) (home.map fun d => { top := r.top, seg := seg, row := row, die := d }) 0 128 s

/-! ## Resynchronisation -/

/-- Begin the resynchronisation of a sled's dies with what was done while they were missing (R421). -/
def startResync (port : Nat) (s : State) : State :=
  let missed := (s.port port).missed
  let dies := (List.range s.units.length).filter fun u => let d := (s.unit u).getD {}
    d.kind == .die && d.port == port
  let s1 := dies.foldl (fun s d =>
    let name := s.dieName d
    let top := s.dataTop d
    let mine := missed.filter fun e => e.1 == top
    let rows := mine.filterMap fun e => e.2.2.map fun r => (e.2.1, r)
    let s' := (nubNat ((mine.filter fun e => e.2.2.isNone).map (·.2.1))).foldl (fun s m => match s.blockOf name m with
      | some b => (eraseBlock name b (some (top, m)) s).2
      | none => s) s
    (s'.onAdp fun a => { a with inst := tabDel (5, d) a.inst }).onPar fun p => { p with resyncs := tabPut name rows p.resyncs }) s
  recomputeHealth (onPort port (fun q => { q with missed := [] }) s1)

/-- A page group of a resynchronised die is known again (R421): it is programmed on the die. -/
def resyncPage (name : Nat) (body : Option Bytes) (s : State) : State :=
  match tabGet name s.par.resyncs, s.dieOf name with
  | some ((seg, row) :: rest), some d =>
    let top := s.dataTop d
    let raw := match body with
      | some b => s.remade top seg row d b
      | none => markerBytes top (s.seg top seg).seq (s.treeRow top seg row)
    let (id, s1) := s.newId
    issueRow { id := id, kind := .resync, top := top, seg := seg, row := row, left := [], owner := name } [(d, raw)]
      (s1.onPar fun p => { p with resyncs := tabPut name rest p.resyncs })
  | _, _ => s

/-- Carry a resynchronisation on (R421). -/
def stepResync (name : Nat) (rows : List (Nat × Nat)) (s : State) : State :=
  let busy := (s.par.jobs.any fun j => j.what == .resync name) || s.par.rows.any fun r => r.kind == .resync && r.owner == name
  let erasing := (s.port (name / 64)).tx.any fun t => t.2.op == 0x12 && fieldLe t.2.args 0 1 == name % 64
  if busy ∨ erasing then s
  else match rows, s.dieOf name with
    | (seg, row) :: _, some d =>
      let a : PgAddr := { top := s.dataTop d, seg := seg, row := row, die := d }
      let (id, s1) := s.newId
      -- the die's own page group is not to be read: it counts as one that cannot be
      advanceJob id (s1.onPar fun p => { p with jobs := p.jobs ++ [{ id := id, what := .resync name, want := [a], got := [(a, none)] }] })
    | _, _ => recomputeHealth (s.onPar fun p => { p with resyncs := tabDel name p.resyncs })

/-! ## Hem patrol -/

/-- Rows of a patrol pass: data top units, map bands and journal bands of the head, in order (R386). -/
def State.patrolRows (s : State) : List (Nat × Nat × Nat) :=
  ((List.range s.units.length).filter fun u => let d := (s.unit u).getD {}
    (d.role == .top || d.role == .mapBand || d.role == .jnlBand) && s.ownerOf u == s.head && (s.top u).formatted).flatMap fun u =>
      (s.rowsOf u).map fun e => (u, e.1, e.2)

/-- Whether a row lies under a live stripe record (R386). -/
def State.rowLive (s : State) (top seg row : Nat) : Bool := s.jnl.recs.any fun e => e.1.1 == top && e.2.row == s.treeRow top seg row

/-- Repair a page group (R387): its block is relocated with the recomputed bytes in its place. -/
def patrolRepair (a : PgAddr) (finding : Nat) (body : Bytes) (s : State) : State :=
  let name := s.dieName a.die
  -- R393: a row that a rebuild still has to walk on this member is left to the rebuild
  if s.par.rebuilds.any fun e => e.2.top == a.top && (s.diesOf (((s.unit e.1).getD {}).base + e.2.pos)).contains a.die
      && e.2.walk.contains (a.seg, a.row) then s
  else
  let s1 := note 0x0A05 (a.top + finding * 2 ^ 13) (s.onPar fun p => { p with patrolFix := satInc p.patrolFix })
  match s.blockOf name a.seg with
  | some b => startReloc name b 0 [] [(a.row, s.remade a.top a.seg a.row a.die body)] s1
  | none => s1

/-- The checks of a patrolled row (R387): page groups that could not be read are repaired first; then each band row's XOR, then each
stripe of the top span. -/
def patrolCheck (top seg row : Nat) (got : List (PgAddr × Option Bytes)) (found : List (PgAddr × Option Bytes)) (s : State) : State :=
  let bad := got.filter fun e => e.2.isNone
  let s1 := bad.foldl (fun s e => match (found.find? fun f => f.1 == e.1).bind (·.2) with
    | some b => patrolRepair e.1 0 b s
    | none => s) s
  if bad ≠ [] then s1
  else
    let body (d : Nat) : Bytes := (((got.find? fun e => e.1.die == d).bind (·.2)).map pgBody).getD zeroBody
    let tr := s.treeRow top seg row
    let bands := (List.range s.units.length).filter fun u => let d := (s.unit u).getD {}
      d.kind == .band && (d.members.all fun m => got.any fun e => e.1.die == m) && d.width != 0
    let s2 := bands.foldl (fun s u =>
      let d := (s.unit u).getD {}
      let x := d.base + tr % d.width
      let want := xorAll ((d.members.filter (· ≠ x)).map body)
      if want = body x then s else patrolRepair { top := top, seg := seg, row := row, die := x } 1 want s) s1
    let spans := (List.range s.units.length).filter fun u => let d := (s.unit u).getD {}
      d.kind == .span && topAbove s.units maxDepth u == top && (s.unit d.base).any (·.kind == .band)
    spans.foldl (fun s u =>
      let d := (s.unit u).getD {}
      let n := d.width
      let per := s.rowStrips d.base
      (List.range per).foldl (fun s k =>
        let st := tr * per + k
        let dieAt (place : Nat) : Nat :=
          let b := (s.unit (s.memR seg row u (memberAt n st place))).getD {}
          b.base + (if k < tr % max 1 b.width then k else k + 1)
        let data := (List.range (n - 2)).map fun j => body (dieAt (j + 2))
        let sp := xorBytes (body (dieAt 0)) (parityP data)
        let sq := xorBytes (body (dieAt 1)) (parityQ data)
        let at_ (place : Nat) : PgAddr := { top := top, seg := seg, row := row, die := dieAt place }
        if sp = zeroBody ∧ sq = zeroBody then s
        else if sq = zeroBody then patrolRepair (at_ 0) 2 (parityP data) s
        else if sp = zeroBody then patrolRepair (at_ 1) 3 (parityQ data) s
        else match (List.range (n - 2)).find? fun j => gfScale (gfPow j) sp == sq with
          | some j => patrolRepair (at_ (j + 2)) 4 (xorBytes (data.getD j zeroBody) sp) s
          | none => note 0x0A06 u (s.onPar fun p => { p with patrolUnfix := satInc p.patrolUnfix })) s) s2

/-- One step of Hem patrol (R386): the next row is read, one under a live record later; the pass ends with PATROL_PASS. -/
def patrolStep (s : State) : State :=
  if s.pwr.state ≠ .run ∨ s.pwr.hold ∨ ¬ s.ftl.ready ∨ (s.par.jobs.any fun j => match j.what with
      | .patrol _ => true
      | _ => false) then s
  else
    let rows := s.patrolRows
    let read (e : Nat × Nat × Nat) (s : State) : State :=
      let dies := diesWith s.units (s.memR e.2.1 e.2.2) maxDepth e.1
      startJob (.patrol e.1) (dies.map fun d => { top := e.1, seg := e.2.1, row := e.2.2, die := d }) 0 128 s
    match rows[s.par.patrolPos]? with
    | some e =>
      let s1 := s.onPar fun p => { p with patrolPos := p.patrolPos + 1 }
      if s.rowLive e.1 e.2.1 e.2.2 then s1.onPar fun p => { p with patrolSkip := p.patrolSkip ++ [e] } else read e s1
    | none => match s.par.patrolSkip with
      | e :: rest =>
        if s.rowLive e.1 e.2.1 e.2.2 then s.onPar fun p => { p with patrolSkip := rest ++ [e] }
        else read e (s.onPar fun p => { p with patrolSkip := rest })
      | [] =>
        let n := s.par.passes + 1
        note 0x0A07 (n.toNat % 2 ^ 16) (s.onPar fun p => { p with patrolPos := 0, passes := n })

end Sys2Proof.Machine
end

