-- ==== Sys2Proof/Machine/Progress.lean ====
section
/-! DEFINITION. What follows from every change: rows that are over, map entries in acceptance order (R334), durability and the release
of dirty data (R227, R436), records that retire (R372), log and journal reclaim (R336, R374), commands that can go on or end (R175,
R188, R189), forced flushes (R365, R366). `settle` does all of it; every command of the block ends with it. -/

namespace Sys2Proof.Machine

/-! ## Rows that are over -/

/-- Whether a row belongs to a stream top unit. -/
def State.streamTop (s : State) (top : Nat) : Bool := ((s.unit top).getD {}).stream

/-- What the completion of a row program brings. -/
def rowOver (r : RowProg) (s0 : State) : State :=
  let s := s0.onPar fun p => { p with rows := p.rows.filter (·.id ≠ r.id) }
  match r.kind with
  | .data | .extend | .close =>
    let s1 := if s.streamTop r.top then s else r.blocks.foldl (fun s b => onBuf b.1 b.2 (fun b => { b with programmed := true }) s) s
    if r.kind = .extend ∧ (tabGet r.top s1.par.part).any (·.closing) then
      closeRow r.top (s1.onPar fun p => { p with part := tabUpd r.top (fun x => { x with closing := false }) p.part })
    else s1
  | .gc => r.moves.foldl (fun s m => applyMove r.top m s) s
  | .mapLog => s.onFtl fun f =>
      let done (l : MapLog) : MapLog :=
        let rows := l.rows.map fun x => if x.id = r.id then { x with done := true } else x
        let open_ := rows.dropWhile (·.done)
        { l with rows := open_, durable := match (rows.takeWhile (·.done)).getLast? with
          | some x => max l.durable x.last
          | none => l.durable }
      { f with log0 := done f.log0, log1 := done f.log1
               mapLag := match (f.log0.rows ++ f.log1.rows).find? (·.id == r.id) with
                 | some x => word (max f.mapLag.toNat (satN 32 (s.since x.since / usTicks)))
                 | none => f.mapLag }
  | .journal =>
    match s.jnl.spilling.find? fun e => e.1 == r.id with
    | none => s
    | some (_, _, recs) =>
      let s1 := s.onJnl fun j => { j with spilling := j.spilling.filter fun e => e.1 ≠ r.id }
      let lag := s1.jnl.spilling.all fun e => e.1 != r.id
      let homes (q : Nat) : Nat := s1.jnl.place.countP fun p => p.1 == q
      let open_ (q : Nat) : Bool := s1.jnl.spilling.any fun e => e.2.2.contains q
      let s2 := recs.foldl (fun (s : State) (q : Nat) => if ¬ open_ q ∧ (s.prt.pair = .paired ∨ 2 ≤ homes q) then jnlCommitted q s else s) s1
      s2.onJnl fun j => { j with durable := if lag ∧ !(j.spilling.any fun e => recs.any fun q => e.2.2.contains q) then max j.durable r.upTo else j.durable }
  | .reloc => relocDone r.owner r.row s
  | .rebuild => rebuildDone r.owner s
  | .resync => s

/-- Every row program that is over. -/
def settleRows (s : State) : State := s.rowsOver.foldl (fun s r => rowOver r s) s

/-! ## Stream blocks and frames -/

/-- Whether the strips of a frame's draft are all programmed (R299, R334). -/
def State.draftProgrammed (s : State) (top vol t key : Nat) : Bool :=
  match s.take vol t with
  | none => true
  | some tk =>
    (match tabGet key tk.drafts with
      | some d => d.whole
      | none => true)
    && !(tk.row.any fun e => e.1 == key) && !(s.par.rows.any fun r => r.top == top && r.owner == t && r.blocks.contains (key, 0))

/-- Mark the blocks of frames whose strips are programmed. -/
def settleFrames (s : State) : State :=
  s.onIng fun i => { i with buf := i.buf.map fun b => match b.addr with
    | .frame v t _ _ => if !b.programmed ∧ s.draftProgrammed (((s.vol v).map (·.topUnit)).getD 0) v t b.draft then { b with programmed := true } else b
    | .block .. => b }

/-- Frame records of frames that are complete and programmed enter the log (R335). -/
def logFrames (s : State) : State :=
  let done := s.ing.buf.filterMap fun b => match b.addr with
    | .frame v t f _ => if b.visible ∧ b.seqAt.isNone ∧ s.ing.buf.all (fun x => match x.addr with
        | .frame v' t' f' _ => !(v == v' && t == t' && f == f') || x.programmed
        | .block .. => true) then some (v, t, f) else none
    | .block .. => none
  (done.foldl (fun a x => if a.contains x then a else a ++ [x]) []).foldl (fun s (v, t, f) =>
    let h := s.volOwner v
    let (q, s1) := match (s.take v t).bind fun tk => tabGet f tk.frames with
      | some fr => logItem h (.frame v t f fr) s
      | none => (s.lastLog h, s)
    s1.onIng fun i => { i with buf := i.buf.map fun b => match b.addr with
      | .frame v' t' f' _ => if v = v' ∧ t = t' ∧ f = f' then { b with seqAt := some q } else b
      | .block .. => b }) s

/-! ## Map entries -/

/-- Whether a buffered block's map entry may be made now: its media form is programmed, its command complete, those of its page
that a view lies behind entered, no view waits between, and there is room to preserve its page (R189, R334, R463, R464, R466). -/
def State.mapReady (s : State) (b : BufBlk) : Bool :=
  match b.addr with
  | .frame .. => false
  | .block vol lba =>
    let page := lba / pageWords
    b.seqAt.isNone && b.visible && !b.dead && ((b.programmed && b.place.isSome) || b.ref.isSome)
      && !(s.ing.buf.any fun x => decide (x.acc < b.acc) && x.visible && !x.dead && x.seqAt.isNone && (match x.addr with
        | .block v l => v == vol && l / pageWords == page && s.rpl.snaps.any fun e =>
            e.2.vol % 2 ^ 12 == vol && !e.2.releasing && !e.2.hold && decide (x.acc ≤ e.2.acc ∧ e.2.acc < b.acc)
        | .frame .. => false))
      && !(s.cmd.cmds.any fun c => (c.op == 0x50 || c.op == 0x55) && c.volId == vol && decide (c.acc < b.acc) && (c.phase == .accepted || c.phase == .waiting))
      && (match s.needsView vol page b.acc with
        | some _ => (s.noViewRoom vol page).isNone
        | none => true)

/-- Make one map entry; a fresh block of a volume with dedup enters the index (R253). -/
def mapBlock (b : BufBlk) (s : State) : State :=
  match b.addr with
  | .frame .. => s
  | .block vol lba =>
    let w := match b.ref with
      | some r => r
      | none => b.place.getD 0
    let (q, s1) := setWord vol lba b.acc w s
    let s2 := onBuf b.acc b.num (fun b => { b with seqAt := some q }) s1
    match s.vol vol with
    | some v => if v.dedup ∧ b.ref.isNone then fpInsert v (sha256 b.plain) b.tag.k w s2 else s2
    | none => s2

/-- Make every map entry that is due, in acceptance order (R189, R334); `fuel` bounds them. -/
def mapBlocks : Nat → State → State
  | 0, s => s
  | fuel + 1, s =>
    let due := s.ing.buf.filter fun b => s.mapReady b
    match due.foldl (fun a b => match a with
        | some x => if b.acc < x.acc ∨ (b.acc = x.acc ∧ b.num < x.num) then some b else some x
        | none => some b) none with
    | none => s
    | some b => mapBlocks fuel (mapBlock b s)

/-! ## Durable blocks leave -/

/-- RELEASE entries of blocks: runs of one command (R436). -/
def releaseEntries (bs : List BufBlk) : List Bytes :=
  let runs := bs.foldl (fun (a : List (Nat × Nat × Nat × Nat)) b => match a.getLast? with
    | some (q, c, f, n) => if q = b.qpn ∧ c = b.cid ∧ f + n = b.num then a.dropLast ++ [(q, c, f, n + 1)] else a ++ [(b.qpn, b.cid, b.num, 1)]
    | none => [(b.qpn, b.cid, b.num, 1)]) []
  runs.map fun (q, c, f, n) => leBytes 3 q ++ [0] ++ leBytes 2 c ++ [0, 0] ++ leBytes 4 f ++ leBytes 4 n

/-- Blocks whose map entries are durable leave the buffer, and the partner learns it (R227, R436); a superseded block leaves once its
strip is programmed. -/
def releaseBlocks (s : State) : State :=
  let durable (b : BufBlk) : Bool := match b.seqAt with
    | some q => s.logDurable (s.volOwner b.addr.volume) q
    | none => false
  let out := s.ing.buf.filter durable
  let dead := s.ing.buf.filter fun b => b.dead && b.programmed && (s.cmdAt b.acc).isNone
  let told := (out ++ dead).filter fun b => tabGetD b.acc 0 s.ing.dirtyBy != 0
  let s1 := if told = [] then s else mirrorMap (plSend .map 0x21 ((releaseEntries told).flatten) .none) s
  (out ++ dead).foldl (fun s b => leaveBlock b s) s1

/-! ## Records retire -/

/-- Whether a stripe record may retire (R372). -/
def State.mayRetire (s : State) (top : Nat) (r : StripeRec) : Bool :=
  let row := r.row % s.pagesOf top
  let placed (w : Nat) : Bool := bitsAt w 24 13 == r.seg && bitsAt w 12 12 == row
  r.complete && r.kind == .committed && !s.jnlOpen r.recSeq
    && !(s.par.rows.any fun x => x.top == top && x.seg == r.seg && x.row == row)
    && !(tabGet top s.par.part).any (fun p => p.seg == r.seg && p.row == row)
    && !(s.ing.buf.any fun b => match b.place with
      | some w => placed w && (match s.dieOf (bitsAt w 43 5 * 64 + bitsAt w 37 6) with
        | some d => s.dataTop d == top
        | none => false)
      | none => false)
    && (match (s.top top).collect with
      | some c => !(c.moving.any fun m => placed m.2)
      | none => true)
    && (!(s.seg top r.seg).gc || s.logDurable (s.ownerOf top) (s.lastLog (s.ownerOf top)))

/-- Retire the records that may (R372), in STRIPE order. -/
def retireRecords (s : State) : State :=
  let due := (s.jnl.recs.filter fun e => s.mayRetire e.1.1 e.2).foldl (fun (a : List ((Nat × Nat) × StripeRec)) x =>
    a.takeWhile (fun y => decide (y.1.2 < x.1.2)) ++ [x] ++ a.dropWhile (fun y => decide (y.1.2 < x.1.2))) []
  let s1 := due.foldl (fun s e => (jnlRecord e.1.1 e.1.2 { e.2 with kind := .retired } s).2) s
  (nubNat (due.map (·.1.1))).foldl (fun s t => dropRewrites t s) s1

/-! ## Reclaim of the map log and of the journal -/

/-- The current version of a log item by its key, while it is live (R336). -/
def State.currentItem (s : State) (k : LogKey) : Option LogItem :=
  match k with
  | .page vol slot p =>
    if slot = 0 then some (.page vol 0 p ((List.range pageWords).map fun i => s.mapWord (vol % 2 ^ 12) (p * pageWords + i)))
    else (tabGet (slot, p) s.rpl.pages).map (.page vol slot p)
  | .share i => (tabGet i s.ftl.shares).map fun e => .share i e.loc e.refs
  | .segment top m die =>
    let g := s.seg top m
    if die = 0 then some (.segment top m 0 0 (match g.state with
      | .trimmed => 1
      | .free => 2
      | .dismantled => 4
      | _ => 3) g.seq)
    else (s.blockOf (die - 1) m).map fun b => .segment top m (die - 1) b 0 g.seq
  | .take vol t => (s.take vol t).map fun k => .take vol t k.state k.frames.length (k.segs.foldl (fun a e => a + e.2.2) 0) k.segs.length
  | .takeSegs vol t => (s.take vol t).map fun k => .takeSegs vol t k.segs
  | .frame vol t f => ((s.take vol t).bind fun k => tabGet f k.frames).map (.frame vol t f)
  | .valid top m => some (.valid top m (s.seg top m).valid (s.seg top m).seq)
  | .snap slot => (tabGet slot s.rpl.snaps).map fun e => .snap slot (e.record slot false)

/-- The oldest full segment of a band. -/
def State.oldestSeg (s : State) (u : Nat) : Option Nat :=
  leastBy (fun m => (s.seg u m).seq) (((s.segsOf u).filter fun e => e.2.state == .full).map (·.1))

/-- Reclaim a map band's oldest segment while the band has no more than one free one (R336; when it starts is a DESIGN CHOICE, log
entry 17). -/
def reclaimMap (h u : Nat) (s : State) : State :=
  match (s.top u).collect with
  | some c => match c.waitLog with
    | some q => if c.trimmed then (if (s.seg u c.victim).state = .free then onTop u (fun t => { t with collect := none }) s else s)
        else if s.logDurable h q then trimSegment u c.victim (onCollect u (fun c => { c with trimmed := true }) s) else s
    | none => s
  | none =>
    if 1 < (s.freeSegs u).length ∨ ¬ (s.top u).formatted then s
    else match s.oldestSeg u with
      | none => s
      | some m =>
        let keys := ((s.mapLog h).place.filter fun e => e.2 == (u, m) || e.2 == placeUnknown).map (·.1)
        let s1 := logItems h (keys.filterMap s.currentItem) s
        onTop u (fun t => { t with collect := some { victim := m, rows := [], waitLog := some (s1.lastLog h) } }) s1

/-- Reclaim a journal band's oldest segment likewise (R374). -/
def reclaimJournal (u : Nat) (s : State) : State :=
  match (s.top u).collect with
  | some c =>
    let open_ := s.jnl.spilling.any fun e => e.2.1 == u
    if c.trimmed then (if (s.seg u c.victim).state = .free then onTop u (fun t => { t with collect := none }) s else s)
    else if open_ then s
    else trimSegment u c.victim (onCollect u (fun c => { c with trimmed := true }) s)
  | none =>
    if 1 < (s.freeSegs u).length ∨ ¬ (s.top u).formatted then s
    else match s.oldestSeg u with
      | none => s
      | some m =>
        let here (q : Nat) : Bool := (s.jnl.place.any fun e => e.1 == q && e.2.1 == u && e.2.2 == m) || !(s.jnl.place.any fun e => e.1 == q)
        let recs := s.jnl.recs.filterMap fun e => if here e.2.recSeq then some { recSeq := e.2.recSeq, bytes := e.2.bytes e.1.1 e.1.2, since := s.time : JEntry } else none
        let spans := s.jnl.spans.filterMap fun e => if here e.2.recSeq then some { recSeq := e.2.recSeq, bytes := e.2.bytes e.1.1 e.1.2, since := s.time : JEntry } else none
        spillNow (s.ownerOf u) ((recs ++ spans).length + 1) (recs ++ spans)
          (onTop u (fun t => { t with collect := some { victim := m, rows := [] } }) s)

/-! ## Media upkeep -/

/-- Segments whose erases are done are free (R339, R341); collection, relocation, rebuild, resynchronisation, reclaim and the alarms
follow. -/
def settleMedia (s : State) : State :=
  let s1 := (s.ftl.segs.filter fun e => e.2.state == .trimmed && e.2.erasing.isEmpty && s.serves e.1.1).foldl (fun s e => freeSegment e.1.1 e.1.2 s) s
  let s2 := s1.blockTops.foldl (fun s u => stepCollect u (s.pagesOf u + 4) s) s1
  let s3 := if s2.pwr.hold then s2 else s2.ftl.relocs.foldl (fun s r => stepReloc r s) s2
  let s4 := s3.par.rebuilds.foldl (fun s e => stepRebuild e.1 e.2 s) s3
  let s5 := s4.par.resyncs.foldl (fun s e => stepResync e.1 e.2 s) s4
  let s6 := if s5.pwr.hold then s5 else checkRebuilds s5
  let heads : List Nat := if s6.prt.pair = .lone then [0, 1] else [s6.head]
  let s7 := heads.foldl (fun s h => (s.mapBands h).foldl (fun s u => reclaimMap h u s) s) s6
  let s8 := heads.foldl (fun s h => (s.homesUsable h).foldl (fun s u => reclaimJournal u s) s) s7
  let tops := (List.range s8.units.length).filter fun u => ((s8.unit u).getD {}).role == .top && (s8.top u).formatted && s8.serves u
  mapFullAlarm (checkHomes (tops.foldl (fun s u => spaceAlarms u s) s8))

/-! ## Replicated chunks -/

/-- Apply the messages of a chunk to the replica (R477 step 3). -/
def applyMsgs (c : Cmd) (v : VolPolicy) (ms : List InMsg) (s : State) : State :=
  let vol := c.volId
  let t := ((s.ftl.takes.find? fun e => e.1.1 == vol && e.2.state == .open).map (·.1.2)).getD 0
  (ms.foldl (fun (acc : Nat × State) m =>
    let s0 := match m.frame with
      | some (f, n) => match s.take vol t with
        | some _ => if ((acc.2.take vol t).any fun tk => tabHas (frameKey f) tk.drafts) then acc.2
            else onTake vol t (fun tk =>
              { tk with drafts := tabPut (frameKey f) { base := tk.blocks, total := ceilDiv n 4096 } tk.drafts, blocks := tk.blocks + ceilDiv n 4096 }) acc.2
        | none => acc.2
      | none => acc.2
    let go := m.blocks.foldl (fun (a : Nat × State) b => (a.1 + 1, replPut c v t a.1 m.frame b.1 b.2 a.2)) (acc.1, s0)
    let s1 := match m.frame with
      | some (f, n) =>
        let s' := joinDraft vol t (frameKey f) go.2
        let d := s'.draft vol t (frameKey f)
        if d.whole then onTake vol t (fun tk =>
          { tk with frames := tabPut f { bytes := n, extents := d.extents, lens := d.lens, short := n % 4096 != 0 } tk.frames
                    drafts := tabDel (frameKey f) tk.drafts }) s' else s'
      | none => go.2
    (go.1, s1)) (0, s)).2

/-- Apply the chunk of a REPL_DATA whose data is all in, when it is its turn (R477). -/
def applyChunk (acc : Nat) (s : State) : State :=
  match s.cmdAt acc with
  | none => s
  | some c => match s.volOf c, s.assemble acc 0 c.len with
    | some v, some raw =>
      let r := tabGetD c.volId {} s.rpl.replicas
      let first := fieldLe raw 12 4
      if c.phase ≠ .finishing ∨ c.fail.isSome ∨ c.held.isSome ∨ c.blocksIn ≠ [] then s
      else if r.mnum + 1 < first then s
      else
        let key := match s.role v with
          | .replica t => s.tgtKey t
          | _ => none
        let hdr := raw.take 16
        match key.bind fun k => gcmOpen k (slice raw 4 12) hdr (raw.drop 16) with
        | none => failCmd acc 0x3A 0 0 s
        | some plain =>
          let good := fieldLe raw 0 2 == c.vol && fieldLe raw 8 4 == c.param % 2 ^ 32
          match readMsgs (plain.length + 1) first plain with
          | .error m => failCmd acc 0x3B m 0 s
          | .ok ms =>
            if ¬ good ∨ ms = [] then failCmd acc 0x3B first 0 s
            else
              let last := ((ms.map (·.mnum)).getLast?).getD first
              let done (s : State) : State := chg acc (fun c => { c with blocksIn := [0] }) (s.onIng fun i => { i with frags := i.frags.filter fun f => f.acc ≠ acc })
              if last ≤ r.mnum then done (dirtyDrop acc c.volId (tabGetD acc 0 s.ing.dirtyBy) s)
              else
                let s1 := applyMsgs c v ms s
                let n := s1.ing.buf.countP fun b => b.acc == acc
                let s2 := dirtyAdd acc c.volId n (dirtyDrop acc c.volId (tabGetD acc 0 s1.ing.dirtyBy) s1)
                done (onReplica c.volId (fun r => { r with mnum := last }) s2)
    | _, _ => s

/-- The blocks of a volume that commands accepted before a number wrote and that are not yet durable. -/
def State.openBlocks (s : State) (vol acc : Nat) : List BufBlk :=
  s.ing.buf.filter fun b => b.addr.volume == vol && b.visible && !b.dead && decide (b.acc < acc)

/-- Whether every strip and row of a take is programmed. -/
def State.takeProgrammed (s : State) (top vol t : Nat) : Bool :=
  (match s.take vol t with
    | some tk => tk.row.isEmpty && tk.pending.isEmpty && tk.drafts.isEmpty
    | none => true)
  && !(s.par.rows.any fun r => r.top == top && r.owner == t && r.kind == .data)

/-- Close a take's last row and seal it once everything is programmed (R191 rule 3, R298, R335): its segment becomes a part segment,
its record and segment list enter the log. -/
def sealTake (v : VolPolicy) (t acc : Nat) (s : State) : State :=
  let vol := v.vol % 2 ^ 12
  match s.take vol t with
  | none => s
  | some tk =>
    if tk.state ≠ .sealing ∨ tk.pending ≠ [] ∨ tk.drafts ≠ [] then s
    else
      let s1 := flushTake vol t true (tk.row.length + 1) s
      if ¬ s1.takeProgrammed v.topUnit vol t then s1
      else match s1.take vol t with
        | none => s1
        | some tk1 =>
          let h := s1.volOwner vol
          let s2 := onTake vol t (fun tk => { tk with state := .sealed }) s1
          let s3 := match (s2.segsOf v.topUnit).find? fun e => e.2.take == some (vol, t) && e.2.state == .open with
            | some (m, _) => onSeg v.topUnit m (fun g => { g with state := .part, take := none }) s2
            | none => s2
          let s4 := logItems h [.takeSegs vol t tk1.segs, .take vol t .sealed tk1.frames.length (tk1.segs.foldl (fun a e => a + e.2.2) 0) tk1.segs.length] s3
          match s4.role v with
          | .source _ => match createPoint v t acc s4 with
            | some (_, _, s5) => s5
            | none => s4
          | _ => s4

/-- REPL_END (R478): the point is made durable, recorded as the base, and the command completes. -/
def endPoint (c : Cmd) (v : VolPolicy) (s : State) : State :=
  let vol := c.volId
  let t := (s.ftl.takes.find? fun e => e.1.1 == vol && e.2.state == .sealing).map (·.1.2)
  let s1 := match t with
    | some t => sealTake v t c.acc s
    | none => s
  let sealing := v.stream && s1.ftl.takes.any fun e => e.1.1 == vol && e.2.state == .sealing
  if s1.openBlocks vol c.acc ≠ [] ∨ sealing then s1
  else
    let p := c.param % 2 ^ 32
    let s2 := match s1.baseSnap vol with
      | some (b, _) => (deleteSnap b s1).2
      | none => s1
    match addSnap v.vol 0 2 0 p c.acc false s2 with
    | none => s2
    | some (_, _, s3) => finish c.acc 0 0 0 0 [] (note 0x0E02 v.vol (onReplica vol (fun r => { r with base := p, begun := none, mnum := 0, held := [] }) s3))

/-- REPL_PROMOTE (R480): the last committed point's words come back into the pages, the partial point goes. -/
def promote (c : Cmd) (v : VolPolicy) (s : State) : State :=
  let vol := c.volId
  let s1 := (s.ing.buf.filter fun b => b.addr.volume == vol && b.seqAt.isNone).foldl (fun s b => leaveBlock b s) s
  let s2 := if v.stream then (s1.ftl.takes.filter fun e => e.1.1 == vol && e.2.state != .sealed).foldl (fun s e => (deleteTake v e.1.2 s).2) s1
    else match s1.baseSnap vol with
      | some (slot, _) =>
        let s' := (s1.rpl.pages.filter fun e => e.1.1 == slot).foldl (fun s e => e.2.zipIdx.foldl (fun s (w, k) =>
          let lba := e.1.2 * pageWords + k
          if s.mapWord vol lba = w then s
          else (setWord vol lba c.acc w (if wordKind w = 1 then shareAdd (s.volOwner vol) (bitsAt w 2 32) s else s)).2) s) s1
        (deleteSnap slot s').2
      | none => (s1.ftl.map.filter fun e => e.1.1 == vol).foldl (fun s e => (setWord vol e.1.2 c.acc 0 s).2) s1
  awaitLog c.acc (s2.lastLog (s2.volOwner vol)) (onReplica vol (fun r => { r with promoted := true, begun := none, held := [] }) s2)

/-! ## Commands -/

/-- Look at one outstanding command and carry it on (R175). -/
def stepCmd (acc : Nat) (s : State) : State :=
  match s.cmdAt acc with
  | none => s
  | some c =>
    if c.held.isSome then tryEnd acc s
    else if c.phase = .accepted then s
    else if c.phase = .waiting then (if s.mayStart c ∧ s.pwr.state = .run ∧ s.pwr.transit.isNone then startCmd c s else s)
    else match s.volOf c with
      | none => s
      | some v =>
        let h := s.volOwner c.volId
        if c.op = 0x59 then checkWrite acc (applyChunk acc (nameWindows acc (s.param P.trPerCmd) s))
        else if c.takesData then checkWrite acc (nameWindows acc (s.param P.trPerCmd) s)
        else if c.isRead then checkRead acc s
        else if c.op = 0x03 then
          let mine := s.ing.buf.filter (·.acc == acc)
          if mine.all fun b => match b.seqAt with
              | some q => s.changeHeld h q
              | none => false then finish acc 0 0 0 0 [] s else s
        else if c.op = 0x04 then
          if s.ing.buf.any fun b => c.waitAccs.contains b.acc then s
          else if s.logDurable h (c.waitSeq.getD 0) then finish acc 0 0 0 0 [] s else s
        else if c.op = 0x13 then
          let s1 := sealTake v c.take acc s
          match s1.take c.volId c.take with
          | some tk => if tk.state = .sealed then finish acc 0 0 0 0 [] s1 else s1
          | none => s1
        else if c.op = 0x5A then endPoint c v s
        else if c.op = 0x57 ∧ c.waitSeq.isNone then promote c v s
        else match c.waitSeq with
          | some q => if s.changeHeld h q then finish acc 0 0 0 (if c.op = 0x55 then c.rxBytes else 0) [] s else s
          | none => s

/-- Carry every outstanding command on, in acceptance order. -/
def stepCmds (s : State) : State := (s.cmd.cmds.map (·.acc)).foldl (fun s a => stepCmd a s) s

/-! ## Flushes -/

/-- Whether a command or a hold waits for placed data to be programmed (R365, R366). -/
def State.flushWanted (s : State) : Bool :=
  s.pwr.flushing || s.cmd.cmds.any fun c => (c.op == 0x04 || c.op == 0x5A) && c.phase == .moving && c.held.isNone
    && (c.op == 0x5A || s.ing.buf.any fun b => c.waitAccs.contains b.acc && !b.programmed)

/-- Whether in the Lone state a write's completion waits on its blocks (R366). -/
def State.loneWaits (s : State) : Bool :=
  s.prt.pair == .lone && s.cmd.cmds.any fun c => c.takesData && c.phase == .finishing && c.held.isNone
    && decide (c.blocksIn.length = c.blocks ∨ c.op = 0x59)

/-- Program what is due: whole rows always, partial stripes and rows where something waits on them. -/
def settleFlush (s : State) : State :=
  if ¬ s.ftl.ready then s
  else
    let s1 := flushBlocks (s.flushWanted || s.loneWaits) s
    flushTakes s.flushWanted s1

/-- Whether a TRIM or take change in the Lone state, a FLUSH or a spill waits on the log (R334). -/
def State.logWanted (s : State) : Bool :=
  s.pwr.flushing || s.cmd.cmds.any fun c => c.held.isNone && c.phase == .moving
    && (c.op == 0x04 || c.op == 0x5A || (s.prt.pair == .lone && (c.op == 0x03 || c.waitSeq.isSome)))

/-- The log's full rows, or with something waiting its open row too (R333, R334). -/
def settleLog (s : State) : State :=
  if ¬ s.ftl.ready then s
  else
    let heads : List Nat := if s.prt.pair = .lone then [0, 1] else [s.head]
    heads.foldl (fun s h => if s.logWanted then forceLog h s else fullLog h s) s

/-! ## Settling -/

/-- One pass of what follows from a change. -/
def settleOnce (s : State) : State :=
  let s1 := mapBlocks (s.ing.buf.length + 1) (settleFrames (settleRows s))
  let s2 := releaseBlocks (settleLog (logFrames s1))
  let s3 := settleMedia (retireRecords s2)
  pumpSources (settleFlush (stepCmds s3))

/-- Everything that follows from a change. The datapath must be released; a second pass takes up what the first one's commands
brought. A Fenced head has nothing under way (R445). -/
def settle (s : State) : State := if s.rst.dpUp ∧ s.prt.pair ≠ .fenced then settleOnce (settleOnce s) else s

end Sys2Proof.Machine
end

