-- ==== Sys2Proof/Machine/Wake.lean ====
section
/-! DEFINITION. Extends of the measurement registers (R558), the start of a load (R74), and waking (R108, R109, R122). -/

namespace Sys2Proof.Machine

/-- Extend a measurement register with 48 bytes (R558); MSR_STAT counts the extends of each. -/
def msrExtend (n : Nat) (d : Bytes) (s : State) : State :=
  s.onMsr fun m => { m with regs := modAt n (fun r => sha384 (r ++ padTo 48 d)) m.regs, counts := modAt n satInc m.counts }

/-- MGT_CHIP_ID (R544). -/
def Part.chipId (p : Part) : Nat := p.stepping.toNat + (1 + b2n p.profile2) * 2 ^ 8 + b2n p.gradeE * 2 ^ 10 + 0x9640 * 2 ^ 16

/-- RST_FUSE (R87, R118). -/
def Part.fuseMap (p : Part) : Nat := if p.profile2 then 0x00020240 else 0x000155D0

/-- What hardware extends into MSR0 at AO release and at a wake from Dormant (R558): the mask ROM, then the part. -/
def measureRom (s : State) : State :=
  msrExtend 0 (leBytes 4 s.part.chipId ++ leBytes 4 s.part.fuseMap) (msrExtend 0 Sys2Proof.romDigest s)

/-- The loader begins at step 1 of R74: the primary's option bytes are read (R58). -/
def startLoad (s : State) : State :=
  ((s.onCfg fun c => { ({} : Cfg) with loadStart := c.loadStart }).onRst fun r => { r with stage := .loading }).send (.spi .primary .readOptions)

/-- The image in the slot that the option bytes name is read from the device in use (R60, R74, R77). -/
def readSlot (s : State) : State :=
  let f := fieldLe s.cfg.opt
  s.send (.spi s.cfg.dev (.readImage (f 7 1) (f 8 1) (f 5 1) (f 6 1) (f (if s.cfg.slotB then 20 else 12) 4)))

/-- PRT as a head enters Joining by a reset or a wake from Dormant (R443): the always-on link and heartbeat state goes on (R461). -/
def Prt.rejoin (p : Prt) : Prt :=
  { ({} : Prt) with
    hbSeq := p.hbSeq, peerHb := p.peerHb, peerState := p.peerState, hbMiss := p.hbMiss, pulseCmd := p.pulseCmd, peerCmdId := p.peerCmdId
    resetReqDisc := p.resetReqDisc, roundStat := p.roundStat, rounds := p.rounds, pulseErr := p.pulseErr }

/-- A wake from Dormant (R109): the release order from step 3 of R95, without a reset. -/
def wakeDormant (s : State) : State :=
  let s1 := (s.onPrt Prt.rejoin).onMsr fun _ => {}
  let s2 := (measureRom s1).onCfg fun c => { c with loadStart := s.time }
  startLoad ((s2.onRst fun r => { r with dormantWake := true }).onSld fun l =>
    { l with ports := (l.ports.filter fun e => e.2.raw).map fun e => (e.1, { raw := true : SledPort }) })

/-- A wake (R108, R122): an entry under way is aborted; a head below Run starts the way to Run and, as one of a pair, wakes the
partner, unless the partner woke it. From Quiet the datapath's records are read again first (R77); channels in self-refresh leave it (R506). -/
def wake (why : Nat) (s : State) : State :=
  let mark (s : State) : State := s.onPwr fun p => { p with req := 0, lastWake := BitVec.ofNat 4 why }
  if s.pwr.transit.isSome ∧ s.pwr.transit ≠ some .run then mark (s.onPwr fun p => { p with transit := none, proposed := none })
  else if s.pwr.state = .run ∨ s.pwr.transit = some .run then s
  else
    let s1 := mark (s.onPwr fun p => { p with transit := some .run })
    let s2 := if s.prt.pair = .paired ∧ why ≠ 2 then pulseCommand 1 0 s1 else s1
    match s.pwr.state with
    | .dormant => wakeDormant s2
    | .quiet => (readSlot (s2.onCfg fun c => { c with reread := some .quiet, recs := [], recFails := 0, pos := 0 })).onBuf fun b => { b with exiting := b.selfRef }
    | _ => s2.onBuf fun b => { b with exiting := b.selfRef }

/-- A capsule or connection request on a host port wakes a head in Armed, or ends an entry (R108, R122). -/
def wakeHost (s : State) : State :=
  if s.pwr.state = .armed ∨ s.pwr.transit.isSome then wake 1 s else s

end Sys2Proof.Machine
end

