-- ==== Sys2Proof/Machine/Forms.lean ====
section
/-! DEFINITION. What comes back from the sleds: media forms read and verified (R220, R223), the repair of buffered blocks (R224, R225),
and the end of each kind of read job. -/

namespace Sys2Proof.Machine

/-! ## Media forms -/

/-- Sectors of a page-group body, if every one agrees with its M (R207, R220). -/
def bodySectors (body : Bytes) (sec cnt : Nat) : Option (List Bytes) :=
  (List.range cnt).mapM fun i =>
    let x := slice body (512 * (sec + i)) 512
    if crc32c x = fieldLe body (65536 + 4 * (sec + i)) 4 then some x else none

/-- The block tag of the form that starts at a sector of a page-group body (R320). -/
def bodyTag (body : Bytes) (sec : Nat) : Bytes := slice body (65536 + 512 + 24 * sec) 24

/-- Sectors of a direct read, the metadata behind them, if every one agrees with its M. -/
def readSectors (raw : Bytes) (sec cnt : Nat) : Option (List Bytes) :=
  let md := slice raw (512 * cnt) 4096
  if (List.range cnt).all fun i => sectorGood raw md i (sec + i) then some ((List.range cnt).map fun i => slice raw (512 * i) 512) else none

/-- The block tag of the form that starts at the first sector of a direct read. -/
def readTag (raw : Bytes) (sec cnt : Nat) : Bytes := slice raw (512 * cnt + 576 + 24 * sec) 24

/-- What a job has found of one page group of a media form: its sectors and the tag at the first of them, or that it is lost; nothing
while a read is owed. -/
def State.formPart (s : State) (j : Job) (i : Nat) (a : PgAddr) : Option (Option (List Bytes × Bytes)) :=
  let (sec, cnt) := j.part i
  match j.direct.find? fun e => e.1 == a with
  | some e => some ((readSectors e.2 sec cnt).map fun x => (x, readTag e.2 sec cnt))
  | none => match s.jobFind j a with
    | .have_ b => some ((bodySectors b sec cnt).map fun x => (x, bodyTag b sec))
    | .need _ => none
    | .lost => some none

/-- The media form a job has found: its tag and sectors, or that it is lost; nothing while a read is owed. -/
def State.jobForm (s : State) (j : Job) : Option (Option Form) :=
  if j.out ≠ [] then none
  else match j.want.zipIdx.mapM fun (a, i) => s.formPart j i a with
    | none => none
    | some ps => some ((ps.mapM id).map fun l => { sectors := l.flatMap (·.1), tag := ((l.head?).map (·.2)).getD [] })

/-! ## Blocks under repair -/

/-- The block a read wants at a place, and the take it lies in (R184). -/
def Cmd.readAddr (c : Cmd) (i : Nat) : BlkAddr :=
  if c.op = 0x12 ∨ c.op = 0x53 then .frame c.volId c.take (c.lba % 2 ^ 40) (c.frameOff / 4096 + i) else .block c.volId (c.lba + i)

/-- Reads that wait for a block under repair go on (R240). -/
def wakeReads (addr : BlkAddr) (r : RdState) (s : State) : State :=
  s.onCmd fun u => { u with cmds := u.cmds.map fun c =>
    if c.isRead then
      { c with reads := c.reads.zipIdx.map fun (x, i) =>
          if x = .pending ∧ c.readAddr i = addr ∧ ¬ (s.par.jobs.any fun j => j.what == .cmd c.acc i) then r else x }
    else c }

/-- A repair cannot complete (R225): the block is unrecovered. -/
def repairFail (acc num : Nat) (s : State) : State :=
  match s.ing.buf.find? fun b => b.acc == acc && b.num == num with
  | none => s
  | some b =>
    let vol := ((s.vol b.addr.volume).map (·.vol)).getD b.addr.volume
    let s1 := wakeReads b.addr (.failed (some 0x13)) (onBuf acc num (fun b => { b with repair := none, ref := some 3 }) s)
    raise 0x0403 (vol * 2 ^ 8) .all (s1.onIng fun i => { i with unrecovered := satInc i.unrecovered })

/-- A repair has its plaintext, from the partner (0) or the flash copy (1): checked against K, run through the stages again, and put in
place (R224). -/
def repairDone (acc num copy : Nat) (plain : Bytes) (s : State) : State :=
  match s.ing.buf.find? fun b => b.acc == acc && b.num == num with
  | none => s
  | some b => match s.vol b.addr.volume with
    | none => s
    | some v => match s.mediaForm v b.tag.pos b.addr.takeId (bitAt b.tag.form 3) plain with
      | none => repairFail acc num s
      | some (tag, secs) =>
        let s1 := wakeReads b.addr (.ready plain) (onBuf acc num (fun b => { b with repair := none, plain := plain, tag := tag, sectors := secs }) s)
        note 0x0402 (copy + v.vol * 2 ^ 8) (s1.onIng fun i => { i with repaired := satInc i.repaired })

/-- Ask the partner for the plaintext of a block (R224, REPAIR_REQ). -/
def repairFetch (b : BufBlk) (n : Nat) (s : State) : State :=
  plControl 0x04 (leBytes 3 b.qpn ++ leBytes 2 b.cid ++ leBytes 2 b.num) (onBuf b.acc b.num (fun b => { b with repair := some n }) s)

/-- A media form in the write buffer fails its check (R224, R221 code 0x06): before its command has completed the command fails, after it
the block is repaired from its good copy. -/
def bufferFault (acc num : Nat) (s : State) : State :=
  match s.ing.buf.find? fun b => b.acc == acc && b.num == num with
  | none => s
  | some b =>
    if b.repair.isSome ∨ b.dead then s
    else if ¬ b.visible then stageFail acc 0x06 num s
    else match b.programmed, b.place with
      | true, some w => match s.wordAt (((s.vol b.addr.volume).map (·.topUnit)).getD 0) w with
        | some (a, sec, cnt) => startJob (.repair acc num) (s.formPages a sec cnt) sec cnt (onBuf acc num (fun b => { b with repair := some 0 }) s)
        | none => repairFail acc num s
      | _, _ => if s.prt.pair = .paired then repairFetch b 1 s else repairFail acc num s

/-- The partner's answer to a fetch (R224): one that fails the check is fetched again, REPAIR_RETRY times at most. -/
def repairReply (qpn cid num : Nat) (plain : Bytes) (s : State) : State :=
  match s.ing.buf.find? fun b => b.qpn == qpn && b.cid == cid && b.num == num && b.repair.isSome && !b.programmed with
  | none => s
  | some b =>
    if plain.length = 4096 ∧ carryK plain = b.tag.k then repairDone b.acc num 0 plain s
    else if b.repair.getD 0 < s.param P.repairRetry then repairFetch b (b.repair.getD 0 + 1) s
    else repairFail b.acc num s

/-- The partner is lost while repairs wait on a fetch (R239). -/
def repairsLost (s : State) : State :=
  (s.ing.buf.filter fun b => b.repair.isSome && !b.programmed).foldl (fun s b => repairFail b.acc b.num s) s

/-! ## The end of a job -/

/-- What a form read gives its reader: the verified block, or why it is not there (R220, R221, R223, R269). -/
def State.openRead (s : State) (v : VolPolicy) (take : Nat) (f : Option Form) : RdState :=
  match f with
  | none => .failed none
  | some x => match s.openForm v take (tagOf x.tag) x.sectors with
    | .plain p => .ready p
    | .fault st => .failed (some st)
    | .noKey => .noKey

/-- A media form of a job is there, or is lost. -/
def formDone (j : Job) (f : Option Form) (s : State) : State :=
  match j.what with
  | .cmd acc blk => match s.cmdAt acc with
    | none => s
    | some c => match s.volOf c with
      | some v => readBlock acc blk (s.openRead v (c.readAddr blk).takeId f) s
      | none => s
  | .repl vol blk => match s.vol vol with
    | some v => replBlock vol blk (s.openRead v ((((s.points vol).head?).map (·.2.take)).getD 0) f) s
    | none => s
  | .repair acc num => match (s.ing.buf.find? fun b => b.acc == acc && b.num == num) with
    | none => s
    | some b => match s.vol b.addr.volume with
      | none => s
      | some v => match s.openRead v b.addr.takeId f with
        | .ready p => if carryK p = b.tag.k then repairDone acc num 1 p s else repairFail acc num s
        | _ => repairFail acc num s
  | _ => s

/-- The rows of a partial row whose strips were read again (R370): the row closes with them. -/
def closeRead (top : Nat) (bodies : List (Option Bytes)) (s : State) : State :=
  match tabGet top s.par.part with
  | none => s
  | some p =>
    let strips := p.strips.zip bodies |>.map fun (e, b) => (e.1, if e.2.isEmpty then b.getD zeroBody else e.2)
    completeRow top p.seg .close { p with strips := strips, closing := true } (List.replicate (s.rowStrips top - strips.length) padStrip) [] [] s

/-- The whole page groups of a job are there, or lost. -/
def pagesDone (j : Job) (bodies : List (Option Bytes)) (s : State) : State :=
  let raw (a : PgAddr) : Option Bytes := (j.got.find? fun e => e.1 == a).bind (·.2)
  match j.what with
  | .gc top loc _ _ =>
    let parts := (bodies.zipIdx).mapM fun (b, i) => let (sec, cnt) := j.part i
      b.bind fun x => (bodySectors x sec cnt).map fun l => (l, bodyTag x sec)
    gcForm top loc (parts.map fun l => { sectors := l.flatMap (·.1), tag := ((l.head?).map (·.2)).getD [] }) s
  | .reloc name src pg => relocRead name src pg ((j.want.head?).bind raw) ((bodies.head?).bind id) s
  | .rebuild span => rebuildRow span bodies s
  | .patrol top => match j.want with
    | a :: _ => patrolCheck top a.seg a.row j.got (j.want.zip bodies) s
    | [] => s
  | .close top => closeRead top bodies s
  | .resync name => resyncPage name ((bodies.head?).bind id) s
  | _ => s

/-- Whether the page group of `a` was solved with two erasures in the stripe of the span above it (R362). -/
def State.twoErased (s : State) (j : Job) (a : PgAddr) : Bool :=
  let us := s.units
  let r := s.treeRow a.top a.seg a.row
  let mem := s.memR a.seg a.row
  if (s.jobGot j a a.die) ≠ some none then false
  else match us[a.die]? with
    | none => false
    | some u =>
      let (unit, tcs) := match u.parent.bind fun b => (us[b]?).map fun x => (b, x) with
        | some (b, x) => if x.kind = UnitKind.band then
            let k := r % max 1 x.width
            (b, if u.pos = k then List.range (x.width - 1) else [if u.pos < k then u.pos else u.pos - 1])
          else (a.die, [0])
        | none => (a.die, [0])
      match (us[unit]?).bind (·.parent) with
      | none => false
      | some sp =>
        if ((us[sp]?).getD {}).kind ≠ UnitKind.span then false
        else tcs.any fun tc => ((List.range ((us[sp]?).getD {}).width).countP fun i =>
          match findStrip us mem (s.jobGot j a) r maxDepth (mem sp i) tc with
          | .lost => true
          | _ => false) == 2

/-- Look at a job: what has all come back is handed to its reader, and the job ends (R223, R363). The strips of records under a replay
are taken up by the replay itself, in REC_SEQ order (R377). -/
def jobStep (id : Nat) (s : State) : State :=
  match s.par.jobs.find? fun j => j.id == id with
  | none => s
  | some j =>
    let two := j.want.countP (s.twoErased j)
    let ended (s : State) : State := (endJob id s).onPar fun p => { p with twoErase := satAdd p.twoErase two }
    match j.what with
    | .version .. => s
    | _ => if j.isForm then match s.jobForm j with
        | none => s
        | some f => formDone j f (ended s)
      else match s.jobBodies j with
        | none => s
        | some bodies => pagesDone j bodies (ended s)

/-- Whether the tag of a form read directly is the one its reader asked for (R220): TCRC, and for a block that no other shares, VOL and
POS. -/
def State.tagFits (s : State) (j : Job) (tag : Bytes) : Bool :=
  let word := (j.want.head?).map fun a => directWord (s.dieName a.die) a.seg a.row j.sec j.cnt
  let shared := s.ftl.shares.any fun e => some e.2.loc == word
  crcGood tag && (match j.what with
    | .cmd acc i => (match s.cmdAt acc with
      | some c => shared || c.op != 0x01 || (fieldLe tag 14 2 % 2 ^ 12 == c.volId && fieldLe tag 8 5 == c.lba + i)
      | none => true)
    | _ => true)

/-- A read of a job has come back, its bytes, or none where the page group cannot be read (R223): a form's own sectors or tag that fail a
check send the block to reconstruction. -/
def jobRead (id : Nat) (a : PgAddr) (raw : Option Bytes) (s : State) : State :=
  match s.par.jobs.find? fun j => j.id == id with
  | none => s
  | some j =>
    let i := j.want.findIdx (· == a)
    let own := j.isForm && decide (i < j.want.length)
    let (sec, cnt) := j.part i
    let marker := match raw with
      | some b => pgMarker (if own then List.replicate 65536 0 ++ slice b (512 * cnt) 4096 else b.take pgLen)
      | none => false
    let s1 := if marker then s.onPar fun p => { p with markers := if p.markers.contains a then p.markers else p.markers ++ [a] } else s
    let good : Option Bytes := match raw with
      | none => none
      | some b => if marker then none
        else if own then (if (readSectors b sec cnt).isSome && (i != 0 || s.tagFits j (readTag b sec cnt)) then some b else none)
        else if pgGood (b.take pgLen) then some (b.take pgLen) else none
    let s2 := onJob id (fun j =>
      let j1 := { j with out := j.out.filter (· != a) }
      match good with
      | some b => if own then { j1 with direct := j1.direct ++ [(a, b)] } else { j1 with got := j1.got ++ [(a, some b)] }
      | none => { j1 with got := j1.got ++ [(a, none)] }) s1
    jobStep id (advanceJob id s2)

/-- Jobs that wait for nothing: what they want is held in PAR, or cannot be read at all (R321, R363). -/
def State.jobsReady (s : State) : List Nat :=
  (s.par.jobs.filter fun j => j.out == [] && (match j.what with
    | .version .. => false
    | _ => s.jobNeeds j == [])).map (·.id)

/-- Settle, and end the jobs that wait for nothing, until there is none; one round after another, sixteen at most. -/
def settleJobs (s : State) : State :=
  (List.range 16).foldl (fun s _ => if s.jobsReady = [] then s else settle (s.jobsReady.foldl (fun s id => jobStep id s) s)) (settle s)

end Sys2Proof.Machine
end

