-- ==== Sys2Proof/Machine/Conn.lean ====
section
/-! DEFINITION. Connections: the context cache and miss buffers (R148 to R150), acknowledgements and checkpoints (R37, R134, R140,
R152), the end of a queue pair (R147, R154, R196), and accepting capsules (R171, R172). -/

namespace Sys2Proof.Machine

/-! ## The cache -/

/-- Contexts the on-chip cache holds (R148). -/
def cacheMax : Nat := 16384

/-- Whether a context may be evicted (R148). -/
def State.evictable (s : State) (idx : Nat) : Bool :=
  match tabGet idx s.qpc.ctx with
  | none => true
  | some c => c.timeout == 0 && c.sent.isEmpty && c.ckpts.isEmpty && !(s.qpc.miss.any fun m => m.2.1 == idx)

/-- Second-chance replacement (R148): the first entry with its bit clear that may be evicted; `fuel` bounds the scan. -/
def evict : Nat → State → State
  | 0, s => s
  | fuel + 1, s => match s.qpc.cache with
    | [] => s
    | (i, b) :: rest =>
      if b ∨ ¬ s.evictable i then evict fuel (s.onQpc fun q => { q with cache := rest ++ [(i, false)] })
      else onCtxQuiet i (fun c => { c with cached := false }) (s.onQpc fun q => { q with cache := rest })

/-- Bring a context into the cache, evicting one for it if the cache is full (R148). -/
def cacheIn (idx : Nat) (s : State) : State :=
  let s1 := if cacheMax ≤ s.qpc.cache.length then evict (2 * s.qpc.cache.length) s else s
  onCtxQuiet idx (fun c => { c with cached := true }) (s1.onQpc fun q => { q with cache := (q.cache.filter fun e => e.1 ≠ idx) ++ [(idx, true)] })

/-- A cache hit (R148, R160). -/
def cacheHit (idx : Nat) (s : State) : State :=
  s.onQpc fun q => { q with hits := q.hits + 1, cache := q.cache.map fun e => if e.1 = idx then (idx, true) else e }

/-- Bytes a waiting packet takes in its miss buffer: its payload and 64 bytes for its headers (DESIGN CHOICE, log entry 18). -/
def Inbound.size : Inbound → Nat
  | .send _ _ p => 64 + p.length
  | .write _ _ _ _ p => 64 + p.length
  | .writeImm _ _ _ _ _ p => 64 + p.length
  | .lot _ raw => 64 + raw.length
  | _ => 64

/-- Bytes in the miss buffer of a host port (R150). -/
def State.missFill (s : State) (port : Nat) : Nat := (s.qpc.miss.filter fun m => m.1 == port).foldl (fun a m => a + m.2.2.size) 0

/-- The size of a miss buffer (R150). -/
def missSize : Nat := 2 * 2 ^ 20

/-- XOFF above MISS_XOFF, XON below half of it, where PFC covers ROCE_PRIO (R150). -/
def missFlow (port : Nat) (s : State) : State :=
  let prio := s.param P.rocePrio
  if s.param P.pauseMode ≠ 2 ∨ ¬ bitAt (s.param P.pfcMask) prio then s
  else
    let mark := missSize * s.param P.missXoff / 100
    let n := s.missFill port
    if mark < n ∧ ¬ getBit s.fab.xoff port then
      fabCount (4 * port) 13 1 (hostSend (.eth (4 * port) (.xoff prio)) (s.onFab fun f => { f with xoff := setBit f.xoff port true }))
    else if n * 2 < mark ∧ getBit s.fab.xoff port then
      fabCount (4 * port) 13 1 (hostSend (.eth (4 * port) (.xon prio)) (s.onFab fun f => { f with xoff := setBit f.xoff port false }))
    else s

/-- A packet whose context is absent (R149, R150): it waits in the miss buffer of its port, or is dropped; the fetch starts. -/
def missIn (sub idx : Nat) (p : Inbound) (s : State) : State :=
  let port := sub / 4
  let s0 := s.onQpc fun q => { q with misses := q.misses + 1 }
  if missSize < s.missFill port + p.size then
    let first := match tabGet port s.fab.dropWin with
      | some t => decide (1000 * usTicks ≤ s.since t)
      | none => true
    let s1 := s0.onQpc fun q => { q with drops := modAt port satInc q.drops }
    if first then note 0x0109 port (s1.onFab fun f => { f with dropWin := tabPut port s.time f.dropWin }) else s1
  else
    let fetch := !(s.qpc.fetching.any fun f => f.1 == idx) && decide (s.qpc.fetching.length < 256)
    missFlow port (s0.onQpc fun q =>
      { q with miss := q.miss ++ [(port, idx, p)], fetching := if fetch then q.fetching ++ [(idx, s.time)] else q.fetching })

/-! ## Acknowledging -/

/-- Send what the host may be told: an RC acknowledgement, or a LOT ACK with its bitmap (R37, R134, R140). None goes out during a
claim round (R52). -/
def sendAck (idx : Nat) (ece : Bool) (s : State) : State :=
  match tabGet idx s.qpc.ctx with
  | none => s
  | some c =>
    if s.prt.round.isSome ∨ (s.prt.handover ∧ c.taken) then s
    else
      let s1 := onCtxQuiet idx (fun c => { c with ackOwed := decide (c.acked ≠ c.rxNext ∨ c.ackedSet ≠ c.rxSet) }) s
      if c.lot then
        match s.lotSub with
        | none => s1
        | some sub =>
          let bits := c.ackedSet.foldl (fun a n => let d := (n + 2 ^ 32 - c.acked - 1) % 2 ^ 32
            if d < 64 then a + 2 ^ d else a) 0
          wire sub (.lot (c.lotDst sub) (lotPacket 3 (8 * b2n ece) c.peer 0 c.acked 0 0 bits [])) s1
      else wire c.sub (.ack c.peer ((c.acked + 2 ^ 24 - 1) % 2 ^ 24) c.ackedMsg) s1

/-- The host may be told of everything accepted so far. -/
def ackAll (idx : Nat) (s : State) : State :=
  sendAck idx false (onCtxQuiet idx (fun c => { c with acked := c.rxNext, ackedSet := c.rxSet, ackedMsg := c.rxMsg }) s)

/-- A packet was accepted (R37): in the Paired state its acknowledgement waits for a checkpoint; otherwise there is no partner to wait
for. -/
def accepted (idx : Nat) (s : State) : State :=
  let s1 := onCtx idx (fun c => { c with ackOwed := true }) s
  if s.prt.pair = .paired then s1 else ackAll idx s1

/-- The partner has confirmed a checkpoint of a context (R37, R152). -/
def ckptConfirmed (idx seq : Nat) (s : State) : State :=
  match tabGet idx s.qpc.ctx with
  | none => s
  | some c => match c.ckpts.find? fun k => k.seq == seq with
    | none => s
    | some k =>
      let owes := c.ackOwed && decide (c.acked ≠ k.rxNext ∨ c.ackedSet ≠ k.rxSet)
      let s1 := onCtxQuiet idx (fun c =>
        { c with ckptConf := max c.ckptConf seq, ckpts := c.ckpts.filter fun k => decide (seq < k.seq)
                 acked := k.rxNext, ackedSet := k.rxSet, ackedMsg := k.rxMsg }) s
      let s2 := s1.onQpc fun q => { q with ckptLag := word (max q.ckptLag.toNat (satN 32 (s.since k.time * 20))) }
      if owes then sendAck idx false s2 else s2

/-- Whether a capsule of a context has arrived and not been taken up: its command record goes before a checkpoint that covers it (R439, R448). -/
def State.capsuleWaits (s : State) (idx : Nat) : Bool := s.cmd.cmds.any fun c => c.phase == .accepted && !c.orphan && c.qpn % 2 ^ 18 == idx

/-- A batch of checkpoint records, one for each context that has changed (R152) and whose capsules are all taken up. -/
def checkpointBatch (s : State) : State :=
  if s.prt.pair ≠ .paired then s
  else
    let due := s.qpc.ctx.filter fun e => e.2.changed && e.2.state != .connecting && !(s.capsuleWaits e.1)
    if due = [] then s
    else
      let recs := due.map fun e => ckptRecord e.1 e.2 (e.2.ckptSeq + 1)
      let s1 := due.foldl (fun s e => onCtxQuiet e.1 (fun c =>
        { c with changed := false, ckptSeq := c.ckptSeq + 1
                 ckpts := c.ckpts ++ [{ seq := c.ckptSeq + 1, rxNext := c.rxNext, rxSet := c.rxSet, rxMsg := c.rxMsg, time := s.time }] }) s) s
      plRecords 0x01 recs (.ckpts (due.map fun e => (e.1, e.2.ckptSeq + 1))) s1

/-- A congestion notification to the sender, at most one a queue pair each CNP_GAP (R155). -/
def sendCnp (idx : Nat) (s : State) : State :=
  match tabGet idx s.qpc.ctx with
  | none => s
  | some c =>
    let due : Bool := match c.cnpSentAt with
      | some t => decide (s.param P.cnpGap * usTicks ≤ s.since t)
      | none => true
    if ¬ due then s
    else
      let s1 := (onCtxQuiet idx (fun c => { c with cnpSentAt := some s.time }) s).onFab fun f => { f with cnpTx := satInc f.cnpTx }
      if c.lot then match s.lotSub with
        | some sub => wire sub (.lot (c.lotDst sub) (lotPacket 8 0 c.peer 0 0 0 0 0 [])) s1
        | none => s1
      else wire c.sub (.cnp c.peer) s1

/-- Send an RC NAK that carries the expected PSN (R131, R134). -/
def sendNak (idx code : Nat) (s : State) : State :=
  match tabGet idx s.qpc.ctx with
  | none => s
  | some c => fabCount c.sub 10 1 (wire c.sub (.nak c.peer c.rxNext code) s)

/-- Send a LOT NAK to a host address on a sub-port (R140). -/
def sendLotNak (sub dst conn msg pkt code : Nat) (s : State) : State :=
  fabCount sub 10 1 (wire sub (.lot dst (lotPacket 4 0 conn msg pkt 0 0 0 (leBytes 4 code))) s)

/-! ## The end of a queue pair -/

/-- Commands of a queue pair that entered Error become orphans (R196). -/
def orphanQueue (qpn : Nat) (s : State) : State :=
  (s.outstandingOn qpn).foldl (fun s c =>
    let s1 := chg c.acc (fun c => { c with orphan := true }) s
    let whole := c.isWrite && c.recorded && c.namedBytes == c.len && s.allComplete c.acc && decide (c.phase = .finishing)
    if whole ∨ (c.recorded ∧ [0x03, 0x04, 0x10, 0x13, 0x14].contains c.op) then s1
    else finish c.acc 0x12 0 0 0 [] (dropWindows c.acc s1)) s

/-- A queue pair enters Error (R147), with the event of R156 that says why, if any. -/
def qpError (idx : Nat) (code : Option Nat) (s : State) : State :=
  match tabGet idx s.qpc.ctx with
  | none => s
  | some c =>
    if c.state = .error then s
    else
      let q := qpnOf idx c
      let s1 := onCtx idx (fun c => { c with state := .error, sent := [], timeout := 0, reads := [], wrCur := none, trackers := [], done := [] }) s
      let s2 := match code with
        | some k => raise k q (.sameHost idx) s1
        | none => s1
      let s3 := orphanQueue q s2
      match c.replTarget with
      | some t => replConnDown t s3
      | none => s3

/-- A context closes (R147): its index is free for the next generation; the partner learns it (R439). -/
def closeCtx (idx : Nat) (s : State) : State :=
  match tabGet idx s.qpc.ctx with
  | none => s
  | some c =>
    let s1 := mirror (plRecords 0x01 [ckptRecord idx { c with state := .closed } (c.ckptSeq + 1)] .none) s
    let s2 := s1.onQpc fun q =>
      { q with ctx := tabDel idx q.ctx, cache := q.cache.filter fun e => e.1 ≠ idx, miss := q.miss.filter fun m => m.2.1 ≠ idx
               fetching := q.fetching.filter fun f => f.1 ≠ idx }
    match c.replTarget with
    | some t => if (s.target t).conn = some idx then replConnDown t s2 else s2
    | none => s2

/-- A context that is Draining closes once nothing is outstanding on it: DREP or CLOSE is sent (R147, R162). -/
def drain (idx : Nat) (s : State) : State :=
  match tabGet idx s.qpc.ctx with
  | none => s
  | some c =>
    if c.state ≠ .draining ∨ s.outstandingOn (qpnOf idx c) ≠ [] then s
    else
      let bye := if c.lot then match s.lotSub with
          | some sub => wire sub (.lot (c.lotDst sub) (lotPacket 7 0 c.peer 0 c.txNext 0 0 0 [])) s
          | none => s
        else hostSend (.cm c.sub (.drep c.commId)) s
      closeCtx idx bye

/-! ## The outbound side of a connection taken over -/

/-- The zero-length RDMA WRITE that asks a host for its expected PSN (R447). -/
def sendProbe (idx : Nat) (s : State) : State :=
  match tabGet idx s.qpc.ctx, tabGet idx s.prt.probes with
  | some c, some p => wire c.sub (.rc c.peer ((p + 2 ^ 20) % 2 ^ 24) (.write .only 0 0 []) false) s
  | _, _ => s

/-- A connection that cannot be carried on after a takeover (R447). -/
def tkovLost (idx qpn : Nat) (s : State) : State :=
  note 0x0D0A qpn (qpError idx none ((onCtx idx (fun c => { c with held := false }) s).onPrt fun p =>
    { p with probes := tabDel idx p.probes, qpLost := satInc p.qpLost }))

/-- The host's sequence-error NAK with its expected PSN E answers the probe (R447): what lies below E has arrived; one outside the range
ends the queue pair. -/
def probeAnswer (idx e : Nat) (s : State) : State :=
  match tabGet idx s.qpc.ctx, tabGet idx s.prt.probes with
  | some c, some p =>
    let m := 2 ^ 24
    if (p + m - c.txUna) % m < (e + m - c.txUna) % m then tkovLost idx (qpnOf idx c) s
    else
      let s1 := s.onPrt fun q => { q with probes := tabDel idx q.probes }
      let keep := c.sent.filter fun o => decide ((e + m - c.txUna) % m ≤ (o.num + m - c.txUna) % m)
      let t := if keep = [] then 0 else s.param P.retryTimeoutInit
      onCtx idx (fun c => { c with sent := keep, txUna := e, retries := 0, timeout := t }) s1
  | _, _ => s

/-- A packet of a block that was read again, once the block is there: none while it is not, `some none` where it cannot be read. -/
def State.againBody (s : State) (c : Ctx) (o : OutPkt) : Option (Option OutPkt) :=
  match o.body with
  | .again acc blk part => match s.cmdAt acc with
    | none => some none
    | some g => match g.reads[blk]? with
      | some (.ready b) =>
        let d := b.take (g.len - blk * 4096)
        let mtu := if c.lot then 4096 else max 256 (s.param P.pmtu)
        let n := max 1 (ceilDiv d.length mtu)
        let at_ := g.haddr + blk * 4096 + part * mtu
        let x := slice d (part * mtu) mtu
        let place : PktPos := if n = 1 then .only else if part = 0 then .first else if part + 1 = n then .last else .middle
        let body : OutBody := if c.lot then .data d.length g.hkey at_ x (decide (part + 1 = n)) else .write place g.hkey at_ x
        some (some { o with body := body })
      | some .pending => none
      | _ => some none
  | _ => some (some o)

/-- The resends of a connection taken over begin once the host's E is known and every block they carry has been read again (R447); a block
that cannot be read ends the connection. -/
def resumeConn (idx : Nat) (s : State) : State :=
  match tabGet idx s.qpc.ctx with
  | none => s
  | some c =>
    if ¬ c.held ∨ tabHas idx s.prt.probes then s
    else match c.sent.mapM (s.againBody c) with
      | none => s
      | some ps =>
        let q := qpnOf idx c
        let s1 := s.onCmd fun u => { u with cmds := u.cmds.filter fun g => !(g.takenOver && g.orphan && g.isRead && g.qpn == q && g.phase == .finishing) }
        match ps.mapM id with
        | none => tkovLost idx q s1
        | some out =>
          let s2 := onCtx idx (fun c => { c with held := false, sent := out, timeout := if out = [] then 0 else s.param P.retryTimeoutInit }) s1
          match tabGet idx s2.qpc.ctx with
          | some c2 => out.foldl (fun s o => transmit c2 o true s) s2
          | none => s2

/-- Everything that follows from a command of the block: the head settles, drained contexts close, and resends that are due begin. -/
def after (s : State) : State :=
  let s1 := settleJobs s
  (s1.qpc.ctx.map (·.1)).foldl (fun s i => resumeConn i (drain i s)) s1

/-- A context becomes Ready (R147, R613): its connection record goes to the partner. -/
def connReady (idx : Nat) (s : State) : State :=
  let s1 := onCtx idx (fun c => { c with state := .ready, timeout := 0, sent := c.sent.filter fun p => match p.body with
    | .lotOpen _ => false
    | _ => true }) s
  match tabGet idx s1.qpc.ctx with
  | some c => mirror (plRecords 0x07 [s1.connRecord idx c] .none) s1
  | none => s1

/-! ## Capsules -/

/-- Commands the head holds across all queues (R171). -/
def cmdMax : Nat := 1048576

/-- Whether a queue can take another command (R171). -/
def State.slotFree (s : State) (qpn : Nat) (c : Ctx) : Bool :=
  decide ((s.outstandingOn qpn).length < c.depth) && decide (s.cmd.cmds.length < cmdMax)

/-- Whether an opcode may stand in a capsule (R175). -/
def opDefined (op : Nat) : Bool := (opInfo op).isSome

/-- Take a capsule (R171 to R175, R185 check 1): on a Draining context it is discarded; one whose MCRC fails, or whose opcode is
reserved, is answered at once; the others become outstanding, and wait for their opcode's checks in arrival order. -/
def takeCapsule (idx : Nat) (c : Ctx) (capSeq : Nat) (raw : Bytes) (s0 : State) : State :=
  let s := wakeHost s0
  let qpn := qpnOf idx c
  let cmd := cmdOf s.cmd.nextAcc qpn capSeq raw
  if c.state = .draining then s
  else if ¬ crcGood raw then reject cmd 0x01 s
  else if ¬ opDefined cmd.op then reject cmd 0x02 s
  else if c.lot ∧ ¬ s.slotFree qpn c then reject cmd 0x05 s
  else
    let covered := nubNat ((s.ing.buf.filter fun b => b.addr.volume == cmd.volId && b.visible).map (·.acc))
    let x := { cmd with
      inRound := s.inRound
      waitAccs := if cmd.op = 0x04 then covered else []
      waitSeq := if cmd.op = 0x04 then some (s.lastLog (s.volOwner cmd.volId)) else none }
    s.onCmd fun u => { u with cmds := u.cmds ++ [x], nextAcc := u.nextAcc + 1 }

end Sys2Proof.Machine
end

