-- ==== Sys2Proof/Machine/Fabric.lean ====
section
/-! DEFINITION. The host fabric's events: ports and pause (R126, R129, R160), ARP, neighbours and echo (R127), RoCEv2 packets (R130,
R131, R134, R144, R172, R181, R183), connection management (R132, R133, R147, R169, R170), retries and congestion (R153 to R155),
checkpoints (R152), event intervals (R156), address announcements (R157). -/

namespace Sys2Proof.Machine

/-! ## Ports -/

/-- Start auto-negotiation on an enabled sub-port (R129). -/
def autoneg (sub : Nat) (s : State) : State :=
  if s.subEnabled sub then hostSend (.eth sub .autoneg) (s.onFab fun f => { f with training := setBit f.training sub true }) else s

/-- A sub-port is down (R129, R156, R163): LOT packets not acknowledged leave again on other sub-ports, no retry taken. -/
def subDown (sub : Nat) (s : State) : State :=
  if ¬ s.subIsUp sub then s
  else
    let s1 := s.onFab fun f => { f with subUp := setBit f.subUp sub false, latch := setBit f.latch sub true
                                        stopped := f.stopped.filter fun x => x.1 ≠ sub }
    let s2 := raise 0x0101 sub .all s1
    let s3 := s2.qpc.ctx.foldl (fun s e =>
      if e.2.lot then (e.2.sent.filter fun p => p.sub == sub).foldl (fun s p =>
        transmit e.2 p true (onCtxQuiet e.1 (fun c => { c with sent := c.sent.map fun x => if x.num = p.num then { x with sub := s.lotSub.getD 0 } else x }) s)) s
      else s) s2
    autoneg sub s3

/-- The HOST_ADDR entry this head answers for on a sub-port, its own or one taken over (R125, R157). -/
def State.addrAt (s : State) (sub : Nat) (ok : HostAddr → Bool) : Option HostAddr :=
  match s.cfg.img with
  | none => none
  | some i => i.addrs.find? fun a => a.port == sub && (a.head == s.head || getBit s.fab.addrTaken sub) && ok a

/-- Announce on a sub-port the partner's addresses while they are taken (R157 step 2), else the head's own (R451 step 5). -/
def announce (sub : Nat) (s : State) : State :=
  match s.cfg.img with
  | none => s
  | some i => (i.addrs.filter fun a => a.port == sub && (a.head != s.head) == getBit s.fab.addrTaken sub).foldl (fun s a =>
      let s1 := if a.v4ok then hostSend (.eth sub (.gratuitousArp a.mac a.ipv4)) s else s
      if a.v6ok then hostSend (.eth sub (.unsolicitedNa a.mac a.ipv6)) s1 else s1) s

/-- Start answering for the partner's addresses on a sub-port that is up; on one that is down they wait (R157). -/
def takeAddr (sub : Nat) (s : State) : State :=
  let s1 := s.onFab fun f => { f with addrTaken := setBit f.addrTaken sub true }
  if s.subIsUp sub then
    raise 0x0106 sub .all (announce sub (s1.onFab fun f => { f with announces := tabPut sub 0 f.announces, addrWait := setBit f.addrWait sub false }))
  else s1.onFab fun f => { f with addrWait := setBit f.addrWait sub true }

/-- SUBPORT_DOWN (R129). -/
def execSubportDown (sub : BitVec 4) (s : State) : Host.Outcome State Fault Refusal := .next (after (subDown sub.toNat s))

/-- A sub-port comes up (R129), while its port is enabled and the host ports are released. -/
def subCameUp (sub : Nat) (s : State) : State :=
  if s.subIsUp sub ∨ ¬ s.subEnabled sub ∨ ¬ s.rst.hostUp then s
  else
    let s1 := raise 0x0102 sub .all (s.onFab fun f => { f with subUp := setBit f.subUp sub true, training := setBit f.training sub false })
    if getBit s1.fab.addrWait sub then takeAddr sub s1 else s1

/-- SUBPORT_UP (R129). -/
def execSubportUp (sub : BitVec 4) (s : State) : Host.Outcome State Fault Refusal := .next (after (subCameUp sub.toNat s))

/-- A write of FAB_CTRL (R160): a port whose enable falls goes down; one whose enable rises starts again. -/
def fabCtrl (v : Nat) (s : State) : State :=
  let new := BitVec.ofNat 4 v
  let subs (p : Nat) := (List.range 4).map (4 * p + ·)
  let downs := ((List.range 4).filter fun p => getBit s.fab.ctrl p && !getBit new p).flatMap subs
  let ups := ((List.range 4).filter fun p => !getBit s.fab.ctrl p && getBit new p).flatMap subs
  let s1 := s.onFab fun f => { f with ctrl := new }
  let s2 := downs.foldl (fun s n => (subDown n s).onFab fun f => { f with training := setBit f.training n false }) s1
  ups.foldl (fun s n => autoneg n s) s2

/-- PAUSE_FRAME_RECEIVE (R126): link-level pause, or PFC with its vector of priorities and of those it stops. -/
def pauseFrame (sub : Nat) (prio : Option (BitVec 8)) (stop : BitVec 8) (s : State) : State :=
  let mode := s.param P.pauseMode
  let s1 := match prio with
    | none =>
      if mode = 1 then fabCount sub 12 1 (s.onFab fun f => { f with paused := setBit f.paused sub (stop != 0) }) else fabCount sub 2 1 s
    | some m =>
      if mode = 2 then
        let m := m &&& BitVec.ofNat 8 (s.param P.pfcMask)
        fabCount sub 12 1 (s.onFab fun f => { f with pfc := tabUpdD sub 0 (fun o => (o &&& ~~~m) ||| (stop &&& m)) f.pfc })
      else fabCount sub 2 1 s
  if s1.subStopped sub then s1
  else
    let q := (s1.fab.stopped.filter fun x => x.1 == sub)
    q.foldl (fun s x => wire sub x.2 s) (s1.onFab fun f => { f with stopped := f.stopped.filter fun x => x.1 ≠ sub })

/-- PAUSE_FRAME_RECEIVE. -/
def execPauseFrameReceive (sub : BitVec 4) (prio : Option (BitVec 8)) (stop : BitVec 8) (s : State) : Host.Outcome State Fault Refusal :=
  .next (if s.subIsUp sub.toNat then after (pauseFrame sub.toNat prio stop s) else s)

/-- ADDR_ANNOUNCE_REPEAT (R157): 1 ms and 10 ms after the first announcement. -/
def announceAgain (sub : Nat) (s : State) : State :=
  match tabGet sub s.fab.announces with
  | some n =>
    if s.subIsUp sub then
      announce sub (s.onFab fun f => { f with announces := if n = 0 then tabPut sub 1 f.announces else tabDel sub f.announces })
    else s
  | none => s

/-- ADDR_ANNOUNCE_REPEAT. -/
def execAddrAnnounceRepeat (sub : BitVec 4) (s : State) : Host.Outcome State Fault Refusal := .next (announceAgain sub.toNat s)

/-! ## Frames of no connection -/

/-- The place of the management Ethernet port among `Tx.eth` sub-ports: one past the host's. -/
def mgmtSub : Nat := 16

/-- The management address and the length of its network part (R545, R582): MGMT_IPV4, or 169.254.100.(1 + HEAD_ID)/16. -/
def State.mgmtAddr (s : State) : Nat × Nat :=
  let v := s.param P.mgmtIpv4
  if v = 0 then (0xA9FE6401 + s.head, 16) else (v % 2 ^ 32, v / 2 ^ 32)

/-- ARP_REQUEST (R127, R545): answered for an address of the port it came in on; no port is the management Ethernet. -/
def arpRequest (port : Option (BitVec 4)) (ip mac : Nat) (s : State) : State :=
  match port with
  | some p =>
    if s.rst.hostUp ∧ s.subIsUp p.toNat ∧ (s.addrAt p.toNat fun a => a.v4ok && a.ipv4 == ip).isSome then hostSend (.eth p.toNat (.arpReply ip mac)) s else s
  | none => if s.rst.mgUp ∧ s.mgmtAddr.1 = ip then s.send (.eth mgmtSub (.arpReply ip mac)) else s

/-- ARP_REQUEST. -/
def execArpRequest (port : Option (BitVec 4)) (ip : BitVec 32) (mac : BitVec 48) (s : State) : Host.Outcome State Fault Refusal :=
  .next (arpRequest port ip.toNat mac.toNat s)

/-- NEIGHBOUR_SOLICITATION (R127). -/
def execNeighbourSolicitation (sub : BitVec 4) (target src : BitVec 128) (s : State) : Host.Outcome State Fault Refusal :=
  .next (if s.rst.hostUp ∧ s.subIsUp sub.toNat ∧ (s.addrAt sub.toNat fun a => a.v6ok && a.ipv6 == target.toNat).isSome
    then hostSend (.eth sub.toNat (.naReply target.toNat src.toNat)) s else s)

/-- ICMP_ECHO (R127, R545): at most 1,000 answers a second on each sub-port. -/
def icmpEcho (port : Option (BitVec 4)) (dst src : Nat) (data : Bytes) (s : State) : State :=
  match port with
  | none => if s.rst.mgUp ∧ dst = mapped4 s.mgmtAddr.1 then s.send (.eth mgmtSub (.echoReply dst src data)) else s
  | some p =>
    let sub := p.toNat
    let mine := (s.addrAt sub fun a => (a.v4ok && mapped4 a.ipv4 == dst) || (a.v6ok && a.ipv6 == dst)).isSome
    let (start, n) := match tabGet sub s.fab.echo with
      | some (t, n) => if s.since t < 50000000 then (t, n) else (s.time, 0)
      | none => (s.time, 0)
    if s.rst.hostUp ∧ s.subIsUp sub ∧ mine ∧ n < 1000 then
      hostSend (.eth sub (.echoReply dst src data)) (s.onFab fun f => { f with echo := tabPut sub (start, n + 1) f.echo })
    else s

/-- ICMP_ECHO. -/
def execIcmpEcho (port : Option (BitVec 4)) (dst src : BitVec 128) (data : Bytes) (s : State) : Host.Outcome State Fault Refusal :=
  .next (icmpEcho port dst.toNat src.toNat data s)

/-! ## RoCEv2 requests -/

/-- PSNs a request takes: one, or one for each response packet of an RDMA READ. -/
def State.psnSpan (s : State) : Inbound → Nat
  | .readReq _ _ _ len => max 1 (ceilDiv len.toNat (max 256 (s.param P.pmtu)))
  | _ => 1

/-- The request moves the expected PSN, and with its last packet the MSN. -/
def advance (idx n : Nat) (ends : Bool) (s : State) : State :=
  accepted idx (onCtx idx (fun c => { c with rxNext := (c.rxNext + n) % 2 ^ 24, rxMsg := if ends then (c.rxMsg + 1) % 2 ^ 24 else c.rxMsg
                                             gapNak := false }) s)

/-- The queue pair ends on an invalid request (R131, R172). -/
def badRequest (idx : Nat) (s : State) : State := qpError idx none (sendNak idx 1 s)

/-- The queue pair ends on an access error (R144). -/
def badAccess (idx : Nat) (s : State) : State := qpError idx (some 0x0104) (sendNak idx 2 s)

/-- Data bytes staged in a pull window (R183). -/
def State.stagedBytes (s : State) (w : Window) : Bytes :=
  match s.cmdAt w.acc with
  | none => []
  | some c => slice ((c.reads.zipIdx.flatMap fun (r, i) => match r with
      | .ready b => if w.off ≤ i * 4096 ∧ i * 4096 < w.off + w.wlen then c.wanted i b else []
      | _ => [])) 0 w.wlen

/-- RDMA READ requests of a queue pair whose responses have not all left (R130). -/
def State.readsOut (s : State) (c : Ctx) : Nat :=
  s.fab.stopped.countP fun x => match x.2 with
    | .readResp q _ pos _ => x.1 == c.sub && q == c.peer && (pos == .last || pos == .only)
    | _ => false

/-- Answer an RDMA READ request from a pull window (R143, R144, R183); bytes beyond the window are not sent, and the command fails
with LENGTH_MISMATCH. -/
def readRequest (idx : Nat) (c : Ctx) (psn : Nat) (key off len : Nat) (fresh : Bool) (s : State) : State :=
  if 16 ≤ s.readsOut c then badRequest idx s
  else match s.winAt c.taken key with
    | none => badAccess idx s
    | some (_, w) =>
      if ¬ w.readPerm then badAccess idx s
      else if (s.cmdAt w.acc).any fun g => g.takenOver && g.reads.any (· == .pending) then s
      else
        let data := slice (s.stagedBytes w) off len
        let mtu := max 256 (s.param P.pmtu)
        let parts := if data = [] then [[]] else chunks mtu (data.length + 1) data
        let n := parts.length
        let s1 := parts.zipIdx.foldl (fun s (d, k) =>
          let pos : PktPos := if n = 1 then .only else if k = 0 then .first else if k + 1 = n then .last else .middle
          wire c.sub (.readResp c.peer ((psn + k) % 2 ^ 24) pos d) s) s
        let s2 := if w.wlen < off + len then finish w.acc 0x10 0 0 0 [] (dropWindows w.acc s1) else s1
        if fresh then advance idx (max 1 (ceilDiv len mtu)) true s2 else s2

/-- One packet of an RDMA WRITE (R143, R144, R181): its data is placed; with an immediate equal to the key the window completes. -/
def writePacket (idx : Nat) (c : Ctx) (pos : PktPos) (key va : Nat) (imm : Option Nat) (payload : Bytes) (s : State) : State :=
  let cur := match pos with
    | .first | .only => some (key, va)
    | _ => c.wrCur
  match cur with
  | none => badRequest idx s
  | some (k, off) => match s.winAt c.taken k with
    | none => badAccess idx s
    | some (i, w) =>
      if w.readPerm then badAccess idx s
      else
        let ends := pos == .last || pos == .only
        let flag := imm == some k && !w.complete
        let s1 := placeData false flag i off payload s
        let s2 := match imm with
          | some m => if m = k then s1 else failCmd w.acc 0x03 0xFFFFFFFF 0 s1
          | none => s1
        let s3 := if flag then windowDone i s2 else s2
        advance idx 1 ends (onCtx idx (fun c => { c with wrCur := if ends then none else some (k, off + payload.length) }) s3)

/-- An in-order RC request (R130, R131, R134, R172). -/
def rcRequest (idx : Nat) (c : Ctx) (p : Inbound) (s : State) : State :=
  match p with
  | .send h pos payload =>
    if pos ≠ .only ∨ payload.length ≠ 64 then badRequest idx s
    else if c.state ≠ .draining ∧ ¬ s.slotFree (qpnOf idx c) c then
      fabCount c.sub 10 1 (wire c.sub (.rnr c.peer c.rxNext (s.param P.rnrDelay)) s)
    else takeCapsule idx c h.psn.toNat payload (advance idx 1 true s)
  | .write _ pos key va payload => writePacket idx c pos key.toNat va.toNat none payload s
  | .writeImm _ pos key va imm payload =>
    if pos = .first ∨ pos = .middle then badRequest idx s else writePacket idx c pos key.toNat va.toNat (some imm.toNat) payload s
  | .readReq h key va len => readRequest idx c h.psn.toNat key.toNat va.toNat len.toNat true s
  | _ => badRequest idx s

/-- A duplicate of a request (R134): a packet already acknowledged is acknowledged again at once, a read is answered again. -/
def rcDuplicate (idx : Nat) (c : Ctx) (psn : Nat) (p : Inbound) (s : State) : State :=
  match p with
  | .readReq _ key va len => if (s.winAt c.taken key.toNat).isSome then readRequest idx c psn key.toNat va.toNat len.toNat false s else s
  | _ => if (c.acked + 2 ^ 24 - 1 - psn) % 2 ^ 24 < 2 ^ 23 then sendAck idx false s else s

/-- Put an RC queue pair's rate up or down is LOT's and RC's alike: the cut of R155 on the pair of queue and sub-port. -/
def rateCut (idx sub : Nat) (s : State) : State :=
  match tabGet idx s.qpc.ctx with
  | none => s
  | some c =>
    let due : Bool := match c.cnpAt with
      | some t => decide (s.param P.cnpGap * usTicks ≤ s.since t)
      | none => true
    let s1 := s.onFab fun f => { f with cnpRx := satInc f.cnpRx }
    if due then onCtxQuiet idx (fun c =>
      { c with cnpAt := some s.time, rates := tabUpdD sub 10000 (fun r => max 100 (r * (8 - s.param P.cnpCut) / 8)) c.rates }) s1
    else s1

/-- Progress of acknowledgements on a connection (R153): packets the test lets through are done; timeout and retries start afresh when the
oldest one moved. -/
def acknowledge (idx : Nat) (done : OutPkt → Bool) (s : State) : State :=
  match tabGet idx s.qpc.ctx with
  | none => s
  | some c =>
    let left := c.sent.filter fun p => !done p
    let moved := decide ((left.head?).map (·.num) ≠ (c.sent.head?).map (·.num))
    let hit := c.sent.filter done
    onCtx idx (fun c =>
      { c with
        sent := left
        txUna := match left with
          | p :: _ => p.num
          | [] => c.txNext
        retries := if moved then 0 else c.retries
        rnrs := if moved then 0 else c.rnrs
        timeout := if left = [] then 0 else if moved then s.param P.retryTimeoutInit else c.timeout
        pathMiss := hit.foldl (fun t p => tabDel (p.sub % max 1 c.addrs.length) t) c.pathMiss }) s

/-- Send again every packet of a connection that is not acknowledged (R141, R153). -/
def resendAll (idx : Nat) (s : State) : State :=
  match tabGet idx s.qpc.ctx with
  | none => s
  | some c =>
    if c.held then sendProbe idx s else c.sent.foldl (fun s p => transmit c p true s) s

/-- Whether a packet number is at or below another, in a space of `m` numbers. -/
def numLe (m a b : Nat) : Bool := decide ((b + m - a) % m < m / 2)

/-- The retry or RNR limit is reached (R153, R154). -/
def retryOver (idx : Nat) (s : State) : State :=
  qpError idx (some 0x0103) (s.onFab fun f => { f with retryExceeded := satInc f.retryExceeded })

/-- One more retry of a connection (R153): it ends at RETRY_LIMIT, else everything is sent again. -/
def retry (idx : Nat) (double : Bool) (s : State) : State :=
  match tabGet idx s.qpc.ctx with
  | none => s
  | some c =>
    if c.sent = [] ∧ ¬ tabHas idx s.prt.probes then s
    else if s.param P.retryLimit ≤ c.retries then retryOver idx s
    else
      let n := max 1 c.addrs.length
      let paths := nubNat (c.sent.map fun p => p.sub % n)
      let miss := paths.foldl (fun t k => tabUpdD k 0 (· + 1) t) c.pathMiss
      let s1 := onCtx idx (fun c =>
        { c with retries := c.retries + 1, timeout := if double then min (2 * c.timeout) (s.param P.retryTimeoutMax) else c.timeout
                 pathMiss := if c.lot then miss else c.pathMiss }) s
      let gone := paths.any fun k => tabGetD k 0 miss == s.param P.retryLimit
      let others := (List.range n).any fun k => tabGetD k 0 miss == 0
      let s2 := if c.lot ∧ gone ∧ others then raise 0x0108 (qpnOf idx c) (.queue idx) s1 else s1
      resendAll idx s2

/-- An RC response packet: acknowledgement, NAK or CNP from the host (R154, R155). Codes: 0 sequence error, 1 invalid request, 2
remote access error, 3 remote operational error, 0x20 RNR. -/
def rcResponse (idx : Nat) (c : Ctx) (p : Inbound) (s : State) : State :=
  match p with
  | .ack h => acknowledge idx (fun o => numLe (2 ^ 24) o.num h.psn.toNat) s
  | .nak h code delay =>
    if code = 0 ∧ tabHas idx s.prt.probes then probeAnswer idx h.psn.toNat s
    else
    let before := acknowledge idx (fun o => numLe (2 ^ 24) o.num ((h.psn.toNat + 2 ^ 24 - 1) % 2 ^ 24)) s
    if code = 0 then resendAll idx before
    else if code = 0x20 then
      let lim := s.param P.rnrRetryLimit
      let x := (tabGet idx before.qpc.ctx).getD c
      if lim ≠ 7 ∧ lim ≤ x.rnrs then retryOver idx before
      else onCtx idx (fun c => { c with rnrs := c.rnrs + 1, timeout := max 1 (delay.toNat), sent := c.sent.map fun o => { o with rnrWait := true } }) before
    else qpError idx (if code = 2 then some 0x0104 else none) before
  | .cnp _ => rateCut idx c.sub s
  | _ => s

/-- Whether an inbound RC packet is a request. -/
def Inbound.isRequest : Inbound → Bool
  | .ack _ => false
  | .nak _ _ _ => false
  | .cnp _ => false
  | _ => true

/-- An RC packet whose context is in the cache (R134, R155). -/
def rcPacket (idx : Nat) (h : RoceHdr) (p : Inbound) (s0 : State) : State :=
  match tabGet idx s0.qpc.ctx with
  | none => fabCount h.sub.toNat 7 1 s0
  | some c =>
    if c.lost ∨ (c.state ≠ .ready ∧ c.state ≠ .draining) then fabCount h.sub.toNat 7 1 s0
    else
      let s := if h.ce then sendCnp idx s0 else s0
      let psn := h.psn.toNat
      if ¬ p.isRequest then rcResponse idx c p s
      else if psn = c.rxNext then rcRequest idx c p s
      else if (psn + 2 ^ 24 - c.rxNext) % 2 ^ 24 < 2 ^ 23 then
        if c.gapNak then s else sendNak idx 0 (onCtx idx (fun c => { c with gapNak := true }) s)
      else rcDuplicate idx c psn p s

/-- A RoCEv2 packet arrives (R130, R131, R149). -/
def roceIn (h : RoceHdr) (p : Inbound) (s : State) : State :=
  let sub := h.sub.toNat
  if ¬ s.rst.hostUp ∨ ¬ s.subIsUp sub then s
  else
    let s1 := fabCount sub 0 1 (fabCount sub 5 1 (if h.ce then fabCount sub 15 1 s else s))
    if ¬ h.icrcOk then fabCount sub 14 1 s1
    else if ¬ h.rc then fabCount sub 8 1 s1
    else match s1.ctxAt h.qpn.toNat with
      | none => fabCount sub 7 1 s1
      | some (idx, c) =>
        if c.lot ∨ c.lost ∨ (c.state ≠ .ready ∧ c.state ≠ .draining) then fabCount sub 7 1 s1
        else if c.cached then rcPacket idx h p (cacheHit idx s1)
        else missIn sub idx p s1

/-- ROCE_SEND (R172). -/
def execRoceSend (h : RoceHdr) (pos : PktPos) (payload : Bytes) (s : State) : Host.Outcome State Fault Refusal :=
  .next (after (roceIn h (.send h pos payload) s))

/-- ROCE_RDMA_WRITE (R181). -/
def execRoceRdmaWrite (h : RoceHdr) (pos : PktPos) (rkey : BitVec 32) (va : BitVec 64) (payload : Bytes) (s : State) :
    Host.Outcome State Fault Refusal := .next (after (roceIn h (.write h pos rkey va payload) s))

/-- ROCE_RDMA_WRITE_IMM (R181). -/
def execRoceRdmaWriteImm (h : RoceHdr) (pos : PktPos) (rkey : BitVec 32) (va : BitVec 64) (imm : BitVec 32) (payload : Bytes) (s : State) :
    Host.Outcome State Fault Refusal := .next (after (roceIn h (.writeImm h pos rkey va imm payload) s))

/-- ROCE_RDMA_READ_REQUEST (R183). -/
def execRoceRdmaReadRequest (h : RoceHdr) (rkey : BitVec 32) (va : BitVec 64) (len : BitVec 32) (s : State) :
    Host.Outcome State Fault Refusal := .next (after (roceIn h (.readReq h rkey va len) s))

/-- ROCE_ACK (R153). -/
def execRoceAck (h : RoceHdr) (s : State) : Host.Outcome State Fault Refusal := .next (after (roceIn h (.ack h) s))

/-- ROCE_NAK (R154). -/
def execRoceNak (h : RoceHdr) (code : BitVec 8) (delay : BitVec 32) (s : State) : Host.Outcome State Fault Refusal :=
  .next (after (roceIn h (.nak h code delay) s))

/-- ROCE_CNP (R155). -/
def execRoceCnp (h : RoceHdr) (s : State) : Host.Outcome State Fault Refusal := .next (after (roceIn h (.cnp h) s))

/-- ROCE_UNSUPPORTED_OPCODE (R131). -/
def execRoceUnsupportedOpcode (h : RoceHdr) (s : State) : Host.Outcome State Fault Refusal := .next (after (roceIn h (.unsupported h) s))

/-! ## Connection management -/

/-- What the head grants in the Munatra connect parameters (R169, R170); none where it refuses them. -/
def State.munatraGrant (s : State) (priv : Bytes) (lot : Bool) : Option (Nat × Bool × Bool × Nat × Bytes) :=
  let flags := fieldLe priv 1 1
  let depth := fieldLe priv 2 2
  if priv.length < 8 ∨ fieldLe priv 0 1 ≠ 1 ∨ depth = 0 ∨ 1024 < depth ∨ 2 ≤ flags then none
  else
    let pull := !lot && s.flag P.pullEnable
    let d := min depth (s.param P.qdepthMax)
    let ident := s.param P.trWindowMax / 4096 % 2 ^ 16 + s.param P.trPerCmd % 2 ^ 8 * 2 ^ 16 + s.head * 2 ^ 24
    some (d, bitAt flags 0, pull, fieldLe priv 4 4, [1] ++ leBytes 1 (flags % 2 + 2 * b2n pull) ++ leBytes 2 d ++ leBytes 4 ident)

/-- Send REP for a Connecting context (R133). -/
def sendRep (idx : Nat) (s : State) : State :=
  match tabGet idx s.qpc.ctx with
  | none => s
  | some c =>
    let ident := s.param P.trWindowMax / 4096 % 2 ^ 16 + s.param P.trPerCmd % 2 ^ 8 * 2 ^ 16 + s.head * 2 ^ 24
    let priv := [1] ++ leBytes 1 (b2n c.events + 2 * b2n c.pull) ++ leBytes 2 c.depth ++ leBytes 4 ident
    hostSend (.cm c.sub (.rep c.commId (qpnOf idx c) priv 16 0)) (onCtx idx (fun c => { c with reps := c.reps + 1 }) s)

/-- CM_REQ (R132, R133, R170): a context is made and REP sent, or the request refused. -/
def cmReq (r : ConnReq) (s0 : State) : State :=
  let sub := r.sub.toNat
  if ¬ s0.rst.hostUp ∨ ¬ s0.subIsUp sub ∨ s0.prt.pair = .fenced then s0
  else
    let s := wakeHost s0
    let rej (s : State) : State := hostSend (.cm sub (.rej r.commId.toNat)) s
    match s.qpc.ctx.find? fun e => !e.2.lot && e.2.state == .connecting && e.2.commId == r.commId.toNat && e.2.src == r.src.toNat with
    | some (i, _) => sendRep i s
    | none => match s.munatraGrant r.priv false with
      | none => rej s
      | some (d, ev, pull, hid, _) =>
        if ¬ r.rc ∨ r.pmtu < s.param P.pmtu then rej s
        else match s.freeCtx with
          | none => rej s
          | some (i, g) =>
            let c : Ctx := { gen := g, state := .connecting, src := r.src.toNat, sub := sub, addrs := [r.src.toNat], peer := r.qpn.toNat
                             commId := r.commId.toNat, mac := r.mac.toNat, sport := r.sport.toNat, pkey := r.pkey.toNat, localPort := sub
                             depth := d, events := ev, pull := pull, hostId := hid, rxNext := r.psn.toNat, acked := r.psn.toNat }
            sendRep i (cacheIn i (addCtx i c s))

/-- CM_REQ. -/
def execCmReq (req : ConnReq) (s : State) : Host.Outcome State Fault Refusal := .next (after (cmReq req s))

/-- CM_RTU (R147): the connection is Ready. -/
def cmRtu (qpn : Nat) (s : State) : State :=
  match s.ctxAt qpn with
  | some (i, c) => if c.state = .connecting ∧ ¬ c.lot then connReady i s else s
  | none => s

/-- CM_RTU. -/
def execCmRtu (qpn : BitVec 24) (s : State) : Host.Outcome State Fault Refusal := .next (after (cmRtu qpn.toNat s))

/-- A disconnect of a connection (R147, R162): from Error it closes at once; with packets in a miss buffer it waits for them. -/
def disconnect (i : Nat) (c : Ctx) (bye : State → State) (s : State) : State :=
  if c.state = .error then closeCtx i (bye s)
  else if s.qpc.miss.any fun m => m.2.1 == i then onCtx i (fun c => { c with closeWait := true }) s
  else onCtx i (fun c => { c with state := .draining }) s

/-- CM_DREQ (R133, R147). -/
def cmDreq (qpn : Nat) (s : State) : State :=
  match s.ctxAt qpn with
  | some (i, c) => if c.lot then s else disconnect i c (fun s => hostSend (.cm c.sub (.drep c.commId)) s) s
  | none => s

/-- CM_DREQ. -/
def execCmDreq (qpn : BitVec 24) (s : State) : Host.Outcome State Fault Refusal := .next (after (cmDreq qpn.toNat s))

/-- CM_REJ (R133): the host refuses the connection the head answered. -/
def cmRej (qpn : Nat) (s : State) : State :=
  match s.ctxAt qpn with
  | some (i, c) => if c.state = .connecting ∧ ¬ c.lot then closeCtx i s else s
  | none => s

/-- CM_REJ. -/
def execCmRej (qpn : BitVec 24) (s : State) : Host.Outcome State Fault Refusal := .next (after (cmRej qpn.toNat s))

/-- REP_RETRY_TIMER (R147): REP again, or Closed after three unanswered ones. -/
def repRetry (qpn : Nat) (s : State) : State :=
  match s.ctxAt qpn with
  | some (i, c) =>
    if c.state ≠ .connecting ∨ c.lot ∨ s.prt.round.isSome then s
    else if 3 ≤ c.reps then closeCtx i s else sendRep i s
  | none => s

/-- REP_RETRY_TIMER. -/
def execRepRetryTimer (qpn : BitVec 24) (s : State) : Host.Outcome State Fault Refusal := .next (after (repRetry qpn.toNat s))

/-! ## Timers of connections -/

/-- RETRY_TIMEOUT (R153, R164): the timers stand still during a claim round. -/
def retryTimeout (qpn : Nat) (s : State) : State :=
  match s.ctxAt qpn with
  | some (i, c) =>
    if s.prt.round.isSome ∨ c.timeout = 0 then s
    else if c.state = .ready ∨ c.state = .draining then retry i true s
    else if c.state = .connecting ∧ c.replTarget.isSome then
      if s.param P.retryLimit ≤ c.retries then closeCtx i (s.onFab fun f => { f with retryExceeded := satInc f.retryExceeded }) else retry i true s
    else s
  | none => s

/-- RETRY_TIMEOUT. -/
def execRetryTimeout (qpn : BitVec 24) (s : State) : Host.Outcome State Fault Refusal := .next (after (retryTimeout qpn.toNat s))

/-- RNR_RESEND_TIMER (R154): the delay of an RNR NAK is over. -/
def rnrResend (qpn : Nat) (s : State) : State :=
  match s.ctxAt qpn with
  | some (i, c) =>
    if s.prt.round.isSome ∨ ¬ (c.sent.any (·.rnrWait)) then s
    else resendAll i (onCtx i (fun c => { c with timeout := s.param P.retryTimeoutInit, sent := c.sent.map fun p => { p with rnrWait := false } }) s)
  | none => s

/-- RNR_RESEND_TIMER. -/
def execRnrResendTimer (qpn : BitVec 24) (s : State) : Host.Outcome State Fault Refusal := .next (after (rnrResend qpn.toNat s))

/-- QP_ERR_LINGER_EXPIRY (R147). -/
def errLinger (qpn : Nat) (s : State) : State :=
  match s.ctxAt qpn with
  | some (i, c) => if c.state = .error then closeCtx i s else s
  | none => s

/-- QP_ERR_LINGER_EXPIRY. -/
def execQpErrLingerExpiry (qpn : BitVec 24) (s : State) : Host.Outcome State Fault Refusal := .next (after (errLinger qpn.toNat s))

/-- CHECKPOINT_BATCH (R152). -/
def execCheckpointBatch (s : State) : Host.Outcome State Fault Refusal := .next (checkpointBatch s)

/-- CNP_RATE_RAISE (R155): a CNP_RAISE_PERIOD without a CNP. -/
def cnpRaise (qpn sub : Nat) (s : State) : State :=
  match s.ctxAt qpn with
  | some (i, _) => onCtxQuiet i (fun c => { c with rates := (tabUpd sub (fun r => min 10000 (r + s.param P.cnpRaiseStep * 100)) c.rates).filter fun e => e.2 ≠ 10000 }) s
  | none => s

/-- CNP_RATE_RAISE. -/
def execCnpRateRaise (qpn : BitVec 24) (sub : BitVec 4) (s : State) : Host.Outcome State Fault Refusal := .next (cnpRaise qpn.toNat sub.toNat s)

/-- EVENT_MERGE_INTERVAL (R156): the 1 ms interval of a code on a connection ends. -/
def mergeInterval (qpn code : Nat) (s : State) : State :=
  match s.ctxAt qpn with
  | some (i, c) => match tabGet code c.merges with
    | some m =>
      if m.held = 0 ∨ c.state ≠ .ready then onCtxQuiet i (fun c => { c with merges := tabDel code c.merges }) s
      else sendHead i (eventMsg code m.detail.toNat m.held m.time) (onCtxQuiet i (fun c => { c with merges := tabPut code {} c.merges }) s)
    | none => s
  | none => s

/-- EVENT_MERGE_INTERVAL. -/
def execEventMergeInterval (qpn : BitVec 24) (code : BitVec 16) (s : State) : Host.Outcome State Fault Refusal :=
  .next (mergeInterval qpn.toNat code.toNat s)

end Sys2Proof.Machine
end

