-- ==== Sys2Proof/Machine/Lot.lean ====
section
/-! DEFINITION. Loose-order transport (R135 to R141, R154, R155), and the packets that waited for a context (R149). -/

namespace Sys2Proof.Machine

/-! ## Packets -/

/-- Fields of a LOT packet's header (R135). -/
structure LotPkt where
  op : Nat
  flags : Nat
  conn : Nat
  msg : Nat
  pkt : Nat
  mkey : Nat
  msgLen : Nat
  addr : Nat
  pay : Bytes
deriving DecidableEq, Repr

/-- A LOT packet read from its bytes (R135). -/
def lotOf (raw : Bytes) : LotPkt :=
  { op := fieldLe raw 0 1 % 16, flags := fieldLe raw 1 1, conn := fieldLe raw 4 4 % 2 ^ 24, msg := fieldLe raw 8 4, pkt := fieldLe raw 12 4
    mkey := fieldLe raw 16 4, msgLen := fieldLe raw 20 4, addr := fieldLe raw 24 8, pay := slice raw 32 (raw.length - 36) }

/-- Whether a packet's shape is right: version, length and PAY_LEN (R135). -/
def lotShape (raw : Bytes) : Bool :=
  decide (36 ≤ raw.length) && fieldLe raw 0 1 / 16 == 1 && fieldLe raw 2 2 == raw.length - 36 && decide (raw.length ≤ 36 + 4096)

/-- Mark a packet number received (R140). -/
def lotReceived (idx pkt : Nat) (s : State) : State :=
  accepted idx (onCtx idx (fun c =>
    let set := if c.rxSet.contains pkt then c.rxSet else c.rxSet ++ [pkt]
    let go := (List.range (set.length + 1)).foldl (fun (a : Nat × List Nat) _ =>
      if a.2.contains a.1 then ((a.1 + 1) % 2 ^ 32, a.2.erase a.1) else a) (c.rxNext, set)
    { c with rxNext := go.1, rxSet := go.2 }) s)

/-- Deliver completed messages to CMD in MSG order (R139); `fuel` bounds them. -/
def deliverLot (idx : Nat) : Nat → State → State
  | 0, s => s
  | fuel + 1, s =>
    match tabGet idx s.qpc.ctx with
    | none => s
    | some c => match tabGet c.rxMsg c.done with
      | none => s
      | some d =>
        let s1 := onCtx idx (fun c => { c with rxMsg := (c.rxMsg + 1) % 2 ^ 32, done := tabDel c.rxMsg c.done }) s
        let s2 := match d with
          | .data key _ => match s1.winAt c.taken key with
            | some (i, w) => if w.complete then s1 else windowDone i s1
            | none => s1
          | .capsule raw => match c.replTarget with
            | some t => replMessage t raw s1
            | none => takeCapsule idx c c.rxMsg raw s1
          | .nothing => s1
        deliverLot idx fuel s2

/-- Keep a completed message until its turn (R139). -/
def lotDone (idx msg : Nat) (d : LotDone) (s : State) : State :=
  let n := match tabGet idx s.qpc.ctx with
    | some c => c.done.length + 2
    | none => 1
  deliverLot idx n (onCtx idx (fun c => { c with done := tabPut msg d c.done, trackers := tabDel msg c.trackers }) s)

/-- Whether a DATA packet keeps the rules of R137. -/
def lotDataGood (p : LotPkt) (t : Option Tracker) : Bool :=
  let last := (p.msgLen - 1) / 4096
  decide (1 ≤ p.msgLen) && decide (p.msgLen ≤ 16777216) && p.addr % 4096 == 0 && decide (p.addr < p.msgLen)
    && p.pay.length == min 4096 (p.msgLen - p.addr) && (bitAt p.flags 0 == (p.addr / 4096 == last))
    && (match t with
      | some x => x.msgLen == p.msgLen && x.mkey == p.mkey
      | none => true)

/-- The tracker a message starts with: empty, or on a window of a taken-over command with the slots the shadow brought (R447). -/
def State.freshTracker (s : State) (i : Nat) (w : Window) (msgLen mkey : Nat) : Tracker :=
  match s.cmdAt w.acc with
  | none => { msgLen := msgLen, mkey := mkey }
  | some c =>
    let len (k : Nat) : Nat := min 4096 (msgLen - 4096 * k)
    let held := if i < 2 ^ 20 then [] else
      (List.range (ceilDiv msgLen 4096)).filter fun k => s.newBytes c (w.off + 4096 * k) (len k) == 0
    { slots := held, bytes := held.foldl (fun a k => a + len k) 0, final := held.contains ((msgLen - 1) / 4096)
      msgLen := msgLen, mkey := mkey }

/-- A DATA packet (R137 to R139, R144). -/
def lotData (idx : Nat) (c : Ctx) (sub src : Nat) (p : LotPkt) (s : State) : State :=
  let t := tabGet p.msg c.trackers
  let nak (code : Nat) : State := sendLotNak sub src c.peer p.msg c.rxNext code s
  if ¬ lotDataGood p t then nak 1
  else
    let slot := p.addr / 4096
    let beyond := numLe (2 ^ 32) p.msg ((c.rxMsg + 2 ^ 32 - 1) % 2 ^ 32) || tabHas p.msg c.done
    if beyond ∨ (t.any fun x => x.slots.contains slot) then lotReceived idx p.pkt (fabCount sub 9 1 s)
    else match s.winAt c.taken p.mkey with
      | none => nak 2
      | some (i, w) =>
        if w.readPerm then nak 2
        else
          let x := t.getD (s.freshTracker i w p.msgLen p.mkey)
          let x1 := { x with slots := x.slots ++ [slot], bytes := x.bytes + p.pay.length, final := x.final || bitAt p.flags 0 }
          let whole := x1.slots.length = ceilDiv p.msgLen 4096 ∧ x1.bytes = p.msgLen ∧ x1.final
          let s1 := placeData true (decide whole) i p.addr p.pay s
          let s2 := lotReceived idx p.pkt (onCtx idx (fun c => { c with trackers := tabPut p.msg x1 c.trackers }) s1)
          -- a message of another length than its window completes the window with another total (R181, R192)
          if whole then lotDone idx p.msg (.data p.mkey p.msgLen) s2 else s2

/-- A SEND (R139, R172). -/
def lotSend (idx : Nat) (c : Ctx) (sub src : Nat) (p : LotPkt) (s : State) : State :=
  let beyond := numLe (2 ^ 32) p.msg ((c.rxMsg + 2 ^ 32 - 1) % 2 ^ 32) || tabHas p.msg c.done
  if beyond then lotReceived idx p.pkt s
  else if p.pay.length = 64 then lotDone idx p.msg (.capsule p.pay) (lotReceived idx p.pkt s)
  else lotDone idx p.msg .nothing (lotReceived idx p.pkt (sendLotNak sub src c.peer p.msg c.rxNext 1 s))

/-- An ACK from the host (R140, R141, R153): what it shows as received is done; a packet it shows missing, with three later ones
received, goes out again at once. -/
def lotAck (idx : Nat) (p : LotPkt) (s : State) : State :=
  let got (n : Nat) : Bool := !(numLe (2 ^ 32) p.pkt n) || (let d := (n + 2 ^ 32 - p.pkt - 1) % 2 ^ 32
    decide (n ≠ p.pkt) && decide (d < 64) && bitAt p.addr d)
  let s1 := acknowledge idx (fun o => got o.num) s
  match tabGet idx s1.qpc.ctx with
  | none => s1
  | some c =>
    let later (n : Nat) : Nat := (List.range 64).countP fun k => bitAt p.addr k && !(numLe (2 ^ 32) ((p.pkt + 1 + k) % 2 ^ 32) n)
    (c.sent.filter fun o => !o.fast && decide (3 ≤ later o.num)).foldl (fun s o =>
      transmit c o true (onCtx idx (fun c => { c with sent := c.sent.map fun x => if x.num = o.num then { x with fast := true } else x }) s)) s1

/-- A NAK from the host (R154). -/
def lotNakIn (idx sub : Nat) (p : LotPkt) (s : State) : State :=
  match fieldLe p.pay 0 1 with
  | 1 | 2 | 4 => qpError idx (some 0x0104) s
  | 5 => retry idx false s
  | _ => fabCount sub 2 1 s

/-- A packet of a connection whose context is in the cache (R136, R140, R147, R155). -/
def lotPacketIn (idx : Nat) (h : LotHdr) (raw : Bytes) (s0 : State) : State :=
  let sub := h.sub.toNat
  let src := h.src.toNat
  let p := lotOf raw
  match tabGet idx s0.qpc.ctx with
  | none => sendLotNak sub src 0 p.msg p.pkt 4 s0
  | some c =>
    if c.lost ∨ c.state = .error ∨ c.state = .connecting then s0
    else
      let s := if h.ce then sendCnp idx s0 else s0
      match p.op with
      | 3 => lotAck idx p s
      | 4 => lotNakIn idx sub p s
      | 7 => disconnect idx c (fun s => match s.lotSub with
          | some n => wire n (.lot (c.lotDst n) (lotPacket 7 0 c.peer 0 c.txNext 0 0 0 [])) s
          | none => s) s
      | 8 => rateCut idx sub s
      | _ =>
        let dup := !(numLe (2 ^ 32) c.rxNext p.pkt) || c.rxSet.contains p.pkt
        if dup then sendAck idx h.ce (fabCount sub 9 1 s)
        else if s.param P.lotRxWindow ≤ (p.pkt + 2 ^ 32 - c.rxNext) % 2 ^ 32 then sendLotNak sub src c.peer p.msg c.rxNext 5 s
        else if p.op = 1 then lotData idx c sub src p s
        else lotSend idx c sub src p s

/-- A LOT packet of an opcode arrives (R135, R136, R146, R149). One that is not of that opcode, of another version or of a wrong
length is discarded and counted, as is every packet while LOT_ENABLE is 0. -/
def lotIn (op : Nat) (h : LotHdr) (raw : Bytes) (s : State) : State :=
  let sub := h.sub.toNat
  if ¬ s.rst.hostUp ∨ ¬ s.subIsUp sub then s
  else
    let s1 := fabCount sub 0 1 (fabCount sub 6 1 (if h.ce then fabCount sub 15 1 s else s))
    let p := lotOf raw
    if s.param P.lotEnable = 0 then fabCount sub 2 1 s1
    else if ¬ crcGood raw then fabCount sub 14 1 s1
    else if ¬ lotShape raw ∨ p.op ≠ op then fabCount sub 2 1 s1
    else match s1.ctxAt p.conn with
      | none => if op = 4 then fabCount sub 7 1 s1 else sendLotNak sub h.src.toNat 0 p.msg p.pkt 4 (fabCount sub 7 1 s1)
      | some (idx, c) =>
        if ¬ c.lot ∨ ¬ c.addrs.contains h.src.toNat then fabCount sub 7 1 s1
        else if c.cached then lotPacketIn idx h raw (cacheHit idx s1)
        else missIn sub idx (.lot h raw) s1

/-- LOT_DATA (R137). -/
def execLotData (h : LotHdr) (raw : Bytes) (s : State) : Host.Outcome State Fault Refusal := .next (after (lotIn 1 h raw s))

/-- LOT_SEND (R139, R172). -/
def execLotSend (h : LotHdr) (raw : Bytes) (s : State) : Host.Outcome State Fault Refusal := .next (after (lotIn 2 h raw s))

/-- LOT_ACK (R140, R141). -/
def execLotAck (h : LotHdr) (raw : Bytes) (s : State) : Host.Outcome State Fault Refusal := .next (after (lotIn 3 h raw s))

/-- LOT_NAK (R154). -/
def execLotNak (h : LotHdr) (raw : Bytes) (s : State) : Host.Outcome State Fault Refusal := .next (after (lotIn 4 h raw s))

/-- LOT_CLOSE (R136, R147, R162). -/
def execLotClose (h : LotHdr) (raw : Bytes) (s : State) : Host.Outcome State Fault Refusal := .next (after (lotIn 7 h raw s))

/-- LOT_CNP (R155). -/
def execLotCnp (h : LotHdr) (raw : Bytes) (s : State) : Host.Outcome State Fault Refusal := .next (after (lotIn 8 h raw s))

/-! ## Opening -/

/-- An OPEN_REPLY to a host address (R135, R136). -/
def openReply (sub dst peer status conn : Nat) (munatra : Bytes) (s : State) : State :=
  wire sub (.lot dst (lotPacket 6 0 peer 0 0 0 0 0 (lotOpenBody conn status 0 0 s.ownAddrs munatra))) s

/-- Host addresses of an OPEN body (R135). -/
def openAddrs (body : Bytes) : List Nat := (List.range (min 4 (fieldLe body 12 4))).map fun i => fieldLe body (16 + 16 * i) 16

/-- A LOT OPEN from a host (R136, R147, R169, R170). -/
def lotOpenIn (h : LotHdr) (raw : Bytes) (s0 : State) : State :=
  let sub := h.sub.toNat
  if ¬ s0.rst.hostUp ∨ ¬ s0.subIsUp sub ∨ s0.prt.pair = .fenced then s0
  else
    let s1 := fabCount sub 0 1 (fabCount sub 6 1 s0)
    let p := lotOf raw
    if s0.param P.lotEnable = 0 then fabCount sub 2 1 s1
    else if ¬ crcGood raw then fabCount sub 14 1 s1
    else if ¬ lotShape raw ∨ p.op ≠ 5 then fabCount sub 2 1 s1
    else if s1.prt.pair = .fenced then s1
    else
      let s := wakeHost s1
      let src := h.src.toNat
      let peer := fieldLe p.pay 0 4 % 2 ^ 24
      match s.qpc.ctx.find? fun e => e.2.lot && e.2.replTarget.isNone && e.2.peer == peer && e.2.src == src && (e.2.state == .connecting || e.2.state == .ready) with
      | some (i, c) =>
        let ident := s.param P.trWindowMax / 4096 % 2 ^ 16 + s.param P.trPerCmd % 2 ^ 8 * 2 ^ 16 + s.head * 2 ^ 24
        openReply sub src peer 0 (qpnOf i c) ([1] ++ leBytes 1 (b2n c.events) ++ leBytes 2 c.depth ++ leBytes 4 ident) s
      | none =>
        let naddr := fieldLe p.pay 12 4
        let bad := p.pay.length ≠ 88 ∨ fieldLe p.pay 0 4 ≠ peer ∨ naddr = 0 ∨ 4 < naddr
        match s.munatraGrant (slice p.pay 80 8) true, s.freeCtx with
        | none, _ => openReply sub src peer 3 0 [] s
        | some (d, ev, _, hid, m), some (i, g) =>
          if bad then openReply sub src peer 3 0 [] s
          else
            let pkt0 := fieldLe p.pay 4 4
            let c : Ctx := { gen := g, state := .ready, lot := true, src := src, addrs := openAddrs p.pay, peer := peer, localPort := sub, depth := d
                             events := ev, hostId := hid, rxNext := pkt0, rxMsg := fieldLe p.pay 8 4, acked := pkt0 }
            connReady i (openReply sub src peer 0 (g * 2 ^ 18 + i) m (cacheIn i (addCtx i c s)))
        | some _, none => openReply sub src peer (if bad then 3 else 1) 0 [] s

/-- LOT_OPEN. -/
def execLotOpen (h : LotHdr) (raw : Bytes) (s : State) : Host.Outcome State Fault Refusal := .next (after (lotOpenIn h raw s))

/-- An OPEN_REPLY to a connection the head opened for replication (R473). -/
def lotOpenReplyIn (h : LotHdr) (raw : Bytes) (s0 : State) : State :=
  let sub := h.sub.toNat
  if ¬ s0.rst.hostUp ∨ ¬ s0.subIsUp sub then s0
  else
    let s := fabCount sub 0 1 (fabCount sub 6 1 s0)
    let p := lotOf raw
    if ¬ crcGood raw then fabCount sub 14 1 s
    else if ¬ lotShape raw ∨ p.op ≠ 6 ∨ p.pay.length ≠ 88 then fabCount sub 2 1 s
    else match s.ctxAt p.conn with
      | none => fabCount sub 7 1 s
      | some (i, c) => match c.replTarget with
        | none => fabCount sub 7 1 s
        | some t =>
          if c.state ≠ .connecting then s
          else if fieldLe p.pay 0 4 / 2 ^ 24 ≠ 0 then closeCtx i s
          else
            let pkt0 := fieldLe p.pay 4 4
            onTarget t (fun x => { x with ready := true }) (connReady i (onCtx i (fun c =>
              { c with peer := fieldLe p.pay 0 4 % 2 ^ 24, rxNext := pkt0, acked := pkt0, rxMsg := fieldLe p.pay 8 4, retries := 0
                       addrs := match openAddrs p.pay with
                         | [] => c.addrs
                         | l => l }) s))

/-- LOT_OPEN_REPLY (R473). -/
def execLotOpenReply (h : LotHdr) (raw : Bytes) (s : State) : Host.Outcome State Fault Refusal := .next (after (lotOpenReplyIn h raw s))

/-! ## The miss buffers -/

/-- A packet that waited is processed (R149, R161, R165). -/
def replay (idx : Nat) (p : Inbound) (s : State) : State :=
  match p with
  | .send h .. => rcPacket idx h p s
  | .write h .. => rcPacket idx h p s
  | .writeImm h .. => rcPacket idx h p s
  | .readReq h .. => rcPacket idx h p s
  | .ack h => rcPacket idx h p s
  | .nak h .. => rcPacket idx h p s
  | .cnp h => rcPacket idx h p s
  | .unsupported h => rcPacket idx h p s
  | .lot h raw => lotPacketIn idx h raw s

/-- QP_CONTEXT_FETCH_DONE (R148, R149, R162): the context is in the cache and its packets are processed in arrival order; the next
fetch that waits starts. -/
def fetchDone (idx : Nat) (s : State) : State :=
  match s.qpc.fetching.find? fun f => f.1 == idx with
  | none => s
  | some (_, t) =>
    let mine := s.qpc.miss.filter fun m => m.2.1 == idx
    let rest := s.qpc.miss.filter fun m => m.2.1 ≠ idx
    let left := s.qpc.fetching.filter fun f => f.1 ≠ idx
    let next := (rest.find? fun m => !(left.any fun f => f.1 == m.2.1)).map (·.2.1)
    let s1 := cacheIn idx (s.onQpc fun q =>
      { q with miss := rest, fetching := left ++ (match next with
          | some i => [(i, s.time)]
          | none => [])
               fetchMax := word (max q.fetchMax.toNat (satN 32 (s.since t * 20))) })
    let s2 := mine.foldl (fun s m => replay idx m.2.2 s) s1
    let s3 := [0, 1, 2, 3].foldl (fun s p => missFlow p s) s2
    onCtx idx (fun c => if c.closeWait ∧ c.state ≠ .error then { c with closeWait := false, state := .draining } else c) s3

/-- QP_CONTEXT_FETCH_DONE. -/
def execQpContextFetchDone (idx : Nat) (s : State) : Host.Outcome State Fault Refusal := .next (after (fetchDone idx s))

end Sys2Proof.Machine
end

