-- ==== Sys2Proof/Machine/Capsules.lean ====
section
/-! DEFINITION. Munatra capsules (chapter 05, and R470 for snapshots and replication): when the step of its opcode comes, the oldest
unchecked capsule of a queue is checked (R185) and, where it passes, starts in its turn (R188, R189). Also the transfer-ready messages
that AL-GC spaces (R340), window timeouts (R193) and the expiry of orphan records (R196). -/

namespace Sys2Proof.Machine

/-! ## Checking and admitting -/

/-- What an accepted command reserves at once (R191): a take opens, a frame index is reserved, a take seals. -/
def claimAtAccept (c : Cmd) (s : State) : State :=
  match c.op with
  | 0x10 => s.onFtl fun f => { f with takes := tabPut (c.volId, c.take) {} f.takes }
  | 0x11 => onTake c.volId c.take (fun t => { t with pending := tabPut (c.lba % 2 ^ 40) c.acc t.pending }) s
  | 0x13 => onTake c.volId c.take (fun t => if t.state = .open then { t with state := .sealing } else t) s
  | _ => s

/-- A command whose capsule passed its checks (R175, R439): the partner gets its record, what it reserves is reserved, and it waits for its
turn to start. -/
def takeIn (c : Cmd) (s : State) : State :=
  let c1 := { c with recorded := true, phase := .waiting }
  claimAtAccept c1 (mirrorCmd c1 1 0 (chg c.acc (fun c => { c with recorded := true, phase := .waiting }) s))

/-- The oldest capsule of a queue that has not been checked. -/
def State.unchecked (s : State) (qpn : Nat) : Option Cmd :=
  s.cmd.cmds.find? fun c => c.qpn == qpn && c.phase == .accepted && c.held.isNone && !c.orphan

/-- The step of an opcode on a queue (R185, R188): its oldest unchecked capsule, if it is of that opcode, is refused or let through, and the
head goes on. A queue whose next capsule is another one is left alone. -/
def capsuleStep (op qpn : Nat) (s : State) : State :=
  match s.unchecked qpn, s.ctxAt qpn with
  | some c, some (_, x) =>
    if c.op ≠ op then s
    else match s.checkCapsule c x with
      | some (st, detail, extra) => finish c.acc st 0 detail 0 extra s
      | none => takeIn c s
  | _, _ => s

/-- READ (R182, R183). -/
def execRead (qpn : BitVec 24) (s : State) : Host.Outcome State Fault Refusal := .next (after (capsuleStep 0x01 qpn.toNat s))

/-- WRITE (R179). -/
def execWrite (qpn : BitVec 24) (s : State) : Host.Outcome State Fault Refusal := .next (after (capsuleStep 0x02 qpn.toNat s))

/-- TRIM (R175, R189). -/
def execTrim (qpn : BitVec 24) (s : State) : Host.Outcome State Fault Refusal := .next (after (capsuleStep 0x03 qpn.toNat s))

/-- FLUSH (R189 rule 4). -/
def execFlush (qpn : BitVec 24) (s : State) : Host.Outcome State Fault Refusal := .next (after (capsuleStep 0x04 qpn.toNat s))

/-- The step of a RELEASE (R175, R183): one that fails the checks is discarded and counted, with no response. -/
def releaseStep (qpn : Nat) (s : State) : State :=
  match s.unchecked qpn, s.ctxAt qpn with
  | some c, some (_, x) =>
    if c.op ≠ 0x0F then s
    else if (s.checkCapsule c x).isSome then discardRelease c s
    else takeIn c s
  | _, _ => s

/-- RELEASE (R183). -/
def execRelease (qpn : BitVec 24) (s : State) : Host.Outcome State Fault Refusal := .next (after (releaseStep qpn.toNat s))

/-- TAKE_OPEN (R190, R191). -/
def execTakeOpen (qpn : BitVec 24) (s : State) : Host.Outcome State Fault Refusal := .next (after (capsuleStep 0x10 qpn.toNat s))

/-- FRAME_APPEND (R179, R191). -/
def execFrameAppend (qpn : BitVec 24) (s : State) : Host.Outcome State Fault Refusal := .next (after (capsuleStep 0x11 qpn.toNat s))

/-- FRAME_READ (R182, R191 rule 5). -/
def execFrameRead (qpn : BitVec 24) (s : State) : Host.Outcome State Fault Refusal := .next (after (capsuleStep 0x12 qpn.toNat s))

/-- TAKE_SEAL (R191 rule 3). -/
def execTakeSeal (qpn : BitVec 24) (s : State) : Host.Outcome State Fault Refusal := .next (after (capsuleStep 0x13 qpn.toNat s))

/-- TAKE_DELETE (R191 rule 4). -/
def execTakeDelete (qpn : BitVec 24) (s : State) : Host.Outcome State Fault Refusal := .next (after (capsuleStep 0x14 qpn.toNat s))

/-- TAKE_INFO (R178). -/
def execTakeInfo (qpn : BitVec 24) (s : State) : Host.Outcome State Fault Refusal := .next (after (capsuleStep 0x15 qpn.toNat s))

/-- IDENTIFY (R178). -/
def execIdentify (qpn : BitVec 24) (s : State) : Host.Outcome State Fault Refusal := .next (after (capsuleStep 0x40 qpn.toNat s))

/-- VOLUME_INFO (R178). -/
def execVolumeInfo (qpn : BitVec 24) (s : State) : Host.Outcome State Fault Refusal := .next (after (capsuleStep 0x41 qpn.toNat s))

/-- The step of an ABORT (R194): unless it is fenced it acts at once, so that its response goes before its target's. -/
def abortStep (qpn : Nat) (s : State) : State :=
  match s.unchecked qpn with
  | some c =>
    let s1 := capsuleStep 0x42 qpn s
    match s1.cmdAt c.acc with
    | some c1 => if c1.op = 0x42 ∧ c1.phase = .waiting ∧ ¬ c1.fence then startCmd c1 s1 else s1
    | none => s1
  | none => s

/-- ABORT (R194). -/
def execAbort (qpn : BitVec 24) (s : State) : Host.Outcome State Fault Refusal := .next (after (abortStep qpn.toNat s))

/-- ORPHAN_STATUS (R197). -/
def execOrphanStatus (qpn : BitVec 24) (s : State) : Host.Outcome State Fault Refusal := .next (after (capsuleStep 0x43 qpn.toNat s))

/-- SNAP_CREATE (R463). -/
def execSnapCreate (qpn : BitVec 24) (s : State) : Host.Outcome State Fault Refusal := .next (after (capsuleStep 0x50 qpn.toNat s))

/-- SNAP_DELETE (R467). -/
def execSnapDelete (qpn : BitVec 24) (s : State) : Host.Outcome State Fault Refusal := .next (after (capsuleStep 0x51 qpn.toNat s))

/-- SNAP_READ (R470). -/
def execSnapRead (qpn : BitVec 24) (s : State) : Host.Outcome State Fault Refusal := .next (after (capsuleStep 0x52 qpn.toNat s))

/-- SNAP_FRAME_READ (R470). -/
def execSnapFrameRead (qpn : BitVec 24) (s : State) : Host.Outcome State Fault Refusal := .next (after (capsuleStep 0x53 qpn.toNat s))

/-- SNAP_LIST (R470). -/
def execSnapList (qpn : BitVec 24) (s : State) : Host.Outcome State Fault Refusal := .next (after (capsuleStep 0x54 qpn.toNat s))

/-- REPL_POINT (R474). -/
def execReplPoint (qpn : BitVec 24) (s : State) : Host.Outcome State Fault Refusal := .next (after (capsuleStep 0x55 qpn.toNat s))

/-- REPL_INFO (R470). -/
def execReplInfo (qpn : BitVec 24) (s : State) : Host.Outcome State Fault Refusal := .next (after (capsuleStep 0x56 qpn.toNat s))

/-- REPL_PROMOTE (R480). -/
def execReplPromote (qpn : BitVec 24) (s : State) : Host.Outcome State Fault Refusal := .next (after (capsuleStep 0x57 qpn.toNat s))

/-- REPL_BEGIN (R478). -/
def execReplBegin (qpn : BitVec 24) (s : State) : Host.Outcome State Fault Refusal := .next (after (capsuleStep 0x58 qpn.toNat s))

/-- REPL_DATA (R477). -/
def execReplData (qpn : BitVec 24) (s : State) : Host.Outcome State Fault Refusal := .next (after (capsuleStep 0x59 qpn.toNat s))

/-- REPL_END (R478). -/
def execReplEnd (qpn : BitVec 24) (s : State) : Host.Outcome State Fault Refusal := .next (after (capsuleStep 0x5A qpn.toNat s))

/-- REPL_TAKE_DELETE (R482). -/
def execReplTakeDelete (qpn : BitVec 24) (s : State) : Host.Outcome State Fault Refusal := .next (after (capsuleStep 0x5B qpn.toNat s))

/-! ## Windows and orphans -/

/-- TRANSFER_READY_SEND (R179, R180, R340): the next window of a command is named, where nothing holds it. -/
def transferReadySend (qpn cid : Nat) (s : State) : State :=
  match s.cmd.cmds.find? fun c => c.qpn == qpn && c.cid == cid && c.takesData && !c.orphan with
  | some c => if c.phase = .moving then nameWindow c.acc s else s
  | none => s

/-- TRANSFER_READY_SEND. -/
def execTransferReadySend (qpn : BitVec 24) (cid : BitVec 16) (s : State) : Host.Outcome State Fault Refusal :=
  .next (after (transferReadySend qpn.toNat cid.toNat s))

/-- A window was not completed in time (R192, R193): the command's windows are invalidated and it ends, with TIMEOUT unless its failure was
known before. The time does not run in a brown-out hold or a claim round. -/
def windowTimeout (i : Nat) (s : State) : State :=
  match tabGet i s.cmd.wins with
  | none => s
  | some w => match s.cmdAt w.acc with
    | none => s
    | some c =>
      if w.complete ∨ ¬ w.valid ∨ c.held.isSome ∨ s.pwr.hold ∨ s.roundHolds c.vol then s
      else
        let placed := (s.winsOf c.acc).foldl (fun a e => if e.2.complete then a else a + e.2.placed) c.rxBytes
        let done := if c.takesData then c.rxBytes else c.sentBytes
        let s1 := dropWindows c.acc s
        match c.fail with
        | some (st, d, r) => finish c.acc st done (if st = 0x10 then placed else d) r [] s1
        | none => finish c.acc 0x11 done (w.seq % 2 ^ 16) 0 [] s1

/-- WINDOW_TIMEOUT (R193). -/
def execWindowTimeout (index : Nat) (s : State) : Host.Outcome State Fault Refusal := .next (after (windowTimeout index s))

/-- ORPHAN_KEEP_EXPIRY (R196): the oldest orphan record has been held for ORPHAN_KEEP seconds. -/
def execOrphanKeepExpiry (s : State) : Host.Outcome State Fault Refusal :=
  .next (s.onCmd fun u => { u with orphans := u.orphans.drop 1 })

end Sys2Proof.Machine
end

