-- ==== Sys2Proof/Machine/Access.lean ====
section
/-! DEFINITION. Access to the management space (R16, R17, R21, R23, R546, R585 to R587): who may reach a register, and what an access that
is refused does. -/

namespace Sys2Proof.Machine

/-- Blocks the management space holds, at n × 64 KiB (R585). -/
def mgmtBlocks : Nat := 23

/-- Whether the registers of the datapath answer (R23, R587). -/
def State.dpAnswers (s : State) : Bool := s.rst.dpUp && s.pwr.state != .quiet && s.pwr.state != .dormant

/-- The block of the management space that an L3 target resets (R118, R585). -/
def Target.block : Target → Nat
  | .fab => 0x01
  | .qpc => 0x02
  | .cmd => 0x03
  | .ing => 0x04
  | .fpr => 0x05
  | .cmp => 0x06
  | .cip => 0x07
  | .ftl => 0x09
  | .par => 0x0A
  | .jnl => 0x0B
  | .sld => 0x0C
  | .rpl => 0x0E
  | .adp => 0x0F
  | .mgmt => 0x10

/-- Whether the domain of the register at an address is neither in reset nor power-gated (R23, R585 to R587). -/
def State.domainUp (s : State) (addr : Nat) : Bool :=
  let off := addr % 2 ^ 16
  !(s.rst.l3Held.any fun t => t.block == addr / 2 ^ 16 && !(t == .sld && decide (off ≤ 0xC))) && match addr / 2 ^ 16 with
  | 0x00 | 0x14 | 0x15 | 0x16 => true
  | 0x08 => s.rst.ddrUp && s.pwr.state != .dormant
  | 0x0C => decide (off ≤ 0xC) || s.dpAnswers
  | 0x0D => [0x00, 0x04, 0x08, 0x0C, 0x10, 0x1C, 0x2C].contains off || s.dpAnswers
  | 0x10 | 0x11 | 0x12 => s.rst.mgUp
  | 0x13 => off == 0x14 || s.rst.mgUp
  | _ => s.dpAnswers

/-- Whether a requester can make an access at all: the core runs, or JTAG is let in (R546); a JTAG access that is not is an error. -/
def State.reaches (s : State) (r : Requester) : Bool :=
  match r with
  | .core => s.rst.mgUp
  | .jtag => s.mgt.debug

/-- Why an access does not reach a register: `some true` raises an access error, `some false` cannot happen (a core that does not run). -/
def State.accessStop (s : State) (r : Requester) (addr size : Nat) : Option Bool :=
  if ¬ s.reaches r then some (r == .jtag)
  else if size ≠ 4 ∨ addr % 4 ≠ 0 ∨ mgmtBlocks ≤ addr / 2 ^ 16 ∨ ¬ s.domainUp addr then some true
  else none

/-- A register access (R17, R21, R23, R546): its effect where it reaches the register, else an access error. -/
def access (r : Requester) (addr size : Nat) (write : Bool) (f : State → State) (s : State) : State :=
  match s.accessStop r addr size with
  | none => f s
  | some true => accessError r addr write s
  | some false => s

/-- A write of a command register at its address (R592). -/
def accessWrite (r : Requester) (addr : Nat) (f : State → State) (s : State) : State := access r addr 4 true f s

end Sys2Proof.Machine
end

