-- ==== Sys2Proof/Machine/Datapath.lean ====
section
/-! DEFINITION. The data engines' events (chapter 07) and a block's way through them into the write buffer (chapter 06): INGEST_BLOCK_DONE,
CMP jobs (R246 to R248), the filter rebuild (R254), the key bus (R258 to R261, R269, R270), saved cipher contexts (R266 to R268). -/

namespace Sys2Proof.Machine

/-! ## Lanes out of service -/

/-- Keep the timestamps of faults that lie within a time, and add one at now. -/
def State.recent (s : State) (ticks : Nat) (l : List Word64) : List Word64 := (l.filter fun t => decide (s.since t ≤ ticks)) ++ [s.time]

/-- A fault of a CIP lane (R263, R264). -/
def cipFault (lane : Nat) (s : State) : State :=
  let w := s.recent (s.param P.cipFaultWindow * 50000000) (tabGetD lane [] s.cip.laneFaults)
  let s1 := note 0x0705 (lane % 2 ^ 6) (s.onCip fun c => { c with faults := satInc c.faults, laneFaults := tabPut lane w c.laneFaults })
  let up := if lane < 16 then getBit s.cip.xtsUp lane else s.laneInService lane
  if s.param P.cipFaultLimit ≤ w.length ∧ up then
    note 0x0706 (lane % 2 ^ 6) (s1.onCip fun c =>
      if lane < 16 then { c with xtsUp := setBit c.xtsUp lane false } else { c with gcmUp := setBit c.gcmUp (lane - 16) false })
  else s1

/-- A failed expansion check of a CMP lane (R264, R277). -/
def cmpFault (lane : Nat) (s : State) : State :=
  let w := s.recent (60 * 50000000) (tabGetD lane [] s.cmp.fails)
  let s1 := note 0x0602 (lane % 2 ^ 5) (s.onCmp fun c => { c with verifyFail := satInc c.verifyFail, fails := tabPut lane w c.fails })
  if s.param P.cmpLaneFaultLimit ≤ w.length ∧ getBit s.cmp.laneUp lane then
    note 0x0601 (lane % 2 ^ 5) (s1.onCmp fun c => { c with laneUp := setBit c.laneUp lane false })
  else s1

/-! ## Blocks into the write buffer -/

/-- Fragments of a command whose every block has left the engines are gone. -/
def dropFrags (acc : Nat) (s : State) : State :=
  match s.cmdAt acc with
  | none => s
  | some c =>
    let past (k : Nat) : Bool := c.blocksIn.contains k || c.blocksBad.contains k
    s.onIng fun i => { i with frags := i.frags.filter fun f => !(f.acc == acc
      && (List.range (ceilDiv (f.off % 4096 + f.data.length) 4096)).all fun k => past (f.off / 4096 + k)) }

/-- What goes wrong with a block in the engines, as INGEST_BLOCK_DONE names it: the stage code of R221 in the low byte; 0x204 is a stage 0x04
failure of the input K alone; 0x100 is a first dual-computation mismatch whose retry passed (R263). -/
def engineFault (f lane : Nat) (s : State) : State :=
  let mism (s : State) : State := s.onCip fun c => { c with mismatch := satInc c.mismatch }
  if f = 0x100 then mism s
  else if f = 0x05 then cipFault lane (mism s)
  else if f = 0x04 then cmpFault lane s
  else s

/-- A block of a write enters the write buffer (R209 to R211, R218, R219). -/
def bufferBlock (c : Cmd) (v : VolPolicy) (num : Nat) (plain : Bytes) (s0 : State) : State :=
  let addr := c.addrOf num
  let s := if v.compress then cmpCount plain s0 else s0
  let b0 : BufBlk := { acc := c.acc, num := num, qpn := c.qpn, cid := c.cid, slot := s.freeSlot, addr := addr, tag := {}, plain := plain, sectors := [] }
  let inNow (s : State) : State := dropFrags c.acc (chg c.acc (fun c => { c with blocksIn := c.blocksIn ++ [num] }) s)
  let (pos, take, short) := match addr with
    | .block _ lba => (lba, 0, false)
    | .frame vol t _ k => ((s.draft vol t c.acc).base + k, t, decide (c.len % 4096 ≠ 0 ∧ num + 1 = c.blocks))
  let fresh (s : State) : State :=
    match s.mediaForm v pos take short plain with
    | none => failCmd c.acc 0x0B v.keySlot 0 s
    | some (tag, secs) =>
      let s1 := inNow (s.onIng fun i => { i with buf := i.buf ++ [{ b0 with tag := tag, sectors := secs, draft := if c.op = 0x11 then c.acc else 0 }] })
      match addr with
      | .frame vol t _ _ => joinDraft vol t c.acc s1
      | .block .. => s1
  if v.encrypt ∧ (s.volKey v).isNone then failCmd c.acc 0x0B v.keySlot 0 s
  else if v.dedup ∧ ¬ v.stream then
    match fpDecide v (sha256 plain) (carryK plain) s with
    | (.dup w, s1) => inNow (s1.onIng fun i => { i with buf := i.buf ++ [{ b0 with tag := { k := carryK plain, pos := pos, vol := v.vol }, ref := some w }] })
    | (.fresh, s1) => fresh s1
  else fresh s

/-- A block leaves the data engines (R210, R218, R221, R222, R236): its bytes have all been accepted; a failed check fails its command, or is
only counted where the command is already over. -/
def ingestBlock (qpn cid num : Nat) (fault : Option Nat) (lane : Nat) (s : State) : State :=
  match s.cmd.cmds.find? fun c => c.qpn == qpn && c.cid == cid && c.isWrite && c.held.isNone with
  | none => match fault with
    | some f => if 1 ≤ f % 256 ∧ f % 256 ≤ 6 then s.onIng fun i => { i with failCnt := tabUpdD (f % 256) 0 satInc i.failCnt } else s
    | none => s
  | some c => match s.volOf c with
    | none => s
    | some v =>
      if c.blocks ≤ num ∨ c.blocksIn.contains num ∨ c.blocksBad.contains num then s
      else match s.assemble c.acc (num * 4096) (c.blockLen num) with
        | none => s
        | some data =>
          let plain := padTo 4096 data
          match fault with
          | none => bufferBlock c v num plain s
          | some f =>
            let s1 := engineFault f lane s
            if 1 ≤ f % 256 ∧ f % 256 ≤ 6 then dropFrags c.acc (stageFail c.acc (f % 256) num s1) else bufferBlock c v num plain s1

/-- INGEST_BLOCK_DONE. -/
def execIngestBlockDone (qpn : BitVec 24) (cid : BitVec 16) (num : Nat) (fault : Option Nat) (lane : Nat) (s : State) :
    Host.Outcome State Fault Refusal := .next (if s.dpAnswers then after (ingestBlock qpn.toNat cid.toNat num fault lane s) else s)

/-! ## Compression jobs -/

/-- CMP_JOB_SUBMIT (R246): the job is queued; a reserved OP, no blocks or a space that is no multiple of 16 is no job. -/
def execCmpJobSubmit (job : CmpJob) (s : State) : Host.Outcome State Fault Refusal :=
  .next (if s.dpAnswers ∧ (job.op = 1 ∨ job.op = 2) ∧ 1 ≤ job.blocks ∧ job.blocks ≤ 65536 ∧ job.outSize % 16 = 0 then
    s.onCmp fun c => { c with jobs := c.jobs ++ [job] } else s)

/-- How far a job has come: status, blocks, input bytes, output. -/
structure CmpRun where
  status : Option Nat := none
  blocks : Nat := 0
  inBytes : Nat := 0
  out : Bytes := []
deriving DecidableEq, Repr

/-- Put the output of one wholly processed block, if it fits (R247). -/
def CmpRun.put (r : CmpRun) (size used : Nat) (o : Bytes) : CmpRun :=
  if size < r.out.length + o.length then { r with status := some 1 }
  else { r with blocks := r.blocks + 1, inBytes := r.inBytes + used, out := r.out ++ o }

/-- One block of a compress job (R246): input that is not there is a DRAM error. -/
def State.compressOne (s : State) (size : Nat) (input : Bytes) (r : CmpRun) : CmpRun :=
  if r.status.isSome then r
  else
    let b := slice input r.inBytes 4096
    if b.length < 4096 then { r with status := some 5 } else r.put size 4096 (s.dataRecord b)

/-- One record of an expand job (R246, R248): a malformed record, or a Z mismatch, is INPUT_FORMAT. -/
def expandOne (size : Nat) (input : Bytes) (r : CmpRun) : CmpRun :=
  if r.status.isSome then r
  else
    let rest := input.drop r.inBytes
    let clen := fieldLe rest 0 2
    let used := 16 + ceilDiv clen 16 * 16
    let d := slice rest 16 clen
    if rest.length < 16 then { r with status := some 5 }
    else if clen = 0 ∨ 4096 < clen ∨ rest.length < used ∨ carryK d ≠ fieldLe rest 8 8 then { r with status := some 2 }
    else match (if bitAt (fieldLe rest 2 1) 0 then lr1Expand d else if clen = 4096 then some d else none) with
      | some p => r.put size used p
      | none => { r with status := some 2 }

/-- A job ends (R247, R248): its completion record goes to its client. -/
def cmpJobDone (id : Nat) (input : Bytes) (s : State) : State :=
  match s.cmp.jobs.find? fun j => j.jobId == id with
  | none => s
  | some j =>
    let r := (List.range j.blocks).foldl (fun r _ => if j.op = 1 then s.compressOne j.outSize input r else expandOne j.outSize input r) ({} : CmpRun)
    let st := r.status.getD 0
    let d : CmpDone := { jobId := id, status := st, inBlocks := r.blocks, inBytes := r.inBytes, outBytes := r.out.length, out := r.out }
    let s1 := if j.op = 1 then (List.range r.blocks).foldl (fun s k => cmpCount (slice input (k * 4096) 4096) s) s else s
    s1.onCmp fun c =>
      { c with jobs := c.jobs.filter (· ≠ j), done := c.done ++ [d], jobStops := if st = 1 then satInc c.jobStops else c.jobStops
               formatErr := if st = 2 then satInc c.formatErr else c.formatErr }

/-- CMP_JOB_DONE. -/
def execCmpJobDone (jobId : Nat) (input : Bytes) (s : State) : Host.Outcome State Fault Refusal := .next (cmpJobDone jobId input s)

/-! ## The filter -/

/-- A write of FPR_REBUILD (R254, R592). -/
def fprRebuildWrite (v : Nat) (s : State) : State := if v = 1 then fpRebuild s else s

/-- FPR_REBUILD. -/
def execFprRebuild (r : Requester) (val : Word) (s : State) : Host.Outcome State Fault Refusal :=
  .next (accessWrite r 0x50034 (fprRebuildWrite val.toNat) s)

/-- FILTER_REBUILD_DONE (R254, R272): the banks swap and the old one is cleared. -/
def execFilterRebuildDone (s : State) : Host.Outcome State Fault Refusal :=
  .next (if s.fpr.rebuilding then s.onFpr fun f => { f with active := f.second, second := [], rebuilding := false, allPositive := false } else s)

/-! ## The key bus -/

/-- The key bytes in CIP_KBUS_DATA (R259). -/
def State.kbusBytes (s : State) (n : Nat) : Bytes := (s.cip.kbusData.flatMap fun w => leBytes 4 w.toNat).take n

/-- A key-bus operation ends (R259): the data registers are zeroised, the outcome reported. -/
def kbusEnd (stat reason slot : Nat) (s : State) : State :=
  s.onCip fun c => { c with kbusStat := BitVec.ofNat 2 stat, kbusReason := BitVec.ofNat 4 reason, kbusSlot := BitVec.ofNat 10 slot
                            kbusData := List.replicate 18 0, kbusOp := none }

/-- Bytes of a clear key of a kind (R258). -/
def keyLen (kind : Nat) : Nat := if kind = 1 then 64 else 32

/-- The key a load carries, or the reason of its refusal (R259, R261). -/
def State.loadKey (s : State) (slot kind op : Nat) (wrapped : Bool) : Except Nat Bytes :=
  let st := ((tabGet slot s.cip.slots).map (·.state)).getD .empty
  if st ≠ .empty then .error 1
  else if kind = 0 ∨ op ≠ 1 then .error 2
  else
    let key := if wrapped then (s.slotKey s.cip.kbusWrap.toNat 3).bind fun kek => kwUnwrap kek (s.kbusBytes (keyLen kind + 8))
      else some (s.kbusBytes (keyLen kind))
    match key with
    | none => .error 3
    | some k =>
      if ¬ wrapped ∧ kind ≠ 3 ∧ s.param P.keyClearAllow = 0 then .error 4
      else if kind = 1 ∧ k.take 32 = k.drop 32 then .error 5
      else .ok k

/-- Refuse a key-bus operation (R261). -/
def kbusRefuse (slot reason : Nat) (s : State) : State := note 0x0703 (slot + reason * 2 ^ 12) (kbusEnd 3 reason slot s)

/-- The chunk a GCM message of replication carries: its target, volume and chunk (R267 MSGREF). -/
def State.chunkOf (s : State) (ref : Nat) : Option (Nat × VolPolicy × ChunkOut) :=
  let t := ref / 2 ^ 16
  (s.sourcesOf t).findSome? fun v => ((s.source (v.vol % 2 ^ 12)).chunks.find? fun c => c.cid == ref % 2 ^ 16).map fun c => (t, v, c)

/-- A GCM message fails in CIP and is reported to its user (R263, R268, R269): a chunk is made again. -/
def gcmFail (ref : Nat) (s : State) : State :=
  let s1 := gcmEnd ref s
  match s1.chunkOf ref with
  | some (t, v, c) => chunkFailed t v c false s1
  | none => s1

/-- A saved context is lost (R268). -/
def ctxLost (x : CipCtx) (s : State) : State :=
  gcmFail x.ref (note 0x0707 (x.cls % 4) (s.onCip fun c => { c with ctxLost := satInc c.ctxLost }))

/-- The GCM messages and contexts of a slot whose key goes (R269), and with the partner link's key its session (R434). -/
def slotGone (slot : Nat) (s : State) : State :=
  let msgs := (tabVals s.cip.lanes ++ s.cip.waiting).filter (·.slot == slot)
  let ctxs := (s.cip.ctxRam ++ s.cip.ctxSpill).filter (·.slot == slot)
  let s1 := if slot = s.param P.plKeySlot ∧ s.prt.session.isSome then note 0x0D0C slot ((plSessionEnd s).onPrt fun p => { p with noKey := true }) else s
  ctxs.foldl (fun s x => ctxLost x s) (msgs.foldl (fun s m => gcmFail m.ref s) s1)

/-- A write of CIP_KBUS_CMD (R259, R261, R269, R270, R592). -/
def kbusCmd (r : Requester) (v : Nat) (s : State) : State :=
  if r = .jtag ∨ bitsAt v 16 16 ≠ 0x9640 ∨ s.cip.kbusStat = 1 then accessError r 0x70008 true s
  else
    let slot := bitsAt v 0 10
    let op := bitsAt v 13 2
    let kind := bitsAt v 10 2
    let busy (s : State) : State := s.onCip fun c => { c with kbusStat := 1, kbusReason := 0, kbusSlot := BitVec.ofNat 10 slot }
    if op = 2 then
      match tabGet slot s.cip.slots with
      | none => kbusEnd 2 0 slot s
      | some _ => slotGone slot (busy (s.onCip fun c => { c with slots := tabUpd slot (fun k => { k with state := .erasing }) c.slots }))
    else match s.loadKey slot kind op (bitAt v 12) with
      | .error reason => kbusRefuse slot reason s
      | .ok key => busy (s.onCip fun c =>
          { c with slots := tabPut slot { state := .loading, kind := kind, wrapped := bitAt v 12 } c.slots
                   kbusOp := some { slot := slot, kind := kind, wrapped := bitAt v 12, key := key } })

/-- KEY_LOAD (R259, R261): a write of CIP_KBUS_CMD. -/
def execKeyLoad (r : Requester) (val : Word) (s : State) : Host.Outcome State Fault Refusal :=
  .next (accessWrite r 0x70008 (kbusCmd r val.toNat) s)

/-- KEY_ERASE (R269, R270): a write of CIP_KBUS_CMD. -/
def execKeyErase (r : Requester) (val : Word) (s : State) : Host.Outcome State Fault Refusal :=
  .next (after (accessWrite r 0x70008 (kbusCmd r val.toNat) s))

/-- The key check value (R258). -/
def kcvOf (key : Bytes) : Bytes := (aesEnc (key.take 32) (List.replicate 16 0)).take 3

/-- KEY_LOAD_DONE (R258, R259, R261, R558): the self-test has passed or failed. -/
def keyLoadDone (pass : Bool) (s : State) : State :=
  match s.cip.kbusOp with
  | none => s
  | some o =>
    if pass then
      msrExtend 4 (leBytes 2 o.slot ++ leBytes 1 o.kind ++ leBytes 1 (b2n o.wrapped) ++ kcvOf o.key) (note 0x0701 o.slot (kbusEnd 2 0 o.slot (s.onCip fun c =>
        { c with slots := tabPut o.slot { state := .ready, kind := o.kind, wrapped := o.wrapped, key := o.key, kcv := kcvOf o.key } c.slots })))
    else
      kbusRefuse o.slot 6 (note 0x0704 o.slot (s.onCip fun c =>
        { c with slots := tabPut o.slot { state := .failed, kind := o.kind, wrapped := o.wrapped } c.slots }))

/-- KEY_LOAD_DONE. -/
def execKeyLoadDone (selfTest : Bool) (s : State) : Host.Outcome State Fault Refusal := .next (after (keyLoadDone selfTest s))

/-- KEY_ERASE_DONE (R258): the slot is overwritten with zeros and EMPTY. -/
def execKeyEraseDone (slot : Nat) (s : State) : Host.Outcome State Fault Refusal :=
  .next (if ((tabGet slot s.cip.slots).map (·.state)) = some .erasing then
    note 0x0702 slot (kbusEnd 2 0 slot (s.onCip fun c => { c with slots := tabDel slot c.slots })) else s)

/-! ## Saved contexts -/

/-- Contexts the on-chip RAM holds (R267). -/
def ctxRamMax : Nat := 256

/-- Contexts the spill region holds (R277). -/
def State.ctxSpillMax (s : State) : Nat := s.param P.ctxSpillSize * 1048576 / 96

/-- The GHASH accumulator and counter block of a chunk after some of its data (R267). -/
def State.ctxAfter (s : State) (m : GcmMsg) (done : Nat) : Bytes × Bytes :=
  match s.chunkOf m.ref, s.slotKey m.slot 2 with
  | some (_, _, c), some key =>
    let h := beNat (aesEnc key (List.replicate 16 0))
    let y := ((chunks 16 (done + 2) (c.bytes.take (16 + done))).foldl (ghashStep h) 0)
    (beBytes 16 y, slice c.bytes 4 12 ++ beBytes 4 (done / 16 + 2))
  | _, _ => (m.y, m.ctr)

/-- A GCM lane changes user at a 4 KiB boundary (R266, R267): the running message has moved on by its slice and its context is saved, where a
store has room and data is left beyond the boundary. -/
def contextSave (lane : Nat) (s : State) : State :=
  match tabGet lane s.cip.lanes with
  | none => s
  | some m =>
    let done := m.doneBytes + s.param P.cipSlice * 1024
    if m.total ≤ done then s
    else
      let (y, ctr) := s.ctxAfter m done
      let x : CipCtx := { cls := m.cls, slot := m.slot, y := y, ctr := ctr, alen := m.alen, dlen := done * 8, ref := m.ref }
      let out (s : State) : State := fillLanes 48 (s.onCip fun c => { c with lanes := tabDel lane c.lanes, ctxSaves := satInc c.ctxSaves })
      if s.cip.ctxRam.length < ctxRamMax then out (s.onCip fun c => { c with ctxRam := c.ctxRam ++ [x] })
      else if s.cip.ctxSpill.length < s.ctxSpillMax then out (s.onCip fun c => { c with ctxSpill := c.ctxSpill ++ [x] })
      else s

/-- CIP_CONTEXT_SAVE. -/
def execCipContextSave (lane : Nat) (s : State) : Host.Outcome State Fault Refusal := .next (contextSave lane s)

/-- A saved message is resumed on a free lane of its direction (R267). -/
def contextResume (lane ref : Nat) (s : State) : State :=
  match (s.cip.ctxRam ++ s.cip.ctxSpill).find? fun x => x.ref == ref with
  | none => s
  | some x =>
    if ¬ (classLanes x.cls).contains lane ∨ ¬ s.laneInService lane ∨ tabHas lane s.cip.lanes then s
    else
      let total := match s.chunkOf ref with
        | some (_, _, c) => c.bytes.length - 32
        | none => x.dlen / 8
      s.onCip fun c =>
        { c with ctxRam := c.ctxRam.filter (·.ref ≠ ref), ctxSpill := c.ctxSpill.filter (·.ref ≠ ref)
                 lanes := tabPut lane { ref := ref, cls := x.cls, slot := x.slot, total := total, doneBytes := x.dlen / 8, y := x.y, ctr := x.ctr, alen := x.alen } c.lanes }

/-- CIP_CONTEXT_RESUME. -/
def execCipContextResume (lane ref : Nat) (s : State) : Host.Outcome State Fault Refusal := .next (contextResume lane ref s)

/-! ## The fabric's control register -/

/-- FAB_CTRL_WRITE (R160). -/
def execFabCtrlWrite (r : Requester) (val : Word) (s : State) : Host.Outcome State Fault Refusal :=
  .next (after (accessWrite r 0x10000 (fabCtrl (val.toNat % 16)) s))

end Sys2Proof.Machine
end

