-- ==== Sys2Proof/Machine/LogApply.lean ====
section
/-! DEFINITION. Log blocks and journal entries as they are read: the changes of R333 applied to the maps, the shared table, the segment
tables, the stream structures and the catalogue, by the Cloak (R439), a head being filled (R451) and a replay (R337); journal entries
taken in (R373, R375, R377). -/

namespace Sys2Proof.Machine

/-! ## Segment tables -/

/-- Change the block that backs a segment on each of a unit's dies. -/
def onSegBlks (top m : Nat) (f : EBlk → EBlk) (s : State) : State :=
  (s.diesOf top).foldl (fun s d => match s.blockOf (s.dieName d) m with
    | some b => onBlk (s.dieName d) b f s
    | none => s) s

/-- The state of an erase block whose segment is in a state (R325). -/
def blkOfSeg : SegState → BlkState
  | .open | .part => .indigo
  | .full | .trimmed => .sable
  | .free | .dismantled => .ecru

/-- A unit whose segment table is known is formatted, and its next opening goes on from the SEG_SEQ seen. -/
def topSeen (top q : Nat) (s : State) : State :=
  s.onFtl fun f => { f with tops := tabUpdD top {} (fun t => { t with formatted := true, nextSeq := max t.nextSeq q }) f.tops }

/-- A SEGMENT entry (R333): 0 bound, 1 trimmed, 2 free, 3 opened, 4 dismantled. -/
def applySegment (top m die blk ev q : Nat) (s0 : State) : State :=
  let s := topSeen top (if ev = 3 then q + 1 else q) s0
  match ev with
  | 0 =>
    let s1 := match s.blockOf die m with
      | some b => if b = blk then s else onBlk die b (fun e => if e.state = .retired then e else { e with spare := true, state := .ecru, seg := 0 }) s
      | none => s
    let s2 := onSeg top m id s1
    onBlk die blk (fun e => { e with spare := false, seg := m, trimmed := false, state := blkOfSeg (s2.seg top m).state }) s2
  | 1 => onSegBlks top m (fun e => { e with trimmed := true }) (onSeg top m (fun g => { g with state := .trimmed, take := none, rowsOf := [] }) s)
  | 2 => onSegBlks top m (fun e => { e with trimmed := false, state := .ecru })
      (onSeg top m (fun g => { g with state := .free, nextRow := 0, valid := 0, gc := false, erasing := [] }) s)
  | 3 => onSegBlks top m (fun e => { e with state := .indigo, trimmed := false })
      (onSeg top m (fun g => { g with state := .open, seq := q, nextRow := 0, valid := 0, gc := false, take := none }) s)
  | _ => onSegBlks top m (fun e => { e with spare := true, state := .ecru }) (onSeg top m (fun g => { g with state := .dismantled }) s)

/-- A VALID entry (R333): the segment is closed and its valid sectors are as it says. -/
def applyValid (top m n q : Nat) (s : State) : State :=
  onSegBlks top m (fun e => if e.state = .indigo then { e with state := .sable } else e)
    (onSeg top m (fun g => { g with state := if g.state = .open then .full else g.state, valid := n, seq := q }) (topSeen top (q + 1) s))

/-! ## Stream structures -/

/-- A take's segment list is known: the rows of its segments belong to it (R301). -/
def applyTakeSegs (vol t : Nat) (segs : List (Nat × Nat × Nat)) (s : State) : State :=
  match s.vol vol with
  | none => s
  | some v =>
    let s1 := s.onFtl fun f => { f with takes := tabUpdD (vol, t) {} (fun k => { k with segs := segs }) f.takes }
    (nubNat (segs.map (·.1))).foldl (fun s m =>
      let n := segs.foldl (fun a e => if e.1 = m then a + e.2.2 else a) 0
      onSeg v.topUnit m (fun g => { g with rowsOf := (g.rowsOf.filter fun e => !(e.1 == vol && e.2.1 == t)) ++ [(vol, t, n)] }) s) s1

/-- A take record (R333): a deleted take leaves its volume, what a hold keeps stays (R468). -/
def applyTake (vol t : Nat) (st : TakeState) (s : State) : State :=
  if st = .deleted then
    match tabGet (vol, t) s.ftl.takes with
    | none => s
    | some k =>
      let hs := s.rpl.snaps.filter fun e => e.2.holds vol t
      let s1 := s.onFtl fun f =>
        { f with takes := tabDel (vol, t) f.takes
                 segs := if hs = [] then tabMap (fun _ g => { g with rowsOf := g.rowsOf.filter fun e => !(e.1 == vol && e.2.1 == t) }) f.segs
                   else f.segs }
      hs.foldl (fun s e => s.onRpl fun r => { r with heldTakes := tabPut (vol, t, e.1) k r.heldTakes }) s1
  else s.onFtl fun f => { f with takes := tabUpdD (vol, t) {} (fun k => { k with state := st }) f.takes }

/-- A frame record (R300), once all of it is there: a frame already known keeps its record. -/
def applyFrame (vol t : Nat) (b : Bytes) (s : State) : State :=
  let need := 32 + 8 * fieldLe b 6 2 + ceilDiv (fieldLe b 8 4) 2
  if b.length < need then s
  else
    let (fr, f) := frameOf (b.take need)
    s.onFtl fun x => { x with takes := tabUpdD (vol, t) {} (fun k =>
      { k with frames := tabPut fr f k.frames, pending := tabDel fr k.pending
               strips := f.extents.foldl (fun a e => max a (e.1 + e.2)) k.strips }) x.takes }

/-! ## The catalogue -/

/-- A catalogue record (R469): the newest for its SLOT is live. -/
def applySnap (b : Bytes) (s : State) : State :=
  if ¬ crcGood b then s
  else
    let (slot, st, e) := snapOf b
    let vol := e.vol % 2 ^ 12
    let e1 := { e with hold := e.kind == 1 || (decide (2 ≤ e.kind) && ((s.vol vol).any (·.stream))) }
    s.onRpl fun r =>
      { r with snaps := if st = 2 then tabDel slot r.snaps else tabPut slot e1 r.snaps
               pages := if st = 2 then r.pages.filter fun p => p.1.1 ≠ slot else r.pages
               sseq := tabUpdD vol 0 (max e.sseq) r.sseq }

/-- A map page (R332, R469): a volume's own, or a preserved one of a SLOT, from which PSEQ follows (R464). -/
def applyPage (vol slot p : Nat) (ws : List Nat) (s : State) : State :=
  if slot = 0 then ws.zipIdx.foldl (fun s (w, k) => putWord vol (p * pageWords + k) w s) s
  else
    let q := ((tabGet slot s.rpl.snaps).map (·.sseq)).getD 0
    s.onRpl fun r => { r with pages := tabPut (slot, p) ws r.pages, pseq := tabUpdD (vol, p) 0 (max q) r.pseq }

/-! ## Log blocks -/

/-- The head whose log an entry of a TYPE belongs to: the one that owns the unit or volume it names (R611), or that takes shared entries of
its index (log entry 20). -/
def State.entryOwner (s : State) (ty : Nat) (entry : Bytes) : Nat :=
  match ty with
  | 4 | 7 => s.ownerOf (fieldLe entry 0 2)
  | 3 => fieldLe entry 0 4 % 2
  | _ => s.volOwner (fieldLe entry 0 2 % 2 ^ 12)

/-- A head's LOG_SEQ goes on behind what its log is seen to hold (R333, R611), and the place of the item is not known. -/
def logSeen (h q : Nat) (keys : List LogKey) (s : State) : State :=
  onLog h (fun l =>
    { l with nextSeq := max l.nextSeq (q + 1), durable := max l.durable q
             place := keys.foldl (fun t k => tabPut k placeUnknown t) l.place }) s

/-- One entry of a block of several (R333). -/
def applyEntry (ty : Nat) (e : Bytes) (s : State) : LogKey × State :=
  let vol := fieldLe e 0 2 % 2 ^ 12
  match ty with
  | 2 =>
    let lba := fieldLe e 2 5
    (.page vol 0 (lba / pageWords), putWord vol lba (if fieldLe e 7 1 % 2 = 1 then 0 else fieldLe e 8 6) s)
  | 3 =>
    let i := fieldLe e 0 4
    let refs := fieldLe e 10 4
    (.share i, s.onFtl fun f => { f with shares := if refs = 0 then tabDel i f.shares else tabPut i ⟨fieldLe e 4 6, refs⟩ f.shares })
  | 4 =>
    let ev := fieldLe e 8 1
    (.segment (fieldLe e 0 2) (fieldLe e 2 2) (if ev = 0 then fieldLe e 4 2 % 2 ^ 11 + 1 else 0),
      applySegment (fieldLe e 0 2) (fieldLe e 2 2) (fieldLe e 4 2 % 2 ^ 11) (fieldLe e 6 2) ev (fieldLe e 9 4) s)
  | 5 => (.take vol (fieldLe e 4 4), if crcGood e then applyTake vol (fieldLe e 4 4) (takeOfCode (fieldLe e 8 1)) s else s)
  | 7 => (.valid (fieldLe e 0 2) (fieldLe e 2 2), applyValid (fieldLe e 0 2) (fieldLe e 2 2) (fieldLe e 4 4) (fieldLe e 8 4) s)
  | _ => (.snap (fieldLe e 4 2), applySnap e s)

/-- Apply a log block, or the header and entries of a MAP message (R333, R436, R439). A block that continues an item is joined to the
blocks before it. -/
def applyLog (raw : Bytes) (s : State) : State :=
  let ty := fieldLe raw 0 1
  let q := fieldLe raw 8 8
  let body := raw.drop 32
  match entryLen ty with
  | some n =>
    let es := (List.range (min (fieldLe raw 1 1) (body.length / n))).map fun i => slice body (n * i) n
    es.foldl (fun s e =>
      let (k, s1) := applyEntry ty e s
      logSeen (s.entryOwner ty e) q [k] s1) s
  | none =>
    let cont := fieldLe raw 24 4
    let (ty0, vol0, key0, b0) := s.prt.mapCont
    let (vol, key) := (fieldLe raw 2 2, fieldLe raw 16 8)
    let all := if cont ≠ 0 ∧ ty0 = ty ∧ vol0 = vol ∧ key0 = key then b0 ++ body else body
    let s1 := s.onPrt fun p => { p with mapCont := (ty, vol, key, all) }
    let v := vol % 2 ^ 12
    let h := s.volOwner v
    match ty with
    | 1 =>
      let slot := bitsAt key 48 12
      let p := bitsAt key 0 48
      logSeen h q [.page v slot p] (applyPage v slot p ((List.range pageWords).map fun i => fieldLe body (6 * i) 6) s1)
    | 6 => logSeen h q [.frame v key (fieldLe all 0 5)] (applyFrame v key all s1)
    | 8 =>
      let es := ((List.range (all.length / 8)).map fun i => fieldLe all (8 * i) 8).map fun w => (bitsAt w 0 13, bitsAt w 16 12, bitsAt w 32 13)
      logSeen h q [.takeSegs v key] (applyTakeSegs v key (es.filter fun e => e.2.2 != 0) s1)
    | _ => s

/-- Whether a log block's LCRC is right (R333). -/
def logGood (raw : Bytes) : Bool :=
  raw.length == 4096 && fieldLe raw 28 4 == crc32c (raw.take 28 ++ raw.drop 32)

/-- Valid sectors of every segment, counted afresh from the map words and shared entries (R338, R341). -/
def recountValid (s : State) : State :=
  let zero := s.onFtl fun f => { f with segs := tabMap (fun _ g => { g with valid := 0 }) f.segs }
  let s1 := zero.ftl.map.foldl (fun s e => if wordKind e.2 = 2 then addValid e.2 true s else s) zero
  s1.ftl.shares.foldl (fun s e => addValid e.2.loc true s) s1

/-! ## Journal entries -/

/-- Whether a journal entry's JCRC is right (R371, R375). -/
def entryGood (e : Bytes) : Bool := e.length == 64 && crcGood e

/-- Entries of a journal block whose JBCRC is right (R374). -/
def jnlEntries (raw : Bytes) : List Bytes :=
  if raw.length = 4096 ∧ fieldLe raw 60 4 = crc32c (raw.take 60 ++ raw.drop 64) then
    (List.range (min 63 (fieldLe raw 1 1))).map fun i => slice raw (64 + 64 * i) 64
  else []

/-- What an entry is the newest of: a stripe of a top unit, or a member of a span (R377 step 1). -/
def entryKey (e : Bytes) : Nat × Nat × Nat :=
  if fieldLe e 0 1 = 0x10 then (1, fieldLe e 2 2, fieldLe e 4 1) else (0, fieldLe e 2 2, fieldLe e 8 4)

/-- The newest good entry of each key, by REC_SEQ (R377 step 1). -/
def newestEntries (es : List Bytes) : List Bytes :=
  (es.filter entryGood).foldl (fun a e => match a.find? fun x => entryKey x == entryKey e with
    | some x => if fieldLe x 16 8 < fieldLe e 16 8 then (a.filter fun y => entryKey y != entryKey e) ++ [e] else a
    | none => a ++ [e]) []

/-- Keep the partner's entries (R439): a newer entry of a key takes the place of an older one, a retired record leaves. -/
def peerEntry (e : Bytes) (s : State) : State :=
  if ¬ entryGood e then s
  else s.onJnl fun j =>
    let rest := j.peer.filter fun x => entryKey x.2 != entryKey e
    { j with peer := if fieldLe e 0 1 = 3 then rest else rest ++ [(fieldLe e 16 8, e)] }

/-- Take entries in as this head's own: stripe records that are not retired, an INTENT as its PRIOR values, and span entries (R377 step
2). -/
def takeEntries (es : List Bytes) (s : State) : State :=
  es.foldl (fun s e =>
    let s1 := s.onJnl fun j => { j with nextRec := max j.nextRec (fieldLe e 16 8 + 1) }
    if fieldLe e 0 1 = 0x10 then
      let (sp, pos, x) := spanEntOf e
      s1.onJnl fun j => { j with spans := tabPut (sp, pos) x j.spans }
    else
      let (top, st, r) := stripeRecOf e (fun t => s.pagesOf t)
      let r1 := if r.kind = .intent then { r with kind := .committed, covered := r.prior, p := r.priorP, q := r.priorQ, complete := false } else r
      if r.kind = .retired ∨ r1.covered = 0 then s1
      else s1.onJnl fun j => { j with recs := tabPut (top, st) r1 j.recs, replayed := satInc j.replayed }) s

end Sys2Proof.Machine
end

