-- ==== Sys2Proof/Machine/Format.lean ====
section
/-! DEFINITION. The start of formatting (R324), replay (R337, R377), and the timers of the flash translation layer and of parity. -/

namespace Sys2Proof.Machine

/-! ## Formatting -/

/-- The units of a head whose dies have a segment table: top units, map bands, journal bands and spares (R324). -/
def State.segUnitsOf (s : State) (h : Nat) : List Nat :=
  (List.range s.units.length).filter fun u => let d := (s.unit u).getD {}
    (d.role == .top || d.role == .mapBand || d.role == .jnlBand || d.role == .spare) && d.head == h && d.parent.isNone

/-- Those of this head. -/
def State.segUnits (s : State) : List Nat := s.segUnitsOf s.head

/-- The dies of this head's units. -/
def State.ownDies (s : State) : List Nat := s.segUnits.flatMap s.diesOf

/-- A write of FTL_FORMAT (R324 steps 1 and 2, R592): with its key and while NO_LOG stands, the bad-block lists are read. -/
def ftlFormat (v : Nat) (s : State) : State :=
  if v / 2 ^ 16 ≠ 0x9640 ∨ ¬ s.ftl.noLog ∨ s.ftl.formatting then s
  else
    let own := s.ownDies.map s.dieName
    let s1 := s.onFtl fun f => { f with formatting := true, badLists := f.badLists.filter fun e => !own.contains e.1, formatErr := false }
    s1.ownDies.foldl (fun s d => let u := (s.unit d).getD {}
      if (s.port u.port).live then oslBadList u.port u.die s else s) s1

/-- FTL_FORMAT. -/
def execFtlFormat (r : Requester) (val : Word) (s : State) : Host.Outcome State Fault Refusal :=
  .next (after (accessWrite r 0x90004 (ftlFormat val.toNat) s))

/-- The good blocks of a die, by its bad-block list and what has been retired since. -/
def State.goodBlocks (s : State) (d : Nat) : List Nat :=
  let name := s.dieName d
  let bad := tabGetD name [] s.ftl.badLists
  (List.range ((s.unit d).getD {}).blocks).filter fun b => !bad.contains b && (s.blk name b).state != .retired

/-- Format one unit (R324 steps 3 to 5). Dies of which no list came take no part. -/
def formatUnit (u : Nat) (s : State) : State :=
  let dies := (s.diesOf u).filter fun d => tabHas (s.dieName d) s.ftl.badLists && !(tabGetD (s.dieName d) {} s.ftl.dies).failed
  let blocks := (s.geometry u).blocks
  let n := dies.foldl (fun n d => min n (s.goodBlocks d).length) (if dies = [] then 0 else blocks - s.param P.spareInit)
  if n < blocks - s.rsvSegs u + 1 then
    s.onFtl fun f => { f with formatErr := true, tops := tabPut u { unfit := true } f.tops }
  else
    let s1 := s.onFtl fun f =>
      { f with tops := tabPut u { formatted := true } f.tops
               segs := (List.range n).foldl (fun t m => tabPut (u, m) {} t) (f.segs.filter fun e => e.1.1 ≠ u) }
    dies.foldl (fun s d =>
      let name := s.dieName d
      let bad := tabGetD name [] s.ftl.badLists
      let s0 := bad.foldl (fun s b => onBlk name b (fun e => { e with state := .retired, factory := true }) s) s
      let good := s0.goodBlocks d
      let s2 := (good.drop n).foldl (fun s b => onBlk name b (fun e => { e with spare := true, state := .ecru, seg := 0, trimmed := false }) s) s0
      (good.take n).zipIdx.foldl (fun s (b, m) => bindBlock u m d b (onBlk name b (fun e => { e with state := .ecru, trimmed := false }) s)) s2) s1

/-! ## Replay -/

/-- Forget what DRAM held of the media (R117): the maps, the shared table, the segment tables, the stream structures, the catalogue and
the journal's entries. What is known of the blocks themselves stays: their wear and which are retired (DESIGN CHOICE, log entry 21). -/
def dropMaps (s : State) : State :=
  (((s.onFtl fun f =>
    { f with map := [], shares := [], takes := [], segs := [], tops := f.tops.filterMap fun e => if e.2.unfit then some (e.1, { unfit := true : TopSt }) else none
             log0 := {}, log1 := {}, relocs := [], frozen := [], ready := false, noLog := false, formatting := false
             fullRaised := false
             blks := tabMap (fun _ e => if e.state = .retired then e else
               { e with spare := true, seg := 0, trimmed := false, moving := false, means := [], probe := none
                        state := if e.spare ∧ e.state = .ecru then .ecru else .sable }) f.blks }).onRpl fun r =>
    { r with snaps := [], pages := [], sseq := [], pseq := [], heldTakes := [], sources := [], replicas := [] }).onJnl fun j =>
    { j with recs := [], spans := [], peer := [], waiting := [], toSpill := [], spilling := [], place := [], homesOut := [] }).onPar fun p =>
    { p with jobs := [], rows := [], part := [], running := [], rew := [], markers := [], rebuilds := [], resyncs := [], noSpare := [] }

/-- Recovery under R337 and R377 begins. -/
def startReplay (s : State) : State :=
  (dropMaps s).onFtl fun f => { f with replay := true, replayed := false, replayAt := s.time }

/-- Order log blocks by LOG_SEQ. -/
def insertLog (b : Bytes) : List Bytes → List Bytes
  | [] => [b]
  | x :: xs => if fieldLe b 8 8 < fieldLe x 8 8 then b :: x :: xs else x :: insertLog b xs

/-- The strips of an incomplete row that its records cover: those of the last stripe with a record, and every earlier one whole (R366). -/
def State.rowCovered (s : State) (top seg row : Nat) : Nat :=
  let n := s.stripeData top
  let first := s.firstStripe top seg row
  (List.range (s.rowStrips top / max 1 n)).foldl (fun a i => match s.stripeRec top (first + i) with
    | some r => if r.covered = 0 then a else i * n + r.covered
    | none => a) 0

/-- The rows that committed records name and that are not complete are open again, to be closed (R370, R377 step 4). -/
def reopenRows (tops : List Nat) (s : State) : State :=
  (s.jnl.recs.filter fun e => tops.contains e.1.1 && !e.2.complete).foldl (fun s e =>
    let top := e.1.1
    let r := e.2
    let row := r.row % s.pagesOf top
    let n := s.stripeData top
    let t := s.rowCovered top r.seg row
    let mem := s.memW r.seg row
    let first := s.firstStripe top r.seg row
    let whole := (List.range (t / n)).flatMap fun i => match s.stripeRec top (first + i) with
      | some x => if x.complete then s.parityDies top r.seg row (first + i) else []
      | none => []
    let p : PartRow := {
      seg := r.seg, row := row, strips := (List.range t).map fun i => (i, []), last := s.time, closing := true
      dies := (List.range t).filterMap (fun i => s.stripDie mem top r.seg row i) ++ whole }
    s.onPar fun q => { q with part := tabPut top p q.part }) s

/-- Close the reopened rows as far as they can be now (R370): their page groups are read again first. -/
def closeReopened (tops : List Nat) (s : State) : State :=
  tops.foldl (fun s u => if (tabGet u s.par.part).any (·.closing) then closeRow u s else s) s

/-- The covered strips of a record's stripe, as page groups (R377 step 3). -/
def State.coveredPages (s : State) (top stripe : Nat) (r : StripeRec) : List PgAddr :=
  let row := r.row % s.pagesOf top
  let i := stripe - s.firstStripe top r.seg row
  let n := s.stripeData top
  (List.range r.covered).filterMap fun k => (s.stripDie (s.memR r.seg row) top r.seg row (i * n + k)).map fun d =>
    { top := top, seg := r.seg, row := row, die := d }

/-- The map changes that a strip's block tags tell of (R377 step 3), in sector order. -/
def applyTags (a : PgAddr) (body : Bytes) (s : State) : State :=
  (List.range 128).foldl (fun s q =>
    let raw := slice body (65536 + 512 + 24 * q) 24
    let t := tagOf raw
    match s.vol t.vol with
    | none => s
    | some v =>
      if ¬ crcGood raw ∨ v.stream ∨ v.topUnit ≠ a.top then s
      else (setWord (t.vol % 2 ^ 12) t.pos 0 (directWord (s.dieName a.die) a.seg a.row q (ceilDiv (max 1 t.clen) 512)) s).2) s

/-- Start reading the covered strips of every record, in REC_SEQ order (R377 step 3). -/
def startVersions (s : State) : State :=
  let sorted := s.jnl.recs.foldl (fun (a : List ((Nat × Nat) × StripeRec)) x =>
    a.takeWhile (fun y => decide (y.2.recSeq < x.2.recSeq)) ++ [x] ++ a.dropWhile (fun y => decide (y.2.recSeq < x.2.recSeq))) []
  sorted.foldl (fun s e => startJob (.version e.1.1 e.1.2) (s.coveredPages e.1.1 e.1.2 e.2) 0 128 s) s

/-- The record's strips that have come back are applied when it is the oldest record left (R377 step 3); `fuel` bounds the records. -/
def stepVersions : Nat → State → State
  | 0, s => s
  | fuel + 1, s =>
    match s.par.jobs.find? fun j => match j.what with
      | .version .. => true
      | _ => false with
    | none => s
    | some j => match s.jobBodies j with
      | none => s
      | some bodies =>
        let s1 := (j.want.zip bodies).foldl (fun s (a, b) => match b with
          | some x => applyTags a x s
          | none => s) (endJob j.id s)
        stepVersions fuel s1

/-- The rows of a segment up to the last that a map word, a frame or a record names, or that was seen programmed. -/
def State.rowsKnown (s : State) (top m : Nat) : Nat :=
  let pages := s.pagesOf top
  let words := s.ftl.map.map (·.2) ++ s.ftl.shares.map (·.2.loc)
  let byWord := words.foldl (fun a w => match s.direct w with
    | some x => if bitsAt x 24 13 = m ∧ (s.dieOf (bitsAt x 43 5 * 64 + bitsAt x 37 6)).any (fun d => s.topOf d == top)
        then max a (bitsAt x 12 12 + 1) else a
    | none => a) 0
  let byTake := s.ftl.takes.foldl (fun a e => if ((s.vol e.1.1).map (·.topUnit)) = some top then
    e.2.segs.foldl (fun a g => if g.1 = m then max a (g.2.1 + g.2.2) else a) a else a) 0
  let byRec := s.jnl.recs.foldl (fun a e => if e.1.1 = top ∧ e.2.seg = m then max a (e.2.row % pages + (if e.2.complete then 1 else 0)) else a) 0
  max (s.seg top m).nextRow (max byWord (max byTake byRec))

/-- Where an open segment goes on (R337 step 4): behind the last row of which any page group was programmed. -/
def resumeSegment (top m : Nat) (s : State) : State :=
  let n := s.rowsKnown top m
  onSeg top m (fun g => { g with nextRow := n }) s

/-- Where a segment of the partner's ends (R446): no command brings the scan of its page-group metadata, so how many void rows lie beyond
the rows known is a free value (log entry 22). -/
def endSegment (top m : Nat) (s : State) : State :=
  let known := s.rowsKnown top m
  let (x, s1) := s.freeNat 64
  onSeg top m (fun g => { g with nextRow := known + x % (s.pagesOf top - known + 1) }) s1

/-- The segments that were open go on (R337 step 4): a take's stays its own, a full one closes, the others are the unit's open segment. -/
def resumeSegments (tops : List Nat) (s : State) : State :=
  tops.foldl (fun s u =>
    ((s.segsOf u).filter fun e => e.2.state == .open).foldl (fun s e =>
      let m := e.1
      let s1 := resumeSegment u m s
      let mine := s1.ftl.takes.find? fun k => k.2.state != .sealed && ((s1.vol k.1.1).map (·.topUnit)) == some u
        && (k.2.segs.getLast?).any fun g => g.1 == m
      if s1.pagesOf u ≤ (s1.seg u m).nextRow ∧ ¬ (tabGet u s1.par.part).any (fun p => p.seg == m) then closeSegment u m s1
      else if ((s1.unit u).getD {}).stream then
        onSeg u m (fun g => { g with state := if mine.isSome then .open else .part, take := mine.map (·.1) }) s1
      else onTop u (fun t => { t with openSeg := some m }) s1) s) s

/-- Takes of the volumes a test lets through: those that were sealing are sealed, and open ones go on behind the strips they hold (R337). -/
def resumeTakes (sel : Nat → Bool) (s : State) : State :=
  (s.ftl.takes.filter fun e => sel e.1.1).foldl (fun s e =>
    let (vol, t) := e.1
    match s.vol vol with
    | none => s
    | some v =>
      let rows := e.2.segs.foldl (fun a g => a + g.2.2) 0
      let s1 := onTake vol t (fun k =>
        { k with strips := max k.strips (rows * s.rowStrips v.topUnit)
                 blocks := k.frames.foldl (fun a f => a + f.2.lens.length) 0 }) s
      if e.2.state ≠ .sealing then s1
      else
        let s2 := onTake vol t (fun k => { k with state := .sealed, pending := [], drafts := [], row := [] }) s1
        (logItem (s.volOwner vol) (.take vol t .sealed e.2.frames.length rows e.2.segs.length) s2).2) s

/-- Blocks of dies that no segment table names are erased (R337 step 3), but for those of a die of which no bad-block list came. -/
def eraseUnnamed (dies : List Nat) (s : State) : State :=
  (dies.filter fun d => tabHas (s.dieName d) s.ftl.badLists).foldl (fun s d =>
    let name := s.dieName d
    (s.goodBlocks d).foldl (fun s b =>
      let e := tabGetD (name, b) { spare := true, state := .sable } s.ftl.blks
      if ¬ e.spare ∨ e.state = .ecru then s
      else (eraseBlock name b none (onBlk name b (fun _ => e) s)).2) s) s

/-- The erases of the trimmed segments of the units a test lets through are issued (R337 step 3). -/
def eraseTrimmed (sel : Nat → Bool) (s : State) : State :=
  (s.ftl.segs.filter fun e => e.2.state == .trimmed && sel e.1.1).foldl (fun s e =>
    let (top, m) := e.1
    let go := (s.liveDies top).foldl (fun (a : List Nat × State) d => match a.2.blockOf (a.2.dieName d) m with
      | none => a
      | some b => match eraseBlock (a.2.dieName d) b (some (top, m)) a.2 with
        | (true, s') => (a.1 ++ [a.2.dieName d], s')
        | (false, s') => (a.1, s')) ([], s)
    onSeg top m (fun g => { g with erasing := go.1 }) go.2) s

/-- Blocks recorded trimmed but not free, and blocks that no segment table names, are erased (R337 step 3). -/
def eraseStale (s : State) : State :=
  let s1 := eraseTrimmed s.serves s
  let tops := s1.segUnits ++ (if s1.prt.pair = .lone then s1.segUnitsOf (1 - s1.head) else [])
  eraseUnnamed (tops.flatMap s1.diesOf) s1

/-- What replication and the snapshots know from the catalogue after a replay (R474, R478). -/
def resumeReplication (s : State) : State :=
  s.rpl.snaps.foldl (fun s e =>
    let vol := e.2.vol % 2 ^ 12
    match s.vol vol with
    | none => s
    | some v => match s.role v with
      | .source _ => if 2 ≤ e.2.kind then onSource vol (fun x => { x with last := max x.last e.2.point }) s else s
      | .replica _ => if e.2.kind = 2 then onReplica vol (fun x => { x with base := max x.base e.2.point }) s else s
      | _ => s) s

/-- Rebuilds resume from their span entries (R377 step 5, R392): the walk goes on behind ROWS_DONE. -/
def resumeRebuilds (s : State) : State :=
  recomputeHealth ((s.jnl.spans.filter fun e => !e.2.complete && !tabHas e.1.1 s.par.rebuilds).foldl (fun s e =>
    let top := topAbove s.units maxDepth e.1.1
    if ¬ s.serves top then s
    else
      let walk := ((s.rowsOf top).take e.2.rowsTotal).drop e.2.rowsDone
      s.onPar fun p =>
        { p with rebuilds := tabPut e.1.1 { pos := e.1.2, spare := e.2.spare, walk := walk, done := e.2.rowsDone, total := e.2.rowsTotal, top := top }
                   p.rebuilds }) s)

/-- The log and journal blocks are read (R337 steps 1 to 4, R377): everything they say is applied, rows and rebuilds go on. `used` says
of segments how many of their rows were found with a page group programmed: unit, segment, rows. -/
def replayBlocks (mapBlocks jnlBlocks : List Bytes) (used : List (Nat × Nat × Nat)) (s : State) : State :=
  let good := (mapBlocks.filter logGood).foldl (fun a b => insertLog b a) []
  if good = [] then
    note 0x0909 0 (s.onFtl fun f => { f with noLog := true, replay := false })
  else
    let s1 := good.foldl (fun s b => applyLog b s) s
    let s2 := recountValid (s1.onFtl fun f => { f with noLog := mapBlocks.any fun b => !logGood b })
    let s3 := takeEntries (newestEntries (jnlBlocks.flatMap jnlEntries)) s2
    let tops := s3.segUnits ++ ((List.range s3.units.length).filter fun u => s3.prt.pair == .lone && !s3.segUnits.contains u
      && (s3.top u).formatted)
    let s4 := startVersions (reopenRows tops (used.foldl (fun s (u, m, n) =>
      if tabHas (u, m) s.ftl.segs then onSeg u m (fun g => { g with nextRow := min n (s.pagesOf u) }) s else s) s3))
    let s5 := resumeReplication (resumeTakes (fun _ => true) (resumeSegments tops (eraseStale s4)))
    recomputeHealth (s5.onFtl fun f => { f with replayed := true })

/-- Recovery goes on: records are applied in their order, then their rows close; after the last of it the maps are ready (R337, R377). -/
def stepReplay (s : State) : State :=
  if ¬ s.ftl.replay ∨ ¬ s.ftl.replayed then s
  else
    let s1 := stepVersions (s.par.jobs.length + 1) s
    let open_ := s1.par.jobs.any fun j => match j.what with
      | .version .. => true
      | _ => false
    if open_ then s1
    else
      let s2 := closeReopened (s1.par.part.map (·.1)) s1
      if (s2.par.part.any fun e => e.2.closing) ∨ s2.par.rows.any (fun r => r.kind == .close) then s2
      else resumeRebuilds (s2.onFtl fun f =>
        { f with replay := false, ready := true, replayMs := word (satN 32 (s2.since f.replayAt / 50000)) })

/-- FTL_REPLAY_DONE (R337, R377). -/
def replayDone (mapBlocks jnlBlocks : List Bytes) (used : List (Nat × Nat × Nat)) (s : State) : State :=
  if ¬ s.ftl.replay ∨ s.ftl.replayed then s else stepReplay (replayBlocks mapBlocks jnlBlocks used s)

/-! ## Timers of the media -/

/-- MAP_SPILL_TIMER (R334): the oldest change in an open log row has waited MAP_SPILL_MAX. -/
def execMapSpillTimer (s : State) : Host.Outcome State Fault Refusal :=
  .next (after (if s.ftl.ready then (if s.prt.pair = .lone then forceLog 1 (forceLog 0 s) else forceLog s.head s) else s))

/-- GC_VICTIM_START (R341). -/
def execGcVictimStart (top : Nat) (s : State) : Host.Outcome State Fault Refusal :=
  .next (after (if s.serves top then startCollect top s else s))

/-- PARTIAL_WAIT_EXPIRY (R366): the oldest dirty block of an incomplete stripe has waited PARTIAL_WAIT. -/
def execPartialWaitExpiry (top : Nat) (s : State) : Host.Outcome State Fault Refusal :=
  .next (after (if s.ftl.ready ∧ s.blockTops.contains top then flushTop top true (s.ing.buf.length + 1) s else s))

/-- PAD_WAIT_EXPIRY (R365): in the Lone state a completion has waited PAD_WAIT on strips of a partial stream row. -/
def padWait (qpn cid : Nat) (s : State) : State :=
  match s.cmd.cmds.find? fun c => c.qpn == qpn && c.cid == cid && !c.orphan with
  | some c => if s.prt.pair = .lone ∧ c.op = 0x11 ∧ s.ftl.ready then flushTake c.volId c.take true (s.ing.buf.length + 2) s else s
  | none => s

/-- PAD_WAIT_EXPIRY. -/
def execPadWaitExpiry (qpn : BitVec 24) (cid : BitVec 16) (s : State) : Host.Outcome State Fault Refusal :=
  .next (after (padWait qpn.toNat cid.toNat s))

/-- ROW_IDLE_CLOSE_EXPIRY (R370). -/
def execRowIdleCloseExpiry (top : Nat) (s : State) : Host.Outcome State Fault Refusal :=
  .next (after (if s.serves top then closeRow top s else s))

/-- JOURNAL_SPILL (R373). -/
def execJournalSpill (s : State) : Host.Outcome State Fault Refusal := .next (after (spillWaiting s))

/-- REBUILD_WAIT_EXPIRY (R378): a die, by its name, has been missing for REBUILD_WAIT. -/
def rebuildWait (die : Nat) (s : State) : State :=
  if (tabGetD die {} s.ftl.dies).missing ∧ (s.dieOf die).isSome then
    s.onPar fun p => { p with waited := if p.waited.contains die then p.waited else p.waited ++ [die] }
  else s

/-- REBUILD_WAIT_EXPIRY. -/
def execRebuildWaitExpiry (die : Nat) (s : State) : Host.Outcome State Fault Refusal := .next (after (rebuildWait die s))

/-- HEM_PATROL_PACE (R386). -/
def execHemPatrolPace (s : State) : Host.Outcome State Fault Refusal := .next (after (if s.ftl.ready then patrolStep s else s))

end Sys2Proof.Machine
end

