-- ==== Sys2Proof/Machine/Jobs.lean ====
section
/-! DEFINITION. Dies that go missing and return (R418, R421), and the end of formatting (R324). -/

namespace Sys2Proof.Machine

/-! ## Dies that go missing and return -/

/-- The die descriptors on a port. -/
def State.portDies (s : State) (p : Nat) : List Nat :=
  (List.range s.units.length).filter fun u => let d := (s.unit u).getD {}
    d.kind == .die && d.port == p

/-- Whether a sled's dies count as present for this head: its port is up and identified, it is not foreign, and no claim of this head on
it is still owed (R418, R419, R450, R612). -/
def State.sledIn (s : State) (p : Nat) : Bool :=
  let q := s.port p
  q.live && q.known && !q.foreign && !s.prt.claimOwed.contains p && !s.prt.joinOwed.contains p

/-- Mark the dies of a port missing or not. -/
def markDies (p : Nat) (b : Bool) (s : State) : State :=
  (s.portDies p).foldl (fun s d => s.onFtl fun f =>
    { f with dies := tabUpdD (s.dieName d) {} (fun x => { x with missing := b }) f.dies }) s

/-- The READs of a port are handed to reconstruction, its PROGRAMs count as page groups of a lost die (R418). The transactions themselves
stay, to be recalled or reissued. -/
def handOver (p : Nat) (s : State) : State :=
  let txs := (s.port p).tx
  let s1 := onPort p (fun q => { q with
    tx := q.tx.filter fun t => match t.2.what with
      | .read .. | .probe .. => false
      | _ => true
    queue := q.queue.filter fun tag => match (tabGet tag q.tx).map (fun (t : OslTx) => t.what) with
      | some (.read ..) => false
      | some (.probe ..) => false
      | _ => true }) s
  txs.foldl (fun s t => match t.2.what with
    | .read job a => jobRead job a none s
    | .program row => match s.dieOf (p * 64 + fieldLe t.2.args 0 1) with
      | some d => pageDone row d true s
      | none => s
    | _ => s) s1

/-- A sled's dies go missing (R418): margins are computed anew. -/
def sledOut (p : Nat) (s : State) : State :=
  if (s.portDies p).all fun d => (tabGetD (s.dieName d) {} s.ftl.dies).missing then s
  else recomputeHealth (handOver p (markDies p true s))

/-- A sled's dies are present (R419, R421): what they missed is made up before they count as not lost. -/
def sledBack (p : Nat) (s : State) : State :=
  if (s.portDies p).all fun d => !(tabGetD (s.dieName d) {} s.ftl.dies).missing then s
  else
    let s1 := (markDies p false s).onPar fun q => { q with waited := q.waited.filter fun n => n / 64 ≠ p }
    if (s1.port p).missed = [] then recomputeHealth s1 else startResync p (onPort p (fun q => { q with state := if q.state = .l0 then .resync else q.state }) s1)

/-- Bring the dies of a port to what its sled is now. -/
def refreshSled (p : Nat) (s : State) : State := if s.sledIn p then sledBack p s else sledOut p s

/-! ## The end of formatting -/

/-- A sled that formatting takes into service is bound, and foreign no longer, so that its dies are present (R412, R419). -/
def bindSled (p : Nat) (s : State) : State :=
  let q := s.port p
  refreshSled p (if q.bound = (s.arrayId, p) then s else oslBind p (onPort p (fun q => { q with foreign := false }) s))

/-- Formatting ends (R324): the lists are there, the units are formatted, the head has an empty map. -/
def formatDone (s : State) : State :=
  let waiting := s.sld.ports.any fun e => e.2.tx.any fun t => match t.2.what with
    | .badList _ => true
    | _ => false
  if ¬ s.ftl.formatting ∨ waiting then s
  else
    let ports := nubNat (s.ownDies.map fun d => ((s.unit d).getD {}).port)
    let s1 := s.segUnits.foldl (fun s u => formatUnit u s) (ports.foldl (fun s p => bindSled p s) s)
    let err := b2n s1.ftl.formatErr
    note 0x090A err (recomputeHealth (s1.onFtl fun f => { f with formatting := false, noLog := false, ready := true, replay := false }))

end Sys2Proof.Machine
end

