-- ==== Sys2Proof/Machine/Shadow.lean ====
section
/-! DEFINITION. What the Cloak holds for its partner (R439): the records, segments and map changes that partner-link messages bring, and
how long it keeps them. -/

namespace Sys2Proof.Machine

/-- Change PRT's record of a command. -/
def onShCmd (k : Nat × Nat) (f : ShCmd → ShCmd) (s : State) : State := s.onPrt fun p => { p with shCmd := tabUpd k f p.shCmd }

/-- Logical blocks of a mirrored command's data. -/
def ShCmd.blocks (c : ShCmd) : Nat := ceilDiv c.len 4096

/-- Whether a mirrored command brings data of a volume: WRITE or FRAME_APPEND. -/
def ShCmd.isWrite (c : ShCmd) : Bool := c.op == 0x02 || c.op == 0x11

/-- A command record goes once its CSTATE is 3 or 4 and every block is released (R439), with its window records and segments; the record
of a read stays while an outbound record names it, since its blocks may have to be read again (R447). -/
def shadowDrop (k : Nat × Nat) (s : State) : State :=
  match tabGet k s.prt.shCmd with
  | none => s
  | some c =>
    let whole := !(c.isWrite && c.cstate == 3) || (List.range c.blocks).all c.released.contains
    let named := s.prt.shOut.any fun o => o.okind == 2 && o.qpn == k.1 && o.cid == k.2
    if c.cstate < 3 ∨ ¬ whole ∨ named then s
    else
      let s1 := s.onPrt fun p => { p with shCmd := tabDel k p.shCmd, shWin := p.shWin.filter fun w => !(w.1.1 == k.1 && w.1.2.1 == k.2) }
      s1.onIng fun i => { i with shadow := i.shadow.filter fun g => !(g.qpn == k.1 && g.cid == k.2) }

/-- Records cut from a message body. -/
def recordsOf (n : Nat) (body : Bytes) : List Bytes := (chunks n (body.length + 1) body).filter fun r => r.length == n

/-- A checkpoint record (R152): a newer one of its connection replaces the last; a closed context goes, with its connection record and its
outbound records. Packets that TX_UNA has passed need no record (R439), and a command whose data was all in before has its checkpoint
(R448). -/
def shadowCkpt (fence : Nat) (r : Bytes) (s : State) : State :=
  let q := fieldLe r 0 3
  let st := bitsAt (fieldLe r 3 1) 0 3
  let lot := bitAt (fieldLe r 3 1) 3
  let una := fieldLe r 16 4
  let n : ShCkpt := {
    state := st, lot := lot, rxNext := fieldLe r 4 4, rxMsg := fieldLe r 8 4, txNext := fieldLe r 12 4, txUna := una, peer := fieldLe r 20 4
    seq := fieldLe r 24 4, fence := fence }
  let m := if lot then 2 ^ 32 else 2 ^ 24
  let newer : Bool := match tabGet q s.prt.shCkpt with
    | some o => decide (o.seq < n.seq)
    | none => true
  if ¬ crcGood r ∨ ¬ newer then s
  else if st = 0 then
    s.onPrt fun p => { p with shCkpt := tabDel q p.shCkpt, shConn := tabDel q p.shConn, shOut := p.shOut.filter (·.qpn ≠ q) }
  else
    let passed (o : ShOut) : Bool := o.qpn == q && decide ((una + m - (o.oseq + o.ocount) % m) % m < m / 2)
    let s1 := s.onPrt fun p =>
      { p with shCkpt := tabPut q n p.shCkpt, shOut := p.shOut.filter fun o => !passed o
               shCmd := p.shCmd.map fun e => if e.1.1 = q ∧ e.2.cstate = 2 then (e.1, { e.2 with ckptAfter := true }) else e }
    ((s1.prt.shCmd.filter fun e => e.1.1 == q).map (·.1)).foldl (fun s k => shadowDrop k s) s1

/-- A command record (R439). -/
def shadowCmd (r : Bytes) (s : State) : State :=
  if ¬ crcGood r then s
  else
    let k := (fieldLe r 0 3, fieldLe r 4 2)
    let n : ShCmd := {
      cstate := fieldLe r 3 1, vol := fieldLe r 6 2, acc := fieldLe r 8 8, capSeq := fieldLe r 16 4, op := fieldLe r 20 1
      status := fieldLe r 21 1, wins := fieldLe r 22 2, lba := fieldLe r 24 8, param := fieldLe r 32 8, take := fieldLe r 40 4
      len := fieldLe r 44 4, hkey := fieldLe r 48 4, haddr := fieldLe r 52 8 }
    match (tabGet k s.prt.shCmd).filter fun o => o.acc == n.acc with
    | some o => shadowDrop k (s.onPrt fun p =>
        { p with shCmd := tabPut k { n with ckptAfter := o.ckptAfter, released := o.released, runs := o.runs } p.shCmd })
    | none => shadowDrop k (s.onPrt fun p =>
        { p with shCmd := tabPut k n p.shCmd, shWin := p.shWin.filter fun w => !(w.1.1 == k.1 && w.1.2.1 == k.2) })

/-- A window record (R439). -/
def shadowWin (r : Bytes) (s : State) : State :=
  if ¬ crcGood r then s
  else
    let q := fieldLe r 0 3
    let cid := fieldLe r 4 2
    let n : ShWin := { wstate := fieldLe r 3 1, wkey := fieldLe r 8 4, wlen := fieldLe r 12 4, off := fieldLe r 16 8 }
    onShCmd (q, cid) (fun c => { c with wins := max c.wins (fieldLe r 6 2 + 1) })
      (s.onPrt fun p => { p with shWin := tabPut (q, cid, fieldLe r 6 2) n p.shWin })

/-- An outbound record (R440). -/
def shadowOut (r : Bytes) (s : State) : State :=
  if crc32c (r.take 12 ++ slice r 16 64) ≠ fieldLe r 12 4 then s
  else
    let k := (fieldLe r 0 3, fieldLe r 10 2)
    let kind := fieldLe r 3 1
    let o : ShOut := {
      qpn := k.1, okind := kind, oseq := fieldLe r 4 4, ocount := fieldLe r 8 2, cid := k.2, body := slice r 16 64
      run := ((tabGet k s.prt.shCmd).map (·.runs)).getD 0 }
    let s1 := s.onPrt fun p => { p with shOut := p.shOut ++ [o] }
    if kind = 2 then onShCmd k (fun c => { c with runs := c.runs + 1 }) s1 else s1

/-- A connection record (R613). -/
def shadowConn (r : Bytes) (s : State) : State :=
  if crcGood r then s.onPrt fun p => { p with shConn := tabPut (fieldLe r 0 3) r p.shConn } else s

/-- A DISCARD (R53, R237): what the shadow holds of a command that failed goes. -/
def shadowDiscard (k : Nat × Nat) (s : State) : State :=
  s.onIng fun i => { i with shadow := i.shadow.filter fun g => !(g.qpn == k.1 && g.cid == k.2) }

/-- A segment (R213, R215, R229): kept with its descriptor while its P is right; the receipt covers it together with every earlier one. A
segment receipted before is only receipted again (R435); one whose P differs is a segment failure. It answers whether it failed. -/
def shadowSeg (b : Bytes) (s : State) : Bool × State :=
  let n := fieldLe b 20 4
  let pay := b.drop 32
  let seen : Bool := match s.prt.segAck with
    | some a => seqLe n a
    | none => false
  if b.length < 32 ∨ seen ∨ s.prt.segAhead.contains n then (false, s)
  else
    let good := partialP pay == fieldLe b 24 8
    let g : ShadowSeg := {
      seg := n, qpn := fieldLe b 0 3, cid := fieldLe b 4 2, vol := fieldLe b 6 2, flags := fieldLe b 3 1, off := fieldLe b 8 8
      partialCrc := fieldLe b 24 8, data := pay }
    let s1 := if good then s.onIng fun i => { i with shadow := i.shadow ++ [g] } else s
    let ahead := s.prt.segAhead ++ [n]
    let first := match s.prt.segAck with
      | some a => (a + 1) % 2 ^ 32
      | none => 0
    let run := (List.range ahead.length).takeWhile fun k => ahead.contains ((first + k) % 2 ^ 32)
    let last := if run = [] then s.prt.segAck else some ((first + run.length - 1) % 2 ^ 32)
    (!good, s1.onPrt fun p =>
      { p with segAck := last, segAhead := ahead.filter fun x => !(run.any fun k => (first + k) % 2 ^ 32 == x) })

/-- RELEASE entries (R436, R441): blocks whose map changes are durable at the partner leave the shadow. -/
def shadowRelease (body : Bytes) (s : State) : State :=
  (recordsOf 16 body).foldl (fun s e =>
    let k := (fieldLe e 0 3, fieldLe e 4 2)
    let first := fieldLe e 8 4
    let n := fieldLe e 12 4
    let s1 := onShCmd k (fun c => { c with released := c.released ++ (List.range (min n c.blocks)).map (first + ·) |>.eraseDups }) s
    let gone (g : ShadowSeg) : Bool := g.qpn == k.1 && g.cid == k.2 && decide (first * 4096 ≤ g.off)
      && decide (g.off + g.data.length ≤ (first + n) * 4096)
    shadowDrop k (s1.onIng fun i => { i with shadow := i.shadow.filter fun g => !gone g })) s

/-- A MAP message (R436, R439): the changes enter this head's copy of the partner's state. A TRIM's change is remembered with its
command, so that a takeover does not apply it again (R448). -/
def shadowMap (body : Bytes) (s : State) : State :=
  let trims := if fieldLe body 0 1 = 2 then (recordsOf 16 (body.drop 32)).filterMap fun e =>
      if bitAt (fieldLe e 7 1) 0 then some (fieldLe e 0 2 % 2 ^ 12, fieldLe e 2 5) else none
    else []
  let s1 := trims.foldl (fun s t => s.onPrt fun p =>
    { p with shCmd := p.shCmd.map fun e =>
        if e.2.op = 0x03 ∧ e.2.cstate < 3 ∧ e.2.vol % 2 ^ 12 = t.1 ∧ e.2.lba ≤ t.2 ∧ t.2 < e.2.lba + e.2.param
        then (e.1, { e.2 with released := e.2.released ++ [t.2 - e.2.lba] }) else e }) s
  applyLog body s1

/-- A JNL message (R436, R439): the partner's entries. -/
def shadowJnl (body : Bytes) (s : State) : State := (recordsOf 64 body).foldl (fun s e => peerEntry e s) s

/-- Everything held for the partner goes (R443, R445): its records, windows, packets and segments. -/
def shadowClear (s : State) : State :=
  (s.onPrt fun p => { p with shCkpt := [], shConn := [], shCmd := [], shWin := [], shOut := [], fenceWait := [], segAck := none, segAhead := [] }).onIng
    fun i => { i with shadow := [] }

/-- The bytes of a mirrored command's data that the shadow holds, as fragments in the order they came. -/
def State.shadowFrags (s : State) (k : Nat × Nat) (acc : Nat) : List Frag :=
  (s.ing.shadow.filter fun g => g.qpn == k.1 && g.cid == k.2 && !g.bad).map fun g => { acc := acc, off := g.off, data := g.data }

/-- How many bytes from `lo` the fragments of a command cover. -/
def coveredBytes (fs : List Frag) (lo len : Nat) : Nat :=
  (List.range len).countP fun k => fs.any fun f => decide (f.off ≤ lo + k) && decide (lo + k < f.off + f.data.length)

end Sys2Proof.Machine
end

