-- ==== Sys2Proof/Machine/Activate.lean ====
section
/-! DEFINITION. Activation after a takeover (R446 to R448): the partner's media adopted, its shadows promoted, its connections and
commands carried on. -/

namespace Sys2Proof.Machine

/-- The partner's HEAD_ID. -/
def State.peerHead (s : State) : Nat := 1 - s.head

/-! ## The partner's media -/

/-- The segments of units taken over or taken back that are open close, since its data goes on in newly opened ones (R446 step 2): a stream unit's
becomes a part segment. -/
def closeOpenSegs (tops : List Nat) (s : State) : State :=
  tops.foldl (fun s u =>
    ((s.segsOf u).filter fun e => e.2.state == .open).foldl (fun s e =>
      let s1 := endSegment u e.1 s
      if ((s1.unit u).getD {}).stream then onSeg u e.1 (fun g => { g with state := .part, take := none }) s1 else closeSegment u e.1 s1) s) s

/-- Adopt the partner's units (R446 step 1, R611): its journal entries become this head's own, its open rows are opened again to be
closed, its takes go on, and blocks that no segment table names are erased. -/
def adoptMedia (s : State) : State :=
  let h := s.peerHead
  let tops := s.segUnitsOf h
  let s1 := (takeEntries (s.jnl.peer.map (·.2)) s).onJnl fun j => { j with peer := [] }
  let s2 := resumeTakes (fun v => s.volOwner v == h) (closeOpenSegs tops (reopenRows tops s1))
  recomputeHealth (eraseUnnamed (tops.flatMap s.diesOf) (eraseTrimmed tops.contains s2))

/-- Background recovery (R446): the partner's open rows close, and its rebuilds resume (R392). -/
def recoverMedia (s : State) : State := resumeRebuilds (closeReopened (s.segUnitsOf s.peerHead) s)

/-! ## Connections -/

/-- The outbound packets of a connection as its records give them (R440, R447), with the acceptance numbers of the reads whose blocks are
to be read again; `base` is the message number of the first on LOT. -/
def rebuiltSent (c : ShCkpt) (sub base : Nat) (outs : List ShOut) (ghost : Nat → Nat) : List OutPkt :=
  let m := if c.lot then 2 ^ 32 else 2 ^ 24
  outs.zipIdx.flatMap fun (o, i) =>
    (List.range o.ocount).map fun k =>
      { num := (o.oseq + k) % m, msg := if c.lot then (base + i) % 2 ^ 32 else 0, sub := sub
        body := if o.okind = 2 then .again (ghost o.cid) o.run k else .send o.body }

/-- The RDMA WRITE message that a RoCEv2 connection was in the middle of at its checkpoint: the window and offset behind the last segment
the checkpoint covers, unless that segment completed its window. DEDUCED (log entry 23): the checkpoint record does not carry it. -/
def State.shadowWrite (s : State) (q : Nat) (c : ShCkpt) : Option (Nat × Nat) :=
  match ((s.ing.shadow.filter fun g => g.qpn == q && seqLe g.seg c.fence).getLast?) with
  | none => none
  | some g =>
    let e := g.off + g.data.length
    if c.lot ∨ bitAt g.flags 0 then none
    else ((s.prt.shWin.find? fun w => w.1.1 == q && w.1.2.1 == g.cid && decide (w.2.off ≤ g.off) && decide (e ≤ w.2.off + w.2.wlen)).map
      fun w => (w.2.wkey, e - w.2.off))

/-- A context from its connection record, its checkpoint and its outbound records (R446 step 3, R613). What no record carries, the identity
of its CM exchange and the LOT message numbers, is a free value (log entries 3, 24). -/
def installCtx (q : Nat) (ck : ShCkpt) (ghost : Nat → Nat) (s0 : State) : State :=
  let idx := q % 2 ^ 18
  match tabGet q s0.prt.shConn with
  | none => note 0x0D0A q (s0.onPrt fun p => { p with qpLost := satInc p.qpLost })
  | some b =>
    if tabHas idx s0.qpc.ctx then note 0x0D0A q (s0.onPrt fun p => { p with qpLost := satInc p.qpLost })
    else
      let (comm, s1) := s0.freeNat 32
      let (base, s) := s1.freeNat 32
      let fl := fieldLe b 3 1
      let addrs := (List.range (fieldLe b 7 1)).map fun i => fieldLe b (16 + 16 * i) 16
      let outs := s.prt.shOut.filter (·.qpn == q)
      let p := match outs.getLast? with
        | some o => (o.oseq + o.ocount) % (if ck.lot then 2 ^ 32 else 2 ^ 24)
        | none => ck.txNext
      let sub := fieldLe b 6 1
      let c : Ctx := {
        gen := q / 2 ^ 18, state := if ck.state = 4 then .error else .ready, lot := ck.lot, src := addrs.headD 0, sub := sub, addrs := addrs
        peer := ck.peer, commId := comm, mac := fieldLe b 80 6, sport := fieldLe b 14 2, pkey := fieldLe b 86 2, localPort := fieldLe b 88 1
        depth := fieldLe b 4 2, events := bitAt fl 1, pull := bitAt fl 2, hostId := fieldLe b 8 4
        rxNext := ck.rxNext, rxMsg := ck.rxMsg, gapNak := !ck.lot, acked := ck.rxNext, ackedMsg := ck.rxMsg, wrCur := s.shadowWrite q ck
        txNext := p, txMsg := if ck.lot then (base + outs.length) % 2 ^ 32 else 0, txUna := ck.txUna
        sent := if ck.state = 4 then [] else rebuiltSent ck sub base outs ghost
        ckptSeq := ck.seq, ckptConf := ck.seq, held := ck.state != 4, taken := true }
      let s2 := addCtx idx c s
      if ck.lot ∨ ck.state = 4 then s2 else s2.onPrt fun x => { x with probes := tabPut idx p x.probes }

/-- The NAK of R157 steps 4 and 5 that brings a host's resend, and on RoCEv2 the probe of R447 under the retry timer. -/
def resumeHost (idx : Nat) (s : State) : State :=
  match tabGet idx s.qpc.ctx with
  | none => s
  | some c =>
    if c.state = .error then s
    else if c.lot then match s.lotSub with
      | some sub => sendLotNak sub (c.lotDst sub) c.peer c.rxMsg c.rxNext 3 s
      | none => s
    else sendProbe idx (onCtxQuiet idx (fun c => { c with timeout := s.param P.retryTimeoutInit }) (sendNak idx 0 s))

/-! ## Commands -/

/-- A mirrored command as this head carries it, under an acceptance number of its own. PULL is not in the record: a read that named pull
windows, or has no host address to send to, is one (DEDUCED, log entry 25). -/
def ShCmd.toCmd (c : ShCmd) (acc q cid : Nat) (pull : Bool) : Cmd :=
  { acc := acc, qpn := q, cid := cid, op := c.op, pull := pull, vol := c.vol, lba := c.lba, take := c.take, len := c.len, hkey := c.hkey
    haddr := c.haddr, param := c.param, capSeq := c.capSeq, recorded := true, phase := .waiting, takenOver := true }

/-- The mirrored windows of a command, by SEQ. -/
def State.shadowWins (s : State) (k : Nat × Nat) : List (Nat × ShWin) :=
  (s.prt.shWin.filter fun w => w.1.1 == k.1 && w.1.2.1 == k.2).map fun w => (w.1.2.2, w.2)

/-- Put the windows of a command taken over beside this head's own, in the partner's table (R447): 2^20 above their index. -/
def installWins (k : Nat × Nat) (acc len : Nat) (read : Bool) (fs : List Frag) (lot : Bool) (s : State) : State :=
  (s.shadowWins k).foldl (fun s e =>
    let (q, w) := e
    let done := w.wstate == 2
    if read ∧ w.wstate ≠ 1 then s
    else s.onCmd fun u =>
      { u with wins := tabPut (w.wkey % 2 ^ 20 + 2 ^ 20)
                 { tag := w.wkey / 2 ^ 20, acc := acc, seq := q, wlen := w.wlen, off := w.off, readPerm := read
                   last := decide (w.off + w.wlen = len), placed := if done then w.wlen else if lot then 0 else coveredBytes fs w.off w.wlen
                   complete := done && !read } u.wins }) s

/-- The blocks of a command whose bytes the shadow holds enter the write buffer (R446 step 2); one that cannot be encrypted any more,
or that a DRAM error struck (R225, R500), is unrecovered. -/
def promoteBlocks (acc : Nat) (v : VolPolicy) (bad : Nat → Bool) (nums : List Nat) (s : State) : State :=
  nums.foldl (fun s k => match s.cmdAt acc with
    | none => s
    | some c =>
      let s1 := match s.assemble acc (k * 4096) (c.blockLen k) with
        | none => s
        | some d => bufferBlock c v k (padTo 4096 d) s
      if ((s1.cmdAt acc).any fun c => c.blocksIn.contains k) ∨ ((s.assemble acc (k * 4096) (c.blockLen k)).isNone ∧ ¬ bad k) then s1
      else
          let b : BufBlk := { acc := acc, num := k, qpn := c.qpn, cid := c.cid, slot := s.freeSlot, addr := c.addrOf k, tag := {}
                              plain := [], sectors := [], ref := some 3 }
          raise 0x0403 (v.vol * 2 ^ 8) .all
            ((chg acc (fun c => { c with blocksIn := c.blocksIn ++ [k], fail := none }) s1).onIng fun i =>
              { i with buf := i.buf ++ [b], unrecovered := satInc i.unrecovered })) s

/-- Whether a DRAM error struck a block of a mirrored command in the shadow (R500). -/
def State.shadowBad (s : State) (k : Nat × Nat) (num : Nat) : Bool :=
  s.ing.shadow.any fun g => g.bad && g.qpn == k.1 && g.cid == k.2 && decide (g.off < (num + 1) * 4096) && decide (num * 4096 < g.off + g.data.length)

/-- Make room in the accounts for a write taken over: its sectors or strips, its take's draft and segment (R338, R298). -/
def prepareWrite (c : Cmd) (v : VolPolicy) (s : State) : State :=
  if c.op = 0x02 then reserve v.topUnit c.acc (s.writeNeeds c) s
  else if c.op = 0x11 then
    let s1 := (takeSegment v.topUnit c.volId c.take s).2
    onTake c.volId c.take (fun t =>
      { t with drafts := tabPut c.acc { base := t.blocks, total := c.blocks } t.drafts, blocks := t.blocks + c.blocks })
        (reserve v.topUnit c.acc (ceilDiv c.blocks 16) s1)
  else s

/-- The data of a command the partner had answered (CSTATE 3) that is not yet released becomes this head's own dirty data (R446 step 2). -/
def promoteDone (k : Nat × Nat) (h : ShCmd) (acc : Nat) (s : State) : State :=
  let c := { h.toCmd acc k.1 k.2 false with phase := .finishing }
  match s.volOf c with
  | none => s
  | some v =>
    let nums := if h.op = 0x11 then List.range c.blocks else (List.range c.blocks).filter fun b => !h.released.contains b
    let known := h.op = 0x11 ∧ (s.take c.volId c.take).any fun t => tabHas (c.lba % 2 ^ 40) t.frames
    if h.cstate ≠ 3 ∨ h.status ≠ 0 ∨ ¬ h.isWrite ∨ nums = [] ∨ known then s
    else
      let fs := s.shadowFrags k acc
      let s1 := (s.onIng fun i => { i with frags := i.frags ++ fs }).onCmd fun u => { u with cmds := u.cmds ++ [c] }
      let s2 := promoteBlocks acc v (s.shadowBad k) nums (dirtyAdd acc c.volId nums.length (prepareWrite c v s1))
      match s2.cmdAt acc with
      | none => s2
      | some x =>
        let s3 := writeEffect x s2
        (s3.onCmd fun u => { u with cmds := u.cmds.filter (·.acc ≠ acc) }).onIng fun i => { i with frags := i.frags.filter (·.acc ≠ acc) }

/-- Whether a change that a command makes is already in this head's copy of the maps (R448). -/
def State.changeSeen (s : State) (c : Cmd) : Bool :=
  match c.op with
  | 0x10 => (s.take c.volId c.take).isSome
  | 0x13 => (s.take c.volId c.take).any (·.state == .sealed)
  | 0x14 | 0x5B => (s.take c.volId c.take).isNone
  | 0x50 => (s.hostSnap c.volId c.snap).isSome
  | 0x51 => (s.hostSnap c.volId c.snap).isNone
  | _ => false

/-- Whether a command's capsule lies at or beyond its connection's checkpointed receive position (R448 row 1). -/
def ShCkpt.beyond (k : ShCkpt) (capSeq : Nat) : Bool :=
  if k.lot then decide ((capSeq + 2 ^ 32 - k.rxMsg) % 2 ^ 32 < 2 ^ 31) else decide ((capSeq + 2 ^ 24 - k.rxNext) % 2 ^ 24 < 2 ^ 23)

/-- Carry one mirrored command on (R448). It answers with the acceptance number of a write that is owed. -/
def carryCmd (k : Nat × Nat) (h : ShCmd) (acc : Nat) (s : State) : Option Nat × State :=
  let ck := tabGet k.1 s.prt.shCkpt
  if 3 ≤ h.cstate ∨ ck.any (·.beyond h.capSeq) then (none, s)
  else
    let ws := s.shadowWins k
    let read := [0x01, 0x12, 0x52, 0x53].contains h.op
    let c0 := h.toCmd acc k.1 k.2 (read && (!ws.isEmpty || (h.hkey == 0 && h.haddr == 0)))
    let fs := s.shadowFrags k acc
    match s.volOf c0 with
    | none => (none, s.onCmd fun u => { u with cmds := u.cmds ++ [c0] })
    | some v =>
      if c0.takesData then
        let named := ws.foldl (fun a w => a + w.2.wlen) 0
        let good := ws.filter fun w => w.2.wstate == 2
        let c := if ws = [] then c0 else
          { c0 with named := ws.length, namedBytes := named, closedWins := good.length, rxBytes := good.foldl (fun a w => a + w.2.wlen) 0
                    phase := if h.cstate = 2 then .finishing else .moving }
        let lot := ck.any (·.lot)
        let s1 := claimAtAccept c (s.onCmd fun u => { u with cmds := u.cmds ++ [c] })
        if ws = [] then (none, s1)
        else
          let n := ceilDiv named 4096
          let s2 := (installWins k acc h.len false fs lot (dirtyAdd acc c.volId n (prepareWrite c v s1))).onIng fun i =>
            { i with frags := i.frags ++ fs
                     budget := ws.foldl (fun t w => tabPut (acc, w.1) (32 * ceilDiv w.2.wlen (if lot then 4096 else s.param P.pmtu)) t) i.budget }
          let owed := c.isWrite && h.cstate == 2 && h.ckptAfter && decide (coveredBytes fs 0 h.len = h.len)
          if owed then (some acc, promoteBlocks acc v (s.shadowBad k) (List.range c.blocks) s2) else (none, s2)
      else if read then
        let c := { c0 with named := if c0.pull then ws.length else 0, closedWins := if c0.pull then (ws.filter fun w => w.2.wstate != 1).length else 0 }
        (none, installWins k acc h.len true [] false (s.onCmd fun u => { u with cmds := u.cmds ++ [c] }))
      else if s.changeSeen c0 then
        let s1 := s.onCmd fun u => { u with cmds := u.cmds ++ [{ c0 with phase := .moving }] }
        (none, awaitLog acc (s1.lastLog (s1.volOwner c0.volId)) s1)
      else
        let c := if h.op = 0x03 then { c0 with hidden := h.released } else c0
        (none, claimAtAccept c (s.onCmd fun u => { u with cmds := u.cmds ++ [c] }))

/-- A read whose recorded runs must be read again for their resend (R447): a read of no host, which only gathers its blocks. -/
def ghostRead (k : Nat × Nat) (h : ShCmd) (acc : Nat) (s : State) : State :=
  let c := { h.toCmd acc k.1 k.2 false with orphan := true, recorded := false }
  chg acc (fun c => { c with phase := .finishing }) (startCmd c (s.onCmd fun u => { u with cmds := u.cmds ++ [c] }))

/-! ## Activation -/

/-- Order mirrored commands by the partner's acceptance numbers. -/
def byAcc (l : List ((Nat × Nat) × ShCmd)) : List ((Nat × Nat) × ShCmd) :=
  l.foldl (fun a x => a.takeWhile (fun y => decide (y.2.acc ≤ x.2.acc)) ++ [x] ++ a.dropWhile (fun y => decide (y.2.acc ≤ x.2.acc))) []

/-- Take the partner's addresses (R446 step 4, R157). -/
def takeAddrs (s : State) : State :=
  match s.cfg.img with
  | none => s
  | some i => (nubNat ((i.addrs.filter fun a => a.head != s.head).map (·.port))).foldl (fun s p => takeAddr p s) s

/-- Activation is complete (R446, R461): the interval since the last good heartbeat, or since the hold began, is measured. -/
def takeoverDone (s : State) : State :=
  let ns := satN 32 (s.since s.prt.tkovStart * 20)
  openTargets (raise 0x0D05 (satN 24 ns) .all (s.onPrt fun p =>
    { p with activating := false, tkovLast := word ns, tkovMax := word (max p.tkovMax.toNat ns) }))

/-- Carry on the connections and commands whose shadows this head holds (R446 steps 2 to 5); `own` are its own addresses, at a handback,
else the partner's. -/
def carryOn (own : Bool) (s0 : State) : State :=
  let cmds := byAcc s0.prt.shCmd
  let base := s0.cmd.nextAcc
  let reads := cmds.filter fun e => [0x01, 0x12, 0x52, 0x53].contains e.2.op && s0.prt.shOut.any fun o => o.okind == 2 && o.qpn == e.1.1 && o.cid == e.1.2
  let gbase := base + cmds.length
  let ghost (q cid : Nat) : Nat := gbase + (reads.findIdx fun e => e.1 == (q, cid))
  let s1 := s0.onCmd fun u => { u with nextAcc := gbase + reads.length }
  let s2 := cmds.zipIdx.foldl (fun s (e, i) => promoteDone e.1 e.2 (base + i) s) s1
  let s3 := s2.prt.shCkpt.foldl (fun s e => installCtx e.1 e.2 (ghost e.1) s) s2
  let r := cmds.zipIdx.foldl (fun (a : List Nat × State) (e, i) => match carryCmd e.1 e.2 (base + i) a.2 with
    | (some x, s) => (a.1 ++ [x], s)
    | (none, s) => (a.1, s)) ([], s3)
  let s4 := reads.zipIdx.foldl (fun s (e, i) => ghostRead e.1 e.2 (gbase + i) s) r.2
  let s5 := if own then s4 else takeAddrs s4
  let idxs := (s0.prt.shCkpt.map fun e => e.1 % 2 ^ 18).filter fun i => (tabGet i s5.qpc.ctx).any (·.taken)
  let s6 := shadowClear (idxs.foldl (fun s i => resumeHost i s) s5)
  let gone := (nubNat (cmds.map (·.1.1))).filter fun q => match s6.ctxAt q with
    | some (_, c) => c.state == .error
    | none => true
  let s7 := r.1.foldl (fun s a => match s.cmdAt a with
    | some c => finish a 0 c.len 0 0 [] s
    | none => s) s6
  gone.foldl (fun s q => orphanQueue q s) s7

/-- The head that won a round in the Paired state activates (R446). -/
def activate (planned : Bool) (s : State) : State :=
  let s1 := takeoverDone (recoverMedia (carryOn false (adoptMedia (s.onPrt fun p => { p with activating := true }))))
  if planned then note 0x0D08 0 s1 else s1

end Sys2Proof.Machine
end

