-- ==== Sys2Proof/Machine/Rounds.lean ====
section
/-! DEFINITION. Claim rounds and the pairing states they lead to (R442 to R445, R449, R612), and claims lost (R416). -/

namespace Sys2Proof.Machine

/-- The configured sleds (R444). -/
def State.claimSleds (s : State) : List Nat :=
  (List.range 32).filter fun p => bitAt (s.param P.sldPortMask) p && !(s.portDies p).isEmpty

/-- The epoch of SLD_CLAIM_EPOCH. -/
def State.claimEpoch (s : State) : Nat := s.sld.epoch.toNat / 256

/-! ## Fenced -/

/-- Nothing of a sled's transactions stays but IDENTIFY and RECALL (R445). -/
def dropTx (p : Nat) (s : State) : State :=
  onPort p (fun q =>
    let keep (tag : Nat) : Bool := match (tabGet tag q.tx).map (fun (t : OslTx) => t.op) with
      | some 0x01 => true
      | some 0x04 => true
      | _ => false
    { q with tx := q.tx.filter fun t => keep t.1, queue := q.queue.filter keep }) s

/-- The write buffer, the command table and every connection are discarded (R445), with what they had under way. -/
def dropWork (s : State) : State :=
  let s1 := s.onIng fun i => { i with frags := [], buf := [], teed := [], backlog := [], dirty := [], dirtyBy := [], budget := [], extra := [] }
  let s2 := s1.onCmd fun u => { u with cmds := [], wins := [], holdDirty := false, holdShare := [] }
  let s3 := s2.onQpc fun q => { q with ctx := [], cache := [], fetching := [], miss := [] }
  let s4 := s3.onFab fun f => { f with stopped := [], addrTaken := 0, addrWait := 0, announces := [] }
  let s5 := s4.onPar fun p => { p with jobs := [], rows := [] }
  let s6 := s5.onFtl fun f => { f with relocs := [], tops := tabMap (fun _ t => { t with collect := none, reserved := [] }) f.tops }
  s6.onRpl fun r => { r with targets := tabMap (fun _ t => { t with conn := none }) r.targets }

/-- Enter Fenced (R443, R445): 0 a round lost, 1 CLAIM_LOST, 2 YIELD, 3 a handover. -/
def enterFenced (why : Nat) (s : State) : State :=
  if s.prt.pair = .fenced then s
  else
    let s1 := s.onPrt fun p =>
      { p with pair := .fenced, round := none, hold := false, join := .none, joinWait := [], joinOwed := [], claimOwed := [], activating := false
               syncedTx := false, syncedRx := false, probes := [], fillWait := [], claimedTx := false
               ckpt := { p.ckpt with sent := [] }, jnl := { p.jnl with sent := [] }, map := { p.map with sent := [] } }
    note 0x0D07 why (((s1.sld.ports.map (·.1)).foldl (fun s p => dropTx p s) (shadowClear (dropWork s1))))

/-- CLAIM_LOST (R416, R443): the claim on a sled is another's; a head in the Paired or Lone state is Fenced. -/
def claimLost (p : Nat) (s : State) : State :=
  let q := s.port p
  if ¬ q.holds then s
  else
    let s1 := raise 0x0C05 p .all (onPort p (fun q => { q with fenced := true, current := false, holds := false }) s)
    match s1.prt.pair with
    | .paired => enterFenced 1 s1
    | .lone => enterFenced 1 s1
    | _ => s1

/-! ## Lone -/

/-- Entries whose commit waited for the partner are committed through the homes instead (R373); an INTENT needs none. -/
def commitAlone (s : State) : State :=
  let es := s.jnl.waiting.filter fun e => !e.intent
  let s1 := s.onJnl fun j => { j with waiting := es }
  spillWaiting (spillNow s.head (es.length + 1) es s1)

/-- Enter Lone (R449): the tee stops and its backlog goes (R216), what was accepted may be acknowledged, commits and completions no longer
wait for the partner. What no acknowledgement covered goes with the session's end (log entry 26). -/
def enterLone (s : State) : State :=
  let s1 := s.onPrt fun p =>
    { p with pair := .lone, hold := false, handover := false, peerHello := none, fenceWait := [], join := .none, syncedTx := false, syncedRx := false, claimedTx := false
             ckpt := { p.ckpt with sent := [] }, jnl := { p.jnl with sent := [] }, map := { p.map with sent := [] } }
  let s2 := (s1.onIng fun i => { i with nextSeg := 0, teed := [], backlog := [], segfail := false }).onCmd fun u =>
    { u with cmds := u.cmds.map fun c => { c with segsOwed := [] } }
  let s3 := commitAlone (repairsLost (s2.onPwr fun p => { p with proposed := none }))
  ((s3.qpc.ctx.filter fun e => e.2.ackOwed).map (·.1)).foldl (fun s i => ackAll i s) s3

/-! ## The claim round -/

/-- The sole claim owed to a sled (R612). -/
def sendOwed (p : Nat) (s : State) : State := oslClaim p .owed ((s.claimEpoch + 1) * 256 + s.head) 2 0 s

/-- A round is won (R445, R612): the sleds that granted nothing are owed the claim, the dies held count as present; the head is Lone, and
activates, or in a solo start recovers first (R417, R449). -/
def roundWon (r : Round) (s : State) : State :=
  let owed := s.claimSleds.filter fun p => !r.granted.contains p
  let s1 := s.onPrt fun p => { p with claimOwed := owed }
  let s2 := (owed.filter fun p => (s1.port p).live).foldl (fun s p => sendOwed p s) s1
  let s3 := s.claimSleds.foldl (fun s p => refreshSled p s) s2
  if s.prt.pair = .paired then activate r.planned (enterLone s3)
  else startReplay ((enterLone s3).onPrt fun p => { p with activating := true })

/-- A round is decided (R444, R461): outcome 1 won, 2 lost, 3 won on a tie. -/
def roundOver (r : Round) (outcome : Nat) (s : State) : State :=
  let cause := match r.cause with
    | .partnerLost => 0
    | .linkLost => 1
    | .given => 2
    | .solo => 3
  let stat := min 63 r.granted.length + min 63 s.claimSleds.length * 2 ^ 6 + cause * 2 ^ 12 + outcome * 2 ^ 14
  let s1 := note 0x0D04 stat (s.onPrt fun p => { p with round := none, roundStat := BitVec.ofNat 16 stat })
  if outcome = 2 then enterFenced 0 s1 else roundWon r s1

/-- Decide a round whose claims have all completed, or whose CLAIM_WAIT is over (R444): more than half won; exactly half goes on with a
second part at the head with PREF_HEAD. -/
def decideRound (s : State) : State :=
  match s.prt.round with
  | none => s
  | some r =>
    let n := s.claimSleds.length
    let g := r.granted.length
    if n < 2 * g then roundOver r (if r.tie then 3 else 1) s
    else if r.tie ∨ 2 * g < n ∨ ¬ s.rst.prefHead then roundOver r 2 s
    else
      let set := s.claimSleds.filter fun p => !r.granted.contains p && (s.port p).live
      if set = [] then roundOver r 2 s
      else
        let s1 := s.onPrt fun p => { p with round := some { r with tie := true, waiting := set, epoch := r.epoch + 1 } }
        set.foldl (fun s p => oslClaim p .round ((r.epoch + 1) * 256 + s.head) 2 0 s) s1

/-- Start a claim round (R444): in the Paired state, or for the solo start of R449. -/
def startRound (cause : RoundCause) (planned : Bool) (s : State) : State :=
  let may : Bool := match s.prt.pair with
    | .paired => true
    | .joining => cause == .solo
    | _ => false
  if ¬ may ∨ s.prt.round.isSome then s
  else
    let e := s.claimEpoch + 1
    let set := s.claimSleds.filter fun p => (s.port p).live
    let r : Round := { cause := cause, epoch := e, waiting := set, granted := [], planned := planned }
    let s1 := s.onPrt fun p => { p with round := some r, rounds := satInc p.rounds, tkovStart := if planned ∨ cause = .solo then s.time else p.tkovStart }
    let s2 := set.foldl (fun s p => oslClaim p .round (e * 256 + s.head) 2 0 s) s1
    if set = [] then decideRound s2 else s2

/-- A sled's claim in a round is over, granted or not (R444). -/
def roundClaim (p num : Nat) (granted : Bool) (s : State) : State :=
  match s.prt.round with
  | none => s
  | some r =>
    if num / 256 ≠ r.epoch ∨ ¬ r.waiting.contains p then s
    else
      let r1 := { r with waiting := r.waiting.filter (· ≠ p), granted := if granted then r.granted ++ [p] else r.granted }
      let s1 := s.onPrt fun q => { q with round := some r1 }
      if r1.waiting = [] then decideRound s1 else s1

/-- A CLAIM has completed (R409, R416, R417, R444, R450, R612). A refusal counts in SLD_CLAIM_REFUSED, and the bridge's reply shows that the
claim held before is not current. `restart` carries the epoch of a refusal with DETAIL 1 to the join. -/
def claimDone (p : Nat) (why : ClaimFor) (num mode mask : Nat) (granted : Bool) (restart : Option Nat) (s : State) : State :=
  let s1 := if granted then onPort p (fun q => { q with grant := some (num, decide (mode = 2), if mode = 2 then 2 ^ 64 - 1 else mask)
                                                        current := true, holds := true, fenced := false }) s
    else (onPort p (fun q => { q with current := false, holds := false }) s).onSld fun l => { l with refused := satInc l.refused }
  match why with
  | .round =>
    let s2 := roundClaim p num granted s1
    if granted then refreshSled p (s2.onPrt fun q => { q with claimOwed := q.claimOwed.filter (· ≠ p) }) else s2
  | .owed => if granted then refreshSled p (s1.onPrt fun q => { q with claimOwed := q.claimOwed.filter (· ≠ p) }) else s1
  | .join =>
    let s2 := s1.onPrt fun q => { q with joinWait := q.joinWait.filter (· ≠ p) }
    if granted then refreshSled p (s2.onPrt fun q => { q with joinOwed := q.joinOwed.filter (· ≠ p) })
    else s2.onPrt fun q => { q with joinAgain := restart }
  | .again => if granted then refreshSled p s1 else s1

/-- CLAIM_WAIT has passed (R444, R450): a round is decided by the grants so far; join claims without a completion count as not held. -/
def claimWait (s : State) : State :=
  if s.prt.round.isSome then decideRound s else s.onPrt fun p => { p with joinWait := [] }

/-! ## Giving volumes -/

/-- The partner gives up its volumes (R442): a DP_DOWN or YIELD in HB_STATE, or a HANDOVER with argument 0. -/
def partnerGives (planned : Bool) (s : State) : State :=
  if s.prt.pair = .paired then startRound .given planned s else s

/-- Give this head's own volumes to the partner (R452): they are held, the last checkpoints go, HANDOVER goes on both links, and the head is
Fenced. -/
def giveVolumes (s : State) : State :=
  if s.prt.pair ≠ .paired ∨ s.prt.round.isSome then s
  else
    let s1 := checkpointBatch (s.onPrt fun p => { p with handover := true })
    enterFenced 3 (pulseCommand 4 0 (plControl 0x07 [0] s1))

/-! ## Judging the partner -/

/-- Everything the loss of the partner means besides the round (R442, R454): a fill or handback under way is discarded; volumes that were to
be handed back are this head's again, by a sole claim on every sled. -/
def partnerGone (s : State) : State :=
  match s.prt.pair with
  | .paired => startRound .partnerLost false s
  | .lone =>
    let claimed := s.prt.join = .handing && (s.prt.claimedTx || !s.prt.joinOwed.isEmpty)
    let s1 := s.onPrt fun p =>
      { p with join := .none, joinWait := [], joinOwed := [], peerHello := none, claimedTx := false, handover := false, syncedTx := false, syncedRx := false
               claimOwed := if claimed then s.claimSleds else p.claimOwed
               ckpt := { p.ckpt with sent := [] }, jnl := { p.jnl with sent := [] }, map := { p.map with sent := [] } }
    if claimed then (s.claimSleds.filter fun p => (s1.port p).live).foldl (fun s p => sendOwed p s) s1 else s1
  | .joining => shadowClear (s.onPrt fun p =>
      { p with join := .none, joinWait := [], joinOwed := [], claimedTx := false, syncedTx := false, syncedRx := false, fillWait := [], peerHello := none })
  | .fenced => s

/-- Judge the partner by the periods missed (R442). A head in Quiet or Dormant wakes first, and takes over once it is awake (R108,
R111). -/
def judge (s : State) : State :=
  let m := s.param P.hbMisses
  let low := s.pwr.state = .quiet ∨ s.pwr.state = .dormant
  let pl := decide (m ≤ s.prt.missPl) || low
  let pulse := decide (m ≤ s.prt.missPulse)
  if pl ∧ pulse then
    if s.prt.lostRaised ∨ ¬ s.prt.peerSeen then s
    else
      let s1 := raise 0x0D01 0 .all (s.onPrt fun p => { p with lostRaised := true, hbPl := none, hbPulse := none })
      if low then wake 5 s1 else partnerGone (wake 5 s1)
  else if pulse then
    if s.prt.pulseDown ∨ ¬ s.prt.peerSeen then s else note 0x0D03 0 (s.onPrt fun p => { p with pulseDown := true })
  else if pl ∧ ¬ low then
    if s.prt.plDown ∨ ¬ s.prt.peerSeen then s
    else note 0x0D02 0 (s.onPrt fun p => { p with plDown := true, hold := p.hold || p.pair == .paired })
  else s

/-- A period without a good heartbeat on a link (R442). -/
def periodMiss (pulse : Bool) (s : State) : State :=
  let both (p : Prt) : Nat := min p.missPl p.missPulse
  let s1 := s.onPrt fun p =>
    let q := if pulse then { p with missPulse := p.missPulse + 1 } else { p with missPl := p.missPl + 1 }
    { q with hbMiss := if both p < both q then satInc p.hbMiss else p.hbMiss }
  judge s1

/-- Whether a heartbeat count is above the last one seen (R442), in 32-bit sequence order. -/
def hbAbove (n : Nat) (last : Option Nat) : Bool :=
  match last with
  | some l => n != l && seqLe l n
  | none => true

/-- A heartbeat in a good frame (R442): a link judged down carries again, and a state that gives the partner's volumes up starts a round. -/
def heartbeat (pulse : Bool) (n st : Nat) (s : State) : State :=
  if ¬ hbAbove n (if pulse then s.prt.hbPulse else s.prt.hbPl) then s
  else
    let s1 := s.onPrt fun p =>
      { p with
        peerHb := if hbAbove n (some p.peerHb.toNat) || !p.peerSeen || p.lostRaised then BitVec.ofNat 32 n else p.peerHb
        peerState := BitVec.ofNat 8 st, peerSeen := true, lostRaised := false, tkovStart := if p.activating then p.tkovStart else s.time
        hbPl := if pulse then p.hbPl else some n, missPl := if pulse then p.missPl else 0, plDown := if pulse then p.plDown else false
        hbPulse := if pulse then some n else p.hbPulse, missPulse := if pulse then 0 else p.missPulse
        pulseDown := if pulse then false else p.pulseDown
        hold := if pulse then p.hold else false }
    let s2 := if s.prt.hold ∧ ¬ pulse then teeDrain s1 else s1
    if (bitAt st 4 ∨ bitAt st 5) ∧ s2.prt.pair = .paired then partnerGives false s2 else s2

end Sys2Proof.Machine
end

