-- ==== Sys2Proof/Machine/Cold.lean ====
section
/-! DEFINITION. The levels and causes of resets (R86 to R89, R118), what an L0 or L1 reset leaves (R117) and its release (R95, R597); the
activation of an update, its confirmation and its roll back, which end in an L1 reset (R568, R569). -/

namespace Sys2Proof.Machine

/-! ## Levels and causes -/

/-- Depth of a level, L0 the deepest (R86). -/
def Level.depth : Level → Nat
  | .l0 => 0
  | .l1 => 1
  | .l2 => 2
  | .l3 => 3

/-- A cause's bit in RST_CAUSE (R118). -/
def Cause.bit : Cause → Nat
  | .por => 0
  | .brownout => 1
  | .ext => 2
  | .wdog => 3
  | .partner => 4
  | .soft => 5
  | .therm => 6
  | .debug => 7
  | .clkfail => 8
  | .escalate => 9

/-- The level, and for L3 the target, that the part's fuse profile gives a source (R87); of a management soft reset, the deepest level. A
clock failure's level is given by its domain (R96). -/
def Part.levelOf (p : Part) : Cause → Level × Option Target
  | .por => (.l0, none)
  | .brownout => (.l0, none)
  | .wdog => if p.profile2 then (.l1, none) else (.l3, some .mgmt)
  | .partner => (if p.profile2 then .l2 else .l1, none)
  | .escalate => (.l1, none)
  | _ => (if p.profile2 then .l0 else .l1, none)

/-- The code of an L3 target in RST_SOFT and RST_LAST (R118). -/
def Target.code : Target → Nat
  | .fab => 0x00
  | .qpc => 0x01
  | .cmd => 0x02
  | .ing => 0x03
  | .fpr => 0x04
  | .cmp => 0x05
  | .cip => 0x06
  | .ftl => 0x07
  | .par => 0x08
  | .jnl => 0x09
  | .sld => 0x0A
  | .rpl => 0x0B
  | .adp => 0x0C
  | .mgmt => 0x1F

/-- The target a TARGET field names, none for a reserved one (R118). -/
def targetOf (n : Nat) : Option Target :=
  [Target.fab, .qpc, .cmd, .ing, .fpr, .cmp, .cip, .ftl, .par, .jnl, .sld, .rpl, .adp, .mgmt].find? fun t => t.code == n

/-- Whether a cause that lasts still holds the head in an L0 or L1 reset (R89, R90, R95, R96, R115). -/
def State.causesStand (s : State) : Bool :=
  !s.rst.aoRails || !s.rst.ref25 || s.rst.extHeld || s.rst.trip || s.rst.brown != 0

/-- The level of the reset in progress, if one is (R88). -/
def State.resetLevel (s : State) : Option Level :=
  match s.rst.stage with
  | .held => some s.rst.level
  | .por => some s.rst.level
  | .l2Clocks => some .l2
  | .l2Reread => some .l2
  | .run => if s.rst.l3Held = [] then none else some .l3
  | _ => none

/-! ## What L0 and L1 leave -/

/-- What is left of the media's own state after DRAM is lost (R117): wear, retired blocks and failed dies (DESIGN CHOICE, log entry 21). -/
def coldFtl (s : State) : Ftl :=
  { ({} : Ftl) with
    blks := tabMap (fun _ e =>
      { ({} : EBlk) with state := e.state, spare := e.spare, factory := e.factory, cause := e.cause, pe := e.pe, reads := e.reads }) (dropMaps s).ftl.blks
    dies := (s.ftl.dies.filter fun e => e.2.failed).map fun e => (e.1, { failed := true : DieSt }) }

/-- The state that an L0 or L1 reset leaves (R86, R117): the pins and the part as they are, and at L1 the sticky fields, the claim state and
the timestamp counter. -/
def State.cold (l : Level) (s : State) : State :=
  let l1 := l == .l1
  { part := s.part
    rst := { level := l, newCause := s.rst.newCause, aoRails := s.rst.aoRails, ref25 := s.rst.ref25, extHeld := s.rst.extHeld, trip := s.rst.trip
             brown := s.rst.brown, cause := if l1 then s.rst.cause else 0, countL1 := if l1 then s.rst.countL1 else 0
             countL2 := if l1 then s.rst.countL2 else 0, countL3 := if l1 then s.rst.countL3 else 0 }
    clk := { good := if l1 then s.clk.good &&& 1 else 0, ref156 := s.clk.ref156, ref100 := s.clk.ref100 }
    pwr := { railLow := s.pwr.railLow, warnLow := s.pwr.warnLow }
    evr := { sseq := s.evr.sseq }
    upd := if l1 then
        { other := s.upd.other, pend := s.upd.pend, pendSlot := s.upd.pendSlot, pendSeq := s.upd.pendSeq, confirmed := s.upd.confirmed
          updId := if s.upd.pend then s.upd.updId else 0, updating := s.upd.pend }
      else { other := s.upd.other }
    cip := { clearedCause := some 0 }
    ftl := coldFtl s
    sld := { ports := (s.sld.ports.filter fun e => e.2.raw).map fun e => (e.1, { raw := true : SledPort }), epoch := if l1 then s.sld.epoch else 0 }
    time := if l1 then s.time else 0
    tx := s.tx
    free := s.free
    pending := s.pending }

/-- The always-on domain is released (R95 steps 1 and 2): RST_CAUSE and RST_COUNT, and the wait of R597 begins. -/
def aoRelease (s : State) : State :=
  let l1 := s.rst.level == .l1
  let s1 := s.onRst fun r =>
    { r with stage := .railWait, aoUp := true, cause := if l1 then r.cause ||| r.newCause else r.newCause, newCause := 0, lastTarget := 0
             countL1 := if l1 then satInc r.countL1 else r.countL1 }
  measureRom ((s1.onClk fun c => { c with good := c.good ||| 1 }).onCfg fun c => { c with loadStart := s.time })

/-- A held reset goes on once its last cause has ended: at L0 tPOR runs, at L1 the always-on domain is released (R95 step 1). -/
def tryRelease (s : State) : State :=
  if s.rst.stage ≠ .held ∨ s.causesStand then s
  else if s.rst.level = .l0 then s.onRst fun r => { r with stage := .por }
  else aoRelease s

/-- Begin, or deepen, an L0 or L1 reset (R86, R88). -/
def startCold (l : Level) (s : State) : State := tryRelease (s.cold l)

/-- Note a cause of an L0 or L1 reset for its release, of a shallower one in RST_CAUSE at once (R118). -/
def addCause (l : Level) (c : Cause) (s : State) : State :=
  s.onRst fun r => { r with newCause := setBit r.newCause c.bit true, cause := if l.depth < 2 then r.cause else setBit r.cause c.bit true }

/-! ## Option bytes of an update -/

/-- Option bytes with another slot and UPDATE_SEQ (R568 step 4). -/
def optWith (b : Bytes) (slotB : Bool) (seq : Nat) : Bytes :=
  withCrc (b.take 9 ++ [if slotB then 1 else 0] ++ slice b 10 26 ++ leBytes 4 seq ++ slice b 40 20)

/-- Write option bytes to a device and read them back (R568 step 4). -/
def writeOptions (d : Device) (b : Bytes) (s : State) : State :=
  ((s.send (.spi d (.eraseSector 0))).send (.spi d (.program 0 b))).send (.spi d (.readBack 0 64))

/-- The update unit asks for an L1 reset (R568 to R570). DEDUCED (log entry 36): it is recorded as a management soft reset. -/
def requestL1 (s : State) : State := startCold .l1 (addCause .l1 .soft s)

/-! ## Activation and confirmation -/

/-- The image in force, as the slot that holds it would be rolled back to (R569). -/
def State.activeImage (s : State) : Option Verified := s.cfg.img.map fun i => { seq := i.seq, digest := i.digest, keyId := i.keyId }

/-- Why a staged image cannot be activated now, as UPD_STAT.DENY encodes it (R568, R583): 0 if it can. -/
def State.updStops (s : State) : Nat :=
  if s.prt.pair ≠ .paired then 1 else if s.pwr.hold then 2 else if s.prt.round.isSome then 3 else 0

/-- Activate the staged image (R568): PEND with the old slot, the volumes handed over, the primary's option bytes rewritten, an L1 reset. -/
def updActivate (s : State) : State :=
  match s.upd.stagedImg with
  | none => s.onUpd fun u => { u with deny := 5 }
  | some v =>
    if s.updStops ≠ 0 then s.onUpd fun u => { u with deny := BitVec.ofNat 3 s.updStops }
    else
      let s1 := s.onUpd fun u =>
        { u with state := .actHold, updating := true, autoReady := false, pend := true, pendSlot := s.cfg.slotB
                 pendSeq := BitVec.ofNat 24 ((s.cfg.img.map (·.seq)).getD 0), updId := word v.seq, other := s.activeImage, stagedImg := none }
      requestL1 (writeOptions .primary (optWith s.cfg.opt (!s.cfg.slotB) v.seq) (giveVolumes s1))

/-- Activation by the automatic condition of R568, tried again when what refused it has ended. -/
def updRetry (s : State) : State :=
  if s.upd.autoReady ∧ s.upd.state = .staged ∧ s.flag P.updAutoActivate ∧ s.updStops = 0 then updActivate s else s

/-- Head 1 that has confirmed its update tells head 0, at the time and at the start of every later session (R568). -/
def sendUpdDone (s : State) : State :=
  match s.cfg.img with
  | some i => if s.upd.confirmed ∧ s.head = 1 then plControl 0x09 (leBytes 4 i.seq) s else s
  | none => s

/-- The confirmation of R568, as the head reaches Paired: the alternate takes the same option bytes, PEND clears. -/
def updConfirm (s : State) : State :=
  match s.cfg.img with
  | some i =>
    if s.upd.pend ∧ s.upd.state = .confirming ∧ s.cfg.src = .primary ∧ i.seq = s.upd.updId.toNat then
      let s1 := writeOptions .alternate s.cfg.opt s
      sendUpdDone (raise 0x100F i.seq .all (s1.onUpd fun u =>
        { u with state := .idle, updating := false, pend := false, pendSlot := false, pendSeq := 0, confirmed := true }))
    else s
  | none => s

/-- Put the option bytes of the old image back into the primary (R569). -/
def writeOldOptions (s : State) : State := writeOptions .primary (optWith s.cfg.opt s.upd.pendSlot s.upd.pendSeq.toNat) s

/-- Roll an update back (R569): after a load from the alternate the head is on its old image and goes on; otherwise it hands its volumes
over, and an L1 reset follows. -/
def updRollBack (s : State) : State :=
  let alt := decide (s.cfg.src = .alternate)
  let s1 := raise 0x1010 (b2n !alt) .all (s.onUpd fun u => { u with fail := 10, state := .idle })
  let clear (s : State) : State := s.onUpd fun u => { u with pend := false, pendSlot := false, pendSeq := 0, updating := false }
  if alt then clear (writeOldOptions s1)
  else requestL1 (clear (writeOldOptions (giveVolumes (s1.onUpd fun u => { u with other := s.activeImage }))))

end Sys2Proof.Machine
end

