-- ==== Sys2Proof/Machine/Power.lean ====
section
/-! DEFINITION. Requests for a power state (R106, R107, R119, R121): what refuses them, and how a pair agrees on one. -/

namespace Sys2Proof.Machine

/-- The state a TARGET names (R118). -/
def powerOf (n : Nat) : Power :=
  match n % 4 with
  | 0 => .run
  | 1 => .armed
  | 2 => .quiet
  | _ => .dormant

/-- Why the head cannot enter a state below Run, as PWR_STAT.DENY encodes it, 0 if it can (R106, R107, R118, R119, R121). Where several hold,
the first in this order is reported (DESIGN CHOICE, log entry 38). -/
def State.powerDeny (s : State) (p : Power) : Nat :=
  let barred := (p = .quiet ∧ ¬ s.flag P.quietAllow) ∨ (p = .dormant ∧ ¬ s.flag P.dormantAllow)
  let pairing : Bool := match s.prt.pair with
    | .joining => true
    | .fenced => p == .armed
    | _ => false
  let tops := s.blockTops.filter fun u => s.ownerOf u == s.head || s.prt.pair == .lone
  let moving := (s.rpl.sources.any fun e => e.2.nextMnum.isSome) || s.rpl.replicas.any fun e => e.2.begun.isSome
  if s.pwr.hold then 6
  else if barred then 9
  else if pairing then 5
  else if s.cmd.cmds ≠ [] then 1
  else if s.ing.buf ≠ [] ∨ s.dirtyNow ≠ 0 ∨ s.jnl.recs ≠ [] ∨ s.jnl.waiting ≠ [] then 2
  else if s.par.rebuilds ≠ [] then 3
  else if tops.any fun u => decide (s.freeLevel u ≤ s.param P.gcStartFree) then 7
  else if moving then 8
  else 0

/-- A state below Run is requested (R106, R107): refused with its reason, proposed to the partner in the Paired state, or entered. A state that
is no deeper than the present one changes nothing, nor does a request while another is under way (DESIGN CHOICE, log entry 38). -/
def powerRequest (p : Power) (s : State) : State :=
  if s.rst.stage ≠ .run ∨ s.pwr.transit.isSome ∨ s.pwr.proposed.isSome ∨ powerCode p ≤ powerCode s.pwr.state then s
  else if s.powerDeny p ≠ 0 then s.onPwr fun x => { x with deny := BitVec.ofNat 4 (s.powerDeny p) }
  else if s.prt.pair = .paired then plControl 0x05 (leBytes 1 (powerCode p) ++ [0]) (s.onPwr fun x => { x with proposed := some p })
  else s.onPwr fun x => { x with transit := some p }

/-- A POWER control word (R106): 0 a proposal, answered with agreement or refusal; 1 and 2 the answers. -/
def powerWord (p : Power) (kind : Nat) (s : State) : State :=
  if s.prt.pair ≠ .paired ∨ p = .run then s
  else
    let begin_ (s : State) : State := s.onPwr fun x => { x with transit := some p, proposed := none }
    if kind = 0 then
      let fits := s.rst.stage = .run ∧ (s.pwr.transit.isNone ∨ s.pwr.transit = some p) ∧ powerCode s.pwr.state < powerCode p ∧ s.powerDeny p = 0
      if fits then begin_ (plControl 0x05 (leBytes 1 (powerCode p) ++ [1]) s) else plControl 0x05 (leBytes 1 (powerCode p) ++ [2]) s
    else if s.pwr.proposed ≠ some p then s
    else if kind = 1 then begin_ s
    else s.onPwr fun x => { x with proposed := none, deny := 4 }

/-- An UPD_DONE control word (R568): head 0 activates its staged image of that UPD_ID, now or when what refuses it has ended. -/
def updDone (id : Nat) (s : State) : State :=
  if s.head = 0 ∧ s.upd.state = .staged ∧ s.upd.updId.toNat = id then updRetry (s.onUpd fun u => { u with autoReady := true }) else s

end Sys2Proof.Machine
end

