-- ==== Sys2Proof/Machine/Join.lean ====
section
/-! DEFINITION. Forming the pair, the fill and the handback (R450, R451, R454), the start alone (R449), and what joins, recoveries and
resynchronisations have come to after every command. -/

namespace Sys2Proof.Machine

/-- Send a message of the reply class, which no header acknowledges (R435). -/
def plReply (mtype : Nat) (body : Bytes) (s : State) : State :=
  plFrame (plMsgBytes mtype s.prt.reply.next body)
    (s.onPrt fun p => { p with reply := { p.reply with next := (p.reply.next + 1) % 2 ^ 32 } })

/-- HELLO (R436, R450). -/
def sendHello (s : State) : State :=
  plRecords 0x06 [leBytes 8 s.arrayId ++ leBytes 1 s.head ++ leBytes 1 (pairCode s.prt.pair) ++ [0, 0] ++ leBytes 8 s.sld.epoch.toNat] .none s

/-! ## Entering Paired -/

/-- Mirror a connection and what it has outstanding to a partner that does not hold it (R439, R613). -/
def mirrorCtx (idx : Nat) (s : State) : State :=
  match tabGet idx s.qpc.ctx with
  | none => s
  | some c =>
    if c.state = .connecting then s
    else
      let q := qpnOf idx c
      let s1 := plRecords 0x07 [s.connRecord idx c] .none s
      let s2 := onCtxQuiet idx (fun c => { c with changed := false, ckptSeq := c.ckptSeq + 1
                                                  ckpts := [{ seq := c.ckptSeq + 1, rxNext := c.rxNext, rxSet := c.rxSet, rxMsg := c.rxMsg, time := s.time }] }) s1
      let s3 := plRecords 0x01 [ckptRecord idx c (c.ckptSeq + 1)] (.ckpts [(idx, c.ckptSeq + 1)]) s2
      c.sent.foldl (fun s o => match o.body with
        | .send m => plRecords 0x04 [outRecord q 1 o.num 1 0 m] .none s
        | _ => s) s3

/-- Mirror a command, its windows and the data of it that is not complete (R439). -/
def mirrorWhole (acc : Nat) (s : State) : State :=
  match s.cmdAt acc with
  | none => s
  | some c =>
    if ¬ c.recorded ∨ c.orphan then s
    else
      let all := c.takesData && c.namedBytes == c.len && s.allComplete acc && c.fail.isNone && decide (c.phase = .finishing)
      let s1 := plRecords 0x02 [cmdRecord c (if all then 2 else 1) 0] .none s
      let s2 := (s.winsOf acc).foldl (fun s (i, w) => plRecords 0x03 [winRecord c (if w.complete then 2 else 1) i w] .none s) s1
      let lot := (s.ctxAt c.qpn).any (·.2.lot)
      let stream := (s.volOf c).any (·.stream)
      let frags := (s.ing.frags.filter (·.acc == acc)).map fun f => (f.off, f.data)
      let bufs := (s.ing.buf.filter fun b => b.acc == acc && !b.plain.isEmpty).map fun b => (b.num * 4096, b.plain.take (c.len - b.num * 4096))
      let s3 := (frags ++ bufs).foldl (fun s e => tee c lot stream false e.1 e.2 s) s2
      chg acc (fun c => { c with needCkpt := if c.needCkpt.isSome then (s3.ctxAt c.qpn).map (·.2.ckptSeq) else none }) s3

/-- Enter Paired (R450 step 5, R451 step 6): segments are numbered from 0, and what the head has under way is mirrored. -/
def enterPaired (s : State) : State :=
  let s1 := s.onPrt fun p =>
    { p with pair := .paired, join := .none, joinEpoch := 0, claimedTx := false, syncedTx := false, syncedRx := false, hold := false
             handover := false, activating := false, fillWait := [], peerHello := none, probes := [] }
  let s2 := s1.onIng fun i => { i with nextSeg := 0, teed := [], backlog := [] }
  let mine := s.jnl.recs.filter fun e => s.ownerOf e.1.1 == s.head
  let others := s.jnl.recs.filter fun e => s.ownerOf e.1.1 != s.head
  let spans := s.jnl.spans.filter fun e => s.ownerOf e.1.1 != s.head
  let peer := others.map (fun e => (e.2.recSeq, e.2.bytes e.1.1 e.1.2)) ++ spans.map fun e => (e.2.recSeq, e.2.bytes e.1.1 e.1.2)
  let s3 := s2.onJnl fun j => { j with recs := mine, spans := j.spans.filter fun e => s.ownerOf e.1.1 == s.head, peer := j.peer ++ peer }
  let s4 := note 0x0D06 0 s3
  let s5 := (s4.qpc.ctx.map (·.1)).foldl (fun s i => mirrorCtx i s) s4
  updConfirm (openTargets ((s5.cmd.cmds.map (·.acc)).foldl (fun s a => mirrorWhole a s) s5))

/-! ## The join claims -/

/-- The dies of a sled that are this head's own, as a MASK (R450). -/
def State.ownMask (s : State) (p : Nat) : Nat :=
  ((s.portDies p).filter fun d => s.ownerOf d == s.head).foldl (fun a d => a + 2 ^ (((s.unit d).getD {}).die)) 0

/-- Send the join claims at an epoch (R450 step 2, R451): to every configured sled that is up; the others are owed theirs. -/
def joinClaims (e : Nat) (s : State) : State :=
  let live := s.claimSleds.filter fun p => (s.port p).live
  let s1 := s.onPrt fun p => { p with joinEpoch := e, joinAgain := none, joinWait := live, joinOwed := s.claimSleds, claimOwed := [], claimedTx := false }
  live.foldl (fun s p => oslClaim p .join (e * 256 + s.head) 1 (s.ownMask p) s) s1

/-- Send a sled the join claim it is owed, when its port is up (R450 step 2). -/
def sendJoinOwed (p : Nat) (s : State) : State := oslClaim p .join (s.prt.joinEpoch * 256 + s.head) 1 (s.ownMask p) s

/-- Tell the partner that the join claims are made (R450, R451); the dies of a sled not held count as missing. -/
def sendClaimed (s : State) : State :=
  let s1 := plControl 0x08 (leBytes 4 s.prt.joinEpoch) (s.onPrt fun p => { p with claimedTx := true })
  s.prt.joinOwed.foldl (fun s p => refreshSled p s) s1

/-! ## The fill -/

/-- Everything a head's maps hold, as the changes that make it again (R451 step 1). -/
def State.fillItems (s : State) : List LogItem :=
  let segs := s.ftl.segs.flatMap fun e =>
    let (top, m) := e.1
    ((s.liveDies top).filterMap fun d => (s.blockOf (s.dieName d) m).map fun b => LogItem.segment top m (s.dieName d) b 0 e.2.seq)
      ++ (s.currentItem (.segment top m 0)).toList
      ++ (if e.2.state = .full then (s.currentItem (.valid top m)).toList else [])
  let takes := s.ftl.takes.flatMap fun e =>
    let (v, t) := e.1
    (s.currentItem (.take v t)).toList ++ (s.currentItem (.takeSegs v t)).toList ++ e.2.frames.map fun f => LogItem.frame v t f.1 f.2
  let shares := s.ftl.shares.map fun e => LogItem.share e.1 e.2.loc e.2.refs
  let pages := ((s.ftl.map.map fun e => (e.1.1, e.1.2 / pageWords)).eraseDups).flatMap fun e => (s.currentItem (.page e.1 0 e.2)).toList
  let views := s.rpl.pages.map fun e => LogItem.page (((tabGet e.1.1 s.rpl.snaps).map (·.vol)).getD 0) e.1.1 e.1.2 e.2
  let snaps := s.rpl.snaps.map fun e => LogItem.snap e.1 (e.2.record e.1 false)
  segs ++ shares ++ pages ++ takes ++ snaps ++ views

/-- The head whose log an item of the maps enters (R611). -/
def State.itemOwner (s : State) (i : LogItem) : Nat :=
  let (ty, vol, _, e) := i.parts
  if (entryLen ty).isSome then s.entryOwner ty e else s.volOwner (vol % 2 ^ 12)

/-- The bodies of MAP messages that carry items of one head's log, up to 126 entries of one TYPE in each (R333, R436). -/
def State.mapBodies (s : State) (q : Nat) (is : List LogItem) : List Bytes :=
  let ps := is.map fun i => (s.written i).parts
  ([3, 4, 7, 5, 9].flatMap fun ty =>
    let es := ps.filter fun p => p.1 == ty
    (chunks 126 (es.length + 1) es).map fun g =>
      let body := (g.map (·.2.2.2)).flatten
      logHeader ty g.length 0xFFFF q 0 0 body ++ body)
    ++ (ps.filter fun p => (entryLen p.1).isNone).flatMap fun (ty, vol, key, e) => (itemBlocks q ty vol key e).map fun (_, hd, c) => hd ++ c

/-- What makes a head's maps again, as the bodies of MAP messages. -/
def State.stateBodies (s : State) (h : Nat) : List Bytes :=
  s.mapBodies (s.lastLog h) (s.fillItems.filter fun i => s.itemOwner i == h)

/-- A head that has recovered its own state and enters Paired with a partner that did the same (R450) sends it what the Cloak is to hold
of it (R439): its maps, stripe records and span entries (DESIGN CHOICE, log entry 101). -/
def mirrorState (s : State) : State :=
  let s1 := (s.stateBodies s.head).foldl (fun s b => plSend .map 0x20 b (.mapUpTo (s.lastLog s.head)) s) s
  let entries := s.jnl.recs.map (fun e => e.2.bytes e.1.1 e.1.2) ++ s.jnl.spans.map fun e => e.2.bytes e.1.1 e.1.2
  entries.foldl (fun s e => plSend .jnl 0x10 e .none s) s1

/-- A FILL message (DESIGN CHOICE, log entry 27: its body's layout is not given): the kind, 1 the body of a MAP message, 2 a journal block, 3 the end,
4 a request for what an uncorrectable line held (R500) and 5 its answer, seven reserved bytes, and the block. -/
def sendFill (kind : Nat) (block : Bytes) (s : State) : State := plReply 0x40 (leBytes 1 kind ++ List.replicate 7 0 ++ block) s

/-- Fill a Joining partner (R451 step 1): from here on every change goes to it as well. -/
def startFill (s : State) : State :=
  let s1 := shadowClear (s.onPrt fun p => { p with join := .filling, joinEpoch := 0, syncedTx := false, syncedRx := false, claimedTx := false })
  let blocks := s1.stateBodies s.head ++ s1.stateBodies s.peerHead
  let entries := s.jnl.recs.map (fun e => e.2.bytes e.1.1 e.1.2) ++ s.jnl.spans.map fun e => e.2.bytes e.1.1 e.1.2
  let jblocks := (chunks 63 (entries.length + 1) entries).map fun es => jnlBlock s.head 0 es
  let s2 := blocks.foldl (fun s b => sendFill 1 b s) s1
  let s3 := jblocks.foldl (fun s b => sendFill 2 b s) s2
  sendFill 3 (List.replicate 4096 0) s3

/-- An entry of the journal that comes to a head being filled: its own top units' and spans' entries become its own, the others are the
partner's (R451 step 1). -/
def fillEntry (e : Bytes) (s : State) : State :=
  if ¬ entryGood e then s
  else if s.ownerOf (fieldLe e 2 2) ≠ s.head then peerEntry e s
  else if fieldLe e 0 1 = 3 then s.onJnl fun j => { j with recs := tabDel (fieldLe e 2 2, fieldLe e 8 4) j.recs }
  else takeEntries [e] s

/-- A MAP or JNL body that comes to a head being filled. -/
def fillChange (map : Bool) (body : Bytes) (s : State) : State :=
  if map then applyLog body s else (recordsOf 64 body).foldl (fun s e => fillEntry e s) s

/-- A FILL message (R451): blocks are applied as they come; with the end the changes that waited are, and the head then holds the whole
state. -/
def fillIn (body : Bytes) (s : State) : State :=
  if fieldLe body 0 1 = 4 then (if s.prt.pair = .paired then sendFill 5 (body.drop 8) s else s)
  else if s.prt.pair ≠ .joining ∨ s.prt.join ≠ .filled ∨ s.ftl.ready then s
  else match fieldLe body 0 1 with
    | 1 => applyLog (body.drop 8) s
    | 2 => (jnlEntries (body.drop 8)).foldl (fun s e => fillEntry e s) s
    | 3 =>
      let s1 := s.prt.fillWait.foldl (fun s e => fillChange e.1 e.2 s) (s.onPrt fun p => { p with fillWait := [] })
      let s2 := resumeReplication ((recountValid s1).onFtl fun f => { f with ready := true, replay := false, noLog := false })
      plControl 0x06 [] (s2.onPrt fun p => { p with syncedTx := true })
    | _ => s

/-- A change that comes to a head being filled: applied once the fill is whole (R451 steps 1 and 2). -/
def filledChange (map : Bool) (body : Bytes) (s : State) : State :=
  if s.ftl.ready then fillChange map body s else s.onPrt fun p => { p with fillWait := p.fillWait ++ [(map, body)] }

/-! ## The handback -/

/-- The handback begins at the Lone head (R451 step 3): the volumes of the joining head's dies are held, the final records of the
connections on its addresses go, and HANDOVER with argument 1. -/
def startHandback (s : State) : State :=
  if s.prt.pair ≠ .lone ∨ s.prt.join ≠ .filling ∨ ¬ s.prt.syncedRx ∨ s.prt.handover then s
  else
    let s1 := (shadowClear (s.onPrt fun p => { p with handover := true })).onIng fun i => { i with nextSeg := 0, teed := [], backlog := [] }
    let taken := s1.qpc.ctx.filter (·.2.taken)
    let qs := taken.map fun e => qpnOf e.1 e.2
    let s2 := taken.foldl (fun s e => mirrorCtx e.1 s) (s1.onPrt fun p => { p with pair := .paired })
    let s3 := ((s2.cmd.cmds.filter fun c => qs.contains c.qpn).map (·.acc)).foldl (fun s a => mirrorWhole a s) s2
    forceLog s.peerHead (plControl 0x07 [1] (s3.onPrt fun p => { p with pair := .lone }))

/-- Whether everything the Lone head changed of the partner's volumes is durable on the partner's bands (R611). -/
def State.partnerDurable (s : State) : Bool :=
  let l := s.mapLog s.peerHead
  l.openRow.isEmpty && l.rows.all (·.done) && s.ing.buf.all (fun b => !b.visible || b.dead || b.seqAt.isSome || s.volOwner b.addr.volume == s.head)

/-- The Lone head gives up the connections and commands of the addresses it hands back (R451 step 5, R157): what they hold is the joining
head's now. -/
def releaseTaken (s : State) : State :=
  let taken := s.qpc.ctx.filter (·.2.taken)
  let qs := taken.map fun e => qpnOf e.1 e.2
  let gone := s.cmd.cmds.filter fun c => qs.contains c.qpn
  let s1 := gone.foldl (fun s c => match s.volOf c with
    | some v => onTop v.topUnit (fun t => { t with reserved := tabDel c.acc t.reserved }) (dropData c.acc c.volId s)
    | none => dropData c.acc c.volId s) s
  let accs := gone.map (·.acc)
  let s2 := s1.onCmd fun u => { u with cmds := u.cmds.filter fun c => !accs.contains c.acc, wins := u.wins.filter fun w => !accs.contains w.2.acc }
  let s3 := s2.onFtl fun f => { f with takes := tabMap (fun _ t =>
    { t with pending := t.pending.filter fun e => !accs.contains e.2, drafts := t.drafts.filter fun e => !accs.contains e.1
             row := t.row.filter fun e => !accs.contains e.1 }) f.takes }
  let idxs := taken.map (·.1)
  let s4 := s3.onQpc fun q =>
    { q with ctx := q.ctx.filter fun e => !e.2.taken, cache := q.cache.filter fun e => !idxs.contains e.1
             miss := q.miss.filter fun m => !idxs.contains m.2.1, fetching := q.fetching.filter fun f => !idxs.contains f.1 }
  let subs := setBits s4.fab.addrTaken
  subs.foldl (fun s p => raise 0x0107 p .all (s.onFab fun f =>
    { f with addrTaken := setBit f.addrTaken p false, addrWait := setBit f.addrWait p false, announces := tabDel p f.announces })) s4

/-- The joining head takes its volumes and addresses back (R451 step 5): it activates under R446 steps 3 to 5 for its own volumes, and both
are Paired. -/
def takeBack (s : State) : State :=
  let tops := s.segUnits
  let s1 := resumeTakes (fun v => s.volOwner v == s.head) (closeOpenSegs tops (reopenRows tops s))
  let s2 := enterPaired (carryOn true (recomputeHealth s1))
  let subs := (List.range 16).filter fun n => s2.subIsUp n && (s2.cfg.img.any fun i => i.addrs.any fun a => a.head == s2.head && a.port == n)
  let s3 := subs.foldl (fun s n => announce n (s.onFab fun f => { f with announces := tabPut n 0 f.announces })) s2
  let ns := satN 32 (s.since s.prt.tkovStart * 20)
  let s4 := s3.onPrt fun p => { p with tkovLast := word ns, tkovMax := word (max p.tkovMax.toNat ns) }
  note 0x0D08 1 (resumeRebuilds (closeReopened tops s4))

/-! ## What comes next -/

/-- A HELLO (R450): two heads with different arrays or the same HEAD_ID stay Joining. -/
def helloIn (body : Bytes) (s : State) : State :=
  let h := (fieldLe body 0 8, fieldLe body 8 1, fieldLe body 9 1, fieldLe body 12 8)
  let bad := b2n (h.1 ≠ s.arrayId) + 2 * b2n (h.2.1 = s.head)
  let s1 := s.onPrt fun p => { p with peerHello := some h }
  if bad ≠ 0 then note 0x0D0D bad s1 else s1

/-- Begin what the two HELLOs call for (R450, R451). -/
def joinBegin (s : State) : State :=
  match s.prt.peerHello with
  | none => s
  | some (arr, hd, st, num) =>
    if arr ≠ s.arrayId ∨ hd = s.head ∨ s.prt.session.isNone ∨ s.prt.round.isSome ∨ s.prt.activating then s
    else match s.prt.pair, st with
      | .joining, 0 =>
        let e := max s.claimEpoch (num / 256) + 1
        if s.head = 0 then joinClaims e (s.onPrt fun p => { p with join := .claiming })
        else s.onPrt fun p => { p with join := .waitTurn, joinEpoch := 0, claimedTx := false }
      | .joining, 2 => (dropMaps s).onPrt fun p => { p with join := .filled, joinEpoch := 0, claimedTx := false, fillWait := [] }
      | .lone, 0 => if s.ftl.ready then startFill s else s
      | _, _ => s

/-- CLAIMED (R450, R451): head 1's turn in a join, and the joining head's in a handback; a higher epoch than this head's own makes it claim
again at that one. -/
def claimedIn (e : Nat) (s : State) : State :=
  match s.prt.join with
  | .waitTurn => joinClaims e (s.onPrt fun p => { p with join := .claiming })
  | .claiming =>
    if s.prt.joinEpoch < e then joinClaims e s
    else if s.prt.claimedTx then startReplay (s.onPrt fun p => { p with join := .recovering })
    else s
  | .recovering => if s.prt.joinEpoch < e then joinClaims e (s.onPrt fun p => { p with join := .claiming }) else s
  | .filled => if s.prt.syncedTx then joinClaims e (s.onPrt fun p => { p with join := .taking }) else s
  | .taking => if s.prt.joinEpoch < e then joinClaims e s else s
  | .handing => if s.prt.joinEpoch < e then joinClaims e s else s
  | _ => s

/-- Carry a join, fill or handback on as far as it goes (R450, R451). -/
def joinStep (s : State) : State :=
  match s.prt.joinAgain with
  | some e => joinClaims (max s.prt.joinEpoch (e + 1)) s
  | none => match s.prt.join with
    | .none => joinBegin s
    | .waitTurn => s
    | .claiming =>
      if s.prt.joinWait ≠ [] ∨ s.prt.claimedTx then s
      else
        let s1 := sendClaimed s
        if s.head = 0 then s1 else startReplay (s1.onPrt fun p => { p with join := .recovering })
    | .recovering => if s.ftl.ready then plControl 0x06 [] (s.onPrt fun p => { p with join := .synced, syncedTx := true }) else s
    | .synced => if s.prt.syncedRx then mirrorState (enterPaired s) else s
    | .filled => s
    | .filling =>
      if s.prt.handover then
        if s.partnerDurable then joinClaims (s.claimEpoch + 1) (s.onPrt fun p => { p with join := .handing }) else s
      else if s.prt.syncedRx ∧ s.flag P.handbackAuto then startHandback s
      else s
    | .handing =>
      if s.prt.claimedTx then
        if s.prt.peerState.toNat % 4 = 1 then note 0x0D08 1 (enterPaired (releaseTaken s)) else s
      else if s.prt.joinWait = [] then sendClaimed s
      else s
    | .taking => if s.prt.joinWait = [] ∧ ¬ s.prt.claimedTx then takeBack (sendClaimed s) else s

/-- The end of a solo start (R417, R449): once both heads' state is recovered, the head serves every volume and takes the partner's
addresses. -/
def soloStep (s : State) : State :=
  if s.prt.pair = .lone ∧ s.prt.activating ∧ s.ftl.ready then takeoverDone (takeAddrs s) else s

/-- RESYNC_DONE (R421, R430): a port leaves the resynchronising state once none of its dies is owed anything. -/
def resyncStep (p : Nat) (s : State) : State :=
  if (s.port p).state = .resync ∧ ¬ (s.par.resyncs.any fun e => e.1 / 64 == p) then
    recomputeHealth (note 0x0C06 p (onPort p (fun q => { q with state := .l0, missed := [] }) s))
  else s

/-- What recoveries, joins and resynchronisations have come to. -/
def linkSteps (s : State) : State :=
  let s1 := (s.sld.ports.map (·.1)).foldl (fun s p => resyncStep p s) (if s.ftl.replay then stepReplay s else s)
  soloStep (joinStep s1)

/-- Everything that follows from a command on the links to the sleds and the partner. -/
def afterP (s : State) : State := updRetry (after (linkSteps (after s)))

/-- FTL_REPLAY_DONE (R337, R377). -/
def execFtlReplayDone (mapBlocks jnlBlocks : List Bytes) (used : List (Nat × Nat × Nat)) (s : State) : Host.Outcome State Fault Refusal :=
  .next (afterP (replayDone mapBlocks jnlBlocks used s))

/-- FORMAT_DONE (R324). -/
def execFormatDone (s : State) : Host.Outcome State Fault Refusal := .next (afterP (formatDone s))

/-! ## Starting alone -/

/-- JOIN_WAIT has passed without a good heartbeat (R449): every configured sled is asked for the claim it last saw. -/
def joinWaitOver (s : State) : State :=
  if s.prt.pair ≠ .joining ∨ s.prt.peerSeen ∨ s.prt.round.isSome ∨ ¬ s.rst.dpUp ∨ s.prt.soloWait ≠ [] then s
  else
    let live := s.claimSleds.filter fun p => (s.port p).live
    live.foldl (fun s p => oslIdentify p .soloIdentify s) (s.onPrt fun p => { p with soloReads := [], soloWait := live })

/-- Decide a solo start once every sled has answered (R449). -/
def soloDecide (s : State) : State :=
  if s.prt.soloWait ≠ [] then s
  else
    let n := s.prt.soloReads.countP fun e => decide (256 ≤ e.2) && decide (e.2 % 256 = s.peerHead)
    let s1 := s.onPrt fun p => { p with soloReads := [] }
    if 2 * n ≤ s.claimSleds.length then startRound .solo false s1 else note 0x0D09 (min 63 n) s1

/-- The CLAIM field of a sled's IDENTIFY reply for the solo start (R449). -/
def soloRead (p num : Nat) (s : State) : State :=
  if ¬ s.prt.soloWait.contains p then s
  else soloDecide (s.onPrt fun q => { q with soloWait := q.soloWait.filter (· ≠ p), soloReads := tabPut p num q.soloReads })

/-- JOIN_WAIT_EXPIRY. -/
def execJoinWaitExpiry (s : State) : Host.Outcome State Fault Refusal :=
  .next (afterP (let s1 := joinWaitOver s
    if s1.prt.pair = .joining ∧ ¬ s.prt.peerSeen ∧ s.rst.dpUp ∧ s1.prt.soloWait = [] ∧ s1.prt.round.isNone then soloDecide s1 else s1))

end Sys2Proof.Machine
end

