-- ==== Sys2Proof/Machine/PlinkIn.lean ====
section
/-! DEFINITION. The partner link and the pulse link: sessions, frames, messages, control words, heartbeats, and the commands of PRT_CTRL;
chapter 12. -/

namespace Sys2Proof.Machine

/-! ## Groups and sessions -/

/-- PL_NO_KEY while the link key's slot is not READY (R434), once for each such time. -/
def plKeyAlarm (s : State) : State :=
  if s.plKey.isSome then s.onPrt fun p => { p with noKey := false }
  else if s.prt.noKey then s
  else note 0x0D0C (s.param P.plKeySlot) (s.onPrt fun p => { p with noKey := true })

/-- Groups the link has (R432): four, or with PL_LANES = 8 groups 0 and 1. -/
def State.plGroups (s : State) : Nat := if s.param P.plLanes = 8 then 2 else 4

/-- A group comes up or goes down (R432, R434): the session ends with the last one. -/
def plGroup (g : Nat) (up : Bool) (s : State) : State :=
  if ¬ s.rst.dpUp ∨ s.plGroups ≤ g ∨ getBit s.prt.groups g = up then s
  else
    let s1 := s.onPrt fun p => { p with groups := setBit p.groups g up }
    let s2 := note 0x0D0B (popCount s1.prt.groups) s1
    if s2.prt.groups = 0 then plSessionEnd s2 else plKeyAlarm s2

/-- PL_GROUP_UP. -/
def execPlGroupUp (group : Nat) (s : State) : Host.Outcome State Fault Refusal := .next (afterP (plGroup group true s))

/-- PL_GROUP_DOWN. -/
def execPlGroupDown (group : Nat) (s : State) : Host.Outcome State Fault Refusal := .next (afterP (plGroup group false s))

/-- The unacknowledged messages of a class are sent in a new session, with new CSEQ values (R435). A HELLO of the old session is not: the
new one says it anew. -/
def plRestart (c : PlClass) (s : State) : State :=
  let old := (s.prt.chan c).sent.filter fun m => m.mtype ≠ 6
  old.foldl (fun s m => plSend c m.mtype m.body m.tag s) (s.onPrt fun p => p.onChan c fun ch => { ch with next := 0, sent := [] })

/-- A session starts (R434, R435): at least one group is up and the slot is READY. SESSION[30:0] is the number drawn, SESSION[31] the
HEAD_ID. What the last session left unacknowledged is resent, then HELLO goes (R450). -/
def plSessionStart (n : Nat) (s : State) : State :=
  if ¬ s.rst.dpUp ∨ s.prt.groups = 0 ∨ s.prt.session.isSome ∨ s.prt.pair = .fenced then s
  else if s.plKey.isNone then plKeyAlarm s
  else
    let s1 := s.onPrt fun p => { p with session := some (BitVec.ofNat 32 (n % 2 ^ 31 + s.head * 2 ^ 31)), fseq := 0, noKey := false }
    let s2 := plRestart .map (plRestart .jnl (plRestart .ckpt s1))
    let s3 := teeDrain (s2.ing.teed.foldl (fun s g => sendSeg g s) s2)
    sendUpdDone (sendHello s3)

/-- PL_SESSION_START. -/
def execPlSessionStart (session : BitVec 32) (s : State) : Host.Outcome State Fault Refusal := .next (afterP (plSessionStart session.toNat s))

/-! ## Frames -/

/-- What an acknowledged message tells the head. -/
def plAcked (t : PlTag) (s : State) : State :=
  match t with
  | .ckpts l => l.foldl (fun s (i, n) => ckptConfirmed i n s) s
  | .jnl r => jnlCommitted r s
  | .mapUpTo _ => s
  | .none => s

/-- A class's acknowledgement in a header (R434, R435). -/
def plAck (c : PlClass) (ack : Nat) (s : State) : State :=
  let got := (s.prt.chan c).sent.filter fun m => seqLe m.cseq ack
  got.foldl (fun s m => plAcked m.tag s) (s.onPrt fun p => p.onChan c fun ch => { ch with sent := ch.sent.filter fun m => !seqLe m.cseq ack })

/-- Everything received under the partner's last session is over: its next messages are numbered from 0 (R434, R435). -/
def plNewPeer (ses : Nat) (s : State) : State :=
  s.onPrt fun p =>
    { p with peerSession := some (BitVec.ofNat 32 ses), fack := none, ahead := [], fenceWait := []
             ckpt := { p.ckpt with rxNext := 0 }, jnl := { p.jnl with rxNext := 0 }, map := { p.map with rxNext := 0 } }

/-- Keep account of the frames received, and report a gap by LOST (R434, R435). -/
def plCount (n : Nat) (s : State) : State :=
  let next := match s.prt.fack with
    | some a => a + 1
    | none => 0
  let top := s.prt.ahead.foldl (fun a x => max a (x + 1)) next
  let s1 := if top < n then plControl 0x01 (leBytes 4 top ++ leBytes 2 (min (n - top) 65535)) s else s
  let ahead := s.prt.ahead ++ [n]
  let run := (List.range ahead.length).takeWhile fun k => ahead.contains (next + k)
  s1.onPrt fun p => { p with fack := if run = [] then p.fack else some (next + run.length - 1)
                             ahead := ahead.filter fun x => decide (next + run.length ≤ x) }

/-- A partner-link frame (R433 to R435): its tag must verify under the link's key; its session, frame number, acknowledgements and heartbeat
are taken. Its messages come as commands of their own. -/
def plFrameIn (raw : Bytes) (s : State) : State :=
  if ¬ s.rst.dpUp ∨ s.prt.groups = 0 then s
  else match s.plKey with
    | none => s
    | some key =>
      let h := raw.take 48
      let ses := fieldLe h 4 4
      let n := fieldLe h 8 8
      let iv := leBytes 4 ses ++ leBytes 8 n
      if raw.length < 64 ∨ (gcmOpen key iv h (raw.drop 48)).isNone then s.onPrt fun p => { p with authFail := satInc p.authFail }
      else
        let ty := fieldLe h 0 1
        let old := s.prt.peerSession = some (BitVec.ofNat 32 ses)
        let seen := old ∧ ((s.prt.fack.any fun a => decide (n ≤ a)) ∨ s.prt.ahead.contains n)
        if (ty ≠ 0x11 ∧ ty ≠ 0x12) ∨ fieldLe h 1 1 = s.head ∨ fieldLe h 2 2 + 64 ≠ raw.length ∨ seen then s
        else
          let s1 := plCount n (if old then s else plNewPeer ses s)
          let s2 := plAck .map (fieldLe h 44 4) (plAck .jnl (fieldLe h 40 4) (plAck .ckpt (fieldLe h 36 4) s1))
          let s3 := segReceipts (fieldLe h 32 4) (s2.onPrt fun p => { p with segAcked := some (fieldLe h 32 4) })
          heartbeat false (fieldLe h 24 4) (fieldLe h 28 1) s3

/-- PL_FRAME_RECEIVE. -/
def execPlFrameReceive (raw : Bytes) (s : State) : Host.Outcome State Fault Refusal := .next (afterP (plFrameIn raw s))

/-! ## Messages -/

/-- Whether the head holds for its partner what messages bring (R439): in the Paired state, while it joins, and at a handback that the
joining head has already ended. -/
def State.holdsShadow (s : State) : Bool :=
  s.prt.pair == .paired || s.prt.pair == .joining || (s.prt.pair == .lone && s.prt.join == .handing)

/-- Receipts and confirmations travel in every header (R434): one goes back at once. -/
def plConfirm (s : State) : State := plFrame [] s

/-- The SEGs that SEG_FENCE names have been receipted (R436). -/
def State.fenceMet (s : State) (fence : Nat) : Bool := seqLe fence (s.prt.segAck.getD (2 ^ 32 - 1))

/-- The command whose segment the partner rejected fails (R215, R221 code 0x02). -/
def segFail (seg : Nat) (s : State) : State :=
  match s.ing.teed.find? fun g => g.num == seg with
  | none => s
  | some g =>
    let s1 := s.onIng fun i => { i with segfail := true, teed := i.teed.filter fun x => x.num ≠ seg }
    stageFail g.acc 0x02 (fieldLe g.bytes 8 8 / 4096) (chg g.acc (fun c => { c with segsOwed := c.segsOwed.filter (· ≠ seg) }) s1)

/-- The plaintext and PARTIAL values of a block that the shadow holds (R224). -/
def State.shadowBlock (s : State) (k : Nat × Nat) (num : Nat) : Option (Bytes × List Nat) :=
  let gs := s.ing.shadow.filter fun g => g.qpn == k.1 && g.cid == k.2 && !g.bad && decide (g.off < (num + 1) * 4096)
    && decide (num * 4096 < g.off + g.data.length)
  let len := match tabGet k s.prt.shCmd with
    | some c => min 4096 (c.len - num * 4096)
    | none => 4096
  let cells := gs.foldl (fun cs g => overlay (num * 4096) cs { acc := 0, off := g.off, data := g.data }) (List.replicate len none)
  (cells.mapM id).map fun d => (padTo 4096 d, gs.map (·.partialCrc))

/-- Answer a REPAIR_REQ (R224, R500): from the shadow for a block of the partner's, from the write buffer for one of this head's own. DESIGN
CHOICE (log entry 28): the REPAIR body is QPN, CID and block as in the request, eight bytes in all, then the plaintext and the PARTIAL values;
a block that is not held is answered with none. -/
def repairAnswer (q cid num : Nat) (s : State) : State :=
  let own := s.ing.buf.find? fun b => b.qpn == q && b.cid == cid && b.num == num && !b.plain.isEmpty
  let (d, ps) := match own with
    | some b => (b.plain, [partialP b.plain])
    | none => (s.shadowBlock (q, cid) num).getD ([], [])
  plReply 0x41 (leBytes 3 q ++ [0] ++ leBytes 2 cid ++ leBytes 2 num ++ d ++ ps.flatMap (leBytes 8)) s

/-- A REPAIR message (R224, R500): the good copy of a block of this head's own, or of one in the shadow that a DRAM error struck. -/
def repairIn (body : Bytes) (s : State) : State :=
  let q := fieldLe body 0 3
  let cid := fieldLe body 4 2
  let num := fieldLe body 6 2
  let plain := slice body 8 4096
  if s.ing.buf.any fun b => b.qpn == q && b.cid == cid && b.num == num && b.repair.isSome then repairReply q cid num plain s
  else if plain.length ≠ 4096 then s
  else s.onIng fun i => { i with shadow := i.shadow.map fun g =>
    if g.bad ∧ g.qpn = q ∧ g.cid = cid ∧ num * 4096 ≤ g.off ∧ g.off + g.data.length ≤ (num + 1) * 4096
    then { g with bad := false, data := slice plain (g.off - num * 4096) g.data.length } else g }

/-- Messages that a LOST control word names are resent in new frames (R435, R461). -/
def lostIn (first n : Nat) (s : State) : State :=
  let named (m : PlMsg) : Bool := decide ((m.fseq + 2 ^ 32 - first) % 2 ^ 32 < n)
  let again (c : PlClass) (s : State) : State :=
    ((s.prt.chan c).sent.filter named).foldl (fun s m =>
      plFrame (plMsgBytes m.mtype m.cseq m.body) (s.onPrt fun p => p.onChan c fun ch =>
        { ch with sent := ch.sent.map fun x => if x.cseq = m.cseq then { x with fseq := p.fseq } else x })) s
  let s1 := s.onPrt fun p => { p with framesLost := satAdd p.framesLost n }
  let s2 := again .map (again .jnl (again .ckpt s1))
  s2.ing.teed.foldl (fun s g => sendSeg g s) s2

/-- A control word takes effect. POWER and UPD_DONE have commands of their own. -/
def controlIn (code : Nat) (args : Bytes) (s : State) : State :=
  match code with
  | 0x01 => if s.prt.session.isSome then lostIn (fieldLe args 0 4) (fieldLe args 4 2) s else s
  | 0x02 => segFail (fieldLe args 0 4) s
  | 0x03 => if s.holdsShadow then shadowDiscard (fieldLe args 0 3, fieldLe args 3 2) s else s
  | 0x04 => repairAnswer (fieldLe args 0 3) (fieldLe args 3 2) (fieldLe args 5 2) s
  | 0x05 => powerWord (powerOf (fieldLe args 0 1)) (fieldLe args 1 1) s
  | 0x06 => if s.prt.join = .none then s else s.onPrt fun p => { p with syncedRx := true }
  | 0x07 => if fieldLe args 0 1 = 0 then partnerGives true s else s.onPrt fun p => { p with tkovStart := s.time }
  | 0x08 => claimedIn (fieldLe args 0 4) s
  | 0x09 => updDone (fieldLe args 0 4) s
  | _ => s

/-- A checkpoint-class message is applied (R436, R439). -/
def ckptApply (fence : Nat) (m : CkptMsg) (s : State) : State :=
  match m with
  | .qp b => if s.holdsShadow then (recordsOf 32 b).foldl (fun s r => shadowCkpt fence r s) s else s
  | .cmd b => if s.holdsShadow then (recordsOf 64 b).foldl (fun s r => shadowCmd r s) s else s
  | .win b => if s.holdsShadow then (recordsOf 32 b).foldl (fun s r => shadowWin r s) s else s
  | .out b => if s.holdsShadow then (recordsOf 80 b).foldl (fun s r => shadowOut r s) s else s
  | .conn b => if s.holdsShadow then (recordsOf 128 b).foldl (fun s r => shadowConn r s) s else s
  | .hello b => helloIn b s
  | .control code args => controlIn code args s

/-- Apply the checkpoint-class messages whose fence is met, in order (R435, R436); `fuel` bounds them. -/
def ckptDrain : Nat → State → State
  | 0, s => s
  | fuel + 1, s => match s.prt.fenceWait with
    | [] => s
    | (_, fence, m) :: rest =>
      if ¬ s.fenceMet fence then s
      else ckptDrain fuel (ckptApply fence m (s.onPrt fun p =>
        { p with fenceWait := rest, ckpt := { p.ckpt with rxNext := (p.ckpt.rxNext + 1) % 2 ^ 32 } }))

/-- Whether messages are taken at all: the datapath runs, and the head is not Fenced. -/
def State.plTakes (s : State) : Bool := s.rst.dpUp && s.prt.pair != .fenced

/-- A checkpoint-class message arrives: the next in CSEQ order waits for its fence; another is discarded (R435, R436). -/
def ckptIn (cseq fence : Nat) (m : CkptMsg) (s : State) : State :=
  if ¬ s.plTakes ∨ cseq ≠ (s.prt.ckpt.rxNext + s.prt.fenceWait.length) % 2 ^ 32 then s
  else
    let s1 := s.onPrt fun p => { p with fenceWait := p.fenceWait ++ [(cseq, fence, m)] }
    plConfirm (ckptDrain (s1.prt.fenceWait.length) s1)

/-- PL_QP_CKPT. -/
def execPlQpCkpt (cseq fence : BitVec 32) (body : Bytes) (s : State) : Host.Outcome State Fault Refusal :=
  .next (afterP (ckptIn cseq.toNat fence.toNat (.qp body) s))

/-- PL_CMD_REC. -/
def execPlCmdRec (cseq fence : BitVec 32) (body : Bytes) (s : State) : Host.Outcome State Fault Refusal :=
  .next (afterP (ckptIn cseq.toNat fence.toNat (.cmd body) s))

/-- PL_WIN_REC. -/
def execPlWinRec (cseq fence : BitVec 32) (body : Bytes) (s : State) : Host.Outcome State Fault Refusal :=
  .next (afterP (ckptIn cseq.toNat fence.toNat (.win body) s))

/-- PL_OUT_REC. -/
def execPlOutRec (cseq fence : BitVec 32) (body : Bytes) (s : State) : Host.Outcome State Fault Refusal :=
  .next (afterP (ckptIn cseq.toNat fence.toNat (.out body) s))

/-- PL_CONN_REC. -/
def execPlConnRec (cseq fence : BitVec 32) (body : Bytes) (s : State) : Host.Outcome State Fault Refusal :=
  .next (afterP (ckptIn cseq.toNat fence.toNat (.conn body) s))

/-- PL_HELLO. -/
def execPlHello (cseq fence : BitVec 32) (body : Bytes) (s : State) : Host.Outcome State Fault Refusal :=
  .next (afterP (ckptIn cseq.toNat fence.toNat (.hello body) s))

/-- A journal-class message (R435, R439, R451). -/
def jnlIn (cseq : Nat) (body : Bytes) (s : State) : State :=
  if ¬ s.plTakes ∨ cseq ≠ s.prt.jnl.rxNext then s
  else
    let s1 := s.onPrt fun p => { p with jnl := { p.jnl with rxNext := (p.jnl.rxNext + 1) % 2 ^ 32 } }
    plConfirm (if s.prt.pair = .paired ∨ s.prt.pair = .joining ∧ s.prt.join = .synced then shadowJnl body s1
      else if s.prt.pair = .joining ∧ (s.prt.join = .filled ∨ s.prt.join = .taking) then filledChange false body s1
      else s1)

/-- PL_JNL. -/
def execPlJnl (cseq : BitVec 32) (body : Bytes) (s : State) : Host.Outcome State Fault Refusal := .next (afterP (jnlIn cseq.toNat body s))

/-- A map-class message is the next in order: a MAP message or RELEASE entries (R435). -/
def mapTaken (s : State) : State := s.onPrt fun p => { p with map := { p.map with rxNext := (p.map.rxNext + 1) % 2 ^ 32 } }

/-- A MAP message (R435, R439, R451). -/
def mapIn (cseq : Nat) (body : Bytes) (s : State) : State :=
  if ¬ s.plTakes ∨ cseq ≠ s.prt.map.rxNext then s
  else
    let s1 := mapTaken s
    plConfirm (if s.prt.pair = .paired ∨ s.prt.pair = .joining ∧ s.prt.join = .synced then shadowMap body s1
      else if s.prt.pair = .joining ∧ (s.prt.join = .filled ∨ s.prt.join = .taking) then filledChange true body s1
      else s1)

/-- PL_MAP. -/
def execPlMap (cseq : BitVec 32) (body : Bytes) (s : State) : Host.Outcome State Fault Refusal := .next (afterP (mapIn cseq.toNat body s))

/-- PL_RELEASE (R436, R441): the row carries no CSEQ, so it is the next message of the map class (DESIGN CHOICE, log entry 29). -/
def execPlRelease (body : Bytes) (s : State) : Host.Outcome State Fault Refusal :=
  .next (afterP (if s.plTakes then plConfirm (let s1 := mapTaken s; if s.holdsShadow then shadowRelease body s1 else s1) else s))

/-- A segment (R213, R215, R435): checked, written to the shadow and receipted, or answered with SEGFAIL. What its receipt was awaited for is
applied. -/
def segIn (b : Bytes) (s : State) : State :=
  if ¬ s.plTakes ∨ ¬ s.holdsShadow then s
  else match shadowSeg b s with
    | (failed, s1) =>
      let s2 := ckptDrain (s1.prt.fenceWait.length) s1
      plConfirm (if failed then plControl 0x02 (leBytes 4 (fieldLe b 20 4)) s2 else s2)

/-- PL_SEG. -/
def execPlSeg (body : Bytes) (s : State) : Host.Outcome State Fault Refusal := .next (afterP (segIn body s))

/-- A message of the reply class comes in order (R435). -/
def replyIn (cseq : Nat) (f : State → State) (s : State) : State :=
  if ¬ s.plTakes then s else f (s.onPrt fun p => { p with reply := { p.reply with rxNext := (cseq + 1) % 2 ^ 32 } })

/-- PL_FILL (R451). -/
def execPlFill (cseq : BitVec 32) (body : Bytes) (s : State) : Host.Outcome State Fault Refusal :=
  .next (afterP (replyIn cseq.toNat (fillIn body) s))

/-- PL_REPAIR (R224). -/
def execPlRepair (cseq : BitVec 32) (body : Bytes) (s : State) : Host.Outcome State Fault Refusal :=
  .next (afterP (replyIn cseq.toNat (repairIn body) s))

/-! ## Control words -/

/-- A control word arrives: the next message of the checkpoint class (DESIGN CHOICE, log entry 29), behind those that wait for a fence. -/
def wordIn (code : Nat) (args : Bytes) (s : State) : State :=
  ckptIn ((s.prt.ckpt.rxNext + s.prt.fenceWait.length) % 2 ^ 32) (match s.prt.fenceWait.getLast? with
    | some e => e.2.1
    | none => s.prt.segAck.getD (2 ^ 32 - 1)) (.control code args) s

/-- PL_LOST (R435, R458). -/
def execPlLost (args : Bytes) (s : State) : Host.Outcome State Fault Refusal := .next (afterP (wordIn 0x01 args s))

/-- PL_SEGFAIL (R215). -/
def execPlSegfail (args : Bytes) (s : State) : Host.Outcome State Fault Refusal := .next (afterP (wordIn 0x02 args s))

/-- PL_DISCARD (R53, R237). -/
def execPlDiscard (args : Bytes) (s : State) : Host.Outcome State Fault Refusal := .next (afterP (wordIn 0x03 args s))

/-- PL_REPAIR_REQ (R224, R500). -/
def execPlRepairReq (args : Bytes) (s : State) : Host.Outcome State Fault Refusal := .next (afterP (wordIn 0x04 args s))

/-- PL_SYNCED (R450). -/
def execPlSynced (args : Bytes) (s : State) : Host.Outcome State Fault Refusal := .next (afterP (wordIn 0x06 args s))

/-- PL_HANDOVER (R442, R451). -/
def execPlHandover (args : Bytes) (s : State) : Host.Outcome State Fault Refusal := .next (afterP (wordIn 0x07 args s))

/-- PL_CLAIMED (R450). -/
def execPlClaimed (args : Bytes) (s : State) : Host.Outcome State Fault Refusal := .next (afterP (wordIn 0x08 args s))

/-- PL_POWER (R106). -/
def execPlPower (args : Bytes) (s : State) : Host.Outcome State Fault Refusal := .next (afterP (wordIn 0x05 args s))

/-- PL_UPD_DONE (R568). -/
def execPlUpdDone (args : Bytes) (s : State) : Host.Outcome State Fault Refusal := .next (afterP (wordIn 0x09 args s))

/-- Everything unacknowledged of a class is resent when tPLRS passes without progress (R435). -/
def plResend (c : PlClass) (s : State) : State :=
  match c with
  | .mirror => s.ing.teed.foldl (fun s g => sendSeg g s) s
  | _ => (s.prt.chan c).sent.foldl (fun s m => plFrame (plMsgBytes m.mtype m.cseq m.body) (s.onPrt fun p => p.onChan c fun ch =>
      { ch with sent := ch.sent.map fun x => if x.cseq = m.cseq then { x with fseq := p.fseq } else x })) s

/-- PL_RESEND_TIMER. -/
def execPlResendTimer (cls : PlClass) (s : State) : Host.Outcome State Fault Refusal := .next (plResend cls s)

/-! ## The pulse link -/

/-- Whether the heartbeat runs: from step 7 of R95 on, and through an L2 reset (R117). -/
def State.beats (s : State) : Bool :=
  s.rst.aoUp && s.rst.dormantWake || s.rst.aoUp && (match s.rst.stage with
    | .run => true
    | .l2Clocks => true
    | .l2Reread => true
    | _ => false)

/-- One heartbeat (R437): the count rises, a pulse frame goes, and an idle frame on the partner link while it is up. A command is repeated
in three frames after its first. -/
def pulseSend (s : State) : State :=
  if ¬ s.beats then s
  else
    let s1 := s.onPrt fun p =>
      { p with hbSeq := p.hbSeq + 1
               pulseCmd := if p.pulseCmd.2.2.2 = 0 then (p.pulseCmd.1, 0, 0, 0)
                 else (p.pulseCmd.1, p.pulseCmd.2.1, p.pulseCmd.2.2.1, p.pulseCmd.2.2.2 - 1) }
    let s2 := s1.send (.pulse s1.pulseFrame)
    if s.pwr.state = .run ∨ s.pwr.state = .armed then plFrame [] s2 else s2

/-- PULSE_SEND. -/
def execPulseSend (s : State) : Host.Outcome State Fault Refusal := .next (pulseSend s)

/-- Whether a pulse frame is good (R437): its PCRC, and its shape. -/
def pulseGood (raw : Bytes) : Bool := raw.length == 16 && crcGood raw

/-- A pulse frame (R437): a failed PCRC is counted, a good one brings a heartbeat. -/
def pulseIn (raw : Bytes) (s : State) : State :=
  if ¬ s.rst.aoUp then s
  else if ¬ pulseGood raw then s.onPrt fun p => { p with pulseErr := satInc p.pulseErr }
  else if fieldLe raw 0 1 ≠ 1 ∨ fieldLe raw 1 1 = s.head then s
  else heartbeat true (fieldLe raw 4 4) (fieldLe raw 8 1) s

/-- PULSE_FRAME_RECEIVE. -/
def execPulseFrameReceive (raw : Bytes) (s : State) : Host.Outcome State Fault Refusal := .next (afterP (pulseIn raw s))

/-- A pulse command in a frame (R438): acted on once, at the first good frame with a new CMD_ID. -/
def pulseDo (cmd : Nat) (raw : Bytes) (f : State → State) (s : State) : State :=
  let s1 := pulseIn raw s
  let id : BitVec 8 := BitVec.ofNat 8 (fieldLe raw 2 1)
  if ¬ s.rst.aoUp ∨ ¬ pulseGood raw ∨ fieldLe raw 0 1 ≠ 1 ∨ fieldLe raw 1 1 = s.head ∨ fieldLe raw 9 1 ≠ cmd ∨ s.prt.peerCmdId = some id then s1
  else f (s1.onPrt fun p => { p with peerCmdId := some id })

/-- PULSE_WAKE (R108). -/
def execPulseWake (raw : Bytes) (s : State) : Host.Outcome State Fault Refusal := .next (afterP (pulseDo 1 raw (wake 2) s))

/-- PULSE_YIELD (R442). -/
def execPulseYield (raw : Bytes) (s : State) : Host.Outcome State Fault Refusal := .next (afterP (pulseDo 3 raw (partnerGives false) s))

/-- PULSE_HANDOVER (R442, R451). -/
def execPulseHandover (raw : Bytes) (s : State) : Host.Outcome State Fault Refusal :=
  .next (afterP (pulseDo 4 raw (fun s => if fieldLe raw 10 2 = 0 then partnerGives true s else s.onPrt fun p => { p with tkovStart := s.time }) s))

/-- HEARTBEAT_PERIOD_MISS (R442): on the pulse link, or on the partner link. -/
def execHeartbeatPeriodMiss (pulse : Bool) (s : State) : Host.Outcome State Fault Refusal :=
  .next (afterP (if s.beats then periodMiss pulse s else s))

/-- PL_LOST_WAIT has passed with only the partner link lost (R442): the head with PREF_HEAD runs a claim round, the other one yields. -/
def plLostWait (s : State) : State :=
  if s.prt.pair ≠ .paired ∨ ¬ s.prt.hold ∨ ¬ s.prt.plDown then s
  else if s.rst.prefHead then startRound .linkLost false s
  else enterFenced 2 (pulseCommand 3 0 s)

/-- PL_LOST_WAIT_EXPIRY. -/
def execPlLostWaitExpiry (s : State) : Host.Outcome State Fault Refusal := .next (afterP (plLostWait s))

/-- CLAIM_WAIT_EXPIRY (R444, R450). -/
def execClaimWaitExpiry (s : State) : Host.Outcome State Fault Refusal := .next (afterP (claimWait s))

/-! ## PRT_CTRL -/

/-- A write of PRT_CTRL (R461, R592): the key, then the operation: 1 gives this head's volumes, 2 hands the partner's back, 3 starts alone,
4 sends RESET_REQ. -/
def prtCtrl (r : Requester) (v : Nat) (s : State) : State :=
  if bitsAt v 16 16 ≠ 0x9640 then accessError r 0xD001C true s
  else match bitsAt v 0 4 with
    | 1 => giveVolumes s
    | 2 => startHandback s
    | 3 => if s.prt.pair = .joining then startRound .solo false s else s
    | 4 => pulseCommand 2 0 s
    | _ => accessError r 0xD001C true s

/-- PRT_CTRL_GIVE_VOLUMES (R452). -/
def execPrtCtrlGiveVolumes (r : Requester) (val : Word) (s : State) : Host.Outcome State Fault Refusal :=
  .next (afterP (accessWrite r 0xD001C (prtCtrl r val.toNat) s))

/-- PRT_CTRL_HANDBACK (R451). -/
def execPrtCtrlHandback (r : Requester) (val : Word) (s : State) : Host.Outcome State Fault Refusal :=
  .next (afterP (accessWrite r 0xD001C (prtCtrl r val.toNat) s))

/-- PRT_CTRL_SOLO_START (R449). -/
def execPrtCtrlSoloStart (r : Requester) (val : Word) (s : State) : Host.Outcome State Fault Refusal :=
  .next (afterP (accessWrite r 0xD001C (prtCtrl r val.toNat) s))

/-- PRT_CTRL_SEND_RESET_REQ (R438). -/
def execPrtCtrlSendResetReq (r : Requester) (val : Word) (s : State) : Host.Outcome State Fault Refusal :=
  .next (afterP (accessWrite r 0xD001C (prtCtrl r val.toNat) s))

end Sys2Proof.Machine
end

