-- ==== Sys2Proof/Machine/Loops.lean ====
section
/-! DEFINITION. What every adaptive loop shares (R516 to R519), and the AL-RT loop of read thresholds with its retry ladder
(R347 to R349). -/

namespace Sys2Proof.Machine

/-- Ticks in a millisecond (R14). -/
def msTicks : Nat := 1000 * usTicks

/-- An occurrence of a loop. -/
def State.loop (s : State) (l i : Nat) : LoopInst := tabGetD (l, i) {} s.adp.inst

/-- Change an occurrence of a loop. -/
def onLoop (l i : Nat) (f : LoopInst → LoopInst) (s : State) : State := s.onAdp fun a => { a with inst := tabUpdD (l, i) {} f a.inst }

/-- Whether a loop is frozen (R518). -/
def State.frozenLoop (s : State) (l : Nat) : Bool := getBit s.adp.freeze l

/-- Whether an occurrence's dwell, in ticks, has passed since its last action (R516). -/
def State.dwellOver (s : State) (l i dwell : Nat) : Bool :=
  match (s.loop l i).last with
  | some (t, _) => decide (dwell ≤ s.since t)
  | none => true

/-- A loop freezes itself (R519). -/
def selfFreeze (l i : Nat) (s : State) : State :=
  note 0x0F01 (l + i * 2 ^ 16) (s.onAdp fun a => { a with freeze := setBit a.freeze l true, cause := setBit a.cause l true })

/-- Count an action of a loop (R516, R541). -/
def countAction (l : Nat) (s : State) : State := s.onAdp fun a => { a with actions := tabUpdD l 0 satInc a.actions }

/-- Count a decided value clamped to a limit (R517). -/
def limitHit (l : Nat) (s : State) : State := s.onAdp fun a => { a with hits := tabUpdD l 0 satInc a.hits }

/-- Count a reversal of a loop (R541). -/
def countReversal (l : Nat) (s : State) : State := s.onAdp fun a => { a with reversals := tabUpdD l 0 satInc a.reversals }

/-- An occurrence acts upward or downward and sets its actuator (R516): the action and a reversal are counted, and too many reversals within
64 dwells freeze the loop (R519). -/
def loopAct (l i dwell : Nat) (up : Bool) (v : Nat) (s : State) : State :=
  let x := s.loop l i
  let rev : Bool := match x.last with
    | some (_, d) => d != up
    | none => false
  let revs := (x.revs.filter fun t => decide (s.since t < 64 * dwell)) ++ (if rev then [s.time] else [])
  let s1 := countAction l (onLoop l i (fun x => { x with act := v, last := some (s.time, up), revs := revs }) s)
  let s2 := if rev then countReversal l s1 else s1
  if rev ∧ s.param P.adpOscLimit < revs.length then selfFreeze l i s2 else s2

/-! ## AL-RT -/

/-- Corrected bits of a READ's reply, and the codewords they were corrected in: those that hold the sectors read, and the four of the
metadata (R410). -/
def readBits (data : Bytes) (sec cnt : Nat) : Nat × Nat :=
  let n := (sec + cnt - 1) / 2 - sec / 2 + 1 + 4
  ((slice data (512 * cnt + 4096) n).foldl (fun a b => a + b.toNat) 0, n)

/-- Whether a block's mean of corrected bits per KiB is above a limit (R349). -/
def EBlk.meanAbove (e : EBlk) (limit : Nat) : Bool :=
  decide (limit * e.means.foldl (fun a m => a + m.2) 0 < e.means.foldl (fun a m => a + m.1) 0)

/-- The probe reads that are due after a read of a page group (R349): one step above the record and one step below. -/
def probeReads (name b pg sec cnt : Nat) (s : State) : State :=
  let s1 := onBlk name b (fun e => { e with probe := some (none, none) }) (s.onAdp fun a =>
    { a with probeTimes := (a.probeTimes.filter fun t => decide (s.since t < msTicks)) ++ [s.time, s.time] })
  readPage (.probe name b false) name b pg sec cnt (-1) 0 (readPage (.probe name b true) name b pg sec cnt 1 0 s1)

/-- A good read of a page group enters the block's mean; while the mean was above RT_HIGH and the dwell had passed, probes follow it
(R349, R516). -/
def rtMeasure (name b pg sec cnt : Nat) (bits : Nat × Nat) (s : State) : State :=
  let e := s.blk name b
  let due := !s.frozenLoop 0 && e.probe.isNone && e.meanAbove (s.param P.rtHigh) && decide (s.param P.rtDwell ≤ e.sinceRt)
  let s1 := onBlk name b (fun e => { e with means := (bits :: e.means).take 64 }) s
  let s2 := onLoop 0 0 (fun x => { x with meas := (s.adp.probeTimes.filter fun t => decide (s.since t < msTicks)).length }) s1
  if due then probeReads name b pg sec cnt s2 else s2

/-- Move a block's record by one step at every level, within ±RT_LIMIT (R349, R517): an action of the loop on the block, whose dwell
counts in its reads. -/
def rtMove (name b : Nat) (up : Bool) (s : State) : State :=
  let e := s.blk name b
  let d : Int := if up then 1 else -1
  let rt := e.rt.map fun x => s.clampRt (x + d)
  let hit := rt != e.rt.map (· + d)
  let rev : Bool := match e.rtDir with
    | some x => x != up
    | none => false
  let revs := (e.rtRevs.filter fun n => decide (e.rtReads - n < 64 * s.param P.rtDwell)) ++ (if rev then [e.rtReads] else [])
  let s1 := onBlk name b (fun e => { e with rt := rt, sinceRt := 0, rtDir := some up, rtRevs := revs }) s
  let s2 := countAction 0 (onLoop 0 0 (fun x => { x with last := some (s.time, up), atLo := hit && !up, atHi := hit && up }) s1)
  let s3 := if hit then limitHit 0 s2 else s2
  let s4 := if rev then countReversal 0 s3 else s3
  if rev ∧ s.param P.adpOscLimit < revs.length then selfFreeze 0 0 s4 else s4

/-- More corrected bits than a read can report: a probe that brought no data. -/
def probeBad : Nat := 2 ^ 20

/-- A probe has come back (R349): with both there, the record moves toward the one with the fewest corrected bits; a mean still above
RT_REFRESH has the block relocated. -/
def probeDone (name b : Nat) (above : Bool) (bits : Nat) (s : State) : State :=
  match (s.blk name b).probe with
  | none => s
  | some (u, d) =>
    let (u1, d1) := if above then (some bits, d) else (u, some bits)
    match u1, d1 with
    | some x, some y =>
      let s1 := onBlk name b (fun e => { e with probe := none }) s
      let s2 := if s.frozenLoop 0 ∨ x = y then s1 else rtMove name b (decide (x < y)) s1
      if (s2.blk name b).meanAbove (s.param P.rtRefresh) then startReloc name b 9 [] [] s2 else s2
    | _, _ => onBlk name b (fun e => { e with probe := some (u1, d1) }) s

/-- A ladder step has succeeded (R348): the record takes its offsets, and FTL_RT_RETRIES counts. -/
def ladderGood (name b step : Nat) (s : State) : State :=
  (onBlk name b (fun e => { e with rt := e.rt.map fun x => s.clampRt (x + ladderOffset step), step := step, sinceRt := 0 }) s).onFtl fun f =>
    { f with rtRetries := satInc f.rtRetries }

/-- Every ladder step has failed (R348): READ_RETRY_FAIL; the block is relocated, and retired on its second exhaustion. -/
def ladderFailed (name b : Nat) (s : State) : State :=
  let s1 := note 0x0907 (name + b * 2 ^ 11) ((onBlk name b (fun e => { e with exhaust := min 3 (e.exhaust + 1) }) s).onFtl fun f =>
    { f with rtFails := satInc f.rtFails })
  if (s1.blk name b).spare ∨ (s1.blk name b).state = .retired then s1
  else startReloc name b (if 2 ≤ (s1.blk name b).exhaust then 4 else 9) [] [] s1

end Sys2Proof.Machine
end

