-- ==== Sys2Proof/Machine/Sleds.lean ====
section
/-! DEFINITION. Sled ports as they come up, go down, rest and retrain (R401, R402, R405 to R408, R418, R419, R422, R423), and what the
sled bridges answer (R410, R415 to R417, R420, R424 to R427). -/

namespace Sys2Proof.Machine

/-! ## Training, retrains and going down -/

/-- Whether a port is enabled (R401). -/
def State.portOn (s : State) (p : Nat) : Bool := bitAt (s.param P.sldPortMask) p

/-- Whether the sled ports are out of reset and powered: in Run and Armed, and on the way out of Quiet (R105, R109). -/
def State.sledsOn (s : State) : Bool := s.rst.dpUp && (s.pwr.state == .run || s.pwr.state == .armed || s.pwr.transit == some .run)

/-- A port that is enabled and whose sled is present trains (R418, R428). -/
def portStart (p : Nat) (s : State) : State :=
  let q := s.port p
  if q.present ∧ s.portOn p ∧ s.sledsOn ∧ q.state = .down then (onPort p (fun q => { q with state := .training }) s).send (.oslCtl p 4 0) else s

/-- What stays of a port's transactions when the port goes down (R418, R424): the PROGRAMs, ERASEs, BINDs and CLAIMs, to be recalled,
reissued or claimed again. -/
def OslTx.outlives (t : OslTx) : Bool :=
  match t.what with
  | .program _ => true
  | .erase .. => true
  | .bind => true
  | .claim .. => true
  | _ => false

/-- A port's link goes down (R418): its sled's dies go missing, and READs go to reconstruction. -/
def portClose (p : Nat) (s : State) : State :=
  let q := s.port p
  if ¬ q.live then onPort p (fun q => { q with state := .down }) s
  else
    let s1 := sledOut p (handOver p (onPort p (fun q => { q with state := .down }) s))
    let s2 := onPort p (fun q =>
      { q with
        x1 := false, known := false, infoLeft := [], bootsWas := if q.known then some q.boots else q.bootsWas
        fseq := 0, acked := none, naked := false, replay := [], credit := [0, 0, 0, 0], owed := [0, 0, 0, 0], queue := []
        tx := (q.tx.filter fun t => t.2.outlives).map fun t => (t.1, { t.2 with overdue := true })
        forTimeout := false, restAsked := false }) s1
    s2.onFtl fun f => { f with blks := tabMap (fun k e => if k.1 / 64 = p then { e with probe := none } else e) f.blks }

/-- A port goes down (R418): cause 0 presence, 1 retrain, 2 timeout, 3 reference clock; SLED_REMOVED says so. -/
def portDown (p cause : Nat) (s : State) : State :=
  if ¬ (s.port p).live then portClose p s
  else
    let s4 := raise 0x0C01 (p + cause * 2 ^ 5) .all ((portClose p s).onSld fun l => { l with latch := setBit l.latch p true })
    if s4.prt.soloWait.contains p then soloDecide (s4.onPrt fun x => { x with soloWait := x.soloWait.filter (· ≠ p) }) else s4

/-- Retrain a port through Recovery (R406): flit state and transactions are kept; one retrain too many in a second takes the port down. -/
def retrain (p : Nat) (timeout : Bool) (s : State) : State :=
  let q := s.port p
  if q.state ≠ .l0 ∧ q.state ≠ .resync then s
  else
    let recent := (q.retrains.filter fun t => decide (s.since t < 1000 * msTicks)) ++ [s.time]
    let s1 := (onPort p (fun q => { q with state := .recovery, retrains := recent, forTimeout := timeout, restAsked := false }) s).onSld fun l =>
      { l with retrains := satInc l.retrains }
    if s.param P.sldRetrainLimit < recent.length then portDown p 1 s1 else s1.send (.oslCtl p 1 0)

/-- PRSNT_CHANGE (R418). -/
def execPrsntChange (port : Nat) (low : Bool) (s : State) : Host.Outcome State Fault Refusal :=
  .next (onPort (port % 32) (fun q => { q with raw := low, bouncing := true }) s)

/-- Presence has been stable for SLD_PRSNT_DEBOUNCE (R418). -/
def presenceStable (p : Nat) (s : State) : State :=
  let q := s.port p
  if ¬ q.bouncing then s
  else
    let s1 := onPort p (fun q => { q with bouncing := false, present := q.raw }) s
    if q.raw then portStart p s1 else if q.present then portDown p 0 s1 else s1

/-- PRSNT_DEBOUNCE_EXPIRY. -/
def execPrsntDebounceExpiry (port : Nat) (s : State) : Host.Outcome State Fault Refusal := .next (afterP (presenceStable (port % 32) s))

/-- A port reaches L0 at 32 GT/s, or on one lane only, having lost the other (R402): it offers its credits and identifies the sled
(R408, R419). -/
def linkUp (p : Nat) (lost : Option Nat) (s : State) : State :=
  let q := s.port p
  if q.live ∨ ¬ q.present ∨ ¬ s.portOn p ∨ ¬ s.sledsOn then s
  else if lost.isSome ∧ ¬ s.flag P.sldX1Allow then onPort p (fun q => { q with state := .down }) s
  else
    let s1 := onPort p (fun q => { q with state := .l0, x1 := lost.isSome, known := false, infoLeft := [], retrains := [] }) s
    let s2 := match lost with
      | some l => note 0x0C04 (p + (l % 2) * 2 ^ 5) s1
      | none => s1
    oslIdentify p .identify (sendControl p 0x02 (3 * 2 ^ 8 + 8192 * 2 ^ 16) (sendControl p 0x02 (16 * 2 ^ 16) s2))

/-- SLED_LINK_L0. -/
def execSledLinkL0 (port : Nat) (lost : Option Nat) (s : State) : Host.Outcome State Fault Refusal := .next (afterP (linkUp (port % 32) lost s))

/-! ## Flits -/

/-- The bridge acknowledges flits up to a number (R405): they leave the replay buffer, and flits beyond the 2,048 outstanding go out. -/
def ackFlits (p : Nat) (n : BitVec 12) (s : State) : State :=
  let q := s.port p
  let gone := match (q.replay.take flitWindow).findIdx? fun e => e.1 == n with
    | some i => i + 1
    | none => 0
  let left := q.replay.drop gone
  let fresh := (left.take flitWindow).drop (flitWindow - gone)
  fresh.foldl (fun s e => s.send (.osl p e.2.1)) (onPort p (fun q => { q with replay := left }) s)

/-- Whether a flit received has a good FCRC (R404). -/
def flitGood (raw : Bytes) : Bool := decide (raw.length = 512) && fieldLe raw 504 8 == carryK (raw.take 504)

/-- What every accepted flit carries besides its payload (R404): an acknowledgement and returned credits. -/
def flitTakes (p : Nat) (raw : Bytes) (s : State) : State :=
  let s1 := if bitAt (fieldLe raw 1 1) 0 then ackFlits p (BitVec.ofNat 12 (fieldLe raw 4 2)) s else s
  pumpSled p (onPort p (fun q => { q with credit := q.credit.zipIdx.map fun (c, i) => c + fieldLe raw (6 + 2 * i) 2 }) s1)

/-- Answer a flit that is not in order with a NAK, once until the flits are in order again (R405, R407). -/
def flitNak (p : Nat) (s : State) : State :=
  let q := s.port p
  if q.naked then s
  else sendControl p 0x01 (((q.acked.getD (BitVec.allOnes 12)).toNat) * 2 ^ 16) (onPort p (fun q => { q with naked := true }) s)

/-- A flit arrives (R405). -/
def flitIn (p : Nat) (raw : Bytes) (s : State) : State :=
  let q := s.port p
  let idle := fieldLe raw 0 1 % 16 = 0
  if q.state ≠ .l0 ∧ q.state ≠ .resync then s
  else if ¬ flitGood raw then (if idle then s else flitNak p s)
  else if idle then (if q.naked then s else flitTakes p raw s)
  else
    let n := BitVec.ofNat 12 (fieldLe raw 2 2)
    let want := (q.acked.getD (BitVec.allOnes 12)) + 1
    if n = want then flitTakes p raw (onPort p (fun q => { q with acked := some n, naked := false }) s)
    else if 2048 ≤ (n - want).toNat then s
    else flitNak p s

/-- OSL_FLIT_RECEIVE. -/
def execOslFlitReceive (port : Nat) (raw : Bytes) (s : State) : Host.Outcome State Fault Refusal := .next (afterP (flitIn (port % 32) raw s))

/-- Send again every flit that is not acknowledged (R405). -/
def replayFlits (p : Nat) (s : State) : State :=
  let q := s.port p
  let go := q.replay.take flitWindow
  let s1 := go.foldl (fun s e => s.send (.osl p e.2.1)) s
  (onPort p (fun q => { q with replay := q.replay.zipIdx.map fun (e, i) => if i < go.length then (e.1, e.2.1, e.2.2 + 1) else e }) s1).onSld fun l =>
    { l with replays := satAdd l.replays go.length }

/-- A NAK control word (R405, R406): the flits behind its ACKSEQ are sent again; one that has been replayed SLD_REPLAY_LIMIT times has
the link retrained. -/
def nakIn (p : Nat) (w : Bytes) (s : State) : State :=
  let q := s.port p
  if (q.state ≠ .l0 ∧ q.state ≠ .resync) ∨ fieldLe w 0 1 ≠ 0x01 then s
  else
    let s1 := ackFlits p (BitVec.ofNat 12 (bitsAt (leNat (w.take 8)) 16 12)) s
    match (s1.port p).replay with
    | [] => s1
    | e :: _ => if s.param P.sldReplayLimit ≤ e.2.2 then retrain p false s1 else replayFlits p s1

/-- OSL_NAK. -/
def execOslNak (port : Nat) (raw : Bytes) (s : State) : Host.Outcome State Fault Refusal := .next (afterP (nakIn (port % 32) raw s))

/-- An INIT_CREDIT control word (R407, R408). -/
def initCredit (p : Nat) (w : Bytes) (s : State) : State :=
  let v := leNat (w.take 8)
  if ¬ (s.port p).live ∨ v % 256 ≠ 0x02 then s
  else pumpSled p (onPort p (fun q => { q with credit := modAt (bitsAt v 8 2) (fun _ => bitsAt v 16 16) q.credit }) s)

/-- OSL_INIT_CREDIT. -/
def execOslInitCredit (port : Nat) (raw : Bytes) (s : State) : Host.Outcome State Fault Refusal := .next (afterP (initCredit (port % 32) raw s))

/-- Whether the head's transmitter can take coefficients (R423): within its FS and LF, by the rules of PCI Express (PRESUMED, log entry
30). -/
def eqFits (pre post cur : Nat) : Bool :=
  pre + post + cur == 63 && decide (pre ≤ 15) && decide (pre + post + headLf ≤ cur)

/-- An EQ_SET control word (R423): applied at the next SKP ordered set and answered with the values in force; values outside the range are
refused. -/
def eqSet (p : Nat) (w : Bytes) (s : State) : State :=
  let v := leNat (w.take 8)
  let q := s.port p
  if (q.state ≠ .l0 ∧ q.state ≠ .resync) ∨ v % 256 ≠ 0x03 then s
  else
    let lane := bitsAt v 8 1
    let (pre, post, cur) := (bitsAt v 9 6, bitsAt v 15 6, bitsAt v 21 6)
    let ok := eqFits pre post cur
    let s1 := if ok then onPort p (fun q => { q with eq := setAt lane (pre, post, cur) q.eq }) s else s
    let (a, b, c) := ((s1.port p).eq[lane]?).getD (0, 0, 0)
    sendControl p 0x04 (lane * 2 ^ 8 + a * 2 ^ 9 + b * 2 ^ 15 + c * 2 ^ 21 + (b2n !ok) * 2 ^ 27) s1

/-- OSL_EQ_SET. -/
def execOslEqSet (port : Nat) (raw : Bytes) (s : State) : Host.Outcome State Fault Refusal := .next (afterP (eqSet (port % 32) raw s))

/-- An EQ_ACK control word (R423): what the bridge's transmitter has in force on a lane. -/
def eqAck (p : Nat) (w : Bytes) (s : State) : State :=
  let v := leNat (w.take 8)
  if v % 256 ≠ 0x04 then s
  else onPort p (fun q => { q with eqFar := setAt (bitsAt v 8 1) (bitsAt v 9 6, bitsAt v 15 6, bitsAt v 21 6) q.eqFar }) s

/-- OSL_EQ_ACK. -/
def execOslEqAck (port : Nat) (raw : Bytes) (s : State) : Host.Outcome State Fault Refusal := .next (afterP (eqAck (port % 32) raw s))

/-! ## Rest -/

/-- A port has been idle for 100 µs, or the head is Armed (R422): REST_REQ. -/
def restIdle (p : Nat) (s : State) : State :=
  let q := s.port p
  let may := s.pwr.state = .armed ∨ (s.pwr.state = .run ∧ s.flag P.sldRestAllow)
  if q.state = .l0 ∧ q.tx = [] ∧ q.queue = [] ∧ ¬ q.restAsked ∧ may then sendControl p 0x05 0 (onPort p (fun q => { q with restAsked := true }) s) else s

/-- SLED_REST_IDLE. -/
def execSledRestIdle (port : Nat) (s : State) : Host.Outcome State Fault Refusal := .next (afterP (restIdle (port % 32) s))

/-- REST_ACK (R422): both ends enter electrical idle; what has been queued meanwhile leaves rest again. -/
def restAck (p : Nat) (s : State) : State :=
  if (s.port p).state = .l0 ∧ (s.port p).restAsked then
    pumpSled p ((onPort p (fun q => { q with state := .rest, restAsked := false }) s).send (.oslCtl p 3 0))
  else s

/-- OSL_REST_ACK. -/
def execOslRestAck (port : Nat) (s : State) : Host.Outcome State Fault Refusal := .next (afterP (restAck (port % 32) s))

/-- REST_EXIT (R422): either end leaves rest through Recovery. -/
def execRestExit (port : Nat) (s : State) : Host.Outcome State Fault Refusal :=
  .next (if (s.port (port % 32)).state = .rest then (onPort (port % 32) (fun q => { q with state := .recovery }) s).send (.oslCtl (port % 32) 2 0) else s)

/-! ## Recalls and reissues -/

/-- Put a transaction back into its port's queue under its TAG (R418, R419, R420). -/
def reissue (p tag : Nat) (s : State) : State :=
  pumpSled p (onPort p (fun q =>
    { q with tx := tabUpd tag (fun (t : OslTx) => { t with overdue := false, since := s.time }) q.tx, queue := q.queue.filter (· ≠ tag) ++ [tag] }) s)

/-- Recall the transactions that are overdue, and reissue the READs among them (R418, R419). -/
def recallAll (p : Nat) (s : State) : State :=
  let late := (s.port p).tx.filter (·.2.overdue)
  let old := late.filterMap fun t => match t.2.what with
    | .recall _ => some t.1
    | _ => none
  let s1 := onPort p (fun q => { q with tx := q.tx.filter fun t => !old.contains t.1, queue := q.queue.filter fun t => !old.contains t }) s
  late.foldl (fun s t => match t.2.what with
    | .recall _ => s
    | .read .. => reissue p t.1 s
    | .probe .. => reissue p t.1 s
    | _ => if (s.port p).tx.any fun x => x.2.what == .recall t.1 then s else oslRecall p t.1 s) s1

/-- RETRAIN_COMPLETE (R406, R418): the port is in L0 again; flits that a NAK asked for in vain are sent again, and what a timeout covered is
reissued or recalled. -/
def retrained (p : Nat) (s : State) : State :=
  let q := s.port p
  if q.state ≠ .recovery then s
  else
    let sync := s.par.resyncs.any fun e => e.1 / 64 == p
    let s1 := onPort p (fun q => { q with state := if sync then .resync else .l0, forTimeout := false }) s
    let s2 := match q.replay with
      | e :: _ => if s.param P.sldReplayLimit ≤ e.2.2 then
          replayFlits p (onPort p (fun q => { q with replay := q.replay.map fun e => (e.1, e.2.1, 0) }) s1) else s1
      | [] => s1
    pumpSled p (if q.forTimeout then recallAll p s2 else s2)

/-- RETRAIN_COMPLETE. -/
def execRetrainComplete (port : Nat) (s : State) : Host.Outcome State Fault Refusal := .next (afterP (retrained (port % 32) s))

/-- RETRAIN_TIMEOUT (R406, R418): the retrain has failed. -/
def execRetrainTimeout (port : Nat) (s : State) : Host.Outcome State Fault Refusal :=
  .next (afterP (if (s.port (port % 32)).state = .recovery then portDown (port % 32) (if (s.port (port % 32)).forTimeout then 2 else 1) s else s))

/-- A transaction has been outstanding for SLD_CMD_TIMEOUT (R418). -/
def cmdTimeout (p tag : Nat) (s : State) : State :=
  let q := s.port p
  if ¬ q.live ∨ ¬ tabHas tag q.tx then s
  else
    let s1 := (onPort p (fun q => { q with tx := tabUpd tag (fun (t : OslTx) => { t with overdue := true }) q.tx }) s).onSld fun l =>
      { l with timeouts := satInc l.timeouts }
    if q.state = .recovery then onPort p (fun q => { q with forTimeout := true }) s1 else retrain p true s1

/-- SLD_CMD_TIMEOUT_EXPIRY. -/
def execSldCmdTimeoutExpiry (port tag : Nat) (s : State) : Host.Outcome State Fault Refusal := .next (afterP (cmdTimeout (port % 32) tag s))

/-! ## A sled that comes up -/

/-- Whether formatting waits or runs (R419, R324). -/
def State.formatWaits (s : State) : Bool := s.ftl.noLog || s.ftl.formatting

/-- Whether a newly activated image names every die of a sled as a spare's (R419; DEDUCED, log entry 31: the image is new until its
activation is confirmed). -/
def State.newSpare (s : State) (p : Nat) : Bool :=
  s.upd.pend && !(s.portDies p).isEmpty && (s.portDies p).all fun d => ((s.unit (s.topOf d)).getD {}).role == .spare

/-- A sled is foreign (R419). -/
def sledForeign (p : Nat) (s : State) : State :=
  if (s.port p).foreign then s else note 0x0C03 p (onPort p (fun q => { q with foreign := true }) s)

/-- Send again the ERASEs that a sled lost with its power (R419). -/
def reissueErases (p : Nat) (s : State) : State :=
  ((s.port p).tx.filter fun t => t.2.op == 0x12 && t.2.overdue).foldl (fun s t => reissue p t.1 s) s

/-- The claim that a sled which has come up is to be sent (R419, R424, R612): as part of the round or join that runs, or the one owed. -/
def claimUp (p : Nat) (s : State) : State :=
  let asked := (s.port p).tx.any fun t => t.2.op == 0x20
  if asked then s
  else match s.prt.round with
    | some r =>
      if r.granted.contains p ∨ ¬ s.claimSleds.contains p then s
      else oslClaim p .round (r.epoch * 256 + s.head) 2 0 (s.onPrt fun x =>
        { x with round := some { r with waiting := if r.waiting.contains p then r.waiting else r.waiting ++ [p] } })
    | none =>
      if s.prt.joinOwed.contains p ∧ s.prt.joinEpoch ≠ 0 then
        sendJoinOwed p (s.onPrt fun x => { x with joinWait := if s.prt.claimedTx ∨ x.joinWait.contains p then x.joinWait else x.joinWait ++ [p] })
      else if s.prt.claimOwed.contains p then sendOwed p s
      else s

/-- A page group whose PROGRAM failed (R346 cause 2, R410), or whose block the bridge calls bad: its block is relocated with it, and a
relocation's own target is given up. -/
def programFailed (cause : Nat) (name b row pg : Nat) (raw : Bytes) (s : State) : State :=
  let die := (s.dieOf name).getD 0
  match (s.par.rows.find? fun r => r.id == row).map (fun (r : RowProg) => r.kind) with
  | some RowKind.reloc => match s.ftl.relocs.find? fun r => r.die == name && r.dst == b with
    | some r => relocFailed name r.src (s.onPar fun x => { x with rows := x.rows.filter (·.id ≠ row) })
    | none => pageDone row die true s
  | _ =>
    let s1 := startReloc name b cause [(row, pg, raw)] [] s
    if s1.ftl.relocs.any fun r => r.die == name && r.src == b then s1 else pageDone row die true s1

/-- The sled has been identified and every die of it asked (R419). -/
def sledUp (p : Nat) (s : State) : State :=
  let q := s.port p
  let cycled := q.bootsWas.isSome ∧ q.bootsWas ≠ some q.boots
  let s1 := onPort p (fun q => { q with known := true, bootsWas := some q.boots }) s
  if cycled then
    let progs := q.tx.filter fun t => t.2.op == 0x11
    let s2 := onPort p (fun q => { q with tx := q.tx.filter fun t => t.2.op == 0x12 || !t.2.overdue, grant := none, holds := false, current := false }) s1
    let s3 := match q.grant with
      | some (n, sole, mask) =>
        let others := s.sld.ports.any fun e => e.1 != p && e.2.holds && (match e.2.grant with
          | some (m, _, _) => m == n
          | none => false)
        if others ∧ q.holds ∧ s.prt.round.isNone ∧ ¬ s.prt.joinOwed.contains p ∧ ¬ s.prt.claimOwed.contains p then
          oslClaim p .again n (if sole then 2 else 1) (if sole then 0 else mask) s2
        else claimUp p s2
      | none => claimUp p s2
    progs.foldl (fun s t => match t.2.what with
      | .program row => programFailed 2 (p * 64 + fieldLe t.2.args 0 1) (fieldLe t.2.args 2 2) row (fieldLe t.2.args 4 2) t.2.data s
      | _ => s) s3
  else
    let s2 := claimUp p (recallAll p s1)
    refreshSled p (if s.newSpare p then bindSled p s2 else s2)

/-- The bridge has identified itself (R412, R419). -/
def identified (p : Nat) (data : Bytes) (s : State) : State :=
  if data.length < 64 ∨ ¬ crcGood (data.take 64) ∨ fieldLe data 0 1 ≠ 1 then s
  else
    let q := s.port p
    let boots := word (fieldLe data 4 4)
    let same := fieldLe data 16 8 = s.arrayId ∧ fieldLe data 24 1 = p
    let cycled := q.bootsWas.isSome ∧ q.bootsWas ≠ some boots
    let dies := (s.portDies p).map fun d => ((s.unit d).getD {}).die
    let s1 := onPort p (fun q =>
      { q with
        dies := BitVec.ofNat 8 (fieldLe data 1 1), boots := boots, sledId := BitVec.ofNat 64 (fieldLe data 8 8)
        bound := (fieldLe data 16 8, fieldLe data 24 1), fsLf := fieldLe data 25 1 % 64, infoLeft := dies
        foreign := q.foreign && !same }) s
    let s2 := note 0x0C02 (p + b2n same * 2 ^ 5 + b2n cycled * 2 ^ 6) s1
    let s3 := if same ∨ s.formatWaits ∨ s.newSpare p then s2 else sledForeign p s2
    let s4 := dies.foldl (fun s d => oslBadList p d (oslDieInfo p d s)) s3
    if dies = [] then sledUp p s4 else s4

/-- What DIE_INFO says of a die (R409, R419): one that does not match its descriptor makes the sled foreign. -/
def dieInfo (p die : Nat) (data : Bytes) (s : State) : State :=
  let s1 := onPort p (fun q =>
    { q with infoLeft := q.infoLeft.filter (· ≠ die), tprog := tabPut die (fieldLe data 7 2) q.tprog, levels := tabPut die (fieldLe data 6 1) q.levels }) s
  let fits := match s.dieOf (p * 64 + die) with
    | some d => let u := (s.unit d).getD {}
      decide (fieldLe data 0 1 = u.planes ∧ fieldLe data 1 2 = u.blocks ∧ fieldLe data 3 2 = u.pages ∧ fieldLe data 5 1 = u.pageKib)
    | none => false
  let s2 := if fits then s1 else sledForeign p s1
  if (s2.port p).infoLeft = [] ∧ ¬ (s2.port p).known then sledUp p s2 else s2

/-- The blocks a bad-block list names (R409). -/
def badBlocks (data : Bytes) : List Nat := (List.range (8 * data.length)).filter fun b => bitAt (fieldLe data (b / 8) 1) (b % 8)

/-! ## Completions -/

/-- A block that the bridge has declared bad (R346 cause 5): relocated where it holds data, else retired at once. -/
def blockBad (name b : Nat) (s : State) : State :=
  let e := s.blk name b
  if e.state = .retired ∨ (s.dieOf name).isNone then s
  else if e.spare ∨ e.trimmed ∨ e.state = .ecru then retireBlock name b 5 (onBlk name b (fun e => { e with spare := false }) s)
  else startReloc name b 5 [] [] s

/-- What a status says of a die or a block besides the transaction's own end (R410, R328, R346). -/
def statusDie (st name b : Nat) (s : State) : State :=
  if st = 0x06 ∨ st = 0x09 then failDie name 0 s else if st = 0x05 then blockBad name b s else s

/-- A READ has completed (R347, R348, R410): data whose sectors agree with their M go to the job; otherwise the next ladder step is
tried, and after the last the block goes to reconstruction. -/
def readDone (p tag : Nat) (t : OslTx) (st : Nat) (data : Bytes) (s : State) : State :=
  let name := p * 64 + fieldLe t.args 0 1
  let (b, pg, sec, cnt) := (fieldLe t.args 2 2, fieldLe t.args 4 2, fieldLe t.args 6 1, fieldLe t.args 7 1 + 1)
  let md := slice data (512 * cnt) 4096
  let good := st = 0 ∧ ([2, 3, 4].contains (fieldLe md 0 1) ∨ (List.range cnt).all fun i => sectorGood data md i (sec + i))
  match t.what with
  | .read job a =>
    if good then
      let s1 := if t.step = 0 then s else ladderGood name b t.step s
      jobRead job a (some (data.take (512 * cnt + 4096))) (readLimit name b (rtMeasure name b pg sec cnt (readBits data sec cnt) s1))
    else if st ≤ 0x02 then
      if t.step < s.param P.rtLadder then readPage t.what name b pg sec cnt (ladderOffset (t.step + 1)) (t.step + 1) s
      else jobRead job a none (ladderFailed name b s)
    else jobRead job a none (statusDie st name b s)
  | .probe _ _ above => statusDie st name b (probeDone name b above (if good then (readBits data sec cnt).1 else probeBad) s)
  | _ => onPort p (fun q => { q with tx := tabDel tag q.tx }) s

/-- A PROGRAM has completed (R321, R346, R410, R527). -/
def programDone (p : Nat) (t : OslTx) (row st : Nat) (s : State) : State :=
  let name := p * 64 + fieldLe t.args 0 1
  let (b, pg) := (fieldLe t.args 2 2, fieldLe t.args 4 2)
  let die := (s.dieOf name).getD 0
  if st = 0 then
    let prev := (tabGetD name {} s.ftl.dies).lastDone
    let took := min (s.since t.since) (s.since prev)
    let s1 := onBlk name b (fun e => { e with progTime := e.progTime + took, progs := e.progs + 1 }) s
    pageDone row die false (s1.onFtl fun f => { f with dies := tabUpdD name {} (fun d => { d with lastDone := s.time }) f.dies })
  else if st = 0x03 ∨ st = 0x0A then programFailed 2 name b row pg t.data s
  else if st = 0x05 then programFailed 5 name b row pg t.data s
  else pageDone row die true (statusDie st name b s)

/-- An ERASE has completed (R325, R344 to R346, R410). -/
def eraseDone (name b : Nat) (seg : Option (Nat × Nat)) (st : Nat) (s : State) : State :=
  if st = 0x07 then s
  else
    let s1 := match seg with
      | some (top, m) => onSeg top m (fun g => { g with erasing := g.erasing.filter (· ≠ name) }) s
      | none => s
    if st = 0 then
      let held : Bool := match seg with
        | some (top, m) => let x := (s.seg top m).state
          x == .open || x == .full || x == .part
        | none => false
      let s2 := onBlk name b (fun e =>
        { e with state := if held then e.state else .ecru, trimmed := false, pe := e.pe + 1, reads := 0
                 spare := if seg.isNone then true else e.spare }) s1
      let s3 := if s.param P.peLimit ≤ (s2.blk name b).pe then retireBlock name b 3 (onBlk name b (fun e => { e with spare := false }) s2) else s2
      wearLevel name s3
    else if st = 0x04 ∨ st = 0x05 then
      retireBlock name b (if st = 0x04 then 1 else 5) (onBlk name b (fun e => { e with spare := false, trimmed := false }) s1)
    else statusDie st name b s1

/-- A transaction is over, with its status, DETAIL, data and the CUR it came with (R410). -/
def oslDone (p tag : Nat) (t : OslTx) (st detail cur : Nat) (data : Bytes) (s : State) : State :=
  match t.what with
  | .identify => if st = 0 then identified p data s else s
  | .soloIdentify => soloRead p cur s
  | .dieInfo d => if st = 0 then dieInfo p d data s
    else
      let s1 := statusDie st (p * 64 + d) 0 (onPort p (fun q => { q with infoLeft := q.infoLeft.filter (· ≠ d) }) s)
      let s2 := if st = 0x09 then sledForeign p s1 else s1
      if (s2.port p).infoLeft = [] ∧ ¬ (s2.port p).known then sledUp p s2 else s2
  | .badList d =>
    if st = 0 then s.onFtl fun f => { f with badLists := tabPut (p * 64 + d) (badBlocks data) f.badLists }
    else if st = 0x0B then failDie (p * 64 + d) 2 s
    else statusDie st (p * 64 + d) 0 s
  | .bind => if st = 0 then onPort p (fun q => { q with bound := (fieldLe t.args 0 8, fieldLe t.args 8 1) }) s else s
  | .claim why num mode mask =>
    let s1 := claimDone p why num mode mask (decide (st = 0)) (if st = 0x08 ∧ detail = 1 then some (cur / 256) else none) s
    if st = 0 then
      let q := s1.port p
      reissueErases p (if ¬ q.foreign ∧ q.known ∧ q.bound ≠ (s1.arrayId, p) ∧ ¬ s1.formatWaits then oslBind p s1 else s1)
    else s1
  | .read .. => readDone p tag t st data s
  | .probe .. => readDone p tag t st data s
  | .program row => programDone p t row st s
  | .erase die blk seg => eraseDone (p * 64 + die % 64) blk seg st s
  | .recall _ => s

/-- Whether a CLAIM recalled in vain is to be sent again (R420, R424): not one of a round that has been decided. -/
def State.claimLives (s : State) (p : Nat) (t : OslTx) : Bool :=
  match t.what with
  | .claim .round num _ _ => s.prt.round.any fun r => r.epoch == num / 256 && r.waiting.contains p
  | .claim .join num _ _ => s.prt.joinOwed.contains p && s.prt.joinEpoch == num / 256
  | .claim .owed _ _ _ => s.prt.claimOwed.contains p
  | _ => true

/-- A CPL or RDATA from a bridge (R409, R410, R416, R417, R420): CUR is seen, a FENCED completion counts and loses the claim held, and the
transaction its TAG names is over. -/
def oslReply (p op : Nat) (raw : Bytes) (s : State) : State :=
  let q := s.port p
  if (q.state ≠ .l0 ∧ q.state ≠ .resync) ∨ raw.length < 32 ∨ fieldLe raw 0 1 ≠ op then s
  else
    let (tag, cur, st, detail) := (fieldLe raw 2 2, fieldLe raw 8 8, fieldLe raw 16 1, fieldLe raw 18 2)
    let dlen := fieldLe raw 4 4 % 2 ^ 20
    let data := slice raw 32 dlen
    let s1 := claimSeen cur (onPort p (fun q =>
      { q with
        current := match q.grant with
          | some (n, _, _) => q.holds && decide (n / 256 = cur / 256)
          | none => false
        owed := modAt (fieldLe raw 1 1 % 4) (· + oslUnits dlen) q.owed
        tx := tabDel tag q.tx, queue := q.queue.filter (· ≠ tag) }) s)
    let s2 := if st = 0x07 then claimLost p (s1.onSld fun l => { l with fencedCpl := satInc l.fencedCpl }) else s1
    let s3 := match tabGet tag q.tx with
      | none => s2
      | some t => match t.what with
        | .recall old => match tabGet old (s2.port p).tx with
          | none => s2
          | some x =>
            if st = 0x0C then
              if s2.claimLives p x then reissue p old s2 else claimUp p (onPort p (fun q => { q with tx := tabDel old q.tx }) s2)
            else oslDone p old x st detail cur data (onPort p (fun q => { q with tx := tabDel old q.tx }) s2)
        | _ => oslDone p tag t st detail cur data s2
    pumpSled p s3

/-- OSL_CPL. -/
def execOslCpl (port : Nat) (raw : Bytes) (s : State) : Host.Outcome State Fault Refusal := .next (afterP (oslReply (port % 32) 0x80 raw s))

/-- OSL_RDATA. -/
def execOslRdata (port : Nat) (raw : Bytes) (s : State) : Host.Outcome State Fault Refusal := .next (afterP (oslReply (port % 32) 0x81 raw s))

/-- A NOTICE (R409, R416, R425, R426): a failed die, a bad block, a throttle level or a claim changed. -/
def noticeIn (p : Nat) (raw : Bytes) (s : State) : State :=
  let q := s.port p
  if (q.state ≠ .l0 ∧ q.state ≠ .resync) ∨ raw.length < 32 ∨ fieldLe raw 0 1 ≠ 0x82 then s
  else
    let (kind, die, b, level) := (fieldLe raw 16 1, fieldLe raw 17 1, fieldLe raw 18 2, fieldLe raw 20 1 % 8)
    let cur := fieldLe raw 8 8
    let s1 := claimSeen cur (onPort p (fun q =>
      { q with
        current := match q.grant with
          | some (n, _, _) => q.holds && decide (n / 256 = cur / 256)
          | none => false
        owed := modAt (fieldLe raw 1 1 % 4) (· + oslUnits (fieldLe raw 4 4 % 2 ^ 20)) q.owed }) s)
    match kind with
    | 1 => if (s.dieOf (p * 64 + die)).isSome then failDie (p * 64 + die) 0 s1 else s1
    | 2 => blockBad (p * 64 + die) b s1
    | 3 => onPort p (fun q => { q with throttle := level }) s1
    | 4 => claimLost p s1
    | _ => s1

/-- OSL_NOTICE. -/
def execOslNotice (port : Nat) (raw : Bytes) (s : State) : Host.Outcome State Fault Refusal := .next (afterP (noticeIn (port % 32) raw s))

end Sys2Proof.Machine
end

