-- ==== Sys2Proof/Machine/Points.lean ====
section
/-! DEFINITION. Snapshot pages released and replication's timers (R467, R473, R474, R479, R488). -/

namespace Sys2Proof.Machine

/-- PRESERVED_PAGE_RELEASE (R467). -/
def execPreservedPageRelease (slot page : Nat) (s : State) : Host.Outcome State Fault Refusal :=
  .next (after (if s.ftl.ready then releasePage slot page s else s))

/-- REPL_PERIOD has passed for a volume (R474): a block source makes a point, ordered among the volume's commands as a REPL_POINT is
(R463). -/
def replPeriod (vol : Nat) (s : State) : State :=
  match s.vol vol with
  | none => s
  | some v => match s.role v with
    | .source _ =>
      if v.stream ∨ ¬ s.mantle v ∨ ¬ s.ftl.ready ∨ s.cmd.cmds.any (fun c => c.qpn == headQpn && c.volId == vol % 2 ^ 12) then s
      else
        let c : Cmd := { acc := s.cmd.nextAcc, qpn := headQpn, cid := 0, op := 0x55, vol := v.vol, phase := .waiting, orphan := true }
        s.onCmd fun u => { u with cmds := u.cmds ++ [c], nextAcc := u.nextAcc + 1 }
    | _ => s

/-- REPL_PERIOD_EXPIRY. -/
def execReplPeriodExpiry (vol : Nat) (s : State) : Host.Outcome State Fault Refusal := .next (after (replPeriod vol s))

/-- REPL_SESSION_WAIT has passed for a target (R479): points that stopped start again, and a connection that ended is opened anew. -/
def replSessionWait (t : Nat) (s : State) : State :=
  openTarget t ((s.sourcesOf t).foldl (fun s v => onSource (v.vol % 2 ^ 12) (fun x => { x with stopped := false }) s) s)

/-- REPL_SESSION_WAIT_EXPIRY. -/
def execReplSessionWaitExpiry (target : Nat) (s : State) : Host.Outcome State Fault Refusal := .next (after (replSessionWait (target % 16) s))

/-- REPL_LAG. -/
def execReplLag (target : Nat) (s : State) : Host.Outcome State Fault Refusal := .next (replLag (target % 16) s)

end Sys2Proof.Machine
end

