-- ==== Sys2Proof/Machine/Load.lean ====
section
/-! DEFINITION. The configuration loader's checks (R56 to R73, R289, R610): the option bytes, the record walk, and the load checks of an
image, apart from any state, so that the update chain can run them in check-only mode (R566 step 7). -/

namespace Sys2Proof.Machine

/-! ## Option bytes -/

/-- Whether two regions of a serial memory overlap (R56). -/
def regionsMeet (a b : Nat × Nat) : Bool := a.2 != 0 && b.2 != 0 && decide (a.1 < b.1 + b.2) && decide (b.1 < a.1 + a.2)

/-- Whether a slot's offset and size obey R56. -/
def slotFits (off size : Nat) : Bool := off % 65536 == 0 && decide (65536 ≤ off) && size % 65536 == 0 && decide (size ≤ 2 ^ 25)

/-- Whether option bytes whose OPT_CRC is good pass R57, R59 and R60. -/
def optFormatGood (b : Bytes) : Bool :=
  let f := fieldLe b
  let mode := f 5 1
  let div := f 6 1
  let width := bitsAt mode 0 2
  let dtr := bitAt mode 2
  let regions := [(0, 65536), (f 12 4, f 16 4), (f 20 4, f 24 4), (f 28 4, f 32 4)]
  f 0 4 == 0x4B534C50 && f 4 1 == 1 && allZero (slice b 10 2) && allZero (slice b 40 20)
    && width != 3 && (!dtr || width == 2) && bitsAt mode 5 3 == 0 && bitsAt div 4 4 == 0 && (!dtr || div != 0)
    && decide (f 8 1 ≤ 31) && decide (f 9 1 ≤ 1)
    && slotFits (f 12 4) (f 16 4) && slotFits (f 20 4) (f 24 4) && f 28 4 % 65536 == 0
    && (regions.zipIdx.all fun (a, i) => (regions.drop (i + 1)).all fun c => !regionsMeet a c)

/-- Whether the active slot is B (R57). -/
def optSlotB (b : Bytes) : Bool := fieldLe b 9 1 == 1

/-- Offset and size of a slot by the option bytes (R57). -/
def optSlot (b : Bytes) (slotB : Bool) : Nat × Nat := if slotB then (fieldLe b 20 4, fieldLe b 24 4) else (fieldLe b 12 4, fieldLe b 16 4)

/-! ## The record walk -/

/-- A record's place in the order of R62, none for a type that is not known. -/
def recRank : Nat → Option Nat
  | 0x0001 => some 0
  | 0x0002 => some 1
  | 0x0010 => some 2
  | 0x0020 => some 3
  | 0x0030 => some 4
  | 0x0040 => some 5
  | 0xFFFF => some 6
  | _ => none

/-- Whether the body length of a record fits its type (R62). -/
def recLenFits (ty len : Nat) : Bool := match ty with
  | 0x0001 | 0x0002 => len == 32
  | 0xFFFF => len == 152
  | 0x0010 => len != 0 && len % 12 == 0
  | 0x0020 => len != 0 && len % 48 == 0
  | 0x0030 => len != 0 && len % 64 == 0
  | 0x0040 => len != 0 && len % 32 == 0
  | _ => true

/-- What must have come before a record of a rank, and what may come but once (R62). -/
def recOrderGood (ranks : List Nat) (r : Nat) : Bool :=
  (ranks.all fun x => decide (x ≤ r)) && !(r != 2 && r != 3 && r != 4 && r != 5 && ranks.contains r)
    && ([0, 1, 3, 4].all fun k => !decide (k < r) || ranks.contains k)

/-- What the loader finds when one record has been read. -/
inductive RecVerdict where
  /-- one failed read of the record (R61, R63) -/
  | again
  /-- the device fails with this code -/
  | bad (code : Nat)
  /-- accepted: its TYPE, none if it is skipped, and its BODY -/
  | good (ty : Option Nat) (body : Bytes)
deriving DecidableEq, Repr

/-- The records of a TYPE among those accepted. -/
def recBodies (recs : List (Option Nat × Bytes)) (ty : Nat) : List Bytes := (recs.filter fun r => r.1 == some ty).map (·.2)

/-- The accepted body of IMAGE_HEADER, COMPILER or TRAILER. -/
def recBody (recs : List (Option Nat × Bytes)) (ty : Nat) : Bytes := (recBodies recs ty).headD []

/-- Whether the image fits a part (R64): STEP_MASK and FUSE_MASK of a COMPILER body. -/
def partAdmitted (part : Part) (b : Bytes) : Bool := bitAt (fieldLe b 4 4) part.stepping.toNat && bitAt (fieldLe b 8 1) (b2n part.profile2)

/-- The checks of one record as it arrives (R61, R62, R610 step 2), behind `pos` bytes of records; `seq` is the UPDATE_SEQ that the header
must hold, none in check-only mode, and `slot` the size of the slot. -/
def recCheck (part : Part) (slot : Nat) (seq : Option Nat) (recs : List (Option Nat × Bytes)) (pos : Nat) (raw : Bytes) : RecVerdict :=
  let len := fieldLe raw 4 4
  let index := fieldLe raw 8 4
  let limit := if recs = [] then slot else fieldLe (recBody recs 0x0001) 4 4
  if len % 4 ≠ 0 ∨ 2 ^ 20 < len ∨ limit < pos + 16 + len ∨ raw.length ≠ 16 + len ∨ ¬ crcGood raw then .again
  else
    let ty := fieldLe raw 0 2
    let known : Bool := (recRank ty).isSome && fieldLe raw 2 1 == 1
    let optional := bitAt (fieldLe raw 3 1) 0
    let body := slice raw 12 len
    let ranks := recs.filterMap fun r => r.1.bind recRank
    let ordered : Bool := match recRank ty with
      | some r => if known then recOrderGood ranks r else recs != [] || (r == 0 && !optional)
      | none => recs != []
    if index ≠ recs.length ∨ ¬ ordered then .bad 0x21
    else if (¬ known ∧ ¬ optional) ∨ (known ∧ ty = 1 ∧ fieldLe body 0 2 ≠ 1) then .bad 0x22
    else if ¬ known then .good none body
    else if ¬ recLenFits ty len then .bad 0x27
    else if ty = 1 ∧ slot < fieldLe body 4 4 then .bad 0x23
    else if ty = 1 ∧ seq.any (· != fieldLe body 16 4) then .bad 0x24
    else if ty = 2 ∧ ¬ partAdmitted part body then .bad 0x26
    else .good (some ty) body

/-! ## What the records hold -/

/-- A PARAM entry (R65). -/
def parseParam (b : Bytes) : PEntry := { id := fieldLe b 0 2, scope := fieldLe b 2 1, value := fieldLe b 4 8 }

/-- A HOST_ADDR entry (R70). -/
def parseAddr (b : Bytes) : HostAddr :=
  let fl := fieldLe b 2 1
  { head := fieldLe b 0 1, port := fieldLe b 1 1, v4ok := bitAt fl 0, v6ok := bitAt fl 1, tagged := bitAt fl 2, v4len := fieldLe b 3 1
    vlan := fieldLe b 4 2, mac := fieldLe b 6 6, ipv4 := fieldLe b 12 4, ipv6 := fieldLe b 16 16, v6len := fieldLe b 32 1 }

/-- An index that 0xFFFF names as absent. -/
def optIndex (n : Nat) : Option Nat := if n = 0xFFFF then none else some n

/-- The kind that a KIND field names (R279). -/
def kindOf : Nat → Option UnitKind
  | 1 => some .die
  | 2 => some .band
  | 3 => some .span
  | _ => none

/-- The role that a ROLE field names (R281). -/
def roleOf : Nat → Option UnitRole
  | 0 => some .member
  | 1 => some .top
  | 2 => some .mapBand
  | 3 => some .jnlBand
  | 4 => some .spare
  | _ => none

/-- A unit descriptor (R281 to R284); the fields of the other kinds are 0. -/
def parseUnit (b : Bytes) : UnitDesc :=
  let f := fieldLe b
  let k := (kindOf (f 0 1)).getD .die
  let common : UnitDesc := { kind := k, role := (roleOf (f 1 1)).getD .member, head := f 2 1, stream := bitAt (f 3 1) 0, parent := optIndex (f 4 2), pos := f 6 2 }
  match k with
  | .die => { common with port := f 8 1, die := f 9 1, fdom := f 10 1, planes := f 11 1, blocks := f 12 2, pages := f 14 2, pageKib := f 16 1 }
  | .band => { common with base := f 8 2, width := f 10 1, rsvSegs := f 12 2 }
  | .span => { common with base := f 8 2, width := f 10 1, spare0 := optIndex (f 12 2), spare1 := optIndex (f 14 2) }

/-- Whether the coded fields of a descriptor are in range and its reserved bytes are 0 (R281 to R284). -/
def unitBytesGood (b : Bytes) : Bool :=
  let f := fieldLe b
  (kindOf (f 0 1)).isSome && (roleOf (f 1 1)).isSome && decide (f 2 1 ≤ 1) && decide (f 3 1 ≤ 1)
    && (match kindOf (f 0 1) with
      | some .die => allZero (b.drop 17)
      | some .band => f 11 1 == 0 && allZero (b.drop 14)
      | some .span => f 11 1 == 0 && allZero (b.drop 16)
      | none => false)

/-- A VOLUME_POLICY entry (R72). -/
def parseVol (b : Bytes) : VolPolicy :=
  let f := fieldLe b
  let fl := f 3 1
  { vol := f 0 2, stream := f 2 1 == 1, dedup := bitAt fl 0, compress := bitAt fl 1, encrypt := bitAt fl 2, replicate := bitAt fl 3
    snapshots := bitAt fl 4, topUnit := f 4 2, keySlot := f 6 2, capacity := f 8 8, maxTakes := f 16 4, wbShare := f 20 2, replTarget := f 22 2 }

/-- Whether an entry's own fields are in range (R72). -/
def volBytesGood (b : Bytes) : Bool :=
  let v := parseVol b
  v.vol % 4096 != 0 && decide (fieldLe b 2 1 ≤ 1) && decide (1 ≤ v.wbShare ∧ v.wbShare ≤ 100) && (v.replTarget == 0xFFFF || decide (v.replTarget ≤ 15))
    && !(v.dedup && v.stream) && (v.stream == (v.maxTakes != 0)) && decide (v.maxTakes ≤ 1048576) && (!v.encrypt || decide (v.keySlot ≤ 1023))

/-- The entries of all records of a TYPE. -/
def recEntries (recs : List (Option Nat × Bytes)) (ty size : Nat) : List Bytes :=
  (recBodies recs ty).flatMap fun b => chunks size (b.length + 1) b

/-- The image that accepted records make (R74 steps 3 to 6). -/
def imageOf (recs : List (Option Nat × Bytes)) : Image :=
  let h := recBody recs 0x0001
  let c := recBody recs 0x0002
  let t := recBody recs 0xFFFF
  { entries := (recEntries recs 0x0010 12).map parseParam
    addrs := (recEntries recs 0x0020 48).map parseAddr
    units := (recEntries recs 0x0030 64).map parseUnit
    vols := (recEntries recs 0x0040 32).map parseVol
    imgLen := fieldLe h 4 4, seq := fieldLe h 16 4, kenasy := fieldLe c 0 4, arrayId := fieldLe h 8 8
    stepMask := fieldLe c 4 4, fuseMask := fieldLe c 8 1, digest := t.take 48, sigR := slice t 48 48, sigS := slice t 96 48, keyId := fieldLe t 144 4 }

/-! ## The tree -/

/-- The members that exist of a unit. -/
def memberUnits (us : List UnitDesc) (d : UnitDesc) : List (Nat × UnitDesc) := d.members.filterMap fun m => (us[m]?).map fun x => (m, x)

/-- Whether a descriptor's own fields are in range (R282 to R284, R287). -/
def unitRangeGood (us : List UnitDesc) (d : UnitDesc) : Bool :=
  match d.kind with
  | .die => decide (d.port ≤ 31 ∧ d.die ≤ 63 ∧ d.fdom ≤ 15) && [1, 2, 4, 8].contains d.planes && [8, 16, 32, 64].contains d.pageKib
      && d.planes * d.pageKib == 64 && decide (256 ≤ d.blocks ∧ d.blocks ≤ 8192 ∧ 256 ≤ d.pages ∧ d.pages ≤ 4096)
  | .band => decide (8 ≤ d.width ∧ d.width ≤ 32 ∧ 2 ≤ d.rsvSegs)
      && (memberUnits us d).all fun m => m.2.kind != .die || decide (d.rsvSegs + 1 ≤ m.2.blocks)
  | .span => decide (4 ≤ d.width ∧ d.width ≤ 34)

/-- Whether a descriptor stands in the tree as R285 to R287 ask: its parent holds it at its position, its members name it, its ROLE fits. -/
def unitPlaceGood (us : List UnitDesc) (u : Nat) (d : UnitDesc) : Bool :=
  (match d.parent with
    | none => d.role != .member && d.kind != .die && d.pos == 0
    | some p => match us[p]? with
      | some pd => d.role == .member && pd.members.contains u && pd.base + d.pos == u
      | none => true)
    && ((memberUnits us d).all fun m => m.2.parent == some u)
    && (!d.stream || d.role == .top) && (!(d.role == .mapBand || d.role == .jnlBand) || d.kind == .band)

/-- The dies under a unit, as descriptors. -/
def dieUnits (us : List UnitDesc) (u : Nat) : List UnitDesc := (diesUnder us maxDepth u).map fun d => (us[d]?).getD {}

/-- A unit's depth is at most 6, which no cycle keeps, and a span's members are of one kind and depth (R286). -/
def unitDepthGood (us : List UnitDesc) (u : Nat) (d : UnitDesc) : Bool :=
  decide (depthOf us maxDepth u ≤ 6)
    && (d.kind != .span || match memberUnits us d with
      | [] => true
      | m :: ms => ms.all fun x => x.2.kind == m.2.kind && depthOf us maxDepth x.1 == depthOf us maxDepth m.1)

/-- Every unit under a unit, itself included. -/
def unitsUnder (us : List UnitDesc) : Nat → Nat → List Nat
  | 0, _ => []
  | fuel + 1, u => u :: (match us[u]? with
    | none => []
    | some d => d.members.flatMap (unitsUnder us fuel))

/-- What R288 asks to be the same of every unit of one level: its depth, and its shape. -/
def shapeAt (us : List UnitDesc) (u : Nat) : Nat × Nat × Nat × Nat × Nat × Nat :=
  let d := (us[u]?).getD {}
  match d.kind with
  | .die => (1, d.planes, d.blocks, d.pages, d.pageKib, 0)
  | .band => (2, d.width, d.rsvSegs, 0, 0, 0)
  | .span => (depthOf us maxDepth u, d.width, 0, 0, 0, 0)

/-- The shapes in a subtree. -/
def subtreeShape (us : List UnitDesc) (u : Nat) : List (Nat × Nat × Nat × Nat × Nat × Nat) := ((unitsUnder us maxDepth u).map (shapeAt us)).eraseDups

/-- A tree whose geometry is uniform (R288), and what its ROLE asks of its sleds (R287). -/
def rootGood (us : List UnitDesc) (u : Nat) (d : UnitDesc) : Bool :=
  let ports := (dieUnits us u).map (·.port)
  let shapes := subtreeShape us u
  (shapes.map (·.1)).eraseDups.length == shapes.length
    && (d.role != .mapBand || ports.eraseDups.length == ports.length) && (d.role != .jnlBand || decide (ports.eraseDups.length ≤ 1))

/-- Every spare a span names has the shape of its members (R287). -/
def sparesGood (us : List UnitDesc) (d : UnitDesc) : Bool :=
  d.kind != .span || ([d.spare0, d.spare1].filterMap id).all fun sp => subtreeShape us sp == subtreeShape us d.base

/-- The sled rule (R304) of a data top unit or map band: it survives the loss of any one sled that carries dies of its head. -/
def sledRule (us : List UnitDesc) (u : Nat) (d : UnitDesc) : Bool :=
  !(d.role == .top || d.role == .mapBand)
    || ((dieUnits us u).map (·.port)).eraseDups.all fun p => decide (0 ≤ loadMargin us (fun x => x.port == p) u)

/-- Roots of a ROLE and HEAD. -/
def rootsOf (us : List UnitDesc) (h : Nat) (r : UnitRole) : List Nat :=
  (us.zipIdx.filter fun x => x.1.parent == none && x.1.role == r && x.1.head == h).map (·.2)

/-- TREE_SHAPE (R73, R289) apart from SLD_PORT_MASK. -/
def treeShapeGood (us : List UnitDesc) : Bool :=
  let all := us.zipIdx
  let dies := us.filter fun d => d.kind == .die
  let names := dies.map (·.dieName)
  let roots := all.filter fun x => x.1.parent == none
  decide (us.length ≤ 8192)
    && (all.all fun x => unitRangeGood us x.1 && unitPlaceGood us x.2 x.1 && unitDepthGood us x.2 x.1)
    && names.eraseDups.length == names.length
    && ((dies.map fun d => (d.port, d.fdom)).eraseDups.length == (dies.map (·.port)).eraseDups.length)
    && ([0, 1].all fun h => decide (1 ≤ (rootsOf us h .mapBand).length ∧ (rootsOf us h .mapBand).length ≤ 4) && (rootsOf us h .jnlBand).length == 3)
    && (roots.all fun x => rootGood us x.2 x.1 && sledRule us x.2 x.1) && (all.all fun x => sparesGood us x.1)

/-- TREE_OWNER (R31, R289): a unit and every unit under it, and a span and its spares, are of one head. -/
def treeOwnerGood (us : List UnitDesc) : Bool :=
  us.all fun d => ((memberUnits us d).all fun m => m.2.head == d.head)
    && (([d.spare0, d.spare1].filterMap id).all fun sp => (us[sp]?).all fun x => x.head == d.head)

/-- Whether a descriptor may be a member of a unit of a kind, by its own KIND and ROLE (R279, R289). -/
def memberKind (k : UnitKind) (m : UnitDesc) : Bool := m.role == .member && (match k with
  | .die => false
  | .band => m.kind == .die
  | .span => m.kind != .die)

/-- The journal homes that a head's parameters name (R67). -/
def homesOf (es : List PEntry) (h : Nat) : List Nat := [P.jnlHome0, P.jnlHome1, P.jnlHome2].map (paramFor es h)

/-- TREE_REF (R73, R289): every index that a descriptor, a volume or JNL_HOMEn names exists and is of the kind and role it must be. -/
def treeRefGood (im : Image) : Bool :=
  let us := im.units
  (us.all fun d => (match d.parent with
      | some p => decide (p < us.length)
      | none => true)
    && (d.members.all fun m => (us[m]?).any (memberKind d.kind))
    && (([d.spare0, d.spare1].filterMap id).all fun sp => (us[sp]?).any fun x => x.role == .spare && (us[d.base]?).all fun m => m.kind == x.kind))
    && (im.vols.all fun v => (us[v.topUnit]?).any fun t => t.role == .top && t.stream == v.stream)
    && ([0, 1].all fun h => (homesOf im.entries h).all fun j => (us[j]?).any fun d => d.kind == .band && d.role == .jnlBand && d.head == h)

/-- JNL_DOMAIN (R73): the three homes of each head lie on three sleds in three fault domains. -/
def jnlDomainGood (im : Image) : Bool :=
  [0, 1].all fun h =>
    let ds := (homesOf im.entries h).map fun j => (dieUnits im.units j).headD {}
    (ds.map (·.port)).eraseDups.length == 3 && (ds.map (·.fdom)).eraseDups.length == 3

/-- VOL_POLICY (R73): the volumes' own fields, their IDs, their top units, and the capacity of each top unit. -/
def volPolicyGood (im : Image) (raws : List Bytes) : Bool :=
  let ids := im.vols.map fun v => v.vol % 4096
  let tops := (im.vols.map (·.topUnit)).eraseDups
  raws.all volBytesGood && ids.eraseDups.length == ids.length
    && (im.vols.all fun v => (im.units[v.topUnit]?).all fun t => t.parent == none)
    && (tops.all fun t => decide (((im.vols.filter fun v => v.topUnit == t).map (·.capacity)).foldl (· + ·) 0 ≤ 16 * nominalStrips im.units 0 maxDepth t))

/-- The sub-ports of a PORT number that a breakout mode creates (R70, R125): one, two or four. -/
def subPortExists (breakout port : Nat) : Bool :=
  decide (port < 16) && decide (port % 4 < (match bitsAt breakout (2 * (port / 4)) 2 with
    | 0 => 1
    | 1 => 2
    | _ => 4))

/-- ADDR (R70). -/
def addrGood (im : Image) : Bool :=
  let keys := im.addrs.map fun a => (a.head, a.port)
  let v4 := (im.addrs.filter (·.v4ok)).map (·.ipv4)
  let v6 := (im.addrs.filter (·.v6ok)).map (·.ipv6)
  keys.eraseDups.length == keys.length && v4.eraseDups.length == v4.length && v6.eraseDups.length == v6.length
    && im.addrs.all fun a => decide (a.head ≤ 1) && (a.v4ok || a.v6ok) && subPortExists (paramFor im.entries a.head P.hpBreakout) a.port

/-! ## The checks after TRAILER -/

/-- The checks of R610 step 4 in their order: none if the image passes, else the code of the first that fails. `bytes` are the image's
bytes from the start of IMAGE_HEADER to the end of TRAILER. -/
def imageVerdict (part : Part) (recs : List (Option Nat × Bytes)) (bytes : Bytes) : Option Nat :=
  let im := imageOf recs
  let heads : List Nat := [0, 1]
  let units := recEntries recs 0x0030 64
  if sha384 (bytes.take (bytes.length - 168)) ≠ im.digest then some 0x25
  else if fieldLe (recBody recs 0x0001) 20 4 ≠ recs.length ∨ im.imgLen ≠ bytes.length then some 0x21
  else if ¬ paramIdsOk im.entries then some 0x30
  else if ¬ (heads.all fun h => paramRangesOk part.gradeE im.entries h
      && (im.units.all fun d => d.kind != .band || decide (paramFor im.entries h P.spareInit < d.rsvSegs))) then some 0x31
  else if ¬ (units.all unitBytesGood && treeShapeGood im.units
      && (heads.all fun h => im.units.all fun d => d.kind != .die || bitAt (paramFor im.entries h P.sldPortMask) d.port)) then some 0x40
  else if ¬ treeOwnerGood im.units then some 0x41
  else if ¬ treeRefGood im then some 0x42
  else if ¬ volPolicyGood im (recEntries recs 0x0040 32) then some 0x50
  else if ¬ jnlDomainGood im then some 0x51
  else if ¬ addrGood im then some 0x52
  else none

/-- Cut an image's bytes into records, each by its LENGTH (R61); `fuel` bounds their number. -/
def cutRecords : Nat → Bytes → List Bytes
  | 0, _ => []
  | fuel + 1, b => if b = [] then [] else
    let n := 16 + fieldLe b 4 4
    b.take n :: cutRecords fuel (b.drop n)

/-- Every load check over a stored image, as CFG makes them in check-only mode (R566 step 7): the records in turn, none read again. -/
def checkOnly (part : Part) (slot : Nat) (bytes : Bytes) : Bool × List (Option Nat × Bytes) :=
  let go := (cutRecords (bytes.length / 16 + 1) bytes).foldl (fun (a : Bool × Nat × List (Option Nat × Bytes)) raw =>
    if ¬ a.1 ∨ recBodies a.2.2 0xFFFF ≠ [] then (false, a.2)
    else match recCheck part slot none a.2.2 a.2.1 raw with
      | .good ty body => (true, a.2.1 + raw.length, a.2.2 ++ [(ty, body)])
      | _ => (false, a.2)) (true, 0, [])
  (go.1 && recBodies go.2.2 0xFFFF != [] && imageVerdict part go.2.2 bytes == none, go.2.2)

end Sys2Proof.Machine
end

