-- ==== Sys2Proof/Machine/Resets.lean ====
section
/-! DEFINITION. Resets (R86 to R93, R97, R101, R117, R120, R124): what an L2 reset leaves, what an L3 reset of each target does to the work
under way, and how a reset that arrives meets the one in progress. -/

namespace Sys2Proof.Machine

/-! ## What L2 leaves -/

/-- A crossing returns from its queue when either of its domains is reset (R103); which domains it joins is the part's (log entry 34). -/
def cdcReset (hit : Nat → Bool) (s : State) : State :=
  s.onClk fun c => { c with cdc := tabMap (fun k x => let d := Sys2Proof.crossingDomains k; if hit d.1 || hit d.2 then { x with onQueue := false } else x) c.cdc }

/-- What an L2 reset keeps of FTL (R117, R354): the maps in DRAM; collection and relocation are abandoned, every die is missing. -/
def warmFtl (f : Ftl) : Ftl :=
  { ({} : Ftl) with
    frozen := f.frozen
    blks := tabMap (fun _ e => { e with moving := false, probe := none }) f.blks
    dies := tabMap (fun _ d => { d with missing := true }) f.dies
    tops := tabMap (fun _ t => { t with collect := none, reserved := [], mode := .idle }) f.tops
    segs := f.segs, map := f.map, shares := f.shares
    takes := tabMap (fun _ t => { t with pending := [], drafts := [], row := [] }) f.takes
    log0 := { f.log0 with rows := [] }, log1 := { f.log1 with rows := [] } }

/-- The state that an L2 reset leaves (R97, R117): the datapath clusters and their registers are reset, DRAM is in self-refresh, the write
buffer and the shadow are gone. The always-on and management domains go on. -/
def State.warm (s0 : State) : State :=
  let s := dropWork (shadowClear s0)
  { s with
    rst := { s.rst with stage := .l2Clocks, level := .l2, lastTarget := 0, dpUp := false, hostUp := false, l3Held := s.rst.l3Held.filter (· == .mgmt) }
    clk := { (cdcReset (fun k => decide (3 ≤ k ∧ k ≤ 10)) s).clk with good := s.clk.good &&& 0x1807 }
    pwr := { s.pwr with state := .run, req := 0, transit := none, proposed := none, flushing := false }
    cfg := { s.cfg with reread := none }
    fab := {}
    qpc := { gens := s.qpc.gens }
    cmd := { nextAcc := s.cmd.nextAcc }
    ing := {}
    prt := s.prt.rejoin
    cmp := {}
    fpr := { index := s.fpr.index }
    cip := { clearedCause := some 1 }
    ftl := warmFtl s.ftl
    par := { nextId := s.par.nextId }
    jnl := { ({} : Jnl) with recs := s.jnl.recs, spans := s.jnl.spans, peer := s.jnl.peer, nextRec := s.jnl.nextRec, place := s.jnl.place, jseq := s.jnl.jseq }
    sld := { ports := (s.sld.ports.filter fun e => e.2.raw).map fun e => (e.1, { raw := true : SledPort }), epoch := s.sld.epoch }
    rpl := { snaps := s.rpl.snaps, pages := s.rpl.pages, sseq := s.rpl.sseq, pseq := s.rpl.pseq, heldTakes := s.rpl.heldTakes
             sources := tabMap (fun _ x => { last := x.last, nonce := x.nonce, delTakes := x.delTakes : Source }) s.rpl.sources
             replicas := tabMap (fun _ r => { r with held := [] }) s.rpl.replicas }
    buf := { s.buf with selfRef := s.buf.trained, exiting := 0 }
    adp := {} }

/-! ## L3 resets -/

/-- The commands under way in an engine end with ENGINE_RESET and its code (R93). -/
def engineReset (t : Target) (mine : Cmd → Bool) (s : State) : State :=
  ((s.cmd.cmds.filter fun c => c.held.isNone && mine c).map (·.acc)).foldl (fun s a => finish a 0x14 0 t.code 0 [] (dropWindows a s)) s

/-- Host sub-ports go down with no event and no new training (R96, R105). -/
def subsSilent (s : State) : State := s.onFab fun f => { f with subUp := 0, training := 0, stopped := [], latch := f.latch ||| f.subUp }

/-- An L3 reset of FAB (R117): links and connections are down; addresses taken from the partner wait for their sub-ports. -/
def resetFab (s : State) : State :=
  let s1 := (setBits s.fab.subUp).foldl (fun s p => raise 0x0101 p .all s) (subsSilent s)
  let s2 := (s1.qpc.ctx.map (·.1)).foldl (fun s i => qpError i none s) s1
  s2.onFab fun f => { ({} : Fab) with addrTaken := f.addrTaken, addrWait := f.addrTaken }

/-- An L3 reset of QPC (R117): the cache and the miss buffers are cleared, the contexts stay in their backing store. -/
def resetQpc (s : State) : State :=
  s.onQpc fun q => { ({} : Qpc) with ctx := tabMap (fun _ c => { c with cached := false }) q.ctx, gens := q.gens, ckptLag := 0 }

/-- An L3 reset of CMD (R201): writes whose conditions held complete with SUCCESS, every other command with ENGINE_RESET. -/
def resetCmd (s : State) : State :=
  let s1 := (s.cmd.cmds.map (·.acc)).foldl (fun s a => checkWrite a s) s
  (engineReset .cmd (fun _ => true) s1).onCmd fun u =>
    { ({} : CmdU) with cmds := u.cmds, nextAcc := u.nextAcc, wins := u.wins, tags := u.tags, nextWin := u.nextWin, orphans := u.orphans
                       holdDirty := u.holdDirty, holdShare := u.holdShare }

/-- An L3 reset of ING: writes whose data is not all in the write buffer end; DRAM keeps the buffer, the backlog and the shadow (R117). -/
def resetIng (s : State) : State :=
  let going (c : Cmd) : Bool := c.takesData && c.namedBytes != 0 && decide (c.blocksIn.length + c.blocksBad.length < c.blocks)
  (engineReset .ing going s).onIng fun i =>
    { i with frags := [], failSel := 0, failCnt := [], failLast := 0, failTime := 0, repaired := 0, unrecovered := 0, dedupMismatch := 0
             teeLat := 0, dirtyPeak := 0, segfail := false }

/-- An L3 reset of FPR (R272): both banks are cleared, and every test is positive until the rebuild that starts. -/
def resetFpr (s : State) : State := s.onFpr fun f => { ({} : Fpr) with index := f.index, allPositive := true }

/-- An L3 reset of CMP (R272): each running job ends with ENGINE_RESET; how far it had come is not stated (free values, log entry 3). -/
def resetCmp (s : State) : State :=
  let go := s.cmp.jobs.foldl (fun (a : List CmpDone × State) j =>
    let (n, s1) := a.2.freeNat 17
    let (b, s2) := s1.freeNat 32
    let (o, s3) := s2.freeNat 32
    (a.1 ++ [{ jobId := j.jobId, status := 4, inBlocks := min n j.blocks, inBytes := b, outBytes := min o j.outSize }], s3)) ([], s)
  go.2.onCmp fun c => { ({} : Cmp) with done := c.done ++ go.1 }

/-- An L3 reset of CIP (R260, R272): every slot and saved context goes, each user of GCM is told its messages have failed, and the partner
link has no key. -/
def resetCip (s : State) : State :=
  let refs := (tabVals s.cip.lanes ++ s.cip.waiting).map (·.ref) ++ (s.cip.ctxRam ++ s.cip.ctxSpill).map (·.ref)
  let s1 := refs.foldl (fun s r => gcmFail r s) s
  let s2 := s1.onCip fun _ => { ({} : Cip) with clearedCause := some 2 }
  if s2.prt.session.isSome then plKeyAlarm (plSessionEnd s2) else s2

/-- A relocation is given up (R354): its target is a spare to be erased, the block goes on as it was. -/
def dropReloc (r : Reloc) (s : State) : State :=
  onBlk r.die r.src (fun b => { b with moving := false, spare := false, state := if b.state = .russet then b.state else if r.going then .indigo else .sable })
    (onBlk r.die r.dst (fun b => { b with state := .sable, spare := true, seg := 0 }) s)

/-- An L3 reset of FTL: the commands whose map change is under way end; collections and relocations start again from what is durable. -/
def resetFtl (s : State) : State :=
  let going (c : Cmd) : Bool := !c.takesData && !c.isRead && decide (c.phase = .moving)
  let s1 := s.ftl.relocs.foldl (fun s r => dropReloc r s) (engineReset .ftl going s)
  let keep (j : Job) : Bool := match j.what with
    | .gc .. => false
    | .reloc .. => false
    | _ => true
  (s1.onPar fun p => { p with jobs := p.jobs.filter keep, rows := p.rows.filter fun r => r.kind != RowKind.gc && r.kind != RowKind.reloc }).onFtl fun f =>
    { f with relocs := [], tops := tabMap (fun _ t => { t with collect := if t.collect.any (·.trimmed) then t.collect else none }) f.tops
             dieSel := 0, blkSel := 0, unitSel := 0, gcSect := 0, erases := 0, mapLag := 0, retired := 0, relocRefresh := 0, relocWear := 0
             rtRetries := 0, rtFails := 0, shareFull := 0, gcDiscard := 0, healthChg := 0 }

/-- Commands that a job of some kind serves end with ENGINE_RESET. -/
def readsReset (t : Target) (mine : Job → Bool) (s : State) : State :=
  let accs := (s.par.jobs.filter mine).filterMap fun j => match j.what with
    | .cmd a _ => some a
    | _ => none
  engineReset t (fun c => accs.contains c.acc) s

/-- An L3 reset of PAR: reads under reconstruction for commands end, others begin again. -/
def resetPar (s : State) : State :=
  let s1 := readsReset .par (fun j => j.got != []) s
  let s2 := s1.onPar fun p =>
    { p with jobs := p.jobs.map fun j => { j with got := [] }, rbRate := 0, twoErase := 0, unrecovered := 0, rmwReads := 0, closed := 0
             patrolPos := 0, patrolSkip := [], passes := 0, patrolFix := 0, patrolUnfix := 0, substSel := 0 }
  (s2.par.jobs.map (·.id)).foldl (fun s i => advanceJob i s) s2

/-- An L3 reset of JNL: its records stand in DRAM (R117); its counters are cleared. -/
def resetJnl (s : State) : State :=
  s.onJnl fun j => { j with peak := 0, fullWait := 0, commitMax := 0, spillLag := 0, replayed := 0 }

/-- A sled port restarts with the link down (R117): what it had outstanding is asked again when the sled is back (R418). -/
def portRestart (p : Nat) (s : State) : State :=
  let q := s.port p
  if ¬ q.live then onPort p (fun q => { q with state := .down }) s
  else
    let again (t : OslTx) : Bool := t.outlives || (match t.what with
      | .read .. => true
      | _ => false)
    let kept := (q.tx.filter fun t => again t.2).map fun t => (t.1, { t.2 with overdue := true })
    let s1 := portClose p (onPort p (fun q => { q with tx := [], queue := [] }) s)
    (onPort p (fun q => { q with tx := kept }) s1).onFtl fun f =>
      { f with blks := tabMap (fun k e => if k.1 / 64 = p then { e with probe := none } else e) f.blks }

/-- An L3 reset of SLD: reads on their way for commands end; every port restarts. -/
def resetSld (s : State) : State :=
  let s1 := readsReset .sld (fun j => j.out != []) s
  let s2 := (s1.sld.ports.map (·.1)).foldl (fun s p => portRestart p s) s1
  s2.onSld fun l => { ({} : Sld) with ports := l.ports, epoch := l.epoch }

/-- An L3 reset of RPL: its sessions end (R473), and the commands that replication serves. -/
def resetRpl (s : State) : State :=
  let s1 := engineReset .rpl (fun c => c.op == 0x59 || c.op == 0x5A) s
  let s2 := (List.range 16).foldl (fun s t => match (s.target t).conn with
    | some i => closeCtx i (sessionEnd t s)
    | none => s) s1
  s2.onRpl fun r => { r with preserveFail := 0, tgtSel := 0, tx := 0, points := 0, chunkFail := 0 }

/-- The loops start again (R520, R538): every cluster at VF_FMIN, AL-GC with no pace, AL-RB at its lowest rate, ADP_FREEZE as the image says. -/
def loopsRestart (s : State) : State :=
  s.onAdp fun _ =>
    { freeze := BitVec.ofNat 6 (s.param P.adpFreezeInit), freq := List.replicate 8 (s.param P.vfFmin) }

/-- An L3 reset of the management domain (R93, R117, R577): the core's state, the event recorder and the update under way are cleared. Fans
that a failure drives at full speed stay so, and DEBUG stays (R546, R550). -/
def resetMgmt (s : State) : State :=
  let s1 := ((cdcReset (· == 1) s).onRst fun r => { r with mgUp := false, wdogOn := false, wdogFirst := false, wdogLeft := 0 }).onMgt fun m =>
    { ({} : Mgt) with recovery := m.recovery, debug := m.debug, fanFailed := m.fanFailed, linkUp := m.linkUp, linkDn := m.linkDn, linkEth := m.linkEth }
  let s2 := ((s1.onEvr fun e => { sseq := e.sseq }).onMsr fun m => { m with busy := false, sel := 0, jobDone := false }).onChain fun _ => {}
  (s2.onUpd fun u =>
    { ({} : Upd) with other := u.other, pend := u.pend, pendSlot := u.pendSlot, pendSeq := u.pendSeq, confirmed := u.confirmed
                      updId := if u.pend then u.updId else 0, updating := u.pend, state := if u.pend then .confirming else .idle }).onBus fun b =>
    { core := { lows := b.core.lows }, jtag := { b.jtag with msrLatch := List.replicate 12 0 } }

/-- What an L3 reset does to its target at once (R93, R117). -/
def resetTarget (t : Target) (s : State) : State :=
  match t with
  | .fab => resetFab s
  | .qpc => resetQpc s
  | .cmd => resetCmd s
  | .ing => resetIng s
  | .fpr => resetFpr s
  | .cmp => resetCmp s
  | .cip => resetCip s
  | .ftl => resetFtl s
  | .par => resetPar s
  | .jnl => resetJnl s
  | .sld => resetSld s
  | .rpl => resetRpl s
  | .adp => loopsRestart s
  | .mgmt => resetMgmt s

/-- The management core starts (R91, R95 step 4): the watchdog runs, and a load from the alternate is recorded (R79). -/
def startCore (s : State) : State :=
  let s1 := s.onRst fun r => { r with mgUp := true, wdogOn := true, wdogFirst := false, wdogLeft := BitVec.ofNat 24 (s.param P.wdogPeriod) }
  if s.mgt.recovery ∨ s.cfg.src = .primary then s1 else note 0x1002 s.cfg.codeP.toNat s1

/-- The core starts from mask ROM in recovery mode (R76, R558, R584). -/
def startRecovery (s : State) : State :=
  let s1 := msrExtend 1 [2] (s.onMgt fun m => { m with recovery := true })
  note 0x1009 (s.cfg.codeP.toNat + s.cfg.codeA.toNat * 2 ^ 8) (startCore s1)

/-- A reread under R77 starts, or starts again with another target to serve. -/
def beginReread (why : Reread) (s : State) : State :=
  let w := if why = .l3 then s.cfg.reread.getD .l3 else why
  readSlot (s.onCfg fun c => { c with reread := some w, recs := [], recFails := 0, pos := 0 })

/-- An L3 reset of a target (R93): held until its records are read again. -/
def startL3 (t : Target) (s : State) : State :=
  let s1 := resetTarget t (s.onRst fun r =>
    { r with level := .l3, lastTarget := BitVec.ofNat 5 t.code, l3Held := if r.l3Held.contains t then r.l3Held else r.l3Held ++ [t] })
  if s.rst.stage = .l2Clocks then s1 else beginReread .l3 s1

/-! ## A reset arrives -/

/-- An L2 or L3 reset is over (R118; DEDUCED, log entry 37: it is counted when it is). -/
def countReset (l : Level) (s : State) : State :=
  s.onRst fun r => { r with newCause := 0, countL2 := if l = .l2 then satInc r.countL2 else r.countL2, countL3 := if l = .l3 then satInc r.countL3 else r.countL3 }

/-- A reset at a level (R86, R88, R124). One that is no deeper than the reset in progress joins it; a deeper one takes its place. After the
always-on release and before the datapath's, an L2 or L3 reset starts a load under way anew (R80), and of what is already released only the
management core can be reset. -/
def resetAt (l : Level) (t : Option Target) (c : Cause) (s : State) : State :=
  let s1 := addCause l c s
  let cold := s.rst.stage = .held ∨ s.rst.stage = .por
  if l.depth < 2 ∨ cold then
    if cold then
      if l.depth < s.rst.level.depth then startCold l s1 else tryRelease (s1.onRst fun r => { r with stage := .held })
    else startCold l s1
  else match s.rst.stage with
    | .railWait => countReset l s1
    | .loading => startLoad (countReset l s1)
    | .loadFailed => if t = some .mgmt then startRecovery (resetMgmt (countReset l s1)) else countReset l s1
    | .run | .l2Clocks | .l2Reread =>
      if s.pwr.state = .dormant ∧ s.rst.stage = .run then
        -- nothing below the always-on domain is powered: the head comes up as from Dormant
        wakeDormant ((countReset l s1).onPwr fun p => { p with req := 0, transit := some .run })
      else if l = .l2 then (if s.rst.stage = .run then s1.warm else s1)
      else match t with
        | some x => if s.rst.stage = .run ∨ x = .mgmt then startL3 x s1 else s1
        | none => s1
    | _ => if t = some .mgmt ∧ s.rst.mgUp then startCore (resetMgmt (countReset l s1)) else countReset l s1

/-- A reset of a source arrives at the level its fuse gives (R87), or waits for a hold's flush (R120). -/
def resetBy (c : Cause) (s : State) : State :=
  let (l, t) := s.part.levelOf c
  if s.pwr.flushing ∧ (c = .wdog ∨ c = .partner) then s.onRst fun r => { r with deferred := r.deferred ++ [(l, t, c)] }
  else resetAt l t c s

/-- A management soft reset asked at a level (R92): never deeper than the fuse entry. -/
def softReset (l : Level) (t : Option Target) (s : State) : State :=
  let floor := (s.part.levelOf .soft).1
  let l1 := if l.depth < floor.depth then floor else l
  if s.pwr.flushing then s.onRst fun r => { r with deferred := r.deferred ++ [(l1, t, .soft)] }
  else resetAt l1 t .soft s

/-- Resets that waited for a hold's flush arrive (R120). -/
def releaseDeferred (s : State) : State :=
  s.rst.deferred.foldl (fun s d => resetAt d.1 d.2.1 d.2.2 s) (s.onRst fun r => { r with deferred := [] })

/-- The escalation of R77. -/
def escalate (s : State) : State := resetAt .l1 none .escalate s

end Sys2Proof.Machine
end

