-- ==== Sys2Proof/Machine/Boot.lean ====
section
/-! DEFINITION. The release order (R94, R95, R597), the loader's sequence and its rereads (R74 to R85), the brown-out hold (R112 to R116),
and the clocks (R96, R103). -/

namespace Sys2Proof.Machine

/-! ## The hold -/

/-- Whether the supply warns now (R112). -/
def State.supplyWarns (s : State) : Bool := s.pwr.warnLow || s.pwr.railLow != 0

/-- A brown-out hold starts (R112, R113): the write buffer is flushed, open journal records and map deltas are spilled. A dip during a hold
only stops the clear interval (R114). -/
def beginHold (s : State) : State :=
  if s.pwr.hold then s.onPwr fun p => { p with borRuns := false }
  else
    let s1 := s.onPwr fun p => { p with hold := true, borRuns := false, holdCount := satInc p.holdCount, flushing := s.rst.dpUp }
    let s2 := note 0x1102 (s.pwr.railLow.toNat + b2n s.pwr.warnLow * 2 ^ 16) s1
    if s.rst.dpUp then (if s.prt.pair = .lone then [0, 1] else [s.head]).foldl (fun s h => forceLog h s) (spillWaiting s2) else s2

/-- Whether a hold can start: from step 8 of R74 on, and in the load-failed state (R81, R112). -/
def State.holdCan (s : State) : Bool :=
  match s.rst.stage with
  | .held | .por | .railWait | .loading => false
  | _ => true

/-- The supply warns (R112). -/
def supplyLow (rail : Option Nat) (s : State) : State :=
  let s1 := s.onPwr fun p => match rail with
    | some r => { p with railLow := setBit p.railLow r true, railLatch := setBit p.railLatch r true }
    | none => { p with warnLow := true }
  if s1.holdCan then beginHold s1 else s1

/-- HOLD_START. -/
def execHoldStart (rail : Option Nat) (s : State) : Host.Outcome State Fault Refusal := .next (after (supplyLow rail s))

/-- The clear interval starts once nothing warns (R114). -/
def supplyClear (s : State) : State := if s.pwr.hold ∧ ¬ s.supplyWarns then s.onPwr fun p => { p with borRuns := true } else s

/-- PWR_WARN_N_HIGH (R114). -/
def execPwrWarnNHigh (s : State) : Host.Outcome State Fault Refusal := .next (supplyClear (s.onPwr fun p => { p with warnLow := false }))

/-- tBOR of clear supply has passed (R114): the hold ends, and what it held back goes on. -/
def holdClear (s : State) : State :=
  if s.pwr.hold ∧ s.pwr.borRuns then updRetry (after (s.onPwr fun p => { p with hold := false, borRuns := false })) else s

/-- HOLD_CLEAR_TIMER. -/
def execHoldClearTimer (s : State) : Host.Outcome State Fault Refusal := .next (holdClear s)

/-- HOLD_FLUSH_DONE (R120): the flush and spill are complete, and resets that waited for them arrive. -/
def execHoldFlushDone (s : State) : Host.Outcome State Fault Refusal :=
  .next (if s.pwr.flushing then after (releaseDeferred (s.onPwr fun p => { p with flushing := false })) else s)

/-! ## The loader -/

/-- A device's load fails with a code (R74 step 7): the alternate follows the primary, after the alternate the load has failed (R76). -/
def deviceFailed (code : Nat) (s : State) : State :=
  let fresh (c : Cfg) : Cfg := { c with opt := List.replicate 64 0, slotB := false, recs := [], bytes := [], recFails := 0, rereadWait := false }
  match s.cfg.dev with
  | .primary => (s.onCfg fun c => { fresh c with codeP := BitVec.ofNat 8 code, dev := .alternate, state := .options }).send (.spi .alternate .readOptions)
  | .alternate => ((s.onCfg fun c => { fresh c with codeA := BitVec.ofNat 8 code, state := .failed }).onRst fun r =>
      { r with stage := .loadFailed, dormantWake := false }).onPwr fun p => { p with state := .run, transit := none }

/-- An option-byte read is done (R58 to R60). -/
def optionRead (raw : Bytes) (s : State) : State :=
  if s.rst.stage ≠ .loading ∨ s.cfg.state ≠ .options ∨ s.cfg.rereadWait then s
  else
    let b := raw.take 64
    if raw.length < 64 ∨ ¬ crcGood b then
      let pri := decide (s.cfg.dev = .primary)
      let s1 := s.onCfg fun c => if pri then { c with optP := satInc c.optP } else { c with optA := satInc c.optA }
      if 8 ≤ (if pri then s1.cfg.optP else s1.cfg.optA).toNat then deviceFailed 0x10 s1 else s1.onCfg fun c => { c with rereadWait := true }
    else if ¬ optFormatGood b then deviceFailed 0x11 s
    else
      let slotB := optSlotB b
      let s1 := s.onCfg fun c => { c with opt := b, slotB := slotB, state := .image, recs := [], bytes := [], recFails := 0 }
      let s2 := if bitAt (fieldLe b 5 1) 4 then s1.send (.spi s.cfg.dev .enter4) else s1
      readSlot s2

/-- OPTION_BYTE_READ_DONE. -/
def execOptionByteReadDone (raw : Bytes) (s : State) : Host.Outcome State Fault Refusal := .next (optionRead raw s)

/-- OPTION_REREAD_TIMER (R58). -/
def execOptionRereadTimer (s : State) : Host.Outcome State Fault Refusal :=
  .next (if s.rst.stage = .loading ∧ s.cfg.rereadWait then (s.onCfg fun c => { c with rereadWait := false }).send (.spi s.cfg.dev .readOptions) else s)

/-- A failed read of a record of a load or reread (R61, R63, R79): the eighth ends the device's load, or escalates a reread (R77). -/
def recordFailed (index : Nat) (last : State → State) (s : State) : State :=
  let n := s.cfg.recFails + 1
  let most (x : BitVec 4) : BitVec 4 := BitVec.ofNat 4 (max x.toNat n)
  let s1 := s.onCfg fun c =>
    { c with recFails := n, failRec := word index
             recP := if c.dev = .primary then most c.recP else c.recP, recA := if c.dev = .alternate then most c.recA else c.recA }
  if 8 ≤ n then last s1 else s1

/-- One record of the load has been read (R61 to R64, R610). -/
def loadRecord (raw : Bytes) (s : State) : State :=
  let c := s.cfg
  match recCheck s.part (optSlot c.opt c.slotB).2 (some (fieldLe c.opt 36 4)) c.recs c.bytes.length raw with
  | .again => recordFailed c.recs.length (deviceFailed 0x20) s
  | .bad code => deviceFailed code s
  | .good ty body =>
    let s1 := s.onCfg fun c => { c with recs := c.recs ++ [(ty, body)], bytes := c.bytes ++ raw, recFails := 0 }
    if ty = some 0xFFFF then s1.onCfg fun c => { c with state := .checks }
    else if fieldLe (recBody s1.cfg.recs 0x0001) 4 4 ≤ s1.cfg.bytes.length then deviceFailed 0x21 s1
    else s1

/-! ## Release -/

/-- The health of every unit as it stands at release, with no change to report (R303). -/
def healthBase (s : State) : State :=
  s.onFtl fun f => { f with health := ((List.range s.units.length).filter s.serves).map fun u => (u, s.healthOf u, s.marginField u) }

/-- CIP says that its slots are cleared (R260), and with which cause. -/
def slotsCleared (s : State) : State :=
  match s.cip.clearedCause with
  | some k => note 0x0708 k (s.onCip fun c => { c with clearedCause := none })
  | none => s

/-- Every sub-port starts auto-negotiation (R129). -/
def hostPortsStart (s : State) : State := (List.range 16).foldl (fun s p => autoneg p s) s

/-- Every sled port whose sled is present starts (R418). -/
def sledPortsStart (s : State) : State := (s.sld.ports.map (·.1)).foldl (fun s p => portStart p s) s

/-- The datapath, the sled ports, the partner link and the host ports are released (R95 steps 6 to 8, R97 step 5): the head is Joining. On a
wake from Dormant the host ports follow with WAKE_COMPLETE. -/
def releaseDatapath (s : State) : State :=
  let wakes := s.rst.dormantWake
  let s1 := s.onRst fun r => { r with stage := .run, dpUp := true, hostUp := !wakes }
  let s2 := s1.onSld fun l => { l with ports := tabMap (fun _ q => { q with present := q.raw }) l.ports }
  let s3 := slotsCleared (sledPortsStart (healthBase (loopsRestart s2)))
  releaseDeferred (if wakes then s3 else hostPortsStart s3)

/-- An L2 reset ends once its records are read again and DRAM is out of self-refresh (R97 steps 4 and 5). -/
def l2Release (s : State) : State :=
  if s.rst.stage = .l2Reread ∧ s.cfg.reread.isNone ∧ s.buf.exiting = 0 then countReset .l2 (releaseDatapath s) else s

/-- An L3 target is restarted (R93). -/
def restartTarget (t : Target) (s : State) : State :=
  countReset .l3 (match t with
    | .fab => hostPortsStart s
    | .fpr => fpRebuild s
    | .cip => slotsCleared s
    | .sld => sledPortsStart s
    | .rpl => openTargets s
    | .adp => loopsRestart s
    | .mgmt => startCore s
    | _ => s)

/-- The targets held by L3 resets restart once their records are read; the management domain waits for its clock too (R93, R96). -/
def l3Release (s : State) : State :=
  if s.cfg.reread.isSome ∨ s.rst.stage = .l2Clocks then s
  else
    let go := s.rst.l3Held.filter fun t => t != .mgmt || getBit s.clk.good 1
    go.foldl (fun s t => restartTarget t s) (s.onRst fun r => { r with l3Held := r.l3Held.filter fun t => !go.contains t })

/-! ## Rereads -/

/-- The record types that an L3 target has read again (R77). -/
def Target.records : Target → List Nat
  | .fab => [0x0010, 0x0020]
  | .qpc => [0x0010]
  | .cmd | .ing | .fpr | .cmp | .cip | .rpl => [0x0010, 0x0040]
  | .ftl => [0x0010, 0x0030, 0x0040]
  | .par | .jnl | .sld => [0x0010, 0x0030]
  | .adp | .mgmt => [0x0010]

/-- The record types, besides TRAILER, and the parameter groups of the reread in progress (R77). -/
def State.rereadScope (s : State) : List Nat × List Nat :=
  let held := (s.rst.l3Held.flatMap Target.records, s.rst.l3Held.map Target.block)
  if s.cfg.reread = some .l3 then held
  else ([0x0010, 0x0020, 0x0030, 0x0040] ++ held.1, (List.range 16).filter (fun g => g != 0 && g != 8) ++ held.2)

/-- Apply what a reread has read (R77 step 4). -/
def applyReread (s : State) : State :=
  let (types, groups) := s.rereadScope
  let new := imageOf s.cfg.recs
  let inGroup (e : PEntry) : Bool := groups.contains (e.id / 256)
  let s1 := s.onCfg fun c =>
    { c with reread := none, recs := [], recFails := 0
             img := c.img.map fun i =>
               { i with entries := (i.entries.filter fun e => !inGroup e) ++ new.entries.filter inGroup
                        addrs := if types.contains 0x0020 then new.addrs else i.addrs
                        units := if types.contains 0x0030 then new.units else i.units
                        vols := if types.contains 0x0040 then new.vols else i.vols } }
  l2Release (l3Release s1)

/-- One record frame of a reread (R77 steps 1 to 3): the records the table names are read in full and their REC_CRC checked, of the others
only the frame; the digest in TRAILER must be that in force. -/
def rereadRecord (raw : Bytes) (s : State) : State :=
  let len := fieldLe raw 4 4
  let ty := fieldLe raw 0 2
  let wanted := ty == 0xFFFF || s.rereadScope.1.contains ty
  if wanted ∧ (raw.length ≠ 16 + len ∨ ¬ crcGood raw) then recordFailed (fieldLe raw 8 4) escalate s
  else
    let s1 := s.onCfg fun c => { c with pos := c.pos + 16 + len, recFails := 0, recs := if wanted then c.recs ++ [(some ty, slice raw 12 len)] else c.recs }
    let img := s.cfg.img.getD {}
    if ty = 0xFFFF then (if (slice raw 12 len).take 48 = img.digest then applyReread s1 else escalate s1)
    else if img.imgLen ≤ s1.cfg.pos then escalate s1
    else s1

/-! ## The checks -/

/-- An image has passed (R74 steps 4 to 6 and 8): it is in force, MSR2 and MSR3 are extended, the management domain's PLL starts. A pending
update waits for its confirmation (R568). -/
def imageLoaded (im : Image) (s : State) : State :=
  let c := s.cfg
  let s1 := s.onCfg fun c =>
    { c with state := .done, img := some im, src := c.dev, codeP := if c.dev = .primary then 1 else c.codeP, codeA := if c.dev = .alternate then 1 else c.codeA
             recs := [], bytes := [], loadTime := word (satN 32 (s.since c.loadStart / usTicks)) }
  let s2 := msrExtend 3 im.digest (msrExtend 2 (sha384 c.opt) s1)
  let s3 := (s2.onRst fun r => { r with stage := .mgStart }).onUpd fun u => if u.pend then { u with state := .confirming } else u
  let s4 := if s3.upd.pend ∧ c.dev = .alternate then updRollBack s3 else s3
  if s4.supplyWarns then beginHold s4 else s4

/-- The checks after TRAILER are done (R74 step 4). -/
def loadChecks (s : State) : State :=
  if s.rst.stage ≠ .loading ∨ s.cfg.state ≠ .checks then s
  else match imageVerdict s.part s.cfg.recs s.cfg.bytes with
    | none => imageLoaded (imageOf s.cfg.recs) s
    | some code => deviceFailed code s

/-- LOAD_CHECKS_DONE. -/
def execLoadChecksDone (s : State) : Host.Outcome State Fault Refusal := .next (loadChecks s)

/-! ## The always-on domain -/

/-- AO_RAILS_IN_RANGE (R95). -/
def execAoRailsInRange (s : State) : Host.Outcome State Fault Refusal :=
  .next (if s.rst.aoRails then s else tryRelease (s.onRst fun r => { r with aoRails := true }))

/-- AO_RELEASE_TIMER (R95): tPOR has passed. -/
def execAoReleaseTimer (s : State) : Host.Outcome State Fault Refusal := .next (if s.rst.stage = .por then aoRelease s else s)

/-- RAIL_WAIT_END (R597): every rail is above its warning level; the straps are sampled and the load begins (R74 step 1, R85). -/
def execRailWaitEnd (headId prefHead : Bool) (s : State) : Host.Outcome State Fault Refusal :=
  .next (if s.rst.stage = .railWait then
      startLoad ((s.onRst fun r => { r with headId := headId, prefHead := prefHead }).onPwr fun p => { p with railLow := 0 })
    else s)

/-! ## Clocks -/

/-- The clocks of the clusters and of the SerDes (R94): every one of the last ten bits of CLK_STAT. -/
def State.lateClocks (s : State) : Bool := (List.range 10).all fun k => getBit s.clk.good (k + 3)

/-- The clusters' clocks. -/
def State.dpClocks (s : State) : Bool := (List.range 8).all fun k => getBit s.clk.good (k + 3)

/-- A domain's clock is good (R94, R95): what waited for it is released. 0 AO, 1 MG, 2 DDR, 3 to 10 DP0 to DP7, 11 HSS, 12 SLS. -/
def clockGood (d : Nat) (s : State) : State :=
  let s1 := s.onClk fun c => { c with good := setBit c.good d true }
  if 12 < d ∨ (d ≠ 0 ∧ ¬ s.rst.aoUp) then s
  else match s.rst.stage with
    | .railWait | .loading => if d = 0 ∨ 11 ≤ d then s1 else s
    | .mgStart => if d = 1 then startCore (s1.onRst fun r => { r with stage := .ddrStart }) else if 11 ≤ d then s1 else s
    | .loadFailed => if d = 1 ∧ ¬ s.rst.mgUp then startRecovery s1 else if 11 ≤ d then s1 else s
    | .ddrStart =>
      if d = 2 then ((s1.onRst fun r => { r with ddrUp := true }).onBuf fun b => { b with state := 1 }).send (.pin (.ddrResetN false))
      else if d = 1 ∨ 11 ≤ d then l3Release s1 else s
    | .dpStart => if d = 2 then s else if s1.lateClocks then releaseDatapath s1 else s1
    | .l2Clocks =>
      if s1.dpClocks then
        beginReread .l2 ((s1.onRst fun r => { r with stage := .l2Reread }).onBuf fun b => { b with exiting := b.selfRef })
      else s1
    | _ => if d = 1 then l3Release s1 else s1

/-- CLOCK_GOOD. -/
def execClockGood (domain : Nat) (s : State) : Host.Outcome State Fault Refusal := .next (after (clockGood domain s))

/-- The host and partner links go down with their clock (R96): PRT acts as on link loss. -/
def hssDown (s : State) : State :=
  let s1 := (setBits s.fab.subUp).foldl (fun s p => subDown p s) s
  (List.range 4).foldl (fun s g => plGroup g false s) (s1.onFab fun f => { f with training := 0 })

/-- A domain's clock fails after release (R96). -/
def domainFails (d : Nat) (s : State) : State :=
  let lost (s : State) : State := s.onClk fun c => { c with good := setBit c.good d false, fail := setBit c.fail d true }
  if 12 < d ∨ ¬ getBit s.clk.good d then s
  else if d = 0 then lost (resetAt .l0 none .clkfail (s.onRst fun r => { r with ref25 := false }))
  else if d = 1 then lost (resetAt .l3 (some .mgmt) .clkfail (s.onClk fun c => { c with good := setBit c.good 1 false }))
  else if d = 2 then lost (resetAt .l1 none .clkfail s)
  else if d ≤ 10 then lost (resetAt .l2 none .clkfail s)
  else if d = 11 then lost (hssDown s)
  else lost ((s.sld.ports.map (·.1)).foldl (fun s p => portDown p 3 s) s)

/-- A clock fails (R96): a domain by its bit of CLK_STAT, or a reference by its frequency in MHz with every domain that runs from it. -/
def clockFailure (source : Nat) (s : State) : State :=
  if source = 25 then
    if s.rst.ref25 then (resetAt .l0 none .clkfail (s.onRst fun r => { r with ref25 := false })).onClk fun c => { c with good := setBit c.good 0 false, fail := setBit c.fail 0 true }
    else s
  else if source = 156 then
    -- DDR fails with it, which is an L1 reset; the clusters and the links share that reset
    (domainFails 2 (s.onClk fun c => { c with ref156 := false })).onClk fun c =>
      { c with good := c.good &&& 0x1003, fail := c.fail ||| (s.clk.good &&& 0x0FFC) }
  else if source = 100 then domainFails 12 (s.onClk fun c => { c with ref100 := false })
  else domainFails source s

/-- CLOCK_FAILURE. -/
def execClockFailure (source : Nat) (s : State) : Host.Outcome State Fault Refusal := .next (after (clockFailure source s))

/-- A reference clock returns (R96): the L0 hold of the AO loss ends, or the links that went down train again. -/
def refclkReturn (source : Nat) (s : State) : State :=
  if source = 25 then (if s.rst.ref25 then s else tryRelease (s.onRst fun r => { r with ref25 := true }))
  else if source = 156 then
    let s1 := s.onClk fun c => { c with ref156 := true }
    if s.rst.hostUp then (List.range 16).foldl (fun s p => if s.subIsUp p then s else autoneg p s) s1 else s1
  else if source = 100 then sledPortsStart (s.onClk fun c => { c with ref100 := true })
  else s

/-- REFCLK_RETURN. -/
def execRefclkReturn (source : Nat) (s : State) : Host.Outcome State Fault Refusal := .next (after (refclkReturn source s))

/-- CDC_FALLBACK (R103, R584). -/
def execCdcFallback (crossing : Nat) (s : State) : Host.Outcome State Fault Refusal :=
  .next (let k := crossing % 2 ^ 10
    if (tabGetD k {} s.clk.cdc).onQueue then s
    else note 0x1103 k (s.onClk fun c => { c with cdc := tabUpdD k {} (fun x => { x with onQueue := true }) c.cdc }))

end Sys2Proof.Machine
end

