-- ==== Sys2Proof/Machine/PowerStates.lean ====
section
/-! DEFINITION. The rows of the reset sources (R89 to R93, R115, R438), of the power states (R105 to R111, R117, R122, R123) and of the status
lights (R603). -/

namespace Sys2Proof.Machine

/-! ## Reset sources -/

/-- A rail falls below its brown-out reset level (R115). -/
def brownout (rail : Nat) (s : State) : State :=
  if 16 ≤ rail ∨ getBit s.rst.brown rail then s
  else resetBy .brownout ((s.onRst fun r => { r with brown := setBit r.brown rail true }).onPwr fun p => { p with railLow := setBit p.railLow rail true })

/-- BROWNOUT_RESET. -/
def execBrownoutReset (rail : Nat) (s : State) : Host.Outcome State Fault Refusal := .next (brownout rail s)

/-- A rail recovers (R95, R114, R115): above its brown-out level first, where it was below it, then above its warning level. -/
def railRecovers (rail : Nat) (s : State) : State :=
  if getBit s.rst.brown rail then tryRelease (s.onRst fun r => { r with brown := setBit r.brown rail false })
  else supplyClear (s.onPwr fun p => { p with railLow := setBit p.railLow rail false })

/-- RAIL_RECOVERED. -/
def execRailRecovered (rail : Nat) (s : State) : Host.Outcome State Fault Refusal := .next (railRecovers rail s)

/-- A RESET_N pulse (R89): one shorter than tRSTG is ignored, one of at least tRSTW is a reset; between them either may happen (free value). -/
def resetNLow (ns : Nat) (s : State) : State :=
  let take (s : State) : State := resetBy .ext (s.onRst fun r => { r with extHeld := true })
  if s.rst.extHeld ∨ ns < 100 then s
  else if 1000 ≤ ns then take s
  else match s.freeBit with
    | (true, s1) => take s1
    | (false, s1) => s1

/-- RESET_N_LOW. -/
def execResetNLow (ns : Nat) (s : State) : Host.Outcome State Fault Refusal := .next (resetNLow ns s)

/-- RESET_N_HIGH (R89). -/
def execResetNHigh (s : State) : Host.Outcome State Fault Refusal :=
  .next (if s.rst.extHeld then tryRelease (s.onRst fun r => { r with extHeld := false }) else s)

/-- The watchdog's period passes (R91): WDOG_FIRST, and the second time in a row a watchdog reset. -/
def watchdogExpiry (s : State) : State :=
  if ¬ s.rst.wdogOn then s
  else if s.rst.wdogFirst then resetBy .wdog (s.onRst fun r => { r with wdogFirst := false })
  else note 0x1101 0 (s.onRst fun r => { r with wdogFirst := true, wdogLeft := BitVec.ofNat 24 (s.param P.wdogPeriod) })

/-- WATCHDOG_EXPIRY. -/
def execWatchdogExpiry (s : State) : Host.Outcome State Fault Refusal := .next (after (watchdogExpiry s))

/-- A write of RST_WDOG_KICK (R91). -/
def wdogKick (v : Nat) (s : State) : State :=
  if v = 0x9640 ∧ s.rst.wdogOn then s.onRst fun r => { r with wdogFirst := false, wdogLeft := BitVec.ofNat 24 (s.param P.wdogPeriod) } else s

/-- RST_WDOG_KICK. -/
def execRstWdogKick (r : Requester) (val : Word) (s : State) : Host.Outcome State Fault Refusal := .next (accessWrite r 0x140014 (wdogKick val.toNat) s)

/-- A write of RST_SOFT (R92): a wrong KEY, or an L3 request for a reserved TARGET, has no effect and is an access error. -/
def softWrite (r : Requester) (v : Nat) (s : State) : State :=
  if bitsAt v 16 16 ≠ 0x9640 then accessError r 0x140008 true s
  else match v % 4 with
    | 0 => softReset .l0 none s
    | 1 => softReset .l1 none s
    | 2 => softReset .l2 none s
    | _ => match targetOf (bitsAt v 2 5) with
      | some t => softReset .l3 (some t) s
      | none => accessError r 0x140008 true s

/-- SOFT_RESET_L0: a write of RST_SOFT, whose value decides. -/
def execSoftResetL0 (r : Requester) (val : Word) (s : State) : Host.Outcome State Fault Refusal := .next (after (accessWrite r 0x140008 (softWrite r val.toNat) s))

/-- SOFT_RESET_L1. -/
def execSoftResetL1 (r : Requester) (val : Word) (s : State) : Host.Outcome State Fault Refusal := .next (after (accessWrite r 0x140008 (softWrite r val.toNat) s))

/-- SOFT_RESET_L2. -/
def execSoftResetL2 (r : Requester) (val : Word) (s : State) : Host.Outcome State Fault Refusal := .next (after (accessWrite r 0x140008 (softWrite r val.toNat) s))

/-- SOFT_RESET_L3. -/
def execSoftResetL3 (r : Requester) (val : Word) (s : State) : Host.Outcome State Fault Refusal := .next (after (accessWrite r 0x140008 (softWrite r val.toNat) s))

/-- The junction temperature of a trip, and of its end, in °C (R90). -/
def State.tripAt (s : State) : Int × Int := if s.part.gradeE then (120, 100) else (115, 95)

/-- The junction reaches the trip level (R90). -/
def thermalTrip (temp : Int) (s : State) : State :=
  if s.rst.trip ∨ temp < s.tripAt.1 then s else resetBy .therm ((s.onRst fun r => { r with trip := true }).send (.pin (.thermTripN true)))

/-- THERMAL_TRIP. -/
def execThermalTrip (temp : Int) (s : State) : Host.Outcome State Fault Refusal := .next (thermalTrip temp s)

/-- The junction has cooled (R90). -/
def thermalTripEnd (temp : Int) (s : State) : State :=
  if ¬ s.rst.trip ∨ s.tripAt.2 < temp then s else tryRelease ((s.onRst fun r => { r with trip := false }).send (.pin (.thermTripN false)))

/-- THERMAL_TRIP_END. -/
def execThermalTripEnd (temp : Int) (s : State) : Host.Outcome State Fault Refusal := .next (thermalTripEnd temp s)

/-- DEBUG_RESET (R93, R546). -/
def execDebugReset (s : State) : Host.Outcome State Fault Refusal := .next (if s.mgt.debug then resetBy .debug s else s)

/-- A RESET_REQ of the partner (R438). -/
def resetReq (s : State) : State :=
  if (s.prt.pair = .joining ∨ s.prt.pair = .fenced) ∧ s.prt.peerState.toNat % 4 = 2 then resetBy .partner s
  else s.onPrt fun p => { p with resetReqDisc := satInc p.resetReqDisc }

/-- PULSE_RESET_REQ. -/
def execPulseResetReq (raw : Bytes) (s : State) : Host.Outcome State Fault Refusal := .next (afterP (pulseDo 2 raw resetReq s))

/-! ## Requests and timers -/

/-- A write of PWR_REQ (R106 to R108): TARGET 0 wakes the head from Armed or Quiet or ends an entry, another requests its state. -/
def pwrWrite (v : Nat) (s : State) : State :=
  let s1 := s.onPwr fun p => { p with req := BitVec.ofNat 2 v }
  if v % 4 = 0 then (if s.pwr.state = .dormant then s1 else wake 3 s1) else powerRequest (powerOf v) s1

/-- PWR_REQ_RUN: a write of PWR_REQ, whose value decides. -/
def execPwrReqRun (r : Requester) (val : Word) (s : State) : Host.Outcome State Fault Refusal := .next (afterP (accessWrite r 0x160000 (pwrWrite val.toNat) s))

/-- PWR_REQ_ARMED. -/
def execPwrReqArmed (r : Requester) (val : Word) (s : State) : Host.Outcome State Fault Refusal := .next (afterP (accessWrite r 0x160000 (pwrWrite val.toNat) s))

/-- PWR_REQ_QUIET. -/
def execPwrReqQuiet (r : Requester) (val : Word) (s : State) : Host.Outcome State Fault Refusal := .next (afterP (accessWrite r 0x160000 (pwrWrite val.toNat) s))

/-- PWR_REQ_DORMANT. -/
def execPwrReqDormant (r : Requester) (val : Word) (s : State) : Host.Outcome State Fault Refusal := .next (afterP (accessWrite r 0x160000 (pwrWrite val.toNat) s))

/-- ARM_IDLE_EXPIRY (R107, R119): Armed is requested, while ARM_IDLE is on. -/
def execArmIdleExpiry (s : State) : Host.Outcome State Fault Refusal :=
  .next (afterP (if s.param P.armIdle ≠ 0 ∧ s.pwr.state = .run then powerRequest .armed s else s))

/-- PWR_WAKE_TIMER (R108, R118): the timestamp reaches it; 0 disables it. -/
def execPwrWakeTimer (s : State) : Host.Outcome State Fault Refusal := .next (afterP (if s.pwr.wakeTimer ≠ 0 then wake 4 s else s))

/-! ## Entry and wake -/

/-- Entry to Armed (R105): the clusters at VF_FMIN, DDRE to DDRL in self-refresh, the sled links at rest. -/
def enterArmed (s : State) : State :=
  let s1 := (s.onBuf fun b => { b with selfRef := b.trained &&& 0xFF0, exiting := 0 }).onAdp fun a => { a with freq := List.replicate 8 (s.param P.vfFmin) }
  (s1.sld.ports.map (·.1)).foldl (fun s p => restIdle p s) s1

/-- A sled port whose link is gated (R105): nothing of it is removed, its sled identifies itself again when the link is back. -/
def SledPort.gated (q : SledPort) : SledPort :=
  { q with
    state := .down, x1 := false, known := false, infoLeft := [], bootsWas := if q.known then some q.boots else q.bootsWas
    fseq := 0, acked := none, naked := false, replay := [], credit := [0, 0, 0, 0], owed := [0, 0, 0, 0], queue := []
    tx := (q.tx.filter fun t => t.2.outlives).map fun t => (t.1, { t.2 with overdue := true }), forTimeout := false, restAsked := false }

/-- Host ports, partner link and sled links in electrical idle (R105), with no loss to report. -/
def linksIdle (s : State) : State :=
  (((subsSilent s).onPrt fun p => { p with groups := 0, session := none, peerHello := none }).onSld fun l =>
    { l with ports := tabMap (fun _ q => q.gated) l.ports }).onClk fun c => { c with good := c.good &&& 0x1807 }

/-- Entry to Quiet (R105): the links idle, every channel in self-refresh, the datapath power-gated. -/
def enterQuiet (s : State) : State := (linksIdle s).onBuf fun b => { b with selfRef := b.trained, exiting := 0 }

/-- Entry to Dormant (R105, R117, R546): the management domain, DRAM and the datapath are not kept; DEBUG is cleared. -/
def enterDormant (s : State) : State :=
  let i := linksIdle (shadowClear s)
  let s1 : State :=
    { part := i.part
      rst := { i.rst with mgUp := false, ddrUp := false, dpUp := false, hostUp := false, wdogOn := false, wdogFirst := false, wdogLeft := 0, l3Held := [] }
      clk := { i.clk with good := i.clk.good &&& 1 }
      pwr := i.pwr
      cfg := { i.cfg with reread := none }
      msr := i.msr
      evr := { sseq := i.evr.sseq }
      upd := { other := i.upd.other, pend := i.upd.pend, pendSlot := i.upd.pendSlot, pendSeq := i.upd.pendSeq, confirmed := i.upd.confirmed
               updId := if i.upd.pend then i.upd.updId else 0, updating := i.upd.pend }
      prt := i.prt
      cip := { clearedCause := some 4 }
      ftl := coldFtl i
      sld := { ports := i.sld.ports, epoch := i.sld.epoch }
      time := i.time, tx := i.tx, free := i.free, pending := i.pending }
  s1.send (.pin (.ddrResetN true))

/-- Entry to a state below Run is complete (R107, R110): its conditions must still hold, else the head stays in Run and, as one of a pair, has
its partner wake. -/
def powerEntered (s : State) : State :=
  match s.pwr.transit with
  | none => s
  | some p =>
    if p = .run then s
    else
      let set (s : State) : State := s.onPwr fun x => { x with state := p, transit := none }
      if s.powerDeny p ≠ 0 then
        let s1 := s.onPwr fun x => { x with transit := none, deny := BitVec.ofNat 4 (s.powerDeny p) }
        if s.prt.pair = .paired then pulseCommand 1 0 s1 else s1
      else match p with
        | .armed => enterArmed (set s)
        | .quiet => enterQuiet (set s)
        | _ => enterDormant (set s)

/-- POWER_ENTRY_DONE. -/
def execPowerEntryDone (s : State) : Host.Outcome State Fault Refusal := .next (afterP (powerEntered s))

/-- A takeover that waited for the wake (R108, R111). -/
def wokenAlone (s : State) : State := if s.prt.lostRaised ∧ s.prt.pair = .paired then partnerGone s else s

/-- A wake is complete (R109): from Quiet once the records are read again, from Dormant once the datapath is released. -/
def wakeDone (s : State) : State :=
  let run (s : State) : State := (s.onPwr fun p => { p with state := .run, transit := none }).onBuf fun b => { b with selfRef := 0, exiting := 0 }
  if s.pwr.transit ≠ some .run then s
  else match s.pwr.state with
    | .quiet =>
      if s.cfg.reread.isSome then s
      else
        let s1 := (run s).onClk fun c => { c with good := c.good ||| 0x07F8 }
        let s2 := (s1.onCip fun _ => { ({} : Cip) with clearedCause := some 3 }).onQpc fun q =>
          { q with ctx := tabMap (fun _ c => { c with cached := false }) q.ctx, cache := [], fetching := [], miss := [] }
        let s3 := fpRebuild (s2.onFpr fun f => { f with active := [], second := [], rebuilding := false })
        wokenAlone (hostPortsStart (sledPortsStart (slotsCleared (loopsRestart s3))))
    | .dormant =>
      if ¬ s.rst.dpUp then s
      else hostPortsStart ((run s).onRst fun r => { r with hostUp := true, dormantWake := false })
    | _ => run s

/-- WAKE_COMPLETE. -/
def execWakeComplete (s : State) : Host.Outcome State Fault Refusal := .next (afterP (wakeDone s))

/-! ## Status lights -/

/-- The patterns of the status lights (R603), in the order of their table. -/
inductive Lights where
  | held
  | railWait
  | loading
  | loadFailed
  | bufFailed
  | activating
  | fenced
  | lowPower
  | joining
  | lone
  | paired
deriving DecidableEq, Repr

/-- The pattern that the status lights show (R603). -/
def State.lights (s : State) : Lights :=
  let cold := s.rst.stage = .held ∨ s.rst.stage = .por
  if cold then .held
  else match s.rst.stage with
    | .railWait => .railWait
    | .loading | .mgStart | .ddrStart | .dpStart => .loading
    | .loadFailed => .loadFailed
    | .bufFailed => .bufFailed
    | _ =>
      if s.mgt.recovery then .loadFailed
      else if s.upd.state = .actHold then .activating
      else match s.prt.pair with
        | .fenced => .fenced
        | p => if s.pwr.state ≠ .run then .lowPower else match p with
          | .joining => .joining
          | .lone => .lone
          | _ => .paired

end Sys2Proof.Machine
end

