-- ==== Sys2Proof/Machine/Dram.lean ====
section
/-! DEFINITION. The buffer memory controller (chapter 14): initialisation and the regions (R489 to R494), the ECC of a line (R498,
R499), uncorrectable lines and what becomes of them (R500, R501), the scrubber (R502), refresh (R503), the activate table (R504) and the
exit from self-refresh (R506). -/

namespace Sys2Proof.Machine

/-! ## Regions -/

/-- Map pages of a volume (R332): 677 blocks each. -/
def volPages (v : VolPolicy) : Nat := ceilDiv v.capacity 677

/-- A parameter of both heads, added (R494). -/
def State.paramBoth (s : State) (id : Nat) : Nat := s.paramOf 0 id + s.paramOf 1 id

/-- Whether a volume is a block volume. -/
def State.blockVol (s : State) (v : VolPolicy) : Bool := !s.streamTop v.topUnit

/-- The sizes of the regions in bytes, in the order of the table "DRAM regions" (R494): the first two are in the armed set. -/
def State.regionSizes (s : State) : List Nat :=
  let me := s.head
  let mib := 2 ^ 20
  let img := s.cfg.img.getD {}
  [s.paramOf me P.qpMax * 512, 256 * mib,
   s.paramOf me P.dirtyBound * mib, s.paramOf me P.dirtyBound * mib / 16 * 17, s.paramOf (1 - me) P.dirtyBound * mib / 16 * 17, 128 * mib,
   ((img.vols.filter s.blockVol).map fun v => volPages v * 4096).sum,
   s.paramBoth P.shareTableSize * mib, s.paramBoth P.streamTableSize * mib, s.paramBoth P.snapPageSize * mib,
   s.paramBoth P.jnlMaxRecords * 64, s.paramOf me P.fprIndexSize * mib,
   ((img.units.filter fun u => u.kind == .die).map fun u => u.blocks * 16).sum,
   s.paramOf me P.ctxSpillSize * mib, s.paramOf me P.replBufSize * mib]

/-- Place regions one after the other, each on a multiple of `align`: base and size of each, and the end of the last. -/
def placeRegions (align : Nat) (sizes : List Nat) : List (Nat × Nat) × Nat :=
  sizes.foldl (fun (a : List (Nat × Nat) × Nat) n => let b := ceilDiv a.2 align * align; (a.1 ++ [(b, n)], b + n)) ([], 0)

/-- The bytes S that every channel reserves for the armed set (R492). -/
def State.armedShare (s : State) : Nat :=
  let g := s.param P.ddrGrain
  ceilDiv (placeRegions (4 * g) (s.regionSizes.take 2)).2 (4 * g) * g

/-- BUF_REGION_NEED in MiB (R514). -/
def State.regionNeed (s : State) : Nat :=
  (((s.regionSizes.drop 2).map fun n => ceilDiv n (2 ^ 20)).sum) + ceilDiv (12 * s.armedShare) (2 ^ 20)

/-- The regions as they are placed, with the end of the full set (R494). -/
def State.regionsPlaced (s : State) : List (Nat × Nat) × Nat :=
  let g := s.param P.ddrGrain
  let full := placeRegions (12 * g) (s.regionSizes.drop 2)
  ((placeRegions (4 * g) (s.regionSizes.take 2)).1 ++ full.1, full.2)

/-- Bytes of a channel. -/
def Buf.channelBytes (b : Buf) : Nat := b.dpc * b.gib * 2 ^ 30

/-! ## Initialisation -/

/-- The rates that the table "Channel populations" allows (R489): none for a population it does not list. -/
def ratesFor (modules gib : Nat) : Option (List Nat) :=
  match modules, gib with
  | 1, 16 | 1, 32 | 1, 64 => some [4800, 5600, 6400]
  | 2, 16 | 2, 32 => some [4800, 5600]
  | _, _ => none

/-- The first channel that a test finds. -/
def firstChannel (p : Channel → Bool) (cs : List Channel) : Option Nat := (findIdxFrom p 0 cs).map (·.1)

/-- Whether a channel carries the modules of another (R489). -/
def Channel.same (a b : Channel) : Bool := a.modules == b.modules && a.gib == b.gib && a.ranks == b.ranks && a.density == b.density

/-- What the check of the SPD and the training find (R489, R491): a code of BUF_STAT.CODE with its channel. -/
def initFault (rate : Nat) (cs : List Channel) : Option (Nat × Nat) :=
  let c0 := cs.headD {}
  match firstChannel (·.spdBad) cs with
  | some k => some (1, k)
  | none => match firstChannel (fun c => !c.supported || (c.ranks != 1 && c.ranks != 2)) cs with
    | some k => some (2, k)
    | none => match firstChannel (fun c => !c.same c0) cs with
      | some k => some (3, k)
      | none => match ratesFor c0.modules c0.gib with
        | none => some (2, 0)
        | some rates =>
          if ¬ rates.contains rate then some (6, 0)
          else match firstChannel (fun c => decide (c.speed < rate)) cs with
            | some k => some (6, k)
            | none => (firstChannel (fun c => decide (2 ≤ c.trainFails)) cs).map fun k => (4, k)

/-- BUF initialisation is done (R491): the regions are placed and the clusters' clocks may start (R95 step 6), or it has failed and the
head stays at step 5. -/
def bufInit (cs : List Channel) (s : State) : State :=
  if s.rst.stage ≠ .ddrStart ∨ ¬ s.rst.ddrUp ∨ cs.length ≠ 12 then s
  else
    let c0 := cs.headD {}
    let s1 := s.onBuf fun b => { b with dpc := c0.modules, gib := c0.gib, ranks := c0.modules * c0.ranks, drfm := cs.all (·.drfm) }
    let good (k : Nat) : Bool := (cs[k]?).any fun c => decide (c.trainFails < 2)
    let trained (s : State) : State := s.onBuf fun b => { b with trained := (List.range 12).foldl (fun x k => setBit x k (good k)) 0 }
    let fail (code chan : Nat) (s : State) : State :=
      note 0x0801 (code + 16 * chan) ((s.onBuf fun b => { b with state := 3, fail := true, code := BitVec.ofNat 4 code, chan := BitVec.ofNat 4 chan }).onRst
        fun r => { r with stage := .bufFailed })
    match initFault (s.param P.ddrRate) cs with
    | some (code, k) => fail code k (if code = 4 then trained s1 else s1)
    | none =>
      let (regions, last) := s.regionsPlaced
      let s2 := trained s1
      let cap := s2.buf.channelBytes
      if cap < s.armedShare ∨ 12 * (cap - s.armedShare) < last then fail 5 0 s2
      else
        let s3 := (s2.onBuf fun b => { b with state := 2, regions := regions }).onRst fun r => { r with stage := .dpStart }
        if s3.lateClocks then releaseDatapath s3 else s3

/-- BUF_INIT_DONE. -/
def execBufInitDone (channels : List Channel) (s : State) : Host.Outcome State Fault Refusal := .next (after (bufInit channels s))

/-! ## Addresses -/

/-- The channel and the offset in it of a BUF address (R492). -/
def State.ddrPlace (s : State) (armed : Bool) (a : Nat) : Nat × Nat :=
  let g := s.param P.ddrGrain
  let n := if armed then 4 else 12
  (a / g % n, (if armed then 0 else s.armedShare) + a / (n * g) * g + a % g)

/-- The BUF address of a channel offset, none for the bytes that a channel leaves unused (R492). -/
def State.ddrAddress (s : State) (ch off : Nat) : Option (Bool × Nat) :=
  let g := s.param P.ddrGrain
  if off < s.armedShare then (if ch < 4 then some (true, (off / g * 4 + ch) * g + off % g) else none)
  else
    let o := off - s.armedShare
    some (false, (o / g * 12 + ch) * g + o % g)

/-- Where a line lies in a channel (R493). -/
structure DdrLine where
  sub : Nat
  rank : Nat
  /-- bank group and bank: 4 × group + bank -/
  bank : Nat
  row : Nat

/-- The fields of a channel offset, least significant first (R493). -/
def State.ddrLine (s : State) (off : Nat) : DdrLine :=
  let rb := if s.buf.ranks ≤ 1 then 0 else if s.buf.ranks = 2 then 1 else 2
  let row := off / 2 ^ (18 + rb)
  { sub := bitsAt off 6 1, rank := bitsAt off 18 rb, bank := 4 * Nat.xor (bitsAt off 7 3) (row % 8) + bitsAt off 16 2, row := row }

/-- The region that an address lies in, and the offset in it (R494). -/
def State.regionOf (s : State) (armed : Bool) (a : Nat) : Option (Nat × Nat) :=
  (findIdxFrom (fun (r : Nat × (Nat × Nat)) => (r.1 < 2) == armed && decide (r.2.1 ≤ a) && decide (a < r.2.1 + r.2.2)) 0
    ((List.range s.buf.regions.length).zip s.buf.regions)).map fun e => (e.1, a - e.2.2.1)

/-! ## The code of a line (R498) -/

/-- The value of a symbol's place in the code: symbols 0 to 19 in device order, virtual symbols at 20 to 24 (PRESUMED, log entry 32). -/
def rsLocator (i : Nat) : Nat := gfPow i

/-- Syndromes of a codeword: the code's roots are powers 0 to 3 of the generator (PRESUMED, log entry 32). -/
def rsSyndromes (w : List Nat) : List Nat :=
  (List.range 4).map fun j => w.zipIdx.foldl (fun a (x, i) => Nat.xor a (gfMul 0x11D 8 x (gfPow (i * j)))) 0

/-- Errors at two given places that explain syndromes: the values, if every equation holds. -/
def rsPair (i j : Nat) (syn : List Nat) : Option (Nat × Nat) :=
  let m (a b : Nat) : Nat := gfMul 0x11D 8 a b
  let x := rsLocator i
  let y := rsLocator j
  let s0 := syn.getD 0 0
  let s1 := syn.getD 1 0
  let ej := m (Nat.xor s1 (m x s0)) (gfInv (Nat.xor x y))
  let ei := Nat.xor s0 ej
  let fits := syn.zipIdx.all fun (v, k) => Nat.xor (m ei (gfPow (i * k))) (m ej (gfPow (j * k))) == v
  if fits then some (ei, ej) else none

/-- The errors of a codeword: places and values, none where the code cannot correct it. Without a mark at most two symbols; with the two
symbols of a marked device as erasures, at most one more. -/
def rsErrors (mark : Option Nat) (w : List Nat) : Option (List (Nat × Nat)) :=
  let syn := rsSyndromes w
  if syn.all (· == 0) then some []
  else match mark with
    | none =>
      (List.range 25).findSome? fun i => (List.range' (i + 1) (24 - i)).findSome? fun j =>
        (rsPair i j syn).map fun (a, b) => [(i, a), (j, b)].filter fun e => e.2 != 0
    | some d =>
      let a := 2 * d
      let b := 2 * d + 1
      let m (x y : Nat) : Nat := gfMul 0x11D 8 x y
      match rsPair a b syn with
      | some (x, y) => some ([(a, x), (b, y)].filter fun e => e.2 != 0)
      | none => ((List.range 25).filter fun j => j != a && j != b).findSome? fun j =>
          let t := (List.range 3).map fun k => Nat.xor (syn.getD (k + 1) 0) (m (rsLocator j) (syn.getD k 0))
          (rsPair a b t).map fun (x, y) =>
            let ea := m x (gfInv (Nat.xor (rsLocator a) (rsLocator j)))
            let eb := m y (gfInv (Nat.xor (rsLocator b) (rsLocator j)))
            [(a, ea), (b, eb), (j, Nat.xor (syn.getD 0 0) (Nat.xor ea eb))].filter fun e => e.2 != 0

/-- Codeword `c` of a line's 80 bytes, 8 for each device, with the virtual symbols of its line number (R498). -/
def lineWord (raw : Bytes) (line c : Nat) : List Nat :=
  ((List.range 10).flatMap fun d => [fieldLe raw (8 * d + 2 * c) 1, fieldLe raw (8 * d + 2 * c + 1) 1]) ++ (List.range 5).map fun k => bitsAt line (8 * k) 8

/-- What decoding a line gives (R498, table "ECC outcomes"). -/
structure LineResult where
  /-- the corrected data, none where the line is uncorrectable -/
  data : Option Bytes
  /-- an error was found at a virtual symbol -/
  address : Bool
  /-- the devices that held corrected symbols -/
  devices : List Nat

/-- Decode a line, with a marked device's symbols as erasures. -/
def decodeLine (mark : Option Nat) (raw : Bytes) (line : Nat) : LineResult :=
  let errs := (List.range 4).map fun c => rsErrors mark (lineWord raw line c)
  let all := errs.zipIdx.flatMap fun (e, c) => (e.getD []).map fun x => (c, x.1, x.2)
  let address := all.any fun e => decide (20 ≤ e.2.1)
  let fix (bs : Bytes) (e : Nat × Nat × Nat) : Bytes :=
    modAt (8 * (e.2.1 / 2) + 2 * e.1 + e.2.1 % 2) (fun (b : Byte) => b ^^^ BitVec.ofNat 8 e.2.2) bs
  { data := if errs.all (·.isSome) ∧ ¬ address then some ((all.foldl fix raw).take 64) else none
    address := address
    devices := nubNat ((all.filter fun e => decide (e.2.1 < 20)).map fun e => e.2.1 / 2) }

/-! ## Corrections and marks (R499, R510) -/

/-- A day and a second in timestamp ticks. -/
def dayTicks : Nat := 24 * 3600 * 50000000
def secondTicks : Nat := 50000000

/-- A correction counts against its device; one that reaches CE_MARK within a day is marked, unless its rank and subchannel have a
marked device already. -/
def countCorrection (ch : Nat) (l : DdrLine) (dev : Nat) (s : State) : State :=
  let k := (ch, l.sub, l.rank, dev)
  let m := (ch, l.sub, l.rank)
  let ts := (s.time :: ((tabGetD k [] s.buf.ceTimes).filter fun t => decide (s.since t < dayTicks))).take (s.param P.ceMark)
  let s1 := s.onBuf fun b => { b with ce := tabUpdD ch 0 satInc b.ce, ceTimes := tabPut k ts b.ceTimes }
  let detail := ch + 16 * l.sub + 32 * (l.rank % 4) + 128 * dev
  if ts.length < s.param P.ceMark ∨ s.buf.unmarked.contains k ∨ tabGet m s.buf.marked = some dev then s1
  else if tabHas m s.buf.marked then note 0x0803 (detail + 2 ^ 15) (s1.onBuf fun b => { b with unmarked := k :: b.unmarked })
  else note 0x0803 detail (s1.onBuf fun b => { b with marked := tabPut m dev b.marked })

/-- Decode a line and count its corrections; where they mark a device and the line is uncorrectable, it is decoded again with that device's
symbols as erasures (R510). -/
def correctLine (ch : Nat) (l : DdrLine) (raw : Bytes) (line : Nat) (s : State) : LineResult × State :=
  let mark (s : State) : Option Nat := tabGet (ch, l.sub, l.rank) s.buf.marked
  let r := decodeLine (mark s) raw line
  let s1 := r.devices.foldl (fun s d => countCorrection ch l d s) s
  if r.data.isNone ∧ (mark s).isNone ∧ (mark s1).isSome then (decodeLine (mark s1) raw line, s1) else (r, s1)

/-! ## The activate table (R504) -/

/-- Set the row of an entry and raise its count. -/
def actsHit (row i : Nat) (es : List (Nat × Nat)) : List (Nat × Nat) := modAt i (fun e => (row, e.2 + 1)) es

/-- The place of the entry that a row takes in a full table: the smallest count, lowest place first. -/
def actsVictim (es : List (Nat × Nat)) : Nat :=
  (es.zipIdx.foldl (fun (a : Nat × Nat) e => if e.1.2 < a.2 then (e.2, e.1.2) else a) (0, (es.headD (0, 0)).2)).1

/-- Issue a neighbour refresh: a DRFM where it is chosen and offered, else a same-bank RFM. -/
def neighbourRefresh (ch rank : Nat) (s : State) : State :=
  (s.onBuf fun b => { b with nrr := satInc b.nrr }).send (.ddr ch rank (if s.param P.nrrMode = 1 ∧ s.buf.drfm then 4 else 5))

/-- An activate of a row. Every line that BUF reads counts as one (DESIGN CHOICE, log entry 33). -/
def actRow (ch : Nat) (l : DdrLine) (s : State) : State :=
  let k := (ch, l.sub, l.rank, l.bank)
  let es := tabGetD k [] s.buf.acts
  let (i, es1) := match findIdxFrom (fun (e : Nat × Nat) => e.1 == l.row) 0 es with
    | some (i, _) => (i, actsHit l.row i es)
    | none => if es.length < 32 then (es.length, es ++ [(l.row, 1)]) else (actsVictim es, actsHit l.row (actsVictim es) es)
  let due := decide (s.param P.actThresh ≤ ((es1[i]?).getD (0, 0)).2)
  let s1 := s.onBuf fun b => { b with acts := tabPut k (if due then modAt i (fun e => (e.1, 0)) es1 else es1) b.acts }
  if due then neighbourRefresh ch l.rank s1 else s1

/-! ## Uncorrectable lines (R500, R501) -/

/-- Which elements of a list a struck line holds: the layout inside the region is not stated, so each is held or not as a free bit says
(log entry 3). -/
def struck {α : Type} (xs : List α) (s : State) : List α × State :=
  xs.foldl (fun (a : List α × State) x => let (b, s1) := a.2.freeBit; (if b then a.1 ++ [x] else a.1, s1)) ([], s)

/-- The threshold records of a line restart at 0 (R347): 16 bytes each, in the order of the image's die units (DEDUCED, log entry 39). -/
def recordsRestart (off : Nat) (s : State) : State :=
  let dies := (s.cfg.img.getD {}).units.filter fun u => u.kind == .die
  let all (k : Nat) : Option (Nat × Nat) :=
    (dies.foldl (fun (a : Option (Nat × Nat) × Nat) u =>
      if a.1.isSome then a else if a.2 < u.blocks then (some (u.port * 64 + u.die, a.2), 0) else (none, a.2 - u.blocks)) (none, k)).1
  ((List.range 4).filterMap fun i => all (off / 16 + i)).foldl (fun s e =>
    onBlk e.1 e.2 (fun b => { b with rt := List.replicate 15 0, step := 0, exhaust := 0 }) s) s

/-- The owner of a region acts on an uncorrectable line (R500, table "Uncorrectable errors by region"). -/
def lineLost (region off : Nat) (s : State) : State :=
  match region with
  | 0 => qpError (off / 512) (some 0x0105) s
  | 1 =>
    let (cs, s1) := struck (s.cmd.cmds.filter fun c => c.held.isNone) s
    (cs.map (·.acc)).foldl (fun s a => finish a 0x14 0 2 0 [] (dropWindows a s)) s1
  | 2 => match s.ing.buf.find? fun b => b.slot == off / 4096 with
    | some b => bufferFault b.acc b.num s
    | none => s
  | 3 =>
    let (gs, s1) := struck s.ing.backlog s
    gs.foldl (fun s g => stageFail g.acc 0x02 (fieldLe g.bytes 8 8 / 4096) s) s1
  | 4 =>
    let (gs, s1) := struck s.ing.shadow s
    let ask (s : State) (g : ShadowSeg) : State :=
      (List.range' (g.off / 4096) (ceilDiv (g.off + g.data.length) 4096 - g.off / 4096)).foldl (fun s n =>
        plControl 0x04 (leBytes 3 g.qpn ++ leBytes 2 g.cid ++ leBytes 2 n) s) s
    gs.foldl ask (s1.onIng fun i => { i with shadow := i.shadow.map fun g => if gs.contains g then { g with bad := true } else g })
  | 6 | 7 | 8 | 9 =>
    -- the page or entry comes back from the partner's copy, or is built again from the map log (DESIGN CHOICE, log entry 40)
    if s.prt.pair = .paired then sendFill 4 (padTo 4096 (leBytes 1 region ++ leBytes 8 off)) s else s
  | 11 =>
    let b := off / 256
    let i := off / 64 % 4
    if i < (tabGetD b [] s.fpr.index).length then
      s.onFpr fun f => { f with index := tabUpd b (fun es => es.eraseIdx i) f.index, indexErr := satInc f.indexErr }
    else s
  | 12 => recordsRestart off s
  | 13 =>
    let (xs, s1) := struck s.cip.ctxSpill s
    xs.foldl (fun s x => ctxLost x s) (s1.onCip fun c => { c with ctxSpill := c.ctxSpill.filter fun x => !xs.contains x })
  | 14 =>
    let all := (List.range 16).flatMap fun t => (s.sourcesOf t).flatMap fun v => (s.source (v.vol % 2 ^ 12)).chunks.map fun ch => (t, v, ch)
    let (cs, s1) := struck all s
    cs.foldl (fun s e => chunkFailed e.1 e.2.1 e.2.2 true s) s1
  | _ => s

/-- An uncorrectable line is recorded and raised (R500). -/
def lineRaised (ch : Nat) (armed address : Bool) (a : Nat) (s : State) : State :=
  let region := ((s.regionOf armed a).map (·.1)).getD 15
  note 0x0802 (ch + 16 * b2n address + 32 * region) (s.onBuf fun b =>
    { b with ue := tabUpdD ch 0 satInc b.ue, errAddr := BitVec.ofNat 64 (a % 2 ^ 40 + 2 ^ 40 * b2n armed + 2 ^ 41 * b2n address) })

/-- A channel with more than UE_FAIL_LIMIT uncorrectable lines in a second has failed (R501): a Paired head yields. -/
def channelCount (ch : Nat) (s : State) : State :=
  let ts := s.time :: (tabGetD ch [] s.buf.ueTimes).filter fun t => decide (s.since t < secondTicks)
  let s1 := s.onBuf fun b => { b with ueTimes := tabPut ch (ts.take (s.param P.ueFailLimit + 1)) b.ueTimes }
  if ts.length ≤ s.param P.ueFailLimit ∨ getBit s.buf.failedCh ch then s1
  else
    let s2 := note 0x0806 ch (s1.onBuf fun b => { b with failedCh := setBit b.failedCh ch true })
    if s2.prt.pair = .paired then enterFenced 2 (pulseCommand 3 0 s2) else s2

/-- Whether a channel takes requests. -/
def State.channelUp (s : State) (ch : Nat) : Bool := s.buf.state == 2 && decide (ch < 12) && !getBit s.buf.selfRef ch

/-- A line read from DRAM (R498 to R501, R510): returned corrected, or poisoned. -/
def lineRead (armed : Bool) (a : Nat) (raw : Bytes) (s : State) : State :=
  let (ch, off) := s.ddrPlace armed a
  if ¬ s.channelUp ch ∨ s.buf.channelBytes ≤ off then s
  else
    let l := s.ddrLine off
    let (r, s1) := correctLine ch l (padTo 80 raw) (a / 64) (actRow ch l s)
    let s2 := s1.onBuf fun b => { b with lastLine := some (a / 64 * 64, armed, r.data) }
    match r.data with
    | some _ => s2
    | none =>
      let s3 := lineRaised ch armed r.address (a / 64 * 64) s2
      let s4 := match s.regionOf armed (a / 64 * 64) with
        | some (region, o) => lineLost region o s3
        | none => s3
      channelCount ch s4

/-- DRAM_LINE_READ: the 80 bytes of a line and its check bytes, 8 for each device, device 0 first. -/
def execDramLineRead (armed : Bool) (addr : BitVec 40) (raw : Bytes) (s : State) : Host.Outcome State Fault Refusal :=
  .next (after (lineRead armed addr.toNat raw s))

/-! ## The scrubber (R502) -/

/-- Lines of a pass: every line of every channel. -/
def State.scrubLines (s : State) : Nat := 12 * (s.buf.channelBytes / 64)

/-- BUF_SCRUB_POS (R514). -/
def State.scrubMille (s : State) : Nat := s.buf.scrubPos * 1000 / max 1 s.scrubLines

/-- The scrubber's next line, in Run, unless its channel is in self-refresh: bytes that are left unused hold no line. -/
def scrubStep (raw : Bytes) (s : State) : State :=
  let per := s.buf.channelBytes / 64
  let ch := s.buf.scrubPos / max 1 per
  if s.pwr.state ≠ .run ∨ ¬ s.channelUp ch then s
  else
    let off := s.buf.scrubPos % max 1 per * 64
    let l := s.ddrLine off
    let next := s.onBuf fun b => { b with scrubPos := (b.scrubPos + 1) % max 1 s.scrubLines }
    match s.ddrAddress ch off with
    | none => next
    | some (armed, a) =>
      let (r, s1) := correctLine ch l (padTo 80 raw) (a / 64) (actRow ch l next)
      if r.data.isSome then s1 else channelCount ch (lineRaised ch armed r.address a s1)

/-- SCRUB_STEP. -/
def execScrubStep (raw : Bytes) (s : State) : Host.Outcome State Fault Refusal := .next (after (scrubStep raw s))

/-! ## Refresh (R503, R508) -/

/-- A reading of a rank's MR4, the worst of its devices: 0 the normal rate, 1 twice the normal rate, 2 or more above the operating range. -/
def mr4Reading (ch rank rate : Nat) (s : State) : State :=
  let k := (ch, rank)
  let was := tabGet k s.buf.doubled
  let place := ch + 16 * (rank % 4)
  let s1 := s.onBuf fun b => { b with hot := if rate < 2 then b.hot.filter (· ≠ k) else if b.hot.contains k then b.hot else k :: b.hot }
  let s2 := match rate, was with
    | 0, none => s1
    | 0, some n => if n = 0 then s1.onBuf fun b => { b with doubled := tabPut k 1 b.doubled }
        else note 0x0804 place (s1.onBuf fun b => { b with doubled := tabDel k b.doubled })
    | _, none => note 0x0804 (place + 64) (s1.onBuf fun b => { b with doubled := tabPut k 0 b.doubled })
    | _, some _ => s1.onBuf fun b => { b with doubled := tabPut k 0 b.doubled }
  if rate < 2 then s2 else note 0x0805 place s2

/-- MR4_POLL. -/
def execMr4Poll (channel rank rate : Nat) (s : State) : Host.Outcome State Fault Refusal :=
  .next (if s.channelUp channel ∧ rank < s.buf.ranks then mr4Reading channel rank rate s else s)

/-- A rank's refresh is due: 3 a same-bank refresh, 2 an all-bank refresh. -/
def refresh (ch rank : Nat) (s : State) : State :=
  (s.onBuf fun b => { b with refreshes := tabUpdD (ch, rank) 0 (· + 1) b.refreshes }).send (.ddr ch rank (if s.flag P.ddrRefSb then 3 else 2))

/-- REFRESH_DUE. -/
def execRefreshDue (channel rank : Nat) (s : State) : Host.Outcome State Fault Refusal :=
  .next (if s.channelUp channel ∧ rank < s.buf.ranks then refresh channel rank s else s)

/-- ACT_TABLE_WINDOW (R504). -/
def execActTableWindow (s : State) : Host.Outcome State Fault Refusal := .next (s.onBuf fun b => { b with acts := [] })

/-! ## The exit from self-refresh (R506) -/

/-- Channels leave self-refresh: their activate tables are clear and MR4 is read before the first access. -/
def selfRefreshExit (readings : List (Nat × Nat × Nat)) (s : State) : State :=
  let out := s.buf.exiting
  if out = 0 then s
  else
    let s1 := s.onBuf fun b =>
      { b with selfRef := b.selfRef &&& ~~~out, exiting := 0, acts := b.acts.filter fun e => !getBit out e.1.1 }
    let s2 := readings.foldl (fun s r => if getBit out r.1 ∧ r.2.1 < s.buf.ranks then mr4Reading r.1 r.2.1 r.2.2 s else s) s1
    l2Release s2

/-- SELF_REFRESH_EXIT_DONE: the channels, ranks and readings of MR4. -/
def execSelfRefreshExitDone (readings : List (Nat × Nat × Nat)) (s : State) : Host.Outcome State Fault Refusal := .next (after (selfRefreshExit readings s))

end Sys2Proof.Machine
end

