-- ==== Sys2Proof/Machine/Adapt.lean ====
section
/-! DEFINITION. The samples of the adaptive loops (chapter 15): the clusters' operating points (R521, R522), equalisation after training
(R530), the pace of collection (R523 to R526, R534), the rate of rebuilds (R529), and ADP_FREEZE (R518, R519). -/

namespace Sys2Proof.Machine

/-! ## AL-VF -/

/-- The lowest operating point at or above a frequency, in MHz (R521): VF_FMIN, VF_FMAX or a multiple of 50 between them. -/
def State.vfPoint (s : State) (f : Nat) : Nat :=
  let lo := s.param P.vfFmin
  let hi := s.param P.vfFmax
  if f ≤ lo then lo else min hi (ceilDiv f 50 * 50)

/-- The next point below one. -/
def State.vfBelow (s : State) (f : Nat) : Nat := max (s.param P.vfFmin) ((f - 1) / 50 * 50)

/-- What a cluster's work asks for, rounded up to whole MHz (R521, R522): its busy fraction in thousandths, its input queue more than half
full, the junction at VF_TJ_SOFT. -/
def State.vfDemand (s : State) (f busy : Nat) (full hot : Bool) : Nat :=
  if full then s.param P.vfFmax else ceilDiv (f * busy) (10 * (if hot then 100 else s.param P.vfUtilTarget))

/-- One cluster's sample (R522): up to the demand point at once, also while frozen (R518); down by one point after the dwell. -/
def vfCluster (i busy : Nat) (full hot : Bool) (s : State) : State :=
  let f := (s.adp.freq[i]?).getD 0
  let want := s.vfDemand f busy full hot
  let point := s.vfPoint want
  let dwell := s.param P.vfDwellDown * usTicks
  let set (up : Bool) (g : Nat) (s : State) : State := (loopAct 2 i dwell up g s).onAdp fun a => { a with freq := setAt i g a.freq }
  let s1 := onLoop 2 i (fun x => { x with meas := busy, act := f }) s
  let s2 :=
    if f = 0 then s1
    else if f < point then (if s.param P.vfFmax < want then limitHit 2 (set true point s1) else set true point s1)
    else if point < f ∧ ¬ s.frozenLoop 2 ∧ s.dwellOver 2 i dwell then set false (max point (s.vfBelow f)) s1
    else s1
  let g := (s2.adp.freq[i]?).getD 0
  onLoop 2 i (fun x => { x with act := g, atLo := g == s.param P.vfFmin, atHi := g == s.param P.vfFmax }) s2

/-- The sample of AL-VF: each cluster's busy fraction and whether its queue is more than half full, and the junction temperature; VF_HOT
once for each crossing (R521). Below Run the loop does nothing (R537). -/
def vfSample (clusters : List (Nat × Bool)) (tj : Int) (s : State) : State :=
  if ¬ s.rst.dpUp ∨ s.pwr.state ≠ .run then s
  else
    let hot := decide ((s.param P.vfTjSoft : Int) ≤ tj)
    let s1 := s.onAdp fun a => { a with vfHot := hot }
    let s2 := if hot ∧ ¬ s.adp.vfHot then note 0x0F02 (ofSigned 8 tj) s1 else s1
    (clusters.take 8).zipIdx.foldl (fun s (c, i) => vfCluster i (min c.1 1000) c.2 hot s) s2

/-- AL_VF_SAMPLE. -/
def execAlVfSample (clusters : List (Nat × Bool)) (tj : Int) (s : State) : Host.Outcome State Fault Refusal := .next (vfSample clusters tj s)

/-! ## AL-EQ -/

/-- The sled port of a lane (R541). -/
def eqPort (i : Nat) : Option Nat := if 128 ≤ i ∧ i < 192 then some ((i - 128) / 2) else none

/-- Whether AL-EQ runs on a lane (R537, R541): its link is up, in Run, or in Armed with a host port or the partner link. -/
def State.eqRuns (s : State) (i : Nat) : Bool :=
  let awake := s.pwr.state == .run || s.pwr.state == .armed
  if i < 64 then awake && getBit s.fab.subUp (i / 4)
  else if i < 80 then awake && getBit s.prt.groups ((i - 64) / 4)
  else match eqPort i with
    | some p => s.pwr.state == .run && (s.port p).state == .l0
    | none => false

/-- Move one coefficient of a lane by one unit (R530): 2 the head's receiver; 0 and 1 the bridge's pre-cursor and post-cursor, by an EQ_SET
word that takes the unit from its cursor, or gives it back (R423). -/
def eqMove (i coef : Nat) (up : Bool) (s : State) : State :=
  match eqPort i, coef with
  | some p, 0 | some p, 1 =>
    let (pre, post, cur) := ((s.port p).eqFar[i % 2]?).getD (0, 0, 0)
    let by1 (n : Nat) (u : Bool) : Nat := if u then n + 1 else n - 1
    let (a, b) := if coef = 0 then (by1 pre up, post) else (pre, by1 post up)
    sendControl p 0x03 (i % 2 * 2 ^ 8 + a % 64 * 2 ^ 9 + b % 64 * 2 ^ 15 + by1 cur (!up) % 64 * 2 ^ 21) s
  | _, _ => onLoop 1 i (fun x => { x with coef := if up then x.coef + 1 else x.coef - 1 }) s

/-- Act on a lane, and count it as an action of the loop. -/
def eqAct (i coef : Nat) (up : Bool) (s : State) : State :=
  let s1 := eqMove i coef up s
  loopAct 1 i (s.param P.eqDwell * msTicks) up (ofSigned 32 (s1.loop 1 i).coef) s1

/-- Try one change on a lane (R530): which coefficient and which way is not stated, so they are free (log entry 3). -/
def eqTry (i margin : Nat) (s : State) : State :=
  let (far, s1) := s.freeBit
  let (post, s2) := s1.freeBit
  let (up, s3) := s2.freeBit
  let coef := if far && (eqPort i).isSome then b2n post else 2
  onLoop 1 i (fun x => { x with trial := some (coef, up, margin) }) (eqAct i coef up s3)

/-- One lane's sample (R530): EQ_LOW after three samples below EQ_FLOOR, and a sled port retrains; a change on trial is judged after its
dwell, and a lane below EQ_TARGET tries the next. A claim round holds both on sled ports (R536). -/
def eqLane (i margin : Nat) (s : State) : State :=
  if ¬ s.eqRuns i then s
  else
    let low := if margin < s.param P.eqFloor then min 3 ((s.loop 1 i).low + 1) else 0
    let s1 := onLoop 1 i (fun x => { x with meas := margin, low := low }) s
    let s2 := if low = 3 ∧ (s.loop 1 i).low < 3 then note 0x0F03 i s1 else s1
    let held : Bool := (eqPort i).isSome && s.prt.round.isSome
    if held then s2
    else match eqPort i, decide (low = 3) with
      | some p, true => retrain p false (onLoop 1 i (fun x => { x with low := 0, trial := none }) s2)
      | _, _ =>
        if s2.frozenLoop 1 ∨ ¬ s2.dwellOver 1 i (s.param P.eqDwell * msTicks) then s2
        else
          let s3 := onLoop 1 i (fun x => { x with trial := none }) s2
          match (s2.loop 1 i).trial with
          | some (coef, up, was) =>
            if margin ≤ was then eqAct i coef (!up) s3
            else if margin < s.param P.eqTarget then eqTry i margin s3 else s3
          | none => if margin < s.param P.eqTarget then eqTry i margin s3 else s3

/-- AL_EQ_SAMPLE: lanes and their eye margins in 1/64 UI. -/
def execAlEqSample (margins : List (Nat × Nat)) (s : State) : Host.Outcome State Fault Refusal :=
  .next (afterP (margins.foldl (fun s m => eqLane m.1 m.2 s) s))

/-! ## AL-GC -/

/-- Delivered program bandwidth of a unit in eighths of MB/s, scaled by its dies' throttle levels (R523), and the host data in it. -/
def State.gcBand (s : State) (top : Nat) (dies : List (Nat × Nat × Nat)) : Nat × Nat :=
  (dies.filter fun d => s.dataTop d.1 == top).foldl (fun a d =>
    (a.1 + d.2.1 * (8 - min 8 (s.port (s.dieName d.1 / 64)).throttle), a.2 + d.2.2)) (0, 0)

/-- Valid sectors of the victim R341 would choose next, and the sectors of a segment (R523); no victim has none. -/
def State.gcVictimFill (s : State) (top : Nat) : Nat × Nat :=
  let all := max 1 (128 * s.pagesOf top * s.rowStrips top)
  match s.gcVictim top with
  | some m => (min all (s.seg top m).valid, all)
  | none => (0, all)

/-- The background share in hundredths of a percent (R524). -/
def State.gcShare (s : State) (top : Nat) : Nat :=
  let n := (s.segsOf top).length
  let start := s.param P.gcStartFree
  s.param P.gcBgShareMax * 100 * (start * n - 100 * (s.freeSegs top).length) / max 1 ((start - s.param P.gcUrgentFree) * n)

/-- A change of H is limited to half of its previous value (R525). -/
def limitPace (old new : Nat) : Nat := max (old - ceilDiv old 2) (min (old + ceilDiv old 2) new)

/-- Whether a change of what collection gives the host frees it: more pace, or an end of it, or less background share. -/
def freerPace : Option Nat → Option Nat → Bool
  | some a, some b => decide (a < b)
  | some _, none => true
  | none, _ => false

/-- One top unit's sample (R523 to R525, R534): a mode change takes effect at once with its pace; else the pace and the share follow within
the dwell. A hold keeps the actuators (R536), a freeze too but for the mode (R518). -/
def gcUnit (dies : List (Nat × Nat × Nat)) (top : Nat) (s : State) : State :=
  let (band, _) := s.gcBand top dies
  let (valid, all) := s.gcVictimFill top
  let n := max 1 (s.segsOf top).length
  let s1 := onLoop 3 top (fun x => { x with meas := (s.freeSegs top).length * 1000 / n }) s
  if s.pwr.hold then s1
  else
    let old := (s.top top).mode
    let mode := s.gcModeOf top
    let pace0 := tabGet top s.adp.pace
    let share0 := tabGetD top 0 s.adp.bgShare
    let full := band * (all - valid) * s.param P.gcUrgentPace / (8 * all * 100)
    let entry := old != mode || (mode == .urgent && pace0.isNone)
    let dwell := s.param P.gcDwell * msTicks
    let moves := entry || (!s.frozenLoop 3 && s.dwellOver 3 top dwell)
    let pace : Option Nat := match mode, pace0 with
      | .urgent, some h => some (if entry then full else if moves then limitPace h full else h)
      | .urgent, none => some full
      | _, _ => none
    let share := if mode = .background then (if moves then s.gcShare top else share0) else 0
    let said := old != mode && (old == .urgent || old == .floor || mode == .urgent || mode == .floor)
    let s2 := onTop top (fun t => { t with mode := mode }) s1
    let s3 := if said then note 0x0905 (top + gcCode mode * 2 ^ 13) s2 else s2
    if pace = pace0 ∧ share = share0 then s3
    else
      let up := if pace = pace0 then decide (share0 < share) else freerPace pace0 pace
      let s4 := loopAct 3 top dwell up (pace.getD 0) s3
      onLoop 3 top (fun x => { x with atLo := mode == .background && share == 0, atHi := mode == .background && share == s.param P.gcBgShareMax * 100 })
        (s4.onAdp fun a => { a with
          pace := (match pace with
            | some h => tabPut top h a.pace
            | none => tabDel top a.pace)
          bgShare := if share = 0 then tabDel top a.bgShare else tabPut top share a.bgShare })

/-- The copy bandwidth that keeps pace with the host data of the last sample, over the head's block top units (R526). -/
def State.gcDemandNow (s : State) (dies : List (Nat × Nat × Nat)) : Nat :=
  (s.blockTops.map fun top =>
    let h := (s.gcBand top dies).2
    let (valid, all) := s.gcVictimFill top
    if valid < all then h * valid / (all - valid) else if h = 0 then 0 else 2 ^ 32).sum

/-- The sample of AL-GC (R523): program bandwidth in MB/s by die, delivered and of it host data. Below Run the loop does nothing (R537). -/
def gcSample (dies : List (Nat × Nat × Nat)) (s : State) : State :=
  if s.pwr.state ≠ .run ∨ ¬ s.ftl.ready then s
  else
    let tops := s.blockTops.filter fun u => s.serves u && (s.top u).formatted
    let s1 := s.onAdp fun a => { a with gcDemand := word (satN 32 (s.gcDemandNow dies)) }
    tops.foldl (fun s u => gcUnit dies u s) s1

/-- AL_GC_SAMPLE. -/
def execAlGcSample (dies : List (Nat × Nat × Nat)) (s : State) : Host.Outcome State Fault Refusal := .next (after (gcSample dies s))

/-! ## AL-RB -/

/-- The rebuilds and resynchronisations that run: occurrence and data top unit (R529, R541). -/
def State.rbRuns (s : State) : List (Nat × Nat) :=
  s.par.rebuilds.map (fun e => (e.1, e.2.top)) ++ s.par.resyncs.filterMap fun e => (s.dieOf e.1).map fun d => (d, s.dataTop d)

/-- The target rate T of one of them in MB/s (R529). -/
def State.rbTarget (s : State) (i : Nat) : Nat :=
  match tabGet (5, i) s.adp.inst with
  | some x => x.act
  | none => s.param P.rbMinRate * 1000

/-- One sample of a rebuild or resynchronisation (R529): RB_MAX_RATE at margin 0, also while frozen; else down by a quarter or up by RB_STEP
after each dwell. -/
def rbStep (i top latency : Nat) (s : State) : State :=
  let lo := s.param P.rbMinRate * 1000
  let hi := s.param P.rbMaxRate * 1000
  let t := s.rbTarget i
  let dwell := s.param P.rbDwell * msTicks
  let s1 := onLoop 5 i (fun x => { x with meas := latency, act := t }) s
  let urgent : Bool := decide (s.margin top ≤ 0) || s.healthOf top == 3
  let act (v : Nat) (s : State) : State :=
    let w := max lo (min hi v)
    let s' := if w = t then s else loopAct 5 i dwell (decide (t < w)) w s
    if w ≠ v ∧ w ≠ t then limitHit 5 s' else s'
  let s2 :=
    if s.pwr.hold then s1
    else if urgent then act hi s1
    else if s.frozenLoop 5 ∨ ¬ s.dwellOver 5 i dwell then s1
    else if s.param P.rbHostLat < latency then act (t - t / 4) s1
    else if 2 * latency < s.param P.rbHostLat then act (t + s.param P.rbStep * 1000) s1
    else s1
  onLoop 5 i (fun x => { x with atLo := x.act == lo, atHi := x.act == hi }) s2

/-- The sample of AL-RB (R529): the mean latency of host reads in µs, and what rebuilds read over the last 1 ms in MB/s (PAR_RB_RATE). -/
def rbSample (latency rate : Nat) (s : State) : State :=
  if s.pwr.state ≠ .run then s
  else
    let runs := s.rbRuns
    let s1 := (s.onPar fun p => { p with rbRate := word (satN 32 rate) }).onAdp fun a =>
      { a with inst := a.inst.filter fun e => e.1.1 ≠ 5 ∨ runs.any fun r => r.1 == e.1.2 }
    runs.foldl (fun s r => rbStep r.1 r.2 latency s) s1

/-- AL_RB_SAMPLE. -/
def execAlRbSample (latency rate : Nat) (s : State) : Host.Outcome State Fault Refusal := .next (rbSample latency rate s)

/-! ## ADP_FREEZE -/

/-- A write of ADP_FREEZE (R518, R519): a bit written 0 unfreezes its loop and clears its cause. -/
def freezeWrite (v : Nat) (s : State) : State :=
  s.onAdp fun a => { a with freeze := BitVec.ofNat 6 v, cause := a.cause &&& BitVec.ofNat 6 v }

/-- ADP_FREEZE_WRITE. -/
def execAdpFreezeWrite (r : Requester) (val : Word) (s : State) : Host.Outcome State Fault Refusal :=
  .next (accessWrite r 0xF0000 (freezeWrite val.toNat) s)

end Sys2Proof.Machine
end

