-- ==== Sys2Proof/Machine/Recorder.lean ====
section
/-! DEFINITION. The management core's own work: sensors and fans (R547 to R550), debug (R546), the controls and the spill of the event
recorder (R553 to R557), and the measurement registers with the digest engine (R558 to R561). -/

namespace Sys2Proof.Machine

/-! ## Sensors -/

/-- A sensor of MGT (R547). -/
def State.sensor (s : State) (i : Nat) : Sensor := tabGetD i {} s.mgt.sensors

/-- Change a sensor. -/
def onSensor (i : Nat) (f : Sensor → Sensor) (s : State) : State := s.onMgt fun m => { m with sensors := tabUpdD i {} f m.sensors }

/-- Nominal rail voltages in mV (R100, R115). -/
def railNominal : List Nat := [800, 1800, 800, 800, 900, 850, 800, 1100, 850, 1200, 850, 1200, 1800, 3300, 1800, 1800]

/-- The descriptor SENS_I2C_n (R549). -/
def State.sensDesc (s : State) (n : Nat) : Nat := s.param (0x1020 + n)

/-- Whether a sensor reads a temperature (R547, R549). -/
def State.isTemp (s : State) (i : Nat) : Bool := decide (i < 8) || (decide (32 ≤ i) && bitsAt (s.sensDesc (i - 32)) 20 2 == 0)

/-- A sensor's default threshold in hundredths of its unit (R547): the warning one, or the critical. -/
def State.sensDefault (s : State) (i : Nat) (crit : Bool) : Int :=
  let tj : Int := if s.part.gradeE then 105 else 100
  if i < 8 then (tj - (if crit then 0 else 5)) * 1600
  else if i < 24 then ((railNominal[i - 8]?).getD 0 : Nat) * (if crit then 108 else 105)
  else toSigned 16 (bitsAt (s.sensDesc (i - 32)) (if crit then 38 else 22) 16) * 100

/-- The threshold in force in hundredths of the sensor's unit (R547): 0 in MGT_SENS_WARN or MGT_SENS_CRIT selects the default. -/
def State.sensTh (s : State) (i : Nat) (crit : Bool) : Int :=
  let w := if crit then (s.sensor i).critTh else (s.sensor i).warnTh
  if w = 0 then s.sensDefault i crit else w.toInt * 100

/-- Whether a state at a threshold stands after a reading (R548): entered at the threshold, ended 2 °C, or 1 %, below it. -/
def sensStands (temp was : Bool) (th v : Int) : Bool :=
  let back : Int := if temp then 3200 else (th.natAbs / 100 : Nat)
  if was then decide (th - back < 100 * v) else decide (th ≤ 100 * v)

/-- A reading of a sensor (R548, R580): SENSOR_WARN and then SENSOR_CRIT on each entry, both latched. -/
def sensRead (i : Nat) (v : Int) (s : State) : State :=
  let x := s.sensor i
  let temp := s.isTemp i
  let warn := sensStands temp x.warn (s.sensTh i false) v
  let crit := sensStands temp x.crit (s.sensTh i true) v
  let mm := match x.minmax with
    | some (lo, hi) => (min lo v, max hi v)
    | none => (v, v)
  let s1 := onSensor i (fun x => { x with val := v, minmax := some mm, warn := warn, crit := crit, fault := false }) s
  let latch (s : State) : State := s.onMgt fun m =>
    if i < 32 then { m with latch0 := setBit m.latch0 i true } else { m with latch1 := setBit m.latch1 (i - 32) true }
  let told (code : Nat) (s : State) : State := evrRaise code i (some (satN 32 v.toNat)) (latch s)
  let s2 := if warn ∧ ¬ x.warn then told 0x1003 s1 else s1
  if crit ∧ ¬ x.crit then told 0x1004 s2 else s2

/-- The readings of the junction sites that a sample brings, highest first of all (R547), in 1/16 °C. -/
def hottestOf (readings : List (Nat × Int)) : Option Int :=
  (readings.filter fun r => decide (r.1 < 8)).foldl (fun a r => match a with
    | some x => some (max x r.2)
    | none => some r.2) none

/-- A hardware sample (R547): junction sites in 1/16 °C, rails in mV. The hottest site trips, or ends a trip (R90). -/
def junctionSample (readings : List (Nat × Int)) (s : State) : State :=
  let s1 := if s.rst.mgUp then (readings.filter fun r => decide (r.1 < 24)).foldl (fun s r => sensRead r.1 r.2 s) s else s
  match hottestOf readings with
  | some t => if s.rst.trip then thermalTripEnd ((t + 15) / 16) s1 else thermalTrip (t / 16) s1
  | none => s1

/-- JUNCTION_SAMPLE. -/
def execJunctionSample (readings : List (Nat × Int)) (s : State) : Host.Outcome State Fault Refusal := .next (after (junctionSample readings s))

/-- A number `m` × 2^`e`, scaled and rounded down (R549; the rounding is a DESIGN CHOICE, log entry 41). -/
def scaled (m e : Int) (scale : Nat) : Int := if 0 ≤ e then m * scale * (2 ^ e.toNat : Nat) else m * scale / (2 ^ e.natAbs : Nat)

/-- A word of a board sensor in the unit of its kind (R549), with a LINEAR16 sensor's exponent. -/
def sensWord (desc : Nat) (w : BitVec 16) (exp : Int) : Int :=
  let unit := if bitsAt desc 20 2 = 0 then 16 else 1000
  match bitsAt desc 17 3 with
  | 1 => scaled (toSigned 11 w.toNat) (toSigned 5 (w.toNat / 2 ^ 11)) unit
  | 2 => scaled (w.toNat : Nat) exp unit
  | 3 => w.toInt / 16
  | _ => (w.toNat : Nat)

/-- One board sensor's SMBus read (R549): a reading, or a failure that leaves the last one and raises SENSOR_FAULT once for each run. The
exponent is VOUT_MODE's, kept from the first read. -/
def sensPoll (n : Nat) (w : Option (BitVec 16)) (mode : BitVec 5) (s : State) : State :=
  let d := s.sensDesc n
  let i := 32 + n
  let fmt := bitsAt d 17 3
  if 32 ≤ n ∨ fmt = 0 ∨ 4 < fmt then s
  else
    let s1 := s.send (.smbus (bitsAt d 0 2) (bitsAt d 2 7) (bitsAt d 9 8))
    match w with
    | none =>
      let s2 := onSensor i (fun x => { x with fault := true }) s1
      if (s.sensor i).fault then s2 else note 0x1005 i s2
    | some w =>
      let exp : Int := ((s.sensor i).exp).getD mode.toInt
      sensRead i (sensWord d w exp) (onSensor i (fun x => { x with exp := if fmt = 2 then some exp else x.exp }) s1)

/-- SENSOR_POLL: what each board sensor answered, none where it did not, and its VOUT_MODE exponent. -/
def execSensorPoll (readings : List (Nat × Option (BitVec 16) × BitVec 5)) (s : State) : Host.Outcome State Fault Refusal :=
  .next (if s.rst.mgUp then readings.foldl (fun s r => sensPoll r.1 r.2.1 r.2.2 s) s else s)

/-! ## Fans -/

/-- Drive every fan with the duty in force (R550). -/
def driveFans (s : State) : State :=
  (List.range (min 4 (s.param P.fanCount))).foldl (fun s f => s.send (.pin (.fanPwm f s.mgt.duty.toNat))) s

/-- The duty for a junction temperature in 1/16 °C (R550). -/
def State.fanDuty (s : State) (t : Int) : Nat :=
  let lo : Int := (16 * s.param P.fanTmin : Nat)
  let hi : Int := (16 * s.param P.fanTmax : Nat)
  let m := s.param P.fanMinDuty
  if t ≤ lo then m else if hi ≤ t then 100 else m + (100 - m) * (t - lo).toNat / (hi - lo).toNat

/-- The duty is computed again (R550). -/
def fanUpdate (tach : List (BitVec 16)) (s : State) : State :=
  if ¬ s.rst.mgUp then s
  else
    let hot := hottestOf ((s.mgt.sensors.filter fun e => decide (e.1 < 8)).map fun e => (e.1, e.2.val))
    let duty := if s.mgt.fanFailed then 100 else match hot with
      | some t => s.fanDuty t
      | none => s.mgt.duty.toNat
    driveFans (s.onMgt fun m =>
      { m with duty := BitVec.ofNat 7 duty, tach := (List.range 4).map fun k => (tach[k]?).getD ((m.tach[k]?).getD 0) })

/-- FAN_UPDATE: what the tachometers read. -/
def execFanUpdate (tach : List (BitVec 16)) (s : State) : Host.Outcome State Fault Refusal := .next (fanUpdate tach s)

/-- A fan has been too slow for 3 s (R550). -/
def fanFails (fan : Nat) (rpm : BitVec 16) (s : State) : State :=
  if ¬ s.rst.mgUp ∨ s.param P.fanCount ≤ fan ∨ 4 ≤ fan ∨ s.param P.fanTachMin ≤ rpm.toNat then s
  else driveFans (note 0x1006 fan (s.onMgt fun m => { m with fanFailed := true, duty := 100, tach := setAt fan rpm m.tach }))

/-- FAN_TACH_FAIL. -/
def execFanTachFail (fan : Nat) (rpm : BitVec 16) (s : State) : Host.Outcome State Fault Refusal := .next (fanFails fan rpm s)

/-! ## Debug -/

/-- A write of MGT_DEBUG_CTRL (R546, R558, R592). -/
def debugWrite (r : Requester) (v : Nat) (s : State) : State :=
  if bitsAt v 16 16 ≠ 0x9640 then accessError r 0x100008 true s
  else if ¬ bitAt v 0 then s.onMgt fun m => { m with debug := false }
  else if s.mgt.debug ∨ ¬ (s.flag P.debugAllow ∨ s.mgt.recovery) then s
  else note 0x1008 0 (msrExtend 1 [1] (s.onMgt fun m => { m with debug := true }))

/-- MGT_DEBUG_SET: a write of MGT_DEBUG_CTRL, whose value decides. -/
def execMgtDebugSet (r : Requester) (val : Word) (s : State) : Host.Outcome State Fault Refusal :=
  .next (accessWrite r 0x100008 (debugWrite r val.toNat) s)

/-- MGT_DEBUG_CLEAR. -/
def execMgtDebugClear (r : Requester) (val : Word) (s : State) : Host.Outcome State Fault Refusal :=
  .next (accessWrite r 0x100008 (debugWrite r val.toNat) s)

/-! ## The event recorder -/

/-- A write of EVR_CTRL (R556). -/
def evrCtrl (v : Nat) (s : State) : State := s.onEvr fun e => { e with freeze := bitAt v 0, trigEn := bitAt v 1 }

/-- EVR_CTRL_WRITE. -/
def execEvrCtrlWrite (r : Requester) (val : Word) (s : State) : Host.Outcome State Fault Refusal := .next (accessWrite r 0x110000 (evrCtrl val.toNat) s)

/-- A write of EVR_CLEAR (R557): the record of one code, or of every code, is cleared and its bucket is full. -/
def evrClear (v : Nat) (s : State) : State :=
  s.onEvr fun e =>
    if bitAt v 16 then { e with recs := [], prev := [] }
    else { e with recs := tabDel (v % 2 ^ 16) e.recs, prev := tabDel (v % 2 ^ 16) e.prev }

/-- EVR_CLEAR. -/
def execEvrClear (r : Requester) (val : Word) (s : State) : Host.Outcome State Fault Refusal := .next (accessWrite r 0x110040 (evrClear val.toNat) s)

/-- The 32 bytes of a ring entry (R554). -/
def RingEntry.bytes (e : RingEntry) : Bytes :=
  withCrc (leBytes 2 e.code.toNat ++ leBytes 2 e.supp.toNat ++ leBytes 4 e.detail.toNat ++ leBytes 4 e.value.toNat ++ leBytes 4 0
    ++ leBytes 8 e.eseq ++ leBytes 4 (e.time.toNat % 2 ^ 32))

/-- Entries of a sector behind its header (R555). -/
def sectorEntries : Nat := 2047

/-- Write ring entries to the log spill region (R555): each sector is erased and given its header before its first entry, and entries go in
256-byte pages. `fuel` bounds the pages. -/
def spillEntries : Nat → List RingEntry → State → State
  | 0, _, s => s
  | _ + 1, [], s => s
  | fuel + 1, e :: es, s =>
    let base := fieldLe s.cfg.opt 28 4
    let sectors := max 1 (fieldLe s.cfg.opt 32 4 / 65536)
    let at_ (n : Nat) : Nat := base + n % sectors * 65536
    match s.evr.sectorFill with
    | none =>
      let head := withCrc (leBytes 8 s.evr.sseq ++ leBytes 8 (e.time.toNat / 2 ^ 32) ++ List.replicate 12 0)
      let s1 := (s.send (.spi s.cfg.src (.eraseSector (at_ s.evr.sseq)))).send (.spi s.cfg.src (.program (at_ s.evr.sseq) head))
      spillEntries fuel (e :: es) (s1.onEvr fun x => { x with sseq := x.sseq + 1, sectorFill := some 0 })
    | some n =>
      let k := min (8 - (n + 1) % 8) (sectorEntries - n)
      let now := (e :: es).take k
      let s1 := s.send (.spi s.cfg.src (.program (at_ (s.evr.sseq - 1) + 32 * (n + 1)) (now.flatMap (·.bytes))))
      let fill := n + now.length
      spillEntries fuel ((e :: es).drop k) (s1.onEvr fun x =>
        { x with sectorFill := if fill = sectorEntries then none else some fill, spilled := (now.getLast?.map (·.eseq + 1)).getD x.spilled })

/-- A spill of ring entries, oldest first (R555): it waits while UPD has something to write, and while the loader reads (R565, R575). -/
def evrSpill (count : Nat) (s : State) : State :=
  let due := (s.evr.ring.filter fun e => decide (s.evr.spilled ≤ e.eseq)).take count
  let region := decide (65536 ≤ fieldLe s.cfg.opt 32 4)
  if ¬ s.rst.mgUp ∨ s.cfg.img.isNone ∨ s.cfg.reread.isSome ∨ s.upd.staging ≠ [] ∨ ¬ region then s
  else spillEntries (2 * due.length + 2) due s

/-- EVR_SPILL. -/
def execEvrSpill (count : Nat) (s : State) : Host.Outcome State Fault Refusal := .next (evrSpill count s)

/-! ## Measurement registers -/

/-- A write of MSR_EXT_GO (R558, R559): MSR6 to MSR15 alone can be extended so. -/
def msrGo (r : Requester) (v : Nat) (s : State) : State :=
  if bitsAt v 16 16 ≠ 0x9640 ∨ v % 16 < 6 ∨ s.msr.busy then accessError r 0x120070 true s
  else msrExtend (v % 16) (s.msr.extData.flatMap fun w => leBytes 4 w.toNat) s

/-- MSR_EXT_GO. -/
def execMsrExtGo (r : Requester) (val : Word) (s : State) : Host.Outcome State Fault Refusal := .next (accessWrite r 0x120070 (msrGo r val.toNat) s)

/-- A write of MSR_DIG_GO (R561, R592). -/
def digGo (v : Nat) (s : State) : State :=
  if v ≠ 1 ∨ s.msr.busy then s else s.onMsr fun m => { m with busy := true, jobDone := false }

/-- MSR_DIG_GO. -/
def execMsrDigGo (r : Requester) (val : Word) (s : State) : Host.Outcome State Fault Refusal := .next (accessWrite r 0x120088 (digGo val.toNat) s)

/-- `n` free words. -/
def freeWords : Nat → State → List Word × State
  | 0, s => ([], s)
  | n + 1, s =>
    let (w, s1) := s.freeNat 32
    let (ws, s2) := freeWords n s1
    (word w :: ws, s2)

/-- A software digest job is done (R561). What the SRAM holds at an offset is not stated: the digest is a free value (log entry 3). -/
def digDone (s : State) : State :=
  if ¬ s.msr.busy then s
  else
    let (ws, s1) := freeWords 12 s
    s1.onMsr fun m => { m with busy := false, jobDone := true, digOut := ws }

/-- MSR_DIG_DONE. -/
def execMsrDigDone (s : State) : Host.Outcome State Fault Refusal := .next (digDone s)

end Sys2Proof.Machine
end

