-- ==== Sys2Proof/Machine/Chain.lean ====
section
/-! DEFINITION. The update chain (chapter 16): the chain ports (R562, R563), taking and storing the blocks of an update (R564, R565, R570, R575,
R576), its verification (R566), UPD_CTRL (R567 to R569), and the agreement token (R571, R572). -/

namespace Sys2Proof.Machine

/-! ## Chain ports -/

/-- A chain port: CHN_DN if `dn`, else CHN_UP. -/
def State.chainPort (s : State) (dn : Bool) : ChainPort := if dn then s.chain.dn else s.chain.up

/-- Change a chain port. -/
def onChain (dn : Bool) (f : ChainPort → ChainPort) (s : State) : State :=
  s.onChain fun c => if dn then { c with dn := f c.dn } else { c with up := f c.up }

/-- A frame's payload (R562): header and body. -/
def chainFrame (ctype cseq : Nat) (body : Bytes) : Bytes :=
  leBytes 1 ctype ++ [0] ++ leBytes 2 body.length ++ leBytes 4 cseq ++ List.replicate 8 0 ++ body

/-- Whether a chain link carries frames (R563): it is up and not treated as down. -/
def State.chainLive (s : State) (dn : Bool) : Bool := (if dn then s.mgt.linkDn else s.mgt.linkUp) && !(s.chainPort dn).down

/-- Send what waits while fewer than 64 frames are unacknowledged (R563); `fuel` bounds the frames. -/
def chainPump (dn : Bool) : Nat → State → State
  | 0, s => s
  | fuel + 1, s =>
    let p := s.chainPort dn
    match p.waiting with
    | f :: rest =>
      if 64 ≤ p.sent.length then s
      else chainPump dn fuel ((onChain dn (fun p => { p with waiting := rest, sent := p.sent ++ [{ cseq := fieldLe f 4 4, frame := f }] }) s).send (.chain dn f))
    | [] => s

/-- Send a BLOCK (1) or TOKEN (4) under the link's next CSEQ (R562, R563); a link that is down gets nothing. -/
def chainSend (dn : Bool) (ctype : Nat) (body : Bytes) (s : State) : State :=
  if ¬ s.chainLive dn then s
  else chainPump dn 64 (onChain dn (fun p =>
    { p with next := (p.next + 1) % 2 ^ 32, waiting := p.waiting ++ [chainFrame ctype p.next body] }) s)

/-- Answer a frame with ACK (2) or NAK (3) (R562, R563). -/
def chainAnswer (dn : Bool) (ctype cseq : Nat) (s : State) : State := s.send (.chain dn (chainFrame ctype 0 (leBytes 4 cseq)))

/-- Resend a frame (R563); after 16 resends the link is down until it next comes up. -/
def chainResend (dn : Bool) (cseq : Nat) (s : State) : State :=
  match (s.chainPort dn).sent.find? fun f => f.cseq == cseq with
  | none => s
  | some f =>
    if 16 ≤ f.resends then note 0x100C (b2n dn) (onChain dn (fun p => { p with down := true, sent := [], waiting := [] }) s)
    else
      let s1 := onChain dn (fun p => { p with sent := p.sent.map fun x => if x.cseq = cseq then { x with resends := x.resends + 1 } else x }) s
      (s1.onUpd fun u => { u with resends := satInc u.resends }).send (.chain dn f.frame)

/-- The CSEQ that an ACK or NAK answers. -/
def answered (raw : Bytes) : Nat := fieldLe raw 16 4

/-- A frame is acknowledged (R563). -/
def chainAcked (dn : Bool) (cseq : Nat) (s : State) : State :=
  chainPump dn 64 (onChain dn (fun p => { p with sent := p.sent.filter fun f => f.cseq != cseq }) s)

/-! ## Taking blocks -/

/-- Blocks that the 2 MiB staging buffer holds (R543, R562). -/
def stagingBlocks : Nat := 2 ^ 21 / 4128

/-- Whether a BLOCK body passes BCRC (R562). -/
def blockGood (b : Bytes) : Bool := b.length == 4128 && fieldLe b 28 4 == crc32c (b.take 28 ++ b.drop 32)

/-- The slot that an image is stored in (R565, R570): the inactive one; in recovery slot A of the primary. -/
def State.stageSlot (s : State) : Nat × Nat := if s.mgt.recovery then (0x10000, 2 ^ 25) else optSlot s.cfg.opt (!s.cfg.slotB)

/-- The devices that it is stored in, in order (R565, R570). -/
def State.stageDevices (s : State) : List Device := if s.mgt.recovery then [.primary] else [.primary, .alternate]

/-- Write a block into its slot of each device (R565): its 64 KiB sector is erased before the first block of it, and what is written is read
back. -/
def writeBlock (blk : Nat) (data : Bytes) (fresh : Bool) (s : State) : State :=
  let (base, size) := s.stageSlot
  if size < (blk + 1) * 4096 then s
  else s.stageDevices.foldl (fun s d =>
    let s1 := if fresh then s.send (.spi d (.eraseSector (base + blk / 16 * 65536))) else s
    (s1.send (.spi d (.program (base + blk * 4096) data))).send (.spi d (.readBack (base + blk * 4096) 4096))) s

/-- The sequence of the active image, CFG_IMAGE_SEQ. -/
def State.imageSeq (s : State) : Nat := (s.cfg.img.map (·.seq)).getD 0

/-- The UPD_ID of the update in progress or staged (R576). -/
def State.updStands (s : State) : Option Nat := if s.upd.state = .idle then none else some s.upd.updId.toNat

/-- Whether the head holds a verified image of a UPD_ID already, staged or active, or is verifying it (R576). -/
def State.updHeld (s : State) (id : Nat) : Bool :=
  (s.upd.stagedImg.any fun v => v.seq == id) || (s.cfg.img.any fun i => i.seq == id)
    || ((s.upd.state == .verifying || s.upd.state == .confirming || s.upd.state == .actHold) && s.upd.updId.toNat == id)

/-- An update fails (R565, R566): UPD_FAILED with its code; what is staged is left as it is. -/
def updFail (code : Nat) (s : State) : State := note 0x100E code (s.onUpd fun u => { u with state := .idle, fail := BitVec.ofNat 4 code })

/-- Store a block of the update in the inactive slots (R564, R565, R570, R576): a higher UPD_ID abandons what was in progress or staged. With
the last block the verification begins. -/
def storeBlock (b : Bytes) (s : State) : State :=
  let id := fieldLe b 0 4
  let arr := fieldLe b 4 8
  let blk := fieldLe b 12 2
  let blks := fieldLe b 14 2
  if (s.updStands.any fun x => decide (id < x)) ∨ s.updHeld id then s
  else
    let fresh := s.updStands ≠ some id
    let s1 := if fresh ∧ s.upd.state ≠ .idle then
        s.onUpd fun u => { u with state := .idle, stored := [], stagedImg := none, autoReady := false, recArray := none }
      else s
    let mine : Bool := if s.mgt.recovery then s1.upd.recArray.all (· == arr) else s.cfg.img.any fun i => i.arrayId == arr
    if ¬ mine then s1
    else if ¬ s.mgt.recovery ∧ id ≤ s.imageSeq then
      if s1.upd.fail = 5 ∧ s1.upd.updId.toNat = id then s1 else updFail 5 (s1.onUpd fun u => { u with updId := word id, stored := [] })
    else
      let s2 := if fresh then
          s1.onUpd fun u => { u with state := .receiving, updId := word id, blks := blks, imgLen := fieldLe b 16 4, stored := [], recArray := some arr, other := none }
        else s1
      if s2.upd.blks ≤ blk then s2
      else
        let data := b.drop 32
        let first := !(s2.upd.stored.any fun e => e.1 / 16 == blk / 16)
        let s3 := writeBlock blk data first (s2.onUpd fun u => { u with stored := tabPut blk data u.stored })
        if s3.upd.stored.length = s3.upd.blks then s3.onUpd fun u => { u with state := .verifying } else s3

/-- Blocks in the staging buffer are stored, once the loader does not use the memory (R82, R575); `fuel` bounds them. -/
def updDrain : Nat → State → State
  | 0, s => s
  | fuel + 1, s =>
    if s.cfg.reread.isSome then s
    else match s.upd.staging with
      | b :: rest => updDrain fuel (storeBlock b (s.onUpd fun u => { u with staging := rest }))
      | [] => s

/-- What becomes of a block that arrives (R563). -/
inductive BlockFate where
  | acked
  | naked
  /-- the staging buffer is full: no answer -/
  | withheld
deriving DecidableEq, Repr

/-- A block arrives from upstream, or in a datagram (R563, R564, R576): checked, put into the staging buffer and forwarded; one of a lower
UPD_ID is only acknowledged. -/
def takeBlock (b : Bytes) (s : State) : BlockFate × State :=
  if ¬ blockGood b then (.naked, s.onUpd fun u => { u with crcErr := satInc u.crcErr })
  else if s.updStands.any fun x => decide (fieldLe b 0 4 < x) then (.acked, s)
  else if stagingBlocks ≤ s.upd.staging.length then (.withheld, s)
  else
    let s1 := s.onUpd fun u => { u with staging := u.staging ++ [b] }
    let s2 := if s.mgt.recovery then s1 else chainSend true 1 b s1
    (.acked, updDrain (stagingBlocks + 1) s2)

/-- A BLOCK on CHN_UP (R563). -/
def blockIn (cseq : Nat) (b : Bytes) (s : State) : State :=
  match takeBlock b s with
  | (.acked, s1) => chainAnswer false 2 cseq s1
  | (.naked, s1) => chainAnswer false 3 cseq s1
  | (.withheld, s1) => s1

/-! ## Verification -/

/-- The stored image (R562): its blocks in order, as far as IMG_LEN. -/
def Upd.image (u : Upd) : Bytes := ((List.range u.blks).flatMap fun k => (tabGet k u.stored).getD []).take u.imgLen

/-- The body of the first record of a TYPE among an image's records. -/
def rawBody (recs : List Bytes) (ty : Nat) : Bytes := ((recs.find? fun r => fieldLe r 0 2 == ty).map fun r => slice r 12 (r.length - 16)).getD []

/-- The first step of R566 that fails, by its code; `same` is whether both devices read back equal to the blocks. -/
def State.updFault (s : State) (same : Bool) : Option Nat :=
  let u := s.upd
  let img := u.image
  let recs := cutRecords (img.length / 16 + 1) img
  let t := rawBody recs 0xFFFF
  let key := fieldLe t 144 4
  let seq := fieldLe (rawBody recs 0x0001) 16 4
  if u.stored.length ≠ u.blks ∨ s.stageSlot.2 < u.imgLen then some 8
  else if sha384 (img.take (img.length - 168)) ≠ t.take 48 then some 2
  else if 4 ≤ key ∨ getBit s.part.revoked key then some 4
  else if ¬ signatureGood key (t.take 48) (slice t 48 48) (slice t 96 48) then some 3
  else if seq ≠ u.updId.toNat ∨ (¬ s.mgt.recovery ∧ seq ≤ s.imageSeq) then some 5
  else if ¬ partAdmitted s.part (rawBody recs 0x0002) then some 6
  else if ¬ (checkOnly s.part s.stageSlot.2 img).1 then some 7
  else if ¬ same then some 9
  else none

/-- The option bytes that recovery gives the primary (R570). -/
def recoveryOptions (seq : Nat) : Bytes :=
  withCrc (leBytes 4 0x4B534C50 ++ [1, 0x18, 1, 3, 0, 0, 0, 0] ++ leBytes 4 0x00010000 ++ leBytes 4 (2 ^ 25) ++ leBytes 4 0x02010000
    ++ leBytes 4 (2 ^ 25) ++ leBytes 4 0x04010000 ++ leBytes 4 (2 ^ 24) ++ leBytes 4 seq ++ List.replicate 20 0)

/-- The verification ends (R566): STAGED, and an automatic activation where R568 has one; in recovery the option bytes and an L1 reset (R570). -/
def updVerified (same : Bool) (s : State) : State :=
  if s.upd.state ≠ .verifying then s
  else match s.updFault same with
    | some code => updFail code s
    | none =>
      let img := s.upd.image
      let t := rawBody (cutRecords (img.length / 16 + 1) img) 0xFFFF
      let id := s.upd.updId.toNat
      let v : Verified := { seq := id, digest := t.take 48, keyId := fieldLe t 144 4 }
      let s1 := note 0x100D id (msrExtend 5 (t.take 48) (s.onUpd fun u => { u with state := .staged, stagedImg := some v }))
      if s.mgt.recovery then requestL1 (writeOptions .primary (recoveryOptions id) s1)
      else updRetry (s1.onUpd fun u => { u with autoReady := s.head == 1 && s.flag P.updAutoActivate })

/-- UPD_VERIFY_DONE: whether both devices read back equal to the blocks. -/
def execUpdVerifyDone (same : Bool) (s : State) : Host.Outcome State Fault Refusal := .next (afterP (updVerified same s))

/-! ## UPD_CTRL -/

/-- A denied UPD_CTRL (R583). -/
def updDeny (n : Nat) (s : State) : State := s.onUpd fun u => { u with deny := BitVec.ofNat 3 n }

/-- Roll back to the verified image that the other slot holds (R569): the volumes go to the partner, an L1 reset follows. -/
def updRollTo (v : Verified) (s : State) : State :=
  let s1 := raise 0x1010 1 .all (s.onUpd fun u => { u with fail := 10, state := .idle, other := s.activeImage })
  let s2 := writeOptions .primary (optWith s.cfg.opt (!s.cfg.slotB) v.seq) (giveVolumes s1)
  requestL1 (s2.onUpd fun u => { u with pend := false, pendSlot := false, pendSeq := 0, updating := false })

/-- Burn the revocation fuse of a public-key index (R567): nothing clears it. -/
def burnKey (k : Nat) (s : State) : State := { s with part := { s.part with revoked := setBit s.part.revoked k true } }

/-- A write of UPD_CTRL (R567 to R569, R592). -/
def updCtrl (r : Requester) (v : Nat) (s : State) : State :=
  if bitsAt v 16 16 ≠ 0x9640 then accessError r 0x13000C true s
  else match bitsAt v 0 4 with
    | 1 => updActivate s
    | 2 => if s.upd.state = .staged then s.onUpd fun u => { u with state := .idle, stagedImg := none, autoReady := false, deny := 0 } else updDeny 5 s
    | 3 => match s.upd.other with
      | some o => updRollTo o s
      | none => s
    | 4 =>
      let k := bitsAt v 4 2
      if s.cfg.img.any fun i => decide (k < i.keyId) then burnKey k (updDeny 0 s) else updDeny 4 s
    | _ => accessError r 0x13000C true s

/-- UPD_CTRL_ACTIVATE: a write of UPD_CTRL, whose value decides. -/
def execUpdCtrlActivate (r : Requester) (val : Word) (s : State) : Host.Outcome State Fault Refusal := .next (afterP (accessWrite r 0x13000C (updCtrl r val.toNat) s))

/-- UPD_CTRL_ABANDON. -/
def execUpdCtrlAbandon (r : Requester) (val : Word) (s : State) : Host.Outcome State Fault Refusal := .next (afterP (accessWrite r 0x13000C (updCtrl r val.toNat) s))

/-- UPD_CTRL_ROLLBACK. -/
def execUpdCtrlRollback (r : Requester) (val : Word) (s : State) : Host.Outcome State Fault Refusal := .next (afterP (accessWrite r 0x13000C (updCtrl r val.toNat) s))

/-- UPD_CTRL_REVOKE. -/
def execUpdCtrlRevoke (r : Requester) (val : Word) (s : State) : Host.Outcome State Fault Refusal := .next (afterP (accessWrite r 0x13000C (updCtrl r val.toNat) s))

/-- UPD_CONFIRM_TIMEOUT (R568, R569): no confirmation within UPD_CONFIRM_WAIT. -/
def execUpdConfirmTimeout (s : State) : Host.Outcome State Fault Refusal := .next (afterP (if s.upd.pend ∧ s.rst.mgUp then updRollBack s else s))

/-! ## The agreement token -/

/-- The head's own token entry (R571). -/
def State.tokenEntry (s : State) : Bytes :=
  let i := s.cfg.img.getD {}
  leBytes 8 i.arrayId ++ leBytes 1 s.head ++ leBytes 1 (b2n s.upd.updating) ++ [0, 0] ++ leBytes 4 i.seq ++ (s.msr.regs[3]?).getD []

/-- A token body (R571): header, TCRC over it and the entries. -/
def tokenBody (tseq origin : Nat) (entries : Bytes) : Bytes :=
  let h := [1] ++ leBytes 1 (entries.length / 64) ++ [0, 0] ++ leBytes 4 tseq ++ leBytes 4 origin ++ List.replicate 16 0
  h ++ leBytes 4 (crc32c (h ++ entries)) ++ entries

/-- Whether a token is good (R571, R572). -/
def tokenGood (b : Bytes) : Bool :=
  b.length == 32 + 64 * fieldLe b 1 1 && fieldLe b 0 1 == 1 && decide (fieldLe b 1 1 ≤ 64) && fieldLe b 28 4 == crc32c (b.take 28 ++ b.drop 32)

/-- What is wrong with a token for this head, as DETAIL of AGREE_MISMATCH says it (R572). -/
def State.agreeFault (s : State) (b : Bytes) : Nat :=
  let me := s.tokenEntry
  let entries := chunks 64 65 (b.drop 32)
  let array := entries.any fun e =>
    fieldLe e 0 8 == fieldLe me 0 8 && fieldLe e 8 1 != s.head && slice e 16 48 != slice me 16 48 && !s.upd.updating && !bitAt (fieldLe e 9 1) 0
  let installed := s.flag P.agreeInstall && s.imageSeq != fieldLe b 8 4 && !s.upd.updating
  b2n array + 2 * b2n installed + 4 * b2n (fieldLe b 1 1 == 64)

/-- A TOKEN on CHN_UP (R572, R579): compared, the head's own entry appended, and forwarded. -/
def tokenIn (cseq : Nat) (b : Bytes) (s : State) : State :=
  if ¬ tokenGood b then chainAnswer false 3 cseq (s.onUpd fun u => { u with crcErr := satInc u.crcErr })
  else
    let n := fieldLe b 1 1
    let fault := s.agreeFault b
    let s1 := chainAnswer false 2 cseq (s.onUpd fun u =>
      { u with tokenSeen := true, lostRaised := false, mismatch := fault % 4 ≠ 0, tokCount := BitVec.ofNat 6 n, tokSeq := BitVec.ofNat 24 (fieldLe b 4 4) })
    let s2 := if fault = 0 then s1 else raise 0x100A fault .all (s1.onUpd fun u => { u with mismatches := satInc u.mismatches })
    chainSend true 4 (if n = 64 then b else tokenBody (fieldLe b 4 4) (fieldLe b 8 4) (b.drop 32 ++ s.tokenEntry)) s2

/-- AGREE_PERIOD_TOKEN (R571): the origin sends a token with its own entry. -/
def agreePeriod (s : State) : State :=
  if ¬ s.rst.mgUp ∨ s.mgt.recovery ∨ s.cfg.img.isNone ∨ ¬ s.flag P.chainOrigin then s
  else
    let s1 := s.onChain fun c => { c with tseq := (c.tseq + 1) % 2 ^ 32 }
    chainSend true 4 (tokenBody s.chain.tseq s.imageSeq s.tokenEntry) (s1.onUpd fun u =>
      { u with tokenSeen := true, mismatch := false, tokCount := 1, tokSeq := BitVec.ofNat 24 s.chain.tseq })

/-- AGREE_PERIOD_TOKEN. -/
def execAgreePeriodToken (s : State) : Host.Outcome State Fault Refusal := .next (agreePeriod s)

/-- No good token for three periods (R572): AGREE_LOST, once for each loss, never at the origin. -/
def agreeLost (s : State) : State :=
  if ¬ s.rst.mgUp ∨ s.mgt.recovery ∨ s.cfg.img.isNone ∨ s.flag P.chainOrigin ∨ s.upd.lostRaised then s
  else note 0x100B 0 (s.onUpd fun u => { u with tokenSeen := false, lostRaised := true })

/-- AGREE_LOST_TIMER. -/
def execAgreeLostTimer (s : State) : Host.Outcome State Fault Refusal := .next (agreeLost s)

/-! ## Frames -/

/-- A chain frame (R562): BLOCK and TOKEN come on CHN_UP, answers on either port. In recovery the chain carries nothing (R76). -/
def chainIn (dn : Bool) (raw : Bytes) (s : State) : State :=
  let body := raw.drop 16
  if ¬ s.rst.mgUp ∨ s.mgt.recovery ∨ s.cfg.img.isNone ∨ raw.length < 16 ∨ fieldLe raw 2 2 ≠ body.length then s
  else match fieldLe raw 0 1, dn with
    | 1, false => blockIn (fieldLe raw 4 4) body s
    | 2, d => chainAcked d (answered raw) s
    | 3, d => chainResend d (answered raw) s
    | 4, false => tokenIn (fieldLe raw 4 4) body s
    | _, _ => s

/-- CHAIN_BLOCK. -/
def execChainBlock (dn : Bool) (raw : Bytes) (s : State) : Host.Outcome State Fault Refusal := .next (chainIn dn raw s)

/-- CHAIN_ACK. -/
def execChainAck (dn : Bool) (raw : Bytes) (s : State) : Host.Outcome State Fault Refusal := .next (chainIn dn raw s)

/-- CHAIN_NAK. -/
def execChainNak (dn : Bool) (raw : Bytes) (s : State) : Host.Outcome State Fault Refusal := .next (chainIn dn raw s)

/-- CHAIN_TOKEN. -/
def execChainToken (dn : Bool) (raw : Bytes) (s : State) : Host.Outcome State Fault Refusal := .next (chainIn dn raw s)

/-- CHAIN_RESEND_TIMER (R563): tCHRS without an answer. -/
def execChainResendTimer (dn : Bool) (cseq : Nat) (s : State) : Host.Outcome State Fault Refusal :=
  .next (if s.rst.mgUp then chainResend dn cseq s else s)

/-- A chain link comes up (R563, R583). -/
def chainUp (dn : Bool) (s : State) : State :=
  onChain dn (fun p => { p with down := false }) (s.onMgt fun m => if dn then { m with linkDn := true } else { m with linkUp := true })

/-- CHAIN_LINK_UP. -/
def execChainLinkUp (dn : Bool) (s : State) : Host.Outcome State Fault Refusal := .next (if s.rst.mgUp then chainUp dn s else s)

/-! ## Records of a load or reread -/

/-- RECORD_READ_DONE (R61 to R64, R77): one record of the load, or one frame of a reread; blocks that waited for the loader follow it (R575). -/
def execRecordReadDone (raw : Bytes) (s : State) : Host.Outcome State Fault Refusal :=
  .next (after (updDrain (stagingBlocks + 1)
    (if s.rst.stage = .loading ∧ s.cfg.state = .image then loadRecord raw s else if s.cfg.reread.isSome then rereadRecord raw s else s)))

end Sys2Proof.Machine
end

