-- ==== Sys2Proof/Machine/Regs.lean ====
section
/-! DEFINITION. The register space (R16 to R26, R585 to R593): what each register reads, what a read of it does, and what a write of it does.
Every block has its table here; the accesses of the management core and of JTAG go through `regRead` and `regWrite`. -/

namespace Sys2Proof.Machine

/-- One word of the register space. -/
structure Reg where
  /-- the value a read returns -/
  read : Requester → State → Nat := fun _ _ => 0
  /-- what the read does: an RC field clears, a low word latches its high word (R18, R19) -/
  onRead : Requester → State → State := fun _ s => s
  /-- what a write does; an RO or RC field ignores it (R19) -/
  write : Requester → Nat → State → State := fun _ _ s => s

/-- What the space keeps for a requester. -/
def State.busPort (s : State) (r : Requester) : BusPort := match r with
  | .core => s.bus.core
  | .jtag => s.bus.jtag

/-- Change what the space keeps for a requester. -/
def onBusPort (r : Requester) (f : BusPort → BusPort) (s : State) : State := s.onBus fun b => match r with
  | .core => { b with core := f b.core }
  | .jtag => { b with jtag := f b.jtag }

/-- An RO register. -/
def roReg (f : State → Nat) : Option Reg := some { read := fun _ s => f s }

/-- An RW register, or an RW1C one whose write clears. -/
def rwReg (f : State → Nat) (w : Nat → State → State) : Option Reg := some { read := fun _ s => f s, write := fun _ v s => w v s }

/-- An RC register: the read clears it (R19, R25). -/
def rcReg (f : State → Nat) (clear : State → State) : Option Reg := some { read := fun _ s => f s, onRead := fun _ s => clear s }

/-- A WO register, which reads 0 (R19). -/
def woReg (w : Requester → Nat → State → State) : Option Reg := some { write := w }

/-- The low word of the 64-bit register at `low` (R18): its read latches the high word for the requester (R589). -/
def loReg (low : Nat) (f : State → Nat) : Option Reg :=
  some { read := fun _ s => f s % 2 ^ 32, onRead := fun r s => onBusPort r (fun p => { p with latch := some (low, word (f s / 2 ^ 32)) }) s }

/-- The high word of the 64-bit register at `low` as a requester reads it (R589): the latched word if its latch belongs to the register. -/
def State.highWord (s : State) (r : Requester) (low : Nat) (f : State → Nat) : Nat :=
  match (s.busPort r).latch with
  | some (a, w) => if a = low then w.toNat else f s / 2 ^ 32 % 2 ^ 32
  | none => f s / 2 ^ 32 % 2 ^ 32

/-- The high word of the 64-bit register at `low`. -/
def hiReg (low : Nat) (f : State → Nat) : Option Reg := some { read := fun r s => s.highWord r low f }

/-- Word `k` of a byte string, bytes 0 to 3 in word 0. -/
def wordOf (b : Bytes) (k : Nat) : Nat := fieldLe b (4 * k) 4

/-- A mask of the numbers below `n` that satisfy a test. -/
def maskOf (n : Nat) (p : Nat → Bool) : Nat := (List.range n).foldl (fun m i => if p i then m + 2 ^ i else m) 0

/-! ## CFG (R78, R79) -/

/-- A loader state's code (R79). -/
def loadCode : LoadState → Nat
  | .options => 0
  | .image => 1
  | .checks => 2
  | .apply => 3
  | .done => 4
  | .failed => 5

/-- CFG_LOAD_STAT (R79). -/
def State.cfgLoadStat (s : State) : Nat :=
  loadCode s.cfg.state + s.cfg.codeP.toNat * 2 ^ 8 + s.cfg.codeA.toNat * 2 ^ 16 + b2n (s.cfg.src == .alternate) * 2 ^ 24 + b2n s.cfg.slotB * 2 ^ 25

/-- A field of the image in force, 0 before there is one. -/
def State.imgField (s : State) (f : Image → Nat) : Nat := (s.cfg.img.map f).getD 0

/-- The in-force value of the parameter that CFG_PARAM_SEL names (R78). -/
def State.selParam (s : State) : Nat := s.param s.cfg.paramSel.toNat

/-- CFG_PARAM_STAT (R78): whether the ID exists, whether an entry gave the value, and the entry's SCOPE. -/
def State.cfgParamStat (s : State) : Nat :=
  let id := s.cfg.paramSel.toNat
  b2n (paramRow id).isSome + (match s.cfg.img.bind fun i => paramEntry i.entries s.head id with
    | some e => 2 + e.scope % 4 * 4
    | none => 0)

/-- The CFG registers. -/
def cfgReg (off : Nat) : Option Reg :=
  if 0x40 ≤ off ∧ off ≤ 0x7C then roReg fun s => wordOf s.cfg.opt ((off - 0x40) / 4)
  else if 0x80 ≤ off ∧ off ≤ 0xAC then roReg fun s => s.imgField fun i => wordOf i.digest ((off - 0x80) / 4)
  else match off with
    | 0x00 => roReg State.cfgLoadStat
    | 0x04 => roReg fun s => s.cfg.optP.toNat + s.cfg.optA.toNat * 2 ^ 4 + s.cfg.recP.toNat * 2 ^ 8 + s.cfg.recA.toNat * 2 ^ 12
    | 0x08 => roReg fun s => s.cfg.failRec.toNat
    | 0x0C => roReg fun s => s.imgField (·.imgLen)
    | 0x10 => roReg fun s => s.imgField (·.seq)
    | 0x14 => roReg fun s => s.imgField (·.kenasy)
    | 0x18 => roReg fun s => s.cfg.loadTime.toNat
    | 0x20 => loReg 0x20 fun s => s.imgField (·.arrayId)
    | 0x24 => hiReg 0x20 fun s => s.imgField (·.arrayId)
    | 0xC0 => rwReg (fun s => s.cfg.paramSel.toNat) fun v s => s.onCfg fun c => { c with paramSel := BitVec.ofNat 16 v }
    | 0xC4 => loReg 0xC4 State.selParam
    | 0xC8 => hiReg 0xC4 State.selParam
    | 0xCC => roReg State.cfgParamStat
    | _ => none

/-! ## FAB and QPC (R160) -/

/-- The counter that FAB_CNT_SEL names (R160). -/
def State.selCount (s : State) : Nat := (tabGetD (s.fab.cntSel.toNat % 16, bitsAt s.fab.cntSel.toNat 8 4) 0 s.fab.cnt).toNat

/-- FAB_PORT_STAT (R160). -/
def State.fabPortStat (s : State) : Nat :=
  s.fab.subUp.toNat + s.param P.hpBreakout % 2 ^ 8 * 2 ^ 16
    + maskOf 4 (fun p => (List.range 4).any fun k => getBit s.fab.training (4 * p + k)) * 2 ^ 24

/-- The FAB registers. -/
def fabReg (off : Nat) : Option Reg := match off with
  | 0x00 => rwReg (fun s => s.fab.ctrl.toNat) fun v s => after (fabCtrl (v % 16) s)
  | 0x04 => roReg State.fabPortStat
  | 0x08 => rwReg (fun s => s.fab.latch.toNat) fun v s => s.onFab fun f => { f with latch := f.latch &&& ~~~(BitVec.ofNat 16 v) }
  | 0x10 => rwReg (fun s => s.fab.cntSel.toNat) fun v s => s.onFab fun f => { f with cntSel := word (v % 16 + bitsAt v 8 4 * 2 ^ 8) }
  | 0x14 => loReg 0x10014 State.selCount
  | 0x18 => hiReg 0x10014 State.selCount
  | 0x20 => rcReg (fun s => s.fab.retryExceeded.toNat) fun s => s.onFab fun f => { f with retryExceeded := 0 }
  | 0x24 => rcReg (fun s => s.fab.cnpRx.toNat) fun s => s.onFab fun f => { f with cnpRx := 0 }
  | 0x28 => rcReg (fun s => s.fab.cnpTx.toNat) fun s => s.onFab fun f => { f with cnpTx := 0 }
  | 0x30 => roReg fun s => s.fab.addrTaken.toNat
  | _ => none

/-- QPC_CTX_STAT (R160): the context whose index QPC_CTX_SEL names. -/
def State.ctxStat (s : State) : Nat :=
  let q := s.qpc.ctxSel.toNat
  match tabGet (q % 2 ^ 18) s.qpc.ctx with
  | some c => ctxCode c.state + b2n c.cached * 2 ^ 3 + b2n c.lot * 2 ^ 4 + b2n (c.gen == q / 2 ^ 18) * 2 ^ 5
  | none => 0

/-- The QPC registers. -/
def qpcReg (off : Nat) : Option Reg :=
  if 0x20 ≤ off ∧ off ≤ 0x2C then
    let p := (off - 0x20) / 4
    rcReg (fun s => (s.qpc.drops.getD p 0).toNat) fun s => s.onQpc fun q => { q with drops := setAt p 0 q.drops }
  else if 0x30 ≤ off ∧ off ≤ 0x3C then roReg fun s => s.missFill ((off - 0x30) / 4) / 1024
  else match off with
    | 0x00 => roReg fun s => s.qpc.cache.length
    | 0x04 => roReg fun s => s.qpc.ctx.length
    | 0x08 => loReg 0x20008 fun s => s.qpc.hits.toNat
    | 0x0C => hiReg 0x20008 fun s => s.qpc.hits.toNat
    | 0x10 => loReg 0x20010 fun s => s.qpc.misses.toNat
    | 0x14 => hiReg 0x20010 fun s => s.qpc.misses.toNat
    | 0x18 => rcReg (fun s => s.qpc.fetchMax.toNat) fun s => s.onQpc fun q => { q with fetchMax := 0 }
    | 0x40 => rwReg (fun s => s.qpc.ctxSel.toNat) fun v s => s.onQpc fun q => { q with ctxSel := BitVec.ofNat 24 v }
    | 0x44 => roReg State.ctxStat
    | 0x48 => rcReg (fun s => s.qpc.ckptLag.toNat) fun s => s.onQpc fun q => { q with ckptLag := 0 }
    | _ => none

/-! ## CMD and ING (R206, R232) -/

/-- CMD_TR_HOLD (R206). -/
def State.trHold (s : State) : Nat :=
  let used := s.trackersUsed
  b2n (s.blockTops.any fun u => s.paced u || (s.top u).mode == .floor) + b2n s.pwr.hold * 2 + b2n s.prt.hold * 4
    + b2n (decide (65536 ≤ used.1) || decide (262144 ≤ used.2)) * 8 + b2n s.nextWindow.isNone * 16 + b2n (s.cmd.holdShare != []) * 32
    + b2n s.inRound * 64 + b2n s.cmd.holdDirty * 128

/-- Commands that wait under R189 (R206). -/
def State.overlapWaits (s : State) : Nat :=
  s.cmd.cmds.countP fun c => c.phase == .waiting && (c.op == 0x01 || c.op == 0x12) && s.cmd.cmds.any fun e => decide (e.acc < c.acc) && waitsFor c e

/-- Completions with the status that CMD_STAT_SEL names (R206). -/
def State.selStatus (s : State) : Nat := (tabGetD s.cmd.statSel.toNat 0 s.cmd.statCnt).toNat

/-- The CMD registers. -/
def cmdReg (off : Nat) : Option Reg := match off with
  | 0x00 => roReg fun s => s.cmd.cmds.length
  | 0x04 => roReg fun s => s.cmd.wins.countP fun e => e.2.valid
  | 0x08 => roReg State.trHold
  | 0x0C => roReg fun s => s.cmd.orphans.length
  | 0x10 => rcReg (fun s => s.cmd.orphanDrop.toNat) fun s => s.onCmd fun c => { c with orphanDrop := 0 }
  | 0x14 => roReg State.overlapWaits
  | 0x20 => rwReg (fun s => s.cmd.statSel.toNat) fun v s => s.onCmd fun c => { c with statSel := BitVec.ofNat 8 v }
  | 0x24 => loReg 0x30024 State.selStatus
  | 0x28 => hiReg 0x30024 State.selStatus
  | 0x30 => loReg 0x30030 fun s => s.cmd.hits.toNat
  | 0x34 => hiReg 0x30030 fun s => s.cmd.hits.toNat
  | 0x38 => rcReg (fun s => s.cmd.latMax.toNat) fun s => s.onCmd fun c => { c with latMax := 0 }
  | 0x3C => rcReg (fun s => s.cmd.releaseDisc.toNat) fun s => s.onCmd fun c => { c with releaseDisc := 0 }
  | _ => none

/-- ING_TEE_STAT (R232). -/
def State.teeStat (s : State) : Nat :=
  b2n (s.prt.pair == .paired) + b2n (s.ing.backlog != []) * 2 + b2n s.ing.alarm * 4 + b2n s.ing.segfail * 8

/-- Blocks of 4 KiB of the partner's that the shadow holds (R232). -/
def State.shadowUsed (s : State) : Nat := (s.ing.shadow.map fun g => (g.qpn, g.cid, g.off / 4096)).eraseDups.length

/-- The ING registers. -/
def ingReg (off : Nat) : Option Reg := match off with
  | 0x00 => roReg State.teeStat
  | 0x04 => roReg State.backlogMib
  | 0x08 => roReg fun s => s.ing.lastSeg.toNat
  | 0x0C => rcReg (fun s => s.ing.teeLat.toNat) fun s => s.onIng fun i => { i with teeLat := 0 }
  | 0x10 => roReg State.dirtyNow
  | 0x14 => rcReg (fun s => s.ing.dirtyPeak) fun s => s.onIng fun i => { i with dirtyPeak := 0 }
  | 0x18 => roReg State.shadowUsed
  | 0x20 => rwReg (fun s => s.ing.failSel.toNat) fun v s => s.onIng fun i => { i with failSel := BitVec.ofNat 8 v }
  | 0x24 => rcReg (fun s => (tabGetD s.ing.failSel.toNat 0 s.ing.failCnt).toNat) fun s => s.onIng fun i => { i with failCnt := tabDel i.failSel.toNat i.failCnt }
  | 0x28 => roReg fun s => s.ing.failLast.toNat
  | 0x2C => loReg 0x4002C fun s => s.ing.failTime.toNat
  | 0x30 => hiReg 0x4002C fun s => s.ing.failTime.toNat
  | 0x40 => rcReg (fun s => s.ing.repaired.toNat) fun s => s.onIng fun i => { i with repaired := 0 }
  | 0x44 => rcReg (fun s => s.ing.unrecovered.toNat) fun s => s.onIng fun i => { i with unrecovered := 0 }
  | 0x48 => rcReg (fun s => s.ing.dedupMismatch.toNat) fun s => s.onIng fun i => { i with dedupMismatch := 0 }
  | _ => none

/-! ## FPR, CMP and CIP (R277) -/

/-- FPR_FILTER_FILL (R277): the share of the active bank's 65,536 × 64 bits that is set, per mille. -/
def State.filterFill (s : State) : Nat := s.fpr.active.foldl (fun a e => a + popCount e.2) 0 * 1000 / (65536 * 64)

/-- The FPR registers. -/
def fprReg (off : Nat) : Option Reg := match off with
  | 0x00 => roReg fun s => b2n s.fpr.rebuilding + b2n s.fpr.replaced * 2 + s.fpr.pipes.toNat * 4
  | 0x04 => roReg State.filterFill
  | 0x08 => roReg fun s => s.fpr.index.foldl (fun a e => a + e.2.length) 0
  | 0x10 => loReg 0x50010 fun s => s.fpr.lookups.toNat
  | 0x14 => hiReg 0x50010 fun s => s.fpr.lookups.toNat
  | 0x18 => loReg 0x50018 fun s => s.fpr.neg.toNat
  | 0x1C => hiReg 0x50018 fun s => s.fpr.neg.toNat
  | 0x20 => loReg 0x50020 fun s => s.fpr.dups.toNat
  | 0x24 => hiReg 0x50020 fun s => s.fpr.dups.toNat
  | 0x28 => rcReg (fun s => s.fpr.falsePos.toNat) fun s => s.onFpr fun f => { f with falsePos := 0 }
  | 0x2C => rcReg (fun s => s.fpr.evict.toNat) fun s => s.onFpr fun f => { f with evict := 0 }
  | 0x30 => rcReg (fun s => s.fpr.indexErr.toNat) fun s => s.onFpr fun f => { f with indexErr := 0 }
  | 0x34 => woReg fun _ v s => fprRebuildWrite v s
  | _ => none

/-- CMP jobs that run among those held (R277): the spec does not say how many run at once (log entry 42). -/
def State.jobsRunning (s : State) : Nat := min s.cmp.jobs.length (Sys2Proof.cmpRunning s.cmp.jobs.length)

/-- The CMP registers. -/
def cmpReg (off : Nat) : Option Reg := match off with
  | 0x00 => roReg fun s => s.cmp.laneUp.toNat
  | 0x04 => roReg fun s => (s.cmp.jobs.length - s.jobsRunning) % 2 ^ 8 + s.jobsRunning % 2 ^ 8 * 2 ^ 8
  | 0x08 => loReg 0x60008 fun s => s.cmp.blocksIn.toNat
  | 0x0C => hiReg 0x60008 fun s => s.cmp.blocksIn.toNat
  | 0x10 => loReg 0x60010 fun s => s.cmp.sectorsOut.toNat
  | 0x14 => hiReg 0x60010 fun s => s.cmp.sectorsOut.toNat
  | 0x18 => loReg 0x60018 fun s => s.cmp.noGain.toNat
  | 0x1C => hiReg 0x60018 fun s => s.cmp.noGain.toNat
  | 0x20 => rcReg (fun s => s.cmp.verifyFail.toNat) fun s => s.onCmp fun c => { c with verifyFail := 0 }
  | 0x24 => rcReg (fun s => s.cmp.formatErr.toNat) fun s => s.onCmp fun c => { c with formatErr := 0 }
  | 0x28 => rcReg (fun s => s.cmp.jobStops.toNat) fun s => s.onCmp fun c => { c with jobStops := 0 }
  | _ => none

/-- A key slot state's code (R258). -/
def slotCode : SlotState → Nat
  | .empty => 0
  | .loading => 1
  | .ready => 2
  | .erasing => 3
  | .failed => 4

/-- CIP_SLOT_STAT (R277). -/
def State.slotStat (s : State) : Nat :=
  match tabGet s.cip.slotSel.toNat s.cip.slots with
  | some k => slotCode k.state + k.kind % 4 * 2 ^ 3 + b2n k.wrapped * 2 ^ 5 + (if k.state = .ready then leNat (k.kcv.take 3) else 0) * 2 ^ 8
  | none => 0

/-- Key bytes and the KEK slot are written by the core alone (R592). -/
def kbusWrite (r : Requester) (addr : Nat) (f : Cip → Cip) (s : State) : State := if r = .jtag then accessError r addr true s else s.onCip f

/-- The CIP registers. -/
def cipReg (off : Nat) : Option Reg :=
  if 0x80 ≤ off ∧ off ≤ 0xC4 then woReg fun r v s => kbusWrite r (0x70000 + off) (fun c => { c with kbusData := setAt ((off - 0x80) / 4) (word v) c.kbusData }) s
  else match off with
    | 0x00 => roReg fun s => s.cip.xtsUp.toNat
    | 0x04 => roReg fun s => s.cip.gcmUp.toNat
    | 0x08 => woReg fun r v s => after (kbusCmd r v s)
    | 0x0C => roReg fun s => s.cip.kbusStat.toNat + s.cip.kbusReason.toNat * 2 ^ 4 + s.cip.kbusSlot.toNat * 2 ^ 8
    | 0x10 => woReg fun r v s => kbusWrite r 0x70010 (fun c => { c with kbusWrap := BitVec.ofNat 10 v }) s
    | 0x20 => rwReg (fun s => s.cip.slotSel.toNat) fun v s => s.onCip fun c => { c with slotSel := BitVec.ofNat 10 v }
    | 0x24 => roReg State.slotStat
    | 0x28 => roReg fun s => s.cip.slots.countP fun e => e.2.state == .ready
    | 0x30 => roReg fun s => s.cip.ctxRam.length
    | 0x34 => roReg fun s => s.cip.ctxSpill.length
    | 0x38 => rcReg (fun s => s.cip.ctxSaves.toNat) fun s => s.onCip fun c => { c with ctxSaves := 0 }
    | 0x3C => rcReg (fun s => s.cip.ctxLost.toNat) fun s => s.onCip fun c => { c with ctxLost := 0 }
    | 0x40 => rcReg (fun s => s.cip.mismatch.toNat) fun s => s.onCip fun c => { c with mismatch := 0 }
    | 0x44 => rcReg (fun s => s.cip.faults.toNat) fun s => s.onCip fun c => { c with faults := 0 }
    | 0x48 => rcReg (fun s => s.cip.authFail.toNat) fun s => s.onCip fun c => { c with authFail := 0 }
    | _ => none

/-! ## BUF (R514) -/

/-- BUF_STAT (R514). -/
def State.bufStat (s : State) : Nat :=
  s.buf.state.toNat + b2n s.buf.fail * 2 ^ 2 + s.buf.code.toNat * 2 ^ 8 + s.buf.chan.toNat * 2 ^ 12 + s.buf.dpc % 4 * 2 ^ 16
    + (if s.buf.gib = 32 then 1 else if s.buf.gib = 64 then 2 else 0) * 2 ^ 18

/-- The channel that BUF_CH_SEL names. -/
def State.selChan (s : State) : Nat := s.buf.chSel.toNat

/-- The marked device of a subchannel of the selected channel and rank, with its valid bit (R514). -/
def State.markField (s : State) (sub : Nat) : Nat :=
  match tabGet (s.selChan, sub, s.buf.rankSel.toNat) s.buf.marked with
  | some d => d % 16 + 16
  | none => 0

/-- The base and size of the region that BUF_REGION_SEL names, 0 before the regions are placed (R514). -/
def State.selRegion (s : State) : Nat × Nat := s.buf.regions.getD s.buf.regionSel.toNat (0, 0)

/-- The BUF registers. -/
def bufReg (off : Nat) : Option Reg := match off with
  | 0x00 => roReg State.bufStat
  | 0x04 => roReg fun s => s.buf.trained.toNat + s.buf.selfRef.toNat * 2 ^ 12 + b2n (s.buf.failedCh != 0) * 2 ^ 24
  | 0x08 => roReg fun s => maskOf 12 (fun c => s.buf.doubled.any fun e => e.1.1 == c) + maskOf 12 (fun c => s.buf.hot.any fun e => e.1 == c) * 2 ^ 12
  | 0x0C => rwReg (fun s => s.buf.chSel.toNat + s.buf.rankSel.toNat * 16) fun v s =>
      s.onBuf fun b => { b with chSel := BitVec.ofNat 4 v, rankSel := BitVec.ofNat 2 (v / 16) }
  | 0x10 => rcReg (fun s => (tabGetD s.selChan 0 s.buf.ce).toNat) fun s => s.onBuf fun b => { b with ce := tabDel b.chSel.toNat b.ce }
  | 0x14 => rcReg (fun s => (tabGetD s.selChan 0 s.buf.ue).toNat) fun s => s.onBuf fun b => { b with ue := tabDel b.chSel.toNat b.ue }
  | 0x18 => roReg fun s => s.markField 0 + s.markField 1 * 2 ^ 5
  | 0x1C => rcReg (fun s => s.buf.nrr.toNat) fun s => s.onBuf fun b => { b with nrr := 0 }
  | 0x20 => loReg 0x80020 fun s => s.buf.errAddr.toNat
  | 0x24 => hiReg 0x80020 fun s => s.buf.errAddr.toNat
  | 0x28 => roReg State.scrubMille
  | 0x2C => rwReg (fun s => s.buf.classSel.toNat) fun v s => s.onBuf fun b => { b with classSel := BitVec.ofNat 3 v }
  | 0x30 => roReg fun s => (tabGetD s.buf.classSel.toNat 0 s.buf.classBw).toNat
  | 0x34 => rcReg (fun s => (tabGetD s.buf.classSel.toNat 0 s.buf.classLat).toNat) fun s =>
      s.onBuf fun b => { b with classLat := tabDel b.classSel.toNat b.classLat }
  | 0x38 => rwReg (fun s => s.buf.regionSel.toNat) fun v s => s.onBuf fun b => { b with regionSel := BitVec.ofNat 4 v }
  | 0x3C => loReg 0x8003C fun s => s.selRegion.1
  | 0x40 => hiReg 0x8003C fun s => s.selRegion.1
  | 0x44 => roReg fun s => ceilDiv s.selRegion.2 (2 ^ 20)
  | 0x48 => roReg fun s => if s.cfg.img.isSome then s.regionNeed else 0
  | _ => none

/-! ## FTL (R317, R359) -/

/-- FTL_STAT (R359). -/
def State.ftlStat (s : State) : Nat :=
  b2n s.ftl.replay + b2n s.ftl.ready * 2 + b2n s.ftl.noLog * 4 + b2n s.ftl.formatting * 8 + b2n s.ftl.formatErr * 16
    + satN 8 s.ftl.frozen.length * 2 ^ 8 + satN 8 (s.blockTops.countP fun u => s.paced u || (s.top u).mode == .floor) * 2 ^ 16

/-- The descriptor that FTL_UNIT_SEL names. -/
def State.selUnit (s : State) : Nat := s.ftl.unitSel.toNat

/-- FTL_SEG_STAT (R359). -/
def State.segStat (s : State) : Nat :=
  (s.segsOf s.selUnit).length % 2 ^ 13 + (s.freeSegs s.selUnit).length % 2 ^ 13 * 2 ^ 16 + gcCode (s.top s.selUnit).mode * 2 ^ 29

/-- The die unit of the selected die, if the tree has it. -/
def State.selDie (s : State) : Option Nat := s.dieOf s.ftl.dieSel.toNat

/-- The blocks of the selected die. -/
def State.selBlks (s : State) : List EBlk := (s.ftl.blks.filter fun e => e.1.1 == s.ftl.dieSel.toNat).map (·.2)

/-- FTL_DIE_STAT (R359). -/
def State.dieStat (s : State) : Nat :=
  let st := tabGetD s.ftl.dieSel.toNat {} s.ftl.dies
  match s.selDie with
  | none => 0
  | some d => s.retiredOf s.ftl.dieSel.toNat % 2 ^ 13 + (s.selBlks.countP (·.spare)) % 2 ^ 13 * 2 ^ 13 + b2n st.failed * 2 ^ 26
      + b2n st.missing * 2 ^ 27 + b2n (s.ftl.frozen.contains (s.bandOf d)) * 2 ^ 28

/-- FTL_DIE_PE (R359): the lowest and highest erase count of the blocks in service. -/
def State.diePe (s : State) : Nat :=
  match (s.selBlks.filter fun e => e.state != .retired).map (·.pe) with
  | [] => 0
  | p :: ps => satN 16 (ps.foldl min p) + satN 16 (ps.foldl max p) * 2 ^ 16

/-- The erase block that FTL_DIE_SEL and FTL_BLK_SEL name. -/
def State.selBlk (s : State) : EBlk := s.blk s.ftl.dieSel.toNat s.ftl.blkSel.toNat

/-- An erase block state's code (R325). -/
def blkCode : BlkState → Nat
  | .ecru => 0
  | .indigo => 1
  | .sable => 2
  | .russet => 3
  | .retired => 4

/-- FTL_BLK_STAT (R359). -/
def State.blkStat (s : State) : Nat :=
  let e := s.selBlk
  blkCode e.state + b2n e.trimmed * 2 ^ 3 + b2n e.spare * 2 ^ 4 + e.seg % 2 ^ 13 * 2 ^ 5 + b2n e.factory * 2 ^ 18 + satN 2 e.exhaust * 2 ^ 19
    + (if e.state = .retired then e.cause % 8 else 0) * 2 ^ 21

/-- FTL_BLK_RT (R359). -/
def State.blkRt (s : State) : Nat :=
  let e := s.selBlk
  satN 8 (e.means.foldl (fun a m => a + m.1) 0 / max 1 (e.means.foldl (fun a m => a + m.2) 0)) + ofSigned 8 (e.rt.headD 0) * 2 ^ 8 + e.step % 16 * 2 ^ 16

/-- Members of the selected unit counted lost (R302, R317). -/
def State.membersLost (s : State) : Nat :=
  match s.unit s.selUnit with
  | none => 0
  | some d => match d.kind with
    | .die => 0
    | k => (List.range d.size).countP fun i =>
        s.rebuildTarget s.selUnit i || (let m := s.memberNow s.selUnit i
          if k = UnitKind.band then s.dieLost m else decide (s.margin m < 0))

/-- A unit kind's code (R317). -/
def kindCode : UnitKind → Nat
  | .die => 1
  | .band => 2
  | .span => 3

/-- A role's code (R281). -/
def roleCode : UnitRole → Nat
  | .member => 0
  | .top => 1
  | .mapBand => 2
  | .jnlBand => 3
  | .spare => 4

/-- FTL_UNIT_STAT (R317). -/
def State.unitStat (s : State) : Nat :=
  let u := s.selUnit
  match s.unit u with
  | none => 0
  | some d => kindCode d.kind + roleCode d.role * 2 ^ 2 + s.healthOf u * 2 ^ 5 + b2n (s.ftl.frozen.contains u) * 2 ^ 7 + b2n (s.missingUnder u) * 2 ^ 8
      + b2n (s.rebuilding u) * 2 ^ 9 + d.head * 2 ^ 10 + s.marginField u * 2 ^ 16 + s.membersLost % 2 ^ 6 * 2 ^ 24

/-- Free capacity of the selected unit in logical blocks (R307, R317). -/
def State.selFree (s : State) : Nat := 16 * s.freeStrips s.selUnit

/-- Stranded capacity of the selected unit in logical blocks (R307, R317). -/
def State.selStrand (s : State) : Nat := 16 * s.strandedStrips s.selUnit

/-- FTL_TREE_STAT (R317). -/
def State.treeStat (s : State) : Nat :=
  s.units.length + ((List.range s.units.length).map (depthOf s.units maxDepth)).foldl max 0 * 2 ^ 16
    + (s.units.countP fun d => d.role == .top && d.head == s.head) % 2 ^ 8 * 2 ^ 24

/-- The log of this head. -/
def State.mapSeq (s : State) : Nat := (s.mapLog s.head).durable

/-- The FTL registers. -/
def ftlReg (off : Nat) : Option Reg := match off with
  | 0x00 => roReg State.ftlStat
  | 0x04 => woReg fun _ v s => after (ftlFormat v s)
  | 0x08 => roReg State.segStat
  | 0x0C => roReg fun s => s.freeLevel s.selUnit
  | 0x10 => rwReg (fun s => s.ftl.dieSel.toNat) fun v s => s.onFtl fun f => { f with dieSel := BitVec.ofNat 11 v }
  | 0x14 => roReg State.dieStat
  | 0x18 => roReg State.diePe
  | 0x20 => rwReg (fun s => s.ftl.blkSel.toNat) fun v s => s.onFtl fun f => { f with blkSel := BitVec.ofNat 13 v }
  | 0x24 => roReg State.blkStat
  | 0x28 => roReg fun s => satN 32 s.selBlk.reads
  | 0x2C => roReg State.blkRt
  | 0x30 => roReg fun s => satN 24 s.selBlk.pe
  | 0x40 => loReg 0x90040 fun s => s.ftl.gcSect.toNat
  | 0x44 => hiReg 0x90040 fun s => s.ftl.gcSect.toNat
  | 0x48 => loReg 0x90048 fun s => s.ftl.erases.toNat
  | 0x4C => hiReg 0x90048 fun s => s.ftl.erases.toNat
  | 0x50 => loReg 0x90050 State.mapSeq
  | 0x54 => hiReg 0x90050 State.mapSeq
  | 0x58 => rcReg (fun s => s.ftl.mapLag.toNat) fun s => s.onFtl fun f => { f with mapLag := 0 }
  | 0x5C => roReg fun s => s.mapFill s.head
  | 0x60 => rcReg (fun s => s.ftl.retired.toNat) fun s => s.onFtl fun f => { f with retired := 0 }
  | 0x64 => rcReg (fun s => s.ftl.relocRefresh.toNat + s.ftl.relocWear.toNat * 2 ^ 16) fun s => s.onFtl fun f => { f with relocRefresh := 0, relocWear := 0 }
  | 0x68 => rcReg (fun s => s.ftl.rtRetries.toNat) fun s => s.onFtl fun f => { f with rtRetries := 0 }
  | 0x6C => rcReg (fun s => s.ftl.rtFails.toNat) fun s => s.onFtl fun f => { f with rtFails := 0 }
  | 0x70 => roReg fun s => s.ftl.shares.length
  | 0x74 => rcReg (fun s => s.ftl.shareFull.toNat) fun s => s.onFtl fun f => { f with shareFull := 0 }
  | 0x78 => roReg fun s => s.ftl.replayMs.toNat
  | 0x7C => rcReg (fun s => s.ftl.gcDiscard.toNat) fun s => s.onFtl fun f => { f with gcDiscard := 0 }
  | 0x400 => rwReg (fun s => s.ftl.unitSel.toNat) fun v s => s.onFtl fun f => { f with unitSel := BitVec.ofNat 13 v }
  | 0x404 => roReg State.unitStat
  | 0x408 => loReg 0x90408 fun s => s.nominalBlocks s.selUnit
  | 0x40C => hiReg 0x90408 fun s => s.nominalBlocks s.selUnit
  | 0x410 => loReg 0x90410 State.selFree
  | 0x414 => hiReg 0x90410 State.selFree
  | 0x418 => loReg 0x90418 State.selStrand
  | 0x41C => hiReg 0x90418 State.selStrand
  | 0x420 => roReg fun s => s.sledMask s.selUnit
  | 0x424 => roReg fun s => s.fdTol s.selUnit
  | 0x428 => roReg State.treeStat
  | 0x42C => rcReg (fun s => s.ftl.healthChg.toNat) fun s => s.onFtl fun f => { f with healthChg := 0 }
  | _ => none

/-! ## PAR and JNL (R399) -/

/-- Whether a pass of Hem patrol is under way or waits (R386, R399): it runs in Run and waits in a hold and behind rebuilds (DEDUCED, log entry 43). -/
def State.patrolOn (s : State) : Bool := s.rst.dpUp && s.pwr.state == .run && s.ftl.ready && s.patrolRows != []

/-- Whether patrol waits (R381, R386). -/
def State.patrolWaits (s : State) : Bool := s.patrolOn && (s.pwr.hold || s.par.rebuilds != [])

/-- PAR_STAT (R399). -/
def State.parStat (s : State) : Nat :=
  b2n (s.par.rebuilds != []) + b2n (s.patrolOn && !s.patrolWaits) * 2 + b2n s.patrolWaits * 4
    + b2n (s.par.rew.any fun e => e.2 != []) * 8 + satN 8 s.par.running.length * 2 ^ 8

/-- The rebuild that the PAR_RB registers report: the first that runs (log entry 44). -/
def State.shownRebuild (s : State) : Nat × Rebuild := match s.par.rebuilds with
  | e :: _ => e
  | [] => (0, { pos := 0, spare := 0, walk := [], total := 0, top := 0 })

/-- The field of PAR_SUBST_STAT for one of the selected span's spares (R399). -/
def State.substField (s : State) (spare : Option Nat) : Nat :=
  match spare.bind fun x => s.jnl.spans.find? fun e => e.1.1 == s.par.substSel.toNat && e.2.spare == x with
  | some e => e.1.2 % 2 ^ 6 + 2 ^ 6 + b2n e.2.complete * 2 ^ 7
  | none => 0

/-- PAR_SUBST_STAT (R399). -/
def State.substStat (s : State) : Nat :=
  let d := (s.unit s.par.substSel.toNat).getD {}
  s.substField d.spare0 + s.substField d.spare1 * 2 ^ 8

/-- The PAR registers. -/
def parReg (off : Nat) : Option Reg := match off with
  | 0x00 => roReg State.parStat
  | 0x04 => roReg fun s => s.shownRebuild.1 % 2 ^ 13 + s.shownRebuild.2.pos % 2 ^ 6 * 2 ^ 13
  | 0x08 => roReg fun s => s.shownRebuild.2.spare % 2 ^ 13
  | 0x0C => roReg fun s => s.shownRebuild.2.done % 2 ^ 32
  | 0x10 => roReg fun s => s.shownRebuild.2.total % 2 ^ 32
  | 0x14 => roReg fun s => s.par.rbRate.toNat
  | 0x18 => rcReg (fun s => s.par.twoErase.toNat) fun s => s.onPar fun p => { p with twoErase := 0 }
  | 0x1C => rcReg (fun s => s.par.unrecovered.toNat) fun s => s.onPar fun p => { p with unrecovered := 0 }
  | 0x20 => rcReg (fun s => s.par.rmwReads.toNat) fun s => s.onPar fun p => { p with rmwReads := 0 }
  | 0x24 => rcReg (fun s => s.par.closed.toNat) fun s => s.onPar fun p => { p with closed := 0 }
  | 0x28 => roReg fun s => s.par.patrolPos * 1000 / max 1 s.patrolRows.length
  | 0x2C => roReg fun s => s.par.passes.toNat
  | 0x30 => rcReg (fun s => s.par.patrolFix.toNat) fun s => s.onPar fun p => { p with patrolFix := 0 }
  | 0x34 => rcReg (fun s => s.par.patrolUnfix.toNat) fun s => s.onPar fun p => { p with patrolUnfix := 0 }
  | 0x40 => rwReg (fun s => s.par.substSel.toNat) fun v s => s.onPar fun p => { p with substSel := BitVec.ofNat 13 v }
  | 0x44 => roReg State.substStat
  | _ => none

/-- JNL_HOME_STAT (R399): two bits for each home of this head. -/
def State.homeStat (s : State) : Nat :=
  ((s.homesOf s.head).zipIdx).foldl (fun a (u, i) => match s.jnl.homesOut.find? fun e => e.1 == u with
    | some e => a + (if e.2 then 1 else 2) * 4 ^ i
    | none => a) 0

/-- The JNL registers. -/
def jnlReg (off : Nat) : Option Reg := match off with
  | 0x00 => roReg fun s => s.jnl.recs.length
  | 0x04 => rcReg (fun s => s.jnl.peak) fun s => s.onJnl fun j => { j with peak := 0 }
  | 0x08 => roReg State.homeStat
  | 0x0C => rcReg (fun s => s.jnl.fullWait.toNat) fun s => s.onJnl fun j => { j with fullWait := 0 }
  | 0x10 => loReg 0xB0010 fun s => s.jnl.durable
  | 0x14 => hiReg 0xB0010 fun s => s.jnl.durable
  | 0x18 => rcReg (fun s => s.jnl.commitMax.toNat) fun s => s.onJnl fun j => { j with commitMax := 0 }
  | 0x1C => rcReg (fun s => s.jnl.spillLag.toNat) fun s => s.onJnl fun j => { j with spillLag := 0 }
  | 0x20 => roReg fun s => s.jnl.replayed.toNat
  | _ => none

/-! ## SLD (R430) -/

/-- A mask of the sleds whose port satisfies a test. -/
def State.sledBits (s : State) (p : SledPort → Bool) : Nat := maskOf 32 fun i => p (s.port i)

/-- Whether a sled is granted to this head at its current claim (R430). -/
def SledPort.granted (p : SledPort) : Bool := p.grant.isSome && p.holds && p.current

/-- Whether that grant is a sole claim (R430). -/
def SledPort.sole (p : SledPort) : Bool := p.granted && (p.grant.any fun g => g.2.1)

/-- Whether a port is in L0 or rest (R430); a port that resynchronises is in L0. -/
def SledPort.linkUp (p : SledPort) : Bool := p.state == .l0 || p.state == .rest || p.state == .resync

/-- A link state's code (R430). -/
def lstateCode : LState → Nat
  | .down => 0
  | .training => 1
  | .l0 => 2
  | .rest => 3
  | .recovery => 4
  | .resync => 5

/-- The port that SLD_PORT_SEL names. -/
def State.selPort (s : State) : SledPort := s.port s.sld.sel.toNat

/-- SLD_PORT_STAT (R430). -/
def State.portStat (s : State) : Nat :=
  let p := s.selPort
  lstateCode p.state + b2n p.present * 2 ^ 3 + b2n p.x1 * 2 ^ 4 + b2n p.foreign * 2 ^ 5 + b2n p.granted * 2 ^ 6 + b2n p.sole * 2 ^ 7
    + b2n p.fenced * 2 ^ 8 + p.dies.toNat * 2 ^ 16 + p.boots.toNat % 2 ^ 8 * 2 ^ 24

/-- SLD_EQ_STAT (R430). -/
def State.eqStat (s : State) : Nat :=
  let lane (i : Nat) : Nat := let e := s.selPort.eq.getD i (0, 0, 0); e.1 % 2 ^ 6 + e.2.1 % 2 ^ 6 * 2 ^ 6
  lane 0 + lane 1 * 2 ^ 12

/-- The SLD registers. -/
def sldReg (off : Nat) : Option Reg := match off with
  | 0x00 => loReg 0xC0000 fun s => s.sld.epoch.toNat
  | 0x04 => hiReg 0xC0000 fun s => s.sld.epoch.toNat
  | 0x08 => roReg fun s => s.sledBits SledPort.granted
  | 0x0C => roReg fun s => s.sledBits SledPort.sole
  | 0x10 => roReg fun s => s.sledBits (·.present)
  | 0x14 => roReg fun s => s.sledBits SledPort.linkUp
  | 0x18 => roReg fun s => s.sledBits (·.foreign)
  | 0x1C => rwReg (fun s => s.sld.latch.toNat) fun v s => s.onSld fun l => { l with latch := l.latch &&& ~~~(word v) }
  | 0x20 => rwReg (fun s => s.sld.sel.toNat) fun v s => s.onSld fun l => { l with sel := BitVec.ofNat 5 v }
  | 0x24 => roReg State.portStat
  | 0x28 => loReg 0xC0028 fun s => s.selPort.sledId.toNat
  | 0x2C => hiReg 0xC0028 fun s => s.selPort.sledId.toNat
  | 0x30 => roReg State.eqStat
  | 0x34 => roReg fun s => s.selPort.tx.length
  | 0x38 => rcReg (fun s => s.sld.replays.toNat) fun s => s.onSld fun l => { l with replays := 0 }
  | 0x3C => rcReg (fun s => s.sld.retrains.toNat) fun s => s.onSld fun l => { l with retrains := 0 }
  | 0x40 => rcReg (fun s => s.sld.timeouts.toNat) fun s => s.onSld fun l => { l with timeouts := 0 }
  | 0x44 => rcReg (fun s => s.sld.fencedCpl.toNat) fun s => s.onSld fun l => { l with fencedCpl := 0 }
  | 0x48 => rcReg (fun s => s.sld.refused.toNat) fun s => s.onSld fun l => { l with refused := 0 }
  | _ => none

/-! ## PRT and RPL (R461, R487) -/

/-- PRT_STAT (R461). -/
def State.prtStat (s : State) : Nat :=
  let p := s.prt
  pairCode p.pair + b2n p.session.isSome * 2 ^ 2 + b2n (p.hbPulse.isSome && decide (p.missPulse < s.param P.hbMisses)) * 2 ^ 3 + b2n p.hold * 2 ^ 4
    + b2n p.round.isSome * 2 ^ 5 + b2n p.activating * 2 ^ 6 + b2n (p.join == .filled || p.join == .filling) * 2 ^ 7
    + b2n (p.syncedTx || p.syncedRx) * 2 ^ 8 + b2n s.rst.prefHead * 2 ^ 9 + b2n s.rst.headId * 2 ^ 10 + p.groups.toNat * 2 ^ 11

/-- The PRT registers. -/
def prtReg (off : Nat) : Option Reg := match off with
  | 0x00 => roReg State.prtStat
  | 0x04 => roReg fun s => s.prt.peerState.toNat + s.prt.peerHb.toNat % 2 ^ 24 * 2 ^ 8
  | 0x08 => rcReg (fun s => s.prt.hbMiss.toNat) fun s => s.onPrt fun p => { p with hbMiss := 0 }
  | 0x0C => roReg fun s => s.prt.roundStat.toNat
  | 0x10 => rcReg (fun s => s.prt.rounds.toNat) fun s => s.onPrt fun p => { p with rounds := 0 }
  | 0x14 => roReg fun s => s.prt.tkovLast.toNat
  | 0x18 => rcReg (fun s => s.prt.tkovMax.toNat) fun s => s.onPrt fun p => { p with tkovMax := 0 }
  | 0x1C => woReg fun r v s => afterP (prtCtrl r v s)
  | 0x20 => roReg fun s => s.prt.shCmd.length
  | 0x24 => rcReg (fun s => s.prt.framesLost.toNat) fun s => s.onPrt fun p => { p with framesLost := 0 }
  | 0x28 => rcReg (fun s => s.prt.authFail.toNat) fun s => s.onPrt fun p => { p with authFail := 0 }
  | 0x2C => rcReg (fun s => s.prt.pulseErr.toNat) fun s => s.onPrt fun p => { p with pulseErr := 0 }
  | 0x30 => rcReg (fun s => s.prt.qpLost.toNat) fun s => s.onPrt fun p => { p with qpLost := 0 }
  | _ => none

/-- Whether an inbound target is in use (R472, R487): a replica volume of it has a point begun on a connection (DEDUCED, log entry 45). -/
def State.tgtInUse (s : State) (t : Nat) : Bool :=
  ((s.cfg.img.map (·.vols)).getD []).any fun v => v.replTarget == t && s.isReplica v
    && ((tabGet (v.vol % 2 ^ 12) s.rpl.replicas).any fun r => r.begun.isSome)

/-- The RPL registers. -/
def rplReg (off : Nat) : Option Reg := match off with
  | 0x00 => roReg fun s => maskOf 16 (fun t => (s.target t).ready) + maskOf 16 s.tgtInUse * 2 ^ 16
  | 0x04 => roReg fun s => s.rpl.snaps.countP fun e => !e.2.releasing
  | 0x08 => roReg fun s => s.rpl.pages.length
  | 0x0C => rcReg (fun s => s.rpl.preserveFail.toNat) fun s => s.onRpl fun r => { r with preserveFail := 0 }
  | 0x10 => rwReg (fun s => s.rpl.tgtSel.toNat) fun v s => s.onRpl fun r => { r with tgtSel := BitVec.ofNat 4 v }
  | 0x14 => roReg fun s => s.tgtLag s.rpl.tgtSel.toNat
  | 0x18 => loReg 0xE0018 fun s => s.rpl.tx.toNat
  | 0x1C => hiReg 0xE0018 fun s => s.rpl.tx.toNat
  | 0x20 => rcReg (fun s => s.rpl.points.toNat) fun s => s.onRpl fun r => { r with points := 0 }
  | 0x24 => rcReg (fun s => s.rpl.chunkFail.toNat) fun s => s.onRpl fun r => { r with chunkFail := 0 }
  | _ => none

/-! ## ADP (R541) -/

/-- The loop and the object that ADP_LOOP_SEL names. -/
def State.selLoop (s : State) : Nat × Nat := (s.adp.selLoop.toNat, s.adp.selInst.toNat)

/-- What the selected loop keeps of the selected object. -/
def State.selInst (s : State) : LoopInst := s.loop s.selLoop.1 s.selLoop.2

/-- ADP_LOOP_STAT (R541). -/
def State.loopStat (s : State) : Nat :=
  b2n (s.frozenLoop s.selLoop.1) + b2n s.selInst.atLo * 2 + b2n s.selInst.atHi * 4
    + (if s.selLoop.1 = 3 then gcCode (s.top s.selLoop.2).mode else 0) * 8

/-- ADP_LOOP_MEAS (R541). -/
def State.loopMeas (s : State) : Nat :=
  if s.selLoop.1 = 0 then (s.adp.probeTimes.filter fun t => decide (s.since t < msTicks)).length else s.selInst.meas

/-- ADP_LOOP_ACT (R541). -/
def State.loopActuator (s : State) : Nat := match s.selLoop.1 with
  | 2 => s.adp.freq.getD s.selLoop.2 0
  | 5 => if s.rbRuns.any fun r => r.1 == s.selLoop.2 then s.rbTarget s.selLoop.2 else 0
  | _ => s.selInst.act

/-- ADP_LOOP_LAST (R541): 0 before the first action. -/
def State.loopLast (s : State) : Nat := (s.selInst.last.map fun l => l.1.toNat).getD 0

/-- The ADP registers. -/
def adpReg (off : Nat) : Option Reg := match off with
  | 0x00 => rwReg (fun s => s.adp.freeze.toNat) freezeWrite
  | 0x04 => roReg fun s => s.adp.cause.toNat
  | 0x08 => rwReg (fun s => s.adp.selLoop.toNat + s.adp.selInst.toNat * 2 ^ 16) fun v s =>
      s.onAdp fun a => { a with selLoop := BitVec.ofNat 3 v, selInst := BitVec.ofNat 13 (v / 2 ^ 16) }
  | 0x0C => roReg State.loopStat
  | 0x10 => roReg fun s => satN 32 s.loopMeas
  | 0x14 => roReg fun s => satN 32 s.loopActuator
  | 0x18 => rcReg (fun s => (tabGetD s.selLoop.1 0 s.adp.actions).toNat) fun s => s.onAdp fun a => { a with actions := tabDel a.selLoop.toNat a.actions }
  | 0x1C => rcReg (fun s => (tabGetD s.selLoop.1 0 s.adp.hits).toNat) fun s => s.onAdp fun a => { a with hits := tabDel a.selLoop.toNat a.hits }
  | 0x20 => loReg 0xF0020 State.loopLast
  | 0x24 => hiReg 0xF0020 State.loopLast
  | 0x28 => roReg fun s => s.adp.gcDemand.toNat
  | 0x2C => rcReg (fun s => (tabGetD s.selLoop.1 0 s.adp.reversals).toNat) fun s => s.onAdp fun a => { a with reversals := tabDel a.selLoop.toNat a.reversals }
  | _ => none

/-! ## MGT, EVR, MSR and UPD (R583) -/

/-- CHAIN_ORIGIN in force (R583): 0 with no image in force and in recovery mode. -/
def State.originShown (s : State) : Bool := s.flag P.chainOrigin && s.cfg.img.isSome && !s.mgt.recovery

/-- MGT_STAT (R583). -/
def State.mgtStat (s : State) : Nat :=
  b2n s.mgt.recovery + b2n s.mgt.debug * 2 + b2n s.originShown * 4 + b2n s.mgt.linkUp * 8 + b2n s.mgt.linkDn * 16 + b2n s.mgt.linkEth * 32

/-- The sensor that MGT_SENS_SEL names. -/
def State.selSens (s : State) : Sensor := s.sensor s.mgt.sensSel.toNat

/-- The MGT registers. -/
def mgtReg (off : Nat) : Option Reg :=
  if 0x34 ≤ off ∧ off ≤ 0x40 then roReg fun s => (s.mgt.tach.getD ((off - 0x34) / 4) 0).toNat
  else match off with
    | 0x00 => roReg fun s => s.part.chipId
    | 0x04 => roReg State.mgtStat
    | 0x08 => woReg fun r v s => debugWrite r v s
    | 0x10 => rwReg (fun s => s.mgt.sensSel.toNat) fun v s => s.onMgt fun m => { m with sensSel := BitVec.ofNat 6 v }
    | 0x14 => roReg fun s => ofSigned 32 s.selSens.val
    | 0x18 => rcReg (fun s => match s.selSens.minmax with
        | some (lo, hi) => ofSigned 16 lo + ofSigned 16 hi * 2 ^ 16
        | none => 0) fun s => onSensor s.mgt.sensSel.toNat (fun x => { x with minmax := none }) s
    | 0x1C => rwReg (fun s => s.selSens.warnTh.toNat) fun v s => onSensor s.mgt.sensSel.toNat (fun x => { x with warnTh := word v }) s
    | 0x20 => rwReg (fun s => s.selSens.critTh.toNat) fun v s => onSensor s.mgt.sensSel.toNat (fun x => { x with critTh := word v }) s
    | 0x24 => roReg fun s => b2n s.selSens.warn + b2n s.selSens.crit * 2 + b2n s.selSens.fault * 4
    | 0x28 => rwReg (fun s => s.mgt.latch0.toNat) fun v s => s.onMgt fun m => { m with latch0 := m.latch0 &&& ~~~(word v) }
    | 0x2C => rwReg (fun s => s.mgt.latch1.toNat) fun v s => s.onMgt fun m => { m with latch1 := m.latch1 &&& ~~~(word v) }
    | 0x30 => roReg fun s => s.mgt.duty.toNat
    | _ => none

/-- The record that EVR_SEL names (R551): one that was never raised is empty. -/
def State.selRec (s : State) : EvRec := tabGetD s.evr.selCode.toNat {} s.evr.recs

/-- The value of an extreme of the selected record. -/
def extreme (x : Option (Word × Word64)) : Nat := (x.map fun e => e.1.toNat).getD 0

/-- The timestamp of an extreme or of the last raise. -/
def extremeAt (x : Option (Word × Word64)) : Nat := (x.map fun e => e.2.toNat).getD 0

/-- The ring entry that EVR_RING_SEL names, none if it is overwritten or not there yet (R583). -/
def State.selEntry (s : State) : Option RingEntry := s.evr.ring.find? fun e => e.eseq % 2 ^ 32 == s.evr.ringSel.toNat

/-- The EVR registers. -/
def evrReg (off : Nat) : Option Reg :=
  if 0x60 ≤ off ∧ off ≤ 0x7C then roReg fun s => (s.selEntry.map fun e => wordOf e.bytes ((off - 0x60) / 4)).getD 0
  else match off with
    | 0x00 => rwReg (fun s => b2n s.evr.freeze + b2n s.evr.trigEn * 2) evrCtrl
    | 0x04 => rwReg (fun s => s.evr.trigCode.toNat) fun v s => s.onEvr fun e => { e with trigCode := BitVec.ofNat 16 v }
    | 0x08 => rwReg (fun s => s.evr.selCode.toNat + s.evr.selBin.toNat * 2 ^ 16) fun v s =>
        s.onEvr fun e => { e with selCode := BitVec.ofNat 16 v, selBin := BitVec.ofNat 5 (v / 2 ^ 16) }
    | 0x0C => roReg fun s => s.selRec.count.toNat
    | 0x10 => roReg fun s => s.selRec.supp.toNat
    | 0x14 => roReg fun s => extreme s.selRec.last
    | 0x18 => roReg fun s => extreme s.selRec.lo
    | 0x1C => roReg fun s => extreme s.selRec.hi
    | 0x20 => loReg 0x110020 fun s => extremeAt s.selRec.lo
    | 0x24 => hiReg 0x110020 fun s => extremeAt s.selRec.lo
    | 0x28 => loReg 0x110028 fun s => extremeAt s.selRec.hi
    | 0x2C => hiReg 0x110028 fun s => extremeAt s.selRec.hi
    | 0x30 => loReg 0x110030 fun s => extremeAt s.selRec.last
    | 0x34 => hiReg 0x110030 fun s => extremeAt s.selRec.last
    | 0x38 => roReg fun s => (tabGetD s.evr.selBin.toNat 0 s.selRec.bins).toNat
    | 0x3C => rwReg (fun s => let r := s.evrRate s.evr.selCode.toNat; r.1 + r.2 * 2 ^ 16) fun v s =>
        s.onEvr fun e => { e with rates := tabPut e.selCode.toNat (BitVec.ofNat 16 v, BitVec.ofNat 16 (v / 2 ^ 16)) e.rates }
    | 0x40 => woReg fun _ v s => evrClear v s
    | 0x44 => rcReg (fun s => s.evr.missed.toNat) fun s => s.onEvr fun e => { e with missed := 0 }
    | 0x48 => rcReg (fun s => s.evr.lost.toNat) fun s => s.onEvr fun e => { e with lost := 0 }
    | 0x4C => roReg fun s => (s.evr.nextSeq - 1) % 2 ^ 32
    | 0x50 => roReg fun s => (s.evr.spilled - 1) % 2 ^ 32
    | 0x54 => rwReg (fun s => s.evr.ringSel.toNat) fun v s => s.onEvr fun e => { e with ringSel := word v }
    | 0x58 => roReg fun s => (s.selEntry.map fun e => e.time.toNat / 2 ^ 32).getD 0
    | 0x80 => roReg fun s => s.bus.accessAddr.toNat
    | _ => none

/-- The words of the measurement register that MSR_SEL names. -/
def State.selMsr (s : State) : List Word := (List.range 12).map fun k => word (wordOf (s.msr.regs.getD s.msr.sel.toNat []) k)

/-- The MSR registers. -/
def msrReg (off : Nat) : Option Reg :=
  if 0x08 ≤ off ∧ off ≤ 0x30 then some { read := fun r s => ((s.busPort r).msrLatch.getD ((off - 4) / 4) 0).toNat }
  else if 0x40 ≤ off ∧ off ≤ 0x6C then woReg fun _ v s => s.onMsr fun m => { m with extData := setAt ((off - 0x40) / 4) (word v) m.extData }
  else if 0x90 ≤ off ∧ off ≤ 0xBC then roReg fun s => (s.msr.digOut.getD ((off - 0x90) / 4) 0).toNat
  else match off with
    | 0x00 => rwReg (fun s => s.msr.sel.toNat) fun v s => s.onMsr fun m => { m with sel := BitVec.ofNat 4 v }
    | 0x04 => some { read := fun _ s => (s.selMsr.headD 0).toNat, onRead := fun r s => onBusPort r (fun p => { p with msrLatch := s.selMsr }) s }
    | 0x70 => woReg fun r v s => msrGo r v s
    | 0x74 => roReg fun s => b2n s.msr.busy + b2n s.msr.jobDone * 2 + (s.msr.counts.getD s.msr.sel.toNat 0).toNat * 2 ^ 16
    | 0x80 => rwReg (fun s => s.msr.digAddr.toNat) fun v s => s.onMsr fun m => { m with digAddr := BitVec.ofNat 22 v }
    | 0x84 => rwReg (fun s => s.msr.digLen.toNat) fun v s => s.onMsr fun m => { m with digLen := BitVec.ofNat 23 v }
    | 0x88 => woReg fun _ v s => digGo v s
    | _ => none

/-- An update state's code (R583). -/
def updCode : UpdState → Nat
  | .idle => 0
  | .receiving => 1
  | .verifying => 2
  | .staged => 3
  | .actHold => 4
  | .confirming => 5

/-- The UPD registers. -/
def updReg (off : Nat) : Option Reg := match off with
  | 0x00 => roReg fun s => updCode s.upd.state + s.upd.fail.toNat * 2 ^ 4 + b2n s.upd.updating * 2 ^ 8 + s.upd.deny.toNat * 2 ^ 9
  | 0x04 => roReg fun s => s.upd.updId.toNat
  | 0x08 => roReg fun s => s.upd.stored.length % 2 ^ 14 + s.upd.blks % 2 ^ 14 * 2 ^ 16
  | 0x0C => woReg fun r v s => afterP (updCtrl r v s)
  | 0x10 => roReg fun s => s.part.revoked.toNat + s.imgField (·.keyId) % 4 * 2 ^ 4
  | 0x14 => rwReg (fun s => b2n s.upd.pend + b2n s.upd.pendSlot * 2 + s.upd.pendSeq.toNat * 2 ^ 8) fun v s =>
      s.onUpd fun u => { u with pend := bitAt v 0, pendSlot := bitAt v 1, pendSeq := BitVec.ofNat 24 (v / 2 ^ 8) }
  | 0x18 => rcReg (fun s => s.upd.resends.toNat) fun s => s.onUpd fun u => { u with resends := 0 }
  | 0x1C => rcReg (fun s => s.upd.crcErr.toNat) fun s => s.onUpd fun u => { u with crcErr := 0 }
  | 0x20 => roReg fun s => b2n s.upd.tokenSeen + b2n s.upd.mismatch * 2 + s.upd.tokCount.toNat * 2 ^ 2 + s.upd.tokSeq.toNat * 2 ^ 8
  | 0x24 => rcReg (fun s => s.upd.mismatches.toNat) fun s => s.onUpd fun u => { u with mismatches := 0 }
  | _ => none

/-! ## RST, CLK and PWR (R118) -/

/-- The RST registers. -/
def rstReg (off : Nat) : Option Reg := match off with
  | 0x00 => rwReg (fun s => s.rst.cause.toNat) fun v s => s.onRst fun r => { r with cause := r.cause &&& ~~~(BitVec.ofNat 10 v) }
  | 0x04 => roReg fun s => s.rst.level.depth + s.rst.lastTarget.toNat * 2 ^ 2
  | 0x08 => woReg fun r v s => after (softWrite r v s)
  | 0x0C => roReg fun s => s.part.fuseMap
  | 0x10 => rwReg (fun s => s.rst.countL1.toNat + s.rst.countL2.toNat * 2 ^ 8 + s.rst.countL3.toNat * 2 ^ 16) fun v s =>
      s.onRst fun r => { r with countL1 := BitVec.ofNat 8 v, countL2 := BitVec.ofNat 8 (v / 2 ^ 8), countL3 := BitVec.ofNat 8 (v / 2 ^ 16) }
  | 0x14 => woReg fun _ v s => wdogKick v s
  | 0x18 => roReg fun s => b2n s.rst.wdogFirst + s.rst.wdogLeft.toNat * 2 ^ 8
  | _ => none

/-- The crossing that CLK_CDC_SEL names. -/
def State.selCdc (s : State) : Cdc := tabGetD s.clk.cdcSel.toNat {} s.clk.cdc

/-- The CLK registers. -/
def clkReg (off : Nat) : Option Reg :=
  if 0x20 ≤ off ∧ off ≤ 0x2C then
    let n := (off - 0x20) / 4
    roReg fun s => s.adp.freq.getD (2 * n) 0 % 2 ^ 16 + s.adp.freq.getD (2 * n + 1) 0 % 2 ^ 16 * 2 ^ 16
  else match off with
    | 0x00 => roReg fun s => s.clk.good.toNat
    | 0x04 => rwReg (fun s => s.clk.fail.toNat) fun v s => s.onClk fun c => { c with fail := c.fail &&& ~~~(BitVec.ofNat 13 v) }
    | 0x10 => rwReg (fun s => s.clk.cdcSel.toNat) fun v s => s.onClk fun c => { c with cdcSel := BitVec.ofNat 10 v }
    | 0x14 => roReg fun s => let d := Sys2Proof.crossingDomains s.clk.cdcSel.toNat; b2n s.selCdc.onQueue + d.1 % 16 * 2 + d.2 % 16 * 2 ^ 5
    | 0x18 => rcReg (fun s => s.selCdc.merges.toNat) fun s => s.onClk fun c => { c with cdc := tabUpd c.cdcSel.toNat (fun x => { x with merges := 0 }) c.cdc }
    | 0x1C => roReg fun s => s.clk.cdc.countP fun e => e.2.onQueue
    | _ => none

/-- PWR_STAT (R118). -/
def State.pwrStat (s : State) : Nat :=
  powerCode s.pwr.state + b2n s.pwr.transit.isSome * 2 ^ 2 + b2n s.pwr.hold * 2 ^ 3 + b2n s.pwr.proposed.isSome * 2 ^ 4
    + s.pwr.lastWake.toNat * 2 ^ 8 + s.pwr.deny.toNat * 2 ^ 12

/-- A write of the high word of PWR_WAKE_TIMER (R18, R589): with the low word the same requester wrote last, or the current one. -/
def wakeTimerHigh (r : Requester) (v : Nat) (s : State) : State :=
  let low := (tabGet 0x160014 (s.busPort r).lows).getD (word s.pwr.wakeTimer.toNat)
  s.onPwr fun p => { p with wakeTimer := BitVec.ofNat 64 (low.toNat + v * 2 ^ 32) }

/-- The PWR registers. -/
def pwrReg (off : Nat) : Option Reg := match off with
  | 0x00 => rwReg (fun s => s.pwr.req.toNat) fun v s => afterP (pwrWrite v s)
  | 0x04 => roReg State.pwrStat
  | 0x08 => roReg fun s => s.pwr.railLow.toNat
  | 0x0C => rwReg (fun s => s.pwr.railLatch.toNat) fun v s => s.onPwr fun p => { p with railLatch := p.railLatch &&& ~~~(BitVec.ofNat 16 v) }
  | 0x10 => rcReg (fun s => s.pwr.holdCount.toNat) fun s => s.onPwr fun p => { p with holdCount := 0 }
  | 0x14 => (loReg 0x160014 fun s => s.pwr.wakeTimer.toNat).map fun g =>
      { g with write := fun r v s => onBusPort r (fun p => { p with lows := tabPut 0x160014 (word v) p.lows }) s }
  | 0x18 => (hiReg 0x160014 fun s => s.pwr.wakeTimer.toNat).map fun g => { g with write := wakeTimerHigh }
  | 0x1C => roReg fun s => s.param P.armIdle
  | _ => none

/-! ## The space -/

/-- The register at an address of the space, none where there is none (R21, R585, R593). -/
def regAt (addr : Nat) : Option Reg :=
  let off := addr % 2 ^ 16
  match addr / 2 ^ 16 with
  | 0x00 => cfgReg off
  | 0x01 => fabReg off
  | 0x02 => qpcReg off
  | 0x03 => cmdReg off
  | 0x04 => ingReg off
  | 0x05 => fprReg off
  | 0x06 => cmpReg off
  | 0x07 => cipReg off
  | 0x08 => bufReg off
  | 0x09 => ftlReg off
  | 0x0A => parReg off
  | 0x0B => jnlReg off
  | 0x0C => sldReg off
  | 0x0D => prtReg off
  | 0x0E => rplReg off
  | 0x0F => adpReg off
  | 0x10 => mgtReg off
  | 0x11 => evrReg off
  | 0x12 => msrReg off
  | 0x13 => updReg off
  | 0x14 => rstReg off
  | 0x15 => clkReg off
  | 0x16 => pwrReg off
  | _ => none

/-- A read that returns a value to its requester. -/
def returned (r : Requester) (v : Nat) (s : State) : State := onBusPort r (fun p => { p with lastRead := word v }) s

/-- A read of the space (R17 to R23): the value and what the read does; 0 where no register is, and with an access error. -/
def regRead (r : Requester) (addr size : Nat) (s : State) : State :=
  match s.accessStop r addr size with
  | none => match regAt addr with
    | some g => returned r (g.read r s) (g.onRead r s)
    | none => returned r 0 s
  | some true => returned r 0 (accessError r addr false s)
  | some false => s

/-- A write of the space (R17 to R23). -/
def regWrite (r : Requester) (addr size val : Nat) (s : State) : State :=
  access r addr size true (fun s => match regAt addr with
    | some g => g.write r val s
    | none => s) s

/-- REGISTER_WRITE. -/
def execRegisterWrite (r : Requester) (addr : BitVec 24) (size : Nat) (val : Word) (s : State) : Host.Outcome State Fault Refusal :=
  .next (regWrite r addr.toNat size val.toNat s)

/-- READ_RC_FIELD: a read of the register at an address; an RC field clears. -/
def execReadRcField (r : Requester) (addr : BitVec 24) (size : Nat) (s : State) : Host.Outcome State Fault Refusal := .next (regRead r addr.toNat size s)

/-- READ_64_LOW. -/
def execRead64Low (r : Requester) (addr : BitVec 24) (size : Nat) (s : State) : Host.Outcome State Fault Refusal := .next (regRead r addr.toNat size s)

/-- READ_64_HIGH. -/
def execRead64High (r : Requester) (addr : BitVec 24) (size : Nat) (s : State) : Host.Outcome State Fault Refusal := .next (regRead r addr.toNat size s)

/-- WRITE_64_LOW. -/
def execWrite64Low (r : Requester) (addr : BitVec 24) (size : Nat) (val : Word) (s : State) : Host.Outcome State Fault Refusal :=
  .next (regWrite r addr.toNat size val.toNat s)

/-- WRITE_64_HIGH. -/
def execWrite64High (r : Requester) (addr : BitVec 24) (size : Nat) (val : Word) (s : State) : Host.Outcome State Fault Refusal :=
  .next (regWrite r addr.toNat size val.toNat s)

/-- MSR_VAL0_READ (R560): the value of the selected register is latched whole for the requester. -/
def execMsrVal0Read (r : Requester) (s : State) : Host.Outcome State Fault Refusal := .next (regRead r 0x120004 4 s)

end Sys2Proof.Machine
end

