-- ==== Sys2Proof/Machine/Mgmt.lean ====
section
/-! DEFINITION. Management datagrams, on management Ethernet and on the UART (R545, R554, R564, R570, R591). -/

namespace Sys2Proof.Machine

/-- Whether a source address may send datagrams (R545, R570, R582). -/
def State.mgmtAllows (s : State) (src : Nat) : Bool :=
  let v := s.param P.mgmtAllow
  let (net, len) := if v = 0 then s.mgmtAddr else (v % 2 ^ 32, bitsAt v 32 8)
  s.mgt.recovery || bitAt v 40 || src / 2 ^ (32 - len) == net / 2 ^ (32 - len)

/-- What the core makes of a datagram: MSTAT and DATA of its REPLY. -/
abbrev MgmtAnswer := Nat × Bytes

/-- READ of words in increasing address order (R545, R591); a word that meets an access error ends it. -/
def mgmtReadWords : Nat → Nat → Bytes → State → MgmtAnswer × State
  | 0, _, out, s => ((0, out), s)
  | n + 1, addr, out, s =>
    let s1 := regRead .core addr 4 s
    if s1.bus.errors = s.bus.errors + 1 then ((3, out), s1)
    else mgmtReadWords n (addr + 4) (out ++ leBytes 4 s1.bus.core.lastRead.toNat) s1

/-- WRITE of words in increasing address order (R545, R591); a word that meets an access error, or that resets the core, ends it. -/
def mgmtWriteWords : Nat → Nat → Bytes → State → MgmtAnswer × State
  | 0, _, _, s => ((0, []), s)
  | n + 1, addr, data, s =>
    let s1 := regWrite .core addr 4 (fieldLe data 0 4) s
    if s1.bus.errors = s.bus.errors + 1 then ((3, []), s1)
    else if ¬ s1.rst.mgUp then ((0, []), s1)
    else mgmtWriteWords n (addr + 4) (data.drop 4) s1

/-- The 32 bytes of the ring entry of an ESEQ, zeros for one the ring does not hold (R554, R583; DEDUCED, log entry 47). -/
def State.ringBytes (s : State) (eseq : Nat) : Bytes :=
  match s.evr.ring.find? fun e => e.eseq % 2 ^ 32 == eseq % 2 ^ 32 with
  | some e => e.bytes
  | none => List.replicate 32 0

/-- UPD_BLOCK (R564, R570): taken at the chain origin, or in recovery mode, as a block that arrives on CHN_UP. -/
def mgmtBlock (data : Bytes) (s : State) : MgmtAnswer × State :=
  if ¬ s.mgt.recovery ∧ ¬ s.flag P.chainOrigin then ((1, []), s)
  else if data.length ≠ 4128 then ((2, []), s)
  else match takeBlock data s with
    | (.acked, s1) => ((0, []), s1)
    | (.naked, s1) => ((2, []), s1)
    | (.withheld, s1) => ((4, []), s1)

/-- The request of a datagram, by its MOP (R545). -/
def mgmtRequest (raw : Bytes) (s : State) : MgmtAnswer × State :=
  let addr := fieldLe raw 8 4
  let count := fieldLe raw 12 4
  let mlen := fieldLe raw 2 2
  let data := slice raw 16 mlen
  if raw.length ≠ 20 + mlen then ((2, []), s)
  else match fieldLe raw 0 1 with
    | 1 => if 1 ≤ count ∧ count ≤ 256 then mgmtReadWords count addr [] s else ((2, []), s)
    | 2 => if 1 ≤ count ∧ count ≤ 256 ∧ mlen = 4 * count then mgmtWriteWords count addr data s else ((2, []), s)
    | 3 => mgmtBlock data s
    | 4 => if 1 ≤ count ∧ count ≤ 128 then ((0, (List.range count).flatMap fun k => s.ringBytes (addr + k)), s) else ((2, []), s)
    | _ => ((2, []), s)

/-- The REPLY of a datagram (R545): MSEQ echoed; its ADDR and COUNT are not stated, a free value (log entry 46). -/
def mgmtReply (raw : Bytes) (a : MgmtAnswer) (s : State) : State :=
  let (x, s1) := s.freeNat 64
  s1.send (.mgmt (withCrc ([5, BitVec.ofNat 8 a.1] ++ leBytes 2 a.2.length ++ slice raw 4 4 ++ leBytes 8 x ++ a.2)))

/-- A datagram arrives, from a source address or on the UART (R545): discarded in silence when its MCRC fails, when its source lies outside
MGMT_ALLOW, or when it is itself a REPLY; else the core answers it. -/
def mgmtIn (src : Option (BitVec 32)) (raw : Bytes) (s : State) : State :=
  if ¬ s.rst.mgUp ∨ raw.length < 20 ∨ ¬ crcGood raw ∨ fieldLe raw 0 1 = 5 ∨ (src.any fun a => !s.mgmtAllows a.toNat) then s
  else
    let (a, s1) := mgmtRequest raw s
    if s1.rst.mgUp then mgmtReply raw a s1 else s1

/-- MGMT_READ: a datagram, whose MOP decides. -/
def execMgmtRead (src : Option (BitVec 32)) (raw : Bytes) (s : State) : Host.Outcome State Fault Refusal := .next (mgmtIn src raw s)

/-- MGMT_WRITE. -/
def execMgmtWrite (src : Option (BitVec 32)) (raw : Bytes) (s : State) : Host.Outcome State Fault Refusal := .next (mgmtIn src raw s)

/-- MGMT_UPD_BLOCK. -/
def execMgmtUpdBlock (src : Option (BitVec 32)) (raw : Bytes) (s : State) : Host.Outcome State Fault Refusal := .next (mgmtIn src raw s)

/-- MGMT_EVR_READ. -/
def execMgmtEvrRead (src : Option (BitVec 32)) (raw : Bytes) (s : State) : Host.Outcome State Fault Refusal := .next (mgmtIn src raw s)

end Sys2Proof.Machine
end

