-- ==== Sys2Proof/Machine/Dispatch.lean ====
section
/-! DEFINITION. One arm for each command: a direct call of its meaning. -/

namespace Sys2Proof.Machine

/-- The effect of a command on everything but the queue. -/
def exec (i : Instr) (s : State) : Host.Outcome State Fault Refusal :=
  match i with
  | .registerWrite r addr size val => Sys2Proof.Machine.execRegisterWrite r addr size val s
  | .readRcField r addr size => Sys2Proof.Machine.execReadRcField r addr size s
  | .read64Low r addr size => Sys2Proof.Machine.execRead64Low r addr size s
  | .read64High r addr size => Sys2Proof.Machine.execRead64High r addr size s
  | .write64Low r addr size val => Sys2Proof.Machine.execWrite64Low r addr size val s
  | .write64High r addr size val => Sys2Proof.Machine.execWrite64High r addr size val s
  | .aoRailsInRange => Sys2Proof.Machine.execAoRailsInRange s
  | .aoReleaseTimer => Sys2Proof.Machine.execAoReleaseTimer s
  | .railWaitEnd headId prefHead => Sys2Proof.Machine.execRailWaitEnd headId prefHead s
  | .optionByteReadDone raw => Sys2Proof.Machine.execOptionByteReadDone raw s
  | .optionRereadTimer => Sys2Proof.Machine.execOptionRereadTimer s
  | .recordReadDone raw => Sys2Proof.Machine.execRecordReadDone raw s
  | .loadChecksDone => Sys2Proof.Machine.execLoadChecksDone s
  | .clockGood domain => Sys2Proof.Machine.execClockGood domain s
  | .clockFailure source => Sys2Proof.Machine.execClockFailure source s
  | .cdcFallback crossing => Sys2Proof.Machine.execCdcFallback crossing s
  | .brownoutReset rail => Sys2Proof.Machine.execBrownoutReset rail s
  | .resetNLow ns => Sys2Proof.Machine.execResetNLow ns s
  | .resetNHigh => Sys2Proof.Machine.execResetNHigh s
  | .watchdogExpiry => Sys2Proof.Machine.execWatchdogExpiry s
  | .rstWdogKick r val => Sys2Proof.Machine.execRstWdogKick r val s
  | .softResetL0 r val => Sys2Proof.Machine.execSoftResetL0 r val s
  | .softResetL1 r val => Sys2Proof.Machine.execSoftResetL1 r val s
  | .softResetL2 r val => Sys2Proof.Machine.execSoftResetL2 r val s
  | .softResetL3 r val => Sys2Proof.Machine.execSoftResetL3 r val s
  | .thermalTrip temp => Sys2Proof.Machine.execThermalTrip temp s
  | .thermalTripEnd temp => Sys2Proof.Machine.execThermalTripEnd temp s
  | .debugReset => Sys2Proof.Machine.execDebugReset s
  | .pwrReqRun r val => Sys2Proof.Machine.execPwrReqRun r val s
  | .pwrReqArmed r val => Sys2Proof.Machine.execPwrReqArmed r val s
  | .pwrReqQuiet r val => Sys2Proof.Machine.execPwrReqQuiet r val s
  | .pwrReqDormant r val => Sys2Proof.Machine.execPwrReqDormant r val s
  | .armIdleExpiry => Sys2Proof.Machine.execArmIdleExpiry s
  | .pwrWakeTimer => Sys2Proof.Machine.execPwrWakeTimer s
  | .powerEntryDone => Sys2Proof.Machine.execPowerEntryDone s
  | .wakeComplete => Sys2Proof.Machine.execWakeComplete s
  | .holdStart rail => Sys2Proof.Machine.execHoldStart rail s
  | .holdClearTimer => Sys2Proof.Machine.execHoldClearTimer s
  | .holdFlushDone => Sys2Proof.Machine.execHoldFlushDone s
  | .subportDown sub => Sys2Proof.Machine.execSubportDown sub s
  | .subportUp sub => Sys2Proof.Machine.execSubportUp sub s
  | .fabCtrlWrite r val => Sys2Proof.Machine.execFabCtrlWrite r val s
  | .arpRequest port ip mac => Sys2Proof.Machine.execArpRequest port ip mac s
  | .neighbourSolicitation sub target src => Sys2Proof.Machine.execNeighbourSolicitation sub target src s
  | .icmpEcho port dst src data => Sys2Proof.Machine.execIcmpEcho port dst src data s
  | .roceSend h pos payload => Sys2Proof.Machine.execRoceSend h pos payload s
  | .roceRdmaWrite h pos rkey va payload => Sys2Proof.Machine.execRoceRdmaWrite h pos rkey va payload s
  | .roceRdmaWriteImm h pos rkey va imm payload => Sys2Proof.Machine.execRoceRdmaWriteImm h pos rkey va imm payload s
  | .roceRdmaReadRequest h rkey va len => Sys2Proof.Machine.execRoceRdmaReadRequest h rkey va len s
  | .roceAck h => Sys2Proof.Machine.execRoceAck h s
  | .roceNak h code delay => Sys2Proof.Machine.execRoceNak h code delay s
  | .roceCnp h => Sys2Proof.Machine.execRoceCnp h s
  | .roceUnsupportedOpcode h => Sys2Proof.Machine.execRoceUnsupportedOpcode h s
  | .cmReq req => Sys2Proof.Machine.execCmReq req s
  | .cmRtu qpn => Sys2Proof.Machine.execCmRtu qpn s
  | .cmDreq qpn => Sys2Proof.Machine.execCmDreq qpn s
  | .repRetryTimer qpn => Sys2Proof.Machine.execRepRetryTimer qpn s
  | .lotData h raw => Sys2Proof.Machine.execLotData h raw s
  | .lotSend h raw => Sys2Proof.Machine.execLotSend h raw s
  | .lotAck h raw => Sys2Proof.Machine.execLotAck h raw s
  | .lotNak h raw => Sys2Proof.Machine.execLotNak h raw s
  | .lotOpen h raw => Sys2Proof.Machine.execLotOpen h raw s
  | .lotClose h raw => Sys2Proof.Machine.execLotClose h raw s
  | .lotCnp h raw => Sys2Proof.Machine.execLotCnp h raw s
  | .qpContextFetchDone idx => Sys2Proof.Machine.execQpContextFetchDone idx s
  | .retryTimeout qpn => Sys2Proof.Machine.execRetryTimeout qpn s
  | .rnrResendTimer qpn => Sys2Proof.Machine.execRnrResendTimer qpn s
  | .qpErrLingerExpiry qpn => Sys2Proof.Machine.execQpErrLingerExpiry qpn s
  | .checkpointBatch => Sys2Proof.Machine.execCheckpointBatch s
  | .cnpRateRaise qpn sub => Sys2Proof.Machine.execCnpRateRaise qpn sub s
  | .eventMergeInterval qpn code => Sys2Proof.Machine.execEventMergeInterval qpn code s
  | .addrAnnounceRepeat sub => Sys2Proof.Machine.execAddrAnnounceRepeat sub s
  | .read qpn => Sys2Proof.Machine.execRead qpn s
  | .write qpn => Sys2Proof.Machine.execWrite qpn s
  | .trim qpn => Sys2Proof.Machine.execTrim qpn s
  | .flush qpn => Sys2Proof.Machine.execFlush qpn s
  | .release qpn => Sys2Proof.Machine.execRelease qpn s
  | .takeOpen qpn => Sys2Proof.Machine.execTakeOpen qpn s
  | .frameAppend qpn => Sys2Proof.Machine.execFrameAppend qpn s
  | .frameRead qpn => Sys2Proof.Machine.execFrameRead qpn s
  | .takeSeal qpn => Sys2Proof.Machine.execTakeSeal qpn s
  | .takeDelete qpn => Sys2Proof.Machine.execTakeDelete qpn s
  | .takeInfo qpn => Sys2Proof.Machine.execTakeInfo qpn s
  | .identify qpn => Sys2Proof.Machine.execIdentify qpn s
  | .volumeInfo qpn => Sys2Proof.Machine.execVolumeInfo qpn s
  | .abort qpn => Sys2Proof.Machine.execAbort qpn s
  | .orphanStatus qpn => Sys2Proof.Machine.execOrphanStatus qpn s
  | .transferReadySend qpn cid => Sys2Proof.Machine.execTransferReadySend qpn cid s
  | .windowTimeout index => Sys2Proof.Machine.execWindowTimeout index s
  | .orphanKeepExpiry => Sys2Proof.Machine.execOrphanKeepExpiry s
  | .ingestBlockDone qpn cid num fault lane => Sys2Proof.Machine.execIngestBlockDone qpn cid num fault lane s
  | .dramLineRead armed addr raw => Sys2Proof.Machine.execDramLineRead armed addr raw s
  | .cmpJobSubmit job => Sys2Proof.Machine.execCmpJobSubmit job s
  | .cmpJobDone jobId input => Sys2Proof.Machine.execCmpJobDone jobId input s
  | .fprRebuild r val => Sys2Proof.Machine.execFprRebuild r val s
  | .filterRebuildDone => Sys2Proof.Machine.execFilterRebuildDone s
  | .keyLoad r val => Sys2Proof.Machine.execKeyLoad r val s
  | .keyErase r val => Sys2Proof.Machine.execKeyErase r val s
  | .keyLoadDone selfTest => Sys2Proof.Machine.execKeyLoadDone selfTest s
  | .keyEraseDone slot => Sys2Proof.Machine.execKeyEraseDone slot s
  | .cipContextSave lane => Sys2Proof.Machine.execCipContextSave lane s
  | .cipContextResume lane ref => Sys2Proof.Machine.execCipContextResume lane ref s
  | .ftlFormat r val => Sys2Proof.Machine.execFtlFormat r val s
  | .formatDone => Sys2Proof.Machine.execFormatDone s
  | .ftlReplayDone mapBlocks jnlBlocks used => Sys2Proof.Machine.execFtlReplayDone mapBlocks jnlBlocks used s
  | .mapSpillTimer => Sys2Proof.Machine.execMapSpillTimer s
  | .gcVictimStart top => Sys2Proof.Machine.execGcVictimStart top s
  | .partialWaitExpiry top => Sys2Proof.Machine.execPartialWaitExpiry top s
  | .padWaitExpiry qpn cid => Sys2Proof.Machine.execPadWaitExpiry qpn cid s
  | .rowIdleCloseExpiry top => Sys2Proof.Machine.execRowIdleCloseExpiry top s
  | .journalSpill => Sys2Proof.Machine.execJournalSpill s
  | .rebuildWaitExpiry die => Sys2Proof.Machine.execRebuildWaitExpiry die s
  | .hemPatrolPace => Sys2Proof.Machine.execHemPatrolPace s
  | .prsntChange port low => Sys2Proof.Machine.execPrsntChange port low s
  | .prsntDebounceExpiry port => Sys2Proof.Machine.execPrsntDebounceExpiry port s
  | .sledLinkL0 port lost => Sys2Proof.Machine.execSledLinkL0 port lost s
  | .oslFlitReceive port raw => Sys2Proof.Machine.execOslFlitReceive port raw s
  | .oslNak port raw => Sys2Proof.Machine.execOslNak port raw s
  | .oslInitCredit port raw => Sys2Proof.Machine.execOslInitCredit port raw s
  | .oslEqSet port raw => Sys2Proof.Machine.execOslEqSet port raw s
  | .oslEqAck port raw => Sys2Proof.Machine.execOslEqAck port raw s
  | .sledRestIdle port => Sys2Proof.Machine.execSledRestIdle port s
  | .oslRestAck port => Sys2Proof.Machine.execOslRestAck port s
  | .restExit port => Sys2Proof.Machine.execRestExit port s
  | .retrainComplete port => Sys2Proof.Machine.execRetrainComplete port s
  | .retrainTimeout port => Sys2Proof.Machine.execRetrainTimeout port s
  | .sldCmdTimeoutExpiry port tag => Sys2Proof.Machine.execSldCmdTimeoutExpiry port tag s
  | .oslCpl port raw => Sys2Proof.Machine.execOslCpl port raw s
  | .oslRdata port raw => Sys2Proof.Machine.execOslRdata port raw s
  | .oslNotice port raw => Sys2Proof.Machine.execOslNotice port raw s
  | .claimWaitExpiry => Sys2Proof.Machine.execClaimWaitExpiry s
  | .plGroupUp group => Sys2Proof.Machine.execPlGroupUp group s
  | .plGroupDown group => Sys2Proof.Machine.execPlGroupDown group s
  | .plSessionStart session => Sys2Proof.Machine.execPlSessionStart session s
  | .plFrameReceive raw => Sys2Proof.Machine.execPlFrameReceive raw s
  | .plQpCkpt cseq fence body => Sys2Proof.Machine.execPlQpCkpt cseq fence body s
  | .plCmdRec cseq fence body => Sys2Proof.Machine.execPlCmdRec cseq fence body s
  | .plWinRec cseq fence body => Sys2Proof.Machine.execPlWinRec cseq fence body s
  | .plOutRec cseq fence body => Sys2Proof.Machine.execPlOutRec cseq fence body s
  | .plConnRec cseq fence body => Sys2Proof.Machine.execPlConnRec cseq fence body s
  | .plHello cseq fence body => Sys2Proof.Machine.execPlHello cseq fence body s
  | .plJnl cseq body => Sys2Proof.Machine.execPlJnl cseq body s
  | .plMap cseq body => Sys2Proof.Machine.execPlMap cseq body s
  | .plRelease body => Sys2Proof.Machine.execPlRelease body s
  | .plSeg body => Sys2Proof.Machine.execPlSeg body s
  | .plFill cseq body => Sys2Proof.Machine.execPlFill cseq body s
  | .plRepair cseq body => Sys2Proof.Machine.execPlRepair cseq body s
  | .plLost args => Sys2Proof.Machine.execPlLost args s
  | .plSegfail args => Sys2Proof.Machine.execPlSegfail args s
  | .plDiscard args => Sys2Proof.Machine.execPlDiscard args s
  | .plRepairReq args => Sys2Proof.Machine.execPlRepairReq args s
  | .plPower args => Sys2Proof.Machine.execPlPower args s
  | .plSynced args => Sys2Proof.Machine.execPlSynced args s
  | .plHandover args => Sys2Proof.Machine.execPlHandover args s
  | .plClaimed args => Sys2Proof.Machine.execPlClaimed args s
  | .plUpdDone args => Sys2Proof.Machine.execPlUpdDone args s
  | .plResendTimer cls => Sys2Proof.Machine.execPlResendTimer cls s
  | .pulseSend => Sys2Proof.Machine.execPulseSend s
  | .pulseFrameReceive raw => Sys2Proof.Machine.execPulseFrameReceive raw s
  | .pulseWake raw => Sys2Proof.Machine.execPulseWake raw s
  | .pulseResetReq raw => Sys2Proof.Machine.execPulseResetReq raw s
  | .pulseYield raw => Sys2Proof.Machine.execPulseYield raw s
  | .pulseHandover raw => Sys2Proof.Machine.execPulseHandover raw s
  | .heartbeatPeriodMiss pulse => Sys2Proof.Machine.execHeartbeatPeriodMiss pulse s
  | .plLostWaitExpiry => Sys2Proof.Machine.execPlLostWaitExpiry s
  | .joinWaitExpiry => Sys2Proof.Machine.execJoinWaitExpiry s
  | .prtCtrlGiveVolumes r val => Sys2Proof.Machine.execPrtCtrlGiveVolumes r val s
  | .prtCtrlHandback r val => Sys2Proof.Machine.execPrtCtrlHandback r val s
  | .prtCtrlSoloStart r val => Sys2Proof.Machine.execPrtCtrlSoloStart r val s
  | .prtCtrlSendResetReq r val => Sys2Proof.Machine.execPrtCtrlSendResetReq r val s
  | .snapCreate qpn => Sys2Proof.Machine.execSnapCreate qpn s
  | .snapDelete qpn => Sys2Proof.Machine.execSnapDelete qpn s
  | .preservedPageRelease slot page => Sys2Proof.Machine.execPreservedPageRelease slot page s
  | .snapRead qpn => Sys2Proof.Machine.execSnapRead qpn s
  | .snapFrameRead qpn => Sys2Proof.Machine.execSnapFrameRead qpn s
  | .snapList qpn => Sys2Proof.Machine.execSnapList qpn s
  | .replPoint qpn => Sys2Proof.Machine.execReplPoint qpn s
  | .replInfo qpn => Sys2Proof.Machine.execReplInfo qpn s
  | .replPromote qpn => Sys2Proof.Machine.execReplPromote qpn s
  | .replBegin qpn => Sys2Proof.Machine.execReplBegin qpn s
  | .replData qpn => Sys2Proof.Machine.execReplData qpn s
  | .replEnd qpn => Sys2Proof.Machine.execReplEnd qpn s
  | .replTakeDelete qpn => Sys2Proof.Machine.execReplTakeDelete qpn s
  | .replPeriodExpiry vol => Sys2Proof.Machine.execReplPeriodExpiry vol s
  | .replSessionWaitExpiry target => Sys2Proof.Machine.execReplSessionWaitExpiry target s
  | .replLag target => Sys2Proof.Machine.execReplLag target s
  | .bufInitDone channels => Sys2Proof.Machine.execBufInitDone channels s
  | .scrubStep raw => Sys2Proof.Machine.execScrubStep raw s
  | .mr4Poll channel rank rate => Sys2Proof.Machine.execMr4Poll channel rank rate s
  | .refreshDue channel rank => Sys2Proof.Machine.execRefreshDue channel rank s
  | .actTableWindow => Sys2Proof.Machine.execActTableWindow s
  | .selfRefreshExitDone readings => Sys2Proof.Machine.execSelfRefreshExitDone readings s
  | .alVfSample clusters tj => Sys2Proof.Machine.execAlVfSample clusters tj s
  | .alEqSample margins => Sys2Proof.Machine.execAlEqSample margins s
  | .alGcSample dies => Sys2Proof.Machine.execAlGcSample dies s
  | .alRbSample latency rate => Sys2Proof.Machine.execAlRbSample latency rate s
  | .adpFreezeWrite r val => Sys2Proof.Machine.execAdpFreezeWrite r val s
  | .mgmtRead src raw => Sys2Proof.Machine.execMgmtRead src raw s
  | .mgmtWrite src raw => Sys2Proof.Machine.execMgmtWrite src raw s
  | .mgmtUpdBlock src raw => Sys2Proof.Machine.execMgmtUpdBlock src raw s
  | .mgmtEvrRead src raw => Sys2Proof.Machine.execMgmtEvrRead src raw s
  | .junctionSample readings => Sys2Proof.Machine.execJunctionSample readings s
  | .sensorPoll readings => Sys2Proof.Machine.execSensorPoll readings s
  | .fanUpdate tach => Sys2Proof.Machine.execFanUpdate tach s
  | .fanTachFail fan rpm => Sys2Proof.Machine.execFanTachFail fan rpm s
  | .mgtDebugSet r val => Sys2Proof.Machine.execMgtDebugSet r val s
  | .mgtDebugClear r val => Sys2Proof.Machine.execMgtDebugClear r val s
  | .evrCtrlWrite r val => Sys2Proof.Machine.execEvrCtrlWrite r val s
  | .evrClear r val => Sys2Proof.Machine.execEvrClear r val s
  | .evrSpill count => Sys2Proof.Machine.execEvrSpill count s
  | .msrExtGo r val => Sys2Proof.Machine.execMsrExtGo r val s
  | .msrDigGo r val => Sys2Proof.Machine.execMsrDigGo r val s
  | .msrDigDone => Sys2Proof.Machine.execMsrDigDone s
  | .msrVal0Read r => Sys2Proof.Machine.execMsrVal0Read r s
  | .chainBlock dn raw => Sys2Proof.Machine.execChainBlock dn raw s
  | .chainAck dn raw => Sys2Proof.Machine.execChainAck dn raw s
  | .chainNak dn raw => Sys2Proof.Machine.execChainNak dn raw s
  | .chainResendTimer dn cseq => Sys2Proof.Machine.execChainResendTimer dn cseq s
  | .chainToken dn raw => Sys2Proof.Machine.execChainToken dn raw s
  | .agreePeriodToken => Sys2Proof.Machine.execAgreePeriodToken s
  | .agreeLostTimer => Sys2Proof.Machine.execAgreeLostTimer s
  | .updVerifyDone same => Sys2Proof.Machine.execUpdVerifyDone same s
  | .updCtrlActivate r val => Sys2Proof.Machine.execUpdCtrlActivate r val s
  | .updCtrlAbandon r val => Sys2Proof.Machine.execUpdCtrlAbandon r val s
  | .updCtrlRollback r val => Sys2Proof.Machine.execUpdCtrlRollback r val s
  | .updCtrlRevoke r val => Sys2Proof.Machine.execUpdCtrlRevoke r val s
  | .updConfirmTimeout => Sys2Proof.Machine.execUpdConfirmTimeout s
  | .refclkReturn source => Sys2Proof.Machine.execRefclkReturn source s
  | .pwrWarnNHigh => Sys2Proof.Machine.execPwrWarnNHigh s
  | .railRecovered rail => Sys2Proof.Machine.execRailRecovered rail s
  | .cmRej qpn => Sys2Proof.Machine.execCmRej qpn s
  | .lotOpenReply h raw => Sys2Proof.Machine.execLotOpenReply h raw s
  | .pauseFrameReceive sub prio stop => Sys2Proof.Machine.execPauseFrameReceive sub prio stop s
  | .chainLinkUp dn => Sys2Proof.Machine.execChainLinkUp dn s

end Sys2Proof.Machine
end

