-- ==== Sys2Proof/Machine/Step.lean ====
section
/-! DEFINITION. One step: the command at the front of the queue, or a tick of the always-on clock when none waits. -/

namespace Sys2Proof.Machine

/-- An idle step (DESIGN CHOICE, log entry 1): with no command waiting, the block lets one tick of the always-on clock pass.
Once the always-on domain is released the timestamp counter counts it (R14); before that nothing changes. -/
def idle (s : State) : State := if s.rst.aoUp then { s with time := s.time + 1 } else s

/-- One step of the block. -/
def step (s : State) : Host.Outcome State Fault Refusal :=
  match s.pending with
  | [] => .next (idle s)
  | c :: rest => exec c (s.withPending rest)

/-- The state with the command a word spells put at the front of its queue; unchanged where the word spells none. -/
def State.withFetchWord (s : State) (nbits w : Nat) : State :=
  match Sys2Proof.decodeTableWord nbits w with
  | some c => s.withPending (c :: s.pending)
  | none => s

end Sys2Proof.Machine
end

