-- ==== Sys2Proof/Safety.lean ====
section
/-! DEFINITION. What counts as a safe state of the head, and what no command ever takes back: the terms in which the claims are
made. -/

namespace Sys2Proof.Machine

/-- The stages in which the always-on domain is not released: a reset is held, or tPOR runs (R95 step 1). -/
def Stage.cold : Stage → Bool
  | .held | .por => true
  | _ => false

/-- The release order (R95): the host ports are released only with the datapath, and before step 1 neither the always-on domain nor the
datapath is. -/
def Rst.Ordered (r : Rst) : Prop :=
  (r.hostUp = true → r.dpUp = true) ∧ (r.stage.cold = true → r.aoUp = false ∧ r.dpUp = false)

/-- The canonical form of the two map tables in DRAM: no block of a volume has two map words, none has a word that is 0, which is what an
unlisted block reads as (R330); no shared entry is listed twice, and each has a reference (R331). -/
def Ftl.Canonical (f : Ftl) : Prop :=
  (f.map.map (·.1)).Nodup ∧ (∀ e ∈ f.map, e.2 ≠ 0) ∧ (f.shares.map (·.1)).Nodup ∧ ∀ e ∈ f.shares, e.2.refs ≠ 0

/-- The invariant of the head: the release order, and the canonical form of the map. -/
def State.Inv (s : State) : Prop := s.rst.Ordered ∧ s.ftl.Canonical

/-- What may become of the fixed facts of the part: the stepping, the fuse profile and the grade stay, and a revocation fuse that has
burnt stays burnt (R567). -/
def Part.Burnt (p q : Part) : Prop :=
  q.stepping = p.stepping ∧ q.profile2 = p.profile2 ∧ q.gradeE = p.gradeE ∧ ∀ k, p.revoked.getLsbD k = true → q.revoked.getLsbD k = true

/-- What every command leaves standing: the queue of waiting commands; the part, but for fuses that burn; what has been sent, which
only grows; and the timestamp counter, which a command leaves or, at an L0 reset, zeroes (R14). -/
def State.Keeps (s t : State) : Prop :=
  t.pending = s.pending ∧ s.part.Burnt t.part ∧ s.tx <:+ t.tx ∧ (t.time = s.time ∨ t.time = 0)

/-- The blocks that no consequence of a datapath command reaches: the head's resets and clocks, its power state and image, the
management blocks and the DRAM controller. -/
def State.SameCtl (s t : State) : Prop :=
  t.rst = s.rst ∧ t.clk = s.clk ∧ t.pwr = s.pwr ∧ t.cfg = s.cfg ∧ t.bus = s.bus ∧ t.part = s.part ∧ t.msr = s.msr ∧ t.mgt = s.mgt
    ∧ t.upd = s.upd ∧ t.chain = s.chain ∧ t.buf = s.buf ∧ t.time = s.time ∧ t.pending = s.pending

end Sys2Proof.Machine
end

