-- ==== Sys2Proof/Certificates/Slice0/Obligations.lean ====
section
/-! DEFINITION. The statements about the head, for its provers. Each names the rules of the spec it comes from. -/

open Sys2Proof Sys2Proof.Machine

/-! ## The whole machine -/

/-- Every command completes, whatever the state: it answers a next state that keeps the waiting commands, the part (but for revocation fuses,
which burn and stay burnt, R567), everything sent so far, and the timestamp counter (which an L0 reset zeroes, R14). -/
def Obligations.EveryCommandCompletes : Prop := ∀ (c : Instr) (s : State), ∃ t, exec c s = .next t ∧ s.Keeps t

/-- The invariant of the head, kept by every step: the host ports are released only with the datapath and nothing is released before the
always-on domain (R95); the map tables in DRAM keep their canonical form (R330, R331). -/
def Obligations.StepKeepsInvariant : Prop := ∀ s t : State, s.Inv → step s = .next t → t.Inv

/-- The state after reset has the invariant. -/
def Obligations.ResetHasInvariant : Prop := State.reset.Inv

/-- A step runs the command at the front of the queue on the rest of it. -/
def Obligations.StepRunsTheFront : Prop :=
  ∀ (c : Instr) (rest : List Instr) (s : State), step (s.withPending (c :: rest)) = exec c (s.withPending rest)

/-- With nothing waiting a step is one tick of the always-on clock, counted once the always-on domain is released (the model's choice, log
entry 1). -/
def Obligations.EmptyQueueTicks : Prop :=
  ∀ s : State, s.pending = [] → step s = .next { s with time := if s.rst.aoUp then s.time + 1 else s.time }

/-! ## The register space -/

/-- An access narrower than 32 bits or not aligned has no effect but its access error, a read returns 0 (R17): for each of the rows that
access the space, by a requester that can make accesses. -/
def Obligations.NarrowAccessHasNoEffect : Prop :=
  ∀ (r : Requester) (addr : BitVec 24) (size : Nat) (val : Word) (s : State), s.reaches r = true → size ≠ 4 ∨ addr.toNat % 4 ≠ 0 →
    let offset := addr.toNat + if r = .jtag then 2 ^ 24 else 0
    let erring (detail : Nat) : State :=
      evrRaise 0x1001 detail none { s with bus := { s.bus with accessAddr := word addr.toNat, errors := s.bus.errors + 1 } }
    let refused : State := erring (offset + 2 ^ 25)
    let zero : State := returned r 0 (erring offset)
    (∃ e, refused = { s with evr := e, bus := refused.bus })
      ∧ exec (.registerWrite r addr size val) s = .next refused ∧ exec (.write64Low r addr size val) s = .next refused
      ∧ exec (.write64High r addr size val) s = .next refused ∧ exec (.readRcField r addr size) s = .next zero
      ∧ exec (.read64Low r addr size) s = .next zero ∧ exec (.read64High r addr size) s = .next zero

/-- PWR_WAKE_TIMER as a 64-bit register (R18, R589): a read of its low word latches the high word, which the next read of the high word
returns whatever the register holds by then; a write takes effect with the high word and the low word that the same requester last wrote;
the other requester's latch and pending low words stay. -/
def Obligations.SixtyFourBitRegister : Prop :=
  ∀ (r : Requester) (other : Requester) (lo hi : Word) (now : BitVec 64) (s : State), s.reaches r = true → other ≠ r →
    (∃ t u, exec (.read64Low r 0x160014 4) s = .next t ∧ (t.busPort r).lastRead = s.pwr.wakeTimer.setWidth 32
        ∧ t.busPort other = s.busPort other
        ∧ exec (.read64High r 0x160018 4) (t.onPwr fun p => { p with wakeTimer := now }) = .next u
        ∧ (u.busPort r).lastRead = (s.pwr.wakeTimer >>> 32).setWidth 32 ∧ u.pwr.wakeTimer = now ∧ u.busPort other = s.busPort other)
      ∧ ∃ t u, exec (.write64Low r 0x160014 4 lo) s = .next t ∧ t.pwr = s.pwr ∧ t.busPort other = s.busPort other
        ∧ exec (.write64High r 0x160018 4 hi) t = .next u ∧ u.pwr = { s.pwr with wakeTimer := hi ++ lo } ∧ u.busPort other = s.busPort other

/-- The access codes of R19, each on one register of the always-on domain: CLK_CDC_SEL (RW), CLK_STAT (RO), RST_CAUSE (RW1C), the hold
counter (RC), RST_SOFT (WO) and a word that no register holds (R21). -/
def Obligations.RegisterAccessCodes : Prop :=
  ∀ (r : Requester) (val : Word) (s : State), s.reaches r = true →
    exec (.registerWrite r 0x150010 4 val) s = .next { s with clk := { s.clk with cdcSel := val.setWidth 10 } }
      ∧ exec (.readRcField r 0x150010 4) s = .next (returned r s.clk.cdcSel.toNat s)
      ∧ exec (.registerWrite r 0x150000 4 val) s = .next s
      ∧ exec (.readRcField r 0x150000 4) s = .next (returned r s.clk.good.toNat s)
      ∧ exec (.registerWrite r 0x140000 4 val) s = .next { s with rst := { s.rst with cause := s.rst.cause &&& ~~~(val.setWidth 10) } }
      ∧ exec (.readRcField r 0x160010 4) s = .next (returned r s.pwr.holdCount.toNat { s with pwr := { s.pwr with holdCount := 0 } })
      ∧ exec (.readRcField r 0x140008 4) s = .next (returned r 0 s)
      ∧ exec (.registerWrite r 0x15FFFC 4 val) s = .next s
      ∧ exec (.readRcField r 0x15FFFC 4) s = .next (returned r 0 s)

/-! ## Reset, the release order and the loader -/

/-- What the always-on domain's release extends into the measurement registers and writes, at an L0 reset (R95 steps 1 and 2, R118, R558): the
causes are those noted since the last release, CLK_STAT shows AO, the load time starts, MSR0 takes the mask ROM and then the part. -/
def Obligations.AlwaysOnRelease : Prop :=
  ∀ s : State, s.rst.level = .l0 →
    (s.rst.stage = .held → s.rst.aoRails = false → s.rst.ref25 = true → s.rst.extHeld = false → s.rst.trip = false → s.rst.brown = 0 →
      exec .aoRailsInRange s = .next { s with rst := { s.rst with aoRails := true, stage := .por } })
    ∧ (s.rst.stage = .por → ∃ t, exec .aoReleaseTimer s = .next t
      ∧ t.rst = { s.rst with stage := .railWait, aoUp := true, cause := s.rst.newCause, newCause := 0, lastTarget := 0 }
      ∧ t.clk = { s.clk with good := s.clk.good ||| 1 } ∧ t.cfg = { s.cfg with loadStart := s.time }
      ∧ t.msr = (msrExtend 0 (leBytes 4 s.part.chipId ++ leBytes 4 s.part.fuseMap) (msrExtend 0 romDigest s)).msr
      ∧ t = { s with rst := t.rst, clk := t.clk, cfg := t.cfg, msr := t.msr })

/-- The end of the rail wait samples HEAD_ID and PREF_HEAD and starts the load: the loader is at its first state and the primary's option bytes
are read (R74 step 1, R85, R597). -/
def Obligations.RailWaitEndStartsTheLoad : Prop :=
  ∀ (headId prefHead : Bool) (s : State), s.rst.stage = .railWait →
    exec (.railWaitEnd headId prefHead) s = .next { s with
      rst := { s.rst with stage := .loading, headId := headId, prefHead := prefHead }
      pwr := { s.pwr with railLow := 0 }
      cfg := { ({} : Cfg) with loadStart := s.cfg.loadStart }
      tx := .spi .primary .readOptions :: s.tx }

/-- An option-byte read (R58 to R60): bytes with a good OPT_CRC that pass the format checks name the slot, which is then read; a bad OPT_CRC is
counted and, before the eighth, the timer brings another read; the eighth ends the primary's load with 0x10, and the alternate is tried. -/
def Obligations.OptionByteRead : Prop :=
  ∀ (raw : Bytes) (s : State), s.rst.stage = .loading → s.cfg.state = .options → s.cfg.rereadWait = false → raw.length = 64 →
    (crcGood raw = true → optFormatGood raw = true → bitAt (fieldLe raw 5 1) 4 = false → exec (.optionByteReadDone raw) s = .next
      (readSlot { s with cfg := { s.cfg with opt := raw, slotB := optSlotB raw, state := .image, recs := [], bytes := [], recFails := 0 } }))
    ∧ (crcGood raw = false → s.cfg.dev = .primary → s.cfg.optP.toNat < 7 → ∃ t, exec (.optionByteReadDone raw) s = .next t
      ∧ t = { s with cfg := { s.cfg with optP := satInc s.cfg.optP, rereadWait := true } }
      ∧ exec .optionRereadTimer t = .next { t with cfg := { t.cfg with rereadWait := false }, tx := .spi .primary .readOptions :: t.tx })
    ∧ (crcGood raw = false → s.cfg.dev = .primary → 7 ≤ s.cfg.optP.toNat → ∃ t, exec (.optionByteReadDone raw) s = .next t
      ∧ t.cfg.dev = .alternate ∧ t.cfg.state = .options ∧ t.cfg.codeP = 0x10 ∧ t.tx = .spi .alternate .readOptions :: s.tx ∧ t.rst = s.rst)

/-- The loader's walk (R61 to R64, R74): a record that passes its checks is taken, TRAILER ends the walk, and then the load checks decide:
the image is in force and the management domain's clock is waited for, or the device has failed with the check's code and the alternate
follows the primary. -/
def Obligations.LoaderWalk : Prop :=
  ∀ (raw body : Bytes) (ty : Option Nat) (s : State), s.rst.stage = .loading → s.rst.dpUp = false → s.upd.staging = [] → s.upd.pend = false →
    (s.cfg.state = .image → recCheck s.part (optSlot s.cfg.opt s.cfg.slotB).2 (some (fieldLe s.cfg.opt 36 4)) s.cfg.recs s.cfg.bytes.length raw = .good ty body →
      ty = some 0xFFFF → exec (.recordReadDone raw) s = .next (after { s with
        cfg := { s.cfg with recs := s.cfg.recs ++ [(ty, body)], bytes := s.cfg.bytes ++ raw, recFails := 0, state := .checks } }))
    ∧ (s.cfg.state = .checks → imageVerdict s.part s.cfg.recs s.cfg.bytes = none → ∃ t, exec .loadChecksDone s = .next t
      ∧ t.cfg.img = some (imageOf s.cfg.recs) ∧ t.cfg.state = .done ∧ t.cfg.src = s.cfg.dev ∧ t.rst.stage = .mgStart)
    ∧ ∀ code, s.cfg.state = .checks → imageVerdict s.part s.cfg.recs s.cfg.bytes = some code → s.cfg.dev = .primary →
      ∃ t, exec .loadChecksDone s = .next t ∧ t.cfg.codeP = BitVec.ofNat 8 code ∧ t.cfg.dev = .alternate ∧ t.cfg.state = .options
        ∧ t.cfg.img = s.cfg.img ∧ t.tx = .spi .alternate .readOptions :: s.tx

/-- The clocks release what waits for them (R94, R95): the management core and its watchdog with MG, DDR's controller and its reset pin with DDR,
and everything else with the last of the clusters' and SerDes' clocks once DRAM is initialised. -/
def Obligations.ClocksReleaseTheDomains : Prop :=
  ∀ s : State, s.rst.aoUp = true →
    (s.rst.stage = .mgStart → ∃ t, exec (.clockGood 1) s = .next t ∧ t.clk = { s.clk with good := s.clk.good ||| 2 } ∧ t.rst = { s.rst with
        stage := .ddrStart, mgUp := true, wdogOn := true, wdogFirst := false, wdogLeft := BitVec.ofNat 24 (s.param P.wdogPeriod) })
    ∧ (s.rst.stage = .ddrStart → ∃ t, exec (.clockGood 2) s = .next t ∧ t.clk = { s.clk with good := s.clk.good ||| 4 }
        ∧ t.rst = { s.rst with ddrUp := true } ∧ t.buf.state = 1 ∧ Tx.pin (.ddrResetN false) ∈ t.tx)
    ∧ ∀ d, 3 ≤ d → d ≤ 12 → s.rst.stage = .dpStart →
        let u : State := { s with clk := { s.clk with good := setBit s.clk.good d true } }
        exec (.clockGood d) s = .next (after (if u.lateClocks then releaseDatapath u else u))

/-- DRAM's initialisation (R95, R489, R491, R494): a fault leaves the head with BUF failed, its code and channel and the event; without one BUF runs, and
the datapath is released once every later clock is good. -/
def Obligations.BufferInitialisation : Prop :=
  ∀ (cs : List Channel) (s : State), s.rst.stage = .ddrStart → s.rst.ddrUp = true → cs.length = 12 →
    (∀ code k, initFault (s.param P.ddrRate) cs = some (code, k) → ∃ t, exec (.bufInitDone cs) s = .next t
      ∧ t.rst = { s.rst with stage := .bufFailed } ∧ t.buf.state = 3 ∧ t.buf.fail = true ∧ t.buf.code = BitVec.ofNat 4 code ∧ t.buf.chan = BitVec.ofNat 4 k)
    ∧ (initFault (s.param P.ddrRate) cs = none → s.rst.deferred = [] → ∃ t, exec (.bufInitDone cs) s = .next t
      ∧ (t.buf.state = 3 ∧ t.buf.code = 5 ∧ t.rst.stage = .bufFailed
        ∨ t.buf.state = 2 ∧ t.buf.regions = s.regionsPlaced.1 ∧ t.rst.stage = if s.lateClocks then .run else .dpStart))

/-- The failures of clocks (R96): of DDR's or a cluster's clock the level of its reset, with CLK_FAIL saying which; of REFCLK_25 an L0 reset that holds
until the reference is back; and a crossing that falls back to its queue (R103). -/
def Obligations.ClockFailures : Prop :=
  ∀ s : State,
    (∀ d, 2 ≤ d → d ≤ 10 → getBit s.clk.good d = true → exec (.clockFailure d) s = .next (after ((resetAt (if d = 2 then .l1 else .l2) none .clkfail s).onClk
        fun c => { c with good := setBit c.good d false, fail := setBit c.fail d true })))
    ∧ (s.rst.ref25 = true → exec (.clockFailure 25) s = .next (after ((resetAt .l0 none .clkfail { s with rst := { s.rst with ref25 := false } }).onClk
        fun c => { c with good := setBit c.good 0 false, fail := setBit c.fail 0 true })))
    ∧ (s.rst.ref25 = false → exec (.refclkReturn 25) s = .next (after (tryRelease { s with rst := { s.rst with ref25 := true } })))
    ∧ ∀ k, k < 1024 → (tabGetD k {} s.clk.cdc).onQueue = false → exec (.cdcFallback k) s = .next (evrRaise 0x1103 k none
        { s with clk := { s.clk with cdc := tabPut k { tabGetD k {} s.clk.cdc with onQueue := true } s.clk.cdc } })

/-! ## Resets -/

/-- A write of RST_SOFT by the core (R88, R92, R97, R117) while the head runs and no cause stands that would hold it: with profile 1 the deepest
level is L1, so L0 is carried out as L1; L2 and L3 are carried out as asked; a wrong KEY has no effect but the access error. -/
def Obligations.SoftResets : Prop :=
  ∀ (val : Word) (s : State), s.rst.mgUp = true → s.rst.stage = .run → s.pwr.state = .run → s.pwr.flushing = false → s.causesStand = false →
    s.part.profile2 = false →
    (val.toNat / 2 ^ 16 = 0x9640 →
      (val.toNat % 4 = 0 → exec (.softResetL0 .core val) s = .next (after (aoRelease ((addCause .l1 .soft s).cold .l1))))
      ∧ (val.toNat % 4 = 1 → exec (.softResetL1 .core val) s = .next (after (aoRelease ((addCause .l1 .soft s).cold .l1))))
      ∧ (val.toNat % 4 = 2 → exec (.softResetL2 .core val) s = .next (after (addCause .l2 .soft s).warm))
      ∧ ∀ t : Target, val.toNat % 4 = 3 → val.toNat / 4 % 32 = t.code →
        exec (.softResetL3 .core val) s = .next (after (startL3 t (addCause .l3 .soft s))))
    ∧ (val.toNat / 2 ^ 16 ≠ 0x9640 → let bad := after (accessError .core 0x140008 true s)
      exec (.softResetL0 .core val) s = .next bad ∧ exec (.softResetL1 .core val) s = .next bad ∧ exec (.softResetL2 .core val) s = .next bad
        ∧ exec (.softResetL3 .core val) s = .next bad)

/-- What an L1 reset keeps and what it clears (R117): the sticky fields, the causes and their counts, SLD_CLAIM_EPOCH and the timestamp counter
are kept; the image, key slots, connections, commands, maps and the event recorder are not; the head is Joining. -/
def Obligations.WhatAnL1ResetLeaves : Prop :=
  ∀ s : State, let t := s.cold .l1
    t.rst.cause = s.rst.cause ∧ t.rst.countL1 = s.rst.countL1 ∧ t.sld.epoch = s.sld.epoch ∧ t.time = s.time ∧ t.part = s.part
      ∧ t.cfg = {} ∧ t.cip.slots = [] ∧ t.qpc.ctx = [] ∧ t.cmd.cmds = [] ∧ t.ing.buf = [] ∧ t.ftl.map = [] ∧ t.ftl.takes = [] ∧ t.jnl.recs = []
      ∧ t.evr.recs = [] ∧ t.fab.subUp = 0 ∧ t.prt.pair = .joining ∧ t.rst.dpUp = false ∧ t.rst.hostUp = false ∧ t.rst.mgUp = false

/-- The other reset sources, each at the level its fuse gives (R87, R89 to R91, R93, R115): a brown-out of a rail, RESET_N low for at least
tRSTW (a shorter pulse than tRSTG is ignored), a thermal trip, the debug instruction, and the end of the cause that held the head. -/
def Obligations.ResetSources : Prop :=
  ∀ s : State, s.pwr.flushing = false →
    let at_ (c : Cause) (u : State) : State := resetAt (s.part.levelOf c).1 (s.part.levelOf c).2 c u
    (∀ rail, rail < 16 → getBit s.rst.brown rail = false → exec (.brownoutReset rail) s = .next (at_ .brownout { s with
        rst := { s.rst with brown := setBit s.rst.brown rail true }, pwr := { s.pwr with railLow := setBit s.pwr.railLow rail true } }))
    ∧ (∀ ns, s.rst.extHeld = false → 1000 ≤ ns → exec (.resetNLow ns) s = .next (at_ .ext { s with rst := { s.rst with extHeld := true } }))
    ∧ (∀ ns, ns < 100 → exec (.resetNLow ns) s = .next s)
    ∧ (s.rst.extHeld = true → exec .resetNHigh s = .next (tryRelease { s with rst := { s.rst with extHeld := false } }))
    ∧ (∀ temp, s.rst.trip = false → (if s.part.gradeE then 120 else 115) ≤ temp → exec (.thermalTrip temp) s = .next (at_ .therm { s with
        rst := { s.rst with trip := true }, tx := .pin (.thermTripN true) :: s.tx }))
    ∧ (∀ temp, s.rst.trip = true → temp ≤ (if s.part.gradeE then 100 else 95) → exec (.thermalTripEnd temp) s = .next (tryRelease { s with
        rst := { s.rst with trip := false }, tx := .pin (.thermTripN false) :: s.tx }))
    ∧ (s.mgt.debug = true → exec .debugReset s = .next (at_ .debug s)) ∧ (s.mgt.debug = false → exec .debugReset s = .next s)

/-- The watchdog (R91): its first expiry is marked and recorded and its period starts again, the second in a row is a watchdog reset, and a
write of 0x0000_9640 to RST_WDOG_KICK restarts it; another value does nothing. -/
def Obligations.Watchdog : Prop :=
  ∀ s : State, s.rst.wdogOn = true →
    (s.rst.wdogFirst = false → exec .watchdogExpiry s = .next (after (evrRaise 0x1101 0 none { s with
        rst := { s.rst with wdogFirst := true, wdogLeft := BitVec.ofNat 24 (s.param P.wdogPeriod) } })))
    ∧ (s.rst.wdogFirst = true → exec .watchdogExpiry s = .next (after (resetBy .wdog { s with rst := { s.rst with wdogFirst := false } })))
    ∧ ∀ r, s.reaches r = true → exec (.rstWdogKick r 0x9640) s = .next { s with
        rst := { s.rst with wdogFirst := false, wdogLeft := BitVec.ofNat 24 (s.param P.wdogPeriod) } }
      ∧ ∀ val : Word, val ≠ 0x9640 → exec (.rstWdogKick r val) s = .next s

/-! ## Power -/

/-- A request for a state below Run (R106, R107, R118, R119), written to PWR_REQ or by ARM_IDLE's expiry, while the head runs and no request is under
way: in the Lone state it is decided at once, in the Paired state it is proposed, and one that a condition forbids leaves its reason in DENY. -/
def Obligations.PowerRequests : Prop :=
  ∀ (r : Requester) (val : Word) (s : State), s.reaches r = true → s.rst.stage = .run → s.pwr.state = .run → s.pwr.transit = none → s.pwr.proposed = none →
    let p := powerOf val.toNat
    let u : State := { s with pwr := { s.pwr with req := val.setWidth 2 } }
    (val.toNat % 4 ≠ 0 → u.powerDeny p = 0 → s.prt.pair = .lone → let go := afterP { u with pwr := { u.pwr with transit := some p } }
      exec (.pwrReqArmed r val) s = .next go ∧ exec (.pwrReqQuiet r val) s = .next go ∧ exec (.pwrReqDormant r val) s = .next go)
    ∧ (val.toNat % 4 ≠ 0 → u.powerDeny p = 0 → s.prt.pair = .paired →
      let ask := afterP (plControl 0x05 (leBytes 1 (val.toNat % 4) ++ [0]) { u with pwr := { u.pwr with proposed := some p } })
      exec (.pwrReqArmed r val) s = .next ask ∧ exec (.pwrReqQuiet r val) s = .next ask ∧ exec (.pwrReqDormant r val) s = .next ask)
    ∧ (val.toNat % 4 ≠ 0 → u.powerDeny p ≠ 0 → let no := afterP { u with pwr := { u.pwr with deny := BitVec.ofNat 4 (u.powerDeny p) } }
      exec (.pwrReqArmed r val) s = .next no ∧ exec (.pwrReqQuiet r val) s = .next no ∧ exec (.pwrReqDormant r val) s = .next no)
    ∧ (s.param P.armIdle ≠ 0 → s.powerDeny .armed = 0 → s.prt.pair = .lone →
      exec .armIdleExpiry s = .next (afterP { s with pwr := { s.pwr with transit := some .armed } }))
    ∧ (s.param P.armIdle = 0 → exec .armIdleExpiry s = .next (afterP s))

/-- Wakes from Armed (R108, R109): a write of TARGET 0 and PWR_WAKE_TIMER start the way to Run, clear TARGET and say which event it was, and
WAKE_COMPLETE ends it with DRAM out of self-refresh; and an entry whose conditions hold is completed (R107). -/
def Obligations.EntryAndWake : Prop :=
  ∀ (r : Requester) (s : State), s.reaches r = true → s.prt.pair = .lone →
    let waking (why : BitVec 4) : State := { s with
      pwr := { s.pwr with req := 0, lastWake := why, transit := some .run }, buf := { s.buf with exiting := s.buf.selfRef } }
    (s.pwr.state = .armed → s.pwr.transit = none → exec (.pwrReqRun r 0) s = .next (afterP (waking 3))
      ∧ (s.pwr.wakeTimer ≠ 0 → exec .pwrWakeTimer s = .next (afterP (waking 4))))
    ∧ (s.pwr.wakeTimer = 0 → exec .pwrWakeTimer s = .next (afterP s))
    ∧ (s.pwr.state = .armed → s.pwr.transit = some .run → exec .wakeComplete s = .next (afterP { s with
        pwr := { s.pwr with state := .run, transit := none }, buf := { s.buf with selfRef := 0, exiting := 0 } }))
    ∧ (s.pwr.transit = some .armed → s.powerDeny .armed = 0 → exec .powerEntryDone s = .next (afterP (enterArmed { s with
        pwr := { s.pwr with state := .armed, transit := none } })))
    ∧ (s.pwr.transit = some .quiet → s.powerDeny .quiet = 0 → exec .powerEntryDone s = .next (afterP (enterQuiet { s with
        pwr := { s.pwr with state := .quiet, transit := none } })))
    ∧ (s.pwr.transit = some .dormant → s.powerDeny .dormant = 0 → exec .powerEntryDone s = .next (afterP (enterDormant { s with
        pwr := { s.pwr with state := .dormant, transit := none } })))

/-- The brown-out hold (R112 to R114, R120): it starts, once the loader is done, with PWR_WARN_N or a rail, and a dip during it only stops the clear
interval; the interval starts when nothing warns any more and its end ends the hold; the flush's end lets deferred resets arrive. -/
def Obligations.BrownOutHold : Prop :=
  ∀ s : State,
    (s.holdCan = true → s.pwr.hold = false → ∃ t, exec (.holdStart none) s = .next t
      ∧ t.pwr = { s.pwr with warnLow := true, hold := true, borRuns := false, holdCount := satInc s.pwr.holdCount, flushing := s.rst.dpUp })
    ∧ (∀ rail, s.holdCan = true → s.pwr.hold = true → ∃ t, exec (.holdStart (some rail)) s = .next t ∧ t.pwr = { s.pwr with
        railLow := setBit s.pwr.railLow rail true, railLatch := setBit s.pwr.railLatch rail true, borRuns := false })
    ∧ (s.pwr.hold = true → s.pwr.railLow = 0 → exec .pwrWarnNHigh s = .next { s with pwr := { s.pwr with warnLow := false, borRuns := true } })
    ∧ (∀ rail, getBit s.rst.brown rail = false → s.pwr.hold = true → s.pwr.warnLow = false → setBit s.pwr.railLow rail false = 0 →
        exec (.railRecovered rail) s = .next { s with pwr := { s.pwr with railLow := 0, borRuns := true } })
    ∧ (s.pwr.hold = true → s.pwr.borRuns = true →
        exec .holdClearTimer s = .next (updRetry (after { s with pwr := { s.pwr with hold := false, borRuns := false } })))
    ∧ (s.pwr.flushing = true → exec .holdFlushDone s = .next (after (releaseDeferred { s with pwr := { s.pwr with flushing := false } })))

/-! ## Host fabric -/

/-- Sub-ports and their port's enable (R129, R160): a sub-port that comes up is marked and raises its event, one that goes down is marked in the
latch, raises its event and starts auto-negotiation again, with no connection that would resend; a repeat changes nothing; a port whose
enable rises starts auto-negotiation on its four sub-ports. -/
def Obligations.SubportsUpAndDown : Prop :=
  ∀ (sub : BitVec 4) (s : State),
    (s.subIsUp sub.toNat = false → s.subEnabled sub.toNat = true → s.rst.hostUp = true → getBit s.fab.addrWait sub.toNat = false →
      exec (.subportUp sub) s = .next (after (raise 0x0102 sub.toNat .all { s with
        fab := { s.fab with subUp := setBit s.fab.subUp sub.toNat true, training := setBit s.fab.training sub.toNat false } })))
    ∧ (s.subIsUp sub.toNat = true → exec (.subportUp sub) s = .next (after s))
    ∧ (s.subIsUp sub.toNat = true → s.qpc.ctx = [] → exec (.subportDown sub) s = .next (after (autoneg sub.toNat (raise 0x0101 sub.toNat .all { s with
        fab := { s.fab with subUp := setBit s.fab.subUp sub.toNat false, latch := setBit s.fab.latch sub.toNat true
                            stopped := s.fab.stopped.filter fun x => x.1 ≠ sub.toNat } }))))
    ∧ (s.subIsUp sub.toNat = false → exec (.subportDown sub) s = .next (after s))
    ∧ ∀ (r : Requester) (val : Word), s.accessStop r 0x10000 4 = none → s.fab.ctrl = 0 →
      exec (.fabCtrlWrite r val) s = .next (after ((((List.range 4).filter fun p => getBit (val.setWidth 4) p).flatMap fun p =>
        (List.range 4).map (4 * p + ·)).foldl (fun s n => autoneg n s) { s with fab := { s.fab with ctrl := val.setWidth 4 } }))

/-- Frames of no connection (R126, R127, R157, R545): ARP, neighbour solicitations and echo requests are answered for the head's addresses on the
sub-port, the core answers for the management address; link-level pause stops a sub-port; the addresses taken from the partner
are announced twice more. -/
def Obligations.FramesOfNoConnection : Prop :=
  ∀ (sub : BitVec 4) (s : State), s.rst.hostUp = true → s.subIsUp sub.toNat = true →
    (∀ (ip : BitVec 32) (mac : BitVec 48), (s.addrAt sub.toNat fun a => a.v4ok && a.ipv4 == ip.toNat).isSome →
      exec (.arpRequest (some sub) ip mac) s = .next (hostSend (.eth sub.toNat (.arpReply ip.toNat mac.toNat)) s))
    ∧ (∀ (ip : BitVec 32) (mac : BitVec 48), (s.addrAt sub.toNat fun a => a.v4ok && a.ipv4 == ip.toNat) = none →
      exec (.arpRequest (some sub) ip mac) s = .next s)
    ∧ (∀ (ip : BitVec 32) (mac : BitVec 48), s.rst.mgUp = true → s.mgmtAddr.1 = ip.toNat →
      exec (.arpRequest none ip mac) s = .next { s with tx := .eth mgmtSub (.arpReply ip.toNat mac.toNat) :: s.tx })
    ∧ (∀ target src : BitVec 128, (s.addrAt sub.toNat fun a => a.v6ok && a.ipv6 == target.toNat).isSome →
      exec (.neighbourSolicitation sub target src) s = .next (hostSend (.eth sub.toNat (.naReply target.toNat src.toNat)) s))
    ∧ (∀ (dst src : BitVec 128) (data : Bytes), (s.addrAt sub.toNat fun a => (a.v4ok && mapped4 a.ipv4 == dst.toNat) || (a.v6ok && a.ipv6 == dst.toNat)).isSome →
      tabGet sub.toNat s.fab.echo = none → exec (.icmpEcho (some sub) dst src data) s = .next (hostSend (.eth sub.toNat (.echoReply dst.toNat src.toNat data))
        { s with fab := { s.fab with echo := tabPut sub.toNat (s.time, 1) s.fab.echo } }))
    ∧ (∀ (dst src : BitVec 128) (data : Bytes) (t : Word64), tabGet sub.toNat s.fab.echo = some (t, 1000) → s.since t < 50000000 →
      exec (.icmpEcho (some sub) dst src data) s = .next s)
    ∧ (∀ stop : BitVec 8, s.param P.pauseMode = 1 → stop ≠ 0 → exec (.pauseFrameReceive sub none stop) s = .next (after (fabCount sub.toNat 12 1
        { s with fab := { s.fab with paused := setBit s.fab.paused sub.toNat true } })))
    ∧ (tabGet sub.toNat s.fab.announces = some 0 → exec (.addrAnnounceRepeat sub) s = .next (announce sub.toNat
        { s with fab := { s.fab with announces := tabPut sub.toNat 1 s.fab.announces } }))
    ∧ (tabGet sub.toNat s.fab.announces = some 1 → exec (.addrAnnounceRepeat sub) s = .next (announce sub.toNat
        { s with fab := { s.fab with announces := tabDel sub.toNat s.fab.announces } }))

/-- A RoCEv2 packet reaches a Ready context in the cache (R130, R146, R149): its header, the context's index, the context. -/
def Sys2Proof.Machine.State.Hears (s : State) (h : RoceHdr) (idx : Nat) (c : Ctx) : Prop :=
  s.rst.hostUp = true ∧ s.subIsUp h.sub.toNat = true ∧ h.icrcOk = true ∧ h.rc = true ∧ h.ce = false ∧ s.ctxAt h.qpn.toNat = some (idx, c)
    ∧ c.lot = false ∧ c.lost = false ∧ c.state = .ready ∧ c.cached = true

/-- What is counted of such a packet before anything else (R148, R160). -/
def Sys2Proof.Machine.State.heard (s : State) (h : RoceHdr) (idx : Nat) : State :=
  cacheHit idx (fabCount h.sub.toNat 0 1 (fabCount h.sub.toNat 5 1 s))

/-- The requests of a reliable connection that come in order (R131, R134, R144, R172, R181, R183): a 64-byte SEND is a capsule and is taken, another
length ends the queue pair; a write into a window places its data, one whose immediate is the key completes the window; a write to no window,
and an unsupported operation, end the queue pair; a read is answered from its pull window. -/
def Obligations.ReliableRequests : Prop :=
  ∀ (h : RoceHdr) (idx : Nat) (c : Ctx) (s : State), s.Hears h idx c → h.psn.toNat = c.rxNext →
    let u := s.heard h idx
    (∀ raw, raw.length = 64 → u.slotFree (qpnOf idx c) c = true →
      exec (.roceSend h .only raw) s = .next (after (takeCapsule idx c c.rxNext raw (advance idx 1 true u))))
    ∧ (∀ raw pos, pos ≠ .only ∨ raw.length ≠ 64 → exec (.roceSend h pos raw) s = .next (after (qpError idx none (sendNak idx 1 u))))
    ∧ (∀ (key imm : BitVec 32) (va : BitVec 64) raw i w, u.winAt c.taken key.toNat = some (i, w) → w.readPerm = false →
      exec (.roceRdmaWrite h .only key va raw) s = .next (after (advance idx 1 true (onCtx idx (fun c => { c with wrCur := none })
        (placeData false false i va.toNat raw u))))
      ∧ (w.complete = false → exec (.roceRdmaWriteImm h .only key va key raw) s = .next (after (advance idx 1 true (onCtx idx (fun c => { c with wrCur := none })
        (windowDone i (placeData false true i va.toNat raw u))))))
      ∧ (imm ≠ key → exec (.roceRdmaWriteImm h .only key va imm raw) s = .next (after (advance idx 1 true (onCtx idx (fun c => { c with wrCur := none })
        (failCmd w.acc 0x03 0xFFFFFFFF 0 (placeData false false i va.toNat raw u)))))))
    ∧ (∀ (key imm : BitVec 32) (va : BitVec 64) raw, u.winAt c.taken key.toNat = none → let refused := after (qpError idx (some 0x0104) (sendNak idx 2 u))
      exec (.roceRdmaWrite h .only key va raw) s = .next refused ∧ exec (.roceRdmaWriteImm h .only key va imm raw) s = .next refused
        ∧ (u.readsOut c < 16 → ∀ len, exec (.roceRdmaReadRequest h key va len) s = .next refused))
    ∧ (∀ (key len : BitVec 32) (va : BitVec 64) i w, u.winAt c.taken key.toNat = some (i, w) → w.readPerm = true → u.readsOut c < 16 →
      exec (.roceRdmaReadRequest h key va len) s = .next (after (readRequest idx c c.rxNext key.toNat va.toNat len.toNat true u)))
    ∧ exec (.roceUnsupportedOpcode h) s = .next (after (qpError idx none (sendNak idx 1 u)))

/-- The answers of the host on a reliable connection (R153 to R155): an ACK ends every packet up to its PSN; a sequence-error NAK has the rest sent
again; an access or operational error ends the queue pair; an RNR NAK waits its delay; a CNP cuts the rate; and a packet out of order is answered
with one sequence-error NAK (R134). A packet with a bad ICRC is only counted. -/
def Obligations.ReliableAnswers : Prop :=
  ∀ (h : RoceHdr) (idx : Nat) (c : Ctx) (s : State), s.Hears h idx c →
    let u := s.heard h idx
    let before := acknowledge idx (fun o => numLe (2 ^ 24) o.num ((h.psn.toNat + 2 ^ 24 - 1) % 2 ^ 24)) u
    exec (.roceAck h) s = .next (after (acknowledge idx (fun o => numLe (2 ^ 24) o.num h.psn.toNat) u))
    ∧ (tabHas idx s.prt.probes = false → ∀ delay, exec (.roceNak h 0 delay) s = .next (after (resendAll idx before)))
    ∧ (∀ delay, exec (.roceNak h 2 delay) s = .next (after (qpError idx (some 0x0104) before)))
    ∧ (∀ delay, exec (.roceNak h 3 delay) s = .next (after (qpError idx none before)))
    ∧ (s.param P.rnrRetryLimit = 7 → ∀ delay : BitVec 32, exec (.roceNak h 0x20 delay) s = .next (after (onCtx idx (fun c =>
        { c with rnrs := c.rnrs + 1, timeout := max 1 delay.toNat, sent := c.sent.map fun o => { o with rnrWait := true } }) before)))
    ∧ exec (.roceCnp h) s = .next (after (rateCut idx c.sub u))
    ∧ (c.gapNak = false → 0 < (h.psn.toNat + 2 ^ 24 - c.rxNext) % 2 ^ 24 → (h.psn.toNat + 2 ^ 24 - c.rxNext) % 2 ^ 24 < 2 ^ 23 → c.rxNext < 2 ^ 24 →
      ∀ pos raw, exec (.roceSend h pos raw) s = .next (after (sendNak idx 0 (onCtx idx (fun c => { c with gapNak := true }) u))))
    ∧ ∀ pos raw, exec (.roceSend { h with icrcOk := false } pos raw) s = .next (after (fabCount h.sub.toNat 14 1 (fabCount h.sub.toNat 0 1 (fabCount h.sub.toNat 5 1 s))))

/-- Connection management (R132, R133, R147, R170): a request whose Munatra parameters pass makes a Connecting context and is answered with REP, any
other is refused; RTU makes it Ready; a REP that stays unanswered is repeated and, after the third, the context closes, as it does when the
host rejects it; a disconnect drains the connection, and from Error answers and closes it. -/
def Obligations.ConnectionManagement : Prop :=
  ∀ s : State, s.prt.pair ≠ .fenced →
    (∀ (r : ConnReq), s.rst.hostUp = true → s.subIsUp r.sub.toNat = true → s.qpc.ctx = [] → s.pwr.state = .run → s.pwr.transit = none →
      (s.munatraGrant r.priv false = none → exec (.cmReq r) s = .next (after { s with tx := .cm r.sub.toNat (.rej r.commId.toNat) :: s.tx }))
      ∧ ∀ d ev pull hid m i g, s.munatraGrant r.priv false = some (d, ev, pull, hid, m) → r.rc = true → s.param P.pmtu ≤ r.pmtu → s.freeCtx = some (i, g) →
        exec (.cmReq r) s = .next (after (sendRep i (cacheIn i (addCtx i { ({} : Ctx) with
          gen := g, state := .connecting, src := r.src.toNat, sub := r.sub.toNat, addrs := [r.src.toNat], peer := r.qpn.toNat, commId := r.commId.toNat
          mac := r.mac.toNat, sport := r.sport.toNat, pkey := r.pkey.toNat, localPort := r.sub.toNat, depth := d, events := ev, pull := pull
          hostId := hid, rxNext := r.psn.toNat, acked := r.psn.toNat } s)))))
    ∧ ∀ (qpn : BitVec 24) i c, s.ctxAt qpn.toNat = some (i, c) → c.lot = false →
      (c.state = .connecting → exec (.cmRtu qpn) s = .next (after (connReady i s)) ∧ exec (.cmRej qpn) s = .next (after (closeCtx i s)))
      ∧ (c.state = .connecting → s.prt.round = none → exec (.repRetryTimer qpn) s = .next (after (if 3 ≤ c.reps then closeCtx i s else sendRep i s)))
      ∧ (c.state = .ready → (s.qpc.miss.any fun m => m.2.1 == i) = false → exec (.cmDreq qpn) s = .next (after (onCtx i (fun c => { c with state := .draining }) s)))
      ∧ (c.state = .error → exec (.cmDreq qpn) s = .next (after (closeCtx i { s with tx := .cm c.sub (.drep c.commId) :: s.tx })))

/-- The timers of a connection (R147, R152 to R156): a retry timeout sends everything again with the timeout doubled or ends the queue pair at
RETRY_LIMIT, and stands still in a claim round; after an RNR delay the packets go again; Error lingers and closes; the rate rises; the merge
interval of an event ends; a context comes from its backing store. A checkpoint batch (R152) carries every context that has changed, in the
Paired state only. -/
def Obligations.ConnectionTimers : Prop :=
  (∀ (qpn : BitVec 24) (i : Nat) (c : Ctx) (s : State), s.ctxAt qpn.toNat = some (i, c) →
    (s.prt.round = none → c.timeout ≠ 0 → c.state = .ready → exec (.retryTimeout qpn) s = .next (after (retry i true s)))
    ∧ (s.prt.round.isSome → exec (.retryTimeout qpn) s = .next (after s) ∧ exec (.rnrResendTimer qpn) s = .next (after s))
    ∧ (s.prt.round = none → c.sent.any (·.rnrWait) = true → exec (.rnrResendTimer qpn) s = .next (after (resendAll i (onCtx i (fun c =>
        { c with timeout := s.param P.retryTimeoutInit, sent := c.sent.map fun p => { p with rnrWait := false } }) s))))
    ∧ (exec (.qpErrLingerExpiry qpn) s = .next (after (if c.state = .error then closeCtx i s else s)))
    ∧ (∀ sub : BitVec 4, exec (.cnpRateRaise qpn sub) s = .next (onCtxQuiet i (fun c =>
        { c with rates := (tabUpd sub.toNat (fun r => min 10000 (r + s.param P.cnpRaiseStep * 100)) c.rates).filter fun e => e.2 ≠ 10000 }) s))
    ∧ (∀ (code : BitVec 16) m, tabGet code.toNat c.merges = some m →
      (m.held = 0 → exec (.eventMergeInterval qpn code) s = .next (onCtxQuiet i (fun c => { c with merges := tabDel code.toNat c.merges }) s))
      ∧ (m.held ≠ 0 → c.state = .ready → exec (.eventMergeInterval qpn code) s = .next (sendHead i (eventMsg code.toNat m.detail.toNat m.held m.time)
        (onCtxQuiet i (fun c => { c with merges := tabPut code.toNat {} c.merges }) s))))
    ∧ (s.qpc.fetching = [(i, s.time)] → s.qpc.miss = [] → ∃ t, exec (.qpContextFetchDone i) s = .next t ∧ s.SameCtl t))
    ∧ ∀ s : State,
    (s.prt.pair ≠ .paired → exec .checkpointBatch s = .next s)
    ∧ ((∀ e ∈ s.qpc.ctx, e.2.changed = false) → exec .checkpointBatch s = .next s)
    ∧ ∀ i c, s.prt.pair = .paired → s.qpc.ctx = [(i, c)] → c.changed = true → c.state = .ready → s.capsuleWaits i = false →
      exec .checkpointBatch s = .next (plRecords 0x01 [ckptRecord i c (c.ckptSeq + 1)] (.ckpts [(i, c.ckptSeq + 1)]) (onCtxQuiet i (fun c => { c with
        changed := false, ckptSeq := c.ckptSeq + 1
        ckpts := c.ckpts ++ [{ seq := c.ckptSeq + 1, rxNext := c.rxNext, rxSet := c.rxSet, rxMsg := c.rxMsg, time := s.time }] }) s))

/-- A LOT packet reaches a Ready LOT context in the cache (R135, R136, R146, R149): opcode, header, bytes, the context's index, the context. -/
def Sys2Proof.Machine.State.HearsLot (s : State) (op : Nat) (h : LotHdr) (raw : Bytes) (idx : Nat) (c : Ctx) : Prop :=
  s.rst.hostUp = true ∧ s.subIsUp h.sub.toNat = true ∧ s.param P.lotEnable ≠ 0 ∧ crcGood raw = true ∧ lotShape raw = true ∧ (lotOf raw).op = op
    ∧ h.ce = false ∧ s.ctxAt (lotOf raw).conn = some (idx, c) ∧ c.lot = true ∧ c.addrs.contains h.src.toNat = true ∧ c.lost = false
    ∧ c.state = .ready ∧ c.cached = true

/-- What is counted of such a packet (R148, R160). -/
def Sys2Proof.Machine.State.heardLot (s : State) (h : LotHdr) (idx : Nat) : State :=
  cacheHit idx (fabCount h.sub.toNat 0 1 (fabCount h.sub.toNat 6 1 s))

/-- Loose-order transport (R135 to R141, R154, R155): DATA and SEND that are new and inside the receive window are taken, a packet already received is
acknowledged again, one beyond LOT_RX_WINDOW gets a WINDOW NAK; ACK, NAK, CLOSE and CNP act on the connection; and a packet with a bad PCRC, or any
while LOT_ENABLE is 0, is only counted. -/
def Obligations.LooseOrderTransport : Prop :=
  ∀ (h : LotHdr) (raw : Bytes) (idx : Nat) (c : Ctx) (s : State),
    let p := lotOf raw
    let u := s.heardLot h idx
    let new : Prop := numLe (2 ^ 32) c.rxNext p.pkt = true ∧ c.rxSet.contains p.pkt = false
    let ahead := (p.pkt + 2 ^ 32 - c.rxNext) % 2 ^ 32
    (s.HearsLot 1 h raw idx c → new → ahead < s.param P.lotRxWindow → exec (.lotData h raw) s = .next (after (lotData idx c h.sub.toNat h.src.toNat p u)))
    ∧ (s.HearsLot 2 h raw idx c → new → ahead < s.param P.lotRxWindow → exec (.lotSend h raw) s = .next (after (lotSend idx c h.sub.toNat h.src.toNat p u)))
    ∧ (s.HearsLot 2 h raw idx c → ¬ new → exec (.lotSend h raw) s = .next (after (sendAck idx false (fabCount h.sub.toNat 9 1 u))))
    ∧ (s.HearsLot 1 h raw idx c → new → s.param P.lotRxWindow ≤ ahead →
      exec (.lotData h raw) s = .next (after (sendLotNak h.sub.toNat h.src.toNat c.peer p.msg c.rxNext 5 u)))
    ∧ (s.HearsLot 3 h raw idx c → exec (.lotAck h raw) s = .next (after (lotAck idx p u)))
    ∧ (s.HearsLot 4 h raw idx c → exec (.lotNak h raw) s = .next (after (lotNakIn idx h.sub.toNat p u)))
    ∧ (s.HearsLot 7 h raw idx c → (s.qpc.miss.any fun m => m.2.1 == idx) = false →
      exec (.lotClose h raw) s = .next (after (onCtx idx (fun c => { c with state := .draining }) u)))
    ∧ (s.HearsLot 8 h raw idx c → exec (.lotCnp h raw) s = .next (after (rateCut idx h.sub.toNat u)))
    ∧ (s.rst.hostUp = true → s.subIsUp h.sub.toNat = true → h.ce = false → crcGood raw = false → s.param P.lotEnable ≠ 0 →
      let bad := after (fabCount h.sub.toNat 14 1 (fabCount h.sub.toNat 0 1 (fabCount h.sub.toNat 6 1 s)))
      exec (.lotData h raw) s = .next bad ∧ exec (.lotSend h raw) s = .next bad ∧ exec (.lotAck h raw) s = .next bad ∧ exec (.lotNak h raw) s = .next bad
        ∧ exec (.lotClose h raw) s = .next bad ∧ exec (.lotCnp h raw) s = .next bad ∧ exec (.lotOpenReply h raw) s = .next bad)
    ∧ (s.rst.hostUp = true → s.subIsUp h.sub.toNat = true → h.ce = false → s.param P.lotEnable = 0 →
      let off := after (fabCount h.sub.toNat 2 1 (fabCount h.sub.toNat 0 1 (fabCount h.sub.toNat 6 1 s)))
      exec (.lotData h raw) s = .next off ∧ exec (.lotSend h raw) s = .next off ∧ exec (.lotAck h raw) s = .next off ∧ exec (.lotNak h raw) s = .next off
        ∧ exec (.lotClose h raw) s = .next off ∧ exec (.lotCnp h raw) s = .next off)

/-- LOT connections (R136, R147, R169, R170, R473): an OPEN whose body and Munatra parameters pass makes a Ready context, is answered with OPEN_REPLY status 0
and its connection record goes out; bad parameters are answered with status 3; an OPEN_REPLY that accepts makes the replication session's
connection Ready, and one that refuses closes it. -/
def Obligations.LooseOrderConnections : Prop :=
  ∀ (h : LotHdr) (raw : Bytes) (s : State), s.rst.hostUp = true → s.subIsUp h.sub.toNat = true → s.prt.pair ≠ .fenced → s.param P.lotEnable ≠ 0 →
    crcGood raw = true → lotShape raw = true → (lotOf raw).pay.length = 88 →
    let p := lotOf raw
    let u := fabCount h.sub.toNat 0 1 (fabCount h.sub.toNat 6 1 s)
    (p.op = 5 → s.qpc.ctx = [] → s.pwr.state = .run → s.pwr.transit = none → fieldLe p.pay 0 4 < 2 ^ 24 → 1 ≤ fieldLe p.pay 12 4 → fieldLe p.pay 12 4 ≤ 4 →
      (∀ d ev pull hid m i g, s.munatraGrant (slice p.pay 80 8) true = some (d, ev, pull, hid, m) → s.freeCtx = some (i, g) →
        exec (.lotOpen h raw) s = .next (after (connReady i (openReply h.sub.toNat h.src.toNat (fieldLe p.pay 0 4) 0 (g * 2 ^ 18 + i) m (cacheIn i (addCtx i
          { ({} : Ctx) with gen := g, state := .ready, lot := true, src := h.src.toNat, addrs := openAddrs p.pay, peer := fieldLe p.pay 0 4
                            localPort := h.sub.toNat, depth := d, events := ev, hostId := hid, rxNext := fieldLe p.pay 4 4, rxMsg := fieldLe p.pay 8 4
                            acked := fieldLe p.pay 4 4 } u))))))
      ∧ (s.munatraGrant (slice p.pay 80 8) true = none →
        exec (.lotOpen h raw) s = .next (after (openReply h.sub.toNat h.src.toNat (fieldLe p.pay 0 4) 3 0 [] u))))
    ∧ ∀ i c t, p.op = 6 → s.ctxAt p.conn = some (i, c) → c.replTarget = some t → c.state = .connecting →
      (2 ^ 24 ≤ fieldLe p.pay 0 4 → exec (.lotOpenReply h raw) s = .next (after (closeCtx i u)))
      ∧ (fieldLe p.pay 0 4 < 2 ^ 24 → openAddrs p.pay ≠ [] → exec (.lotOpenReply h raw) s = .next (after (onTarget t (fun x => { x with ready := true })
        (connReady i (onCtx i (fun c => { c with peer := fieldLe p.pay 0 4, rxNext := fieldLe p.pay 4 4, acked := fieldLe p.pay 4 4
                                                 rxMsg := fieldLe p.pay 8 4, retries := 0, addrs := openAddrs p.pay }) u)))))

/-! ## Commands of the hosts -/

/-- The rows whose step is the check of a capsule of their opcode, then its acceptance (R175, R185, R470). -/
def Sys2Proof.Machine.capsuleRows : List (Nat × (BitVec 24 → Instr)) :=
  [(0x01, .read), (0x02, .write), (0x03, .trim), (0x04, .flush), (0x10, .takeOpen), (0x11, .frameAppend), (0x12, .frameRead), (0x13, .takeSeal)
   , (0x14, .takeDelete), (0x15, .takeInfo), (0x40, .identify), (0x41, .volumeInfo), (0x43, .orphanStatus), (0x50, .snapCreate), (0x51, .snapDelete)
   , (0x52, .snapRead), (0x53, .snapFrameRead), (0x54, .snapList), (0x55, .replPoint), (0x56, .replInfo), (0x57, .replPromote), (0x58, .replBegin)
   , (0x59, .replData), (0x5A, .replEnd), (0x5B, .replTakeDelete)]

/-- The oldest unchecked capsule of a queue is checked at its opcode's step (R185, R188): refused, it ends with the failing check's status and no
data moved; passed, it is accepted. A RELEASE that fails is discarded with no response (R183); an ABORT without FENCE acts at once (R194). A
queue whose next capsule is another one, or none, is left alone. -/
def Obligations.CapsuleSteps : Prop :=
  ∀ (qpn : BitVec 24) (s : State),
    (s.unchecked qpn.toNat = none →
      (∀ row ∈ capsuleRows, exec (row.2 qpn) s = .next (after s)) ∧ exec (.release qpn) s = .next (after s) ∧ exec (.abort qpn) s = .next (after s))
    ∧ ∀ (c : Cmd) (i : Nat) (x : Ctx), s.unchecked qpn.toNat = some c → s.ctxAt qpn.toNat = some (i, x) →
      (∀ row ∈ capsuleRows, (c.op = row.1 → s.checkCapsule c x = none → exec (row.2 qpn) s = .next (after (takeIn c s)))
        ∧ (∀ v, c.op = row.1 → s.checkCapsule c x = some v → exec (row.2 qpn) s = .next (after (finish c.acc v.1 0 v.2.1 0 v.2.2 s)))
        ∧ (c.op ≠ row.1 → exec (row.2 qpn) s = .next (after s)))
      ∧ (c.op = 0x0F → s.checkCapsule c x = none → exec (.release qpn) s = .next (after (takeIn c s)))
      ∧ (∀ v, c.op = 0x0F → s.checkCapsule c x = some v → exec (.release qpn) s = .next (after (discardRelease c s)))
      ∧ (c.op = 0x42 → s.checkCapsule c x = none → s.cmdAt c.acc = some c →
        (c.fence = true → exec (.abort qpn) s = .next (after (takeIn c s)))
        ∧ (c.fence = false → exec (.abort qpn) s = .next (after (startCmd { c with recorded := true, phase := .waiting } (takeIn c s)))))

/-- The order of the checks (R185), on a READ or WRITE: a reserved flag or byte, a CID that is outstanding, a volume this head is not Mantle for, an
old generation, a stream volume, a field the opcode does not use, a bad length, a range beyond CAPACITY, a replica's volume for a WRITE, a key
that is not usable: the first that fails decides; a capsule that passes all of them is accepted. -/
def Obligations.BlockCapsuleChecks : Prop :=
  ∀ (qpn : BitVec 24) (c : Cmd) (i : Nat) (x : Ctx) (row : Nat × (BitVec 24 → Instr)) (s : State), s.unchecked qpn.toNat = some c → s.ctxAt qpn.toNat = some (i, x) →
    row ∈ [(0x01, Instr.read), (0x02, .write)] → c.op = row.1 →
    let ends (st detail : Nat) (extra : Bytes) := exec (row.2 qpn) s = .next (after (finish c.acc st 0 detail 0 extra s))
    let plain : Prop := fieldLe c.raw 1 1 / 4 = 0 ∧ allZero (slice c.raw 6 2) = true ∧ allZero (slice c.raw 28 4) = true ∧ allZero (slice c.raw 48 12) = true
    let fresh : Prop := ((s.outstandingOn c.qpn).any fun y => y.acc != c.acc && y.cid == c.cid) = false
    (fieldLe c.raw 1 1 / 4 ≠ 0 → ends 0x03 1 [])
    ∧ (plain → ¬ fresh → ends 0x04 0 [])
    ∧ (plain → fresh → s.volOf c = none → ends 0x06 0 [0xFF])
    ∧ ∀ v, plain → fresh → s.volOf c = some v →
      (s.mantle v = false → ends 0x06 0 (leBytes 1 (s.mantleOf c.volId)))
      ∧ (s.mantle v = true → c.vol / 2 ^ 12 ≠ v.vol / 2 ^ 12 → ends 0x07 (v.vol / 2 ^ 12) [])
      ∧ (s.mantle v = true → c.vol / 2 ^ 12 = v.vol / 2 ^ 12 →
        (v.stream = true → ends 0x08 0 [])
        ∧ (v.stream = false → c.take ≠ 0 → ends 0x03 16 [])
        ∧ (v.stream = false → c.take = 0 → c.param = 0 → c.pull = false → (row.1 = 0x02 → c.hkey = 0 ∧ c.haddr = 0) →
          (c.len = 0 ∨ c.len % 4096 ≠ 0 ∨ s.param P.cmdMaxLen < c.len → ends 0x03 20 [])
          ∧ (c.len ≠ 0 → c.len % 4096 = 0 → c.len ≤ s.param P.cmdMaxLen →
            (v.capacity < c.lba + c.len / 4096 → ends 0x09 0 [])
            ∧ (c.lba + c.len / 4096 ≤ v.capacity → row.1 = 0x02 → s.isReplica v = true → ends 0x0A 0 [])
            ∧ (c.lba + c.len / 4096 ≤ v.capacity → (row.1 = 0x02 → s.isReplica v = false) → v.encrypt = true → s.volKey v = none → ends 0x0B v.keySlot [])
            ∧ (c.lba + c.len / 4096 ≤ v.capacity → (row.1 = 0x02 → s.isReplica v = false) → v.encrypt = false →
              exec (row.2 qpn) s = .next (after (takeIn c s))))))

/-- What the commands that only inform answer when they start (R178, R194): IDENTIFY, VOLUME_INFO and TAKE_INFO end with SUCCESS, the RESULT and EXTRA
of the table; an ABORT of a command that is no longer outstanding is TOO_LATE with DETAIL 1. -/
def Obligations.InformationResults : Prop :=
  ∀ (c : Cmd) (s : State), let s1 := chg c.acc (fun c => { c with phase := .moving }) s
    (c.op = 0x40 → ∃ e, startCmd c s = finish c.acc 0 0 0 s.arrayId e s1 ∧ e = leBytes 4 s.part.chipId ++ leBytes 1 s.head
      ++ leBytes 1 (match s.prt.pair with | .joining => 0 | .paired => 1 | .lone => 2 | .fenced => pairCode .fenced)
      ++ leBytes 2 (match s.cfg.img with | some i => i.vols.countP fun v => s1.mantle v | none => 0) ++ leBytes 4 (match s.cfg.img with | some i => i.seq | none => 0))
    ∧ (∀ v, c.op = 0x41 → s.vol c.param = some v → ∃ e, startCmd c s = finish c.acc 0 0 0 v.capacity e s1
      ∧ e = leBytes 1 (b2n v.stream) ++ leBytes 1 (b2n v.dedup + 2 * b2n v.compress + 4 * b2n v.encrypt + 8 * b2n v.replicate + 16 * b2n v.snapshots)
        ++ leBytes 1 (s1.mantleOf (v.vol % 2 ^ 12)) ++ [0] ++ leBytes 8 (s1.blocksInUse v) ++ leBytes 4 (s.ftl.takes.countP fun e => e.1.1 == v.vol % 2 ^ 12))
    ∧ (∀ v t, c.op = 0x15 → s1.volOf c = some v → s1.spaceStop c v = none → s.take c.volId c.take = some t → ∃ r e, startCmd c s = finish c.acc 0 0 0 r e s1
      ∧ r = t.frames.foldl (fun a f => a + f.2.bytes) 0 ∧ fieldLe e 0 8 = t.frames.length % 2 ^ 64 ∧ fieldLe e 8 1 = takeCode t.state)
    ∧ (c.op = 0x42 → (s1.cmd.cmds.find? fun x => x.qpn == c.qpn && x.cid == c.param % 2 ^ 16 && x.acc != c.acc && !x.orphan) = none →
      startCmd c s = finish c.acc 0x13 0 1 0 [] s1)

/-- Transfer-ready messages, window timeouts and orphan records (R179, R192, R193, R196, R340): a paced command's next window is named; a window that
is not completed in time ends its command with TIMEOUT and the window's number, but not in a hold or a claim round, nor once it is complete; the
oldest orphan record leaves when its time is over. -/
def Obligations.WindowsAndOrphans : Prop :=
  ∀ s : State,
    (∀ (qpn : BitVec 24) (cid : BitVec 16) c, (s.cmd.cmds.find? fun c => c.qpn == qpn.toNat && c.cid == cid.toNat && c.takesData && !c.orphan) = some c →
      c.phase = .moving → exec (.transferReadySend qpn cid) s = .next (after (nameWindow c.acc s)))
    ∧ (∀ i w c, tabGet i s.cmd.wins = some w → s.cmdAt w.acc = some c → w.valid = true → c.held = none → c.takesData = true →
      (w.complete = false → s.pwr.hold = false → s.roundHolds c.vol = false → c.fail = none →
        exec (.windowTimeout i) s = .next (after (finish c.acc 0x11 c.rxBytes (w.seq % 2 ^ 16) 0 [] (dropWindows c.acc s))))
      ∧ (w.complete = true ∨ s.pwr.hold = true ∨ s.roundHolds c.vol = true → exec (.windowTimeout i) s = .next (after s)))
    ∧ ∀ o rest, s.cmd.orphans = o :: rest → exec .orphanKeepExpiry s = .next { s with cmd := { s.cmd with orphans := rest } }

/-! ## Data engines -/

/-- INGEST_BLOCK_DONE (R210, R218, R221, R222): a block all of whose bytes are here enters the write buffer; a block a check has failed fails its
command with the stage; one already there, or beyond the command's last block, changes nothing more. -/
def Obligations.IngestBlocks : Prop :=
  ∀ (qpn : BitVec 24) (cid : BitVec 16) (num lane : Nat) (c : Cmd) (v : VolPolicy) (data : Bytes) (s : State), s.dpAnswers = true →
    (s.cmd.cmds.find? fun c => c.qpn == qpn.toNat && c.cid == cid.toNat && c.isWrite && c.held.isNone) = some c → s.volOf c = some v →
      (num < c.blocks → c.blocksIn.contains num = false → c.blocksBad.contains num = false → s.assemble c.acc (num * 4096) (c.blockLen num) = some data →
        exec (.ingestBlockDone qpn cid num none lane) s = .next (after (bufferBlock c v num (padTo 4096 data) s))
        ∧ ∀ f, f = 0x01 ∨ f = 0x02 ∨ f = 0x03 ∨ f = 0x06 →
          exec (.ingestBlockDone qpn cid num (some f) lane) s = .next (after (dropFrags c.acc (stageFail c.acc f num s))))
      ∧ (c.blocks ≤ num ∨ c.blocksIn.contains num = true → ∀ f, exec (.ingestBlockDone qpn cid num f lane) s = .next (after s))

/-- CMP jobs (R246 to R248): a job is queued as submitted; a compress job of whole blocks ends with a completion record of status 0 and the records
of its blocks in order, where they fit; one whose input is not there ends with status 5. The fingerprint filter (R254, R272, R592): a write of 1
starts a rebuild, and its end swaps the banks. -/
def Obligations.JobsAndFilter : Prop :=
  ∀ (job : CmpJob) (s : State),
    (s.dpAnswers = true → job.op = 1 ∨ job.op = 2 → 1 ≤ job.blocks → job.blocks ≤ 65536 → job.outSize % 16 = 0 →
      exec (.cmpJobSubmit job) s = .next { s with cmp := { s.cmp with jobs := s.cmp.jobs ++ [job] } })
    ∧ (job.op ≠ 1 → job.op ≠ 2 → exec (.cmpJobSubmit job) s = .next s)
    ∧ (∀ a b : Bytes, s.cmp.jobs = [job] → job.op = 1 → job.blocks = 2 → a.length = 4096 → b.length = 4096 →
      (s.dataRecord a).length + (s.dataRecord b).length ≤ job.outSize → ∃ t, exec (.cmpJobDone job.jobId (a ++ b)) s = .next t
        ∧ t.cmp.jobs = [] ∧ t.cmp.done = s.cmp.done ++ [{ jobId := job.jobId, status := 0, inBlocks := 2, inBytes := 8192
                                                          outBytes := (s.dataRecord a).length + (s.dataRecord b).length, out := s.dataRecord a ++ s.dataRecord b }])
    ∧ (s.cmp.jobs = [job] → ∀ n, job.blocks = n + 1 → ∃ t d, exec (.cmpJobDone job.jobId []) s = .next t ∧ t.cmp.jobs = [] ∧ t.cmp.done = s.cmp.done ++ [d]
        ∧ d.status = 5 ∧ d.inBlocks = 0 ∧ d.out = [])
    ∧ (∀ (r : Requester) (val : Word), s.accessStop r 0x50034 4 = none → exec (.fprRebuild r val) s = .next (if val.toNat = 1 then fpRebuild s else s))
    ∧ (s.fpr.rebuilding = true → exec .filterRebuildDone s = .next { s with fpr := { s.fpr with
        active := s.fpr.second, second := [], rebuilding := false, allPositive := false } })
    ∧ (s.fpr.rebuilding = false → exec .filterRebuildDone s = .next s)

/-- The key bus (R258, R259, R261, R269, R270): a load with its key into an empty slot is carried out and, on a good self-test, leaves the slot ready
and the measurement extended; the reasons of a refused load; a failed self-test; erasing takes the slot's key, and its end leaves it empty; a
write without its key is an access error. -/
def Obligations.KeyBus : Prop :=
  ∀ (r : Requester) (val : Word) (s : State), s.accessStop r 0x70008 4 = none →
    let slot := val.toNat % 2 ^ 10
    let kind := val.toNat / 2 ^ 10 % 4
    let refused (why : Nat) := exec (.keyLoad r val) s = .next (kbusRefuse slot why s)
    (r = .jtag ∨ val.toNat / 2 ^ 16 ≠ 0x9640 ∨ s.cip.kbusStat = 1 → exec (.keyLoad r val) s = .next (accessError r 0x70008 true s))
    ∧ (r ≠ .jtag → val.toNat / 2 ^ 16 = 0x9640 → s.cip.kbusStat ≠ 1 →
      (val.toNat / 2 ^ 13 % 4 = 1 →
        (∀ k, tabGet slot s.cip.slots = some k → k.state ≠ .empty → refused 1)
        ∧ (tabGet slot s.cip.slots = none → kind = 0 → refused 2)
        ∧ (tabGet slot s.cip.slots = none → kind = 1 ∨ kind = 2 → val.toNat / 2 ^ 12 % 2 = 0 → s.param P.keyClearAllow = 0 → refused 4)
        ∧ (tabGet slot s.cip.slots = none → kind = 2 → val.toNat / 2 ^ 12 % 2 = 0 → s.param P.keyClearAllow ≠ 0 →
          let key := (s.cip.kbusData.flatMap fun w => leBytes 4 w.toNat).take 32
          exec (.keyLoad r val) s = .next { s with cip := { s.cip with
            kbusStat := 1, kbusReason := 0, kbusSlot := BitVec.ofNat 10 slot
            slots := tabPut slot { state := .loading, kind := 2, wrapped := false } s.cip.slots
            kbusOp := some { slot := slot, kind := 2, wrapped := false, key := key } } }))
      ∧ (val.toNat / 2 ^ 13 % 4 = 2 → tabGet slot s.cip.slots = none → exec (.keyErase r val) s = .next (after (kbusEnd 2 0 slot s)))
      ∧ (val.toNat / 2 ^ 13 % 4 = 2 → ∀ k, tabGet slot s.cip.slots = some k → exec (.keyErase r val) s = .next (after (slotGone slot { s with cip := { s.cip with
          kbusStat := 1, kbusReason := 0, kbusSlot := BitVec.ofNat 10 slot, slots := tabUpd slot (fun k => { k with state := .erasing }) s.cip.slots } }))))
    ∧ (∀ o, s.cip.kbusOp = some o →
      exec (.keyLoadDone true) s = .next (after (msrExtend 4 (leBytes 2 o.slot ++ leBytes 1 o.kind ++ leBytes 1 (b2n o.wrapped) ++ kcvOf o.key)
        (note 0x0701 o.slot (kbusEnd 2 0 o.slot { s with cip := { s.cip with
          slots := tabPut o.slot { state := .ready, kind := o.kind, wrapped := o.wrapped, key := o.key, kcv := kcvOf o.key } s.cip.slots } }))))
      ∧ exec (.keyLoadDone false) s = .next (after (kbusRefuse o.slot 6 (note 0x0704 o.slot { s with cip := { s.cip with
          slots := tabPut o.slot { state := .failed, kind := o.kind, wrapped := o.wrapped } s.cip.slots } }))))
    ∧ ∀ n k, tabGet n s.cip.slots = some k → k.state = .erasing → exec (.keyEraseDone n) s = .next (note 0x0702 n (kbusEnd 2 0 n { s with cip := { s.cip with
        slots := tabDel n s.cip.slots } }))

/-- Saved contexts of GCM messages (R266, R267): a message that is not over at its slice's end is saved in the context RAM and its lane takes the next;
with no room it stays; and a saved one resumes on a free lane of its class where it stopped. -/
def Obligations.SavedContexts : Prop :=
  ∀ (lane ref : Nat) (s : State),
    (∀ m, tabGet lane s.cip.lanes = some m → m.doneBytes + s.param P.cipSlice * 1024 < m.total → s.cip.ctxRam.length < 256 →
      let done := m.doneBytes + s.param P.cipSlice * 1024
      exec (.cipContextSave lane) s = .next (fillLanes 48 { s with cip := { s.cip with
        lanes := tabDel lane s.cip.lanes, ctxSaves := satInc s.cip.ctxSaves
        ctxRam := s.cip.ctxRam ++ [{ cls := m.cls, slot := m.slot, y := (s.ctxAfter m done).1, ctr := (s.ctxAfter m done).2, alen := m.alen, dlen := done * 8, ref := m.ref }] } }))
    ∧ (∀ m, tabGet lane s.cip.lanes = some m → m.total ≤ m.doneBytes + s.param P.cipSlice * 1024 → exec (.cipContextSave lane) s = .next s)
    ∧ (∀ x, s.cip.ctxRam = [x] → x.ref = ref → s.cip.ctxSpill = [] → s.chunkOf ref = none → (classLanes x.cls).contains lane = true → s.laneInService lane = true →
      tabHas lane s.cip.lanes = false → exec (.cipContextResume lane ref) s = .next { s with cip := { s.cip with
        ctxRam := [], lanes := tabPut lane { ref := ref, cls := x.cls, slot := x.slot, total := x.dlen / 8, doneBytes := x.dlen / 8, y := x.y, ctr := x.ctr, alen := x.alen } s.cip.lanes } })

/-! ## Flash translation, parity and rebuild -/

/-- Formatting and replay (R324, R337, R377): FTL_FORMAT with its key on a head without a log starts a format (here with no die of its own
whose bad-block list it would read); without its key, or with a log, it does nothing; the last list's answer ends it; a replay with no good block of the log leaves NO_LOG. -/
def Obligations.FormatAndReplay : Prop :=
  ∀ (r : Requester) (val : Word) (s : State), s.accessStop r 0x90004 4 = none →
    (val.toNat / 2 ^ 16 = 0x9640 → s.ftl.noLog = true → s.ftl.formatting = false → s.ownDies = [] → exec (.ftlFormat r val) s = .next (after { s with
      ftl := { s.ftl with formatting := true, formatErr := false } }))
    ∧ (val.toNat / 2 ^ 16 ≠ 0x9640 ∨ s.ftl.noLog = false → exec (.ftlFormat r val) s = .next (after s))
    ∧ (s.ftl.formatting = false → exec .formatDone s = .next (afterP s))
    ∧ (s.ftl.formatting = true → s.sld.ports = [] → s.segUnits = [] → exec .formatDone s = .next (afterP (note 0x090A (b2n s.ftl.formatErr) (recomputeHealth
        { s with ftl := { s.ftl with formatting := false, noLog := false, ready := true, replay := false } }))))
    ∧ (s.ftl.replay = true → s.ftl.replayed = false → ∀ (blocks jnl : List Bytes) used, (∀ b ∈ blocks, logGood b = false) →
      exec (.ftlReplayDone blocks jnl used) s = .next (afterP (note 0x0909 0 { s with ftl := { s.ftl with noLog := true, replay := false } })))
    ∧ (s.ftl.replay = false → ∀ blocks jnl used, exec (.ftlReplayDone blocks jnl used) s = .next (afterP s))

/-- The timers and paces of the media (R334, R341, R365, R366, R370, R373, R378, R386, R464): each acts on its unit once the maps are ready. -/
def Obligations.MediaTimers : Prop :=
  ∀ (top : Nat) (s : State), s.ftl.ready = true →
    (s.prt.pair = .lone → exec .mapSpillTimer s = .next (after (forceLog 1 (forceLog 0 s))))
    ∧ (s.prt.pair ≠ .lone → exec .mapSpillTimer s = .next (after (forceLog s.head s)))
    ∧ (s.serves top = true → exec (.gcVictimStart top) s = .next (after (startCollect top s)) ∧ exec (.rowIdleCloseExpiry top) s = .next (after (closeRow top s)))
    ∧ (s.blockTops.contains top = true → exec (.partialWaitExpiry top) s = .next (after (flushTop top true (s.ing.buf.length + 1) s)))
    ∧ (∀ (qpn : BitVec 24) (cid : BitVec 16) c, (s.cmd.cmds.find? fun c => c.qpn == qpn.toNat && c.cid == cid.toNat && !c.orphan) = some c → c.op = 0x11 →
      (s.prt.pair = .lone → exec (.padWaitExpiry qpn cid) s = .next (after (flushTake c.volId c.take true (s.ing.buf.length + 2) s)))
      ∧ (s.prt.pair = .paired → exec (.padWaitExpiry qpn cid) s = .next (after s)))
    ∧ exec .journalSpill s = .next (after (spillWaiting s))
    ∧ exec .hemPatrolPace s = .next (after (patrolStep s))
    ∧ (∀ die, (tabGetD die {} s.ftl.dies).missing = true → (s.dieOf die).isSome → s.par.waited.contains die = false →
      exec (.rebuildWaitExpiry die) s = .next (after { s with par := { s.par with waited := s.par.waited ++ [die] } }))
    ∧ (∀ die, (tabGetD die {} s.ftl.dies).missing = false → exec (.rebuildWaitExpiry die) s = .next (after s))

/-! ## Sled links -/

/-- Sled presence and link state (R401, R402, R406, R408, R418, R419): a change starts the debounce; a sled stably present trains and one stably
gone takes its port down; a port that reaches L0 offers its credits and identifies the sled, on one lane only where SLD_X1_ALLOW lets it; a
retrain that completes brings the port back to L0 and one that fails takes it down; a transaction past its timeout has the port retrain. -/
def Obligations.SledPresenceAndLinks : Prop :=
  ∀ (p : Nat) (s : State), p < 32 →
    (∀ low, exec (.prsntChange p low) s = .next (onPort p (fun q => { q with raw := low, bouncing := true }) s))
    ∧ ((s.port p).bouncing = true →
      let t := onPort p (fun q => { q with bouncing := false, present := q.raw }) s
      ((s.port p).raw = true → (s.port p).state = .down → s.portOn p = true → s.sledsOn = true →
        exec (.prsntDebounceExpiry p) s = .next (afterP ((onPort p (fun q => { q with state := .training }) t).send (.oslCtl p 4 0))))
      ∧ ((s.port p).raw = false → (s.port p).present = true → exec (.prsntDebounceExpiry p) s = .next (afterP (portDown p 0 t)))
      ∧ ((s.port p).raw = false → (s.port p).present = false → exec (.prsntDebounceExpiry p) s = .next (afterP t)))
    ∧ ((s.port p).bouncing = false → exec (.prsntDebounceExpiry p) s = .next (afterP s))
    ∧ ((s.port p).live = false → (s.port p).present = true → s.portOn p = true → s.sledsOn = true →
      let up (x1 : Bool) : State := onPort p (fun q => { q with state := .l0, x1 := x1, known := false, infoLeft := [], retrains := [] }) s
      let offer (t : State) : State := oslIdentify p .identify (sendControl p 0x02 (3 * 2 ^ 8 + 8192 * 2 ^ 16) (sendControl p 0x02 (16 * 2 ^ 16) t))
      exec (.sledLinkL0 p none) s = .next (afterP (offer (up false)))
      ∧ (∀ lane, s.flag P.sldX1Allow = true → exec (.sledLinkL0 p (some lane)) s = .next (afterP (offer (note 0x0C04 (p + lane % 2 * 2 ^ 5) (up true)))))
      ∧ ∀ lane, s.flag P.sldX1Allow = false → exec (.sledLinkL0 p (some lane)) s = .next (afterP (onPort p (fun q => { q with state := .down }) s)))
    ∧ ((s.port p).live = true → ∀ lost, exec (.sledLinkL0 p lost) s = .next (afterP s))
    ∧ ((s.port p).state = .recovery →
      (exec (.retrainTimeout p) s = .next (afterP (portDown p (if (s.port p).forTimeout then 2 else 1) s)))
      ∧ ((s.port p).replay = [] → (s.port p).forTimeout = false → s.par.resyncs = [] → exec (.retrainComplete p) s = .next (afterP (pumpSled p
          (onPort p (fun q => { q with state := .l0, forTimeout := false }) s)))))
    ∧ ((s.port p).state ≠ .recovery → exec (.retrainTimeout p) s = .next (afterP s) ∧ exec (.retrainComplete p) s = .next (afterP s))
    ∧ ∀ tag, (tabHas tag (s.port p).tx = false → exec (.sldCmdTimeoutExpiry p tag) s = .next (afterP s))
      ∧ ((s.port p).state = .l0 → tabHas tag (s.port p).tx = true → exec (.sldCmdTimeoutExpiry p tag) s = .next (afterP (retrain p true
          ((onPort p (fun q => { q with tx := tabUpd tag (fun (t : OslTx) => { t with overdue := true }) q.tx }) s).onSld fun l => { l with timeouts := satInc l.timeouts }))))

/-- Flits, control words and rest (R404 to R408, R422, R423): the flit expected next is accepted with its acknowledgement and credits; a bad one is
answered with one NAK; a NAK has the flits behind it sent again or, at SLD_REPLAY_LIMIT, the port retrain; credits are set; coefficients are applied
or refused; an idle port asks for rest, enters it with REST_ACK and leaves it through Recovery. -/
def Obligations.SledFlits : Prop :=
  ∀ (p : Nat) (raw : Bytes) (s : State), p < 32 → (s.port p).state = .l0 →
    let q := s.port p
    let word0 := leNat (raw.take 8)
    (flitGood raw = true → fieldLe raw 0 1 % 16 ≠ 0 → BitVec.ofNat 12 (fieldLe raw 2 2) = q.acked.getD (BitVec.allOnes 12) + 1 →
      exec (.oslFlitReceive p raw) s = .next (afterP (flitTakes p raw (onPort p (fun q => { q with acked := some (BitVec.ofNat 12 (fieldLe raw 2 2)), naked := false }) s))))
    ∧ (flitGood raw = false → fieldLe raw 0 1 % 16 ≠ 0 → q.naked = false → exec (.oslFlitReceive p raw) s = .next (afterP (sendControl p 0x01
        ((q.acked.getD (BitVec.allOnes 12)).toNat * 2 ^ 16) (onPort p (fun q => { q with naked := true }) s))))
    ∧ (flitGood raw = false → fieldLe raw 0 1 % 16 ≠ 0 → q.naked = true → exec (.oslFlitReceive p raw) s = .next (afterP s))
    ∧ (fieldLe raw 0 1 = 0x01 → let t := ackFlits p (BitVec.ofNat 12 (bitsAt word0 16 12)) s
      ((t.port p).replay = [] → exec (.oslNak p raw) s = .next (afterP t))
      ∧ ∀ e rest, (t.port p).replay = e :: rest →
        (e.2.2 < s.param P.sldReplayLimit → exec (.oslNak p raw) s = .next (afterP (replayFlits p t)))
        ∧ (s.param P.sldReplayLimit ≤ e.2.2 → exec (.oslNak p raw) s = .next (afterP (retrain p false t))))
    ∧ (word0 % 256 = 0x02 → exec (.oslInitCredit p raw) s = .next (afterP (pumpSled p
        (onPort p (fun q => { q with credit := modAt (bitsAt word0 8 2) (fun _ => bitsAt word0 16 16) q.credit }) s))))
    ∧ (word0 % 256 = 0x03 → eqFits (bitsAt word0 9 6) (bitsAt word0 15 6) (bitsAt word0 21 6) = false →
      exec (.oslEqSet p raw) s = .next (afterP (let f := (q.eq[bitsAt word0 8 1]?).getD (0, 0, 0)
        sendControl p 0x04 (bitsAt word0 8 1 * 2 ^ 8 + f.1 * 2 ^ 9 + f.2.1 * 2 ^ 15 + f.2.2 * 2 ^ 21 + 2 ^ 27) s)))
    ∧ (word0 % 256 = 0x03 → eqFits (bitsAt word0 9 6) (bitsAt word0 15 6) (bitsAt word0 21 6) = true → bitsAt word0 8 1 < q.eq.length →
      exec (.oslEqSet p raw) s = .next (afterP (sendControl p 0x04 (bitsAt word0 8 1 * 2 ^ 8 + bitsAt word0 9 6 * 2 ^ 9 + bitsAt word0 15 6 * 2 ^ 15 + bitsAt word0 21 6 * 2 ^ 21)
        (onPort p (fun q => { q with eq := setAt (bitsAt word0 8 1) (bitsAt word0 9 6, bitsAt word0 15 6, bitsAt word0 21 6) q.eq }) s))))
    ∧ (word0 % 256 = 0x04 → exec (.oslEqAck p raw) s = .next (afterP (onPort p (fun q => { q with
        eqFar := setAt (bitsAt word0 8 1) (bitsAt word0 9 6, bitsAt word0 15 6, bitsAt word0 21 6) q.eqFar }) s)))
    ∧ (q.tx = [] → q.queue = [] → q.restAsked = false → s.pwr.state = .armed → exec (.sledRestIdle p) s = .next (afterP (sendControl p 0x05 0
        (onPort p (fun q => { q with restAsked := true }) s))))
    ∧ (q.restAsked = true → exec (.oslRestAck p) s = .next (afterP (pumpSled p ((onPort p (fun q => { q with state := .rest, restAsked := false }) s).send (.oslCtl p 3 0)))))
    ∧ exec (.restExit p) s = .next s
    ∧ exec (.restExit p) (onPort p (fun q => { q with state := .rest }) s)
        = .next ((onPort p (fun q => { q with state := .recovery }) (onPort p (fun q => { q with state := .rest }) s)).send (.oslCtl p 2 0))

/-- Replies of the sled bridges (R409, R410, R416, R417, R425, R426): a completion, with or without data, ends the transaction its TAG names with its
status and lets the next start, and its CUR is seen; a NOTICE of a throttle level, of a failed die or of a bad block takes effect. -/
def Obligations.SledReplies : Prop :=
  ∀ (p : Nat) (raw : Bytes) (s : State), p < 32 → (s.port p).state = .l0 → 32 ≤ raw.length →
    let cur := fieldLe raw 8 8
    let current (q : SledPort) : Bool := match q.grant with
      | some (n, _, _) => q.holds && decide (n / 256 = cur / 256)
      | none => false
    let owed (q : SledPort) : List Nat := modAt (fieldLe raw 1 1 % 4) (· + oslUnits (fieldLe raw 4 4 % 2 ^ 20)) q.owed
    (∀ t, tabGet (fieldLe raw 2 2) (s.port p).tx = some t → (∀ old, t.what ≠ .recall old) → fieldLe raw 16 1 ≠ 0x07 →
      let u := claimSeen cur (onPort p (fun q => { q with
        current := current q, owed := owed q, tx := tabDel (fieldLe raw 2 2) q.tx, queue := q.queue.filter (· ≠ fieldLe raw 2 2) }) s)
      let done := afterP (pumpSled p (oslDone p (fieldLe raw 2 2) t (fieldLe raw 16 1) (fieldLe raw 18 2) cur (slice raw 32 (fieldLe raw 4 4 % 2 ^ 20)) u))
      (fieldLe raw 0 1 = 0x80 → exec (.oslCpl p raw) s = .next done) ∧ (fieldLe raw 0 1 = 0x81 → exec (.oslRdata p raw) s = .next done))
    ∧ (fieldLe raw 0 1 ≠ 0x80 → exec (.oslCpl p raw) s = .next (afterP s)) ∧ (fieldLe raw 0 1 ≠ 0x81 → exec (.oslRdata p raw) s = .next (afterP s))
    ∧ (fieldLe raw 0 1 = 0x82 →
      let u := claimSeen cur (onPort p (fun q => { q with current := current q, owed := owed q }) s)
      (fieldLe raw 16 1 = 3 → exec (.oslNotice p raw) s = .next (afterP (onPort p (fun q => { q with throttle := fieldLe raw 20 1 % 8 }) u)))
      ∧ (fieldLe raw 16 1 = 4 → exec (.oslNotice p raw) s = .next (afterP (claimLost p u)))
      ∧ (fieldLe raw 16 1 = 2 → exec (.oslNotice p raw) s = .next (afterP (blockBad (p * 64 + fieldLe raw 17 1) (fieldLe raw 18 2) u)))
      ∧ (fieldLe raw 16 1 = 1 → (s.dieOf (p * 64 + fieldLe raw 17 1)).isSome → exec (.oslNotice p raw) s = .next (afterP (failDie (p * 64 + fieldLe raw 17 1) 0 u))))

/-! ## The partner -/

/-- Partner link groups, sessions and frames (R432 to R435): a group that comes up or goes down is counted and, with the last, the session ends; a
session takes the drawn number with HEAD_ID on top, restarts the classes and says HELLO; a frame whose tag fails is counted; what is not
acknowledged in time goes again. -/
def Obligations.PartnerLink : Prop :=
  ∀ s : State, s.rst.dpUp = true →
    (∀ g, g < s.plGroups → getBit s.prt.groups g = false → let t : State := { s with prt := { s.prt with groups := setBit s.prt.groups g true } }
      exec (.plGroupUp g) s = .next (afterP (plKeyAlarm (note 0x0D0B (popCount t.prt.groups) t))) ∧ exec (.plGroupDown g) s = .next (afterP s))
    ∧ (∀ g, g < s.plGroups → getBit s.prt.groups g = true → setBit s.prt.groups g false = 0 →
      exec (.plGroupDown g) s = .next (afterP (plSessionEnd (note 0x0D0B 0 { s with prt := { s.prt with groups := 0 } }))))
    ∧ (∀ n : BitVec 32, s.prt.groups ≠ 0 → s.prt.session = none → s.prt.pair ≠ .fenced → s.plKey.isSome →
      let t : State := { s with prt := { s.prt with session := some (BitVec.ofNat 32 (n.toNat % 2 ^ 31 + s.head * 2 ^ 31)), fseq := 0, noKey := false } }
      exec (.plSessionStart n) s = .next (afterP (let u := plRestart .map (plRestart .jnl (plRestart .ckpt t))
        sendUpdDone (sendHello (teeDrain (u.ing.teed.foldl (fun s g => sendSeg g s) u))))))
    ∧ (∀ (raw : Bytes) key, s.prt.groups ≠ 0 → s.plKey = some key → 
      gcmOpen key (leBytes 4 (fieldLe (raw.take 48) 4 4) ++ leBytes 8 (fieldLe (raw.take 48) 8 8)) (raw.take 48) (raw.drop 48) = none →
      64 ≤ raw.length → exec (.plFrameReceive raw) s = .next (afterP { s with prt := { s.prt with authFail := satInc s.prt.authFail } }))
    ∧ (∀ m, s.prt.map.sent = [m] → exec (.plResendTimer .map) s = .next (plFrame (plMsgBytes m.mtype m.cseq m.body)
        { s with prt := { s.prt with map := { s.prt.map with sent := [{ m with fseq := s.prt.fseq }] } } }))
    ∧ (s.prt.ckpt.sent = [] → exec (.plResendTimer .ckpt) s = .next s)

/-- A good frame of the partner's session under way, the next in order (R434, R435, R442): it is counted, its acknowledgements are taken, from MAP
to CKPT, its SEG acknowledgement too, and it is a heartbeat. -/
def Obligations.PartnerFrames : Prop :=
  ∀ (raw key : Bytes) (ses : BitVec 32) (n : Nat) (s : State), s.rst.dpUp = true → s.prt.groups ≠ 0 → s.plKey = some key → s.prt.peerSession = some ses →
    s.prt.fack = some n → s.prt.ahead = [] → 64 ≤ raw.length → let h := raw.take 48
    fieldLe h 4 4 = ses.toNat → fieldLe h 8 8 = n + 1 → fieldLe h 2 2 + 64 = raw.length → (fieldLe h 0 1 = 0x11 ∨ fieldLe h 0 1 = 0x12) →
    fieldLe h 1 1 ≠ s.head → (gcmOpen key (leBytes 4 ses.toNat ++ leBytes 8 (n + 1)) h (raw.drop 48)).isSome →
    let counted : State := { s with prt := { s.prt with fack := some (n + 1), ahead := [] } }
    let acked := plAck .map (fieldLe h 44 4) (plAck .jnl (fieldLe h 40 4) (plAck .ckpt (fieldLe h 36 4) counted))
    exec (.plFrameReceive raw) s = .next (afterP (heartbeat false (fieldLe h 24 4) (fieldLe h 28 1) (segReceipts (fieldLe h 32 4)
      { acked with prt := { acked.prt with segAcked := some (fieldLe h 32 4) } })))

/-- The rows that bring records of the checkpoint class, and how (R436). -/
def Sys2Proof.Machine.recordRows : List ((BitVec 32 → BitVec 32 → Bytes → Instr) × (Bytes → CkptMsg)) :=
  [(.plQpCkpt, .qp), (.plCmdRec, .cmd), (.plWinRec, .win), (.plOutRec, .out), (.plConnRec, .conn), (.plHello, .hello)]

/-- The rows that bring a control word, and its code (R436). -/
def Sys2Proof.Machine.wordRows : List ((Bytes → Instr) × Nat) :=
  [(.plLost, 0x01), (.plSegfail, 0x02), (.plDiscard, 0x03), (.plRepairReq, 0x04), (.plPower, 0x05), (.plSynced, 0x06), (.plHandover, 0x07), (.plClaimed, 0x08)
   , (.plUpdDone, 0x09)]

/-- Messages of the partner (R434 to R436, R439, R441, R451): one of the checkpoint class that is the next in order is applied once the segments of its
SEG_FENCE are here, and waits for them otherwise; a control word is a message of that class (the model's choice, log entry 29); a journal or map
message goes to the shadow in the Paired state; each is confirmed at once; one out of order is discarded. -/
def Obligations.PartnerMessages : Prop :=
  ∀ (cseq fence : BitVec 32) (body : Bytes) (s : State), s.plTakes = true → s.prt.ckpt.rxNext < 2 ^ 32 →
    (s.prt.fenceWait = [] →
      let next : State := { s with prt := { s.prt with fenceWait := [], ckpt := { s.prt.ckpt with rxNext := (s.prt.ckpt.rxNext + 1) % 2 ^ 32 } } }
      (∀ row ∈ recordRows, cseq.toNat = s.prt.ckpt.rxNext →
        (s.fenceMet fence.toNat = true → exec (row.1 cseq fence body) s = .next (afterP (plConfirm (ckptApply fence.toNat (row.2 body) next))))
        ∧ (s.fenceMet fence.toNat = false → exec (row.1 cseq fence body) s = .next (afterP (plConfirm
            { s with prt := { s.prt with fenceWait := [(cseq.toNat, fence.toNat, row.2 body)] } }))))
      ∧ (∀ row ∈ recordRows, cseq.toNat ≠ s.prt.ckpt.rxNext → exec (row.1 cseq fence body) s = .next (afterP s))
      ∧ ∀ row ∈ wordRows, exec (row.1 body) s = .next (afterP (plConfirm (controlIn row.2 body next))))
    ∧ (cseq.toNat = s.prt.jnl.rxNext → s.prt.pair = .paired → exec (.plJnl cseq body) s = .next (afterP (plConfirm (shadowJnl body
        { s with prt := { s.prt with jnl := { s.prt.jnl with rxNext := (s.prt.jnl.rxNext + 1) % 2 ^ 32 } } }))))
    ∧ (cseq.toNat ≠ s.prt.jnl.rxNext → exec (.plJnl cseq body) s = .next (afterP s))
    ∧ (cseq.toNat = s.prt.map.rxNext → s.prt.pair = .paired → exec (.plMap cseq body) s = .next (afterP (plConfirm (shadowMap body (mapTaken s)))))
    ∧ (s.holdsShadow = true → exec (.plRelease body) s = .next (afterP (plConfirm (shadowRelease body (mapTaken s)))))
    ∧ (s.holdsShadow = true → ∀ u, shadowSeg body s = (false, u) → exec (.plSeg body) s = .next (afterP (plConfirm (ckptDrain u.prt.fenceWait.length u))))
    ∧ (s.holdsShadow = true → ∀ u, shadowSeg body s = (true, u) → exec (.plSeg body) s = .next (afterP (plConfirm (plControl 0x02 (leBytes 4 (fieldLe body 20 4))
        (ckptDrain u.prt.fenceWait.length u)))))
    ∧ (let reply : State := { s with prt := { s.prt with reply := { s.prt.reply with rxNext := (cseq.toNat + 1) % 2 ^ 32 } } }
      exec (.plFill cseq body) s = .next (afterP (fillIn body reply)) ∧ exec (.plRepair cseq body) s = .next (afterP (repairIn body reply)))

/-- Heartbeats and the pulse link (R437, R438, R442): a heartbeat counts on and sends the pulse frame, with the partner link's idle frame in Run; a bad
pulse frame is counted; a command in a good frame is done once; a period without a heartbeat is judged, and once both links have missed
HB_MISSES of them the partner is lost; PL_LOST_WAIT decides by PREF_HEAD. -/
def Obligations.PulseLink : Prop :=
  ∀ (raw : Bytes) (s : State), s.rst.aoUp = true →
    (s.beats = true → s.prt.pulseCmd.2.2.2 = 0 →
      let t : State := { s with prt := { s.prt with hbSeq := s.prt.hbSeq + 1, pulseCmd := (s.prt.pulseCmd.1, 0, 0, 0) } }
      (s.pwr.state = .run → exec .pulseSend s = .next (plFrame [] (t.send (.pulse t.pulseFrame))))
      ∧ (s.pwr.state = .quiet → exec .pulseSend s = .next (t.send (.pulse t.pulseFrame))))
    ∧ (s.beats = false → exec .pulseSend s = .next s)
    ∧ (pulseGood raw = false → let bad := afterP { s with prt := { s.prt with pulseErr := satInc s.prt.pulseErr } }
      exec (.pulseFrameReceive raw) s = .next bad ∧ exec (.pulseWake raw) s = .next bad ∧ exec (.pulseResetReq raw) s = .next bad
        ∧ exec (.pulseYield raw) s = .next bad ∧ exec (.pulseHandover raw) s = .next bad)
    ∧ (pulseGood raw = true → fieldLe raw 0 1 = 1 → fieldLe raw 1 1 ≠ s.head →
      let beat := heartbeat true (fieldLe raw 4 4) (fieldLe raw 8 1) s
      let id : BitVec 8 := BitVec.ofNat 8 (fieldLe raw 2 1)
      let took : State := { beat with prt := { beat.prt with peerCmdId := some id } }
      exec (.pulseFrameReceive raw) s = .next (afterP beat)
      ∧ (s.prt.peerCmdId ≠ some id →
        (fieldLe raw 9 1 = 1 → exec (.pulseWake raw) s = .next (afterP (wake 2 took)))
        ∧ (fieldLe raw 9 1 = 2 → exec (.pulseResetReq raw) s = .next (afterP (resetReq took)))
        ∧ (fieldLe raw 9 1 = 3 → exec (.pulseYield raw) s = .next (afterP (partnerGives false took)))
        ∧ (fieldLe raw 9 1 = 4 → fieldLe raw 10 2 = 0 → exec (.pulseHandover raw) s = .next (afterP (partnerGives true took))))
      ∧ (s.prt.peerCmdId = some id → exec (.pulseWake raw) s = .next (afterP beat) ∧ exec (.pulseYield raw) s = .next (afterP beat)))
    ∧ (s.beats = true → s.prt.peerSeen = true → s.prt.lostRaised = false → s.prt.missPl = s.param P.hbMisses → s.prt.missPulse + 1 = s.param P.hbMisses →
      exec (.heartbeatPeriodMiss true) s = .next (afterP (let t := raise 0x0D01 0 .all { s with prt := { s.prt with
          missPulse := s.prt.missPulse + 1, hbMiss := satInc s.prt.hbMiss, lostRaised := true, hbPl := none, hbPulse := none } }
        if s.pwr.state = .quiet ∨ s.pwr.state = .dormant then wake 5 t else partnerGone (wake 5 t))))
    ∧ (s.beats = false → ∀ pulse, exec (.heartbeatPeriodMiss pulse) s = .next (afterP s))
    ∧ (s.prt.pair = .paired → s.prt.hold = true → s.prt.plDown = true →
      (s.rst.prefHead = true → exec .plLostWaitExpiry s = .next (afterP (startRound .linkLost false s)))
      ∧ (s.rst.prefHead = false → exec .plLostWaitExpiry s = .next (afterP (enterFenced 2 (pulseCommand 3 0 s)))))
    ∧ (s.prt.pair ≠ .paired → exec .plLostWaitExpiry s = .next (afterP s))

/-- PRT_CTRL and the waits of a round and of a solo start (R438, R444, R449 to R452, R461): with its key the operation the value names, without it an
access error; a round whose CLAIM_WAIT is over is decided by what has been granted: more than half wins, less than half is Fenced; JOIN_WAIT
without a partner decides at once where no sled lives. -/
def Obligations.PairingCommands : Prop :=
  ∀ (r : Requester) (val : Word) (s : State),
    (s.accessStop r 0xD001C 4 = none →
      let rows : List (Requester → Word → Instr) := [.prtCtrlGiveVolumes, .prtCtrlHandback, .prtCtrlSoloStart, .prtCtrlSendResetReq]
      ∀ row ∈ rows,
        (val.toNat / 2 ^ 16 ≠ 0x9640 → exec (row r val) s = .next (afterP (accessError r 0xD001C true s)))
        ∧ (val.toNat / 2 ^ 16 = 0x9640 →
          (val.toNat % 16 = 1 → exec (row r val) s = .next (afterP (giveVolumes s)))
          ∧ (val.toNat % 16 = 2 → exec (row r val) s = .next (afterP (startHandback s)))
          ∧ (val.toNat % 16 = 3 → s.prt.pair = .joining → exec (row r val) s = .next (afterP (startRound .solo false s)))
          ∧ (val.toNat % 16 = 4 → exec (row r val) s = .next (afterP (pulseCommand 2 0 s)))))
    ∧ (∀ d : Round, s.prt.round = some d →
      (s.claimSleds.length < 2 * d.granted.length → d.tie = false → exec .claimWaitExpiry s = .next (afterP (roundOver d 1 s)))
      ∧ (2 * d.granted.length < s.claimSleds.length → exec .claimWaitExpiry s = .next (afterP (roundOver d 2 s))))
    ∧ (s.prt.round = none → exec .claimWaitExpiry s = .next (afterP { s with prt := { s.prt with joinWait := [] } }))
    ∧ (s.prt.pair ≠ .joining → exec .joinWaitExpiry s = .next (afterP s))
    ∧ (s.prt.pair = .joining → s.prt.peerSeen = false → s.prt.round = none → s.rst.dpUp = true → s.prt.soloWait = [] → (∀ p ∈ s.claimSleds, (s.port p).live = false) →
      exec .joinWaitExpiry s = .next (afterP (soloDecide { s with prt := { s.prt with soloReads := [], soloWait := [] } })))

/-! ## Snapshots and replication -/

/-- Snapshot pages and replication's timers (R467, R473, R474, R479, R488): a page of a snapshot that is being released goes, in Run; REPL_PERIOD orders a
point of a source volume this head is Mantle for; REPL_SESSION_WAIT has stopped points start again and the connection opened anew; the lag is
compared with its alarm. -/
def Obligations.ReplicationTimers : Prop :=
  ∀ s : State,
    (∀ slot page, s.ftl.ready = true → exec (.preservedPageRelease slot page) s = .next (after (releasePage slot page s)))
    ∧ (∀ slot page, s.ftl.ready = false → exec (.preservedPageRelease slot page) s = .next (after s))
    ∧ (∀ vol v t, s.vol vol = some v → s.role v = .source t → v.stream = false → s.mantle v = true → s.ftl.ready = true →
      (s.cmd.cmds.any fun c => c.qpn == headQpn && c.volId == vol % 2 ^ 12) = false →
      exec (.replPeriodExpiry vol) s = .next (after { s with cmd := { s.cmd with nextAcc := s.cmd.nextAcc + 1, cmds := s.cmd.cmds ++
        [{ acc := s.cmd.nextAcc, qpn := headQpn, cid := 0, op := 0x55, vol := v.vol, phase := .waiting, orphan := true }] } }))
    ∧ (∀ vol, s.vol vol = none → exec (.replPeriodExpiry vol) s = .next (after s))
    ∧ (∀ t, t < 16 → s.sourcesOf t = [] → exec (.replSessionWaitExpiry t) s = .next (after s))
    ∧ (∀ t v, t < 16 → s.sourcesOf t = [v] → exec (.replSessionWaitExpiry t) s = .next (after (openTarget t (onSource (v.vol % 2 ^ 12) (fun x => { x with stopped := false }) s))))
    ∧ (∀ t, t < 16 → s.param P.replLagAlarm * 1000 ≤ s.tgtLag t → (s.target t).lagRaised = false →
      exec (.replLag t) s = .next (raise 0x0E04 t .all (onTarget t (fun x => { x with lagRaised := true }) s)))
    ∧ (∀ t, t < 16 → s.tgtLag t < s.param P.replLagAlarm * 1000 → exec (.replLag t) s = .next (onTarget t (fun x => { x with lagRaised := false }) s))

/-! ## Buffer memory -/

/-- The DRAM controller at work (R498 to R504, R506, R508, R510): a line is read, corrected and kept, or raised as uncorrectable; the
scrubber works in Run and passes over bytes that no address uses; a refresh goes out of the kind DDR_REF_SB chooses; MR4's readings double the refresh and say
so; the activate table is cleared with its window; and channels leave self-refresh. -/
def Obligations.BufferMemory : Prop :=
  ∀ s : State,
    (∀ (armed : Bool) (addr : BitVec 40) (raw : Bytes), let place := s.ddrPlace armed addr.toNat
      s.channelUp place.1 = true → place.2 < s.buf.channelBytes →
        let read := correctLine place.1 (s.ddrLine place.2) (padTo 80 raw) (addr.toNat / 64) (actRow place.1 (s.ddrLine place.2) s)
        let kept : State := { read.2 with buf := { read.2.buf with lastLine := some (addr.toNat / 64 * 64, armed, read.1.data) } }
        (∀ d, read.1.data = some d → exec (.dramLineRead armed addr raw) s = .next (after kept))
        ∧ (read.1.data = none → s.regionOf armed (addr.toNat / 64 * 64) = none →
          exec (.dramLineRead armed addr raw) s = .next (after (channelCount place.1 (lineRaised place.1 armed read.1.address (addr.toNat / 64 * 64) kept)))))
    ∧ (∀ raw, s.pwr.state ≠ .run → exec (.scrubStep raw) s = .next (after s))
    ∧ (∀ raw, let ch := s.buf.scrubPos / max 1 (s.buf.channelBytes / 64)
      let off := s.buf.scrubPos % max 1 (s.buf.channelBytes / 64) * 64
      s.pwr.state = .run → s.channelUp ch = true → s.ddrAddress ch off = none → exec (.scrubStep raw) s = .next (after { s with
        buf := { s.buf with scrubPos := (s.buf.scrubPos + 1) % max 1 s.scrubLines } }))
    ∧ (∀ ch rank, s.channelUp ch = true → rank < s.buf.ranks →
      exec (.refreshDue ch rank) s = .next { s with
        buf := { s.buf with refreshes := tabUpdD (ch, rank) 0 (· + 1) s.buf.refreshes }
        tx := .ddr ch rank (if s.flag P.ddrRefSb then 3 else 2) :: s.tx }
      ∧ (tabGet (ch, rank) s.buf.doubled = none → exec (.mr4Poll ch rank 1) s = .next (note 0x0804 (ch + 16 * (rank % 4) + 64) { s with
        buf := { s.buf with hot := s.buf.hot.filter (· ≠ (ch, rank)), doubled := tabPut (ch, rank) 0 s.buf.doubled } }))
      ∧ (tabGet (ch, rank) s.buf.doubled = none → exec (.mr4Poll ch rank 0) s = .next { s with buf := { s.buf with hot := s.buf.hot.filter (· ≠ (ch, rank)) } }))
    ∧ exec .actTableWindow s = .next { s with buf := { s.buf with acts := [] } }
    ∧ (s.buf.exiting = 0 → ∀ l, exec (.selfRefreshExitDone l) s = .next (after s))
    ∧ (s.buf.exiting ≠ 0 → exec (.selfRefreshExitDone []) s = .next (after (l2Release { s with buf := { s.buf with
        selfRef := s.buf.selfRef &&& ~~~s.buf.exiting, exiting := 0, acts := s.buf.acts.filter fun e => !getBit s.buf.exiting e.1.1 } })))

/-! ## Adaptive control -/

/-- The adaptive loops' samples (R518, R519, R521 to R525, R529, R530, R537): a cluster whose work asks for more runs at its demand point at once; a lane
that is not up, and every loop below Run, is left alone; collection's mode follows the free segments; ADP_FREEZE's bits freeze, and a bit written
0 clears its cause. -/
def Obligations.AdaptiveLoops : Prop :=
  ∀ s : State,
    (∀ busy tj f, s.rst.dpUp = true → s.pwr.state = .run → tj < (s.param P.vfTjSoft : Int) → s.adp.freq[0]? = some f → f ≠ 0 →
      f < s.vfPoint (s.vfDemand f (min busy 1000) false false) → ∃ t, exec (.alVfSample [(busy, false)] tj) s = .next t
        ∧ t.adp.freq = setAt 0 (s.vfPoint (s.vfDemand f (min busy 1000) false false)) s.adp.freq)
    ∧ (∀ cs tj, s.pwr.state ≠ .run → exec (.alVfSample cs tj) s = .next s)
    ∧ (∀ i m, exec (.alEqSample [(i, m)]) s = .next (afterP (eqLane i m s)))
    ∧ (∀ i m, s.eqRuns i = false → exec (.alEqSample [(i, m)]) s = .next (afterP s))
    ∧ (∀ dies, s.pwr.state ≠ .run ∨ s.ftl.ready = false → exec (.alGcSample dies) s = .next (after s))
    ∧ (∀ dies top, s.pwr.state = .run → s.ftl.ready = true → (s.blockTops.filter fun u => s.serves u && (s.top u).formatted) = [top] → s.pwr.hold = false →
      ∃ t, exec (.alGcSample dies) s = .next (after t) ∧ (t.top top).mode = s.gcModeOf top)
    ∧ (∀ latency rate, s.pwr.state = .run → s.rbRuns = [] → exec (.alRbSample latency rate) s = .next { s with
        par := { s.par with rbRate := word (satN 32 rate) }, adp := { s.adp with inst := s.adp.inst.filter fun e => e.1.1 ≠ 5 } })
    ∧ (∀ latency rate, s.pwr.state ≠ .run → exec (.alRbSample latency rate) s = .next s)
    ∧ ∀ (r : Requester) (val : Word), s.accessStop r 0xF0000 4 = none → exec (.adpFreezeWrite r val) s = .next { s with
        adp := { s.adp with freeze := val.setWidth 6, cause := s.adp.cause &&& val.setWidth 6 } }

/-! ## Management -/

/-- The rows that bring a management datagram (R545): what the datagram asks for, its MOP says. -/
def Sys2Proof.Machine.mgmtRows : List (Option (BitVec 32) → Bytes → Instr) := [.mgmtRead, .mgmtWrite, .mgmtUpdBlock, .mgmtEvrRead]

/-- Management datagrams (R545, R554, R564, R591): one whose MCRC fails, that is itself a REPLY, or whose source MGMT_ALLOW does not admit is discarded;
another is answered with a REPLY that echoes its MSEQ, with the words read, the access error that stopped it, the events of the ring, or
MSTAT 2 for a request that is malformed. -/
def Obligations.ManagementDatagrams : Prop :=
  ∀ (src : Option (BitVec 32)) (raw : Bytes) (s : State), s.rst.mgUp = true → ∀ row ∈ mgmtRows,
    (crcGood raw = false ∨ fieldLe raw 0 1 = 5 ∨ (src.any fun a => !s.mgmtAllows a.toNat) = true → exec (row src raw) s = .next s)
    ∧ (20 ≤ raw.length → crcGood raw = true → fieldLe raw 0 1 ≠ 5 → (src.any fun a => !s.mgmtAllows a.toNat) = false →
      let addr := fieldLe raw 8 4
      let count := fieldLe raw 12 4
      let data := slice raw 16 (fieldLe raw 2 2)
      (raw.length ≠ 20 + fieldLe raw 2 2 → exec (row src raw) s = .next (mgmtReply raw (2, []) s))
      ∧ (raw.length = 20 + fieldLe raw 2 2 →
        (fieldLe raw 0 1 = 1 → 1 ≤ count → count ≤ 256 → ∀ a u, mgmtReadWords count addr [] s = (a, u) → u.rst.mgUp = true → exec (row src raw) s = .next (mgmtReply raw a u))
        ∧ (fieldLe raw 0 1 = 2 → 1 ≤ count → count ≤ 256 → fieldLe raw 2 2 = 4 * count → ∀ a u, mgmtWriteWords count addr data s = (a, u) →
          (u.rst.mgUp = true → exec (row src raw) s = .next (mgmtReply raw a u)) ∧ (u.rst.mgUp = false → exec (row src raw) s = .next u))
        ∧ (fieldLe raw 0 1 = 3 → ∀ a u, mgmtBlock data s = (a, u) → u.rst.mgUp = true → exec (row src raw) s = .next (mgmtReply raw a u))
        ∧ (fieldLe raw 0 1 = 4 → 1 ≤ count → count ≤ 128 →
          exec (row src raw) s = .next (mgmtReply raw (0, (List.range count).flatMap fun k => s.ringBytes (addr + k)) s))
        ∧ (fieldLe raw 0 1 = 4 → count = 0 ∨ 128 < count → exec (row src raw) s = .next (mgmtReply raw (2, []) s))))

/-- Sensors and fans (R90, R547 to R550): a rail's sample is its sensor's value and, at its threshold, a warning; the hottest junction trips; a board
sensor that does not answer keeps its value and is faulty; the duty follows the junction between FAN_TMIN and FAN_TMAX, and is full once a fan
has failed. -/
def Obligations.SensorsAndFans : Prop :=
  ∀ s : State, s.rst.mgUp = true →
    (∀ i v, 8 ≤ i → i < 24 → ∃ t, exec (.junctionSample [(i, v)]) s = .next (after t) ∧ (t.sensor i).val = v ∧ (t.sensor i).fault = false
      ∧ (s.sensTh i false ≤ 100 * v → (t.sensor i).warn = true) ∧ (100 * v < s.sensTh i false - (s.sensTh i false).natAbs / 100 → (t.sensor i).warn = false)
      ∧ t.rst = s.rst)
    ∧ (∀ i v, i < 8 → s.rst.trip = false → exec (.junctionSample [(i, v)]) s = .next (after (thermalTrip (v / 16) (sensRead i v s))))
    ∧ (∀ n mode, n < 32 → 1 ≤ bitsAt (s.sensDesc n) 17 3 → bitsAt (s.sensDesc n) 17 3 ≤ 4 → (s.sensor (32 + n)).fault = false →
      ∃ t, exec (.sensorPoll [(n, none, mode)]) s = .next (note 0x1005 (32 + n) t) ∧ (t.sensor (32 + n)).fault = true ∧ (t.sensor (32 + n)).val = (s.sensor (32 + n)).val)
    ∧ (∀ tach, s.mgt.fanFailed = true → ∃ t, exec (.fanUpdate tach) s = .next (driveFans t) ∧ t.mgt.duty = 100)
    ∧ (∀ tach v, s.mgt.fanFailed = false → s.mgt.sensors = [(0, v)] → ∃ t, exec (.fanUpdate tach) s = .next (driveFans t) ∧ t.mgt.duty = BitVec.ofNat 7 (s.fanDuty v.val)
      ∧ (v.val ≤ ((16 * s.param P.fanTmin : Nat) : Int) → s.fanDuty v.val = s.param P.fanMinDuty))
    ∧ (∀ fan rpm, fan < s.param P.fanCount → fan < 4 → rpm.toNat < s.param P.fanTachMin → exec (.fanTachFail fan rpm) s = .next (driveFans (note 0x1006 fan { s with
        mgt := { s.mgt with fanFailed := true, duty := 100, tach := setAt fan rpm s.mgt.tach } })))
    ∧ (∀ fan rpm, s.param P.fanTachMin ≤ rpm.toNat → exec (.fanTachFail fan rpm) s = .next s)

/-- The measurement registers. MSR_EXT_GO (R559): with KEY 0x9640, a register of MSR6 to MSR15 and no job running it extends that register with
the 48 bytes given; a write that names MSR0 to MSR5, that carries another KEY, or while BUSY is set changes nothing and is an access error. A
read of MSR_VAL0 (R560) latches the whole value of the register that MSR_SEL names, and MSR_VAL1 to MSR_VAL11 return the words latched, in
every state that keeps the requester's latch, which an extend does. -/
def Obligations.MeasurementRegisters : Prop :=
  ∀ (r : Requester) (val : Word) (s : State),
    (s.accessStop r 0x120070 4 = none →
      (val.toNat / 2 ^ 16 = 0x9640 → 6 ≤ val.toNat % 16 → s.msr.busy = false →
        exec (.msrExtGo r val) s = .next (msrExtend (val.toNat % 16) (s.msr.extData.flatMap fun w => leBytes 4 w.toNat) s))
      ∧ (val.toNat % 16 < 6 ∨ val.toNat / 2 ^ 16 ≠ 0x9640 ∨ s.msr.busy = true →
        exec (.msrExtGo r val) s = .next (accessError r 0x120070 true s) ∧ ∃ e b, accessError r 0x120070 true s = { s with evr := e, bus := b }))
    ∧ (s.accessStop r 0x120004 4 = none →
      exec (.msrVal0Read r) s = .next (returned r (s.selMsr.headD 0).toNat (onBusPort r (fun p => { p with msrLatch := s.selMsr }) s))
      ∧ ∀ (k : Nat) (u : State), 1 ≤ k → k ≤ 11 → (u.busPort r).msrLatch = s.selMsr → u.accessStop r (0x120004 + 4 * k) 4 = none →
        exec (.readRcField r (BitVec.ofNat 24 (0x120004 + 4 * k)) 4) u = .next (returned r ((s.selMsr[k]?).getD 0).toNat u)
          ∧ ∀ n data, ((msrExtend n data u).busPort r).msrLatch = s.selMsr)

/-- Debug mode, the event recorder and digest jobs (R546, R553 to R557, R561): the mode is set with its key where DEBUG_ALLOW lets it, measured
and recorded, and cleared; EVR_CTRL and EVR_CLEAR take effect; nothing is spilt without a region, and an entry goes to the sector under way; a
digest job starts and ends. -/
def Obligations.DebugAndRecorder : Prop :=
  ∀ (r : Requester) (val : Word) (s : State),
    (s.accessStop r 0x100008 4 = none →
      (val.toNat / 2 ^ 16 = 0x9640 → val.toNat % 2 = 1 → s.mgt.debug = false → s.flag P.debugAllow = true → exec (.mgtDebugSet r val) s = .next (note 0x1008 0
        (msrExtend 1 [1] { s with mgt := { s.mgt with debug := true } })))
      ∧ (val.toNat / 2 ^ 16 = 0x9640 → val.toNat % 2 = 1 → s.flag P.debugAllow = false → s.mgt.recovery = false → exec (.mgtDebugSet r val) s = .next s)
      ∧ (val.toNat / 2 ^ 16 = 0x9640 → val.toNat % 2 = 0 → exec (.mgtDebugClear r val) s = .next { s with mgt := { s.mgt with debug := false } })
      ∧ (val.toNat / 2 ^ 16 ≠ 0x9640 → let bad := accessError r 0x100008 true s
        exec (.mgtDebugSet r val) s = .next bad ∧ exec (.mgtDebugClear r val) s = .next bad))
    ∧ (s.accessStop r 0x110000 4 = none → exec (.evrCtrlWrite r val) s = .next { s with
        evr := { s.evr with freeze := val.getLsbD 0, trigEn := val.getLsbD 1 } })
    ∧ (s.accessStop r 0x110040 4 = none →
      (val.getLsbD 16 = true → exec (.evrClear r val) s = .next { s with evr := { s.evr with recs := [], prev := [] } })
      ∧ (val.getLsbD 16 = false → exec (.evrClear r val) s = .next { s with evr := { s.evr with
          recs := tabDel (val.toNat % 2 ^ 16) s.evr.recs, prev := tabDel (val.toNat % 2 ^ 16) s.evr.prev } }))
    ∧ (∀ n, fieldLe s.cfg.opt 32 4 < 65536 → exec (.evrSpill n) s = .next s)
    ∧ (∀ n e f, s.rst.mgUp = true → s.cfg.img.isSome → s.cfg.reread = none → s.upd.staging = [] → 65536 ≤ fieldLe s.cfg.opt 32 4 → 0 < n → s.evr.ring = [e] →
      s.evr.spilled ≤ e.eseq → s.evr.sectorFill = some f → f + 1 < 2047 → ∃ t, exec (.evrSpill n) s = .next t ∧ t.evr.spilled = e.eseq + 1
        ∧ t.evr.sectorFill = some (f + 1) ∧ ∃ a, t.tx = .spi s.cfg.src (.program a e.bytes) :: s.tx)
    ∧ (s.accessStop r 0x120088 4 = none → val = 1 → s.msr.busy = false → exec (.msrDigGo r val) s = .next { s with msr := { s.msr with busy := true, jobDone := false } })
    ∧ (s.msr.busy = true → ∃ t, exec .msrDigDone s = .next t ∧ t.msr.busy = false ∧ t.msr.jobDone = true ∧ t.msr.regs = s.msr.regs)
    ∧ (s.msr.busy = false → exec .msrDigDone s = .next s)

/-- Chain frames (R562, R563, R571, R572): a link that comes up carries again; a BLOCK or TOKEN whose CRC fails is answered with NAK and counted; an ACK
frees its frame and lets the next go; a NAK, or tCHRS without an answer, has the frame sent again, and the sixteenth resend without one takes the
link down; the origin sends a token each period, and another head without a good one for three says so once. -/
def Obligations.ChainFrames : Prop :=
  ∀ (dn : Bool) (raw : Bytes) (s : State), s.rst.mgUp = true →
    (exec (.chainLinkUp true) s = .next { s with
      mgt := { s.mgt with linkDn := true }, chain := { s.chain with dn := { s.chain.dn with down := false } } })
    ∧ (exec (.chainLinkUp false) s = .next { s with
      mgt := { s.mgt with linkUp := true }, chain := { s.chain with up := { s.chain.up with down := false } } })
    ∧ (∀ i, s.mgt.recovery = false → s.cfg.img = some i → 16 ≤ raw.length → fieldLe raw 2 2 = (raw.drop 16).length →
      (fieldLe raw 0 1 = 1 → blockGood (raw.drop 16) = false → exec (.chainBlock false raw) s = .next ({ s with
        upd := { s.upd with crcErr := satInc s.upd.crcErr }, tx := .chain false (chainFrame 3 0 (leBytes 4 (fieldLe raw 4 4))) :: s.tx }))
      ∧ (fieldLe raw 0 1 = 1 → ∀ u, takeBlock (raw.drop 16) s = (.acked, u) → exec (.chainBlock false raw) s = .next (chainAnswer false 2 (fieldLe raw 4 4) u))
      ∧ (fieldLe raw 0 1 = 2 → exec (.chainAck dn raw) s = .next (chainAcked dn (fieldLe raw 16 4) s))
      ∧ (fieldLe raw 0 1 = 3 → exec (.chainNak dn raw) s = .next (chainResend dn (fieldLe raw 16 4) s))
      ∧ (fieldLe raw 0 1 = 4 → exec (.chainToken false raw) s = .next (tokenIn (fieldLe raw 4 4) (raw.drop 16) s))
      ∧ (fieldLe raw 0 1 = 4 → tokenGood (raw.drop 16) = false → exec (.chainToken false raw) s = .next ({ s with
        upd := { s.upd with crcErr := satInc s.upd.crcErr }, tx := .chain false (chainFrame 3 0 (leBytes 4 (fieldLe raw 4 4))) :: s.tx })))
    ∧ (∀ f, s.chain.dn.sent = [f] →
      (f.resends < 16 → exec (.chainResendTimer true f.cseq) s = .next { s with
        chain := { s.chain with dn := { s.chain.dn with sent := [{ f with resends := f.resends + 1 }] } }
        upd := { s.upd with resends := satInc s.upd.resends }, tx := .chain true f.frame :: s.tx })
      ∧ (16 ≤ f.resends → exec (.chainResendTimer true f.cseq) s = .next (note 0x100C 1 { s with
        chain := { s.chain with dn := { s.chain.dn with down := true, sent := [], waiting := [] } } })))
    ∧ (s.mgt.recovery = false → s.cfg.img.isSome → s.flag P.chainOrigin = true → exec .agreePeriodToken s = .next (chainSend true 4
        (tokenBody s.chain.tseq s.imageSeq s.tokenEntry) { s with
          chain := { s.chain with tseq := (s.chain.tseq + 1) % 2 ^ 32 }
          upd := { s.upd with tokenSeen := true, mismatch := false, tokCount := 1, tokSeq := BitVec.ofNat 24 s.chain.tseq } }))
    ∧ (s.flag P.chainOrigin = false → exec .agreePeriodToken s = .next s)
    ∧ (s.mgt.recovery = false → s.cfg.img.isSome → s.flag P.chainOrigin = false → s.upd.lostRaised = false → exec .agreeLostTimer s = .next (note 0x100B 0 { s with
        upd := { s.upd with tokenSeen := false, lostRaised := true } }))
    ∧ (s.upd.lostRaised = true → exec .agreeLostTimer s = .next s)

/-- Updates (R566 to R570, R583): a verification that finds no fault stages the image, measures it and says so, one that finds a fault says which; then
UPD_CTRL with its key activates it, abandons it, rolls back to the other slot's image or burns a key's revocation fuse, or says why not; without
its key it is an access error. -/
def Obligations.UpdateControl : Prop :=
  ∀ (r : Requester) (val : Word) (s : State),
    (∀ same, s.upd.state ≠ .verifying → exec (.updVerifyDone same) s = .next (afterP s))
    ∧ (∀ same code, s.upd.state = .verifying → s.updFault same = some code → exec (.updVerifyDone same) s = .next (afterP (note 0x100E code { s with
        upd := { s.upd with state := .idle, fail := BitVec.ofNat 4 code } })))
    ∧ (∀ same, s.upd.state = .verifying → s.updFault same = none → s.mgt.recovery = false → s.head = 0 →
      let img := s.upd.image
      let t := rawBody (cutRecords (img.length / 16 + 1) img) 0xFFFF
      exec (.updVerifyDone same) s = .next (afterP (updRetry (let u := note 0x100D s.upd.updId.toNat (msrExtend 5 (t.take 48) { s with upd := { s.upd with
          state := .staged, stagedImg := some { seq := s.upd.updId.toNat, digest := t.take 48, keyId := fieldLe t 144 4 } } })
        { u with upd := { u.upd with autoReady := false } }))))
    ∧ (s.accessStop r 0x13000C 4 = none →
      let rows : List (Requester → Word → Instr) := [.updCtrlActivate, .updCtrlAbandon, .updCtrlRollback, .updCtrlRevoke]
      ∀ row ∈ rows,
        (val.toNat / 2 ^ 16 ≠ 0x9640 → exec (row r val) s = .next (afterP (accessError r 0x13000C true s)))
        ∧ (val.toNat / 2 ^ 16 = 0x9640 →
          (val.toNat % 16 = 1 → s.upd.stagedImg = none → exec (row r val) s = .next (afterP { s with upd := { s.upd with deny := 5 } }))
          ∧ (val.toNat % 16 = 1 → s.upd.stagedImg.isSome → s.prt.pair ≠ .paired → exec (row r val) s = .next (afterP { s with upd := { s.upd with deny := 1 } }))
          ∧ (∀ v, val.toNat % 16 = 1 → s.upd.stagedImg = some v → s.updStops = 0 → exec (row r val) s = .next (afterP (updActivate s)))
          ∧ (val.toNat % 16 = 2 → s.upd.state = .staged → exec (row r val) s = .next (afterP { s with
            upd := { s.upd with state := .idle, stagedImg := none, autoReady := false, deny := 0 } }))
          ∧ (∀ v, val.toNat % 16 = 3 → s.upd.other = some v → exec (row r val) s = .next (afterP (updRollTo v s)))
          ∧ (∀ i k, val.toNat % 16 = 4 → val.toNat / 16 % 4 = k → s.cfg.img = some i → k < i.keyId → exec (row r val) s = .next (afterP { s with
            upd := { s.upd with deny := 0 }, part := { s.part with revoked := setBit s.part.revoked k true } }))
          ∧ (∀ i k, val.toNat % 16 = 4 → val.toNat / 16 % 4 = k → s.cfg.img = some i → i.keyId ≤ k → exec (row r val) s = .next (afterP { s with
            upd := { s.upd with deny := 4 } }))))
    ∧ (s.upd.pend = true → s.rst.mgUp = true → exec .updConfirmTimeout s = .next (afterP (updRollBack s)))
    ∧ (s.upd.pend = false → exec .updConfirmTimeout s = .next (afterP s))

/-! ## What holds across commands -/

/-- The commands of the datapath: capsules and windows, the engines, connections but for what can wake the head, the media's timers, snapshots and
replication, and what drives pins and links and no more. -/
def Sys2Proof.Instr.datapath : Instr → Bool
  | .read _ | .write _ | .trim _ | .flush _ | .release _ | .takeOpen _ | .frameAppend _ | .frameRead _ | .takeSeal _ | .takeDelete _ | .takeInfo _ => true
  | .identify _ | .volumeInfo _ | .abort _ | .orphanStatus _ | .snapCreate _ | .snapDelete _ | .snapRead _ | .snapFrameRead _ | .snapList _ => true
  | .replPoint _ | .replInfo _ | .replPromote _ | .replBegin _ | .replData _ | .replEnd _ | .replTakeDelete _ => true
  | .transferReadySend .. | .windowTimeout _ | .orphanKeepExpiry | .ingestBlockDone .. | .cmpJobSubmit _ | .cmpJobDone .. | .filterRebuildDone => true
  | .keyEraseDone _ | .cipContextSave _ | .cipContextResume .. | .subportDown _ | .subportUp _ | .pauseFrameReceive .. | .addrAnnounceRepeat _ => true
  | .arpRequest .. | .neighbourSolicitation .. | .icmpEcho .. | .cmRtu _ | .cmDreq _ | .cmRej _ | .repRetryTimer _ | .retryTimeout _ => true
  | .rnrResendTimer _ | .qpErrLingerExpiry _ | .checkpointBatch | .cnpRateRaise .. | .eventMergeInterval .. | .lotOpenReply .. => true
  | .mapSpillTimer | .gcVictimStart _ | .partialWaitExpiry _ | .padWaitExpiry .. | .rowIdleCloseExpiry _ | .journalSpill | .rebuildWaitExpiry _ => true
  | .hemPatrolPace | .plResendTimer _ | .pulseSend | .preservedPageRelease .. | .replPeriodExpiry _ | .replSessionWaitExpiry _ | .replLag _ => true
  | .alVfSample .. | .alGcSample _ | .alRbSample .. | .evrSpill _ | .prsntChange .. | .restExit _ => true
  | _ => false

/-- A command of the datapath, whatever follows from it, leaves the control side of the head alone: resets, clocks, the power state, the image and the
loader, the register space's latches, the part, the measurement registers, sensors, updates, the chain, the DRAM controller and the timestamp. -/
def Obligations.DatapathLeavesControl : Prop :=
  ∀ (c : Instr) (s : State), c.datapath = true → ∃ t, exec c s = .next t ∧ s.SameCtl t

/-- What the engines store and the links carry reads back: a block of an unencrypted volume opens from its media form as the bytes it was made of,
compressed or not (R209, R220, R242 to R245); an encrypted one has no media form without its key (R273); a sealed frame of the partner link or a
replication chunk opens under its key to what was sealed (R256, R433); bytes with their CRC pass its check (R11). -/
def Obligations.WhatIsStoredReadsBack : Prop :=
  ∀ s : State,
    (∀ (v : VolPolicy) (pos take : Nat) (short : Bool) (plain : Bytes) tag secs, plain.length = 4096 → v.encrypt = false →
      s.mediaForm v pos take short plain = some (tag, secs) → s.openForm v take tag secs = .plain plain)
    ∧ (∀ (v : VolPolicy) (pos take : Nat) (short : Bool) (plain : Bytes), v.encrypt = false → (s.mediaForm v pos take short plain).isSome)
    ∧ (∀ (v : VolPolicy) (pos take : Nat) (short : Bool) (plain : Bytes), v.encrypt = true → s.volKey v = none → s.mediaForm v pos take short plain = none)
    ∧ (∀ key iv aad pt : Bytes, gcmOpen key iv aad (gcmSeal key iv aad pt) = some pt)
    ∧ ∀ b : Bytes, crcGood (withCrc b) = true

/-- A change of a map word (R329 to R331, R333, R464): the block reads as the word it was given, whatever else it set going, and where no snapshot
needs its page no other block's word changes. -/
def Obligations.MapWordReadsBack : Prop :=
  ∀ (vol lba acc w : Nat) (s : State), s.ftl.Canonical →
    (setWord vol lba acc w s).2.mapWord vol lba = w
      ∧ (s.needsView vol (lba / pageWords) acc = none → ∀ v l, (v, l) ≠ (vol, lba) → (setWord vol lba acc w s).2.mapWord v l = s.mapWord v l)
end

