-- ==== Sys2Proof/Laws/State.lean ====
section
/-! SUPPORT. One lemma per field per update of the state, so that no proof unfolds a record update. -/

namespace Sys2Proof.Machine

variable (s : State)

@[simp] theorem onRst_rst (g : Rst → Rst) : (s.onRst g).rst = g s.rst := rfl
@[simp] theorem onRst_clk (g : Rst → Rst) : (s.onRst g).clk = s.clk := rfl
@[simp] theorem onRst_pwr (g : Rst → Rst) : (s.onRst g).pwr = s.pwr := rfl
@[simp] theorem onRst_cfg (g : Rst → Rst) : (s.onRst g).cfg = s.cfg := rfl
@[simp] theorem onRst_bus (g : Rst → Rst) : (s.onRst g).bus = s.bus := rfl
@[simp] theorem onRst_part (g : Rst → Rst) : (s.onRst g).part = s.part := rfl
@[simp] theorem onRst_evr (g : Rst → Rst) : (s.onRst g).evr = s.evr := rfl
@[simp] theorem onRst_msr (g : Rst → Rst) : (s.onRst g).msr = s.msr := rfl
@[simp] theorem onRst_mgt (g : Rst → Rst) : (s.onRst g).mgt = s.mgt := rfl
@[simp] theorem onRst_upd (g : Rst → Rst) : (s.onRst g).upd = s.upd := rfl
@[simp] theorem onRst_chain (g : Rst → Rst) : (s.onRst g).chain = s.chain := rfl
@[simp] theorem onRst_fab (g : Rst → Rst) : (s.onRst g).fab = s.fab := rfl
@[simp] theorem onRst_qpc (g : Rst → Rst) : (s.onRst g).qpc = s.qpc := rfl
@[simp] theorem onRst_cmd (g : Rst → Rst) : (s.onRst g).cmd = s.cmd := rfl
@[simp] theorem onRst_ing (g : Rst → Rst) : (s.onRst g).ing = s.ing := rfl
@[simp] theorem onRst_prt (g : Rst → Rst) : (s.onRst g).prt = s.prt := rfl
@[simp] theorem onRst_cmp (g : Rst → Rst) : (s.onRst g).cmp = s.cmp := rfl
@[simp] theorem onRst_fpr (g : Rst → Rst) : (s.onRst g).fpr = s.fpr := rfl
@[simp] theorem onRst_cip (g : Rst → Rst) : (s.onRst g).cip = s.cip := rfl
@[simp] theorem onRst_ftl (g : Rst → Rst) : (s.onRst g).ftl = s.ftl := rfl
@[simp] theorem onRst_par (g : Rst → Rst) : (s.onRst g).par = s.par := rfl
@[simp] theorem onRst_jnl (g : Rst → Rst) : (s.onRst g).jnl = s.jnl := rfl
@[simp] theorem onRst_sld (g : Rst → Rst) : (s.onRst g).sld = s.sld := rfl
@[simp] theorem onRst_rpl (g : Rst → Rst) : (s.onRst g).rpl = s.rpl := rfl
@[simp] theorem onRst_buf (g : Rst → Rst) : (s.onRst g).buf = s.buf := rfl
@[simp] theorem onRst_adp (g : Rst → Rst) : (s.onRst g).adp = s.adp := rfl
@[simp] theorem onRst_time (g : Rst → Rst) : (s.onRst g).time = s.time := rfl
@[simp] theorem onRst_tx (g : Rst → Rst) : (s.onRst g).tx = s.tx := rfl
@[simp] theorem onRst_free (g : Rst → Rst) : (s.onRst g).free = s.free := rfl
@[simp] theorem onRst_pending (g : Rst → Rst) : (s.onRst g).pending = s.pending := rfl

@[simp] theorem onClk_rst (g : Clk → Clk) : (s.onClk g).rst = s.rst := rfl
@[simp] theorem onClk_clk (g : Clk → Clk) : (s.onClk g).clk = g s.clk := rfl
@[simp] theorem onClk_pwr (g : Clk → Clk) : (s.onClk g).pwr = s.pwr := rfl
@[simp] theorem onClk_cfg (g : Clk → Clk) : (s.onClk g).cfg = s.cfg := rfl
@[simp] theorem onClk_bus (g : Clk → Clk) : (s.onClk g).bus = s.bus := rfl
@[simp] theorem onClk_part (g : Clk → Clk) : (s.onClk g).part = s.part := rfl
@[simp] theorem onClk_evr (g : Clk → Clk) : (s.onClk g).evr = s.evr := rfl
@[simp] theorem onClk_msr (g : Clk → Clk) : (s.onClk g).msr = s.msr := rfl
@[simp] theorem onClk_mgt (g : Clk → Clk) : (s.onClk g).mgt = s.mgt := rfl
@[simp] theorem onClk_upd (g : Clk → Clk) : (s.onClk g).upd = s.upd := rfl
@[simp] theorem onClk_chain (g : Clk → Clk) : (s.onClk g).chain = s.chain := rfl
@[simp] theorem onClk_fab (g : Clk → Clk) : (s.onClk g).fab = s.fab := rfl
@[simp] theorem onClk_qpc (g : Clk → Clk) : (s.onClk g).qpc = s.qpc := rfl
@[simp] theorem onClk_cmd (g : Clk → Clk) : (s.onClk g).cmd = s.cmd := rfl
@[simp] theorem onClk_ing (g : Clk → Clk) : (s.onClk g).ing = s.ing := rfl
@[simp] theorem onClk_prt (g : Clk → Clk) : (s.onClk g).prt = s.prt := rfl
@[simp] theorem onClk_cmp (g : Clk → Clk) : (s.onClk g).cmp = s.cmp := rfl
@[simp] theorem onClk_fpr (g : Clk → Clk) : (s.onClk g).fpr = s.fpr := rfl
@[simp] theorem onClk_cip (g : Clk → Clk) : (s.onClk g).cip = s.cip := rfl
@[simp] theorem onClk_ftl (g : Clk → Clk) : (s.onClk g).ftl = s.ftl := rfl
@[simp] theorem onClk_par (g : Clk → Clk) : (s.onClk g).par = s.par := rfl
@[simp] theorem onClk_jnl (g : Clk → Clk) : (s.onClk g).jnl = s.jnl := rfl
@[simp] theorem onClk_sld (g : Clk → Clk) : (s.onClk g).sld = s.sld := rfl
@[simp] theorem onClk_rpl (g : Clk → Clk) : (s.onClk g).rpl = s.rpl := rfl
@[simp] theorem onClk_buf (g : Clk → Clk) : (s.onClk g).buf = s.buf := rfl
@[simp] theorem onClk_adp (g : Clk → Clk) : (s.onClk g).adp = s.adp := rfl
@[simp] theorem onClk_time (g : Clk → Clk) : (s.onClk g).time = s.time := rfl
@[simp] theorem onClk_tx (g : Clk → Clk) : (s.onClk g).tx = s.tx := rfl
@[simp] theorem onClk_free (g : Clk → Clk) : (s.onClk g).free = s.free := rfl
@[simp] theorem onClk_pending (g : Clk → Clk) : (s.onClk g).pending = s.pending := rfl

@[simp] theorem onPwr_rst (g : Pwr → Pwr) : (s.onPwr g).rst = s.rst := rfl
@[simp] theorem onPwr_clk (g : Pwr → Pwr) : (s.onPwr g).clk = s.clk := rfl
@[simp] theorem onPwr_pwr (g : Pwr → Pwr) : (s.onPwr g).pwr = g s.pwr := rfl
@[simp] theorem onPwr_cfg (g : Pwr → Pwr) : (s.onPwr g).cfg = s.cfg := rfl
@[simp] theorem onPwr_bus (g : Pwr → Pwr) : (s.onPwr g).bus = s.bus := rfl
@[simp] theorem onPwr_part (g : Pwr → Pwr) : (s.onPwr g).part = s.part := rfl
@[simp] theorem onPwr_evr (g : Pwr → Pwr) : (s.onPwr g).evr = s.evr := rfl
@[simp] theorem onPwr_msr (g : Pwr → Pwr) : (s.onPwr g).msr = s.msr := rfl
@[simp] theorem onPwr_mgt (g : Pwr → Pwr) : (s.onPwr g).mgt = s.mgt := rfl
@[simp] theorem onPwr_upd (g : Pwr → Pwr) : (s.onPwr g).upd = s.upd := rfl
@[simp] theorem onPwr_chain (g : Pwr → Pwr) : (s.onPwr g).chain = s.chain := rfl
@[simp] theorem onPwr_fab (g : Pwr → Pwr) : (s.onPwr g).fab = s.fab := rfl
@[simp] theorem onPwr_qpc (g : Pwr → Pwr) : (s.onPwr g).qpc = s.qpc := rfl
@[simp] theorem onPwr_cmd (g : Pwr → Pwr) : (s.onPwr g).cmd = s.cmd := rfl
@[simp] theorem onPwr_ing (g : Pwr → Pwr) : (s.onPwr g).ing = s.ing := rfl
@[simp] theorem onPwr_prt (g : Pwr → Pwr) : (s.onPwr g).prt = s.prt := rfl
@[simp] theorem onPwr_cmp (g : Pwr → Pwr) : (s.onPwr g).cmp = s.cmp := rfl
@[simp] theorem onPwr_fpr (g : Pwr → Pwr) : (s.onPwr g).fpr = s.fpr := rfl
@[simp] theorem onPwr_cip (g : Pwr → Pwr) : (s.onPwr g).cip = s.cip := rfl
@[simp] theorem onPwr_ftl (g : Pwr → Pwr) : (s.onPwr g).ftl = s.ftl := rfl
@[simp] theorem onPwr_par (g : Pwr → Pwr) : (s.onPwr g).par = s.par := rfl
@[simp] theorem onPwr_jnl (g : Pwr → Pwr) : (s.onPwr g).jnl = s.jnl := rfl
@[simp] theorem onPwr_sld (g : Pwr → Pwr) : (s.onPwr g).sld = s.sld := rfl
@[simp] theorem onPwr_rpl (g : Pwr → Pwr) : (s.onPwr g).rpl = s.rpl := rfl
@[simp] theorem onPwr_buf (g : Pwr → Pwr) : (s.onPwr g).buf = s.buf := rfl
@[simp] theorem onPwr_adp (g : Pwr → Pwr) : (s.onPwr g).adp = s.adp := rfl
@[simp] theorem onPwr_time (g : Pwr → Pwr) : (s.onPwr g).time = s.time := rfl
@[simp] theorem onPwr_tx (g : Pwr → Pwr) : (s.onPwr g).tx = s.tx := rfl
@[simp] theorem onPwr_free (g : Pwr → Pwr) : (s.onPwr g).free = s.free := rfl
@[simp] theorem onPwr_pending (g : Pwr → Pwr) : (s.onPwr g).pending = s.pending := rfl

@[simp] theorem onCfg_rst (g : Cfg → Cfg) : (s.onCfg g).rst = s.rst := rfl
@[simp] theorem onCfg_clk (g : Cfg → Cfg) : (s.onCfg g).clk = s.clk := rfl
@[simp] theorem onCfg_pwr (g : Cfg → Cfg) : (s.onCfg g).pwr = s.pwr := rfl
@[simp] theorem onCfg_cfg (g : Cfg → Cfg) : (s.onCfg g).cfg = g s.cfg := rfl
@[simp] theorem onCfg_bus (g : Cfg → Cfg) : (s.onCfg g).bus = s.bus := rfl
@[simp] theorem onCfg_part (g : Cfg → Cfg) : (s.onCfg g).part = s.part := rfl
@[simp] theorem onCfg_evr (g : Cfg → Cfg) : (s.onCfg g).evr = s.evr := rfl
@[simp] theorem onCfg_msr (g : Cfg → Cfg) : (s.onCfg g).msr = s.msr := rfl
@[simp] theorem onCfg_mgt (g : Cfg → Cfg) : (s.onCfg g).mgt = s.mgt := rfl
@[simp] theorem onCfg_upd (g : Cfg → Cfg) : (s.onCfg g).upd = s.upd := rfl
@[simp] theorem onCfg_chain (g : Cfg → Cfg) : (s.onCfg g).chain = s.chain := rfl
@[simp] theorem onCfg_fab (g : Cfg → Cfg) : (s.onCfg g).fab = s.fab := rfl
@[simp] theorem onCfg_qpc (g : Cfg → Cfg) : (s.onCfg g).qpc = s.qpc := rfl
@[simp] theorem onCfg_cmd (g : Cfg → Cfg) : (s.onCfg g).cmd = s.cmd := rfl
@[simp] theorem onCfg_ing (g : Cfg → Cfg) : (s.onCfg g).ing = s.ing := rfl
@[simp] theorem onCfg_prt (g : Cfg → Cfg) : (s.onCfg g).prt = s.prt := rfl
@[simp] theorem onCfg_cmp (g : Cfg → Cfg) : (s.onCfg g).cmp = s.cmp := rfl
@[simp] theorem onCfg_fpr (g : Cfg → Cfg) : (s.onCfg g).fpr = s.fpr := rfl
@[simp] theorem onCfg_cip (g : Cfg → Cfg) : (s.onCfg g).cip = s.cip := rfl
@[simp] theorem onCfg_ftl (g : Cfg → Cfg) : (s.onCfg g).ftl = s.ftl := rfl
@[simp] theorem onCfg_par (g : Cfg → Cfg) : (s.onCfg g).par = s.par := rfl
@[simp] theorem onCfg_jnl (g : Cfg → Cfg) : (s.onCfg g).jnl = s.jnl := rfl
@[simp] theorem onCfg_sld (g : Cfg → Cfg) : (s.onCfg g).sld = s.sld := rfl
@[simp] theorem onCfg_rpl (g : Cfg → Cfg) : (s.onCfg g).rpl = s.rpl := rfl
@[simp] theorem onCfg_buf (g : Cfg → Cfg) : (s.onCfg g).buf = s.buf := rfl
@[simp] theorem onCfg_adp (g : Cfg → Cfg) : (s.onCfg g).adp = s.adp := rfl
@[simp] theorem onCfg_time (g : Cfg → Cfg) : (s.onCfg g).time = s.time := rfl
@[simp] theorem onCfg_tx (g : Cfg → Cfg) : (s.onCfg g).tx = s.tx := rfl
@[simp] theorem onCfg_free (g : Cfg → Cfg) : (s.onCfg g).free = s.free := rfl
@[simp] theorem onCfg_pending (g : Cfg → Cfg) : (s.onCfg g).pending = s.pending := rfl

@[simp] theorem onBus_rst (g : Bus → Bus) : (s.onBus g).rst = s.rst := rfl
@[simp] theorem onBus_clk (g : Bus → Bus) : (s.onBus g).clk = s.clk := rfl
@[simp] theorem onBus_pwr (g : Bus → Bus) : (s.onBus g).pwr = s.pwr := rfl
@[simp] theorem onBus_cfg (g : Bus → Bus) : (s.onBus g).cfg = s.cfg := rfl
@[simp] theorem onBus_bus (g : Bus → Bus) : (s.onBus g).bus = g s.bus := rfl
@[simp] theorem onBus_part (g : Bus → Bus) : (s.onBus g).part = s.part := rfl
@[simp] theorem onBus_evr (g : Bus → Bus) : (s.onBus g).evr = s.evr := rfl
@[simp] theorem onBus_msr (g : Bus → Bus) : (s.onBus g).msr = s.msr := rfl
@[simp] theorem onBus_mgt (g : Bus → Bus) : (s.onBus g).mgt = s.mgt := rfl
@[simp] theorem onBus_upd (g : Bus → Bus) : (s.onBus g).upd = s.upd := rfl
@[simp] theorem onBus_chain (g : Bus → Bus) : (s.onBus g).chain = s.chain := rfl
@[simp] theorem onBus_fab (g : Bus → Bus) : (s.onBus g).fab = s.fab := rfl
@[simp] theorem onBus_qpc (g : Bus → Bus) : (s.onBus g).qpc = s.qpc := rfl
@[simp] theorem onBus_cmd (g : Bus → Bus) : (s.onBus g).cmd = s.cmd := rfl
@[simp] theorem onBus_ing (g : Bus → Bus) : (s.onBus g).ing = s.ing := rfl
@[simp] theorem onBus_prt (g : Bus → Bus) : (s.onBus g).prt = s.prt := rfl
@[simp] theorem onBus_cmp (g : Bus → Bus) : (s.onBus g).cmp = s.cmp := rfl
@[simp] theorem onBus_fpr (g : Bus → Bus) : (s.onBus g).fpr = s.fpr := rfl
@[simp] theorem onBus_cip (g : Bus → Bus) : (s.onBus g).cip = s.cip := rfl
@[simp] theorem onBus_ftl (g : Bus → Bus) : (s.onBus g).ftl = s.ftl := rfl
@[simp] theorem onBus_par (g : Bus → Bus) : (s.onBus g).par = s.par := rfl
@[simp] theorem onBus_jnl (g : Bus → Bus) : (s.onBus g).jnl = s.jnl := rfl
@[simp] theorem onBus_sld (g : Bus → Bus) : (s.onBus g).sld = s.sld := rfl
@[simp] theorem onBus_rpl (g : Bus → Bus) : (s.onBus g).rpl = s.rpl := rfl
@[simp] theorem onBus_buf (g : Bus → Bus) : (s.onBus g).buf = s.buf := rfl
@[simp] theorem onBus_adp (g : Bus → Bus) : (s.onBus g).adp = s.adp := rfl
@[simp] theorem onBus_time (g : Bus → Bus) : (s.onBus g).time = s.time := rfl
@[simp] theorem onBus_tx (g : Bus → Bus) : (s.onBus g).tx = s.tx := rfl
@[simp] theorem onBus_free (g : Bus → Bus) : (s.onBus g).free = s.free := rfl
@[simp] theorem onBus_pending (g : Bus → Bus) : (s.onBus g).pending = s.pending := rfl

@[simp] theorem onEvr_rst (g : Evr → Evr) : (s.onEvr g).rst = s.rst := rfl
@[simp] theorem onEvr_clk (g : Evr → Evr) : (s.onEvr g).clk = s.clk := rfl
@[simp] theorem onEvr_pwr (g : Evr → Evr) : (s.onEvr g).pwr = s.pwr := rfl
@[simp] theorem onEvr_cfg (g : Evr → Evr) : (s.onEvr g).cfg = s.cfg := rfl
@[simp] theorem onEvr_bus (g : Evr → Evr) : (s.onEvr g).bus = s.bus := rfl
@[simp] theorem onEvr_part (g : Evr → Evr) : (s.onEvr g).part = s.part := rfl
@[simp] theorem onEvr_evr (g : Evr → Evr) : (s.onEvr g).evr = g s.evr := rfl
@[simp] theorem onEvr_msr (g : Evr → Evr) : (s.onEvr g).msr = s.msr := rfl
@[simp] theorem onEvr_mgt (g : Evr → Evr) : (s.onEvr g).mgt = s.mgt := rfl
@[simp] theorem onEvr_upd (g : Evr → Evr) : (s.onEvr g).upd = s.upd := rfl
@[simp] theorem onEvr_chain (g : Evr → Evr) : (s.onEvr g).chain = s.chain := rfl
@[simp] theorem onEvr_fab (g : Evr → Evr) : (s.onEvr g).fab = s.fab := rfl
@[simp] theorem onEvr_qpc (g : Evr → Evr) : (s.onEvr g).qpc = s.qpc := rfl
@[simp] theorem onEvr_cmd (g : Evr → Evr) : (s.onEvr g).cmd = s.cmd := rfl
@[simp] theorem onEvr_ing (g : Evr → Evr) : (s.onEvr g).ing = s.ing := rfl
@[simp] theorem onEvr_prt (g : Evr → Evr) : (s.onEvr g).prt = s.prt := rfl
@[simp] theorem onEvr_cmp (g : Evr → Evr) : (s.onEvr g).cmp = s.cmp := rfl
@[simp] theorem onEvr_fpr (g : Evr → Evr) : (s.onEvr g).fpr = s.fpr := rfl
@[simp] theorem onEvr_cip (g : Evr → Evr) : (s.onEvr g).cip = s.cip := rfl
@[simp] theorem onEvr_ftl (g : Evr → Evr) : (s.onEvr g).ftl = s.ftl := rfl
@[simp] theorem onEvr_par (g : Evr → Evr) : (s.onEvr g).par = s.par := rfl
@[simp] theorem onEvr_jnl (g : Evr → Evr) : (s.onEvr g).jnl = s.jnl := rfl
@[simp] theorem onEvr_sld (g : Evr → Evr) : (s.onEvr g).sld = s.sld := rfl
@[simp] theorem onEvr_rpl (g : Evr → Evr) : (s.onEvr g).rpl = s.rpl := rfl
@[simp] theorem onEvr_buf (g : Evr → Evr) : (s.onEvr g).buf = s.buf := rfl
@[simp] theorem onEvr_adp (g : Evr → Evr) : (s.onEvr g).adp = s.adp := rfl
@[simp] theorem onEvr_time (g : Evr → Evr) : (s.onEvr g).time = s.time := rfl
@[simp] theorem onEvr_tx (g : Evr → Evr) : (s.onEvr g).tx = s.tx := rfl
@[simp] theorem onEvr_free (g : Evr → Evr) : (s.onEvr g).free = s.free := rfl
@[simp] theorem onEvr_pending (g : Evr → Evr) : (s.onEvr g).pending = s.pending := rfl

@[simp] theorem onMsr_rst (g : Msr → Msr) : (s.onMsr g).rst = s.rst := rfl
@[simp] theorem onMsr_clk (g : Msr → Msr) : (s.onMsr g).clk = s.clk := rfl
@[simp] theorem onMsr_pwr (g : Msr → Msr) : (s.onMsr g).pwr = s.pwr := rfl
@[simp] theorem onMsr_cfg (g : Msr → Msr) : (s.onMsr g).cfg = s.cfg := rfl
@[simp] theorem onMsr_bus (g : Msr → Msr) : (s.onMsr g).bus = s.bus := rfl
@[simp] theorem onMsr_part (g : Msr → Msr) : (s.onMsr g).part = s.part := rfl
@[simp] theorem onMsr_evr (g : Msr → Msr) : (s.onMsr g).evr = s.evr := rfl
@[simp] theorem onMsr_msr (g : Msr → Msr) : (s.onMsr g).msr = g s.msr := rfl
@[simp] theorem onMsr_mgt (g : Msr → Msr) : (s.onMsr g).mgt = s.mgt := rfl
@[simp] theorem onMsr_upd (g : Msr → Msr) : (s.onMsr g).upd = s.upd := rfl
@[simp] theorem onMsr_chain (g : Msr → Msr) : (s.onMsr g).chain = s.chain := rfl
@[simp] theorem onMsr_fab (g : Msr → Msr) : (s.onMsr g).fab = s.fab := rfl
@[simp] theorem onMsr_qpc (g : Msr → Msr) : (s.onMsr g).qpc = s.qpc := rfl
@[simp] theorem onMsr_cmd (g : Msr → Msr) : (s.onMsr g).cmd = s.cmd := rfl
@[simp] theorem onMsr_ing (g : Msr → Msr) : (s.onMsr g).ing = s.ing := rfl
@[simp] theorem onMsr_prt (g : Msr → Msr) : (s.onMsr g).prt = s.prt := rfl
@[simp] theorem onMsr_cmp (g : Msr → Msr) : (s.onMsr g).cmp = s.cmp := rfl
@[simp] theorem onMsr_fpr (g : Msr → Msr) : (s.onMsr g).fpr = s.fpr := rfl
@[simp] theorem onMsr_cip (g : Msr → Msr) : (s.onMsr g).cip = s.cip := rfl
@[simp] theorem onMsr_ftl (g : Msr → Msr) : (s.onMsr g).ftl = s.ftl := rfl
@[simp] theorem onMsr_par (g : Msr → Msr) : (s.onMsr g).par = s.par := rfl
@[simp] theorem onMsr_jnl (g : Msr → Msr) : (s.onMsr g).jnl = s.jnl := rfl
@[simp] theorem onMsr_sld (g : Msr → Msr) : (s.onMsr g).sld = s.sld := rfl
@[simp] theorem onMsr_rpl (g : Msr → Msr) : (s.onMsr g).rpl = s.rpl := rfl
@[simp] theorem onMsr_buf (g : Msr → Msr) : (s.onMsr g).buf = s.buf := rfl
@[simp] theorem onMsr_adp (g : Msr → Msr) : (s.onMsr g).adp = s.adp := rfl
@[simp] theorem onMsr_time (g : Msr → Msr) : (s.onMsr g).time = s.time := rfl
@[simp] theorem onMsr_tx (g : Msr → Msr) : (s.onMsr g).tx = s.tx := rfl
@[simp] theorem onMsr_free (g : Msr → Msr) : (s.onMsr g).free = s.free := rfl
@[simp] theorem onMsr_pending (g : Msr → Msr) : (s.onMsr g).pending = s.pending := rfl

@[simp] theorem onMgt_rst (g : Mgt → Mgt) : (s.onMgt g).rst = s.rst := rfl
@[simp] theorem onMgt_clk (g : Mgt → Mgt) : (s.onMgt g).clk = s.clk := rfl
@[simp] theorem onMgt_pwr (g : Mgt → Mgt) : (s.onMgt g).pwr = s.pwr := rfl
@[simp] theorem onMgt_cfg (g : Mgt → Mgt) : (s.onMgt g).cfg = s.cfg := rfl
@[simp] theorem onMgt_bus (g : Mgt → Mgt) : (s.onMgt g).bus = s.bus := rfl
@[simp] theorem onMgt_part (g : Mgt → Mgt) : (s.onMgt g).part = s.part := rfl
@[simp] theorem onMgt_evr (g : Mgt → Mgt) : (s.onMgt g).evr = s.evr := rfl
@[simp] theorem onMgt_msr (g : Mgt → Mgt) : (s.onMgt g).msr = s.msr := rfl
@[simp] theorem onMgt_mgt (g : Mgt → Mgt) : (s.onMgt g).mgt = g s.mgt := rfl
@[simp] theorem onMgt_upd (g : Mgt → Mgt) : (s.onMgt g).upd = s.upd := rfl
@[simp] theorem onMgt_chain (g : Mgt → Mgt) : (s.onMgt g).chain = s.chain := rfl
@[simp] theorem onMgt_fab (g : Mgt → Mgt) : (s.onMgt g).fab = s.fab := rfl
@[simp] theorem onMgt_qpc (g : Mgt → Mgt) : (s.onMgt g).qpc = s.qpc := rfl
@[simp] theorem onMgt_cmd (g : Mgt → Mgt) : (s.onMgt g).cmd = s.cmd := rfl
@[simp] theorem onMgt_ing (g : Mgt → Mgt) : (s.onMgt g).ing = s.ing := rfl
@[simp] theorem onMgt_prt (g : Mgt → Mgt) : (s.onMgt g).prt = s.prt := rfl
@[simp] theorem onMgt_cmp (g : Mgt → Mgt) : (s.onMgt g).cmp = s.cmp := rfl
@[simp] theorem onMgt_fpr (g : Mgt → Mgt) : (s.onMgt g).fpr = s.fpr := rfl
@[simp] theorem onMgt_cip (g : Mgt → Mgt) : (s.onMgt g).cip = s.cip := rfl
@[simp] theorem onMgt_ftl (g : Mgt → Mgt) : (s.onMgt g).ftl = s.ftl := rfl
@[simp] theorem onMgt_par (g : Mgt → Mgt) : (s.onMgt g).par = s.par := rfl
@[simp] theorem onMgt_jnl (g : Mgt → Mgt) : (s.onMgt g).jnl = s.jnl := rfl
@[simp] theorem onMgt_sld (g : Mgt → Mgt) : (s.onMgt g).sld = s.sld := rfl
@[simp] theorem onMgt_rpl (g : Mgt → Mgt) : (s.onMgt g).rpl = s.rpl := rfl
@[simp] theorem onMgt_buf (g : Mgt → Mgt) : (s.onMgt g).buf = s.buf := rfl
@[simp] theorem onMgt_adp (g : Mgt → Mgt) : (s.onMgt g).adp = s.adp := rfl
@[simp] theorem onMgt_time (g : Mgt → Mgt) : (s.onMgt g).time = s.time := rfl
@[simp] theorem onMgt_tx (g : Mgt → Mgt) : (s.onMgt g).tx = s.tx := rfl
@[simp] theorem onMgt_free (g : Mgt → Mgt) : (s.onMgt g).free = s.free := rfl
@[simp] theorem onMgt_pending (g : Mgt → Mgt) : (s.onMgt g).pending = s.pending := rfl

@[simp] theorem onUpd_rst (g : Upd → Upd) : (s.onUpd g).rst = s.rst := rfl
@[simp] theorem onUpd_clk (g : Upd → Upd) : (s.onUpd g).clk = s.clk := rfl
@[simp] theorem onUpd_pwr (g : Upd → Upd) : (s.onUpd g).pwr = s.pwr := rfl
@[simp] theorem onUpd_cfg (g : Upd → Upd) : (s.onUpd g).cfg = s.cfg := rfl
@[simp] theorem onUpd_bus (g : Upd → Upd) : (s.onUpd g).bus = s.bus := rfl
@[simp] theorem onUpd_part (g : Upd → Upd) : (s.onUpd g).part = s.part := rfl
@[simp] theorem onUpd_evr (g : Upd → Upd) : (s.onUpd g).evr = s.evr := rfl
@[simp] theorem onUpd_msr (g : Upd → Upd) : (s.onUpd g).msr = s.msr := rfl
@[simp] theorem onUpd_mgt (g : Upd → Upd) : (s.onUpd g).mgt = s.mgt := rfl
@[simp] theorem onUpd_upd (g : Upd → Upd) : (s.onUpd g).upd = g s.upd := rfl
@[simp] theorem onUpd_chain (g : Upd → Upd) : (s.onUpd g).chain = s.chain := rfl
@[simp] theorem onUpd_fab (g : Upd → Upd) : (s.onUpd g).fab = s.fab := rfl
@[simp] theorem onUpd_qpc (g : Upd → Upd) : (s.onUpd g).qpc = s.qpc := rfl
@[simp] theorem onUpd_cmd (g : Upd → Upd) : (s.onUpd g).cmd = s.cmd := rfl
@[simp] theorem onUpd_ing (g : Upd → Upd) : (s.onUpd g).ing = s.ing := rfl
@[simp] theorem onUpd_prt (g : Upd → Upd) : (s.onUpd g).prt = s.prt := rfl
@[simp] theorem onUpd_cmp (g : Upd → Upd) : (s.onUpd g).cmp = s.cmp := rfl
@[simp] theorem onUpd_fpr (g : Upd → Upd) : (s.onUpd g).fpr = s.fpr := rfl
@[simp] theorem onUpd_cip (g : Upd → Upd) : (s.onUpd g).cip = s.cip := rfl
@[simp] theorem onUpd_ftl (g : Upd → Upd) : (s.onUpd g).ftl = s.ftl := rfl
@[simp] theorem onUpd_par (g : Upd → Upd) : (s.onUpd g).par = s.par := rfl
@[simp] theorem onUpd_jnl (g : Upd → Upd) : (s.onUpd g).jnl = s.jnl := rfl
@[simp] theorem onUpd_sld (g : Upd → Upd) : (s.onUpd g).sld = s.sld := rfl
@[simp] theorem onUpd_rpl (g : Upd → Upd) : (s.onUpd g).rpl = s.rpl := rfl
@[simp] theorem onUpd_buf (g : Upd → Upd) : (s.onUpd g).buf = s.buf := rfl
@[simp] theorem onUpd_adp (g : Upd → Upd) : (s.onUpd g).adp = s.adp := rfl
@[simp] theorem onUpd_time (g : Upd → Upd) : (s.onUpd g).time = s.time := rfl
@[simp] theorem onUpd_tx (g : Upd → Upd) : (s.onUpd g).tx = s.tx := rfl
@[simp] theorem onUpd_free (g : Upd → Upd) : (s.onUpd g).free = s.free := rfl
@[simp] theorem onUpd_pending (g : Upd → Upd) : (s.onUpd g).pending = s.pending := rfl

@[simp] theorem onChain_rst (g : Chain → Chain) : (s.onChain g).rst = s.rst := rfl
@[simp] theorem onChain_clk (g : Chain → Chain) : (s.onChain g).clk = s.clk := rfl
@[simp] theorem onChain_pwr (g : Chain → Chain) : (s.onChain g).pwr = s.pwr := rfl
@[simp] theorem onChain_cfg (g : Chain → Chain) : (s.onChain g).cfg = s.cfg := rfl
@[simp] theorem onChain_bus (g : Chain → Chain) : (s.onChain g).bus = s.bus := rfl
@[simp] theorem onChain_part (g : Chain → Chain) : (s.onChain g).part = s.part := rfl
@[simp] theorem onChain_evr (g : Chain → Chain) : (s.onChain g).evr = s.evr := rfl
@[simp] theorem onChain_msr (g : Chain → Chain) : (s.onChain g).msr = s.msr := rfl
@[simp] theorem onChain_mgt (g : Chain → Chain) : (s.onChain g).mgt = s.mgt := rfl
@[simp] theorem onChain_upd (g : Chain → Chain) : (s.onChain g).upd = s.upd := rfl
@[simp] theorem onChain_chain (g : Chain → Chain) : (s.onChain g).chain = g s.chain := rfl
@[simp] theorem onChain_fab (g : Chain → Chain) : (s.onChain g).fab = s.fab := rfl
@[simp] theorem onChain_qpc (g : Chain → Chain) : (s.onChain g).qpc = s.qpc := rfl
@[simp] theorem onChain_cmd (g : Chain → Chain) : (s.onChain g).cmd = s.cmd := rfl
@[simp] theorem onChain_ing (g : Chain → Chain) : (s.onChain g).ing = s.ing := rfl
@[simp] theorem onChain_prt (g : Chain → Chain) : (s.onChain g).prt = s.prt := rfl
@[simp] theorem onChain_cmp (g : Chain → Chain) : (s.onChain g).cmp = s.cmp := rfl
@[simp] theorem onChain_fpr (g : Chain → Chain) : (s.onChain g).fpr = s.fpr := rfl
@[simp] theorem onChain_cip (g : Chain → Chain) : (s.onChain g).cip = s.cip := rfl
@[simp] theorem onChain_ftl (g : Chain → Chain) : (s.onChain g).ftl = s.ftl := rfl
@[simp] theorem onChain_par (g : Chain → Chain) : (s.onChain g).par = s.par := rfl
@[simp] theorem onChain_jnl (g : Chain → Chain) : (s.onChain g).jnl = s.jnl := rfl
@[simp] theorem onChain_sld (g : Chain → Chain) : (s.onChain g).sld = s.sld := rfl
@[simp] theorem onChain_rpl (g : Chain → Chain) : (s.onChain g).rpl = s.rpl := rfl
@[simp] theorem onChain_buf (g : Chain → Chain) : (s.onChain g).buf = s.buf := rfl
@[simp] theorem onChain_adp (g : Chain → Chain) : (s.onChain g).adp = s.adp := rfl
@[simp] theorem onChain_time (g : Chain → Chain) : (s.onChain g).time = s.time := rfl
@[simp] theorem onChain_tx (g : Chain → Chain) : (s.onChain g).tx = s.tx := rfl
@[simp] theorem onChain_free (g : Chain → Chain) : (s.onChain g).free = s.free := rfl
@[simp] theorem onChain_pending (g : Chain → Chain) : (s.onChain g).pending = s.pending := rfl

@[simp] theorem onFab_rst (g : Fab → Fab) : (s.onFab g).rst = s.rst := rfl
@[simp] theorem onFab_clk (g : Fab → Fab) : (s.onFab g).clk = s.clk := rfl
@[simp] theorem onFab_pwr (g : Fab → Fab) : (s.onFab g).pwr = s.pwr := rfl
@[simp] theorem onFab_cfg (g : Fab → Fab) : (s.onFab g).cfg = s.cfg := rfl
@[simp] theorem onFab_bus (g : Fab → Fab) : (s.onFab g).bus = s.bus := rfl
@[simp] theorem onFab_part (g : Fab → Fab) : (s.onFab g).part = s.part := rfl
@[simp] theorem onFab_evr (g : Fab → Fab) : (s.onFab g).evr = s.evr := rfl
@[simp] theorem onFab_msr (g : Fab → Fab) : (s.onFab g).msr = s.msr := rfl
@[simp] theorem onFab_mgt (g : Fab → Fab) : (s.onFab g).mgt = s.mgt := rfl
@[simp] theorem onFab_upd (g : Fab → Fab) : (s.onFab g).upd = s.upd := rfl
@[simp] theorem onFab_chain (g : Fab → Fab) : (s.onFab g).chain = s.chain := rfl
@[simp] theorem onFab_fab (g : Fab → Fab) : (s.onFab g).fab = g s.fab := rfl
@[simp] theorem onFab_qpc (g : Fab → Fab) : (s.onFab g).qpc = s.qpc := rfl
@[simp] theorem onFab_cmd (g : Fab → Fab) : (s.onFab g).cmd = s.cmd := rfl
@[simp] theorem onFab_ing (g : Fab → Fab) : (s.onFab g).ing = s.ing := rfl
@[simp] theorem onFab_prt (g : Fab → Fab) : (s.onFab g).prt = s.prt := rfl
@[simp] theorem onFab_cmp (g : Fab → Fab) : (s.onFab g).cmp = s.cmp := rfl
@[simp] theorem onFab_fpr (g : Fab → Fab) : (s.onFab g).fpr = s.fpr := rfl
@[simp] theorem onFab_cip (g : Fab → Fab) : (s.onFab g).cip = s.cip := rfl
@[simp] theorem onFab_ftl (g : Fab → Fab) : (s.onFab g).ftl = s.ftl := rfl
@[simp] theorem onFab_par (g : Fab → Fab) : (s.onFab g).par = s.par := rfl
@[simp] theorem onFab_jnl (g : Fab → Fab) : (s.onFab g).jnl = s.jnl := rfl
@[simp] theorem onFab_sld (g : Fab → Fab) : (s.onFab g).sld = s.sld := rfl
@[simp] theorem onFab_rpl (g : Fab → Fab) : (s.onFab g).rpl = s.rpl := rfl
@[simp] theorem onFab_buf (g : Fab → Fab) : (s.onFab g).buf = s.buf := rfl
@[simp] theorem onFab_adp (g : Fab → Fab) : (s.onFab g).adp = s.adp := rfl
@[simp] theorem onFab_time (g : Fab → Fab) : (s.onFab g).time = s.time := rfl
@[simp] theorem onFab_tx (g : Fab → Fab) : (s.onFab g).tx = s.tx := rfl
@[simp] theorem onFab_free (g : Fab → Fab) : (s.onFab g).free = s.free := rfl
@[simp] theorem onFab_pending (g : Fab → Fab) : (s.onFab g).pending = s.pending := rfl

@[simp] theorem onQpc_rst (g : Qpc → Qpc) : (s.onQpc g).rst = s.rst := rfl
@[simp] theorem onQpc_clk (g : Qpc → Qpc) : (s.onQpc g).clk = s.clk := rfl
@[simp] theorem onQpc_pwr (g : Qpc → Qpc) : (s.onQpc g).pwr = s.pwr := rfl
@[simp] theorem onQpc_cfg (g : Qpc → Qpc) : (s.onQpc g).cfg = s.cfg := rfl
@[simp] theorem onQpc_bus (g : Qpc → Qpc) : (s.onQpc g).bus = s.bus := rfl
@[simp] theorem onQpc_part (g : Qpc → Qpc) : (s.onQpc g).part = s.part := rfl
@[simp] theorem onQpc_evr (g : Qpc → Qpc) : (s.onQpc g).evr = s.evr := rfl
@[simp] theorem onQpc_msr (g : Qpc → Qpc) : (s.onQpc g).msr = s.msr := rfl
@[simp] theorem onQpc_mgt (g : Qpc → Qpc) : (s.onQpc g).mgt = s.mgt := rfl
@[simp] theorem onQpc_upd (g : Qpc → Qpc) : (s.onQpc g).upd = s.upd := rfl
@[simp] theorem onQpc_chain (g : Qpc → Qpc) : (s.onQpc g).chain = s.chain := rfl
@[simp] theorem onQpc_fab (g : Qpc → Qpc) : (s.onQpc g).fab = s.fab := rfl
@[simp] theorem onQpc_qpc (g : Qpc → Qpc) : (s.onQpc g).qpc = g s.qpc := rfl
@[simp] theorem onQpc_cmd (g : Qpc → Qpc) : (s.onQpc g).cmd = s.cmd := rfl
@[simp] theorem onQpc_ing (g : Qpc → Qpc) : (s.onQpc g).ing = s.ing := rfl
@[simp] theorem onQpc_prt (g : Qpc → Qpc) : (s.onQpc g).prt = s.prt := rfl
@[simp] theorem onQpc_cmp (g : Qpc → Qpc) : (s.onQpc g).cmp = s.cmp := rfl
@[simp] theorem onQpc_fpr (g : Qpc → Qpc) : (s.onQpc g).fpr = s.fpr := rfl
@[simp] theorem onQpc_cip (g : Qpc → Qpc) : (s.onQpc g).cip = s.cip := rfl
@[simp] theorem onQpc_ftl (g : Qpc → Qpc) : (s.onQpc g).ftl = s.ftl := rfl
@[simp] theorem onQpc_par (g : Qpc → Qpc) : (s.onQpc g).par = s.par := rfl
@[simp] theorem onQpc_jnl (g : Qpc → Qpc) : (s.onQpc g).jnl = s.jnl := rfl
@[simp] theorem onQpc_sld (g : Qpc → Qpc) : (s.onQpc g).sld = s.sld := rfl
@[simp] theorem onQpc_rpl (g : Qpc → Qpc) : (s.onQpc g).rpl = s.rpl := rfl
@[simp] theorem onQpc_buf (g : Qpc → Qpc) : (s.onQpc g).buf = s.buf := rfl
@[simp] theorem onQpc_adp (g : Qpc → Qpc) : (s.onQpc g).adp = s.adp := rfl
@[simp] theorem onQpc_time (g : Qpc → Qpc) : (s.onQpc g).time = s.time := rfl
@[simp] theorem onQpc_tx (g : Qpc → Qpc) : (s.onQpc g).tx = s.tx := rfl
@[simp] theorem onQpc_free (g : Qpc → Qpc) : (s.onQpc g).free = s.free := rfl
@[simp] theorem onQpc_pending (g : Qpc → Qpc) : (s.onQpc g).pending = s.pending := rfl

@[simp] theorem onCmd_rst (g : CmdU → CmdU) : (s.onCmd g).rst = s.rst := rfl
@[simp] theorem onCmd_clk (g : CmdU → CmdU) : (s.onCmd g).clk = s.clk := rfl
@[simp] theorem onCmd_pwr (g : CmdU → CmdU) : (s.onCmd g).pwr = s.pwr := rfl
@[simp] theorem onCmd_cfg (g : CmdU → CmdU) : (s.onCmd g).cfg = s.cfg := rfl
@[simp] theorem onCmd_bus (g : CmdU → CmdU) : (s.onCmd g).bus = s.bus := rfl
@[simp] theorem onCmd_part (g : CmdU → CmdU) : (s.onCmd g).part = s.part := rfl
@[simp] theorem onCmd_evr (g : CmdU → CmdU) : (s.onCmd g).evr = s.evr := rfl
@[simp] theorem onCmd_msr (g : CmdU → CmdU) : (s.onCmd g).msr = s.msr := rfl
@[simp] theorem onCmd_mgt (g : CmdU → CmdU) : (s.onCmd g).mgt = s.mgt := rfl
@[simp] theorem onCmd_upd (g : CmdU → CmdU) : (s.onCmd g).upd = s.upd := rfl
@[simp] theorem onCmd_chain (g : CmdU → CmdU) : (s.onCmd g).chain = s.chain := rfl
@[simp] theorem onCmd_fab (g : CmdU → CmdU) : (s.onCmd g).fab = s.fab := rfl
@[simp] theorem onCmd_qpc (g : CmdU → CmdU) : (s.onCmd g).qpc = s.qpc := rfl
@[simp] theorem onCmd_cmd (g : CmdU → CmdU) : (s.onCmd g).cmd = g s.cmd := rfl
@[simp] theorem onCmd_ing (g : CmdU → CmdU) : (s.onCmd g).ing = s.ing := rfl
@[simp] theorem onCmd_prt (g : CmdU → CmdU) : (s.onCmd g).prt = s.prt := rfl
@[simp] theorem onCmd_cmp (g : CmdU → CmdU) : (s.onCmd g).cmp = s.cmp := rfl
@[simp] theorem onCmd_fpr (g : CmdU → CmdU) : (s.onCmd g).fpr = s.fpr := rfl
@[simp] theorem onCmd_cip (g : CmdU → CmdU) : (s.onCmd g).cip = s.cip := rfl
@[simp] theorem onCmd_ftl (g : CmdU → CmdU) : (s.onCmd g).ftl = s.ftl := rfl
@[simp] theorem onCmd_par (g : CmdU → CmdU) : (s.onCmd g).par = s.par := rfl
@[simp] theorem onCmd_jnl (g : CmdU → CmdU) : (s.onCmd g).jnl = s.jnl := rfl
@[simp] theorem onCmd_sld (g : CmdU → CmdU) : (s.onCmd g).sld = s.sld := rfl
@[simp] theorem onCmd_rpl (g : CmdU → CmdU) : (s.onCmd g).rpl = s.rpl := rfl
@[simp] theorem onCmd_buf (g : CmdU → CmdU) : (s.onCmd g).buf = s.buf := rfl
@[simp] theorem onCmd_adp (g : CmdU → CmdU) : (s.onCmd g).adp = s.adp := rfl
@[simp] theorem onCmd_time (g : CmdU → CmdU) : (s.onCmd g).time = s.time := rfl
@[simp] theorem onCmd_tx (g : CmdU → CmdU) : (s.onCmd g).tx = s.tx := rfl
@[simp] theorem onCmd_free (g : CmdU → CmdU) : (s.onCmd g).free = s.free := rfl
@[simp] theorem onCmd_pending (g : CmdU → CmdU) : (s.onCmd g).pending = s.pending := rfl

@[simp] theorem onIng_rst (g : Ing → Ing) : (s.onIng g).rst = s.rst := rfl
@[simp] theorem onIng_clk (g : Ing → Ing) : (s.onIng g).clk = s.clk := rfl
@[simp] theorem onIng_pwr (g : Ing → Ing) : (s.onIng g).pwr = s.pwr := rfl
@[simp] theorem onIng_cfg (g : Ing → Ing) : (s.onIng g).cfg = s.cfg := rfl
@[simp] theorem onIng_bus (g : Ing → Ing) : (s.onIng g).bus = s.bus := rfl
@[simp] theorem onIng_part (g : Ing → Ing) : (s.onIng g).part = s.part := rfl
@[simp] theorem onIng_evr (g : Ing → Ing) : (s.onIng g).evr = s.evr := rfl
@[simp] theorem onIng_msr (g : Ing → Ing) : (s.onIng g).msr = s.msr := rfl
@[simp] theorem onIng_mgt (g : Ing → Ing) : (s.onIng g).mgt = s.mgt := rfl
@[simp] theorem onIng_upd (g : Ing → Ing) : (s.onIng g).upd = s.upd := rfl
@[simp] theorem onIng_chain (g : Ing → Ing) : (s.onIng g).chain = s.chain := rfl
@[simp] theorem onIng_fab (g : Ing → Ing) : (s.onIng g).fab = s.fab := rfl
@[simp] theorem onIng_qpc (g : Ing → Ing) : (s.onIng g).qpc = s.qpc := rfl
@[simp] theorem onIng_cmd (g : Ing → Ing) : (s.onIng g).cmd = s.cmd := rfl
@[simp] theorem onIng_ing (g : Ing → Ing) : (s.onIng g).ing = g s.ing := rfl
@[simp] theorem onIng_prt (g : Ing → Ing) : (s.onIng g).prt = s.prt := rfl
@[simp] theorem onIng_cmp (g : Ing → Ing) : (s.onIng g).cmp = s.cmp := rfl
@[simp] theorem onIng_fpr (g : Ing → Ing) : (s.onIng g).fpr = s.fpr := rfl
@[simp] theorem onIng_cip (g : Ing → Ing) : (s.onIng g).cip = s.cip := rfl
@[simp] theorem onIng_ftl (g : Ing → Ing) : (s.onIng g).ftl = s.ftl := rfl
@[simp] theorem onIng_par (g : Ing → Ing) : (s.onIng g).par = s.par := rfl
@[simp] theorem onIng_jnl (g : Ing → Ing) : (s.onIng g).jnl = s.jnl := rfl
@[simp] theorem onIng_sld (g : Ing → Ing) : (s.onIng g).sld = s.sld := rfl
@[simp] theorem onIng_rpl (g : Ing → Ing) : (s.onIng g).rpl = s.rpl := rfl
@[simp] theorem onIng_buf (g : Ing → Ing) : (s.onIng g).buf = s.buf := rfl
@[simp] theorem onIng_adp (g : Ing → Ing) : (s.onIng g).adp = s.adp := rfl
@[simp] theorem onIng_time (g : Ing → Ing) : (s.onIng g).time = s.time := rfl
@[simp] theorem onIng_tx (g : Ing → Ing) : (s.onIng g).tx = s.tx := rfl
@[simp] theorem onIng_free (g : Ing → Ing) : (s.onIng g).free = s.free := rfl
@[simp] theorem onIng_pending (g : Ing → Ing) : (s.onIng g).pending = s.pending := rfl

@[simp] theorem onPrt_rst (g : Prt → Prt) : (s.onPrt g).rst = s.rst := rfl
@[simp] theorem onPrt_clk (g : Prt → Prt) : (s.onPrt g).clk = s.clk := rfl
@[simp] theorem onPrt_pwr (g : Prt → Prt) : (s.onPrt g).pwr = s.pwr := rfl
@[simp] theorem onPrt_cfg (g : Prt → Prt) : (s.onPrt g).cfg = s.cfg := rfl
@[simp] theorem onPrt_bus (g : Prt → Prt) : (s.onPrt g).bus = s.bus := rfl
@[simp] theorem onPrt_part (g : Prt → Prt) : (s.onPrt g).part = s.part := rfl
@[simp] theorem onPrt_evr (g : Prt → Prt) : (s.onPrt g).evr = s.evr := rfl
@[simp] theorem onPrt_msr (g : Prt → Prt) : (s.onPrt g).msr = s.msr := rfl
@[simp] theorem onPrt_mgt (g : Prt → Prt) : (s.onPrt g).mgt = s.mgt := rfl
@[simp] theorem onPrt_upd (g : Prt → Prt) : (s.onPrt g).upd = s.upd := rfl
@[simp] theorem onPrt_chain (g : Prt → Prt) : (s.onPrt g).chain = s.chain := rfl
@[simp] theorem onPrt_fab (g : Prt → Prt) : (s.onPrt g).fab = s.fab := rfl
@[simp] theorem onPrt_qpc (g : Prt → Prt) : (s.onPrt g).qpc = s.qpc := rfl
@[simp] theorem onPrt_cmd (g : Prt → Prt) : (s.onPrt g).cmd = s.cmd := rfl
@[simp] theorem onPrt_ing (g : Prt → Prt) : (s.onPrt g).ing = s.ing := rfl
@[simp] theorem onPrt_prt (g : Prt → Prt) : (s.onPrt g).prt = g s.prt := rfl
@[simp] theorem onPrt_cmp (g : Prt → Prt) : (s.onPrt g).cmp = s.cmp := rfl
@[simp] theorem onPrt_fpr (g : Prt → Prt) : (s.onPrt g).fpr = s.fpr := rfl
@[simp] theorem onPrt_cip (g : Prt → Prt) : (s.onPrt g).cip = s.cip := rfl
@[simp] theorem onPrt_ftl (g : Prt → Prt) : (s.onPrt g).ftl = s.ftl := rfl
@[simp] theorem onPrt_par (g : Prt → Prt) : (s.onPrt g).par = s.par := rfl
@[simp] theorem onPrt_jnl (g : Prt → Prt) : (s.onPrt g).jnl = s.jnl := rfl
@[simp] theorem onPrt_sld (g : Prt → Prt) : (s.onPrt g).sld = s.sld := rfl
@[simp] theorem onPrt_rpl (g : Prt → Prt) : (s.onPrt g).rpl = s.rpl := rfl
@[simp] theorem onPrt_buf (g : Prt → Prt) : (s.onPrt g).buf = s.buf := rfl
@[simp] theorem onPrt_adp (g : Prt → Prt) : (s.onPrt g).adp = s.adp := rfl
@[simp] theorem onPrt_time (g : Prt → Prt) : (s.onPrt g).time = s.time := rfl
@[simp] theorem onPrt_tx (g : Prt → Prt) : (s.onPrt g).tx = s.tx := rfl
@[simp] theorem onPrt_free (g : Prt → Prt) : (s.onPrt g).free = s.free := rfl
@[simp] theorem onPrt_pending (g : Prt → Prt) : (s.onPrt g).pending = s.pending := rfl

@[simp] theorem onCmp_rst (g : Cmp → Cmp) : (s.onCmp g).rst = s.rst := rfl
@[simp] theorem onCmp_clk (g : Cmp → Cmp) : (s.onCmp g).clk = s.clk := rfl
@[simp] theorem onCmp_pwr (g : Cmp → Cmp) : (s.onCmp g).pwr = s.pwr := rfl
@[simp] theorem onCmp_cfg (g : Cmp → Cmp) : (s.onCmp g).cfg = s.cfg := rfl
@[simp] theorem onCmp_bus (g : Cmp → Cmp) : (s.onCmp g).bus = s.bus := rfl
@[simp] theorem onCmp_part (g : Cmp → Cmp) : (s.onCmp g).part = s.part := rfl
@[simp] theorem onCmp_evr (g : Cmp → Cmp) : (s.onCmp g).evr = s.evr := rfl
@[simp] theorem onCmp_msr (g : Cmp → Cmp) : (s.onCmp g).msr = s.msr := rfl
@[simp] theorem onCmp_mgt (g : Cmp → Cmp) : (s.onCmp g).mgt = s.mgt := rfl
@[simp] theorem onCmp_upd (g : Cmp → Cmp) : (s.onCmp g).upd = s.upd := rfl
@[simp] theorem onCmp_chain (g : Cmp → Cmp) : (s.onCmp g).chain = s.chain := rfl
@[simp] theorem onCmp_fab (g : Cmp → Cmp) : (s.onCmp g).fab = s.fab := rfl
@[simp] theorem onCmp_qpc (g : Cmp → Cmp) : (s.onCmp g).qpc = s.qpc := rfl
@[simp] theorem onCmp_cmd (g : Cmp → Cmp) : (s.onCmp g).cmd = s.cmd := rfl
@[simp] theorem onCmp_ing (g : Cmp → Cmp) : (s.onCmp g).ing = s.ing := rfl
@[simp] theorem onCmp_prt (g : Cmp → Cmp) : (s.onCmp g).prt = s.prt := rfl
@[simp] theorem onCmp_cmp (g : Cmp → Cmp) : (s.onCmp g).cmp = g s.cmp := rfl
@[simp] theorem onCmp_fpr (g : Cmp → Cmp) : (s.onCmp g).fpr = s.fpr := rfl
@[simp] theorem onCmp_cip (g : Cmp → Cmp) : (s.onCmp g).cip = s.cip := rfl
@[simp] theorem onCmp_ftl (g : Cmp → Cmp) : (s.onCmp g).ftl = s.ftl := rfl
@[simp] theorem onCmp_par (g : Cmp → Cmp) : (s.onCmp g).par = s.par := rfl
@[simp] theorem onCmp_jnl (g : Cmp → Cmp) : (s.onCmp g).jnl = s.jnl := rfl
@[simp] theorem onCmp_sld (g : Cmp → Cmp) : (s.onCmp g).sld = s.sld := rfl
@[simp] theorem onCmp_rpl (g : Cmp → Cmp) : (s.onCmp g).rpl = s.rpl := rfl
@[simp] theorem onCmp_buf (g : Cmp → Cmp) : (s.onCmp g).buf = s.buf := rfl
@[simp] theorem onCmp_adp (g : Cmp → Cmp) : (s.onCmp g).adp = s.adp := rfl
@[simp] theorem onCmp_time (g : Cmp → Cmp) : (s.onCmp g).time = s.time := rfl
@[simp] theorem onCmp_tx (g : Cmp → Cmp) : (s.onCmp g).tx = s.tx := rfl
@[simp] theorem onCmp_free (g : Cmp → Cmp) : (s.onCmp g).free = s.free := rfl
@[simp] theorem onCmp_pending (g : Cmp → Cmp) : (s.onCmp g).pending = s.pending := rfl

@[simp] theorem onFpr_rst (g : Fpr → Fpr) : (s.onFpr g).rst = s.rst := rfl
@[simp] theorem onFpr_clk (g : Fpr → Fpr) : (s.onFpr g).clk = s.clk := rfl
@[simp] theorem onFpr_pwr (g : Fpr → Fpr) : (s.onFpr g).pwr = s.pwr := rfl
@[simp] theorem onFpr_cfg (g : Fpr → Fpr) : (s.onFpr g).cfg = s.cfg := rfl
@[simp] theorem onFpr_bus (g : Fpr → Fpr) : (s.onFpr g).bus = s.bus := rfl
@[simp] theorem onFpr_part (g : Fpr → Fpr) : (s.onFpr g).part = s.part := rfl
@[simp] theorem onFpr_evr (g : Fpr → Fpr) : (s.onFpr g).evr = s.evr := rfl
@[simp] theorem onFpr_msr (g : Fpr → Fpr) : (s.onFpr g).msr = s.msr := rfl
@[simp] theorem onFpr_mgt (g : Fpr → Fpr) : (s.onFpr g).mgt = s.mgt := rfl
@[simp] theorem onFpr_upd (g : Fpr → Fpr) : (s.onFpr g).upd = s.upd := rfl
@[simp] theorem onFpr_chain (g : Fpr → Fpr) : (s.onFpr g).chain = s.chain := rfl
@[simp] theorem onFpr_fab (g : Fpr → Fpr) : (s.onFpr g).fab = s.fab := rfl
@[simp] theorem onFpr_qpc (g : Fpr → Fpr) : (s.onFpr g).qpc = s.qpc := rfl
@[simp] theorem onFpr_cmd (g : Fpr → Fpr) : (s.onFpr g).cmd = s.cmd := rfl
@[simp] theorem onFpr_ing (g : Fpr → Fpr) : (s.onFpr g).ing = s.ing := rfl
@[simp] theorem onFpr_prt (g : Fpr → Fpr) : (s.onFpr g).prt = s.prt := rfl
@[simp] theorem onFpr_cmp (g : Fpr → Fpr) : (s.onFpr g).cmp = s.cmp := rfl
@[simp] theorem onFpr_fpr (g : Fpr → Fpr) : (s.onFpr g).fpr = g s.fpr := rfl
@[simp] theorem onFpr_cip (g : Fpr → Fpr) : (s.onFpr g).cip = s.cip := rfl
@[simp] theorem onFpr_ftl (g : Fpr → Fpr) : (s.onFpr g).ftl = s.ftl := rfl
@[simp] theorem onFpr_par (g : Fpr → Fpr) : (s.onFpr g).par = s.par := rfl
@[simp] theorem onFpr_jnl (g : Fpr → Fpr) : (s.onFpr g).jnl = s.jnl := rfl
@[simp] theorem onFpr_sld (g : Fpr → Fpr) : (s.onFpr g).sld = s.sld := rfl
@[simp] theorem onFpr_rpl (g : Fpr → Fpr) : (s.onFpr g).rpl = s.rpl := rfl
@[simp] theorem onFpr_buf (g : Fpr → Fpr) : (s.onFpr g).buf = s.buf := rfl
@[simp] theorem onFpr_adp (g : Fpr → Fpr) : (s.onFpr g).adp = s.adp := rfl
@[simp] theorem onFpr_time (g : Fpr → Fpr) : (s.onFpr g).time = s.time := rfl
@[simp] theorem onFpr_tx (g : Fpr → Fpr) : (s.onFpr g).tx = s.tx := rfl
@[simp] theorem onFpr_free (g : Fpr → Fpr) : (s.onFpr g).free = s.free := rfl
@[simp] theorem onFpr_pending (g : Fpr → Fpr) : (s.onFpr g).pending = s.pending := rfl

@[simp] theorem onCip_rst (g : Cip → Cip) : (s.onCip g).rst = s.rst := rfl
@[simp] theorem onCip_clk (g : Cip → Cip) : (s.onCip g).clk = s.clk := rfl
@[simp] theorem onCip_pwr (g : Cip → Cip) : (s.onCip g).pwr = s.pwr := rfl
@[simp] theorem onCip_cfg (g : Cip → Cip) : (s.onCip g).cfg = s.cfg := rfl
@[simp] theorem onCip_bus (g : Cip → Cip) : (s.onCip g).bus = s.bus := rfl
@[simp] theorem onCip_part (g : Cip → Cip) : (s.onCip g).part = s.part := rfl
@[simp] theorem onCip_evr (g : Cip → Cip) : (s.onCip g).evr = s.evr := rfl
@[simp] theorem onCip_msr (g : Cip → Cip) : (s.onCip g).msr = s.msr := rfl
@[simp] theorem onCip_mgt (g : Cip → Cip) : (s.onCip g).mgt = s.mgt := rfl
@[simp] theorem onCip_upd (g : Cip → Cip) : (s.onCip g).upd = s.upd := rfl
@[simp] theorem onCip_chain (g : Cip → Cip) : (s.onCip g).chain = s.chain := rfl
@[simp] theorem onCip_fab (g : Cip → Cip) : (s.onCip g).fab = s.fab := rfl
@[simp] theorem onCip_qpc (g : Cip → Cip) : (s.onCip g).qpc = s.qpc := rfl
@[simp] theorem onCip_cmd (g : Cip → Cip) : (s.onCip g).cmd = s.cmd := rfl
@[simp] theorem onCip_ing (g : Cip → Cip) : (s.onCip g).ing = s.ing := rfl
@[simp] theorem onCip_prt (g : Cip → Cip) : (s.onCip g).prt = s.prt := rfl
@[simp] theorem onCip_cmp (g : Cip → Cip) : (s.onCip g).cmp = s.cmp := rfl
@[simp] theorem onCip_fpr (g : Cip → Cip) : (s.onCip g).fpr = s.fpr := rfl
@[simp] theorem onCip_cip (g : Cip → Cip) : (s.onCip g).cip = g s.cip := rfl
@[simp] theorem onCip_ftl (g : Cip → Cip) : (s.onCip g).ftl = s.ftl := rfl
@[simp] theorem onCip_par (g : Cip → Cip) : (s.onCip g).par = s.par := rfl
@[simp] theorem onCip_jnl (g : Cip → Cip) : (s.onCip g).jnl = s.jnl := rfl
@[simp] theorem onCip_sld (g : Cip → Cip) : (s.onCip g).sld = s.sld := rfl
@[simp] theorem onCip_rpl (g : Cip → Cip) : (s.onCip g).rpl = s.rpl := rfl
@[simp] theorem onCip_buf (g : Cip → Cip) : (s.onCip g).buf = s.buf := rfl
@[simp] theorem onCip_adp (g : Cip → Cip) : (s.onCip g).adp = s.adp := rfl
@[simp] theorem onCip_time (g : Cip → Cip) : (s.onCip g).time = s.time := rfl
@[simp] theorem onCip_tx (g : Cip → Cip) : (s.onCip g).tx = s.tx := rfl
@[simp] theorem onCip_free (g : Cip → Cip) : (s.onCip g).free = s.free := rfl
@[simp] theorem onCip_pending (g : Cip → Cip) : (s.onCip g).pending = s.pending := rfl

@[simp] theorem onFtl_rst (g : Ftl → Ftl) : (s.onFtl g).rst = s.rst := rfl
@[simp] theorem onFtl_clk (g : Ftl → Ftl) : (s.onFtl g).clk = s.clk := rfl
@[simp] theorem onFtl_pwr (g : Ftl → Ftl) : (s.onFtl g).pwr = s.pwr := rfl
@[simp] theorem onFtl_cfg (g : Ftl → Ftl) : (s.onFtl g).cfg = s.cfg := rfl
@[simp] theorem onFtl_bus (g : Ftl → Ftl) : (s.onFtl g).bus = s.bus := rfl
@[simp] theorem onFtl_part (g : Ftl → Ftl) : (s.onFtl g).part = s.part := rfl
@[simp] theorem onFtl_evr (g : Ftl → Ftl) : (s.onFtl g).evr = s.evr := rfl
@[simp] theorem onFtl_msr (g : Ftl → Ftl) : (s.onFtl g).msr = s.msr := rfl
@[simp] theorem onFtl_mgt (g : Ftl → Ftl) : (s.onFtl g).mgt = s.mgt := rfl
@[simp] theorem onFtl_upd (g : Ftl → Ftl) : (s.onFtl g).upd = s.upd := rfl
@[simp] theorem onFtl_chain (g : Ftl → Ftl) : (s.onFtl g).chain = s.chain := rfl
@[simp] theorem onFtl_fab (g : Ftl → Ftl) : (s.onFtl g).fab = s.fab := rfl
@[simp] theorem onFtl_qpc (g : Ftl → Ftl) : (s.onFtl g).qpc = s.qpc := rfl
@[simp] theorem onFtl_cmd (g : Ftl → Ftl) : (s.onFtl g).cmd = s.cmd := rfl
@[simp] theorem onFtl_ing (g : Ftl → Ftl) : (s.onFtl g).ing = s.ing := rfl
@[simp] theorem onFtl_prt (g : Ftl → Ftl) : (s.onFtl g).prt = s.prt := rfl
@[simp] theorem onFtl_cmp (g : Ftl → Ftl) : (s.onFtl g).cmp = s.cmp := rfl
@[simp] theorem onFtl_fpr (g : Ftl → Ftl) : (s.onFtl g).fpr = s.fpr := rfl
@[simp] theorem onFtl_cip (g : Ftl → Ftl) : (s.onFtl g).cip = s.cip := rfl
@[simp] theorem onFtl_ftl (g : Ftl → Ftl) : (s.onFtl g).ftl = g s.ftl := rfl
@[simp] theorem onFtl_par (g : Ftl → Ftl) : (s.onFtl g).par = s.par := rfl
@[simp] theorem onFtl_jnl (g : Ftl → Ftl) : (s.onFtl g).jnl = s.jnl := rfl
@[simp] theorem onFtl_sld (g : Ftl → Ftl) : (s.onFtl g).sld = s.sld := rfl
@[simp] theorem onFtl_rpl (g : Ftl → Ftl) : (s.onFtl g).rpl = s.rpl := rfl
@[simp] theorem onFtl_buf (g : Ftl → Ftl) : (s.onFtl g).buf = s.buf := rfl
@[simp] theorem onFtl_adp (g : Ftl → Ftl) : (s.onFtl g).adp = s.adp := rfl
@[simp] theorem onFtl_time (g : Ftl → Ftl) : (s.onFtl g).time = s.time := rfl
@[simp] theorem onFtl_tx (g : Ftl → Ftl) : (s.onFtl g).tx = s.tx := rfl
@[simp] theorem onFtl_free (g : Ftl → Ftl) : (s.onFtl g).free = s.free := rfl
@[simp] theorem onFtl_pending (g : Ftl → Ftl) : (s.onFtl g).pending = s.pending := rfl

@[simp] theorem onPar_rst (g : Par → Par) : (s.onPar g).rst = s.rst := rfl
@[simp] theorem onPar_clk (g : Par → Par) : (s.onPar g).clk = s.clk := rfl
@[simp] theorem onPar_pwr (g : Par → Par) : (s.onPar g).pwr = s.pwr := rfl
@[simp] theorem onPar_cfg (g : Par → Par) : (s.onPar g).cfg = s.cfg := rfl
@[simp] theorem onPar_bus (g : Par → Par) : (s.onPar g).bus = s.bus := rfl
@[simp] theorem onPar_part (g : Par → Par) : (s.onPar g).part = s.part := rfl
@[simp] theorem onPar_evr (g : Par → Par) : (s.onPar g).evr = s.evr := rfl
@[simp] theorem onPar_msr (g : Par → Par) : (s.onPar g).msr = s.msr := rfl
@[simp] theorem onPar_mgt (g : Par → Par) : (s.onPar g).mgt = s.mgt := rfl
@[simp] theorem onPar_upd (g : Par → Par) : (s.onPar g).upd = s.upd := rfl
@[simp] theorem onPar_chain (g : Par → Par) : (s.onPar g).chain = s.chain := rfl
@[simp] theorem onPar_fab (g : Par → Par) : (s.onPar g).fab = s.fab := rfl
@[simp] theorem onPar_qpc (g : Par → Par) : (s.onPar g).qpc = s.qpc := rfl
@[simp] theorem onPar_cmd (g : Par → Par) : (s.onPar g).cmd = s.cmd := rfl
@[simp] theorem onPar_ing (g : Par → Par) : (s.onPar g).ing = s.ing := rfl
@[simp] theorem onPar_prt (g : Par → Par) : (s.onPar g).prt = s.prt := rfl
@[simp] theorem onPar_cmp (g : Par → Par) : (s.onPar g).cmp = s.cmp := rfl
@[simp] theorem onPar_fpr (g : Par → Par) : (s.onPar g).fpr = s.fpr := rfl
@[simp] theorem onPar_cip (g : Par → Par) : (s.onPar g).cip = s.cip := rfl
@[simp] theorem onPar_ftl (g : Par → Par) : (s.onPar g).ftl = s.ftl := rfl
@[simp] theorem onPar_par (g : Par → Par) : (s.onPar g).par = g s.par := rfl
@[simp] theorem onPar_jnl (g : Par → Par) : (s.onPar g).jnl = s.jnl := rfl
@[simp] theorem onPar_sld (g : Par → Par) : (s.onPar g).sld = s.sld := rfl
@[simp] theorem onPar_rpl (g : Par → Par) : (s.onPar g).rpl = s.rpl := rfl
@[simp] theorem onPar_buf (g : Par → Par) : (s.onPar g).buf = s.buf := rfl
@[simp] theorem onPar_adp (g : Par → Par) : (s.onPar g).adp = s.adp := rfl
@[simp] theorem onPar_time (g : Par → Par) : (s.onPar g).time = s.time := rfl
@[simp] theorem onPar_tx (g : Par → Par) : (s.onPar g).tx = s.tx := rfl
@[simp] theorem onPar_free (g : Par → Par) : (s.onPar g).free = s.free := rfl
@[simp] theorem onPar_pending (g : Par → Par) : (s.onPar g).pending = s.pending := rfl

@[simp] theorem onJnl_rst (g : Jnl → Jnl) : (s.onJnl g).rst = s.rst := rfl
@[simp] theorem onJnl_clk (g : Jnl → Jnl) : (s.onJnl g).clk = s.clk := rfl
@[simp] theorem onJnl_pwr (g : Jnl → Jnl) : (s.onJnl g).pwr = s.pwr := rfl
@[simp] theorem onJnl_cfg (g : Jnl → Jnl) : (s.onJnl g).cfg = s.cfg := rfl
@[simp] theorem onJnl_bus (g : Jnl → Jnl) : (s.onJnl g).bus = s.bus := rfl
@[simp] theorem onJnl_part (g : Jnl → Jnl) : (s.onJnl g).part = s.part := rfl
@[simp] theorem onJnl_evr (g : Jnl → Jnl) : (s.onJnl g).evr = s.evr := rfl
@[simp] theorem onJnl_msr (g : Jnl → Jnl) : (s.onJnl g).msr = s.msr := rfl
@[simp] theorem onJnl_mgt (g : Jnl → Jnl) : (s.onJnl g).mgt = s.mgt := rfl
@[simp] theorem onJnl_upd (g : Jnl → Jnl) : (s.onJnl g).upd = s.upd := rfl
@[simp] theorem onJnl_chain (g : Jnl → Jnl) : (s.onJnl g).chain = s.chain := rfl
@[simp] theorem onJnl_fab (g : Jnl → Jnl) : (s.onJnl g).fab = s.fab := rfl
@[simp] theorem onJnl_qpc (g : Jnl → Jnl) : (s.onJnl g).qpc = s.qpc := rfl
@[simp] theorem onJnl_cmd (g : Jnl → Jnl) : (s.onJnl g).cmd = s.cmd := rfl
@[simp] theorem onJnl_ing (g : Jnl → Jnl) : (s.onJnl g).ing = s.ing := rfl
@[simp] theorem onJnl_prt (g : Jnl → Jnl) : (s.onJnl g).prt = s.prt := rfl
@[simp] theorem onJnl_cmp (g : Jnl → Jnl) : (s.onJnl g).cmp = s.cmp := rfl
@[simp] theorem onJnl_fpr (g : Jnl → Jnl) : (s.onJnl g).fpr = s.fpr := rfl
@[simp] theorem onJnl_cip (g : Jnl → Jnl) : (s.onJnl g).cip = s.cip := rfl
@[simp] theorem onJnl_ftl (g : Jnl → Jnl) : (s.onJnl g).ftl = s.ftl := rfl
@[simp] theorem onJnl_par (g : Jnl → Jnl) : (s.onJnl g).par = s.par := rfl
@[simp] theorem onJnl_jnl (g : Jnl → Jnl) : (s.onJnl g).jnl = g s.jnl := rfl
@[simp] theorem onJnl_sld (g : Jnl → Jnl) : (s.onJnl g).sld = s.sld := rfl
@[simp] theorem onJnl_rpl (g : Jnl → Jnl) : (s.onJnl g).rpl = s.rpl := rfl
@[simp] theorem onJnl_buf (g : Jnl → Jnl) : (s.onJnl g).buf = s.buf := rfl
@[simp] theorem onJnl_adp (g : Jnl → Jnl) : (s.onJnl g).adp = s.adp := rfl
@[simp] theorem onJnl_time (g : Jnl → Jnl) : (s.onJnl g).time = s.time := rfl
@[simp] theorem onJnl_tx (g : Jnl → Jnl) : (s.onJnl g).tx = s.tx := rfl
@[simp] theorem onJnl_free (g : Jnl → Jnl) : (s.onJnl g).free = s.free := rfl
@[simp] theorem onJnl_pending (g : Jnl → Jnl) : (s.onJnl g).pending = s.pending := rfl

@[simp] theorem onSld_rst (g : Sld → Sld) : (s.onSld g).rst = s.rst := rfl
@[simp] theorem onSld_clk (g : Sld → Sld) : (s.onSld g).clk = s.clk := rfl
@[simp] theorem onSld_pwr (g : Sld → Sld) : (s.onSld g).pwr = s.pwr := rfl
@[simp] theorem onSld_cfg (g : Sld → Sld) : (s.onSld g).cfg = s.cfg := rfl
@[simp] theorem onSld_bus (g : Sld → Sld) : (s.onSld g).bus = s.bus := rfl
@[simp] theorem onSld_part (g : Sld → Sld) : (s.onSld g).part = s.part := rfl
@[simp] theorem onSld_evr (g : Sld → Sld) : (s.onSld g).evr = s.evr := rfl
@[simp] theorem onSld_msr (g : Sld → Sld) : (s.onSld g).msr = s.msr := rfl
@[simp] theorem onSld_mgt (g : Sld → Sld) : (s.onSld g).mgt = s.mgt := rfl
@[simp] theorem onSld_upd (g : Sld → Sld) : (s.onSld g).upd = s.upd := rfl
@[simp] theorem onSld_chain (g : Sld → Sld) : (s.onSld g).chain = s.chain := rfl
@[simp] theorem onSld_fab (g : Sld → Sld) : (s.onSld g).fab = s.fab := rfl
@[simp] theorem onSld_qpc (g : Sld → Sld) : (s.onSld g).qpc = s.qpc := rfl
@[simp] theorem onSld_cmd (g : Sld → Sld) : (s.onSld g).cmd = s.cmd := rfl
@[simp] theorem onSld_ing (g : Sld → Sld) : (s.onSld g).ing = s.ing := rfl
@[simp] theorem onSld_prt (g : Sld → Sld) : (s.onSld g).prt = s.prt := rfl
@[simp] theorem onSld_cmp (g : Sld → Sld) : (s.onSld g).cmp = s.cmp := rfl
@[simp] theorem onSld_fpr (g : Sld → Sld) : (s.onSld g).fpr = s.fpr := rfl
@[simp] theorem onSld_cip (g : Sld → Sld) : (s.onSld g).cip = s.cip := rfl
@[simp] theorem onSld_ftl (g : Sld → Sld) : (s.onSld g).ftl = s.ftl := rfl
@[simp] theorem onSld_par (g : Sld → Sld) : (s.onSld g).par = s.par := rfl
@[simp] theorem onSld_jnl (g : Sld → Sld) : (s.onSld g).jnl = s.jnl := rfl
@[simp] theorem onSld_sld (g : Sld → Sld) : (s.onSld g).sld = g s.sld := rfl
@[simp] theorem onSld_rpl (g : Sld → Sld) : (s.onSld g).rpl = s.rpl := rfl
@[simp] theorem onSld_buf (g : Sld → Sld) : (s.onSld g).buf = s.buf := rfl
@[simp] theorem onSld_adp (g : Sld → Sld) : (s.onSld g).adp = s.adp := rfl
@[simp] theorem onSld_time (g : Sld → Sld) : (s.onSld g).time = s.time := rfl
@[simp] theorem onSld_tx (g : Sld → Sld) : (s.onSld g).tx = s.tx := rfl
@[simp] theorem onSld_free (g : Sld → Sld) : (s.onSld g).free = s.free := rfl
@[simp] theorem onSld_pending (g : Sld → Sld) : (s.onSld g).pending = s.pending := rfl

@[simp] theorem onRpl_rst (g : Rpl → Rpl) : (s.onRpl g).rst = s.rst := rfl
@[simp] theorem onRpl_clk (g : Rpl → Rpl) : (s.onRpl g).clk = s.clk := rfl
@[simp] theorem onRpl_pwr (g : Rpl → Rpl) : (s.onRpl g).pwr = s.pwr := rfl
@[simp] theorem onRpl_cfg (g : Rpl → Rpl) : (s.onRpl g).cfg = s.cfg := rfl
@[simp] theorem onRpl_bus (g : Rpl → Rpl) : (s.onRpl g).bus = s.bus := rfl
@[simp] theorem onRpl_part (g : Rpl → Rpl) : (s.onRpl g).part = s.part := rfl
@[simp] theorem onRpl_evr (g : Rpl → Rpl) : (s.onRpl g).evr = s.evr := rfl
@[simp] theorem onRpl_msr (g : Rpl → Rpl) : (s.onRpl g).msr = s.msr := rfl
@[simp] theorem onRpl_mgt (g : Rpl → Rpl) : (s.onRpl g).mgt = s.mgt := rfl
@[simp] theorem onRpl_upd (g : Rpl → Rpl) : (s.onRpl g).upd = s.upd := rfl
@[simp] theorem onRpl_chain (g : Rpl → Rpl) : (s.onRpl g).chain = s.chain := rfl
@[simp] theorem onRpl_fab (g : Rpl → Rpl) : (s.onRpl g).fab = s.fab := rfl
@[simp] theorem onRpl_qpc (g : Rpl → Rpl) : (s.onRpl g).qpc = s.qpc := rfl
@[simp] theorem onRpl_cmd (g : Rpl → Rpl) : (s.onRpl g).cmd = s.cmd := rfl
@[simp] theorem onRpl_ing (g : Rpl → Rpl) : (s.onRpl g).ing = s.ing := rfl
@[simp] theorem onRpl_prt (g : Rpl → Rpl) : (s.onRpl g).prt = s.prt := rfl
@[simp] theorem onRpl_cmp (g : Rpl → Rpl) : (s.onRpl g).cmp = s.cmp := rfl
@[simp] theorem onRpl_fpr (g : Rpl → Rpl) : (s.onRpl g).fpr = s.fpr := rfl
@[simp] theorem onRpl_cip (g : Rpl → Rpl) : (s.onRpl g).cip = s.cip := rfl
@[simp] theorem onRpl_ftl (g : Rpl → Rpl) : (s.onRpl g).ftl = s.ftl := rfl
@[simp] theorem onRpl_par (g : Rpl → Rpl) : (s.onRpl g).par = s.par := rfl
@[simp] theorem onRpl_jnl (g : Rpl → Rpl) : (s.onRpl g).jnl = s.jnl := rfl
@[simp] theorem onRpl_sld (g : Rpl → Rpl) : (s.onRpl g).sld = s.sld := rfl
@[simp] theorem onRpl_rpl (g : Rpl → Rpl) : (s.onRpl g).rpl = g s.rpl := rfl
@[simp] theorem onRpl_buf (g : Rpl → Rpl) : (s.onRpl g).buf = s.buf := rfl
@[simp] theorem onRpl_adp (g : Rpl → Rpl) : (s.onRpl g).adp = s.adp := rfl
@[simp] theorem onRpl_time (g : Rpl → Rpl) : (s.onRpl g).time = s.time := rfl
@[simp] theorem onRpl_tx (g : Rpl → Rpl) : (s.onRpl g).tx = s.tx := rfl
@[simp] theorem onRpl_free (g : Rpl → Rpl) : (s.onRpl g).free = s.free := rfl
@[simp] theorem onRpl_pending (g : Rpl → Rpl) : (s.onRpl g).pending = s.pending := rfl

@[simp] theorem onBuf_rst (g : Buf → Buf) : (s.onBuf g).rst = s.rst := rfl
@[simp] theorem onBuf_clk (g : Buf → Buf) : (s.onBuf g).clk = s.clk := rfl
@[simp] theorem onBuf_pwr (g : Buf → Buf) : (s.onBuf g).pwr = s.pwr := rfl
@[simp] theorem onBuf_cfg (g : Buf → Buf) : (s.onBuf g).cfg = s.cfg := rfl
@[simp] theorem onBuf_bus (g : Buf → Buf) : (s.onBuf g).bus = s.bus := rfl
@[simp] theorem onBuf_part (g : Buf → Buf) : (s.onBuf g).part = s.part := rfl
@[simp] theorem onBuf_evr (g : Buf → Buf) : (s.onBuf g).evr = s.evr := rfl
@[simp] theorem onBuf_msr (g : Buf → Buf) : (s.onBuf g).msr = s.msr := rfl
@[simp] theorem onBuf_mgt (g : Buf → Buf) : (s.onBuf g).mgt = s.mgt := rfl
@[simp] theorem onBuf_upd (g : Buf → Buf) : (s.onBuf g).upd = s.upd := rfl
@[simp] theorem onBuf_chain (g : Buf → Buf) : (s.onBuf g).chain = s.chain := rfl
@[simp] theorem onBuf_fab (g : Buf → Buf) : (s.onBuf g).fab = s.fab := rfl
@[simp] theorem onBuf_qpc (g : Buf → Buf) : (s.onBuf g).qpc = s.qpc := rfl
@[simp] theorem onBuf_cmd (g : Buf → Buf) : (s.onBuf g).cmd = s.cmd := rfl
@[simp] theorem onBuf_ing (g : Buf → Buf) : (s.onBuf g).ing = s.ing := rfl
@[simp] theorem onBuf_prt (g : Buf → Buf) : (s.onBuf g).prt = s.prt := rfl
@[simp] theorem onBuf_cmp (g : Buf → Buf) : (s.onBuf g).cmp = s.cmp := rfl
@[simp] theorem onBuf_fpr (g : Buf → Buf) : (s.onBuf g).fpr = s.fpr := rfl
@[simp] theorem onBuf_cip (g : Buf → Buf) : (s.onBuf g).cip = s.cip := rfl
@[simp] theorem onBuf_ftl (g : Buf → Buf) : (s.onBuf g).ftl = s.ftl := rfl
@[simp] theorem onBuf_par (g : Buf → Buf) : (s.onBuf g).par = s.par := rfl
@[simp] theorem onBuf_jnl (g : Buf → Buf) : (s.onBuf g).jnl = s.jnl := rfl
@[simp] theorem onBuf_sld (g : Buf → Buf) : (s.onBuf g).sld = s.sld := rfl
@[simp] theorem onBuf_rpl (g : Buf → Buf) : (s.onBuf g).rpl = s.rpl := rfl
@[simp] theorem onBuf_buf (g : Buf → Buf) : (s.onBuf g).buf = g s.buf := rfl
@[simp] theorem onBuf_adp (g : Buf → Buf) : (s.onBuf g).adp = s.adp := rfl
@[simp] theorem onBuf_time (g : Buf → Buf) : (s.onBuf g).time = s.time := rfl
@[simp] theorem onBuf_tx (g : Buf → Buf) : (s.onBuf g).tx = s.tx := rfl
@[simp] theorem onBuf_free (g : Buf → Buf) : (s.onBuf g).free = s.free := rfl
@[simp] theorem onBuf_pending (g : Buf → Buf) : (s.onBuf g).pending = s.pending := rfl

@[simp] theorem onAdp_rst (g : Adp → Adp) : (s.onAdp g).rst = s.rst := rfl
@[simp] theorem onAdp_clk (g : Adp → Adp) : (s.onAdp g).clk = s.clk := rfl
@[simp] theorem onAdp_pwr (g : Adp → Adp) : (s.onAdp g).pwr = s.pwr := rfl
@[simp] theorem onAdp_cfg (g : Adp → Adp) : (s.onAdp g).cfg = s.cfg := rfl
@[simp] theorem onAdp_bus (g : Adp → Adp) : (s.onAdp g).bus = s.bus := rfl
@[simp] theorem onAdp_part (g : Adp → Adp) : (s.onAdp g).part = s.part := rfl
@[simp] theorem onAdp_evr (g : Adp → Adp) : (s.onAdp g).evr = s.evr := rfl
@[simp] theorem onAdp_msr (g : Adp → Adp) : (s.onAdp g).msr = s.msr := rfl
@[simp] theorem onAdp_mgt (g : Adp → Adp) : (s.onAdp g).mgt = s.mgt := rfl
@[simp] theorem onAdp_upd (g : Adp → Adp) : (s.onAdp g).upd = s.upd := rfl
@[simp] theorem onAdp_chain (g : Adp → Adp) : (s.onAdp g).chain = s.chain := rfl
@[simp] theorem onAdp_fab (g : Adp → Adp) : (s.onAdp g).fab = s.fab := rfl
@[simp] theorem onAdp_qpc (g : Adp → Adp) : (s.onAdp g).qpc = s.qpc := rfl
@[simp] theorem onAdp_cmd (g : Adp → Adp) : (s.onAdp g).cmd = s.cmd := rfl
@[simp] theorem onAdp_ing (g : Adp → Adp) : (s.onAdp g).ing = s.ing := rfl
@[simp] theorem onAdp_prt (g : Adp → Adp) : (s.onAdp g).prt = s.prt := rfl
@[simp] theorem onAdp_cmp (g : Adp → Adp) : (s.onAdp g).cmp = s.cmp := rfl
@[simp] theorem onAdp_fpr (g : Adp → Adp) : (s.onAdp g).fpr = s.fpr := rfl
@[simp] theorem onAdp_cip (g : Adp → Adp) : (s.onAdp g).cip = s.cip := rfl
@[simp] theorem onAdp_ftl (g : Adp → Adp) : (s.onAdp g).ftl = s.ftl := rfl
@[simp] theorem onAdp_par (g : Adp → Adp) : (s.onAdp g).par = s.par := rfl
@[simp] theorem onAdp_jnl (g : Adp → Adp) : (s.onAdp g).jnl = s.jnl := rfl
@[simp] theorem onAdp_sld (g : Adp → Adp) : (s.onAdp g).sld = s.sld := rfl
@[simp] theorem onAdp_rpl (g : Adp → Adp) : (s.onAdp g).rpl = s.rpl := rfl
@[simp] theorem onAdp_buf (g : Adp → Adp) : (s.onAdp g).buf = s.buf := rfl
@[simp] theorem onAdp_adp (g : Adp → Adp) : (s.onAdp g).adp = g s.adp := rfl
@[simp] theorem onAdp_time (g : Adp → Adp) : (s.onAdp g).time = s.time := rfl
@[simp] theorem onAdp_tx (g : Adp → Adp) : (s.onAdp g).tx = s.tx := rfl
@[simp] theorem onAdp_free (g : Adp → Adp) : (s.onAdp g).free = s.free := rfl
@[simp] theorem onAdp_pending (g : Adp → Adp) : (s.onAdp g).pending = s.pending := rfl

@[simp] theorem send_rst (x : Tx) : (s.send x).rst = s.rst := rfl
@[simp] theorem send_clk (x : Tx) : (s.send x).clk = s.clk := rfl
@[simp] theorem send_pwr (x : Tx) : (s.send x).pwr = s.pwr := rfl
@[simp] theorem send_cfg (x : Tx) : (s.send x).cfg = s.cfg := rfl
@[simp] theorem send_bus (x : Tx) : (s.send x).bus = s.bus := rfl
@[simp] theorem send_part (x : Tx) : (s.send x).part = s.part := rfl
@[simp] theorem send_evr (x : Tx) : (s.send x).evr = s.evr := rfl
@[simp] theorem send_msr (x : Tx) : (s.send x).msr = s.msr := rfl
@[simp] theorem send_mgt (x : Tx) : (s.send x).mgt = s.mgt := rfl
@[simp] theorem send_upd (x : Tx) : (s.send x).upd = s.upd := rfl
@[simp] theorem send_chain (x : Tx) : (s.send x).chain = s.chain := rfl
@[simp] theorem send_fab (x : Tx) : (s.send x).fab = s.fab := rfl
@[simp] theorem send_qpc (x : Tx) : (s.send x).qpc = s.qpc := rfl
@[simp] theorem send_cmd (x : Tx) : (s.send x).cmd = s.cmd := rfl
@[simp] theorem send_ing (x : Tx) : (s.send x).ing = s.ing := rfl
@[simp] theorem send_prt (x : Tx) : (s.send x).prt = s.prt := rfl
@[simp] theorem send_cmp (x : Tx) : (s.send x).cmp = s.cmp := rfl
@[simp] theorem send_fpr (x : Tx) : (s.send x).fpr = s.fpr := rfl
@[simp] theorem send_cip (x : Tx) : (s.send x).cip = s.cip := rfl
@[simp] theorem send_ftl (x : Tx) : (s.send x).ftl = s.ftl := rfl
@[simp] theorem send_par (x : Tx) : (s.send x).par = s.par := rfl
@[simp] theorem send_jnl (x : Tx) : (s.send x).jnl = s.jnl := rfl
@[simp] theorem send_sld (x : Tx) : (s.send x).sld = s.sld := rfl
@[simp] theorem send_rpl (x : Tx) : (s.send x).rpl = s.rpl := rfl
@[simp] theorem send_buf (x : Tx) : (s.send x).buf = s.buf := rfl
@[simp] theorem send_adp (x : Tx) : (s.send x).adp = s.adp := rfl
@[simp] theorem send_time (x : Tx) : (s.send x).time = s.time := rfl
@[simp] theorem send_tx (x : Tx) : (s.send x).tx = x :: s.tx := rfl
@[simp] theorem send_free (x : Tx) : (s.send x).free = s.free := rfl
@[simp] theorem send_pending (x : Tx) : (s.send x).pending = s.pending := rfl

@[simp] theorem withPending_rst (q : List Instr) : (s.withPending q).rst = s.rst := rfl
@[simp] theorem withPending_clk (q : List Instr) : (s.withPending q).clk = s.clk := rfl
@[simp] theorem withPending_pwr (q : List Instr) : (s.withPending q).pwr = s.pwr := rfl
@[simp] theorem withPending_cfg (q : List Instr) : (s.withPending q).cfg = s.cfg := rfl
@[simp] theorem withPending_bus (q : List Instr) : (s.withPending q).bus = s.bus := rfl
@[simp] theorem withPending_part (q : List Instr) : (s.withPending q).part = s.part := rfl
@[simp] theorem withPending_evr (q : List Instr) : (s.withPending q).evr = s.evr := rfl
@[simp] theorem withPending_msr (q : List Instr) : (s.withPending q).msr = s.msr := rfl
@[simp] theorem withPending_mgt (q : List Instr) : (s.withPending q).mgt = s.mgt := rfl
@[simp] theorem withPending_upd (q : List Instr) : (s.withPending q).upd = s.upd := rfl
@[simp] theorem withPending_chain (q : List Instr) : (s.withPending q).chain = s.chain := rfl
@[simp] theorem withPending_fab (q : List Instr) : (s.withPending q).fab = s.fab := rfl
@[simp] theorem withPending_qpc (q : List Instr) : (s.withPending q).qpc = s.qpc := rfl
@[simp] theorem withPending_cmd (q : List Instr) : (s.withPending q).cmd = s.cmd := rfl
@[simp] theorem withPending_ing (q : List Instr) : (s.withPending q).ing = s.ing := rfl
@[simp] theorem withPending_prt (q : List Instr) : (s.withPending q).prt = s.prt := rfl
@[simp] theorem withPending_cmp (q : List Instr) : (s.withPending q).cmp = s.cmp := rfl
@[simp] theorem withPending_fpr (q : List Instr) : (s.withPending q).fpr = s.fpr := rfl
@[simp] theorem withPending_cip (q : List Instr) : (s.withPending q).cip = s.cip := rfl
@[simp] theorem withPending_ftl (q : List Instr) : (s.withPending q).ftl = s.ftl := rfl
@[simp] theorem withPending_par (q : List Instr) : (s.withPending q).par = s.par := rfl
@[simp] theorem withPending_jnl (q : List Instr) : (s.withPending q).jnl = s.jnl := rfl
@[simp] theorem withPending_sld (q : List Instr) : (s.withPending q).sld = s.sld := rfl
@[simp] theorem withPending_rpl (q : List Instr) : (s.withPending q).rpl = s.rpl := rfl
@[simp] theorem withPending_buf (q : List Instr) : (s.withPending q).buf = s.buf := rfl
@[simp] theorem withPending_adp (q : List Instr) : (s.withPending q).adp = s.adp := rfl
@[simp] theorem withPending_time (q : List Instr) : (s.withPending q).time = s.time := rfl
@[simp] theorem withPending_tx (q : List Instr) : (s.withPending q).tx = s.tx := rfl
@[simp] theorem withPending_free (q : List Instr) : (s.withPending q).free = s.free := rfl
@[simp] theorem withPending_pending (q : List Instr) : (s.withPending q).pending = q := rfl

end Sys2Proof.Machine
end

