-- ==== Sys2Proof/Laws/Access.lean ====
section
/-! SUPPORT. The register space: which accesses of the always-on blocks reach their register, and what an access then is. -/

namespace Sys2Proof.Machine

/-- RST, CLK and PWR answer whatever is in reset (R587). -/
theorem domainUp_alwaysOn (s : State) (a : Nat) (h : a / 2 ^ 16 = 0x14 ∨ a / 2 ^ 16 = 0x15 ∨ a / 2 ^ 16 = 0x16) : s.domainUp a = true := by
  have k : (s.rst.l3Held.any fun t => t.block == a / 2 ^ 16 && !(t == .sld && decide (a % 2 ^ 16 ≤ 0xC))) = false := by
    rw [List.any_eq_false]
    intro t _
    generalize a / 2 ^ 16 = b at h
    rcases h with h | h | h <;> subst h <;> cases t <;> intro hf <;> exact absurd hf (by simp [Target.block])
  unfold State.domainUp
  dsimp only
  rw [k]
  rcases h with h | h | h <;> rw [h] <;> rfl

/-- A whole-word access of RST, CLK or PWR by a requester that can make accesses reaches its register. -/
theorem accessStop_alwaysOn (s : State) (r : Requester) (a : Nat) (hr : s.reaches r = true) (ha : a % 4 = 0)
    (h : a / 2 ^ 16 = 0x14 ∨ a / 2 ^ 16 = 0x15 ∨ a / 2 ^ 16 = 0x16) : s.accessStop r a 4 = none := by
  have hd := domainUp_alwaysOn s a h
  have hb : ¬ mgmtBlocks ≤ a / 2 ^ 16 := by unfold mgmtBlocks; omega
  unfold State.accessStop
  rw [if_neg (by simp [hr]), if_neg]
  rintro (h4 | h4 | h4 | h4)
  · exact h4 rfl
  · exact h4 ha
  · exact hb h4
  · exact h4 hd

/-- A write that reaches its register. -/
theorem regWrite_at {s : State} {r : Requester} {a v : Nat} {g : Reg} (h : s.accessStop r a 4 = none) (k : regAt a = some g) :
    regWrite r a 4 v s = g.write r v s := by
  unfold regWrite access; rw [h, k]

/-- A read that reaches its register. -/
theorem regRead_at {s : State} {r : Requester} {a : Nat} {g : Reg} (h : s.accessStop r a 4 = none) (k : regAt a = some g) :
    regRead r a 4 s = returned r (g.read r s) (g.onRead r s) := by
  unfold regRead; rw [h, k]

/-- A write of a command register that reaches it. -/
theorem accessWrite_at {s : State} {r : Requester} {a : Nat} {f : State → State} (h : s.accessStop r a 4 = none) :
    accessWrite r a f s = f s := by
  unfold accessWrite access; rw [h]

/-- What a requester can reach does not depend on what the space keeps for it. -/
theorem reaches_onBusPort (s : State) (q r : Requester) (f : BusPort → BusPort) : (onBusPort q f s).reaches r = s.reaches r := by
  cases r <;> rfl

theorem busPort_onBusPort (s : State) (r : Requester) (f : BusPort → BusPort) : (onBusPort r f s).busPort r = f (s.busPort r) := by
  cases r <;> rfl

theorem busPort_onBusPort_ne {s : State} {q r : Requester} {f : BusPort → BusPort} (h : q ≠ r) : (onBusPort r f s).busPort q = s.busPort q := by
  cases q <;> cases r <;> first | rfl | exact absurd rfl h

/-! ## The rows -/

/-- The rows that write the space are one write. -/
theorem exec_writes (r : Requester) (addr : BitVec 24) (size : Nat) (v : Word) (s : State) :
    exec (.registerWrite r addr size v) s = .next (regWrite r addr.toNat size v.toNat s)
      ∧ exec (.write64Low r addr size v) s = .next (regWrite r addr.toNat size v.toNat s)
      ∧ exec (.write64High r addr size v) s = .next (regWrite r addr.toNat size v.toNat s) := ⟨rfl, rfl, rfl⟩

/-- The rows that read the space are one read. -/
theorem exec_reads (r : Requester) (addr : BitVec 24) (size : Nat) (s : State) :
    exec (.readRcField r addr size) s = .next (regRead r addr.toNat size s)
      ∧ exec (.read64Low r addr size) s = .next (regRead r addr.toNat size s)
      ∧ exec (.read64High r addr size) s = .next (regRead r addr.toNat size s) := ⟨rfl, rfl, rfl⟩

/-- The low word of PWR_WAKE_TIMER. -/
theorem regAt_wakeLow : regAt 0x160014 = some
    { read := fun _ s => s.pwr.wakeTimer.toNat % 2 ^ 32
      onRead := fun r s => onBusPort r (fun p => { p with latch := some (0x160014, word (s.pwr.wakeTimer.toNat / 2 ^ 32)) }) s
      write := fun r v s => onBusPort r (fun p => { p with lows := tabPut 0x160014 (word v) p.lows }) s } := rfl

/-- The high word of PWR_WAKE_TIMER. -/
theorem regAt_wakeHigh : regAt 0x160018 = some
    { read := fun r s => s.highWord r 0x160014 fun s => s.pwr.wakeTimer.toNat, write := wakeTimerHigh } := rfl

end Sys2Proof.Machine
end

