-- ==== Sys2Proof/Laws/Tab.lean ====
section
/-! SUPPORT. What the table operations do: what is read back after a write or a removal, which entries stand in a table, and that no key
comes to stand twice. -/

namespace Sys2Proof.Machine

variable {κ α : Type} [DecidableEq κ] {k k' : κ} {v : α} {t : Tab κ α}

theorem tabGet_put_same : tabGet k (tabPut k v t) = some v := by
  induction t with
  | nil => simp [tabPut, tabGet]
  | cons e t ih =>
    obtain ⟨a, b⟩ := e
    by_cases h : a = k <;> simp [tabPut, tabGet, h, ih]

theorem tabGet_put_other (h : k' ≠ k) : tabGet k' (tabPut k v t) = tabGet k' t := by
  induction t with
  | nil => simp [tabPut, tabGet, h.symm]
  | cons e t ih =>
    obtain ⟨a, b⟩ := e
    by_cases e : a = k
    · subst e; simp [tabPut, tabGet, h.symm]
    · simp [tabPut, tabGet, e, ih]

theorem tabGet_del_same : tabGet k (tabDel k t) = none := by
  induction t with
  | nil => rfl
  | cons e t ih =>
    obtain ⟨a, b⟩ := e
    unfold tabDel at ih ⊢
    by_cases h : a = k <;> simp [tabGet, h, ih]

theorem tabGet_del_other (h : k' ≠ k) : tabGet k' (tabDel k t) = tabGet k' t := by
  induction t with
  | nil => rfl
  | cons e t ih =>
    obtain ⟨a, b⟩ := e
    unfold tabDel at ih ⊢
    by_cases e : a = k
    · subst e; simp [tabGet, h.symm, ih]
    · simp [tabGet, e, ih]

theorem mem_tabPut {e : κ × α} (h : e ∈ tabPut k v t) : e = (k, v) ∨ e ∈ t := by
  induction t with
  | nil => simpa [tabPut] using h
  | cons x t ih =>
    obtain ⟨a, b⟩ := x
    by_cases c : a = k
    · subst c
      simp only [tabPut, if_true, List.mem_cons] at h
      rcases h with h | h
      · exact .inl h
      · exact .inr (List.mem_cons_of_mem _ h)
    · simp only [tabPut, c, if_false, List.mem_cons] at h
      rcases h with h | h
      · exact .inr (h ▸ List.mem_cons_self)
      · exact (ih h).imp_right (List.mem_cons_of_mem _)

theorem mem_tabDel {e : κ × α} (h : e ∈ tabDel k t) : e ∈ t := (List.mem_filter.1 h).1

theorem mem_of_tabGet (h : tabGet k t = some v) : (k, v) ∈ t := by
  induction t with
  | nil => cases h
  | cons e t ih =>
    obtain ⟨a, b⟩ := e
    by_cases c : a = k
    · simp only [tabGet, c, if_true, Option.some.injEq] at h; simp [c, h]
    · simp only [tabGet, c, if_false] at h; exact List.mem_cons_of_mem _ (ih h)

theorem tabDel_nodup (h : (t.map (·.1)).Nodup) : ((tabDel k t).map (·.1)).Nodup := h.sublist (List.filter_sublist.map _)

theorem tabPut_nodup (h : (t.map (·.1)).Nodup) : ((tabPut k v t).map (·.1)).Nodup := by
  induction t with
  | nil => simp [tabPut]
  | cons e t ih =>
    obtain ⟨a, b⟩ := e
    simp only [List.map_cons, List.nodup_cons] at h
    by_cases c : a = k
    · subst c; simpa [tabPut] using h
    · simp only [tabPut, c, if_false, List.map_cons, List.nodup_cons]
      refine ⟨fun m => ?_, ih h.2⟩
      obtain ⟨e, he, hk⟩ := List.mem_map.1 m
      rcases mem_tabPut he with rfl | he
      · exact c hk.symm
      · exact h.1 (List.mem_map.2 ⟨e, he, hk⟩)

end Sys2Proof.Machine
end

