-- ==== Sys2Proof/Laws/Kept.lean ====
section
/-! SUPPORT. The relation that every operation of the head stands in to the state it is given, and how it goes through the ways in
which operations are put together. -/

namespace Sys2Proof.Machine

/-- A state reached from another keeps what every command keeps, and the invariant. -/
def Kept (s t : State) : Prop := s.Keeps t ∧ (s.Inv → t.Inv)

theorem Part.Burnt.rfl' (p : Part) : p.Burnt p := ⟨rfl, rfl, rfl, fun _ h => h⟩

theorem Part.Burnt.trans {p q r : Part} (h : p.Burnt q) (k : q.Burnt r) : p.Burnt r :=
  ⟨k.1.trans h.1, k.2.1.trans h.2.1, k.2.2.1.trans h.2.2.1, fun i x => k.2.2.2 i (h.2.2.2 i x)⟩

theorem kept_rfl (s : State) : Kept s s := ⟨⟨rfl, .rfl' _, List.suffix_refl _, .inl rfl⟩, id⟩

theorem Kept.trans {s t u : State} (h : Kept s t) (k : Kept t u) : Kept s u := by
  obtain ⟨⟨h1, h2, h3, h4⟩, h5⟩ := h
  obtain ⟨⟨k1, k2, k3, k4⟩, k5⟩ := k
  refine ⟨⟨k1.trans h1, h2.trans k2, h3.trans k3, ?_⟩, fun x => k5 (h5 x)⟩
  rcases k4 with k4 | k4
  · rw [k4]; exact h4
  · exact .inr k4

/-- A state that differs in no part that the relation looks at. -/
theorem Kept.of_eq {s t u : State} (h : Kept s t) (p : u.pending = t.pending) (q : u.part = t.part) (x : u.tx = t.tx)
    (m : u.time = t.time) (r : t.rst.Ordered → u.rst.Ordered) (f : t.ftl.Canonical → u.ftl.Canonical) : Kept s u :=
  h.trans ⟨⟨p, q ▸ .rfl' _, x ▸ List.suffix_refl _, .inl m⟩, fun i => ⟨r i.1, f i.2⟩⟩

theorem kept_foldl {α : Type} {s t : State} {f : State → α → State} {l : List α} (h : Kept s t)
    (k : ∀ u x, Kept s u → Kept s (f u x)) : Kept s (l.foldl f t) := by
  induction l generalizing t with
  | nil => exact h
  | cons a l ih => exact ih (k _ _ h)

theorem kept_foldl2 {α β : Type} {s : State} {t : β × State} {f : β × State → α → β × State} {l : List α} (h : Kept s t.2)
    (k : ∀ u x, Kept s u.2 → Kept s (f u x).2) : Kept s (l.foldl f t).2 := by
  induction l generalizing t with
  | nil => exact h
  | cons a l ih => exact ih (k _ _ h)

theorem kept_foldl3 {α β γ : Type} {s : State} {t : β × γ × State} {f : β × γ × State → α → β × γ × State} {l : List α}
    (h : Kept s t.2.2) (k : ∀ u x, Kept s u.2.2 → Kept s (f u x).2.2) : Kept s (l.foldl f t).2.2 := by
  induction l generalizing t with
  | nil => exact h
  | cons a l ih => exact ih (k _ _ h)

theorem kept_foldl4 {α β γ δ : Type} {s : State} {t : β × γ × δ × State} {f : β × γ × δ × State → α → β × γ × δ × State} {l : List α}
    (h : Kept s t.2.2.2) (k : ∀ u x, Kept s u.2.2.2 → Kept s (f u x).2.2.2) : Kept s (l.foldl f t).2.2.2 := by
  induction l generalizing t with
  | nil => exact h
  | cons a l ih => exact ih (k _ _ h)

theorem kept_onRst {s t : State} {g : Rst → Rst} (h : Kept s t) (k : t.rst.Ordered → (g t.rst).Ordered) : Kept s (t.onRst g) :=
  h.of_eq rfl rfl rfl rfl k id

theorem kept_onFtl {s t : State} {g : Ftl → Ftl} (h : Kept s t) (k : t.ftl.Canonical → (g t.ftl).Canonical) : Kept s (t.onFtl g) :=
  h.of_eq rfl rfl rfl rfl id k

/-- A stage after the always-on release asks for nothing more. -/
theorem ordered_hot {r : Rst} (h : r.hostUp = true → r.dpUp = true) (c : r.stage.cold = false) : r.Ordered :=
  ⟨h, fun y => by rw [c] at y; cases y⟩

theorem kept_onRst_all {s t : State} {g : Rst → Rst} (h : Kept s t) (k : ∀ r : Rst, r.Ordered → (g r).Ordered) : Kept s (t.onRst g) :=
  kept_onRst h (k _)

/-- A reset that is held again while it was held or tPOR ran. -/
theorem kept_toHeld {s t : State} (h : Kept s t) (c : t.rst.stage = .held ∨ t.rst.stage = .por) :
    Kept s (t.onRst fun r => { r with stage := .held }) :=
  kept_onRst h fun x => ⟨x.1, fun _ => x.2 (by rcases c with c | c <;> rw [c] <;> rfl)⟩

/-- A change of the flash translation that leaves the map and the shared entries. -/
theorem kept_onFtl_same {s t : State} {g : Ftl → Ftl} (h : Kept s t) (k : ∀ f, (g f).map = f.map) (l : ∀ f, (g f).shares = f.shares) :
    Kept s (t.onFtl g) := kept_onFtl h fun x => by unfold Ftl.Canonical at x ⊢; rw [k, l]; exact x

theorem kept_send {s t : State} {x : Tx} (h : Kept s t) : Kept s (t.send x) :=
  h.trans ⟨⟨rfl, .rfl' _, List.suffix_cons _ _, .inl rfl⟩, id⟩

/-- The state in a tuple that a match has taken apart. -/
theorem kept_snd {β : Type} {s u : State} {p : β × State} {b : β} (e : p = (b, u)) (h : Kept s p.2) : Kept s u := by rw [e] at h; exact h

theorem kept_snd3 {β γ : Type} {s u : State} {p : β × γ × State} {b : β} {c : γ} (e : p = (b, c, u)) (h : Kept s p.2.2) : Kept s u := by
  rw [e] at h; exact h

theorem kept_snd4 {β γ δ : Type} {s u : State} {p : β × γ × δ × State} {b : β} {c : γ} {d : δ} (e : p = (b, c, d, u))
    (h : Kept s p.2.2.2) : Kept s u := by rw [e] at h; exact h

theorem kept_ite {c : Prop} [Decidable c] {s t u : State} (h : c → Kept s t) (k : ¬c → Kept s u) : Kept s (if c then t else u) := by
  split
  · exact h ‹_›
  · exact k ‹_›

theorem kept_ite2 {β : Type} {c : Prop} [Decidable c] {s : State} {t u : β × State} (h : c → Kept s t.2) (k : ¬c → Kept s u.2) :
    Kept s (if c then t else u).2 := by
  split
  · exact h ‹_›
  · exact k ‹_›

theorem kept_ite3 {β γ : Type} {c : Prop} [Decidable c] {s : State} {t u : β × γ × State} (h : c → Kept s t.2.2) (k : ¬c → Kept s u.2.2) :
    Kept s (if c then t else u).2.2 := by
  split
  · exact h ‹_›
  · exact k ‹_›

theorem canonical_empty {f : Ftl} (h : f.map = []) (k : f.shares = []) : f.Canonical := by
  unfold Ftl.Canonical
  rw [h, k]
  simp

theorem kept_onClk {s t : State} {g : Clk → Clk} (h : Kept s t) : Kept s (t.onClk g) := h.of_eq rfl rfl rfl rfl id id

theorem kept_onPwr {s t : State} {g : Pwr → Pwr} (h : Kept s t) : Kept s (t.onPwr g) := h.of_eq rfl rfl rfl rfl id id

theorem kept_onCfg {s t : State} {g : Cfg → Cfg} (h : Kept s t) : Kept s (t.onCfg g) := h.of_eq rfl rfl rfl rfl id id

theorem kept_onBus {s t : State} {g : Bus → Bus} (h : Kept s t) : Kept s (t.onBus g) := h.of_eq rfl rfl rfl rfl id id

theorem kept_onEvr {s t : State} {g : Evr → Evr} (h : Kept s t) : Kept s (t.onEvr g) := h.of_eq rfl rfl rfl rfl id id

theorem kept_onMsr {s t : State} {g : Msr → Msr} (h : Kept s t) : Kept s (t.onMsr g) := h.of_eq rfl rfl rfl rfl id id

theorem kept_onMgt {s t : State} {g : Mgt → Mgt} (h : Kept s t) : Kept s (t.onMgt g) := h.of_eq rfl rfl rfl rfl id id

theorem kept_onUpd {s t : State} {g : Upd → Upd} (h : Kept s t) : Kept s (t.onUpd g) := h.of_eq rfl rfl rfl rfl id id

theorem kept_onChain {s t : State} {g : Chain → Chain} (h : Kept s t) : Kept s (t.onChain g) := h.of_eq rfl rfl rfl rfl id id

theorem kept_onFab {s t : State} {g : Fab → Fab} (h : Kept s t) : Kept s (t.onFab g) := h.of_eq rfl rfl rfl rfl id id

theorem kept_onQpc {s t : State} {g : Qpc → Qpc} (h : Kept s t) : Kept s (t.onQpc g) := h.of_eq rfl rfl rfl rfl id id

theorem kept_onCmd {s t : State} {g : CmdU → CmdU} (h : Kept s t) : Kept s (t.onCmd g) := h.of_eq rfl rfl rfl rfl id id

theorem kept_onIng {s t : State} {g : Ing → Ing} (h : Kept s t) : Kept s (t.onIng g) := h.of_eq rfl rfl rfl rfl id id

theorem kept_onPrt {s t : State} {g : Prt → Prt} (h : Kept s t) : Kept s (t.onPrt g) := h.of_eq rfl rfl rfl rfl id id

theorem kept_onCmp {s t : State} {g : Cmp → Cmp} (h : Kept s t) : Kept s (t.onCmp g) := h.of_eq rfl rfl rfl rfl id id

theorem kept_onFpr {s t : State} {g : Fpr → Fpr} (h : Kept s t) : Kept s (t.onFpr g) := h.of_eq rfl rfl rfl rfl id id

theorem kept_onCip {s t : State} {g : Cip → Cip} (h : Kept s t) : Kept s (t.onCip g) := h.of_eq rfl rfl rfl rfl id id

theorem kept_onPar {s t : State} {g : Par → Par} (h : Kept s t) : Kept s (t.onPar g) := h.of_eq rfl rfl rfl rfl id id

theorem kept_onJnl {s t : State} {g : Jnl → Jnl} (h : Kept s t) : Kept s (t.onJnl g) := h.of_eq rfl rfl rfl rfl id id

theorem kept_onSld {s t : State} {g : Sld → Sld} (h : Kept s t) : Kept s (t.onSld g) := h.of_eq rfl rfl rfl rfl id id

theorem kept_onRpl {s t : State} {g : Rpl → Rpl} (h : Kept s t) : Kept s (t.onRpl g) := h.of_eq rfl rfl rfl rfl id id

theorem kept_onBuf {s t : State} {g : Buf → Buf} (h : Kept s t) : Kept s (t.onBuf g) := h.of_eq rfl rfl rfl rfl id id

theorem kept_onAdp {s t : State} {g : Adp → Adp} (h : Kept s t) : Kept s (t.onAdp g) := h.of_eq rfl rfl rfl rfl id id

end Sys2Proof.Machine
end

