-- ==== Sys2Proof/Laws/Kept/Crypto.lean ====
section
/-! SUPPORT. What the operations of Machine/Crypto.lean keep (`Kept`). -/

namespace Sys2Proof.Machine

end Sys2Proof.Machine
end

