-- ==== Sys2Proof/Laws/Kept/Ops.lean ====
section
/-! SUPPORT. What the operations of Machine/Ops.lean keep (`Kept`). -/

namespace Sys2Proof.Machine

theorem kept_freeNat {s t : State} {w : Nat} (h : Kept s t) : Kept s (t.freeNat w).2 := h.of_eq rfl rfl rfl rfl id id

theorem kept_freeBit {s t : State} (h : Kept s t) : Kept s t.freeBit.2 := h.of_eq rfl rfl rfl rfl id id

theorem kept_raiseValue {s t : State} {a0 a1 a2} (h : Kept s t) : Kept s (State.raiseValue t a0 a1 a2).2.2 := by
  unfold State.raiseValue
  try dsimp only
  repeat' (first | with_reducible assumption | with_reducible apply kept_freeNat | (with_reducible refine kept_snd (by assumption) (kept_freeNat ?_)) | split)

theorem kept_evrRecord {s t : State} {a0 a1 a2} (h : Kept s t) : Kept s (evrRecord a0 a1 a2 t) := by
  unfold evrRecord
  try dsimp only
  repeat' (first | with_reducible assumption | with_reducible apply kept_raiseValue | (with_reducible refine kept_snd3 (by assumption) (kept_raiseValue ?_)) | with_reducible apply kept_onEvr | (with_reducible refine kept_ite (fun _ => ?_) (fun _ => ?_)) | split)

theorem kept_evrRaise {s t : State} {a0 a1 a2} (h : Kept s t) : Kept s (evrRaise a0 a1 a2 t) := by
  unfold evrRaise
  try dsimp only
  repeat' (first | with_reducible assumption | with_reducible apply kept_evrRecord | with_reducible apply kept_onEvr | (with_reducible refine kept_ite (fun _ => ?_) (fun _ => ?_)))

theorem kept_accessError {s t : State} {a0 a1 a2} (h : Kept s t) : Kept s (accessError a0 a1 a2 t) := by
  unfold accessError
  try dsimp only
  repeat' (first | with_reducible assumption | with_reducible apply kept_evrRaise | with_reducible apply kept_onBus | (with_reducible refine kept_ite (fun _ => ?_) (fun _ => ?_)) | split)

end Sys2Proof.Machine
end

