-- ==== Sys2Proof/Laws/Kept/Net.lean ====
section
/-! SUPPORT. What the operations of Machine/Net.lean keep (`Kept`). -/

namespace Sys2Proof.Machine

theorem kept_fabCount {s t : State} {a0 a1 a2} (h : Kept s t) : Kept s (fabCount a0 a1 a2 t) := by
  unfold fabCount
  try dsimp only
  repeat' (first | with_reducible assumption | with_reducible apply kept_onFab)

theorem kept_wire {s t : State} {a0 a1} (h : Kept s t) : Kept s (wire a0 a1 t) := by
  unfold wire
  try dsimp only
  repeat' (first | with_reducible assumption | with_reducible apply kept_onFab | with_reducible apply kept_send | (with_reducible refine kept_ite (fun _ => ?_) (fun _ => ?_)))

theorem kept_hostSend {s t : State} {a0} (h : Kept s t) : Kept s (hostSend a0 t) := by
  unfold hostSend
  try dsimp only
  repeat' (first | with_reducible assumption | with_reducible apply kept_send | (with_reducible refine kept_ite (fun _ => ?_) (fun _ => ?_)))

theorem kept_onCtx {s t : State} {a0 a1} (h : Kept s t) : Kept s (onCtx a0 a1 t) := by
  unfold onCtx
  try dsimp only
  repeat' (first | with_reducible assumption | with_reducible apply kept_onQpc)

theorem kept_onCtxQuiet {s t : State} {a0 a1} (h : Kept s t) : Kept s (onCtxQuiet a0 a1 t) := by
  unfold onCtxQuiet
  try dsimp only
  repeat' (first | with_reducible assumption | with_reducible apply kept_onQpc)

theorem kept_transmit {s t : State} {a0 a1 a2} (h : Kept s t) : Kept s (transmit a0 a1 a2 t) := by
  unfold transmit
  try dsimp only
  repeat' (first | with_reducible assumption | with_reducible apply kept_wire | with_reducible apply kept_fabCount | (with_reducible refine kept_ite (fun _ => ?_) (fun _ => ?_)) | split)

theorem kept_ctxSend {s t : State} {a0 a1 a2} (h : Kept s t) : Kept s (ctxSend a0 a1 a2 t) := by
  unfold ctxSend
  try dsimp only
  repeat' (first | with_reducible assumption | with_reducible apply kept_onCtx | with_reducible apply kept_transmit | (with_reducible refine kept_ite (fun _ => ?_) (fun _ => ?_)) | split)

theorem kept_sendMsg {s t : State} {a0 a1} (h : Kept s t) : Kept s (sendMsg a0 a1 t) := by
  unfold sendMsg
  try dsimp only
  repeat' (first | with_reducible assumption | with_reducible apply kept_ctxSend)

end Sys2Proof.Machine
end

