-- ==== Sys2Proof/Laws/Kept/Plink.lean ====
section
/-! SUPPORT. What the operations of Machine/Plink.lean keep (`Kept`). -/

namespace Sys2Proof.Machine

theorem kept_plFrame {s t : State} {a0} (h : Kept s t) : Kept s (plFrame a0 t) := by
  unfold plFrame
  try dsimp only
  repeat' (first | with_reducible assumption | with_reducible apply kept_onPrt | with_reducible apply kept_send | (with_reducible refine kept_ite (fun _ => ?_) (fun _ => ?_)) | split)

theorem kept_plSend {s t : State} {a0 a1 a2 a3} (h : Kept s t) : Kept s (plSend a0 a1 a2 a3 t) := by
  unfold plSend
  try dsimp only
  repeat' (first | with_reducible assumption | with_reducible apply kept_plFrame | with_reducible apply kept_onPrt)

theorem kept_plRecords {s t : State} {a0 a1 a2} (h : Kept s t) : Kept s (plRecords a0 a1 a2 t) := by
  unfold plRecords
  try dsimp only
  repeat' (first | with_reducible assumption | with_reducible apply kept_plSend)

theorem kept_plControl {s t : State} {a0 a1} (h : Kept s t) : Kept s (plControl a0 a1 t) := by
  unfold plControl
  try dsimp only
  repeat' (first | with_reducible assumption | with_reducible apply kept_plRecords)

theorem kept_mirror {s t : State} {a0} (h : Kept s t) (k : ∀ u, Kept s u → Kept s (a0 u)) : Kept s (mirror a0 t) := by
  unfold mirror
  try dsimp only
  repeat' (first | with_reducible assumption | apply k | (with_reducible refine kept_ite (fun _ => ?_) (fun _ => ?_)))

theorem kept_mirrorMap {s t : State} {a0} (h : Kept s t) (k : ∀ u, Kept s u → Kept s (a0 u)) : Kept s (mirrorMap a0 t) := by
  unfold mirrorMap
  try dsimp only
  repeat' (first | with_reducible assumption | apply k | (with_reducible refine kept_ite (fun _ => ?_) (fun _ => ?_)))

theorem kept_pulseCommand {s t : State} {a0 a1} (h : Kept s t) : Kept s (pulseCommand a0 a1 t) := by
  unfold pulseCommand
  try dsimp only
  repeat' (first | with_reducible assumption | with_reducible apply kept_onPrt | with_reducible apply kept_send)

theorem kept_sendHead {s t : State} {a0 a1} (h : Kept s t) : Kept s (sendHead a0 a1 t) := by
  unfold sendHead
  try dsimp only
  repeat' (first | with_reducible assumption | with_reducible apply kept_sendMsg | (with_reducible refine kept_mirror ?_ (fun u h => ?_)) | with_reducible apply kept_plRecords | split)

theorem kept_plSessionEnd {s t : State} (h : Kept s t) : Kept s (plSessionEnd t) := by
  unfold plSessionEnd
  try dsimp only
  repeat' (first | with_reducible assumption | with_reducible apply kept_onPrt)

end Sys2Proof.Machine
end

