-- ==== Sys2Proof/Laws/Kept/Events.lean ====
section
/-! SUPPORT. What the operations of Machine/Events.lean keep (`Kept`). -/

namespace Sys2Proof.Machine

theorem kept_deliver {s t : State} {a0 a1 a2} (h : Kept s t) : Kept s (deliver a0 a1 a2 t) := by
  unfold deliver
  try dsimp only
  repeat' (first | with_reducible assumption | with_reducible apply kept_sendHead | with_reducible apply kept_onCtxQuiet | (with_reducible refine kept_ite (fun _ => ?_) (fun _ => ?_)) | split)

theorem kept_raise {s t : State} {a0 a1 a2} (h : Kept s t) : Kept s (raise a0 a1 a2 t) := by
  unfold raise
  try dsimp only
  repeat' (first | with_reducible assumption | with_reducible apply kept_deliver | with_reducible apply kept_evrRaise | (with_reducible refine kept_foldl ?_ (fun u x h => ?_)))

theorem kept_note {s t : State} {a0 a1} (h : Kept s t) : Kept s (note a0 a1 t) := by
  unfold note
  try dsimp only
  repeat' (first | with_reducible assumption | with_reducible apply kept_evrRaise)

end Sys2Proof.Machine
end

