-- ==== Sys2Proof/Laws/Kept/Link.lean ====
section
/-! SUPPORT. What the operations of Machine/Link.lean keep (`Kept`). -/

namespace Sys2Proof.Machine

theorem kept_onPort {s t : State} {a0 a1} (h : Kept s t) : Kept s (onPort a0 a1 t) := by
  unfold onPort
  try dsimp only
  repeat' (first | with_reducible assumption | with_reducible apply kept_onSld)

theorem kept_sendFlit {s t : State} {a0 a1 a2} (h : Kept s t) : Kept s (sendFlit a0 a1 a2 t) := by
  unfold sendFlit
  try dsimp only
  repeat' (first | with_reducible assumption | with_reducible apply kept_onPort | with_reducible apply kept_send | (with_reducible refine kept_ite (fun _ => ?_) (fun _ => ?_)))

theorem kept_sendFlits {s t : State} {a0 a1} (h : Kept s t) : Kept s (sendFlits a0 a1 t) := by
  unfold sendFlits
  try dsimp only
  repeat' (first | with_reducible assumption | with_reducible apply kept_sendFlit | (with_reducible refine kept_foldl ?_ (fun u x h => ?_)))

theorem kept_sendControl {s t : State} {a0 a1 a2} (h : Kept s t) : Kept s (sendControl a0 a1 a2 t) := by
  unfold sendControl
  try dsimp only
  repeat' (first | with_reducible assumption | with_reducible apply kept_sendFlit)

theorem kept_pumpPort {s t : State} {a0 a1} (h : Kept s t) : Kept s (pumpPort a0 a1 t) := by
  induction a1 generalizing t  with
  | zero =>
    unfold pumpPort
    repeat' (first | with_reducible assumption | with_reducible apply ih | with_reducible apply kept_onPort | with_reducible apply kept_sendFlits | (with_reducible refine kept_ite (fun _ => ?_) (fun _ => ?_)) | split | (cases ‹_ + 1 = Nat.succ _›))
  | succ _ ih =>
    unfold pumpPort
    try dsimp only
    repeat' (first | with_reducible assumption | with_reducible apply ih | with_reducible apply kept_onPort | with_reducible apply kept_sendFlits | (with_reducible refine kept_ite (fun _ => ?_) (fun _ => ?_)) | split | (cases ‹_ + 1 = Nat.succ _›))

theorem kept_pumpSled {s t : State} {a0} (h : Kept s t) : Kept s (pumpSled a0 t) := by
  unfold pumpSled
  try dsimp only
  repeat' (first | with_reducible assumption | with_reducible apply kept_send | with_reducible apply kept_onPort | with_reducible apply kept_pumpPort | (with_reducible refine kept_ite (fun _ => ?_) (fun _ => ?_)))

theorem kept_osl {s t : State} {a0 a1 a2 a3 a4 a5 a6} (h : Kept s t) : Kept s (osl a0 a1 a2 a3 a4 a5 a6 t) := by
  unfold osl
  try dsimp only
  repeat' (first | with_reducible assumption | with_reducible apply kept_pumpSled | with_reducible apply kept_onPort | (with_reducible refine kept_ite (fun _ => ?_) (fun _ => ?_)))

theorem kept_oslIdentify {s t : State} {a0 a1} (h : Kept s t) : Kept s (oslIdentify a0 a1 t) := by
  unfold oslIdentify
  try dsimp only
  repeat' (first | with_reducible assumption | with_reducible apply kept_osl)

theorem kept_oslDieInfo {s t : State} {a0 a1} (h : Kept s t) : Kept s (oslDieInfo a0 a1 t) := by
  unfold oslDieInfo
  try dsimp only
  repeat' (first | with_reducible assumption | with_reducible apply kept_osl)

theorem kept_oslBadList {s t : State} {a0 a1} (h : Kept s t) : Kept s (oslBadList a0 a1 t) := by
  unfold oslBadList
  try dsimp only
  repeat' (first | with_reducible assumption | with_reducible apply kept_osl)

theorem kept_oslRecall {s t : State} {a0 a1} (h : Kept s t) : Kept s (oslRecall a0 a1 t) := by
  unfold oslRecall
  try dsimp only
  repeat' (first | with_reducible assumption | with_reducible apply kept_osl)

theorem kept_oslClaim {s t : State} {a0 a1 a2 a3 a4} (h : Kept s t) : Kept s (oslClaim a0 a1 a2 a3 a4 t) := by
  unfold oslClaim
  try dsimp only
  repeat' (first | with_reducible assumption | with_reducible apply kept_osl | with_reducible apply kept_onSld)

theorem kept_oslBind {s t : State} {a0} (h : Kept s t) : Kept s (oslBind a0 t) := by
  unfold oslBind
  try dsimp only
  repeat' (first | with_reducible assumption | with_reducible apply kept_osl | (with_reducible refine kept_ite (fun _ => ?_) (fun _ => ?_)))

theorem kept_claimSeen {s t : State} {a0} (h : Kept s t) : Kept s (claimSeen a0 t) := by
  unfold claimSeen
  try dsimp only
  repeat' (first | with_reducible assumption | with_reducible apply kept_onSld)

end Sys2Proof.Machine
end

