-- ==== Sys2Proof/Laws/Kept/Media.lean ====
section
/-! SUPPORT. What the operations of Machine/Media.lean keep (`Kept`). -/

namespace Sys2Proof.Machine

theorem kept_onBlk {s t : State} {a0 a1 a2} (h : Kept s t) : Kept s (onBlk a0 a1 a2 t) := by
  unfold onBlk
  try dsimp only
  repeat' (first | with_reducible assumption | (with_reducible refine kept_onFtl_same ?_ (fun _ => rfl) (fun _ => rfl)) | (with_reducible refine kept_onFtl ?_ ?_) | exact fun x => ⟨x.1, x.2.1, tabDel_nodup x.2.2.1, fun e he => x.2.2.2 e (mem_tabDel he)⟩ | exact fun x => ⟨x.1, x.2.1, tabPut_nodup x.2.2.1, fun e he => (mem_tabPut he).elim (fun q => q ▸ by assumption) (x.2.2.2 e)⟩ | exact fun _ => canonical_empty rfl rfl | (intro hx; (try dsimp only); split <;> exact hx))

theorem kept_onSeg {s t : State} {a0 a1 a2} (h : Kept s t) : Kept s (onSeg a0 a1 a2 t) := by
  unfold onSeg
  try dsimp only
  repeat' (first | with_reducible assumption | (with_reducible refine kept_onFtl_same ?_ (fun _ => rfl) (fun _ => rfl)) | (with_reducible refine kept_onFtl ?_ ?_) | exact fun x => ⟨x.1, x.2.1, tabDel_nodup x.2.2.1, fun e he => x.2.2.2 e (mem_tabDel he)⟩ | exact fun x => ⟨x.1, x.2.1, tabPut_nodup x.2.2.1, fun e he => (mem_tabPut he).elim (fun q => q ▸ by assumption) (x.2.2.2 e)⟩ | exact fun _ => canonical_empty rfl rfl | (intro hx; (try dsimp only); split <;> exact hx))

theorem kept_onTop {s t : State} {a0 a1} (h : Kept s t) : Kept s (onTop a0 a1 t) := by
  unfold onTop
  try dsimp only
  repeat' (first | with_reducible assumption | (with_reducible refine kept_onFtl_same ?_ (fun _ => rfl) (fun _ => rfl)) | (with_reducible refine kept_onFtl ?_ ?_) | exact fun x => ⟨x.1, x.2.1, tabDel_nodup x.2.2.1, fun e he => x.2.2.2 e (mem_tabDel he)⟩ | exact fun x => ⟨x.1, x.2.1, tabPut_nodup x.2.2.1, fun e he => (mem_tabPut he).elim (fun q => q ▸ by assumption) (x.2.2.2 e)⟩ | exact fun _ => canonical_empty rfl rfl | (intro hx; (try dsimp only); split <;> exact hx))

theorem kept_programBlock {s t : State} {a0 a1 a2 a3 a4} (h : Kept s t) : Kept s (programBlock a0 a1 a2 a3 a4 t) := by
  unfold programBlock
  try dsimp only
  repeat' (first | with_reducible assumption | with_reducible apply kept_osl | with_reducible apply kept_onBlk)

theorem kept_programPage {s t : State} {a0 a1 a2 a3 a4} (h : Kept s t) : Kept s (programPage a0 a1 a2 a3 a4 t).2 := by
  unfold programPage
  try dsimp only
  repeat' (first | with_reducible assumption | (with_reducible refine kept_onFtl_same ?_ (fun _ => rfl) (fun _ => rfl)) | (with_reducible refine kept_onFtl ?_ ?_) | exact fun x => ⟨x.1, x.2.1, tabDel_nodup x.2.2.1, fun e he => x.2.2.2 e (mem_tabDel he)⟩ | exact fun x => ⟨x.1, x.2.1, tabPut_nodup x.2.2.1, fun e he => (mem_tabPut he).elim (fun q => q ▸ by assumption) (x.2.2.2 e)⟩ | exact fun _ => canonical_empty rfl rfl | (intro hx; (try dsimp only); split <;> exact hx) | with_reducible apply kept_programBlock | (with_reducible refine kept_ite (fun _ => ?_) (fun _ => ?_)) | (with_reducible refine kept_ite2 (fun _ => ?_) (fun _ => ?_)) | split)

theorem kept_missRow {s t : State} {a0 a1 a2 a3} (h : Kept s t) : Kept s (missRow a0 a1 a2 a3 t) := by
  unfold missRow
  try dsimp only
  repeat' (first | with_reducible assumption | with_reducible apply kept_onPort | (with_reducible refine kept_ite (fun _ => ?_) (fun _ => ?_)))

theorem kept_eraseBlock {s t : State} {a0 a1 a2} (h : Kept s t) : Kept s (eraseBlock a0 a1 a2 t).2 := by
  unfold eraseBlock
  try dsimp only
  repeat' (first | with_reducible assumption | with_reducible apply kept_osl | (with_reducible refine kept_onFtl_same ?_ (fun _ => rfl) (fun _ => rfl)) | (with_reducible refine kept_onFtl ?_ ?_) | exact fun x => ⟨x.1, x.2.1, tabDel_nodup x.2.2.1, fun e he => x.2.2.2 e (mem_tabDel he)⟩ | exact fun x => ⟨x.1, x.2.1, tabPut_nodup x.2.2.1, fun e he => (mem_tabPut he).elim (fun q => q ▸ by assumption) (x.2.2.2 e)⟩ | exact fun _ => canonical_empty rfl rfl | (intro hx; (try dsimp only); split <;> exact hx) | with_reducible apply kept_missRow | (with_reducible refine kept_ite (fun _ => ?_) (fun _ => ?_)) | (with_reducible refine kept_ite2 (fun _ => ?_) (fun _ => ?_)) | split)

theorem kept_issueRow {s t : State} {a0 a1} (h : Kept s t) : Kept s (issueRow a0 a1 t) := by
  unfold issueRow
  try dsimp only
  repeat' (first | with_reducible assumption | with_reducible apply kept_programPage | (with_reducible refine kept_snd (by assumption) (kept_programPage ?_)) | with_reducible apply kept_missRow | with_reducible apply kept_onPar | (with_reducible refine kept_foldl4 ?_ (fun u x h => ?_)) | (with_reducible refine kept_foldl3 ?_ (fun u x h => ?_)) | (with_reducible refine kept_foldl2 ?_ (fun u x h => ?_)) | (with_reducible refine kept_foldl ?_ (fun u x h => ?_)) | (with_reducible refine kept_ite (fun _ => ?_) (fun _ => ?_)) | split)

theorem kept_newId {s t : State} (h : Kept s t) : Kept s (State.newId t).2 := by
  unfold State.newId
  try dsimp only
  repeat' (first | with_reducible assumption | with_reducible apply kept_onPar)

theorem kept_readPage {s t : State} {a0 a1 a2 a3 a4 a5 a6 a7} (h : Kept s t) : Kept s (readPage a0 a1 a2 a3 a4 a5 a6 a7 t) := by
  unfold readPage
  try dsimp only
  repeat' (first | with_reducible assumption | with_reducible apply kept_osl | with_reducible apply kept_onBlk)

theorem kept_onJob {s t : State} {a0 a1} (h : Kept s t) : Kept s (onJob a0 a1 t) := by
  unfold onJob
  try dsimp only
  repeat' (first | with_reducible assumption | with_reducible apply kept_onPar | (with_reducible refine kept_ite (fun _ => ?_) (fun _ => ?_)))

theorem kept_advanceJob {s t : State} {a0} (h : Kept s t) : Kept s (advanceJob a0 t) := by
  unfold advanceJob
  try dsimp only
  repeat' (first | with_reducible assumption | with_reducible apply kept_readPage | with_reducible apply kept_onJob | (with_reducible refine kept_foldl ?_ (fun u x h => ?_)) | (with_reducible refine kept_ite (fun _ => ?_) (fun _ => ?_)) | split)

theorem kept_startJob {s t : State} {a0 a1 a2 a3} (h : Kept s t) : Kept s (startJob a0 a1 a2 a3 t) := by
  unfold startJob
  try dsimp only
  repeat' (first | with_reducible assumption | with_reducible apply kept_newId | (with_reducible refine kept_snd (by assumption) (kept_newId ?_)) | with_reducible apply kept_advanceJob | with_reducible apply kept_onPar | split)

theorem kept_endJob {s t : State} {a0} (h : Kept s t) : Kept s (endJob a0 t) := by
  unfold endJob
  try dsimp only
  repeat' (first | with_reducible assumption | with_reducible apply kept_onPar)

end Sys2Proof.Machine
end

