-- ==== Sys2Proof/Laws/Kept/MapLog.lean ====
section
/-! SUPPORT. What the operations of Machine/MapLog.lean keep (`Kept`). -/

namespace Sys2Proof.Machine

theorem kept_onLog {s t : State} {a0 a1} (h : Kept s t) : Kept s (onLog a0 a1 t) := by
  unfold onLog
  try dsimp only
  repeat' (first | with_reducible assumption | (with_reducible refine kept_onFtl_same ?_ (fun _ => rfl) (fun _ => rfl)) | (with_reducible refine kept_onFtl ?_ ?_) | exact fun x => ⟨x.1, x.2.1, tabDel_nodup x.2.2.1, fun e he => x.2.2.2 e (mem_tabDel he)⟩ | exact fun x => ⟨x.1, x.2.1, tabPut_nodup x.2.2.1, fun e he => (mem_tabPut he).elim (fun q => q ▸ by assumption) (x.2.2.2 e)⟩ | exact fun _ => canonical_empty rfl rfl | (intro hx; (try dsimp only); split <;> exact hx) | (with_reducible refine kept_ite (fun _ => ?_) (fun _ => ?_)))

theorem kept_logItem {s t : State} {a0 a1} (h : Kept s t) : Kept s (logItem a0 a1 t).2 := by
  unfold logItem
  try dsimp only
  repeat' (first | with_reducible assumption | with_reducible apply kept_onLog | (with_reducible refine kept_mirrorMap ?_ (fun u h => ?_)) | with_reducible apply kept_plSend | (with_reducible refine kept_foldl4 ?_ (fun u x h => ?_)) | (with_reducible refine kept_foldl3 ?_ (fun u x h => ?_)) | (with_reducible refine kept_foldl2 ?_ (fun u x h => ?_)) | (with_reducible refine kept_foldl ?_ (fun u x h => ?_)) | split)

theorem kept_logItems {s t : State} {a0 a1} (h : Kept s t) : Kept s (logItems a0 a1 t) := by
  unfold logItems
  try dsimp only
  repeat' (first | with_reducible assumption | with_reducible apply kept_logItem | (with_reducible refine kept_snd (by assumption) (kept_logItem ?_)) | (with_reducible refine kept_foldl4 ?_ (fun u x h => ?_)) | (with_reducible refine kept_foldl3 ?_ (fun u x h => ?_)) | (with_reducible refine kept_foldl2 ?_ (fun u x h => ?_)) | (with_reducible refine kept_foldl ?_ (fun u x h => ?_)))

end Sys2Proof.Machine
end

