-- ==== Sys2Proof/Laws/Kept/Space.lean ====
section
/-! SUPPORT. What the operations of Machine/Space.lean keep (`Kept`). -/

namespace Sys2Proof.Machine

theorem kept_spareLow {s t : State} {a0} (h : Kept s t) : Kept s (spareLow a0 t) := by
  unfold spareLow
  try dsimp only
  repeat' (first | with_reducible assumption | (with_reducible refine kept_onFtl_same ?_ (fun _ => rfl) (fun _ => rfl)) | (with_reducible refine kept_onFtl ?_ ?_) | exact fun x => ⟨x.1, x.2.1, tabDel_nodup x.2.2.1, fun e he => x.2.2.2 e (mem_tabDel he)⟩ | exact fun x => ⟨x.1, x.2.1, tabPut_nodup x.2.2.1, fun e he => (mem_tabPut he).elim (fun q => q ▸ by assumption) (x.2.2.2 e)⟩ | exact fun _ => canonical_empty rfl rfl | (intro hx; (try dsimp only); split <;> exact hx) | with_reducible apply kept_note | (with_reducible refine kept_ite (fun _ => ?_) (fun _ => ?_)))

theorem kept_freezeBand {s t : State} {a0} (h : Kept s t) : Kept s (freezeBand a0 t) := by
  unfold freezeBand
  try dsimp only
  repeat' (first | with_reducible assumption | with_reducible apply kept_raise | (with_reducible refine kept_onFtl_same ?_ (fun _ => rfl) (fun _ => rfl)) | (with_reducible refine kept_onFtl ?_ ?_) | exact fun x => ⟨x.1, x.2.1, tabDel_nodup x.2.2.1, fun e he => x.2.2.2 e (mem_tabDel he)⟩ | exact fun x => ⟨x.1, x.2.1, tabPut_nodup x.2.2.1, fun e he => (mem_tabPut he).elim (fun q => q ▸ by assumption) (x.2.2.2 e)⟩ | exact fun _ => canonical_empty rfl rfl | (intro hx; (try dsimp only); split <;> exact hx) | (with_reducible refine kept_ite (fun _ => ?_) (fun _ => ?_)))

theorem kept_dismantle {s t : State} {a0 a1} (h : Kept s t) : Kept s (dismantle a0 a1 t) := by
  unfold dismantle
  try dsimp only
  repeat' (first | with_reducible assumption | with_reducible apply kept_onBlk | with_reducible apply kept_note | with_reducible apply kept_logItem | (with_reducible refine kept_snd (by assumption) (kept_logItem ?_)) | with_reducible apply kept_onSeg | (with_reducible refine kept_foldl4 ?_ (fun u x h => ?_)) | (with_reducible refine kept_foldl3 ?_ (fun u x h => ?_)) | (with_reducible refine kept_foldl2 ?_ (fun u x h => ?_)) | (with_reducible refine kept_foldl ?_ (fun u x h => ?_)) | split)

theorem kept_takeSpare {s t : State} {a0 a1} (h : Kept s t) : Kept s (takeSpare a0 a1 t).2 := by
  unfold takeSpare
  try dsimp only
  repeat' (first | with_reducible assumption | with_reducible apply kept_spareLow | with_reducible apply kept_onBlk | with_reducible apply kept_freezeBand | with_reducible apply kept_dismantle | (with_reducible refine kept_ite (fun _ => ?_) (fun _ => ?_)) | (with_reducible refine kept_ite2 (fun _ => ?_) (fun _ => ?_)) | split)

theorem kept_failDie {s t : State} {a0 a1} (h : Kept s t) : Kept s (failDie a0 a1 t) := by
  unfold failDie
  try dsimp only
  repeat' (first | with_reducible assumption | with_reducible apply kept_recomputeHealth | with_reducible apply kept_raise | (with_reducible refine kept_onFtl_same ?_ (fun _ => rfl) (fun _ => rfl)) | (with_reducible refine kept_onFtl ?_ ?_) | exact fun x => ⟨x.1, x.2.1, tabDel_nodup x.2.2.1, fun e he => x.2.2.2 e (mem_tabDel he)⟩ | exact fun x => ⟨x.1, x.2.1, tabPut_nodup x.2.2.1, fun e he => (mem_tabPut he).elim (fun q => q ▸ by assumption) (x.2.2.2 e)⟩ | exact fun _ => canonical_empty rfl rfl | (intro hx; (try dsimp only); split <;> exact hx) | (with_reducible refine kept_ite (fun _ => ?_) (fun _ => ?_)))

theorem kept_retireBlock {s t : State} {a0 a1 a2} (h : Kept s t) : Kept s (retireBlock a0 a1 a2 t) := by
  unfold retireBlock
  try dsimp only
  repeat' (first | with_reducible assumption | with_reducible apply kept_note | (with_reducible refine kept_onFtl_same ?_ (fun _ => rfl) (fun _ => rfl)) | (with_reducible refine kept_onFtl ?_ ?_) | exact fun x => ⟨x.1, x.2.1, tabDel_nodup x.2.2.1, fun e he => x.2.2.2 e (mem_tabDel he)⟩ | exact fun x => ⟨x.1, x.2.1, tabPut_nodup x.2.2.1, fun e he => (mem_tabPut he).elim (fun q => q ▸ by assumption) (x.2.2.2 e)⟩ | exact fun _ => canonical_empty rfl rfl | (intro hx; (try dsimp only); split <;> exact hx) | with_reducible apply kept_onBlk | with_reducible apply kept_failDie | (with_reducible refine kept_ite (fun _ => ?_) (fun _ => ?_)) | split)

theorem kept_bindBlock {s t : State} {a0 a1 a2 a3} (h : Kept s t) : Kept s (bindBlock a0 a1 a2 a3 t) := by
  unfold bindBlock
  try dsimp only
  repeat' (first | with_reducible assumption | with_reducible apply kept_logItem | (with_reducible refine kept_snd (by assumption) (kept_logItem ?_)) | with_reducible apply kept_onBlk)

theorem kept_exchangeBlock {s t : State} {a0 a1 a2} (h : Kept s t) : Kept s (exchangeBlock a0 a1 a2 t) := by
  unfold exchangeBlock
  try dsimp only
  repeat' (first | with_reducible assumption | with_reducible apply kept_takeSpare | (with_reducible refine kept_snd (by assumption) (kept_takeSpare ?_)) | with_reducible apply kept_bindBlock | with_reducible apply kept_onBlk | (with_reducible refine kept_ite (fun _ => ?_) (fun _ => ?_)) | split)

theorem kept_openSegment {s t : State} {a0 a1 a2 a3} (h : Kept s t) : Kept s (openSegment a0 a1 a2 a3 t) := by
  unfold openSegment
  try dsimp only
  repeat' (first | with_reducible assumption | with_reducible apply kept_exchangeBlock | with_reducible apply kept_onBlk | with_reducible apply kept_onTop | with_reducible apply kept_onSeg | with_reducible apply kept_onAdp | with_reducible apply kept_logItem | (with_reducible refine kept_snd (by assumption) (kept_logItem ?_)) | (with_reducible refine kept_foldl4 ?_ (fun u x h => ?_)) | (with_reducible refine kept_foldl3 ?_ (fun u x h => ?_)) | (with_reducible refine kept_foldl2 ?_ (fun u x h => ?_)) | (with_reducible refine kept_foldl ?_ (fun u x h => ?_)) | split)

theorem kept_blockClass {s t : State} {a0 a1} (h : Kept s t) : Kept s (blockClass a0 a1 t) := by
  unfold blockClass
  try dsimp only
  repeat' (first | with_reducible assumption | with_reducible apply kept_onBlk | (with_reducible refine kept_ite (fun _ => ?_) (fun _ => ?_)))

theorem kept_closeSegment {s t : State} {a0 a1} (h : Kept s t) : Kept s (closeSegment a0 a1 t) := by
  unfold closeSegment
  try dsimp only
  repeat' (first | with_reducible assumption | with_reducible apply kept_blockClass | with_reducible apply kept_onBlk | with_reducible apply kept_logItem | (with_reducible refine kept_snd (by assumption) (kept_logItem ?_)) | with_reducible apply kept_onSeg | (with_reducible refine kept_foldl4 ?_ (fun u x h => ?_)) | (with_reducible refine kept_foldl3 ?_ (fun u x h => ?_)) | (with_reducible refine kept_foldl2 ?_ (fun u x h => ?_)) | (with_reducible refine kept_foldl ?_ (fun u x h => ?_)) | (with_reducible refine kept_ite (fun _ => ?_) (fun _ => ?_)) | split)

theorem kept_trimSegment {s t : State} {a0 a1} (h : Kept s t) : Kept s (trimSegment a0 a1 t) := by
  unfold trimSegment
  try dsimp only
  repeat' (first | with_reducible assumption | with_reducible apply kept_logItem | (with_reducible refine kept_snd (by assumption) (kept_logItem ?_)) | with_reducible apply kept_onBlk | with_reducible apply kept_eraseBlock | (with_reducible refine kept_snd (by assumption) (kept_eraseBlock ?_)) | with_reducible apply kept_onSeg | (with_reducible refine kept_foldl4 ?_ (fun u x h => ?_)) | (with_reducible refine kept_foldl3 ?_ (fun u x h => ?_)) | (with_reducible refine kept_foldl2 ?_ (fun u x h => ?_)) | (with_reducible refine kept_foldl ?_ (fun u x h => ?_)) | split)

theorem kept_freeSegment {s t : State} {a0 a1} (h : Kept s t) : Kept s (freeSegment a0 a1 t) := by
  unfold freeSegment
  try dsimp only
  repeat' (first | with_reducible assumption | with_reducible apply kept_logItem | (with_reducible refine kept_snd (by assumption) (kept_logItem ?_)) | with_reducible apply kept_onSeg)

theorem kept_spaceAlarms {s t : State} {a0} (h : Kept s t) : Kept s (spaceAlarms a0 t) := by
  unfold spaceAlarms
  try dsimp only
  repeat' (first | with_reducible assumption | with_reducible apply kept_note | with_reducible apply kept_onTop | (with_reducible refine kept_ite (fun _ => ?_) (fun _ => ?_)))

theorem kept_addValid {s t : State} {a0 a1} (h : Kept s t) : Kept s (addValid a0 a1 t) := by
  unfold addValid
  try dsimp only
  repeat' (first | with_reducible assumption | with_reducible apply kept_onSeg | (with_reducible refine kept_ite (fun _ => ?_) (fun _ => ?_)) | split)

theorem kept_fprClear {s t : State} {a0} (h : Kept s t) : Kept s (fprClear a0 t) := by
  unfold fprClear
  try dsimp only
  repeat' (first | with_reducible assumption | with_reducible apply kept_onFpr)

theorem kept_fprMove {s t : State} {a0 a1} (h : Kept s t) : Kept s (fprMove a0 a1 t) := by
  unfold fprMove
  try dsimp only
  repeat' (first | with_reducible assumption | with_reducible apply kept_onFpr | (with_reducible refine kept_ite (fun _ => ?_) (fun _ => ?_)))

theorem kept_shareDrop {s t : State} {a0 a1} (h : Kept s t) : Kept s (shareDrop a0 a1 t) := by
  unfold shareDrop
  split
  · exact h
  · rename_i e he
    split
    · refine kept_logItem (kept_addValid (kept_fprClear (kept_onFtl h fun x => ?_)))
      exact ⟨x.1, x.2.1, tabDel_nodup x.2.2.1, fun e he => x.2.2.2 e (mem_tabDel he)⟩
    · refine kept_logItem (kept_onFtl h fun x => ?_)
      refine ⟨x.1, x.2.1, tabPut_nodup x.2.2.1, fun k hk => ?_⟩
      rcases mem_tabPut hk with rfl | hk
      · dsimp only; omega
      · exact x.2.2.2 k hk

theorem kept_shareAdd {s t : State} {a0 a1} (h : Kept s t) : Kept s (shareAdd a0 a1 t) := by
  unfold shareAdd
  split
  · exact h
  · refine kept_logItem (kept_onFtl h fun x => ?_)
    refine ⟨x.1, x.2.1, tabPut_nodup x.2.2.1, fun k hk => ?_⟩
    rcases mem_tabPut hk with rfl | hk
    · dsimp only; omega
    · exact x.2.2.2 k hk

/-- A new shared entry has the references it is given, at least one. -/
theorem kept_shareNew {s t u : State} {h0 loc refs i : Nat} (e : shareNew h0 loc refs t = some (i, u)) (h : Kept s t) (k : refs ≠ 0) : Kept s u := by
  unfold shareNew at e
  split at e
  · cases e
  · split at e
    · cases e
    · cases e
      refine kept_logItem (kept_onFtl h fun x => ?_)
      refine ⟨x.1, x.2.1, tabPut_nodup x.2.2.1, fun k hk => ?_⟩
      rcases mem_tabPut hk with rfl | hk
      · assumption
      · exact x.2.2.2 k hk

theorem kept_putWord {s t : State} {a0 a1 a2} (h : Kept s t) : Kept s (putWord a0 a1 a2 t) := by
  unfold putWord
  refine kept_onFtl h fun x => ?_
  obtain ⟨h1, h2, h3, h4⟩ := x
  by_cases hw : a2 = 0
  · simp only [hw, if_true]
    exact ⟨tabDel_nodup h1, fun e he => h2 e (mem_tabDel he), h3, h4⟩
  · simp only [hw, if_false]
    refine ⟨tabPut_nodup h1, fun e he => ?_, h3, h4⟩
    rcases mem_tabPut he with rfl | he
    · exact hw
    · exact h2 e he

theorem kept_preservePage {s t : State} {a0 a1 a2 a3} (h : Kept s t) : Kept s (preservePage a0 a1 a2 a3 t) := by
  unfold preservePage
  try dsimp only
  repeat' (first | with_reducible assumption | (with_reducible refine kept_shareNew (by assumption) ?_ (by decide)) | with_reducible apply kept_logItem | (with_reducible refine kept_snd (by assumption) (kept_logItem ?_)) | with_reducible apply kept_putWord | with_reducible apply kept_shareAdd | with_reducible apply kept_onRpl | (with_reducible refine kept_foldl4 ?_ (fun u x h => ?_)) | (with_reducible refine kept_foldl3 ?_ (fun u x h => ?_)) | (with_reducible refine kept_foldl2 ?_ (fun u x h => ?_)) | (with_reducible refine kept_foldl ?_ (fun u x h => ?_)) | (with_reducible refine kept_ite (fun _ => ?_) (fun _ => ?_)) | split)

theorem kept_preserve {s t : State} {a0 a1 a2} (h : Kept s t) : Kept s (preserve a0 a1 a2 t) := by
  unfold preserve
  try dsimp only
  repeat' (first | with_reducible assumption | with_reducible apply kept_preservePage | split)

theorem kept_dropWord {s t : State} {a0 a1} (h : Kept s t) : Kept s (dropWord a0 a1 t) := by
  unfold dropWord
  try dsimp only
  repeat' (first | with_reducible assumption | with_reducible apply kept_addValid | with_reducible apply kept_fprClear | with_reducible apply kept_shareDrop | (with_reducible refine kept_ite (fun _ => ?_) (fun _ => ?_)))

theorem kept_setWord {s t : State} {a0 a1 a2 a3} (h : Kept s t) : Kept s (setWord a0 a1 a2 a3 t).2 := by
  unfold setWord
  try dsimp only
  repeat' (first | with_reducible assumption | with_reducible apply kept_preserve | with_reducible apply kept_putWord | with_reducible apply kept_dropWord | with_reducible apply kept_addValid | with_reducible apply kept_logItem | (with_reducible refine kept_snd (by assumption) (kept_logItem ?_)) | (with_reducible refine kept_ite (fun _ => ?_) (fun _ => ?_)) | (with_reducible refine kept_ite2 (fun _ => ?_) (fun _ => ?_)))

theorem kept_logSegment {s t : State} {a0} (h : Kept s t) : Kept s (logSegment a0 t).2 := by
  unfold logSegment
  try dsimp only
  repeat' (first | with_reducible assumption | with_reducible apply kept_onTop | with_reducible apply kept_openSegment | split)

theorem kept_rowTaken {s t : State} {a0 a1} (h : Kept s t) : Kept s (rowTaken a0 a1 t) := by
  unfold rowTaken
  try dsimp only
  repeat' (first | with_reducible assumption | with_reducible apply kept_onSeg | with_reducible apply kept_onTop | with_reducible apply kept_closeSegment | (with_reducible refine kept_ite (fun _ => ?_) (fun _ => ?_)))

theorem kept_mapRow {s t : State} {a0 a1 a2} (h : Kept s t) : Kept s (mapRow a0 a1 a2 t) := by
  unfold mapRow
  try dsimp only
  repeat' (first | with_reducible assumption | with_reducible apply kept_logSegment | (with_reducible refine kept_snd (by assumption) (kept_logSegment ?_)) | with_reducible apply kept_newId | (with_reducible refine kept_snd (by assumption) (kept_newId ?_)) | with_reducible apply kept_onLog | with_reducible apply kept_rowTaken | with_reducible apply kept_issueRow | (with_reducible refine kept_foldl4 ?_ (fun u x h => ?_)) | (with_reducible refine kept_foldl3 ?_ (fun u x h => ?_)) | (with_reducible refine kept_foldl2 ?_ (fun u x h => ?_)) | (with_reducible refine kept_foldl ?_ (fun u x h => ?_)) | split)

theorem kept_flushLog {s t : State} {a0 a1} (h : Kept s t) : Kept s (flushLog a0 a1 t) := by
  induction a1 generalizing t  with
  | zero =>
    unfold flushLog
    repeat' (first | with_reducible assumption | with_reducible apply ih | with_reducible apply kept_mapRow | with_reducible apply kept_onLog | split | (cases ‹_ + 1 = Nat.succ _›))
  | succ _ ih =>
    unfold flushLog
    try dsimp only
    repeat' (first | with_reducible assumption | with_reducible apply ih | with_reducible apply kept_mapRow | with_reducible apply kept_onLog | split | (cases ‹_ + 1 = Nat.succ _›))

theorem kept_forceLog {s t : State} {a0} (h : Kept s t) : Kept s (forceLog a0 t) := by
  unfold forceLog
  try dsimp only
  repeat' (first | with_reducible assumption | with_reducible apply kept_flushLog)

theorem kept_fullLog {s t : State} {a0} (h : Kept s t) : Kept s (fullLog a0 t) := by
  unfold fullLog
  try dsimp only
  repeat' (first | with_reducible assumption | with_reducible apply kept_forceLog | (with_reducible refine kept_ite (fun _ => ?_) (fun _ => ?_)) | split)

theorem kept_mapFullAlarm {s t : State} (h : Kept s t) : Kept s (mapFullAlarm t) := by
  unfold mapFullAlarm
  try dsimp only
  repeat' (first | with_reducible assumption | with_reducible apply kept_note | (with_reducible refine kept_onFtl_same ?_ (fun _ => rfl) (fun _ => rfl)) | (with_reducible refine kept_onFtl ?_ ?_) | exact fun x => ⟨x.1, x.2.1, tabDel_nodup x.2.2.1, fun e he => x.2.2.2 e (mem_tabDel he)⟩ | exact fun x => ⟨x.1, x.2.1, tabPut_nodup x.2.2.1, fun e he => (mem_tabPut he).elim (fun q => q ▸ by assumption) (x.2.2.2 e)⟩ | exact fun _ => canonical_empty rfl rfl | (intro hx; (try dsimp only); split <;> exact hx) | (with_reducible refine kept_ite (fun _ => ?_) (fun _ => ?_)))

end Sys2Proof.Machine
end

