-- ==== Sys2Proof/Laws/Kept/Journal.lean ====
section
/-! SUPPORT. What the operations of Machine/Journal.lean keep (`Kept`). -/

namespace Sys2Proof.Machine

theorem kept_commitTime {s t : State} {a0} (h : Kept s t) : Kept s (commitTime a0 t) := by
  unfold commitTime
  try dsimp only
  repeat' (first | with_reducible assumption | with_reducible apply kept_onJnl)

theorem kept_jnlCommitted {s t : State} {a0} (h : Kept s t) : Kept s (jnlCommitted a0 t) := by
  unfold jnlCommitted
  try dsimp only
  repeat' (first | with_reducible assumption | with_reducible apply kept_commitTime | with_reducible apply kept_onJnl | (with_reducible refine kept_ite (fun _ => ?_) (fun _ => ?_)) | split)

theorem kept_spillRow {s t : State} {a0 a1} (h : Kept s t) : Kept s (spillRow a0 a1 t) := by
  unfold spillRow
  try dsimp only
  repeat' (first | with_reducible assumption | with_reducible apply kept_logSegment | (with_reducible refine kept_snd (by assumption) (kept_logSegment ?_)) | with_reducible apply kept_newId | (with_reducible refine kept_snd (by assumption) (kept_newId ?_)) | with_reducible apply kept_onJnl | with_reducible apply kept_rowTaken | with_reducible apply kept_issueRow | (with_reducible refine kept_foldl4 ?_ (fun u x h => ?_)) | (with_reducible refine kept_foldl3 ?_ (fun u x h => ?_)) | (with_reducible refine kept_foldl2 ?_ (fun u x h => ?_)) | (with_reducible refine kept_foldl ?_ (fun u x h => ?_)) | split)

theorem kept_spillNow {s t : State} {a0 a1 a2} (h : Kept s t) : Kept s (spillNow a0 a1 a2 t) := by
  induction a1 generalizing t a2 with
  | zero =>
    unfold spillNow
    repeat' (first | with_reducible assumption | with_reducible apply ih | with_reducible apply kept_spillRow | with_reducible apply kept_onJnl | split | (cases ‹_ + 1 = Nat.succ _›))
  | succ _ ih =>
    unfold spillNow
    try dsimp only
    repeat' (first | with_reducible assumption | with_reducible apply ih | with_reducible apply kept_spillRow | with_reducible apply kept_onJnl | split | (cases ‹_ + 1 = Nat.succ _›))

theorem kept_jnlCommit {s t : State} {a0 a1} (h : Kept s t) : Kept s (jnlCommit a0 a1 t) := by
  unfold jnlCommit
  try dsimp only
  repeat' (first | with_reducible assumption | with_reducible apply kept_plSend | with_reducible apply kept_onJnl | (with_reducible refine kept_mirrorMap ?_ (fun u h => ?_)) | with_reducible apply kept_spillNow | (with_reducible refine kept_ite (fun _ => ?_) (fun _ => ?_)))

theorem kept_jnlRecord {s t : State} {a0 a1 a2} (h : Kept s t) : Kept s (jnlRecord a0 a1 a2 t).2 := by
  unfold jnlRecord
  try dsimp only
  repeat' (first | with_reducible assumption | with_reducible apply kept_onJnl | with_reducible apply kept_jnlCommit | (with_reducible refine kept_ite (fun _ => ?_) (fun _ => ?_)) | (with_reducible refine kept_ite2 (fun _ => ?_) (fun _ => ?_)))

theorem kept_jnlSpan {s t : State} {a0 a1 a2} (h : Kept s t) : Kept s (jnlSpan a0 a1 a2 t).2 := by
  unfold jnlSpan
  try dsimp only
  repeat' (first | with_reducible assumption | with_reducible apply kept_jnlCommit | with_reducible apply kept_onJnl)

theorem kept_spillWaiting {s t : State} (h : Kept s t) : Kept s (spillWaiting t) := by
  unfold spillWaiting
  try dsimp only
  repeat' (first | with_reducible assumption | with_reducible apply kept_spillNow | with_reducible apply kept_onJnl)

theorem kept_homeOut {s t : State} {a0 a1} (h : Kept s t) : Kept s (homeOut a0 a1 t) := by
  unfold homeOut
  try dsimp only
  repeat' (first | with_reducible assumption | with_reducible apply kept_note | with_reducible apply kept_onJnl | (with_reducible refine kept_ite (fun _ => ?_) (fun _ => ?_)))

theorem kept_checkHomes {s t : State} (h : Kept s t) : Kept s (checkHomes t) := by
  unfold checkHomes
  try dsimp only
  repeat' (first | with_reducible assumption | with_reducible apply kept_homeOut | (with_reducible refine kept_foldl ?_ (fun u x h => ?_)) | (with_reducible refine kept_ite (fun _ => ?_) (fun _ => ?_)) | split)

end Sys2Proof.Machine
end

