-- ==== Sys2Proof/Laws/Kept/Flush.lean ====
section
/-! SUPPORT. What the operations of Machine/Flush.lean keep (`Kept`). -/

namespace Sys2Proof.Machine

theorem kept_fn_onBuf {s t : State} {a0 a1 a2} (h : Kept s t) : Kept s (onBuf a0 a1 a2 t) := by
  unfold onBuf
  try dsimp only
  repeat' (first | with_reducible assumption | with_reducible apply kept_onIng | (with_reducible refine kept_ite (fun _ => ?_) (fun _ => ?_)))

theorem kept_jnlIntent {s t : State} {a0 a1 a2 a3 a4 a5 a6 a7 a8} (h : Kept s t) : Kept s (jnlIntent a0 a1 a2 a3 a4 a5 a6 a7 a8 t) := by
  unfold jnlIntent
  try dsimp only
  repeat' (first | with_reducible assumption | with_reducible apply kept_jnlRecord | (with_reducible refine kept_snd (by assumption) (kept_jnlRecord ?_)) | (with_reducible refine kept_ite (fun _ => ?_) (fun _ => ?_)))

theorem kept_jnlCommitStripe {s t : State} {a0 a1} (h : Kept s t) : Kept s (jnlCommitStripe a0 a1 t).2 := by
  unfold jnlCommitStripe
  try dsimp only
  repeat' (first | with_reducible assumption | with_reducible apply kept_jnlRecord | (with_reducible refine kept_snd (by assumption) (kept_jnlRecord ?_)) | split)

theorem kept_jnlRoom {s t : State} {a0} (h : Kept s t) : Kept s (jnlRoom a0 t).2 := by
  unfold jnlRoom
  try dsimp only
  repeat' (first | with_reducible assumption | with_reducible apply kept_onJnl | with_reducible apply kept_note | (with_reducible refine kept_ite (fun _ => ?_) (fun _ => ?_)) | (with_reducible refine kept_ite2 (fun _ => ?_) (fun _ => ?_)))

theorem kept_dataSegment {s t : State} {a0} (h : Kept s t) : Kept s (dataSegment a0 t).2 := by
  unfold dataSegment
  try dsimp only
  repeat' (first | with_reducible assumption | with_reducible apply kept_onTop | with_reducible apply kept_openSegment | (with_reducible refine kept_ite (fun _ => ?_) (fun _ => ?_)) | (with_reducible refine kept_ite2 (fun _ => ?_) (fun _ => ?_)) | split)

theorem kept_completeRow {s t : State} {a0 a1 a2 a3 a4 a5 a6} (h : Kept s t) : Kept s (completeRow a0 a1 a2 a3 a4 a5 a6 t) := by
  unfold completeRow
  try dsimp only
  repeat' (first | with_reducible assumption | with_reducible apply kept_jnlIntent | with_reducible apply kept_newId | (with_reducible refine kept_snd (by assumption) (kept_newId ?_)) | with_reducible apply kept_issueRow | with_reducible apply kept_onPar | with_reducible apply kept_rowTaken | (with_reducible refine kept_foldl4 ?_ (fun u x h => ?_)) | (with_reducible refine kept_foldl3 ?_ (fun u x h => ?_)) | (with_reducible refine kept_foldl2 ?_ (fun u x h => ?_)) | (with_reducible refine kept_foldl ?_ (fun u x h => ?_)) | (with_reducible refine kept_ite (fun _ => ?_) (fun _ => ?_)) | split)

theorem kept_rewriteSegment {s t : State} {a0 a1} (h : Kept s t) : Kept s (rewriteSegment a0 a1 t).2 := by
  unfold rewriteSegment
  try dsimp only
  repeat' (first | with_reducible assumption | with_reducible apply kept_onPar | with_reducible apply kept_openSegment | (with_reducible refine kept_ite (fun _ => ?_) (fun _ => ?_)) | (with_reducible refine kept_ite2 (fun _ => ?_) (fun _ => ?_)) | split)

theorem kept_programVersion {s t : State} {a0 a1 a2 a3 a4 a5 a6} (h : Kept s t) : Kept s (programVersion a0 a1 a2 a3 a4 a5 a6 t).2.2 := by
  unfold programVersion
  try dsimp only
  repeat' (first | with_reducible assumption | with_reducible apply kept_onPar | with_reducible apply kept_programPage | (with_reducible refine kept_snd (by assumption) (kept_programPage ?_)) | (with_reducible refine kept_ite (fun _ => ?_) (fun _ => ?_)) | (with_reducible refine kept_ite3 (fun _ => ?_) (fun _ => ?_)) | split)

theorem kept_extendStripe {s t : State} {a0 a1 a2 a3 a4 a5} (h : Kept s t) : Kept s (extendStripe a0 a1 a2 a3 a4 a5 t).2.2.2 := by
  unfold extendStripe
  try dsimp only
  repeat' (first | with_reducible assumption | with_reducible apply kept_jnlIntent | with_reducible apply kept_rewriteSegment | (with_reducible refine kept_snd (by assumption) (kept_rewriteSegment ?_)) | with_reducible apply kept_programVersion | (with_reducible refine kept_snd3 (by assumption) (kept_programVersion ?_)) | with_reducible apply kept_onPar | (with_reducible refine kept_foldl4 ?_ (fun u x h => ?_)) | (with_reducible refine kept_foldl3 ?_ (fun u x h => ?_)) | (with_reducible refine kept_foldl2 ?_ (fun u x h => ?_)) | (with_reducible refine kept_foldl ?_ (fun u x h => ?_)) | (with_reducible refine kept_ite (fun _ => ?_) (fun _ => ?_)) | (with_reducible refine kept_ite4 (fun _ => ?_) (fun _ => ?_)) | split)

theorem kept_extendRow {s t : State} {a0 a1 a2 a3 a4} (h : Kept s t) : Kept s (extendRow a0 a1 a2 a3 a4 t) := by
  unfold extendRow
  try dsimp only
  repeat' (first | with_reducible assumption | with_reducible apply kept_newId | (with_reducible refine kept_snd (by assumption) (kept_newId ?_)) | with_reducible apply kept_extendStripe | (with_reducible refine kept_snd4 (by assumption) (kept_extendStripe ?_)) | with_reducible apply kept_issueRow | with_reducible apply kept_onPar | (with_reducible refine kept_foldl4 ?_ (fun u x h => ?_)) | (with_reducible refine kept_foldl3 ?_ (fun u x h => ?_)) | (with_reducible refine kept_foldl2 ?_ (fun u x h => ?_)) | (with_reducible refine kept_foldl ?_ (fun u x h => ?_)) | (with_reducible refine kept_ite (fun _ => ?_) (fun _ => ?_)) | split)

theorem kept_placeBlocks {s t : State} {a0 a1} (h : Kept s t) : Kept s (placeBlocks a0 a1 t) := by
  unfold placeBlocks
  try dsimp only
  repeat' (first | with_reducible assumption | with_reducible apply kept_fn_onBuf | (with_reducible refine kept_foldl ?_ (fun u x h => ?_)))

theorem kept_closeRow {s t : State} {a0} (h : Kept s t) : Kept s (closeRow a0 t) := by
  unfold closeRow
  try dsimp only
  repeat' (first | with_reducible assumption | with_reducible apply kept_onPar | with_reducible apply kept_startJob | with_reducible apply kept_completeRow | (with_reducible refine kept_ite (fun _ => ?_) (fun _ => ?_)) | split)

theorem kept_flushTop {s t : State} {a0 a1 a2} (h : Kept s t) : Kept s (flushTop a0 a1 a2 t) := by
  induction a2 generalizing t  with
  | zero =>
    unfold flushTop
    repeat' (first | with_reducible assumption | with_reducible apply ih | with_reducible apply kept_dataSegment | (with_reducible refine kept_snd (by assumption) (kept_dataSegment ?_)) | with_reducible apply kept_jnlRoom | (with_reducible refine kept_snd (by assumption) (kept_jnlRoom ?_)) | with_reducible apply kept_placeBlocks | with_reducible apply kept_completeRow | with_reducible apply kept_rewriteSegment | (with_reducible refine kept_snd (by assumption) (kept_rewriteSegment ?_)) | with_reducible apply kept_extendRow | (with_reducible refine kept_foldl ?_ (fun u x h => ?_)) | (with_reducible refine kept_ite (fun _ => ?_) (fun _ => ?_)) | split | (cases ‹_ + 1 = Nat.succ _›))
  | succ _ ih =>
    unfold flushTop
    try dsimp only
    repeat' (first | with_reducible assumption | with_reducible apply ih | with_reducible apply kept_dataSegment | (with_reducible refine kept_snd (by assumption) (kept_dataSegment ?_)) | with_reducible apply kept_jnlRoom | (with_reducible refine kept_snd (by assumption) (kept_jnlRoom ?_)) | with_reducible apply kept_placeBlocks | with_reducible apply kept_completeRow | with_reducible apply kept_rewriteSegment | (with_reducible refine kept_snd (by assumption) (kept_rewriteSegment ?_)) | with_reducible apply kept_extendRow | (with_reducible refine kept_foldl ?_ (fun u x h => ?_)) | (with_reducible refine kept_ite (fun _ => ?_) (fun _ => ?_)) | split | (cases ‹_ + 1 = Nat.succ _›))

theorem kept_flushBlocks {s t : State} {a0} (h : Kept s t) : Kept s (flushBlocks a0 t) := by
  unfold flushBlocks
  try dsimp only
  repeat' (first | with_reducible assumption | with_reducible apply kept_flushTop | (with_reducible refine kept_foldl ?_ (fun u x h => ?_)))

theorem kept_onTake {s t : State} {a0 a1 a2} (h : Kept s t) : Kept s (onTake a0 a1 a2 t) := by
  unfold onTake
  try dsimp only
  repeat' (first | with_reducible assumption | (with_reducible refine kept_onFtl_same ?_ (fun _ => rfl) (fun _ => rfl)) | (with_reducible refine kept_onFtl ?_ ?_) | exact fun x => ⟨x.1, x.2.1, tabDel_nodup x.2.2.1, fun e he => x.2.2.2 e (mem_tabDel he)⟩ | exact fun x => ⟨x.1, x.2.1, tabPut_nodup x.2.2.1, fun e he => (mem_tabPut he).elim (fun q => q ▸ by assumption) (x.2.2.2 e)⟩ | exact fun _ => canonical_empty rfl rfl | (intro hx; (try dsimp only); split <;> exact hx))

theorem kept_drawStrips {s t : State} {a0 a1 a2 a3} (h : Kept s t) : Kept s (drawStrips a0 a1 a2 a3 t) := by
  unfold drawStrips
  try dsimp only
  repeat' (first | with_reducible assumption | with_reducible apply kept_onTake | (with_reducible refine kept_ite (fun _ => ?_) (fun _ => ?_)) | split)

theorem kept_takeSegment {s t : State} {a0 a1 a2} (h : Kept s t) : Kept s (takeSegment a0 a1 a2 t).2 := by
  unfold takeSegment
  try dsimp only
  repeat' (first | with_reducible assumption | with_reducible apply kept_onSeg | with_reducible apply kept_openSegment | split)

theorem kept_streamRow {s t : State} {a0 a1 a2} (h : Kept s t) : Kept s (streamRow a0 a1 a2 t) := by
  unfold streamRow
  try dsimp only
  repeat' (first | with_reducible assumption | with_reducible apply kept_takeSegment | (with_reducible refine kept_snd (by assumption) (kept_takeSegment ?_)) | with_reducible apply kept_newId | (with_reducible refine kept_snd (by assumption) (kept_newId ?_)) | with_reducible apply kept_onTake | with_reducible apply kept_onSeg | with_reducible apply kept_logItem | (with_reducible refine kept_snd (by assumption) (kept_logItem ?_)) | with_reducible apply kept_rowTaken | with_reducible apply kept_issueRow | (with_reducible refine kept_ite (fun _ => ?_) (fun _ => ?_)) | split)

theorem kept_flushTake {s t : State} {a0 a1 a2 a3} (h : Kept s t) : Kept s (flushTake a0 a1 a2 a3 t) := by
  induction a3 generalizing t  with
  | zero =>
    unfold flushTake
    repeat' (first | with_reducible assumption | with_reducible apply ih | with_reducible apply kept_streamRow | (with_reducible refine kept_ite (fun _ => ?_) (fun _ => ?_)) | split | (cases ‹_ + 1 = Nat.succ _›))
  | succ _ ih =>
    unfold flushTake
    try dsimp only
    repeat' (first | with_reducible assumption | with_reducible apply ih | with_reducible apply kept_streamRow | (with_reducible refine kept_ite (fun _ => ?_) (fun _ => ?_)) | split | (cases ‹_ + 1 = Nat.succ _›))

theorem kept_flushTakes {s t : State} {a0} (h : Kept s t) : Kept s (flushTakes a0 t) := by
  unfold flushTakes
  try dsimp only
  repeat' (first | with_reducible assumption | with_reducible apply kept_flushTake | (with_reducible refine kept_foldl4 ?_ (fun u x h => ?_)) | (with_reducible refine kept_foldl3 ?_ (fun u x h => ?_)) | (with_reducible refine kept_foldl2 ?_ (fun u x h => ?_)) | (with_reducible refine kept_foldl ?_ (fun u x h => ?_)))

theorem kept_rowPrograms {s t : State} {a0} (h : Kept s t) : Kept s (rowPrograms a0 t) := by
  unfold rowPrograms
  try dsimp only
  repeat' (first | with_reducible assumption | with_reducible apply kept_jnlCommitStripe | (with_reducible refine kept_snd (by assumption) (kept_jnlCommitStripe ?_)) | with_reducible apply kept_onPar | (with_reducible refine kept_foldl4 ?_ (fun u x h => ?_)) | (with_reducible refine kept_foldl3 ?_ (fun u x h => ?_)) | (with_reducible refine kept_foldl2 ?_ (fun u x h => ?_)) | (with_reducible refine kept_foldl ?_ (fun u x h => ?_)) | (with_reducible refine kept_ite (fun _ => ?_) (fun _ => ?_)) | split)

theorem kept_pageDone {s t : State} {a0 a1 a2} (h : Kept s t) : Kept s (pageDone a0 a1 a2 t) := by
  unfold pageDone
  try dsimp only
  repeat' (first | with_reducible assumption | with_reducible apply kept_rowPrograms | with_reducible apply kept_onPar | (with_reducible refine kept_ite (fun _ => ?_) (fun _ => ?_)))

theorem kept_dropRewrites {s t : State} {a0} (h : Kept s t) : Kept s (dropRewrites a0 t) := by
  unfold dropRewrites
  try dsimp only
  repeat' (first | with_reducible assumption | with_reducible apply kept_trimSegment | with_reducible apply kept_closeSegment | with_reducible apply kept_onPar | (with_reducible refine kept_ite (fun _ => ?_) (fun _ => ?_)) | split)

end Sys2Proof.Machine
end

