-- ==== Sys2Proof/Laws/Kept/Engines.lean ====
section
/-! SUPPORT. What the operations of Machine/Engines.lean keep (`Kept`). -/

namespace Sys2Proof.Machine

theorem kept_cmpCount {s t : State} {a0} (h : Kept s t) : Kept s (cmpCount a0 t) := by
  unfold cmpCount
  try dsimp only
  repeat' (first | with_reducible assumption | with_reducible apply kept_onCmp | (with_reducible refine kept_ite (fun _ => ?_) (fun _ => ?_)))

theorem kept_fillLanes {s t : State} {a0} (h : Kept s t) : Kept s (fillLanes a0 t) := by
  induction a0 generalizing t  with
  | zero =>
    unfold fillLanes
    repeat' (first | with_reducible assumption | with_reducible apply ih | with_reducible apply kept_onCip | split | (cases ‹_ + 1 = Nat.succ _›))
  | succ _ ih =>
    unfold fillLanes
    try dsimp only
    repeat' (first | with_reducible assumption | with_reducible apply ih | with_reducible apply kept_onCip | split | (cases ‹_ + 1 = Nat.succ _›))

theorem kept_gcmStart {s t : State} {a0} (h : Kept s t) : Kept s (gcmStart a0 t) := by
  unfold gcmStart
  try dsimp only
  repeat' (first | with_reducible assumption | with_reducible apply kept_fillLanes | with_reducible apply kept_onCip)

theorem kept_gcmEnd {s t : State} {a0} (h : Kept s t) : Kept s (gcmEnd a0 t) := by
  unfold gcmEnd
  try dsimp only
  repeat' (first | with_reducible assumption | with_reducible apply kept_fillLanes | with_reducible apply kept_onCip)

theorem kept_fpRebuild {s t : State} (h : Kept s t) : Kept s (fpRebuild t) := by
  unfold fpRebuild
  try dsimp only
  repeat' (first | with_reducible assumption | with_reducible apply kept_note | with_reducible apply kept_onFpr | (with_reducible refine kept_foldl4 ?_ (fun u x h => ?_)) | (with_reducible refine kept_foldl3 ?_ (fun u x h => ?_)) | (with_reducible refine kept_foldl2 ?_ (fun u x h => ?_)) | (with_reducible refine kept_foldl ?_ (fun u x h => ?_)) | (with_reducible refine kept_ite (fun _ => ?_) (fun _ => ?_)))

theorem kept_fpInsert {s t : State} {a0 a1 a2 a3} (h : Kept s t) : Kept s (fpInsert a0 a1 a2 a3 t) := by
  unfold fpInsert
  try dsimp only
  repeat' (first | with_reducible assumption | with_reducible apply kept_onFpr | with_reducible apply kept_fpRebuild | (with_reducible refine kept_foldl ?_ (fun u x h => ?_)) | (with_reducible refine kept_ite (fun _ => ?_) (fun _ => ?_)) | split)

/-- What a reference leaves, whatever the tables answer. -/
theorem kept_takeRef {s t u : State} {hd w : Nat} {o : Option (Nat × Share)} {m : Option ((Nat × Nat) × Nat)} {n : Option (Nat × State)}
    (e : (match o with
      | some (i, _) => some (sharedWord i, shareAdd hd i t)
      | none => match m with
        | none => none
        | some ((v, lba), _) => match n with
          | some (i, s1) => some (sharedWord i, (logItem hd (.delta v lba false (sharedWord i)) (putWord v lba (sharedWord i) s1)).2)
          | none => none) = some (w, u))
    (k : ∀ p, n = some p → Kept s p.2) (h : Kept s t) : Kept s u := by
  cases o with
  | some p => cases e; exact kept_shareAdd h
  | none => cases m with | none => cases e | some p => cases n with
      | none => cases e
      | some q => cases e; exact kept_logItem (kept_putWord (k q rfl))

theorem kept_takeReference {s t u : State} {loc vol w : Nat} (e : takeReference loc vol t = some (w, u)) (h : Kept s t) : Kept s u :=
  kept_takeRef (n := shareNew (t.volOwner vol) loc 2 t) e (fun p hp => kept_shareNew (i := p.1) hp h (by decide)) h

theorem kept_fpDecide {s t : State} {a0 a1 a2} (h : Kept s t) : Kept s (fpDecide a0 a1 a2 t).2 := by
  unfold fpDecide
  try dsimp only
  repeat' (first | with_reducible assumption | with_reducible apply kept_onFpr | with_reducible apply kept_note | with_reducible apply kept_onIng | (with_reducible refine kept_takeReference (by assumption) ?_) | (with_reducible refine kept_onFtl_same ?_ (fun _ => rfl) (fun _ => rfl)) | (with_reducible refine kept_onFtl ?_ ?_) | exact fun x => ⟨x.1, x.2.1, tabDel_nodup x.2.2.1, fun e he => x.2.2.2 e (mem_tabDel he)⟩ | exact fun x => ⟨x.1, x.2.1, tabPut_nodup x.2.2.1, fun e he => (mem_tabPut he).elim (fun q => q ▸ by assumption) (x.2.2.2 e)⟩ | exact fun _ => canonical_empty rfl rfl | (intro hx; (try dsimp only); split <;> exact hx) | (with_reducible refine kept_foldl4 ?_ (fun u x h => ?_)) | (with_reducible refine kept_foldl3 ?_ (fun u x h => ?_)) | (with_reducible refine kept_foldl2 ?_ (fun u x h => ?_)) | (with_reducible refine kept_foldl ?_ (fun u x h => ?_)) | (with_reducible refine kept_ite (fun _ => ?_) (fun _ => ?_)) | (with_reducible refine kept_ite2 (fun _ => ?_) (fun _ => ?_)) | split)

end Sys2Proof.Machine
end

