-- ==== Sys2Proof/Laws/Kept/Ingest.lean ====
section
/-! SUPPORT. What the operations of Machine/Ingest.lean keep (`Kept`). -/

namespace Sys2Proof.Machine

theorem kept_chg {s t : State} {a0 a1} (h : Kept s t) : Kept s (chg a0 a1 t) := by
  unfold chg
  try dsimp only
  repeat' (first | with_reducible assumption | with_reducible apply kept_onCmd | (with_reducible refine kept_ite (fun _ => ?_) (fun _ => ?_)))

theorem kept_onWin {s t : State} {a0 a1} (h : Kept s t) : Kept s (onWin a0 a1 t) := by
  unfold onWin
  try dsimp only
  repeat' (first | with_reducible assumption | with_reducible apply kept_onCmd)

theorem kept_holdsClear {s t : State} (h : Kept s t) : Kept s (holdsClear t) := by
  unfold holdsClear
  try dsimp only
  repeat' (first | with_reducible assumption | with_reducible apply kept_onCmd)

theorem kept_dirtyAdd {s t : State} {a0 a1 a2} (h : Kept s t) : Kept s (dirtyAdd a0 a1 a2 t) := by
  unfold dirtyAdd
  try dsimp only
  repeat' (first | with_reducible assumption | with_reducible apply kept_onIng)

theorem kept_dirtyDrop {s t : State} {a0 a1 a2} (h : Kept s t) : Kept s (dirtyDrop a0 a1 a2 t) := by
  unfold dirtyDrop
  try dsimp only
  repeat' (first | with_reducible assumption | with_reducible apply kept_holdsClear | with_reducible apply kept_onIng | (with_reducible refine kept_ite (fun _ => ?_) (fun _ => ?_)))

theorem kept_leaveBlock {s t : State} {a0} (h : Kept s t) : Kept s (leaveBlock a0 t) := by
  unfold leaveBlock
  try dsimp only
  repeat' (first | with_reducible assumption | with_reducible apply kept_onIng | with_reducible apply kept_dirtyDrop | (with_reducible refine kept_ite (fun _ => ?_) (fun _ => ?_)))

theorem kept_dropData {s t : State} {a0 a1} (h : Kept s t) : Kept s (dropData a0 a1 t) := by
  unfold dropData
  try dsimp only
  repeat' (first | with_reducible assumption | with_reducible apply kept_dropWord | with_reducible apply kept_dirtyDrop | with_reducible apply kept_onIng | (with_reducible refine kept_foldl4 ?_ (fun u x h => ?_)) | (with_reducible refine kept_foldl3 ?_ (fun u x h => ?_)) | (with_reducible refine kept_foldl2 ?_ (fun u x h => ?_)) | (with_reducible refine kept_foldl ?_ (fun u x h => ?_)))

theorem kept_sendSeg {s t : State} {a0} (h : Kept s t) : Kept s (sendSeg a0 t) := by
  unfold sendSeg
  try dsimp only
  repeat' (first | with_reducible assumption | with_reducible apply kept_plFrame)

theorem kept_teeAlarm {s t : State} (h : Kept s t) : Kept s (teeAlarm t) := by
  unfold teeAlarm
  try dsimp only
  repeat' (first | with_reducible assumption | with_reducible apply kept_onIng | with_reducible apply kept_note | (with_reducible refine kept_ite (fun _ => ?_) (fun _ => ?_)))

theorem kept_teeDrain {s t : State} (h : Kept s t) : Kept s (teeDrain t) := by
  unfold teeDrain
  try dsimp only
  repeat' (first | with_reducible assumption | with_reducible apply kept_teeAlarm | with_reducible apply kept_sendSeg | with_reducible apply kept_onIng | (with_reducible refine kept_foldl ?_ (fun u x h => ?_)) | (with_reducible refine kept_ite (fun _ => ?_) (fun _ => ?_)))

theorem kept_tee {s t : State} {a0 a1 a2 a3 a4 a5} (h : Kept s t) : Kept s (tee a0 a1 a2 a3 a4 a5 t) := by
  unfold tee
  try dsimp only
  repeat' (first | with_reducible assumption | with_reducible apply kept_chg | with_reducible apply kept_onIng | with_reducible apply kept_sendSeg | with_reducible apply kept_teeAlarm | (with_reducible refine kept_ite (fun _ => ?_) (fun _ => ?_)))

theorem kept_segReceipts {s t : State} {a0} (h : Kept s t) : Kept s (segReceipts a0 t) := by
  unfold segReceipts
  try dsimp only
  repeat' (first | with_reducible assumption | with_reducible apply kept_onCmd | with_reducible apply kept_onIng)

theorem kept_failCmd {s t : State} {a0 a1 a2 a3} (h : Kept s t) : Kept s (failCmd a0 a1 a2 a3 t) := by
  unfold failCmd
  try dsimp only
  repeat' (first | with_reducible assumption | with_reducible apply kept_chg | (with_reducible refine kept_ite (fun _ => ?_) (fun _ => ?_)))

theorem kept_placeData {s t : State} {a0 a1 a2 a3 a4} (h : Kept s t) : Kept s (placeData a0 a1 a2 a3 a4 t) := by
  unfold placeData
  try dsimp only
  repeat' (first | with_reducible assumption | with_reducible apply kept_onIng | with_reducible apply kept_onWin | with_reducible apply kept_failCmd | with_reducible apply kept_tee | (with_reducible refine kept_ite (fun _ => ?_) (fun _ => ?_)) | split)

theorem kept_stageFail {s t : State} {a0 a1 a2} (h : Kept s t) : Kept s (stageFail a0 a1 a2 t) := by
  unfold stageFail
  try dsimp only
  repeat' (first | with_reducible assumption | with_reducible apply kept_onIng | with_reducible apply kept_note | with_reducible apply kept_chg | with_reducible apply kept_failCmd | (with_reducible refine kept_foldl4 ?_ (fun u x h => ?_)) | (with_reducible refine kept_foldl3 ?_ (fun u x h => ?_)) | (with_reducible refine kept_foldl2 ?_ (fun u x h => ?_)) | (with_reducible refine kept_foldl ?_ (fun u x h => ?_)) | split)

theorem kept_joinBlocks {s t : State} {a0 a1 a2 a3} (h : Kept s t) : Kept s (joinBlocks a0 a1 a2 a3 t) := by
  induction a3 generalizing t  with
  | zero =>
    unfold joinBlocks
    repeat' (first | with_reducible assumption | with_reducible apply ih | with_reducible apply kept_onTake | (with_reducible refine kept_ite (fun _ => ?_) (fun _ => ?_)) | split | (cases ‹_ + 1 = Nat.succ _›))
  | succ _ ih =>
    unfold joinBlocks
    try dsimp only
    repeat' (first | with_reducible assumption | with_reducible apply ih | with_reducible apply kept_onTake | (with_reducible refine kept_ite (fun _ => ?_) (fun _ => ?_)) | split | (cases ‹_ + 1 = Nat.succ _›))

theorem kept_joinDraft {s t : State} {a0 a1 a2} (h : Kept s t) : Kept s (joinDraft a0 a1 a2 t) := by
  unfold joinDraft
  try dsimp only
  repeat' (first | with_reducible assumption | with_reducible apply kept_joinBlocks | with_reducible apply kept_drawStrips | (with_reducible refine kept_ite (fun _ => ?_) (fun _ => ?_)))

end Sys2Proof.Machine
end

