-- ==== Sys2Proof/Laws/Kept/Commands.lean ====
section
/-! SUPPORT. What the operations of Machine/Commands.lean keep (`Kept`). -/

namespace Sys2Proof.Machine

theorem kept_mirrorCmd {s t : State} {a0 a1 a2} (h : Kept s t) : Kept s (mirrorCmd a0 a1 a2 t) := by
  unfold mirrorCmd
  try dsimp only
  repeat' (first | with_reducible assumption | (with_reducible refine kept_mirror ?_ (fun u h => ?_)) | with_reducible apply kept_plRecords)

theorem kept_mirrorWin {s t : State} {a0 a1 a2 a3} (h : Kept s t) : Kept s (mirrorWin a0 a1 a2 a3 t) := by
  unfold mirrorWin
  try dsimp only
  repeat' (first | with_reducible assumption | (with_reducible refine kept_mirror ?_ (fun u h => ?_)) | with_reducible apply kept_plRecords)

theorem kept_sendOn {s t : State} {a0 a1} (h : Kept s t) : Kept s (sendOn a0 a1 t) := by
  unfold sendOn
  try dsimp only
  repeat' (first | with_reducible assumption | with_reducible apply kept_sendHead | split)

theorem kept_reject {s t : State} {a0 a1} (h : Kept s t) : Kept s (reject a0 a1 t) := by
  unfold reject
  try dsimp only
  repeat' (first | with_reducible assumption | with_reducible apply kept_sendOn | with_reducible apply kept_onCmd)

theorem kept_recordOrphan {s t : State} {a0 a1} (h : Kept s t) : Kept s (recordOrphan a0 a1 t) := by
  unfold recordOrphan
  try dsimp only
  repeat' (first | with_reducible assumption | with_reducible apply kept_onCmd | (with_reducible refine kept_ite (fun _ => ?_) (fun _ => ?_)) | split)

theorem kept_orphansRaised {s t : State} {a0} (h : Kept s t) : Kept s (orphansRaised a0 t) := by
  unfold orphansRaised
  try dsimp only
  repeat' (first | with_reducible assumption | with_reducible apply kept_raise)

theorem kept_supersede {s t : State} {a0 a1} (h : Kept s t) : Kept s (supersede a0 a1 t) := by
  unfold supersede
  try dsimp only
  repeat' (first | with_reducible assumption | with_reducible apply kept_dropWord | with_reducible apply kept_leaveBlock | with_reducible apply kept_fn_onBuf | with_reducible apply kept_onCmd | (with_reducible refine kept_foldl4 ?_ (fun u x h => ?_)) | (with_reducible refine kept_foldl3 ?_ (fun u x h => ?_)) | (with_reducible refine kept_foldl2 ?_ (fun u x h => ?_)) | (with_reducible refine kept_foldl ?_ (fun u x h => ?_)) | (with_reducible refine kept_ite (fun _ => ?_) (fun _ => ?_)) | split)

theorem kept_unreserve {s t : State} {a0} (h : Kept s t) : Kept s (unreserve a0 t) := by
  unfold unreserve
  try dsimp only
  repeat' (first | with_reducible assumption | with_reducible apply kept_onTop | split)

theorem kept_writeEffect {s t : State} {a0} (h : Kept s t) : Kept s (writeEffect a0 t) := by
  unfold writeEffect
  try dsimp only
  repeat' (first | with_reducible assumption | with_reducible apply kept_unreserve | with_reducible apply kept_leaveBlock | with_reducible apply kept_dropWord | with_reducible apply kept_fn_onBuf | with_reducible apply kept_supersede | with_reducible apply kept_onTake | (with_reducible refine kept_foldl ?_ (fun u x h => ?_)) | (with_reducible refine kept_ite (fun _ => ?_) (fun _ => ?_)) | split)

theorem kept_failEffect {s t : State} {a0} (h : Kept s t) : Kept s (failEffect a0 t) := by
  unfold failEffect
  try dsimp only
  repeat' (first | with_reducible assumption | with_reducible apply kept_dropData | with_reducible apply kept_unreserve | (with_reducible refine kept_mirror ?_ (fun u h => ?_)) | with_reducible apply kept_plControl | with_reducible apply kept_onTake | with_reducible apply kept_logItem | (with_reducible refine kept_snd (by assumption) (kept_logItem ?_)) | (with_reducible refine kept_onFtl_same ?_ (fun _ => rfl) (fun _ => rfl)) | (with_reducible refine kept_onFtl ?_ ?_) | exact fun x => ⟨x.1, x.2.1, tabDel_nodup x.2.2.1, fun e he => x.2.2.2 e (mem_tabDel he)⟩ | exact fun x => ⟨x.1, x.2.1, tabPut_nodup x.2.2.1, fun e he => (mem_tabPut he).elim (fun q => q ▸ by assumption) (x.2.2.2 e)⟩ | exact fun _ => canonical_empty rfl rfl | (intro hx; (try dsimp only); split <;> exact hx) | (with_reducible refine kept_ite (fun _ => ?_) (fun _ => ?_)))

theorem kept_endCmd {s t : State} {a0 a1 a2 a3 a4 a5} (h : Kept s t) : Kept s (endCmd a0 a1 a2 a3 a4 a5 t) := by
  unfold endCmd
  try dsimp only
  repeat' (first | with_reducible assumption | with_reducible apply kept_writeEffect | with_reducible apply kept_failEffect | with_reducible apply kept_onCmd | with_reducible apply kept_onPar | with_reducible apply kept_orphansRaised | with_reducible apply kept_recordOrphan | with_reducible apply kept_sendOn | with_reducible apply kept_mirrorCmd | (with_reducible refine kept_ite (fun _ => ?_) (fun _ => ?_)) | split)

theorem kept_tryEnd {s t : State} {a0} (h : Kept s t) : Kept s (tryEnd a0 t) := by
  unfold tryEnd
  try dsimp only
  repeat' (first | with_reducible assumption | with_reducible apply kept_endCmd | (with_reducible refine kept_ite (fun _ => ?_) (fun _ => ?_)) | split)

theorem kept_finish {s t : State} {a0 a1 a2 a3 a4 a5} (h : Kept s t) : Kept s (finish a0 a1 a2 a3 a4 a5 t) := by
  unfold finish
  try dsimp only
  repeat' (first | with_reducible assumption | with_reducible apply kept_tryEnd | with_reducible apply kept_chg | (with_reducible refine kept_ite (fun _ => ?_) (fun _ => ?_)))

theorem kept_dropWindows {s t : State} {a0} (h : Kept s t) : Kept s (dropWindows a0 t) := by
  unfold dropWindows
  try dsimp only
  repeat' (first | with_reducible assumption | with_reducible apply kept_mirrorWin | with_reducible apply kept_onCmd | (with_reducible refine kept_foldl4 ?_ (fun u x h => ?_)) | (with_reducible refine kept_foldl3 ?_ (fun u x h => ?_)) | (with_reducible refine kept_foldl2 ?_ (fun u x h => ?_)) | (with_reducible refine kept_foldl ?_ (fun u x h => ?_)) | split)

theorem kept_openWindow {s t : State} {a0 a1 a2} (h : Kept s t) : Kept s (openWindow a0 a1 a2 t) := by
  unfold openWindow
  try dsimp only
  repeat' (first | with_reducible assumption | with_reducible apply kept_onCmd | with_reducible apply kept_chg | with_reducible apply kept_sendOn | with_reducible apply kept_mirrorWin)

theorem kept_nameWindow {s t : State} {a0} (h : Kept s t) : Kept s (nameWindow a0 t) := by
  unfold nameWindow
  try dsimp only
  repeat' (first | with_reducible assumption | with_reducible apply kept_onCmd | with_reducible apply kept_openWindow | with_reducible apply kept_dirtyAdd | with_reducible apply kept_onIng | (with_reducible refine kept_ite (fun _ => ?_) (fun _ => ?_)) | split)

theorem kept_nameWindows {s t : State} {a0 a1} (h : Kept s t) : Kept s (nameWindows a0 a1 t) := by
  induction a1 generalizing t  with
  | zero =>
    unfold nameWindows
    repeat' (first | with_reducible assumption | with_reducible apply ih | with_reducible apply kept_nameWindow | (with_reducible refine kept_ite (fun _ => ?_) (fun _ => ?_)) | split | (cases ‹_ + 1 = Nat.succ _›))
  | succ _ ih =>
    unfold nameWindows
    try dsimp only
    repeat' (first | with_reducible assumption | with_reducible apply ih | with_reducible apply kept_nameWindow | (with_reducible refine kept_ite (fun _ => ?_) (fun _ => ?_)) | split | (cases ‹_ + 1 = Nat.succ _›))

theorem kept_windowDone {s t : State} {a0} (h : Kept s t) : Kept s (windowDone a0 t) := by
  unfold windowDone
  try dsimp only
  repeat' (first | with_reducible assumption | with_reducible apply kept_chg | with_reducible apply kept_mirrorWin | with_reducible apply kept_onWin | with_reducible apply kept_failCmd | with_reducible apply kept_mirrorCmd | (with_reducible refine kept_ite (fun _ => ?_) (fun _ => ?_)) | split)

theorem kept_checkWrite {s t : State} {a0} (h : Kept s t) : Kept s (checkWrite a0 t) := by
  unfold checkWrite
  try dsimp only
  repeat' (first | with_reducible assumption | with_reducible apply kept_finish | (with_reducible refine kept_ite (fun _ => ?_) (fun _ => ?_)) | split)

theorem kept_startReads {s t : State} {a0 a1} (h : Kept s t) : Kept s (startReads a0 a1 t) := by
  unfold startReads
  try dsimp only
  repeat' (first | with_reducible assumption | with_reducible apply kept_chg | with_reducible apply kept_startJob | (with_reducible refine kept_foldl4 ?_ (fun u x h => ?_)) | (with_reducible refine kept_foldl3 ?_ (fun u x h => ?_)) | (with_reducible refine kept_foldl2 ?_ (fun u x h => ?_)) | (with_reducible refine kept_foldl ?_ (fun u x h => ?_)) | split)

theorem kept_countHits {s t : State} {a0} (h : Kept s t) : Kept s (countHits a0 t) := by
  unfold countHits
  try dsimp only
  repeat' (first | with_reducible assumption | with_reducible apply kept_onCmd)

theorem kept_sendData {s t : State} {a0 a1 a2} (h : Kept s t) : Kept s (sendData a0 a1 a2 t) := by
  unfold sendData
  try dsimp only
  repeat' (first | with_reducible assumption | (with_reducible refine kept_mirror ?_ (fun u h => ?_)) | with_reducible apply kept_plRecords | with_reducible apply kept_ctxSend | (with_reducible refine kept_foldl ?_ (fun u x h => ?_)) | (with_reducible refine kept_ite (fun _ => ?_) (fun _ => ?_)) | split)

theorem kept_sendReady {s t : State} {a0 a1} (h : Kept s t) : Kept s (sendReady a0 a1 t) := by
  induction a1 generalizing t  with
  | zero =>
    unfold sendReady
    repeat' (first | with_reducible assumption | with_reducible apply ih | with_reducible apply kept_sendData | with_reducible apply kept_chg | split | (cases ‹_ + 1 = Nat.succ _›))
  | succ _ ih =>
    unfold sendReady
    try dsimp only
    repeat' (first | with_reducible assumption | with_reducible apply ih | with_reducible apply kept_sendData | with_reducible apply kept_chg | split | (cases ‹_ + 1 = Nat.succ _›))

theorem kept_pullWindows {s t : State} {a0 a1} (h : Kept s t) : Kept s (pullWindows a0 a1 t) := by
  induction a1 generalizing t  with
  | zero =>
    unfold pullWindows
    repeat' (first | with_reducible assumption | with_reducible apply ih | with_reducible apply kept_openWindow | (with_reducible refine kept_ite (fun _ => ?_) (fun _ => ?_)) | split | (cases ‹_ + 1 = Nat.succ _›))
  | succ _ ih =>
    unfold pullWindows
    try dsimp only
    repeat' (first | with_reducible assumption | with_reducible apply ih | with_reducible apply kept_openWindow | (with_reducible refine kept_ite (fun _ => ?_) (fun _ => ?_)) | split | (cases ‹_ + 1 = Nat.succ _›))

theorem kept_checkRead {s t : State} {a0} (h : Kept s t) : Kept s (checkRead a0 t) := by
  unfold checkRead
  try dsimp only
  repeat' (first | with_reducible assumption | with_reducible apply kept_finish | with_reducible apply kept_dropWindows | with_reducible apply kept_pullWindows | with_reducible apply kept_sendReady | (with_reducible refine kept_ite (fun _ => ?_) (fun _ => ?_)) | split)

theorem kept_readBlock {s t : State} {a0 a1 a2} (h : Kept s t) : Kept s (readBlock a0 a1 a2 t) := by
  unfold readBlock
  try dsimp only
  repeat' (first | with_reducible assumption | with_reducible apply kept_chg | (with_reducible refine kept_ite (fun _ => ?_) (fun _ => ?_)))

theorem kept_sendRecords {s t : State} {a0 a1} (h : Kept s t) : Kept s (sendRecords a0 a1 t) := by
  unfold sendRecords
  try dsimp only
  repeat' (first | with_reducible assumption | with_reducible apply kept_sendData | with_reducible apply kept_finish | (with_reducible refine kept_foldl4 ?_ (fun u x h => ?_)) | (with_reducible refine kept_foldl3 ?_ (fun u x h => ?_)) | (with_reducible refine kept_foldl2 ?_ (fun u x h => ?_)) | (with_reducible refine kept_foldl ?_ (fun u x h => ?_)) | split)

end Sys2Proof.Machine
end

