-- ==== Sys2Proof/Laws/Kept/Snaps.lean ====
section
/-! SUPPORT. What the operations of Machine/Snaps.lean keep (`Kept`). -/

namespace Sys2Proof.Machine

theorem kept_putSnap {s t : State} {a0 a1} (h : Kept s t) : Kept s (putSnap a0 a1 t).2 := by
  unfold putSnap
  try dsimp only
  repeat' (first | with_reducible assumption | with_reducible apply kept_logItem | (with_reducible refine kept_snd (by assumption) (kept_logItem ?_)) | with_reducible apply kept_onRpl)

theorem kept_dropSnap {s t : State} {a0} (h : Kept s t) : Kept s (dropSnap a0 t).2 := by
  unfold dropSnap
  try dsimp only
  repeat' (first | with_reducible assumption | with_reducible apply kept_logItem | (with_reducible refine kept_snd (by assumption) (kept_logItem ?_)) | with_reducible apply kept_onRpl | split)

theorem kept_addSnap {s t u : State} {a0 a1 a2 a3 a4 a5 a6 b c} (e : addSnap a0 a1 a2 a3 a4 a5 a6 t = some (b, c, u)) (h : Kept s t) :
    Kept s u := by
  unfold addSnap at e
  split at e
  · cases e
  · cases e
    exact kept_putSnap (kept_onRpl h)

theorem kept_releaseWords {s t : State} {a0 a1} (h : Kept s t) : Kept s (releaseWords a0 a1 t) := by
  unfold releaseWords
  try dsimp only
  repeat' (first | with_reducible assumption | with_reducible apply kept_shareDrop | (with_reducible refine kept_foldl ?_ (fun u x h => ?_)) | (with_reducible refine kept_ite (fun _ => ?_) (fun _ => ?_)))

theorem kept_releasePage {s t : State} {a0 a1} (h : Kept s t) : Kept s (releasePage a0 a1 t) := by
  unfold releasePage
  try dsimp only
  repeat' (first | with_reducible assumption | with_reducible apply kept_onRpl | with_reducible apply kept_releaseWords | with_reducible apply kept_logItem | (with_reducible refine kept_snd (by assumption) (kept_logItem ?_)) | with_reducible apply kept_dropSnap | (with_reducible refine kept_snd (by assumption) (kept_dropSnap ?_)) | (with_reducible refine kept_foldl4 ?_ (fun u x h => ?_)) | (with_reducible refine kept_foldl3 ?_ (fun u x h => ?_)) | (with_reducible refine kept_foldl2 ?_ (fun u x h => ?_)) | (with_reducible refine kept_foldl ?_ (fun u x h => ?_)) | (with_reducible refine kept_ite (fun _ => ?_) (fun _ => ?_)) | split)

theorem kept_freeRows {s t : State} {a0 a1 a2 a3} (h : Kept s t) : Kept s (freeRows a0 a1 a2 a3 t) := by
  unfold freeRows
  try dsimp only
  repeat' (first | with_reducible assumption | with_reducible apply kept_onSeg | with_reducible apply kept_trimSegment | (with_reducible refine kept_foldl4 ?_ (fun u x h => ?_)) | (with_reducible refine kept_foldl3 ?_ (fun u x h => ?_)) | (with_reducible refine kept_foldl2 ?_ (fun u x h => ?_)) | (with_reducible refine kept_foldl ?_ (fun u x h => ?_)) | (with_reducible refine kept_ite (fun _ => ?_) (fun _ => ?_)))

theorem kept_dropOpenSeg {s t : State} {a0 a1 a2} (h : Kept s t) : Kept s (dropOpenSeg a0 a1 a2 t) := by
  unfold dropOpenSeg
  try dsimp only
  repeat' (first | with_reducible assumption | with_reducible apply kept_trimSegment | with_reducible apply kept_onSeg | (with_reducible refine kept_ite (fun _ => ?_) (fun _ => ?_)) | split)

theorem kept_deleteTake {s t : State} {a0 a1} (h : Kept s t) : Kept s (deleteTake a0 a1 t).2 := by
  unfold deleteTake
  try dsimp only
  repeat' (first | with_reducible assumption | (with_reducible refine kept_onFtl_same ?_ (fun _ => rfl) (fun _ => rfl)) | (with_reducible refine kept_onFtl ?_ ?_) | exact fun x => ⟨x.1, x.2.1, tabDel_nodup x.2.2.1, fun e he => x.2.2.2 e (mem_tabDel he)⟩ | exact fun x => ⟨x.1, x.2.1, tabPut_nodup x.2.2.1, fun e he => (mem_tabPut he).elim (fun q => q ▸ by assumption) (x.2.2.2 e)⟩ | exact fun _ => canonical_empty rfl rfl | (intro hx; (try dsimp only); split <;> exact hx) | with_reducible apply kept_onRpl | with_reducible apply kept_leaveBlock | with_reducible apply kept_dropOpenSeg | with_reducible apply kept_freeRows | with_reducible apply kept_logItem | (with_reducible refine kept_snd (by assumption) (kept_logItem ?_)) | (with_reducible refine kept_foldl4 ?_ (fun u x h => ?_)) | (with_reducible refine kept_foldl3 ?_ (fun u x h => ?_)) | (with_reducible refine kept_foldl2 ?_ (fun u x h => ?_)) | (with_reducible refine kept_foldl ?_ (fun u x h => ?_)) | (with_reducible refine kept_ite (fun _ => ?_) (fun _ => ?_)) | (with_reducible refine kept_ite2 (fun _ => ?_) (fun _ => ?_)) | split)

theorem kept_endHold {s t : State} {a0} (h : Kept s t) : Kept s (endHold a0 t).2 := by
  unfold endHold
  try dsimp only
  repeat' (first | with_reducible assumption | with_reducible apply kept_dropSnap | (with_reducible refine kept_snd (by assumption) (kept_dropSnap ?_)) | with_reducible apply kept_onRpl | with_reducible apply kept_freeRows | (with_reducible refine kept_ite (fun _ => ?_) (fun _ => ?_)) | (with_reducible refine kept_ite2 (fun _ => ?_) (fun _ => ?_)) | split)

theorem kept_deleteSnap {s t : State} {a0} (h : Kept s t) : Kept s (deleteSnap a0 t).2 := by
  unfold deleteSnap
  try dsimp only
  repeat' (first | with_reducible assumption | with_reducible apply kept_endHold | (with_reducible refine kept_snd (by assumption) (kept_endHold ?_)) | with_reducible apply kept_putSnap | (with_reducible refine kept_snd (by assumption) (kept_putSnap ?_)) | with_reducible apply kept_dropSnap | (with_reducible refine kept_snd (by assumption) (kept_dropSnap ?_)) | (with_reducible refine kept_ite (fun _ => ?_) (fun _ => ?_)) | (with_reducible refine kept_ite2 (fun _ => ?_) (fun _ => ?_)) | split)

end Sys2Proof.Machine
end

