-- ==== Sys2Proof/Laws/Kept/Repl.lean ====
section
/-! SUPPORT. What the operations of Machine/Repl.lean keep (`Kept`). -/

namespace Sys2Proof.Machine

theorem kept_onSource {s t : State} {a0 a1} (h : Kept s t) : Kept s (onSource a0 a1 t) := by
  unfold onSource
  try dsimp only
  repeat' (first | with_reducible assumption | with_reducible apply kept_onRpl)

theorem kept_onReplica {s t : State} {a0 a1} (h : Kept s t) : Kept s (onReplica a0 a1 t) := by
  unfold onReplica
  try dsimp only
  repeat' (first | with_reducible assumption | with_reducible apply kept_onRpl)

theorem kept_onTarget {s t : State} {a0 a1} (h : Kept s t) : Kept s (onTarget a0 a1 t) := by
  unfold onTarget
  try dsimp only
  repeat' (first | with_reducible assumption | with_reducible apply kept_onRpl)

theorem kept_addCtx {s t : State} {a0 a1} (h : Kept s t) : Kept s (addCtx a0 a1 t) := by
  unfold addCtx
  try dsimp only
  repeat' (first | with_reducible assumption | with_reducible apply kept_onQpc)

theorem kept_openTarget {s t : State} {a0} (h : Kept s t) : Kept s (openTarget a0 t) := by
  unfold openTarget
  try dsimp only
  repeat' (first | with_reducible assumption | with_reducible apply kept_transmit | with_reducible apply kept_onTarget | with_reducible apply kept_addCtx | (with_reducible refine kept_ite (fun _ => ?_) (fun _ => ?_)) | split)

theorem kept_openTargets {s t : State} (h : Kept s t) : Kept s (openTargets t) := by
  unfold openTargets
  try dsimp only
  repeat' (first | with_reducible assumption | with_reducible apply kept_openTarget | (with_reducible refine kept_foldl ?_ (fun u x h => ?_)))

theorem kept_sessionEnd {s t : State} {a0} (h : Kept s t) : Kept s (sessionEnd a0 t) := by
  unfold sessionEnd
  try dsimp only
  repeat' (first | with_reducible assumption | with_reducible apply kept_gcmEnd | with_reducible apply kept_onSource | with_reducible apply kept_onTarget | (with_reducible refine kept_foldl ?_ (fun u x h => ?_)))

theorem kept_replConnDown {s t : State} {a0} (h : Kept s t) : Kept s (replConnDown a0 t) := by
  unfold replConnDown
  try dsimp only
  repeat' (first | with_reducible assumption | with_reducible apply kept_note | with_reducible apply kept_sessionEnd)

theorem kept_sendCapsule {s t : State} {a0 a1 a2 a3 a4 a5} (h : Kept s t) : Kept s (sendCapsule a0 a1 a2 a3 a4 a5 t).2 := by
  unfold sendCapsule
  try dsimp only
  repeat' (first | with_reducible assumption | with_reducible apply kept_sendHead | with_reducible apply kept_onTarget | split)

theorem kept_createPoint {s t u : State} {a0 a1 a2 b c} (e : createPoint a0 a1 a2 t = some (b, c, u)) (h : Kept s t) : Kept s u := by
  unfold createPoint at e
  dsimp only at e
  split at e
  · cases e; exact h
  · split at e
    · cases e
    · rename_i q
      cases e
      exact kept_onSource (kept_addSnap q h)

theorem kept_sendChunk {s t : State} {a0 a1 a2} (h : Kept s t) : Kept s (sendChunk a0 a1 a2 t) := by
  unfold sendChunk
  try dsimp only
  repeat' (first | with_reducible assumption | with_reducible apply kept_sendCapsule | (with_reducible refine kept_snd (by assumption) (kept_sendCapsule ?_)) | with_reducible apply kept_gcmStart | with_reducible apply kept_onSource | (with_reducible refine kept_foldl4 ?_ (fun u x h => ?_)) | (with_reducible refine kept_foldl3 ?_ (fun u x h => ?_)) | (with_reducible refine kept_foldl2 ?_ (fun u x h => ?_)) | (with_reducible refine kept_foldl ?_ (fun u x h => ?_)) | (with_reducible refine kept_ite (fun _ => ?_) (fun _ => ?_)) | split)

theorem kept_startBuild {s t : State} {a0 a1 a2 a3 a4} (h : Kept s t) : Kept s (startBuild a0 a1 a2 a3 a4 t) := by
  unfold startBuild
  try dsimp only
  repeat' (first | with_reducible assumption | with_reducible apply kept_onSource | with_reducible apply kept_startJob | (with_reducible refine kept_foldl4 ?_ (fun u x h => ?_)) | (with_reducible refine kept_foldl3 ?_ (fun u x h => ?_)) | (with_reducible refine kept_foldl2 ?_ (fun u x h => ?_)) | (with_reducible refine kept_foldl ?_ (fun u x h => ?_)) | split)

theorem kept_pumpSource {s t : State} {a0 a1 a2} (h : Kept s t) : Kept s (pumpSource a0 a1 a2 t) := by
  induction a2 generalizing t  with
  | zero =>
    unfold pumpSource
    repeat' (first | with_reducible assumption | with_reducible apply ih | with_reducible apply kept_sendCapsule | (with_reducible refine kept_snd (by assumption) (kept_sendCapsule ?_)) | with_reducible apply kept_onSource | with_reducible apply kept_freeNat | (with_reducible refine kept_snd (by assumption) (kept_freeNat ?_)) | with_reducible apply kept_cmpCount | with_reducible apply kept_sendChunk | with_reducible apply kept_startBuild | (with_reducible refine kept_foldl4 ?_ (fun u x h => ?_)) | (with_reducible refine kept_foldl3 ?_ (fun u x h => ?_)) | (with_reducible refine kept_foldl2 ?_ (fun u x h => ?_)) | (with_reducible refine kept_foldl ?_ (fun u x h => ?_)) | (with_reducible refine kept_ite (fun _ => ?_) (fun _ => ?_)) | split | (cases ‹_ + 1 = Nat.succ _›))
  | succ _ ih =>
    unfold pumpSource
    try dsimp only
    repeat' (first | with_reducible assumption | with_reducible apply ih | with_reducible apply kept_sendCapsule | (with_reducible refine kept_snd (by assumption) (kept_sendCapsule ?_)) | with_reducible apply kept_onSource | with_reducible apply kept_freeNat | (with_reducible refine kept_snd (by assumption) (kept_freeNat ?_)) | with_reducible apply kept_cmpCount | with_reducible apply kept_sendChunk | with_reducible apply kept_startBuild | (with_reducible refine kept_foldl4 ?_ (fun u x h => ?_)) | (with_reducible refine kept_foldl3 ?_ (fun u x h => ?_)) | (with_reducible refine kept_foldl2 ?_ (fun u x h => ?_)) | (with_reducible refine kept_foldl ?_ (fun u x h => ?_)) | (with_reducible refine kept_ite (fun _ => ?_) (fun _ => ?_)) | split | (cases ‹_ + 1 = Nat.succ _›))

theorem kept_pumpSources {s t : State} (h : Kept s t) : Kept s (pumpSources t) := by
  unfold pumpSources
  try dsimp only
  repeat' (first | with_reducible assumption | with_reducible apply kept_pumpSource | (with_reducible refine kept_foldl ?_ (fun u x h => ?_)) | (with_reducible refine kept_ite (fun _ => ?_) (fun _ => ?_)))

theorem kept_replBlock {s t : State} {a0 a1 a2} (h : Kept s t) : Kept s (replBlock a0 a1 a2 t) := by
  unfold replBlock
  try dsimp only
  repeat' (first | with_reducible assumption | with_reducible apply kept_onSource | (with_reducible refine kept_ite (fun _ => ?_) (fun _ => ?_)))

theorem kept_replLag {s t : State} {a0} (h : Kept s t) : Kept s (replLag a0 t) := by
  unfold replLag
  try dsimp only
  repeat' (first | with_reducible assumption | with_reducible apply kept_raise | with_reducible apply kept_onTarget | (with_reducible refine kept_ite (fun _ => ?_) (fun _ => ?_)))

theorem kept_pointCommitted {s t : State} {a0} (h : Kept s t) : Kept s (pointCommitted a0 t) := by
  unfold pointCommitted
  try dsimp only
  repeat' (first | with_reducible assumption | with_reducible apply kept_onSource | with_reducible apply kept_onRpl | with_reducible apply kept_deleteSnap | (with_reducible refine kept_snd (by assumption) (kept_deleteSnap ?_)) | with_reducible apply kept_endHold | (with_reducible refine kept_snd (by assumption) (kept_endHold ?_)) | with_reducible apply kept_putSnap | (with_reducible refine kept_snd (by assumption) (kept_putSnap ?_)) | with_reducible apply kept_replLag | (with_reducible refine kept_ite (fun _ => ?_) (fun _ => ?_)) | split)

theorem kept_chunkFailed {s t : State} {a0 a1 a2 a3} (h : Kept s t) : Kept s (chunkFailed a0 a1 a2 a3 t) := by
  unfold chunkFailed
  try dsimp only
  repeat' (first | with_reducible assumption | with_reducible apply kept_gcmEnd | with_reducible apply kept_onRpl | with_reducible apply kept_raise | with_reducible apply kept_onSource | with_reducible apply kept_sendCapsule | (with_reducible refine kept_snd (by assumption) (kept_sendCapsule ?_)) | with_reducible apply kept_gcmStart | (with_reducible refine kept_ite (fun _ => ?_) (fun _ => ?_)) | split)

theorem kept_replResponse {s t : State} {a0 a1} (h : Kept s t) : Kept s (replResponse a0 a1 t) := by
  unfold replResponse
  try dsimp only
  repeat' (first | with_reducible assumption | with_reducible apply kept_onSource | with_reducible apply kept_chunkFailed | with_reducible apply kept_onTarget | with_reducible apply kept_pointCommitted | (with_reducible refine kept_ite (fun _ => ?_) (fun _ => ?_)) | split)

theorem kept_replReady {s t : State} {a0 a1} (h : Kept s t) : Kept s (replReady a0 a1 t) := by
  unfold replReady
  try dsimp only
  repeat' (first | with_reducible assumption | with_reducible apply kept_gcmEnd | with_reducible apply kept_ctxSend | with_reducible apply kept_onRpl | (with_reducible refine kept_foldl ?_ (fun u x h => ?_)) | split)

theorem kept_replMessage {s t : State} {a0 a1} (h : Kept s t) : Kept s (replMessage a0 a1 t) := by
  unfold replMessage
  try dsimp only
  repeat' (first | with_reducible assumption | with_reducible apply kept_replResponse | with_reducible apply kept_replReady | (with_reducible refine kept_ite (fun _ => ?_) (fun _ => ?_)))

theorem kept_replPut {s t : State} {a0 a1 a2 a3 a4 a5 a6} (h : Kept s t) : Kept s (replPut a0 a1 a2 a3 a4 a5 a6 t) := by
  unfold replPut
  try dsimp only
  repeat' (first | with_reducible assumption | with_reducible apply kept_onIng | with_reducible apply kept_failCmd | split)

end Sys2Proof.Machine
end

