-- ==== Sys2Proof/Laws/Kept/Starts.lean ====
section
/-! SUPPORT. What the operations of Machine/Starts.lean keep (`Kept`). -/

namespace Sys2Proof.Machine

theorem kept_viewFail {s t : State} {a0 a1} (h : Kept s t) : Kept s (viewFail a0 a1 t) := by
  unfold viewFail
  try dsimp only
  repeat' (first | with_reducible assumption | with_reducible apply kept_finish | with_reducible apply kept_note | with_reducible apply kept_onRpl)

theorem kept_reserve {s t : State} {a0 a1 a2} (h : Kept s t) : Kept s (reserve a0 a1 a2 t) := by
  unfold reserve
  try dsimp only
  repeat' (first | with_reducible assumption | with_reducible apply kept_onTop)

theorem kept_startWrite {s t : State} {a0 a1} (h : Kept s t) : Kept s (startWrite a0 a1 t) := by
  unfold startWrite
  try dsimp only
  repeat' (first | with_reducible assumption | with_reducible apply kept_viewFail | with_reducible apply kept_finish | with_reducible apply kept_nameWindows | with_reducible apply kept_reserve | (with_reducible refine kept_ite (fun _ => ?_) (fun _ => ?_)) | split)

theorem kept_startAppend {s t : State} {a0 a1} (h : Kept s t) : Kept s (startAppend a0 a1 t) := by
  unfold startAppend
  try dsimp only
  repeat' (first | with_reducible assumption | with_reducible apply kept_takeSegment | (with_reducible refine kept_snd (by assumption) (kept_takeSegment ?_)) | with_reducible apply kept_finish | with_reducible apply kept_nameWindows | with_reducible apply kept_onTake | with_reducible apply kept_reserve | (with_reducible refine kept_ite (fun _ => ?_) (fun _ => ?_)) | split)

theorem kept_startTrim {s t : State} {a0} (h : Kept s t) : Kept s (startTrim a0 t) := by
  unfold startTrim
  try dsimp only
  repeat' (first | with_reducible assumption | with_reducible apply kept_viewFail | with_reducible apply kept_onCmd | with_reducible apply kept_onIng | with_reducible apply kept_supersede | (with_reducible refine kept_foldl4 ?_ (fun u x h => ?_)) | (with_reducible refine kept_foldl3 ?_ (fun u x h => ?_)) | (with_reducible refine kept_foldl2 ?_ (fun u x h => ?_)) | (with_reducible refine kept_foldl ?_ (fun u x h => ?_)) | (with_reducible refine kept_ite (fun _ => ?_) (fun _ => ?_)) | split)

theorem kept_awaitLog {s t : State} {a0 a1} (h : Kept s t) : Kept s (awaitLog a0 a1 t) := by
  unfold awaitLog
  try dsimp only
  repeat' (first | with_reducible assumption | with_reducible apply kept_chg)

theorem kept_startBlockRead {s t : State} {a0 a1} (h : Kept s t) : Kept s (startBlockRead a0 a1 t) := by
  unfold startBlockRead
  try dsimp only
  repeat' (first | with_reducible assumption | with_reducible apply kept_startReads | with_reducible apply kept_countHits | split)

theorem kept_startRead {s t : State} {a0 a1} (h : Kept s t) : Kept s (startRead a0 a1 t) := by
  unfold startRead
  try dsimp only
  repeat' (first | with_reducible assumption | with_reducible apply kept_startReads | with_reducible apply kept_countHits | (with_reducible refine kept_ite (fun _ => ?_) (fun _ => ?_)) | split)

theorem kept_startFrameRead {s t : State} {a0 a1 a2} (h : Kept s t) : Kept s (startFrameRead a0 a1 a2 t) := by
  unfold startFrameRead
  try dsimp only
  repeat' (first | with_reducible assumption | with_reducible apply kept_finish | with_reducible apply kept_startReads | with_reducible apply kept_countHits | split)

theorem kept_discardRelease {s t : State} {a0} (h : Kept s t) : Kept s (discardRelease a0 t) := by
  unfold discardRelease
  try dsimp only
  repeat' (first | with_reducible assumption | with_reducible apply kept_finish | with_reducible apply kept_onCmd)

theorem kept_release {s t : State} {a0} (h : Kept s t) : Kept s (release a0 t) := by
  unfold release
  try dsimp only
  repeat' (first | with_reducible assumption | with_reducible apply kept_discardRelease | with_reducible apply kept_mirrorWin | with_reducible apply kept_onCmd | with_reducible apply kept_finish | with_reducible apply kept_chg | split)

theorem kept_abort {s t : State} {a0} (h : Kept s t) : Kept s (abort a0 t) := by
  unfold abort
  try dsimp only
  repeat' (first | with_reducible assumption | with_reducible apply kept_finish | with_reducible apply kept_tryEnd | with_reducible apply kept_chg | with_reducible apply kept_dropWindows | (with_reducible refine kept_ite (fun _ => ?_) (fun _ => ?_)) | split)

theorem kept_orphanStatus {s t : State} {a0} (h : Kept s t) : Kept s (orphanStatus a0 t) := by
  unfold orphanStatus
  try dsimp only
  repeat' (first | with_reducible assumption | with_reducible apply kept_finish | with_reducible apply kept_sendRecords | with_reducible apply kept_onCmd | (with_reducible refine kept_foldl4 ?_ (fun u x h => ?_)) | (with_reducible refine kept_foldl3 ?_ (fun u x h => ?_)) | (with_reducible refine kept_foldl2 ?_ (fun u x h => ?_)) | (with_reducible refine kept_foldl ?_ (fun u x h => ?_)) | (with_reducible refine kept_ite (fun _ => ?_) (fun _ => ?_)) | split)

theorem kept_startAdmin {s t : State} {a0} (h : Kept s t) : Kept s (startAdmin a0 t) := by
  unfold startAdmin
  try dsimp only
  repeat' (first | with_reducible assumption | with_reducible apply kept_finish | with_reducible apply kept_abort | with_reducible apply kept_orphanStatus | split)

theorem kept_startCmd {s t : State} {a0} (h : Kept s t) : Kept s (startCmd a0 t) := by
  unfold startCmd
  try dsimp only
  repeat' (first | with_reducible assumption | with_reducible apply kept_chg | with_reducible apply kept_startAdmin | with_reducible apply kept_finish | with_reducible apply kept_startRead | with_reducible apply kept_startWrite | with_reducible apply kept_startTrim | with_reducible apply kept_logItem | (with_reducible refine kept_snd (by assumption) (kept_logItem ?_)) | with_reducible apply kept_awaitLog | with_reducible apply kept_startAppend | with_reducible apply kept_startFrameRead | with_reducible apply kept_deleteTake | (with_reducible refine kept_snd (by assumption) (kept_deleteTake ?_)) | with_reducible apply kept_onSource | (with_reducible refine kept_addSnap (by assumption) ?_) | with_reducible apply kept_deleteSnap | (with_reducible refine kept_snd (by assumption) (kept_deleteSnap ?_)) | with_reducible apply kept_startReads | with_reducible apply kept_sendRecords | (with_reducible refine kept_createPoint (by assumption) ?_) | with_reducible apply kept_onReplica | (with_reducible refine kept_onFtl_same ?_ (fun _ => rfl) (fun _ => rfl)) | (with_reducible refine kept_onFtl ?_ ?_) | exact fun x => ⟨x.1, x.2.1, tabDel_nodup x.2.2.1, fun e he => x.2.2.2 e (mem_tabDel he)⟩ | exact fun x => ⟨x.1, x.2.1, tabPut_nodup x.2.2.1, fun e he => (mem_tabPut he).elim (fun q => q ▸ by assumption) (x.2.2.2 e)⟩ | exact fun _ => canonical_empty rfl rfl | (intro hx; (try dsimp only); split <;> exact hx) | with_reducible apply kept_nameWindows | with_reducible apply kept_onTake | with_reducible apply kept_release | (with_reducible refine kept_ite (fun _ => ?_) (fun _ => ?_)) | split)

end Sys2Proof.Machine
end

