-- ==== Sys2Proof/Laws/Kept/Upkeep.lean ====
section
/-! SUPPORT. What the operations of Machine/Upkeep.lean keep (`Kept`). -/

namespace Sys2Proof.Machine

theorem kept_startCollect {s t : State} {a0} (h : Kept s t) : Kept s (startCollect a0 t) := by
  unfold startCollect
  try dsimp only
  repeat' (first | with_reducible assumption | with_reducible apply kept_onTop | (with_reducible refine kept_ite (fun _ => ?_) (fun _ => ?_)) | split)

theorem kept_onCollect {s t : State} {a0 a1} (h : Kept s t) : Kept s (onCollect a0 a1 t) := by
  unfold onCollect
  try dsimp only
  repeat' (first | with_reducible assumption | with_reducible apply kept_onTop)

theorem kept_gcForm {s t : State} {a0 a1 a2} (h : Kept s t) : Kept s (gcForm a0 a1 a2 t) := by
  unfold gcForm
  try dsimp only
  repeat' (first | with_reducible assumption | with_reducible apply kept_onCollect | with_reducible apply kept_setWord | (with_reducible refine kept_snd (by assumption) (kept_setWord ?_)) | with_reducible apply kept_onPar | (with_reducible refine kept_foldl4 ?_ (fun u x h => ?_)) | (with_reducible refine kept_foldl3 ?_ (fun u x h => ?_)) | (with_reducible refine kept_foldl2 ?_ (fun u x h => ?_)) | (with_reducible refine kept_foldl ?_ (fun u x h => ?_)) | split)

theorem kept_gcSegment {s t : State} {a0} (h : Kept s t) : Kept s (gcSegment a0 t).2 := by
  unfold gcSegment
  try dsimp only
  repeat' (first | with_reducible assumption | with_reducible apply kept_onTop | with_reducible apply kept_openSegment | split)

theorem kept_placeCopies {s t : State} {a0 a1} (h : Kept s t) : Kept s (placeCopies a0 a1 t) := by
  unfold placeCopies
  try dsimp only
  repeat' (first | with_reducible assumption | with_reducible apply kept_jnlRoom | (with_reducible refine kept_snd (by assumption) (kept_jnlRoom ?_)) | with_reducible apply kept_gcSegment | (with_reducible refine kept_snd (by assumption) (kept_gcSegment ?_)) | with_reducible apply kept_completeRow | with_reducible apply kept_onCollect | (with_reducible refine kept_foldl4 ?_ (fun u x h => ?_)) | (with_reducible refine kept_foldl3 ?_ (fun u x h => ?_)) | (with_reducible refine kept_foldl2 ?_ (fun u x h => ?_)) | (with_reducible refine kept_foldl ?_ (fun u x h => ?_)) | (with_reducible refine kept_ite (fun _ => ?_) (fun _ => ?_)) | split)

theorem kept_applyMove {s t : State} {a0 a1} (h : Kept s t) : Kept s (applyMove a0 a1 t) := by
  unfold applyMove
  refine kept_fprMove ?_
  split
  · rename_i i e he
    refine kept_logItem (kept_addValid (kept_addValid (kept_onFtl (kept_onFtl (kept_onCollect h) id) fun x => ?_)))
    refine ⟨x.1, x.2.1, tabPut_nodup x.2.2.1, fun k hk => ?_⟩
    rcases mem_tabPut hk with rfl | hk
    · exact x.2.2.2 (i, e) (List.mem_of_find?_eq_some he)
    · exact x.2.2.2 k hk
  · split
    · exact kept_logItem (kept_addValid (kept_addValid (kept_putWord (kept_onFtl (kept_onCollect h) id))))
    · exact kept_onFtl (kept_onFtl (kept_onCollect h) id) id

theorem kept_collectRow {s t : State} {a0 a1} (h : Kept s t) : Kept s (collectRow a0 a1 t) := by
  unfold collectRow
  try dsimp only
  repeat' (first | with_reducible assumption | with_reducible apply kept_startJob | with_reducible apply kept_onCollect | (with_reducible refine kept_foldl ?_ (fun u x h => ?_)) | split)

theorem kept_stepCollect {s t : State} {a0 a1} (h : Kept s t) : Kept s (stepCollect a0 a1 t) := by
  induction a1 generalizing t  with
  | zero =>
    unfold stepCollect
    repeat' (first | with_reducible assumption | with_reducible apply ih | with_reducible apply kept_onTop | with_reducible apply kept_onCollect | with_reducible apply kept_placeCopies | with_reducible apply kept_collectRow | with_reducible apply kept_trimSegment | (with_reducible refine kept_ite (fun _ => ?_) (fun _ => ?_)) | split | (cases ‹_ + 1 = Nat.succ _›))
  | succ _ ih =>
    unfold stepCollect
    try dsimp only
    repeat' (first | with_reducible assumption | with_reducible apply ih | with_reducible apply kept_onTop | with_reducible apply kept_onCollect | with_reducible apply kept_placeCopies | with_reducible apply kept_collectRow | with_reducible apply kept_trimSegment | (with_reducible refine kept_ite (fun _ => ?_) (fun _ => ?_)) | split | (cases ‹_ + 1 = Nat.succ _›))

theorem kept_onReloc {s t : State} {a0 a1 a2} (h : Kept s t) : Kept s (onReloc a0 a1 a2 t) := by
  unfold onReloc
  try dsimp only
  repeat' (first | with_reducible assumption | (with_reducible refine kept_onFtl_same ?_ (fun _ => rfl) (fun _ => rfl)) | (with_reducible refine kept_onFtl ?_ ?_) | exact fun x => ⟨x.1, x.2.1, tabDel_nodup x.2.2.1, fun e he => x.2.2.2 e (mem_tabDel he)⟩ | exact fun x => ⟨x.1, x.2.1, tabPut_nodup x.2.2.1, fun e he => (mem_tabPut he).elim (fun q => q ▸ by assumption) (x.2.2.2 e)⟩ | exact fun _ => canonical_empty rfl rfl | (intro hx; (try dsimp only); split <;> exact hx) | (with_reducible refine kept_ite (fun _ => ?_) (fun _ => ?_)))

theorem kept_startReloc {s t : State} {a0 a1 a2 a3 a4} (h : Kept s t) : Kept s (startReloc a0 a1 a2 a3 a4 t) := by
  unfold startReloc
  try dsimp only
  repeat' (first | with_reducible assumption | with_reducible apply kept_onReloc | with_reducible apply kept_takeSpare | (with_reducible refine kept_snd (by assumption) (kept_takeSpare ?_)) | with_reducible apply kept_onBlk | (with_reducible refine kept_onFtl_same ?_ (fun _ => rfl) (fun _ => rfl)) | (with_reducible refine kept_onFtl ?_ ?_) | exact fun x => ⟨x.1, x.2.1, tabDel_nodup x.2.2.1, fun e he => x.2.2.2 e (mem_tabDel he)⟩ | exact fun x => ⟨x.1, x.2.1, tabPut_nodup x.2.2.1, fun e he => (mem_tabPut he).elim (fun q => q ▸ by assumption) (x.2.2.2 e)⟩ | exact fun _ => canonical_empty rfl rfl | (intro hx; (try dsimp only); split <;> exact hx) | (with_reducible refine kept_ite (fun _ => ?_) (fun _ => ?_)) | split)

theorem kept_relocProgram {s t : State} {a0 a1 a2 a3} (h : Kept s t) : Kept s (relocProgram a0 a1 a2 a3 t) := by
  unfold relocProgram
  try dsimp only
  repeat' (first | with_reducible assumption | with_reducible apply kept_newId | (with_reducible refine kept_snd (by assumption) (kept_newId ?_)) | with_reducible apply kept_programBlock | with_reducible apply kept_onPar | split)

theorem kept_relocRead {s t : State} {a0 a1 a2 a3 a4} (h : Kept s t) : Kept s (relocRead a0 a1 a2 a3 a4 t) := by
  unfold relocRead
  try dsimp only
  repeat' (first | with_reducible assumption | with_reducible apply kept_relocProgram | split)

theorem kept_relocDone {s t : State} {a0 a1} (h : Kept s t) : Kept s (relocDone a0 a1 t) := by
  unfold relocDone
  try dsimp only
  repeat' (first | with_reducible assumption | with_reducible apply kept_onReloc | (with_reducible refine kept_ite (fun _ => ?_) (fun _ => ?_)) | split)

theorem kept_relocFailed {s t : State} {a0 a1} (h : Kept s t) : Kept s (relocFailed a0 a1 t) := by
  unfold relocFailed
  try dsimp only
  repeat' (first | with_reducible assumption | (with_reducible refine kept_onFtl_same ?_ (fun _ => rfl) (fun _ => rfl)) | (with_reducible refine kept_onFtl ?_ ?_) | exact fun x => ⟨x.1, x.2.1, tabDel_nodup x.2.2.1, fun e he => x.2.2.2 e (mem_tabDel he)⟩ | exact fun x => ⟨x.1, x.2.1, tabPut_nodup x.2.2.1, fun e he => (mem_tabPut he).elim (fun q => q ▸ by assumption) (x.2.2.2 e)⟩ | exact fun _ => canonical_empty rfl rfl | (intro hx; (try dsimp only); split <;> exact hx) | with_reducible apply kept_retireBlock | with_reducible apply kept_onBlk | with_reducible apply kept_startReloc | (with_reducible refine kept_ite (fun _ => ?_) (fun _ => ?_)) | split)

theorem kept_relocBind {s t : State} {a0 a1} (h : Kept s t) : Kept s (relocBind a0 a1 t) := by
  unfold relocBind
  try dsimp only
  repeat' (first | with_reducible assumption | with_reducible apply kept_onBlk | with_reducible apply kept_logItem | (with_reducible refine kept_snd (by assumption) (kept_logItem ?_)) | with_reducible apply kept_onReloc | (with_reducible refine kept_ite (fun _ => ?_) (fun _ => ?_)) | split)

theorem kept_relocEnd {s t : State} {a0 a1} (h : Kept s t) : Kept s (relocEnd a0 a1 t) := by
  unfold relocEnd
  try dsimp only
  repeat' (first | with_reducible assumption | (with_reducible refine kept_onFtl_same ?_ (fun _ => rfl) (fun _ => rfl)) | (with_reducible refine kept_onFtl ?_ ?_) | exact fun x => ⟨x.1, x.2.1, tabDel_nodup x.2.2.1, fun e he => x.2.2.2 e (mem_tabDel he)⟩ | exact fun x => ⟨x.1, x.2.1, tabPut_nodup x.2.2.1, fun e he => (mem_tabPut he).elim (fun q => q ▸ by assumption) (x.2.2.2 e)⟩ | exact fun _ => canonical_empty rfl rfl | (intro hx; (try dsimp only); split <;> exact hx) | with_reducible apply kept_onBlk | with_reducible apply kept_retireBlock | with_reducible apply kept_eraseBlock | (with_reducible refine kept_snd (by assumption) (kept_eraseBlock ?_)) | with_reducible apply kept_pageDone | (with_reducible refine kept_foldl4 ?_ (fun u x h => ?_)) | (with_reducible refine kept_foldl3 ?_ (fun u x h => ?_)) | (with_reducible refine kept_foldl2 ?_ (fun u x h => ?_)) | (with_reducible refine kept_foldl ?_ (fun u x h => ?_)) | (with_reducible refine kept_ite (fun _ => ?_) (fun _ => ?_)))

theorem kept_stepReloc {s t : State} {a0} (h : Kept s t) : Kept s (stepReloc a0 t) := by
  unfold stepReloc
  try dsimp only
  repeat' (first | with_reducible assumption | with_reducible apply kept_relocEnd | with_reducible apply kept_startJob | with_reducible apply kept_onReloc | with_reducible apply kept_relocProgram | with_reducible apply kept_relocBind | (with_reducible refine kept_ite (fun _ => ?_) (fun _ => ?_)) | split)

theorem kept_wearLevel {s t : State} {a0} (h : Kept s t) : Kept s (wearLevel a0 t) := by
  unfold wearLevel
  try dsimp only
  repeat' (first | with_reducible assumption | with_reducible apply kept_startReloc | (with_reducible refine kept_foldl4 ?_ (fun u x h => ?_)) | (with_reducible refine kept_foldl3 ?_ (fun u x h => ?_)) | (with_reducible refine kept_foldl2 ?_ (fun u x h => ?_)) | (with_reducible refine kept_foldl ?_ (fun u x h => ?_)) | (with_reducible refine kept_ite (fun _ => ?_) (fun _ => ?_)) | split)

theorem kept_readLimit {s t : State} {a0 a1} (h : Kept s t) : Kept s (readLimit a0 a1 t) := by
  unfold readLimit
  try dsimp only
  repeat' (first | with_reducible assumption | with_reducible apply kept_startReloc | (with_reducible refine kept_ite (fun _ => ?_) (fun _ => ?_)))

theorem kept_startRebuild {s t : State} {a0 a1 a2} (h : Kept s t) : Kept s (startRebuild a0 a1 a2 t) := by
  unfold startRebuild
  try dsimp only
  repeat' (first | with_reducible assumption | with_reducible apply kept_jnlSpan | (with_reducible refine kept_snd (by assumption) (kept_jnlSpan ?_)) | with_reducible apply kept_raise | with_reducible apply kept_recomputeHealth | with_reducible apply kept_onPar | with_reducible apply kept_onAdp | split)

theorem kept_checkRebuilds {s t : State} (h : Kept s t) : Kept s (checkRebuilds t) := by
  unfold checkRebuilds
  try dsimp only
  repeat' (first | with_reducible assumption | with_reducible apply kept_closeRow | with_reducible apply kept_startRebuild | with_reducible apply kept_note | with_reducible apply kept_onPar | (with_reducible refine kept_foldl4 ?_ (fun u x h => ?_)) | (with_reducible refine kept_foldl3 ?_ (fun u x h => ?_)) | (with_reducible refine kept_foldl2 ?_ (fun u x h => ?_)) | (with_reducible refine kept_foldl ?_ (fun u x h => ?_)) | (with_reducible refine kept_ite (fun _ => ?_) (fun _ => ?_)) | split)

theorem kept_rebuildRow {s t : State} {a0 a1} (h : Kept s t) : Kept s (rebuildRow a0 a1 t) := by
  unfold rebuildRow
  try dsimp only
  repeat' (first | with_reducible assumption | with_reducible apply kept_onBlk | with_reducible apply kept_exchangeBlock | with_reducible apply kept_newId | (with_reducible refine kept_snd (by assumption) (kept_newId ?_)) | with_reducible apply kept_issueRow | with_reducible apply kept_setWord | (with_reducible refine kept_snd (by assumption) (kept_setWord ?_)) | with_reducible apply kept_raise | with_reducible apply kept_onPar | (with_reducible refine kept_foldl4 ?_ (fun u x h => ?_)) | (with_reducible refine kept_foldl3 ?_ (fun u x h => ?_)) | (with_reducible refine kept_foldl2 ?_ (fun u x h => ?_)) | (with_reducible refine kept_foldl ?_ (fun u x h => ?_)) | (with_reducible refine kept_ite (fun _ => ?_) (fun _ => ?_)) | split)

theorem kept_rebuildDone {s t : State} {a0} (h : Kept s t) : Kept s (rebuildDone a0 t) := by
  unfold rebuildDone
  try dsimp only
  repeat' (first | with_reducible assumption | with_reducible apply kept_jnlSpan | (with_reducible refine kept_snd (by assumption) (kept_jnlSpan ?_)) | with_reducible apply kept_onPar | split)

theorem kept_regenInto {s t : State} {a0 a1 a2 a3 a4 a5 a6 a7 a8} (h : Kept s t) : Kept s (regenInto a0 a1 a2 a3 a4 a5 a6 a7 a8 t) := by
  unfold regenInto
  try dsimp only
  repeat' (first | with_reducible assumption | with_reducible apply kept_exchangeBlock | with_reducible apply kept_jnlIntent | with_reducible apply kept_newId | (with_reducible refine kept_snd (by assumption) (kept_newId ?_)) | with_reducible apply kept_programVersion | (with_reducible refine kept_snd3 (by assumption) (kept_programVersion ?_)) | with_reducible apply kept_onPar | (with_reducible refine kept_foldl4 ?_ (fun u x h => ?_)) | (with_reducible refine kept_foldl3 ?_ (fun u x h => ?_)) | (with_reducible refine kept_foldl2 ?_ (fun u x h => ?_)) | (with_reducible refine kept_foldl ?_ (fun u x h => ?_)) | (with_reducible refine kept_ite (fun _ => ?_) (fun _ => ?_)) | split)

theorem kept_regenVersion {s t : State} {a0 a1 a2 a3} (h : Kept s t) : Kept s (regenVersion a0 a1 a2 a3 t) := by
  unfold regenVersion
  try dsimp only
  repeat' (first | with_reducible assumption | with_reducible apply kept_rewriteSegment | (with_reducible refine kept_snd (by assumption) (kept_rewriteSegment ?_)) | with_reducible apply kept_closeRow | with_reducible apply kept_regenInto | (with_reducible refine kept_ite (fun _ => ?_) (fun _ => ?_)) | split)

theorem kept_stepRebuild {s t : State} {a0 a1} (h : Kept s t) : Kept s (stepRebuild a0 a1 t) := by
  unfold stepRebuild
  try dsimp only
  repeat' (first | with_reducible assumption | with_reducible apply kept_onPar | with_reducible apply kept_startRebuild | with_reducible apply kept_onJnl | with_reducible apply kept_note | with_reducible apply kept_regenVersion | with_reducible apply kept_jnlSpan | (with_reducible refine kept_snd (by assumption) (kept_jnlSpan ?_)) | with_reducible apply kept_recomputeHealth | with_reducible apply kept_raise | with_reducible apply kept_startJob | (with_reducible refine kept_foldl4 ?_ (fun u x h => ?_)) | (with_reducible refine kept_foldl3 ?_ (fun u x h => ?_)) | (with_reducible refine kept_foldl2 ?_ (fun u x h => ?_)) | (with_reducible refine kept_foldl ?_ (fun u x h => ?_)) | (with_reducible refine kept_ite (fun _ => ?_) (fun _ => ?_)) | split)

theorem kept_startResync {s t : State} {a0} (h : Kept s t) : Kept s (startResync a0 t) := by
  unfold startResync
  try dsimp only
  repeat' (first | with_reducible assumption | with_reducible apply kept_eraseBlock | (with_reducible refine kept_snd (by assumption) (kept_eraseBlock ?_)) | with_reducible apply kept_onPar | with_reducible apply kept_onAdp | with_reducible apply kept_recomputeHealth | with_reducible apply kept_onPort | (with_reducible refine kept_foldl4 ?_ (fun u x h => ?_)) | (with_reducible refine kept_foldl3 ?_ (fun u x h => ?_)) | (with_reducible refine kept_foldl2 ?_ (fun u x h => ?_)) | (with_reducible refine kept_foldl ?_ (fun u x h => ?_)) | split)

theorem kept_resyncPage {s t : State} {a0 a1} (h : Kept s t) : Kept s (resyncPage a0 a1 t) := by
  unfold resyncPage
  try dsimp only
  repeat' (first | with_reducible assumption | with_reducible apply kept_newId | (with_reducible refine kept_snd (by assumption) (kept_newId ?_)) | with_reducible apply kept_issueRow | with_reducible apply kept_onPar | split)

theorem kept_stepResync {s t : State} {a0 a1} (h : Kept s t) : Kept s (stepResync a0 a1 t) := by
  unfold stepResync
  try dsimp only
  repeat' (first | with_reducible assumption | with_reducible apply kept_newId | (with_reducible refine kept_snd (by assumption) (kept_newId ?_)) | with_reducible apply kept_advanceJob | with_reducible apply kept_onPar | with_reducible apply kept_recomputeHealth | (with_reducible refine kept_ite (fun _ => ?_) (fun _ => ?_)) | split)

theorem kept_patrolRepair {s t : State} {a0 a1 a2} (h : Kept s t) : Kept s (patrolRepair a0 a1 a2 t) := by
  unfold patrolRepair
  try dsimp only
  repeat' (first | with_reducible assumption | with_reducible apply kept_note | with_reducible apply kept_onPar | with_reducible apply kept_startReloc | (with_reducible refine kept_ite (fun _ => ?_) (fun _ => ?_)) | split)

theorem kept_patrolCheck {s t : State} {a0 a1 a2 a3 a4} (h : Kept s t) : Kept s (patrolCheck a0 a1 a2 a3 a4 t) := by
  unfold patrolCheck
  try dsimp only
  repeat' (first | with_reducible assumption | with_reducible apply kept_patrolRepair | with_reducible apply kept_note | with_reducible apply kept_onPar | (with_reducible refine kept_foldl4 ?_ (fun u x h => ?_)) | (with_reducible refine kept_foldl3 ?_ (fun u x h => ?_)) | (with_reducible refine kept_foldl2 ?_ (fun u x h => ?_)) | (with_reducible refine kept_foldl ?_ (fun u x h => ?_)) | (with_reducible refine kept_ite (fun _ => ?_) (fun _ => ?_)) | split)

theorem kept_patrolStep {s t : State} (h : Kept s t) : Kept s (patrolStep t) := by
  unfold patrolStep
  try dsimp only
  repeat' (first | with_reducible assumption | with_reducible apply kept_startJob | with_reducible apply kept_onPar | with_reducible apply kept_note | (with_reducible refine kept_ite (fun _ => ?_) (fun _ => ?_)) | split)

end Sys2Proof.Machine
end

