-- ==== Sys2Proof/Laws/Kept/Progress.lean ====
section
/-! SUPPORT. What the operations of Machine/Progress.lean keep (`Kept`). -/

namespace Sys2Proof.Machine

theorem kept_rowOver {s t : State} {a0} (h : Kept s t) : Kept s (rowOver a0 t) := by
  unfold rowOver
  try dsimp only
  repeat' (first | with_reducible assumption | with_reducible apply kept_onPar | with_reducible apply kept_fn_onBuf | with_reducible apply kept_closeRow | with_reducible apply kept_applyMove | (with_reducible refine kept_onFtl_same ?_ (fun _ => rfl) (fun _ => rfl)) | (with_reducible refine kept_onFtl ?_ ?_) | exact fun x => ⟨x.1, x.2.1, tabDel_nodup x.2.2.1, fun e he => x.2.2.2 e (mem_tabDel he)⟩ | exact fun x => ⟨x.1, x.2.1, tabPut_nodup x.2.2.1, fun e he => (mem_tabPut he).elim (fun q => q ▸ by assumption) (x.2.2.2 e)⟩ | exact fun _ => canonical_empty rfl rfl | (intro hx; (try dsimp only); split <;> exact hx) | with_reducible apply kept_onJnl | with_reducible apply kept_jnlCommitted | with_reducible apply kept_relocDone | with_reducible apply kept_rebuildDone | (with_reducible refine kept_foldl4 ?_ (fun u x h => ?_)) | (with_reducible refine kept_foldl3 ?_ (fun u x h => ?_)) | (with_reducible refine kept_foldl2 ?_ (fun u x h => ?_)) | (with_reducible refine kept_foldl ?_ (fun u x h => ?_)) | (with_reducible refine kept_ite (fun _ => ?_) (fun _ => ?_)) | split)

theorem kept_settleRows {s t : State} (h : Kept s t) : Kept s (settleRows t) := by
  unfold settleRows
  try dsimp only
  repeat' (first | with_reducible assumption | with_reducible apply kept_rowOver | (with_reducible refine kept_foldl ?_ (fun u x h => ?_)))

theorem kept_settleFrames {s t : State} (h : Kept s t) : Kept s (settleFrames t) := by
  unfold settleFrames
  try dsimp only
  repeat' (first | with_reducible assumption | with_reducible apply kept_onIng | (with_reducible refine kept_ite (fun _ => ?_) (fun _ => ?_)) | split)

theorem kept_logFrames {s t : State} (h : Kept s t) : Kept s (logFrames t) := by
  unfold logFrames
  try dsimp only
  repeat' (first | with_reducible assumption | with_reducible apply kept_logItem | (with_reducible refine kept_snd (by assumption) (kept_logItem ?_)) | with_reducible apply kept_onIng | (with_reducible refine kept_foldl ?_ (fun u x h => ?_)) | (with_reducible refine kept_ite (fun _ => ?_) (fun _ => ?_)) | split)

theorem kept_mapBlock {s t : State} {a0} (h : Kept s t) : Kept s (mapBlock a0 t) := by
  unfold mapBlock
  try dsimp only
  repeat' (first | with_reducible assumption | with_reducible apply kept_setWord | (with_reducible refine kept_snd (by assumption) (kept_setWord ?_)) | with_reducible apply kept_fn_onBuf | with_reducible apply kept_fpInsert | (with_reducible refine kept_ite (fun _ => ?_) (fun _ => ?_)) | split)

theorem kept_mapBlocks {s t : State} {a0} (h : Kept s t) : Kept s (mapBlocks a0 t) := by
  induction a0 generalizing t  with
  | zero =>
    unfold mapBlocks
    repeat' (first | with_reducible assumption | with_reducible apply ih | with_reducible apply kept_mapBlock | (with_reducible refine kept_foldl ?_ (fun u x h => ?_)) | (with_reducible refine kept_ite (fun _ => ?_) (fun _ => ?_)) | split | (cases ‹_ + 1 = Nat.succ _›))
  | succ _ ih =>
    unfold mapBlocks
    try dsimp only
    repeat' (first | with_reducible assumption | with_reducible apply ih | with_reducible apply kept_mapBlock | (with_reducible refine kept_foldl ?_ (fun u x h => ?_)) | (with_reducible refine kept_ite (fun _ => ?_) (fun _ => ?_)) | split | (cases ‹_ + 1 = Nat.succ _›))

theorem kept_releaseBlocks {s t : State} (h : Kept s t) : Kept s (releaseBlocks t) := by
  unfold releaseBlocks
  try dsimp only
  repeat' (first | with_reducible assumption | (with_reducible refine kept_mirrorMap ?_ (fun u h => ?_)) | with_reducible apply kept_plSend | with_reducible apply kept_leaveBlock | (with_reducible refine kept_foldl ?_ (fun u x h => ?_)) | (with_reducible refine kept_ite (fun _ => ?_) (fun _ => ?_)) | split)

theorem kept_retireRecords {s t : State} (h : Kept s t) : Kept s (retireRecords t) := by
  unfold retireRecords
  try dsimp only
  repeat' (first | with_reducible assumption | with_reducible apply kept_jnlRecord | (with_reducible refine kept_snd (by assumption) (kept_jnlRecord ?_)) | with_reducible apply kept_dropRewrites | (with_reducible refine kept_foldl4 ?_ (fun u x h => ?_)) | (with_reducible refine kept_foldl3 ?_ (fun u x h => ?_)) | (with_reducible refine kept_foldl2 ?_ (fun u x h => ?_)) | (with_reducible refine kept_foldl ?_ (fun u x h => ?_)) | split)

theorem kept_reclaimMap {s t : State} {a0 a1} (h : Kept s t) : Kept s (reclaimMap a0 a1 t) := by
  unfold reclaimMap
  try dsimp only
  repeat' (first | with_reducible assumption | with_reducible apply kept_onTop | with_reducible apply kept_trimSegment | with_reducible apply kept_onCollect | with_reducible apply kept_logItems | (with_reducible refine kept_ite (fun _ => ?_) (fun _ => ?_)) | split)

theorem kept_reclaimJournal {s t : State} {a0} (h : Kept s t) : Kept s (reclaimJournal a0 t) := by
  unfold reclaimJournal
  try dsimp only
  repeat' (first | with_reducible assumption | with_reducible apply kept_onTop | with_reducible apply kept_trimSegment | with_reducible apply kept_onCollect | with_reducible apply kept_spillNow | (with_reducible refine kept_ite (fun _ => ?_) (fun _ => ?_)) | split)

theorem kept_settleMedia {s t : State} (h : Kept s t) : Kept s (settleMedia t) := by
  unfold settleMedia
  try dsimp only
  repeat' (first | with_reducible assumption | with_reducible apply kept_freeSegment | with_reducible apply kept_stepCollect | with_reducible apply kept_stepReloc | with_reducible apply kept_stepRebuild | with_reducible apply kept_stepResync | with_reducible apply kept_checkRebuilds | with_reducible apply kept_reclaimMap | with_reducible apply kept_reclaimJournal | with_reducible apply kept_mapFullAlarm | with_reducible apply kept_checkHomes | with_reducible apply kept_spaceAlarms | (with_reducible refine kept_foldl4 ?_ (fun u x h => ?_)) | (with_reducible refine kept_foldl3 ?_ (fun u x h => ?_)) | (with_reducible refine kept_foldl2 ?_ (fun u x h => ?_)) | (with_reducible refine kept_foldl ?_ (fun u x h => ?_)) | (with_reducible refine kept_ite (fun _ => ?_) (fun _ => ?_)))

theorem kept_applyMsgs {s t : State} {a0 a1 a2} (h : Kept s t) : Kept s (applyMsgs a0 a1 a2 t) := by
  unfold applyMsgs
  try dsimp only
  repeat' (first | with_reducible assumption | with_reducible apply kept_onTake | with_reducible apply kept_replPut | with_reducible apply kept_joinDraft | (with_reducible refine kept_foldl4 ?_ (fun u x h => ?_)) | (with_reducible refine kept_foldl3 ?_ (fun u x h => ?_)) | (with_reducible refine kept_foldl2 ?_ (fun u x h => ?_)) | (with_reducible refine kept_foldl ?_ (fun u x h => ?_)) | (with_reducible refine kept_ite (fun _ => ?_) (fun _ => ?_)) | split)

theorem kept_applyChunk {s t : State} {a0} (h : Kept s t) : Kept s (applyChunk a0 t) := by
  unfold applyChunk
  try dsimp only
  repeat' (first | with_reducible assumption | with_reducible apply kept_failCmd | with_reducible apply kept_chg | with_reducible apply kept_onIng | with_reducible apply kept_dirtyDrop | with_reducible apply kept_applyMsgs | with_reducible apply kept_dirtyAdd | with_reducible apply kept_onReplica | (with_reducible refine kept_ite (fun _ => ?_) (fun _ => ?_)) | split)

theorem kept_sealTake {s t : State} {a0 a1 a2} (h : Kept s t) : Kept s (sealTake a0 a1 a2 t) := by
  unfold sealTake
  try dsimp only
  repeat' (first | with_reducible assumption | with_reducible apply kept_flushTake | with_reducible apply kept_onTake | with_reducible apply kept_onSeg | with_reducible apply kept_logItems | (with_reducible refine kept_createPoint (by assumption) ?_) | (with_reducible refine kept_foldl4 ?_ (fun u x h => ?_)) | (with_reducible refine kept_foldl3 ?_ (fun u x h => ?_)) | (with_reducible refine kept_foldl2 ?_ (fun u x h => ?_)) | (with_reducible refine kept_foldl ?_ (fun u x h => ?_)) | (with_reducible refine kept_ite (fun _ => ?_) (fun _ => ?_)) | split)

theorem kept_endPoint {s t : State} {a0 a1} (h : Kept s t) : Kept s (endPoint a0 a1 t) := by
  unfold endPoint
  try dsimp only
  repeat' (first | with_reducible assumption | with_reducible apply kept_sealTake | with_reducible apply kept_deleteSnap | (with_reducible refine kept_snd (by assumption) (kept_deleteSnap ?_)) | (with_reducible refine kept_addSnap (by assumption) ?_) | with_reducible apply kept_finish | with_reducible apply kept_note | with_reducible apply kept_onReplica | (with_reducible refine kept_ite (fun _ => ?_) (fun _ => ?_)) | split)

theorem kept_promote {s t : State} {a0 a1} (h : Kept s t) : Kept s (promote a0 a1 t) := by
  unfold promote
  try dsimp only
  repeat' (first | with_reducible assumption | with_reducible apply kept_leaveBlock | with_reducible apply kept_deleteTake | (with_reducible refine kept_snd (by assumption) (kept_deleteTake ?_)) | with_reducible apply kept_setWord | (with_reducible refine kept_snd (by assumption) (kept_setWord ?_)) | with_reducible apply kept_shareAdd | with_reducible apply kept_deleteSnap | (with_reducible refine kept_snd (by assumption) (kept_deleteSnap ?_)) | with_reducible apply kept_awaitLog | with_reducible apply kept_onReplica | (with_reducible refine kept_foldl4 ?_ (fun u x h => ?_)) | (with_reducible refine kept_foldl3 ?_ (fun u x h => ?_)) | (with_reducible refine kept_foldl2 ?_ (fun u x h => ?_)) | (with_reducible refine kept_foldl ?_ (fun u x h => ?_)) | (with_reducible refine kept_ite (fun _ => ?_) (fun _ => ?_)) | split)

theorem kept_stepCmd {s t : State} {a0} (h : Kept s t) : Kept s (stepCmd a0 t) := by
  unfold stepCmd
  try dsimp only
  repeat' (first | with_reducible assumption | with_reducible apply kept_tryEnd | with_reducible apply kept_startCmd | with_reducible apply kept_checkWrite | with_reducible apply kept_applyChunk | with_reducible apply kept_nameWindows | with_reducible apply kept_checkRead | with_reducible apply kept_finish | with_reducible apply kept_sealTake | with_reducible apply kept_endPoint | with_reducible apply kept_promote | (with_reducible refine kept_ite (fun _ => ?_) (fun _ => ?_)) | split)

theorem kept_stepCmds {s t : State} (h : Kept s t) : Kept s (stepCmds t) := by
  unfold stepCmds
  try dsimp only
  repeat' (first | with_reducible assumption | with_reducible apply kept_stepCmd | (with_reducible refine kept_foldl ?_ (fun u x h => ?_)))

theorem kept_settleFlush {s t : State} (h : Kept s t) : Kept s (settleFlush t) := by
  unfold settleFlush
  try dsimp only
  repeat' (first | with_reducible assumption | with_reducible apply kept_flushBlocks | with_reducible apply kept_flushTakes | (with_reducible refine kept_ite (fun _ => ?_) (fun _ => ?_)))

theorem kept_settleLog {s t : State} (h : Kept s t) : Kept s (settleLog t) := by
  unfold settleLog
  try dsimp only
  repeat' (first | with_reducible assumption | with_reducible apply kept_forceLog | with_reducible apply kept_fullLog | (with_reducible refine kept_foldl ?_ (fun u x h => ?_)) | (with_reducible refine kept_ite (fun _ => ?_) (fun _ => ?_)))

theorem kept_settleOnce {s t : State} (h : Kept s t) : Kept s (settleOnce t) := by
  unfold settleOnce
  try dsimp only
  repeat' (first | with_reducible assumption | with_reducible apply kept_mapBlocks | with_reducible apply kept_settleFrames | with_reducible apply kept_settleRows | with_reducible apply kept_releaseBlocks | with_reducible apply kept_settleLog | with_reducible apply kept_logFrames | with_reducible apply kept_settleMedia | with_reducible apply kept_retireRecords | with_reducible apply kept_pumpSources | with_reducible apply kept_settleFlush | with_reducible apply kept_stepCmds)

theorem kept_settle {s t : State} (h : Kept s t) : Kept s (settle t) := by
  unfold settle
  try dsimp only
  repeat' (first | with_reducible assumption | with_reducible apply kept_settleOnce | (with_reducible refine kept_ite (fun _ => ?_) (fun _ => ?_)))

end Sys2Proof.Machine
end

