-- ==== Sys2Proof/Laws/Kept/Wake.lean ====
section
/-! SUPPORT. What the operations of Machine/Wake.lean keep (`Kept`). -/

namespace Sys2Proof.Machine

theorem kept_msrExtend {s t : State} {a0 a1} (h : Kept s t) : Kept s (msrExtend a0 a1 t) := by
  unfold msrExtend
  try dsimp only
  repeat' (first | with_reducible assumption | with_reducible apply kept_onMsr)

theorem kept_measureRom {s t : State} (h : Kept s t) : Kept s (measureRom t) := by
  unfold measureRom
  try dsimp only
  repeat' (first | with_reducible assumption | with_reducible apply kept_msrExtend)

theorem kept_startLoad {s t : State} (h : Kept s t) : Kept s (startLoad t) := by
  unfold startLoad
  try dsimp only
  repeat' (first | with_reducible assumption | with_reducible apply kept_send | ((with_reducible refine kept_onRst_all ?_ ?_); rotate_left; exact fun _ x => x) | ((with_reducible refine kept_onRst_all ?_ ?_); rotate_left; exact fun _ x => ordered_hot x.1 rfl) | ((with_reducible refine kept_onRst_all ?_ ?_); rotate_left; exact fun _ _ => ordered_hot (fun _ => rfl) rfl) | ((with_reducible refine kept_onRst_all ?_ ?_); rotate_left; exact fun _ _ => ordered_hot Bool.noConfusion rfl) | (with_reducible refine kept_onRst ?_ ?_) | exact fun x => ⟨x.1, x.2.1, tabDel_nodup x.2.2.1, fun e he => x.2.2.2 e (mem_tabDel he)⟩ | exact fun x => ⟨x.1, x.2.1, tabPut_nodup x.2.2.1, fun e he => (mem_tabPut he).elim (fun q => q ▸ by assumption) (x.2.2.2 e)⟩ | exact fun _ => canonical_empty rfl rfl | (intro hx; (try dsimp only); split <;> exact hx) | with_reducible apply kept_onCfg)

theorem kept_readSlot {s t : State} (h : Kept s t) : Kept s (readSlot t) := by
  unfold readSlot
  try dsimp only
  repeat' (first | with_reducible assumption | with_reducible apply kept_send | (with_reducible refine kept_ite (fun _ => ?_) (fun _ => ?_)))

theorem kept_wakeDormant {s t : State} (h : Kept s t) : Kept s (wakeDormant t) := by
  unfold wakeDormant
  try dsimp only
  repeat' (first | with_reducible assumption | with_reducible apply kept_onMsr | with_reducible apply kept_onPrt | with_reducible apply kept_onCfg | with_reducible apply kept_measureRom | with_reducible apply kept_startLoad | with_reducible apply kept_onSld | ((with_reducible refine kept_onRst_all ?_ ?_); rotate_left; exact fun _ x => x) | ((with_reducible refine kept_onRst_all ?_ ?_); rotate_left; exact fun _ x => ordered_hot x.1 rfl) | ((with_reducible refine kept_onRst_all ?_ ?_); rotate_left; exact fun _ _ => ordered_hot (fun _ => rfl) rfl) | ((with_reducible refine kept_onRst_all ?_ ?_); rotate_left; exact fun _ _ => ordered_hot Bool.noConfusion rfl) | (with_reducible refine kept_onRst ?_ ?_) | exact fun x => ⟨x.1, x.2.1, tabDel_nodup x.2.2.1, fun e he => x.2.2.2 e (mem_tabDel he)⟩ | exact fun x => ⟨x.1, x.2.1, tabPut_nodup x.2.2.1, fun e he => (mem_tabPut he).elim (fun q => q ▸ by assumption) (x.2.2.2 e)⟩ | exact fun _ => canonical_empty rfl rfl | (intro hx; (try dsimp only); split <;> exact hx))

theorem kept_wake {s t : State} {a0} (h : Kept s t) : Kept s (wake a0 t) := by
  unfold wake
  try dsimp only
  repeat' (first | with_reducible assumption | with_reducible apply kept_onPwr | with_reducible apply kept_pulseCommand | with_reducible apply kept_wakeDormant | with_reducible apply kept_onBuf | with_reducible apply kept_readSlot | with_reducible apply kept_onCfg | (with_reducible refine kept_ite (fun _ => ?_) (fun _ => ?_)) | split)

theorem kept_wakeHost {s t : State} (h : Kept s t) : Kept s (wakeHost t) := by
  unfold wakeHost
  try dsimp only
  repeat' (first | with_reducible assumption | with_reducible apply kept_wake | (with_reducible refine kept_ite (fun _ => ?_) (fun _ => ?_)))

end Sys2Proof.Machine
end

