-- ==== Sys2Proof/Laws/Kept/Forms.lean ====
section
/-! SUPPORT. What the operations of Machine/Forms.lean keep (`Kept`). -/

namespace Sys2Proof.Machine

theorem kept_wakeReads {s t : State} {a0 a1} (h : Kept s t) : Kept s (wakeReads a0 a1 t) := by
  unfold wakeReads
  try dsimp only
  repeat' (first | with_reducible assumption | with_reducible apply kept_onCmd | (with_reducible refine kept_ite (fun _ => ?_) (fun _ => ?_)) | split)

theorem kept_repairFail {s t : State} {a0 a1} (h : Kept s t) : Kept s (repairFail a0 a1 t) := by
  unfold repairFail
  try dsimp only
  repeat' (first | with_reducible assumption | with_reducible apply kept_wakeReads | with_reducible apply kept_fn_onBuf | with_reducible apply kept_raise | with_reducible apply kept_onIng | split)

theorem kept_repairDone {s t : State} {a0 a1 a2 a3} (h : Kept s t) : Kept s (repairDone a0 a1 a2 a3 t) := by
  unfold repairDone
  try dsimp only
  repeat' (first | with_reducible assumption | with_reducible apply kept_repairFail | with_reducible apply kept_wakeReads | with_reducible apply kept_fn_onBuf | with_reducible apply kept_note | with_reducible apply kept_onIng | split)

theorem kept_repairFetch {s t : State} {a0 a1} (h : Kept s t) : Kept s (repairFetch a0 a1 t) := by
  unfold repairFetch
  try dsimp only
  repeat' (first | with_reducible assumption | with_reducible apply kept_plControl | with_reducible apply kept_fn_onBuf)

theorem kept_bufferFault {s t : State} {a0 a1} (h : Kept s t) : Kept s (bufferFault a0 a1 t) := by
  unfold bufferFault
  try dsimp only
  repeat' (first | with_reducible assumption | with_reducible apply kept_stageFail | with_reducible apply kept_startJob | with_reducible apply kept_fn_onBuf | with_reducible apply kept_repairFail | with_reducible apply kept_repairFetch | (with_reducible refine kept_ite (fun _ => ?_) (fun _ => ?_)) | split)

theorem kept_repairReply {s t : State} {a0 a1 a2 a3} (h : Kept s t) : Kept s (repairReply a0 a1 a2 a3 t) := by
  unfold repairReply
  try dsimp only
  repeat' (first | with_reducible assumption | with_reducible apply kept_repairDone | with_reducible apply kept_repairFetch | with_reducible apply kept_repairFail | (with_reducible refine kept_ite (fun _ => ?_) (fun _ => ?_)) | split)

theorem kept_repairsLost {s t : State} (h : Kept s t) : Kept s (repairsLost t) := by
  unfold repairsLost
  try dsimp only
  repeat' (first | with_reducible assumption | with_reducible apply kept_repairFail | (with_reducible refine kept_foldl ?_ (fun u x h => ?_)))

theorem kept_formDone {s t : State} {a0 a1} (h : Kept s t) : Kept s (formDone a0 a1 t) := by
  unfold formDone
  try dsimp only
  repeat' (first | with_reducible assumption | with_reducible apply kept_readBlock | with_reducible apply kept_replBlock | with_reducible apply kept_repairDone | with_reducible apply kept_repairFail | (with_reducible refine kept_ite (fun _ => ?_) (fun _ => ?_)) | split)

theorem kept_closeRead {s t : State} {a0 a1} (h : Kept s t) : Kept s (closeRead a0 a1 t) := by
  unfold closeRead
  try dsimp only
  repeat' (first | with_reducible assumption | with_reducible apply kept_completeRow | (with_reducible refine kept_ite (fun _ => ?_) (fun _ => ?_)) | split)

theorem kept_pagesDone {s t : State} {a0 a1} (h : Kept s t) : Kept s (pagesDone a0 a1 t) := by
  unfold pagesDone
  try dsimp only
  repeat' (first | with_reducible assumption | with_reducible apply kept_gcForm | with_reducible apply kept_relocRead | with_reducible apply kept_rebuildRow | with_reducible apply kept_patrolCheck | with_reducible apply kept_closeRead | with_reducible apply kept_resyncPage | split)

theorem kept_jobStep {s t : State} {a0} (h : Kept s t) : Kept s (jobStep a0 t) := by
  unfold jobStep
  try dsimp only
  repeat' (first | with_reducible assumption | with_reducible apply kept_onPar | with_reducible apply kept_endJob | with_reducible apply kept_formDone | with_reducible apply kept_pagesDone | (with_reducible refine kept_ite (fun _ => ?_) (fun _ => ?_)) | split)

theorem kept_jobRead {s t : State} {a0 a1 a2} (h : Kept s t) : Kept s (jobRead a0 a1 a2 t) := by
  unfold jobRead
  try dsimp only
  repeat' (first | with_reducible assumption | with_reducible apply kept_onPar | with_reducible apply kept_onJob | with_reducible apply kept_jobStep | with_reducible apply kept_advanceJob | (with_reducible refine kept_ite (fun _ => ?_) (fun _ => ?_)) | split)

theorem kept_settleJobs {s t : State} (h : Kept s t) : Kept s (settleJobs t) := by
  unfold settleJobs
  try dsimp only
  repeat' (first | with_reducible assumption | with_reducible apply kept_settle | with_reducible apply kept_jobStep | (with_reducible refine kept_foldl ?_ (fun u x h => ?_)) | (with_reducible refine kept_ite (fun _ => ?_) (fun _ => ?_)))

end Sys2Proof.Machine
end

