-- ==== Sys2Proof/Laws/Kept/Conn.lean ====
section
/-! SUPPORT. What the operations of Machine/Conn.lean keep (`Kept`). -/

namespace Sys2Proof.Machine

theorem kept_evict {s t : State} {a0} (h : Kept s t) : Kept s (evict a0 t) := by
  induction a0 generalizing t  with
  | zero =>
    unfold evict
    repeat' (first | with_reducible assumption | with_reducible apply ih | with_reducible apply kept_onQpc | with_reducible apply kept_onCtxQuiet | (with_reducible refine kept_ite (fun _ => ?_) (fun _ => ?_)) | split | (cases ‹_ + 1 = Nat.succ _›))
  | succ _ ih =>
    unfold evict
    try dsimp only
    repeat' (first | with_reducible assumption | with_reducible apply ih | with_reducible apply kept_onQpc | with_reducible apply kept_onCtxQuiet | (with_reducible refine kept_ite (fun _ => ?_) (fun _ => ?_)) | split | (cases ‹_ + 1 = Nat.succ _›))

theorem kept_cacheIn {s t : State} {a0} (h : Kept s t) : Kept s (cacheIn a0 t) := by
  unfold cacheIn
  try dsimp only
  repeat' (first | with_reducible assumption | with_reducible apply kept_evict | with_reducible apply kept_onCtxQuiet | with_reducible apply kept_onQpc | (with_reducible refine kept_ite (fun _ => ?_) (fun _ => ?_)))

theorem kept_cacheHit {s t : State} {a0} (h : Kept s t) : Kept s (cacheHit a0 t) := by
  unfold cacheHit
  try dsimp only
  repeat' (first | with_reducible assumption | with_reducible apply kept_onQpc | (with_reducible refine kept_ite (fun _ => ?_) (fun _ => ?_)))

theorem kept_missFlow {s t : State} {a0} (h : Kept s t) : Kept s (missFlow a0 t) := by
  unfold missFlow
  try dsimp only
  repeat' (first | with_reducible assumption | with_reducible apply kept_fabCount | with_reducible apply kept_hostSend | with_reducible apply kept_onFab | (with_reducible refine kept_ite (fun _ => ?_) (fun _ => ?_)))

theorem kept_missIn {s t : State} {a0 a1 a2} (h : Kept s t) : Kept s (missIn a0 a1 a2 t) := by
  unfold missIn
  try dsimp only
  repeat' (first | with_reducible assumption | with_reducible apply kept_onQpc | with_reducible apply kept_note | with_reducible apply kept_onFab | with_reducible apply kept_missFlow | (with_reducible refine kept_ite (fun _ => ?_) (fun _ => ?_)) | split)

theorem kept_sendAck {s t : State} {a0 a1} (h : Kept s t) : Kept s (sendAck a0 a1 t) := by
  unfold sendAck
  try dsimp only
  repeat' (first | with_reducible assumption | with_reducible apply kept_onCtxQuiet | with_reducible apply kept_wire | (with_reducible refine kept_foldl ?_ (fun u x h => ?_)) | (with_reducible refine kept_ite (fun _ => ?_) (fun _ => ?_)) | split)

theorem kept_ackAll {s t : State} {a0} (h : Kept s t) : Kept s (ackAll a0 t) := by
  unfold ackAll
  try dsimp only
  repeat' (first | with_reducible assumption | with_reducible apply kept_sendAck | with_reducible apply kept_onCtxQuiet)

theorem kept_accepted {s t : State} {a0} (h : Kept s t) : Kept s (accepted a0 t) := by
  unfold accepted
  try dsimp only
  repeat' (first | with_reducible assumption | with_reducible apply kept_onCtx | with_reducible apply kept_ackAll | (with_reducible refine kept_ite (fun _ => ?_) (fun _ => ?_)))

theorem kept_ckptConfirmed {s t : State} {a0 a1} (h : Kept s t) : Kept s (ckptConfirmed a0 a1 t) := by
  unfold ckptConfirmed
  try dsimp only
  repeat' (first | with_reducible assumption | with_reducible apply kept_onCtxQuiet | with_reducible apply kept_onQpc | with_reducible apply kept_sendAck | (with_reducible refine kept_ite (fun _ => ?_) (fun _ => ?_)) | split)

theorem kept_checkpointBatch {s t : State} (h : Kept s t) : Kept s (checkpointBatch t) := by
  unfold checkpointBatch
  try dsimp only
  repeat' (first | with_reducible assumption | with_reducible apply kept_onCtxQuiet | with_reducible apply kept_plRecords | (with_reducible refine kept_foldl4 ?_ (fun u x h => ?_)) | (with_reducible refine kept_foldl3 ?_ (fun u x h => ?_)) | (with_reducible refine kept_foldl2 ?_ (fun u x h => ?_)) | (with_reducible refine kept_foldl ?_ (fun u x h => ?_)) | (with_reducible refine kept_ite (fun _ => ?_) (fun _ => ?_)))

theorem kept_sendCnp {s t : State} {a0} (h : Kept s t) : Kept s (sendCnp a0 t) := by
  unfold sendCnp
  try dsimp only
  repeat' (first | with_reducible assumption | with_reducible apply kept_onFab | with_reducible apply kept_onCtxQuiet | with_reducible apply kept_wire | (with_reducible refine kept_ite (fun _ => ?_) (fun _ => ?_)) | split)

theorem kept_sendNak {s t : State} {a0 a1} (h : Kept s t) : Kept s (sendNak a0 a1 t) := by
  unfold sendNak
  try dsimp only
  repeat' (first | with_reducible assumption | with_reducible apply kept_fabCount | with_reducible apply kept_wire | split)

theorem kept_sendLotNak {s t : State} {a0 a1 a2 a3 a4 a5} (h : Kept s t) : Kept s (sendLotNak a0 a1 a2 a3 a4 a5 t) := by
  unfold sendLotNak
  try dsimp only
  repeat' (first | with_reducible assumption | with_reducible apply kept_fabCount | with_reducible apply kept_wire)

theorem kept_orphanQueue {s t : State} {a0} (h : Kept s t) : Kept s (orphanQueue a0 t) := by
  unfold orphanQueue
  try dsimp only
  repeat' (first | with_reducible assumption | with_reducible apply kept_chg | with_reducible apply kept_finish | with_reducible apply kept_dropWindows | (with_reducible refine kept_foldl ?_ (fun u x h => ?_)) | (with_reducible refine kept_ite (fun _ => ?_) (fun _ => ?_)))

theorem kept_qpError {s t : State} {a0 a1} (h : Kept s t) : Kept s (qpError a0 a1 t) := by
  unfold qpError
  try dsimp only
  repeat' (first | with_reducible assumption | with_reducible apply kept_onCtx | with_reducible apply kept_raise | with_reducible apply kept_orphanQueue | with_reducible apply kept_replConnDown | (with_reducible refine kept_ite (fun _ => ?_) (fun _ => ?_)) | split)

theorem kept_closeCtx {s t : State} {a0} (h : Kept s t) : Kept s (closeCtx a0 t) := by
  unfold closeCtx
  try dsimp only
  repeat' (first | with_reducible assumption | (with_reducible refine kept_mirror ?_ (fun u h => ?_)) | with_reducible apply kept_plRecords | with_reducible apply kept_onQpc | with_reducible apply kept_replConnDown | (with_reducible refine kept_ite (fun _ => ?_) (fun _ => ?_)) | split)

theorem kept_drain {s t : State} {a0} (h : Kept s t) : Kept s (drain a0 t) := by
  unfold drain
  try dsimp only
  repeat' (first | with_reducible assumption | with_reducible apply kept_wire | with_reducible apply kept_hostSend | with_reducible apply kept_closeCtx | (with_reducible refine kept_ite (fun _ => ?_) (fun _ => ?_)) | split)

theorem kept_sendProbe {s t : State} {a0} (h : Kept s t) : Kept s (sendProbe a0 t) := by
  unfold sendProbe
  try dsimp only
  repeat' (first | with_reducible assumption | with_reducible apply kept_wire | split)

theorem kept_tkovLost {s t : State} {a0 a1} (h : Kept s t) : Kept s (tkovLost a0 a1 t) := by
  unfold tkovLost
  try dsimp only
  repeat' (first | with_reducible assumption | with_reducible apply kept_note | with_reducible apply kept_qpError | with_reducible apply kept_onPrt | with_reducible apply kept_onCtx)

theorem kept_probeAnswer {s t : State} {a0 a1} (h : Kept s t) : Kept s (probeAnswer a0 a1 t) := by
  unfold probeAnswer
  try dsimp only
  repeat' (first | with_reducible assumption | with_reducible apply kept_tkovLost | with_reducible apply kept_onPrt | with_reducible apply kept_onCtx | (with_reducible refine kept_ite (fun _ => ?_) (fun _ => ?_)) | split)

theorem kept_resumeConn {s t : State} {a0} (h : Kept s t) : Kept s (resumeConn a0 t) := by
  unfold resumeConn
  try dsimp only
  repeat' (first | with_reducible assumption | with_reducible apply kept_onCmd | with_reducible apply kept_tkovLost | with_reducible apply kept_onCtx | with_reducible apply kept_transmit | (with_reducible refine kept_foldl ?_ (fun u x h => ?_)) | (with_reducible refine kept_ite (fun _ => ?_) (fun _ => ?_)) | split)

theorem kept_after {s t : State} (h : Kept s t) : Kept s (after t) := by
  unfold after
  try dsimp only
  repeat' (first | with_reducible assumption | with_reducible apply kept_settleJobs | with_reducible apply kept_resumeConn | with_reducible apply kept_drain | (with_reducible refine kept_foldl ?_ (fun u x h => ?_)))

theorem kept_connReady {s t : State} {a0} (h : Kept s t) : Kept s (connReady a0 t) := by
  unfold connReady
  try dsimp only
  repeat' (first | with_reducible assumption | with_reducible apply kept_onCtx | (with_reducible refine kept_mirror ?_ (fun u h => ?_)) | with_reducible apply kept_plRecords | split)

theorem kept_takeCapsule {s t : State} {a0 a1 a2 a3} (h : Kept s t) : Kept s (takeCapsule a0 a1 a2 a3 t) := by
  unfold takeCapsule
  try dsimp only
  repeat' (first | with_reducible assumption | with_reducible apply kept_wakeHost | with_reducible apply kept_reject | with_reducible apply kept_onCmd | (with_reducible refine kept_ite (fun _ => ?_) (fun _ => ?_)))

end Sys2Proof.Machine
end

