-- ==== Sys2Proof/Laws/Kept/Fabric.lean ====
section
/-! SUPPORT. What the operations of Machine/Fabric.lean keep (`Kept`). -/

namespace Sys2Proof.Machine

theorem kept_autoneg {s t : State} {a0} (h : Kept s t) : Kept s (autoneg a0 t) := by
  unfold autoneg
  try dsimp only
  repeat' (first | with_reducible assumption | with_reducible apply kept_hostSend | with_reducible apply kept_onFab | (with_reducible refine kept_ite (fun _ => ?_) (fun _ => ?_)))

theorem kept_subDown {s t : State} {a0} (h : Kept s t) : Kept s (subDown a0 t) := by
  unfold subDown
  try dsimp only
  repeat' (first | with_reducible assumption | with_reducible apply kept_onFab | with_reducible apply kept_raise | with_reducible apply kept_transmit | with_reducible apply kept_onCtxQuiet | with_reducible apply kept_autoneg | (with_reducible refine kept_foldl4 ?_ (fun u x h => ?_)) | (with_reducible refine kept_foldl3 ?_ (fun u x h => ?_)) | (with_reducible refine kept_foldl2 ?_ (fun u x h => ?_)) | (with_reducible refine kept_foldl ?_ (fun u x h => ?_)) | (with_reducible refine kept_ite (fun _ => ?_) (fun _ => ?_)))

theorem kept_announce {s t : State} {a0} (h : Kept s t) : Kept s (announce a0 t) := by
  unfold announce
  try dsimp only
  repeat' (first | with_reducible assumption | with_reducible apply kept_hostSend | (with_reducible refine kept_foldl ?_ (fun u x h => ?_)) | (with_reducible refine kept_ite (fun _ => ?_) (fun _ => ?_)) | split)

theorem kept_takeAddr {s t : State} {a0} (h : Kept s t) : Kept s (takeAddr a0 t) := by
  unfold takeAddr
  try dsimp only
  repeat' (first | with_reducible assumption | with_reducible apply kept_onFab | with_reducible apply kept_raise | with_reducible apply kept_announce | (with_reducible refine kept_ite (fun _ => ?_) (fun _ => ?_)))

theorem kept_execSubportDown {s : State} {a0} : ∃ u, execSubportDown a0 s = .next u ∧ Kept s u := by
  refine ⟨_, rfl, ?_⟩
  have h := kept_rfl s
  try dsimp only
  repeat' (first | with_reducible assumption | with_reducible apply kept_after | with_reducible apply kept_subDown)

theorem kept_subCameUp {s t : State} {a0} (h : Kept s t) : Kept s (subCameUp a0 t) := by
  unfold subCameUp
  try dsimp only
  repeat' (first | with_reducible assumption | with_reducible apply kept_raise | with_reducible apply kept_onFab | with_reducible apply kept_takeAddr | (with_reducible refine kept_ite (fun _ => ?_) (fun _ => ?_)))

theorem kept_execSubportUp {s : State} {a0} : ∃ u, execSubportUp a0 s = .next u ∧ Kept s u := by
  refine ⟨_, rfl, ?_⟩
  have h := kept_rfl s
  try dsimp only
  repeat' (first | with_reducible assumption | with_reducible apply kept_after | with_reducible apply kept_subCameUp)

theorem kept_fabCtrl {s t : State} {a0} (h : Kept s t) : Kept s (fabCtrl a0 t) := by
  unfold fabCtrl
  try dsimp only
  repeat' (first | with_reducible assumption | with_reducible apply kept_onFab | with_reducible apply kept_subDown | with_reducible apply kept_autoneg | (with_reducible refine kept_foldl ?_ (fun u x h => ?_)))

theorem kept_pauseFrame {s t : State} {a0 a1 a2} (h : Kept s t) : Kept s (pauseFrame a0 a1 a2 t) := by
  unfold pauseFrame
  try dsimp only
  repeat' (first | with_reducible assumption | with_reducible apply kept_fabCount | with_reducible apply kept_onFab | with_reducible apply kept_wire | (with_reducible refine kept_foldl4 ?_ (fun u x h => ?_)) | (with_reducible refine kept_foldl3 ?_ (fun u x h => ?_)) | (with_reducible refine kept_foldl2 ?_ (fun u x h => ?_)) | (with_reducible refine kept_foldl ?_ (fun u x h => ?_)) | (with_reducible refine kept_ite (fun _ => ?_) (fun _ => ?_)) | split)

theorem kept_execPauseFrameReceive {s : State} {a0 a1 a2} : ∃ u, execPauseFrameReceive a0 a1 a2 s = .next u ∧ Kept s u := by
  refine ⟨_, rfl, ?_⟩
  have h := kept_rfl s
  try dsimp only
  repeat' (first | with_reducible assumption | with_reducible apply kept_after | with_reducible apply kept_pauseFrame | (with_reducible refine kept_ite (fun _ => ?_) (fun _ => ?_)))

theorem kept_announceAgain {s t : State} {a0} (h : Kept s t) : Kept s (announceAgain a0 t) := by
  unfold announceAgain
  try dsimp only
  repeat' (first | with_reducible assumption | with_reducible apply kept_announce | with_reducible apply kept_onFab | (with_reducible refine kept_ite (fun _ => ?_) (fun _ => ?_)) | split)

theorem kept_execAddrAnnounceRepeat {s : State} {a0} : ∃ u, execAddrAnnounceRepeat a0 s = .next u ∧ Kept s u := by
  refine ⟨_, rfl, ?_⟩
  have h := kept_rfl s
  try dsimp only
  repeat' (first | with_reducible assumption | with_reducible apply kept_announceAgain)

theorem kept_arpRequest {s t : State} {a0 a1 a2} (h : Kept s t) : Kept s (arpRequest a0 a1 a2 t) := by
  unfold arpRequest
  try dsimp only
  repeat' (first | with_reducible assumption | with_reducible apply kept_hostSend | with_reducible apply kept_send | (with_reducible refine kept_ite (fun _ => ?_) (fun _ => ?_)) | split)

theorem kept_execArpRequest {s : State} {a0 a1 a2} : ∃ u, execArpRequest a0 a1 a2 s = .next u ∧ Kept s u := by
  refine ⟨_, rfl, ?_⟩
  have h := kept_rfl s
  try dsimp only
  repeat' (first | with_reducible assumption | with_reducible apply kept_arpRequest)

theorem kept_execNeighbourSolicitation {s : State} {a0 a1 a2} : ∃ u, execNeighbourSolicitation a0 a1 a2 s = .next u ∧ Kept s u := by
  refine ⟨_, rfl, ?_⟩
  have h := kept_rfl s
  try dsimp only
  repeat' (first | with_reducible assumption | with_reducible apply kept_hostSend | (with_reducible refine kept_ite (fun _ => ?_) (fun _ => ?_)))

theorem kept_icmpEcho {s t : State} {a0 a1 a2 a3} (h : Kept s t) : Kept s (icmpEcho a0 a1 a2 a3 t) := by
  unfold icmpEcho
  try dsimp only
  repeat' (first | with_reducible assumption | with_reducible apply kept_send | with_reducible apply kept_hostSend | with_reducible apply kept_onFab | (with_reducible refine kept_ite (fun _ => ?_) (fun _ => ?_)) | split)

theorem kept_execIcmpEcho {s : State} {a0 a1 a2 a3} : ∃ u, execIcmpEcho a0 a1 a2 a3 s = .next u ∧ Kept s u := by
  refine ⟨_, rfl, ?_⟩
  have h := kept_rfl s
  try dsimp only
  repeat' (first | with_reducible assumption | with_reducible apply kept_icmpEcho)

theorem kept_advance {s t : State} {a0 a1 a2} (h : Kept s t) : Kept s (advance a0 a1 a2 t) := by
  unfold advance
  try dsimp only
  repeat' (first | with_reducible assumption | with_reducible apply kept_accepted | with_reducible apply kept_onCtx | (with_reducible refine kept_ite (fun _ => ?_) (fun _ => ?_)))

theorem kept_badRequest {s t : State} {a0} (h : Kept s t) : Kept s (badRequest a0 t) := by
  unfold badRequest
  try dsimp only
  repeat' (first | with_reducible assumption | with_reducible apply kept_qpError | with_reducible apply kept_sendNak)

theorem kept_badAccess {s t : State} {a0} (h : Kept s t) : Kept s (badAccess a0 t) := by
  unfold badAccess
  try dsimp only
  repeat' (first | with_reducible assumption | with_reducible apply kept_qpError | with_reducible apply kept_sendNak)

theorem kept_readRequest {s t : State} {a0 a1 a2 a3 a4 a5 a6} (h : Kept s t) : Kept s (readRequest a0 a1 a2 a3 a4 a5 a6 t) := by
  unfold readRequest
  try dsimp only
  repeat' (first | with_reducible assumption | with_reducible apply kept_badRequest | with_reducible apply kept_badAccess | with_reducible apply kept_wire | with_reducible apply kept_finish | with_reducible apply kept_dropWindows | with_reducible apply kept_advance | (with_reducible refine kept_foldl ?_ (fun u x h => ?_)) | (with_reducible refine kept_ite (fun _ => ?_) (fun _ => ?_)) | split)

theorem kept_writePacket {s t : State} {a0 a1 a2 a3 a4 a5 a6} (h : Kept s t) : Kept s (writePacket a0 a1 a2 a3 a4 a5 a6 t) := by
  unfold writePacket
  try dsimp only
  repeat' (first | with_reducible assumption | with_reducible apply kept_badRequest | with_reducible apply kept_badAccess | with_reducible apply kept_placeData | with_reducible apply kept_failCmd | with_reducible apply kept_windowDone | with_reducible apply kept_advance | with_reducible apply kept_onCtx | (with_reducible refine kept_ite (fun _ => ?_) (fun _ => ?_)) | split)

theorem kept_rcRequest {s t : State} {a0 a1 a2} (h : Kept s t) : Kept s (rcRequest a0 a1 a2 t) := by
  unfold rcRequest
  try dsimp only
  repeat' (first | with_reducible assumption | with_reducible apply kept_badRequest | with_reducible apply kept_fabCount | with_reducible apply kept_wire | with_reducible apply kept_takeCapsule | with_reducible apply kept_advance | with_reducible apply kept_writePacket | with_reducible apply kept_readRequest | (with_reducible refine kept_ite (fun _ => ?_) (fun _ => ?_)) | split)

theorem kept_rcDuplicate {s t : State} {a0 a1 a2 a3} (h : Kept s t) : Kept s (rcDuplicate a0 a1 a2 a3 t) := by
  unfold rcDuplicate
  try dsimp only
  repeat' (first | with_reducible assumption | with_reducible apply kept_readRequest | with_reducible apply kept_sendAck | (with_reducible refine kept_ite (fun _ => ?_) (fun _ => ?_)) | split)

theorem kept_rateCut {s t : State} {a0 a1} (h : Kept s t) : Kept s (rateCut a0 a1 t) := by
  unfold rateCut
  try dsimp only
  repeat' (first | with_reducible assumption | with_reducible apply kept_onFab | with_reducible apply kept_onCtxQuiet | (with_reducible refine kept_ite (fun _ => ?_) (fun _ => ?_)) | split)

theorem kept_acknowledge {s t : State} {a0 a1} (h : Kept s t) : Kept s (acknowledge a0 a1 t) := by
  unfold acknowledge
  try dsimp only
  repeat' (first | with_reducible assumption | with_reducible apply kept_onCtx | (with_reducible refine kept_foldl ?_ (fun u x h => ?_)) | (with_reducible refine kept_ite (fun _ => ?_) (fun _ => ?_)) | split)

theorem kept_resendAll {s t : State} {a0} (h : Kept s t) : Kept s (resendAll a0 t) := by
  unfold resendAll
  try dsimp only
  repeat' (first | with_reducible assumption | with_reducible apply kept_sendProbe | with_reducible apply kept_transmit | (with_reducible refine kept_foldl ?_ (fun u x h => ?_)) | (with_reducible refine kept_ite (fun _ => ?_) (fun _ => ?_)) | split)

theorem kept_retryOver {s t : State} {a0} (h : Kept s t) : Kept s (retryOver a0 t) := by
  unfold retryOver
  try dsimp only
  repeat' (first | with_reducible assumption | with_reducible apply kept_qpError | with_reducible apply kept_onFab)

theorem kept_retry {s t : State} {a0 a1} (h : Kept s t) : Kept s (retry a0 a1 t) := by
  unfold retry
  try dsimp only
  repeat' (first | with_reducible assumption | with_reducible apply kept_retryOver | with_reducible apply kept_onCtx | with_reducible apply kept_raise | with_reducible apply kept_resendAll | (with_reducible refine kept_foldl ?_ (fun u x h => ?_)) | (with_reducible refine kept_ite (fun _ => ?_) (fun _ => ?_)) | split)

theorem kept_rcResponse {s t : State} {a0 a1 a2} (h : Kept s t) : Kept s (rcResponse a0 a1 a2 t) := by
  unfold rcResponse
  try dsimp only
  repeat' (first | with_reducible assumption | with_reducible apply kept_acknowledge | with_reducible apply kept_probeAnswer | with_reducible apply kept_resendAll | with_reducible apply kept_retryOver | with_reducible apply kept_onCtx | with_reducible apply kept_qpError | with_reducible apply kept_rateCut | (with_reducible refine kept_ite (fun _ => ?_) (fun _ => ?_)) | split)

theorem kept_rcPacket {s t : State} {a0 a1 a2} (h : Kept s t) : Kept s (rcPacket a0 a1 a2 t) := by
  unfold rcPacket
  try dsimp only
  repeat' (first | with_reducible assumption | with_reducible apply kept_fabCount | with_reducible apply kept_sendCnp | with_reducible apply kept_rcResponse | with_reducible apply kept_rcRequest | with_reducible apply kept_sendNak | with_reducible apply kept_onCtx | with_reducible apply kept_rcDuplicate | (with_reducible refine kept_ite (fun _ => ?_) (fun _ => ?_)) | split)

theorem kept_roceIn {s t : State} {a0 a1} (h : Kept s t) : Kept s (roceIn a0 a1 t) := by
  unfold roceIn
  try dsimp only
  repeat' (first | with_reducible assumption | with_reducible apply kept_fabCount | with_reducible apply kept_rcPacket | with_reducible apply kept_cacheHit | with_reducible apply kept_missIn | (with_reducible refine kept_ite (fun _ => ?_) (fun _ => ?_)) | split)

theorem kept_execRoceSend {s : State} {a0 a1 a2} : ∃ u, execRoceSend a0 a1 a2 s = .next u ∧ Kept s u := by
  refine ⟨_, rfl, ?_⟩
  have h := kept_rfl s
  try dsimp only
  repeat' (first | with_reducible assumption | with_reducible apply kept_after | with_reducible apply kept_roceIn)

theorem kept_execRoceRdmaWrite {s : State} {a0 a1 a2 a3 a4} : ∃ u, execRoceRdmaWrite a0 a1 a2 a3 a4 s = .next u ∧ Kept s u := by
  refine ⟨_, rfl, ?_⟩
  have h := kept_rfl s
  try dsimp only
  repeat' (first | with_reducible assumption | with_reducible apply kept_after | with_reducible apply kept_roceIn)

theorem kept_execRoceRdmaWriteImm {s : State} {a0 a1 a2 a3 a4 a5} : ∃ u, execRoceRdmaWriteImm a0 a1 a2 a3 a4 a5 s = .next u ∧ Kept s u := by
  refine ⟨_, rfl, ?_⟩
  have h := kept_rfl s
  try dsimp only
  repeat' (first | with_reducible assumption | with_reducible apply kept_after | with_reducible apply kept_roceIn)

theorem kept_execRoceRdmaReadRequest {s : State} {a0 a1 a2 a3} : ∃ u, execRoceRdmaReadRequest a0 a1 a2 a3 s = .next u ∧ Kept s u := by
  refine ⟨_, rfl, ?_⟩
  have h := kept_rfl s
  try dsimp only
  repeat' (first | with_reducible assumption | with_reducible apply kept_after | with_reducible apply kept_roceIn)

theorem kept_execRoceAck {s : State} {a0} : ∃ u, execRoceAck a0 s = .next u ∧ Kept s u := by
  refine ⟨_, rfl, ?_⟩
  have h := kept_rfl s
  try dsimp only
  repeat' (first | with_reducible assumption | with_reducible apply kept_after | with_reducible apply kept_roceIn)

theorem kept_execRoceNak {s : State} {a0 a1 a2} : ∃ u, execRoceNak a0 a1 a2 s = .next u ∧ Kept s u := by
  refine ⟨_, rfl, ?_⟩
  have h := kept_rfl s
  try dsimp only
  repeat' (first | with_reducible assumption | with_reducible apply kept_after | with_reducible apply kept_roceIn)

theorem kept_execRoceCnp {s : State} {a0} : ∃ u, execRoceCnp a0 s = .next u ∧ Kept s u := by
  refine ⟨_, rfl, ?_⟩
  have h := kept_rfl s
  try dsimp only
  repeat' (first | with_reducible assumption | with_reducible apply kept_after | with_reducible apply kept_roceIn)

theorem kept_execRoceUnsupportedOpcode {s : State} {a0} : ∃ u, execRoceUnsupportedOpcode a0 s = .next u ∧ Kept s u := by
  refine ⟨_, rfl, ?_⟩
  have h := kept_rfl s
  try dsimp only
  repeat' (first | with_reducible assumption | with_reducible apply kept_after | with_reducible apply kept_roceIn)

theorem kept_sendRep {s t : State} {a0} (h : Kept s t) : Kept s (sendRep a0 t) := by
  unfold sendRep
  try dsimp only
  repeat' (first | with_reducible assumption | with_reducible apply kept_hostSend | with_reducible apply kept_onCtx | split)

theorem kept_cmReq {s t : State} {a0} (h : Kept s t) : Kept s (cmReq a0 t) := by
  unfold cmReq
  try dsimp only
  repeat' (first | with_reducible assumption | with_reducible apply kept_wakeHost | with_reducible apply kept_hostSend | with_reducible apply kept_sendRep | with_reducible apply kept_cacheIn | with_reducible apply kept_addCtx | (with_reducible refine kept_ite (fun _ => ?_) (fun _ => ?_)) | split)

theorem kept_execCmReq {s : State} {a0} : ∃ u, execCmReq a0 s = .next u ∧ Kept s u := by
  refine ⟨_, rfl, ?_⟩
  have h := kept_rfl s
  try dsimp only
  repeat' (first | with_reducible assumption | with_reducible apply kept_after | with_reducible apply kept_cmReq)

theorem kept_cmRtu {s t : State} {a0} (h : Kept s t) : Kept s (cmRtu a0 t) := by
  unfold cmRtu
  try dsimp only
  repeat' (first | with_reducible assumption | with_reducible apply kept_connReady | (with_reducible refine kept_ite (fun _ => ?_) (fun _ => ?_)) | split)

theorem kept_execCmRtu {s : State} {a0} : ∃ u, execCmRtu a0 s = .next u ∧ Kept s u := by
  refine ⟨_, rfl, ?_⟩
  have h := kept_rfl s
  try dsimp only
  repeat' (first | with_reducible assumption | with_reducible apply kept_after | with_reducible apply kept_cmRtu)

theorem kept_disconnect {s t : State} {a0 a1 a2} (h : Kept s t) (k : ∀ u, Kept s u → Kept s (a2 u)) : Kept s (disconnect a0 a1 a2 t) := by
  unfold disconnect
  try dsimp only
  repeat' (first | with_reducible assumption | apply k | with_reducible apply kept_closeCtx | with_reducible apply kept_onCtx | (with_reducible refine kept_ite (fun _ => ?_) (fun _ => ?_)))

theorem kept_cmDreq {s t : State} {a0} (h : Kept s t) : Kept s (cmDreq a0 t) := by
  unfold cmDreq
  try dsimp only
  repeat' (first | with_reducible assumption | (with_reducible refine kept_disconnect ?_ (fun u h => ?_)) | with_reducible apply kept_hostSend | (with_reducible refine kept_ite (fun _ => ?_) (fun _ => ?_)) | split)

theorem kept_execCmDreq {s : State} {a0} : ∃ u, execCmDreq a0 s = .next u ∧ Kept s u := by
  refine ⟨_, rfl, ?_⟩
  have h := kept_rfl s
  try dsimp only
  repeat' (first | with_reducible assumption | with_reducible apply kept_after | with_reducible apply kept_cmDreq)

theorem kept_cmRej {s t : State} {a0} (h : Kept s t) : Kept s (cmRej a0 t) := by
  unfold cmRej
  try dsimp only
  repeat' (first | with_reducible assumption | with_reducible apply kept_closeCtx | (with_reducible refine kept_ite (fun _ => ?_) (fun _ => ?_)) | split)

theorem kept_execCmRej {s : State} {a0} : ∃ u, execCmRej a0 s = .next u ∧ Kept s u := by
  refine ⟨_, rfl, ?_⟩
  have h := kept_rfl s
  try dsimp only
  repeat' (first | with_reducible assumption | with_reducible apply kept_after | with_reducible apply kept_cmRej)

theorem kept_repRetry {s t : State} {a0} (h : Kept s t) : Kept s (repRetry a0 t) := by
  unfold repRetry
  try dsimp only
  repeat' (first | with_reducible assumption | with_reducible apply kept_closeCtx | with_reducible apply kept_sendRep | (with_reducible refine kept_ite (fun _ => ?_) (fun _ => ?_)) | split)

theorem kept_execRepRetryTimer {s : State} {a0} : ∃ u, execRepRetryTimer a0 s = .next u ∧ Kept s u := by
  refine ⟨_, rfl, ?_⟩
  have h := kept_rfl s
  try dsimp only
  repeat' (first | with_reducible assumption | with_reducible apply kept_after | with_reducible apply kept_repRetry)

theorem kept_retryTimeout {s t : State} {a0} (h : Kept s t) : Kept s (retryTimeout a0 t) := by
  unfold retryTimeout
  try dsimp only
  repeat' (first | with_reducible assumption | with_reducible apply kept_retry | with_reducible apply kept_closeCtx | with_reducible apply kept_onFab | (with_reducible refine kept_ite (fun _ => ?_) (fun _ => ?_)) | split)

theorem kept_execRetryTimeout {s : State} {a0} : ∃ u, execRetryTimeout a0 s = .next u ∧ Kept s u := by
  refine ⟨_, rfl, ?_⟩
  have h := kept_rfl s
  try dsimp only
  repeat' (first | with_reducible assumption | with_reducible apply kept_after | with_reducible apply kept_retryTimeout)

theorem kept_rnrResend {s t : State} {a0} (h : Kept s t) : Kept s (rnrResend a0 t) := by
  unfold rnrResend
  try dsimp only
  repeat' (first | with_reducible assumption | with_reducible apply kept_resendAll | with_reducible apply kept_onCtx | (with_reducible refine kept_ite (fun _ => ?_) (fun _ => ?_)) | split)

theorem kept_execRnrResendTimer {s : State} {a0} : ∃ u, execRnrResendTimer a0 s = .next u ∧ Kept s u := by
  refine ⟨_, rfl, ?_⟩
  have h := kept_rfl s
  try dsimp only
  repeat' (first | with_reducible assumption | with_reducible apply kept_after | with_reducible apply kept_rnrResend)

theorem kept_errLinger {s t : State} {a0} (h : Kept s t) : Kept s (errLinger a0 t) := by
  unfold errLinger
  try dsimp only
  repeat' (first | with_reducible assumption | with_reducible apply kept_closeCtx | (with_reducible refine kept_ite (fun _ => ?_) (fun _ => ?_)) | split)

theorem kept_execQpErrLingerExpiry {s : State} {a0} : ∃ u, execQpErrLingerExpiry a0 s = .next u ∧ Kept s u := by
  refine ⟨_, rfl, ?_⟩
  have h := kept_rfl s
  try dsimp only
  repeat' (first | with_reducible assumption | with_reducible apply kept_after | with_reducible apply kept_errLinger)

theorem kept_execCheckpointBatch {s : State} : ∃ u, execCheckpointBatch s = .next u ∧ Kept s u := by
  refine ⟨_, rfl, ?_⟩
  have h := kept_rfl s
  try dsimp only
  repeat' (first | with_reducible assumption | with_reducible apply kept_checkpointBatch)

theorem kept_cnpRaise {s t : State} {a0 a1} (h : Kept s t) : Kept s (cnpRaise a0 a1 t) := by
  unfold cnpRaise
  try dsimp only
  repeat' (first | with_reducible assumption | with_reducible apply kept_onCtxQuiet | split)

theorem kept_execCnpRateRaise {s : State} {a0 a1} : ∃ u, execCnpRateRaise a0 a1 s = .next u ∧ Kept s u := by
  refine ⟨_, rfl, ?_⟩
  have h := kept_rfl s
  try dsimp only
  repeat' (first | with_reducible assumption | with_reducible apply kept_cnpRaise)

theorem kept_mergeInterval {s t : State} {a0 a1} (h : Kept s t) : Kept s (mergeInterval a0 a1 t) := by
  unfold mergeInterval
  try dsimp only
  repeat' (first | with_reducible assumption | with_reducible apply kept_onCtxQuiet | with_reducible apply kept_sendHead | (with_reducible refine kept_ite (fun _ => ?_) (fun _ => ?_)) | split)

theorem kept_execEventMergeInterval {s : State} {a0 a1} : ∃ u, execEventMergeInterval a0 a1 s = .next u ∧ Kept s u := by
  refine ⟨_, rfl, ?_⟩
  have h := kept_rfl s
  try dsimp only
  repeat' (first | with_reducible assumption | with_reducible apply kept_mergeInterval)

end Sys2Proof.Machine
end

