-- ==== Sys2Proof/Laws/Kept/Lot.lean ====
section
/-! SUPPORT. What the operations of Machine/Lot.lean keep (`Kept`). -/

namespace Sys2Proof.Machine

theorem kept_lotReceived {s t : State} {a0 a1} (h : Kept s t) : Kept s (lotReceived a0 a1 t) := by
  unfold lotReceived
  try dsimp only
  repeat' (first | with_reducible assumption | with_reducible apply kept_accepted | with_reducible apply kept_onCtx | (with_reducible refine kept_foldl4 ?_ (fun u x h => ?_)) | (with_reducible refine kept_foldl3 ?_ (fun u x h => ?_)) | (with_reducible refine kept_foldl2 ?_ (fun u x h => ?_)) | (with_reducible refine kept_foldl ?_ (fun u x h => ?_)) | (with_reducible refine kept_ite (fun _ => ?_) (fun _ => ?_)) | split)

theorem kept_deliverLot {s t : State} {a0 a1} (h : Kept s t) : Kept s (deliverLot a0 a1 t) := by
  induction a1 generalizing t  with
  | zero =>
    unfold deliverLot
    repeat' (first | with_reducible assumption | with_reducible apply ih | with_reducible apply kept_onCtx | with_reducible apply kept_windowDone | with_reducible apply kept_replMessage | with_reducible apply kept_takeCapsule | (with_reducible refine kept_ite (fun _ => ?_) (fun _ => ?_)) | split | (cases ‹_ + 1 = Nat.succ _›))
  | succ _ ih =>
    unfold deliverLot
    try dsimp only
    repeat' (first | with_reducible assumption | with_reducible apply ih | with_reducible apply kept_onCtx | with_reducible apply kept_windowDone | with_reducible apply kept_replMessage | with_reducible apply kept_takeCapsule | (with_reducible refine kept_ite (fun _ => ?_) (fun _ => ?_)) | split | (cases ‹_ + 1 = Nat.succ _›))

theorem kept_lotDone {s t : State} {a0 a1 a2} (h : Kept s t) : Kept s (lotDone a0 a1 a2 t) := by
  unfold lotDone
  try dsimp only
  repeat' (first | with_reducible assumption | with_reducible apply kept_deliverLot | with_reducible apply kept_onCtx | split)

theorem kept_lotData {s t : State} {a0 a1 a2 a3 a4} (h : Kept s t) : Kept s (lotData a0 a1 a2 a3 a4 t) := by
  unfold lotData
  try dsimp only
  repeat' (first | with_reducible assumption | with_reducible apply kept_sendLotNak | with_reducible apply kept_lotReceived | with_reducible apply kept_fabCount | with_reducible apply kept_placeData | with_reducible apply kept_onCtx | with_reducible apply kept_lotDone | (with_reducible refine kept_ite (fun _ => ?_) (fun _ => ?_)) | split)

theorem kept_lotSend {s t : State} {a0 a1 a2 a3 a4} (h : Kept s t) : Kept s (lotSend a0 a1 a2 a3 a4 t) := by
  unfold lotSend
  try dsimp only
  repeat' (first | with_reducible assumption | with_reducible apply kept_lotReceived | with_reducible apply kept_lotDone | with_reducible apply kept_sendLotNak | (with_reducible refine kept_ite (fun _ => ?_) (fun _ => ?_)))

theorem kept_lotAck {s t : State} {a0 a1} (h : Kept s t) : Kept s (lotAck a0 a1 t) := by
  unfold lotAck
  try dsimp only
  repeat' (first | with_reducible assumption | with_reducible apply kept_acknowledge | with_reducible apply kept_transmit | with_reducible apply kept_onCtx | (with_reducible refine kept_foldl ?_ (fun u x h => ?_)) | (with_reducible refine kept_ite (fun _ => ?_) (fun _ => ?_)) | split)

theorem kept_lotNakIn {s t : State} {a0 a1 a2} (h : Kept s t) : Kept s (lotNakIn a0 a1 a2 t) := by
  unfold lotNakIn
  try dsimp only
  repeat' (first | with_reducible assumption | with_reducible apply kept_qpError | with_reducible apply kept_retry | with_reducible apply kept_fabCount | split)

theorem kept_lotPacketIn {s t : State} {a0 a1 a2} (h : Kept s t) : Kept s (lotPacketIn a0 a1 a2 t) := by
  unfold lotPacketIn
  try dsimp only
  repeat' (first | with_reducible assumption | with_reducible apply kept_sendLotNak | with_reducible apply kept_sendCnp | with_reducible apply kept_lotAck | with_reducible apply kept_lotNakIn | (with_reducible refine kept_disconnect ?_ (fun u h => ?_)) | with_reducible apply kept_wire | with_reducible apply kept_rateCut | with_reducible apply kept_sendAck | with_reducible apply kept_fabCount | with_reducible apply kept_lotData | with_reducible apply kept_lotSend | (with_reducible refine kept_ite (fun _ => ?_) (fun _ => ?_)) | split)

theorem kept_lotIn {s t : State} {a0 a1 a2} (h : Kept s t) : Kept s (lotIn a0 a1 a2 t) := by
  unfold lotIn
  try dsimp only
  repeat' (first | with_reducible assumption | with_reducible apply kept_fabCount | with_reducible apply kept_sendLotNak | with_reducible apply kept_lotPacketIn | with_reducible apply kept_cacheHit | with_reducible apply kept_missIn | (with_reducible refine kept_ite (fun _ => ?_) (fun _ => ?_)) | split)

theorem kept_execLotData {s : State} {a0 a1} : ∃ u, execLotData a0 a1 s = .next u ∧ Kept s u := by
  refine ⟨_, rfl, ?_⟩
  have h := kept_rfl s
  try dsimp only
  repeat' (first | with_reducible assumption | with_reducible apply kept_after | with_reducible apply kept_lotIn)

theorem kept_execLotSend {s : State} {a0 a1} : ∃ u, execLotSend a0 a1 s = .next u ∧ Kept s u := by
  refine ⟨_, rfl, ?_⟩
  have h := kept_rfl s
  try dsimp only
  repeat' (first | with_reducible assumption | with_reducible apply kept_after | with_reducible apply kept_lotIn)

theorem kept_execLotAck {s : State} {a0 a1} : ∃ u, execLotAck a0 a1 s = .next u ∧ Kept s u := by
  refine ⟨_, rfl, ?_⟩
  have h := kept_rfl s
  try dsimp only
  repeat' (first | with_reducible assumption | with_reducible apply kept_after | with_reducible apply kept_lotIn)

theorem kept_execLotNak {s : State} {a0 a1} : ∃ u, execLotNak a0 a1 s = .next u ∧ Kept s u := by
  refine ⟨_, rfl, ?_⟩
  have h := kept_rfl s
  try dsimp only
  repeat' (first | with_reducible assumption | with_reducible apply kept_after | with_reducible apply kept_lotIn)

theorem kept_execLotClose {s : State} {a0 a1} : ∃ u, execLotClose a0 a1 s = .next u ∧ Kept s u := by
  refine ⟨_, rfl, ?_⟩
  have h := kept_rfl s
  try dsimp only
  repeat' (first | with_reducible assumption | with_reducible apply kept_after | with_reducible apply kept_lotIn)

theorem kept_execLotCnp {s : State} {a0 a1} : ∃ u, execLotCnp a0 a1 s = .next u ∧ Kept s u := by
  refine ⟨_, rfl, ?_⟩
  have h := kept_rfl s
  try dsimp only
  repeat' (first | with_reducible assumption | with_reducible apply kept_after | with_reducible apply kept_lotIn)

theorem kept_openReply {s t : State} {a0 a1 a2 a3 a4 a5} (h : Kept s t) : Kept s (openReply a0 a1 a2 a3 a4 a5 t) := by
  unfold openReply
  try dsimp only
  repeat' (first | with_reducible assumption | with_reducible apply kept_wire)

theorem kept_lotOpenIn {s t : State} {a0 a1} (h : Kept s t) : Kept s (lotOpenIn a0 a1 t) := by
  unfold lotOpenIn
  try dsimp only
  repeat' (first | with_reducible assumption | with_reducible apply kept_fabCount | with_reducible apply kept_wakeHost | with_reducible apply kept_openReply | with_reducible apply kept_connReady | with_reducible apply kept_cacheIn | with_reducible apply kept_addCtx | (with_reducible refine kept_ite (fun _ => ?_) (fun _ => ?_)) | split)

theorem kept_execLotOpen {s : State} {a0 a1} : ∃ u, execLotOpen a0 a1 s = .next u ∧ Kept s u := by
  refine ⟨_, rfl, ?_⟩
  have h := kept_rfl s
  try dsimp only
  repeat' (first | with_reducible assumption | with_reducible apply kept_after | with_reducible apply kept_lotOpenIn)

theorem kept_lotOpenReplyIn {s t : State} {a0 a1} (h : Kept s t) : Kept s (lotOpenReplyIn a0 a1 t) := by
  unfold lotOpenReplyIn
  try dsimp only
  repeat' (first | with_reducible assumption | with_reducible apply kept_fabCount | with_reducible apply kept_closeCtx | with_reducible apply kept_onTarget | with_reducible apply kept_connReady | with_reducible apply kept_onCtx | (with_reducible refine kept_ite (fun _ => ?_) (fun _ => ?_)) | split)

theorem kept_execLotOpenReply {s : State} {a0 a1} : ∃ u, execLotOpenReply a0 a1 s = .next u ∧ Kept s u := by
  refine ⟨_, rfl, ?_⟩
  have h := kept_rfl s
  try dsimp only
  repeat' (first | with_reducible assumption | with_reducible apply kept_after | with_reducible apply kept_lotOpenReplyIn)

theorem kept_replay {s t : State} {a0 a1} (h : Kept s t) : Kept s (replay a0 a1 t) := by
  unfold replay
  try dsimp only
  repeat' (first | with_reducible assumption | with_reducible apply kept_rcPacket | with_reducible apply kept_lotPacketIn | split)

theorem kept_fetchDone {s t : State} {a0} (h : Kept s t) : Kept s (fetchDone a0 t) := by
  unfold fetchDone
  try dsimp only
  repeat' (first | with_reducible assumption | with_reducible apply kept_cacheIn | with_reducible apply kept_onQpc | with_reducible apply kept_replay | with_reducible apply kept_missFlow | with_reducible apply kept_onCtx | (with_reducible refine kept_foldl4 ?_ (fun u x h => ?_)) | (with_reducible refine kept_foldl3 ?_ (fun u x h => ?_)) | (with_reducible refine kept_foldl2 ?_ (fun u x h => ?_)) | (with_reducible refine kept_foldl ?_ (fun u x h => ?_)) | (with_reducible refine kept_ite (fun _ => ?_) (fun _ => ?_)) | split)

theorem kept_execQpContextFetchDone {s : State} {a0} : ∃ u, execQpContextFetchDone a0 s = .next u ∧ Kept s u := by
  refine ⟨_, rfl, ?_⟩
  have h := kept_rfl s
  try dsimp only
  repeat' (first | with_reducible assumption | with_reducible apply kept_after | with_reducible apply kept_fetchDone)

end Sys2Proof.Machine
end

