-- ==== Sys2Proof/Laws/Kept/Capsules.lean ====
section
/-! SUPPORT. What the operations of Machine/Capsules.lean keep (`Kept`). -/

namespace Sys2Proof.Machine

theorem kept_claimAtAccept {s t : State} {a0} (h : Kept s t) : Kept s (claimAtAccept a0 t) := by
  unfold claimAtAccept
  try dsimp only
  repeat' (first | with_reducible assumption | (with_reducible refine kept_onFtl_same ?_ (fun _ => rfl) (fun _ => rfl)) | (with_reducible refine kept_onFtl ?_ ?_) | exact fun x => ⟨x.1, x.2.1, tabDel_nodup x.2.2.1, fun e he => x.2.2.2 e (mem_tabDel he)⟩ | exact fun x => ⟨x.1, x.2.1, tabPut_nodup x.2.2.1, fun e he => (mem_tabPut he).elim (fun q => q ▸ by assumption) (x.2.2.2 e)⟩ | exact fun _ => canonical_empty rfl rfl | (intro hx; (try dsimp only); split <;> exact hx) | with_reducible apply kept_onTake | (with_reducible refine kept_ite (fun _ => ?_) (fun _ => ?_)) | split)

theorem kept_takeIn {s t : State} {a0} (h : Kept s t) : Kept s (takeIn a0 t) := by
  unfold takeIn
  try dsimp only
  repeat' (first | with_reducible assumption | with_reducible apply kept_claimAtAccept | with_reducible apply kept_mirrorCmd | with_reducible apply kept_chg)

theorem kept_capsuleStep {s t : State} {a0 a1} (h : Kept s t) : Kept s (capsuleStep a0 a1 t) := by
  unfold capsuleStep
  try dsimp only
  repeat' (first | with_reducible assumption | with_reducible apply kept_finish | with_reducible apply kept_takeIn | (with_reducible refine kept_ite (fun _ => ?_) (fun _ => ?_)) | split)

theorem kept_execRead {s : State} {a0} : ∃ u, execRead a0 s = .next u ∧ Kept s u := by
  refine ⟨_, rfl, ?_⟩
  have h := kept_rfl s
  try dsimp only
  repeat' (first | with_reducible assumption | with_reducible apply kept_after | with_reducible apply kept_capsuleStep)

theorem kept_execWrite {s : State} {a0} : ∃ u, execWrite a0 s = .next u ∧ Kept s u := by
  refine ⟨_, rfl, ?_⟩
  have h := kept_rfl s
  try dsimp only
  repeat' (first | with_reducible assumption | with_reducible apply kept_after | with_reducible apply kept_capsuleStep)

theorem kept_execTrim {s : State} {a0} : ∃ u, execTrim a0 s = .next u ∧ Kept s u := by
  refine ⟨_, rfl, ?_⟩
  have h := kept_rfl s
  try dsimp only
  repeat' (first | with_reducible assumption | with_reducible apply kept_after | with_reducible apply kept_capsuleStep)

theorem kept_execFlush {s : State} {a0} : ∃ u, execFlush a0 s = .next u ∧ Kept s u := by
  refine ⟨_, rfl, ?_⟩
  have h := kept_rfl s
  try dsimp only
  repeat' (first | with_reducible assumption | with_reducible apply kept_after | with_reducible apply kept_capsuleStep)

theorem kept_releaseStep {s t : State} {a0} (h : Kept s t) : Kept s (releaseStep a0 t) := by
  unfold releaseStep
  try dsimp only
  repeat' (first | with_reducible assumption | with_reducible apply kept_discardRelease | with_reducible apply kept_takeIn | (with_reducible refine kept_ite (fun _ => ?_) (fun _ => ?_)) | split)

theorem kept_execRelease {s : State} {a0} : ∃ u, execRelease a0 s = .next u ∧ Kept s u := by
  refine ⟨_, rfl, ?_⟩
  have h := kept_rfl s
  try dsimp only
  repeat' (first | with_reducible assumption | with_reducible apply kept_after | with_reducible apply kept_releaseStep)

theorem kept_execTakeOpen {s : State} {a0} : ∃ u, execTakeOpen a0 s = .next u ∧ Kept s u := by
  refine ⟨_, rfl, ?_⟩
  have h := kept_rfl s
  try dsimp only
  repeat' (first | with_reducible assumption | with_reducible apply kept_after | with_reducible apply kept_capsuleStep)

theorem kept_execFrameAppend {s : State} {a0} : ∃ u, execFrameAppend a0 s = .next u ∧ Kept s u := by
  refine ⟨_, rfl, ?_⟩
  have h := kept_rfl s
  try dsimp only
  repeat' (first | with_reducible assumption | with_reducible apply kept_after | with_reducible apply kept_capsuleStep)

theorem kept_execFrameRead {s : State} {a0} : ∃ u, execFrameRead a0 s = .next u ∧ Kept s u := by
  refine ⟨_, rfl, ?_⟩
  have h := kept_rfl s
  try dsimp only
  repeat' (first | with_reducible assumption | with_reducible apply kept_after | with_reducible apply kept_capsuleStep)

theorem kept_execTakeSeal {s : State} {a0} : ∃ u, execTakeSeal a0 s = .next u ∧ Kept s u := by
  refine ⟨_, rfl, ?_⟩
  have h := kept_rfl s
  try dsimp only
  repeat' (first | with_reducible assumption | with_reducible apply kept_after | with_reducible apply kept_capsuleStep)

theorem kept_execTakeDelete {s : State} {a0} : ∃ u, execTakeDelete a0 s = .next u ∧ Kept s u := by
  refine ⟨_, rfl, ?_⟩
  have h := kept_rfl s
  try dsimp only
  repeat' (first | with_reducible assumption | with_reducible apply kept_after | with_reducible apply kept_capsuleStep)

theorem kept_execTakeInfo {s : State} {a0} : ∃ u, execTakeInfo a0 s = .next u ∧ Kept s u := by
  refine ⟨_, rfl, ?_⟩
  have h := kept_rfl s
  try dsimp only
  repeat' (first | with_reducible assumption | with_reducible apply kept_after | with_reducible apply kept_capsuleStep)

theorem kept_execIdentify {s : State} {a0} : ∃ u, execIdentify a0 s = .next u ∧ Kept s u := by
  refine ⟨_, rfl, ?_⟩
  have h := kept_rfl s
  try dsimp only
  repeat' (first | with_reducible assumption | with_reducible apply kept_after | with_reducible apply kept_capsuleStep)

theorem kept_execVolumeInfo {s : State} {a0} : ∃ u, execVolumeInfo a0 s = .next u ∧ Kept s u := by
  refine ⟨_, rfl, ?_⟩
  have h := kept_rfl s
  try dsimp only
  repeat' (first | with_reducible assumption | with_reducible apply kept_after | with_reducible apply kept_capsuleStep)

theorem kept_abortStep {s t : State} {a0} (h : Kept s t) : Kept s (abortStep a0 t) := by
  unfold abortStep
  try dsimp only
  repeat' (first | with_reducible assumption | with_reducible apply kept_capsuleStep | with_reducible apply kept_startCmd | (with_reducible refine kept_ite (fun _ => ?_) (fun _ => ?_)) | split)

theorem kept_execAbort {s : State} {a0} : ∃ u, execAbort a0 s = .next u ∧ Kept s u := by
  refine ⟨_, rfl, ?_⟩
  have h := kept_rfl s
  try dsimp only
  repeat' (first | with_reducible assumption | with_reducible apply kept_after | with_reducible apply kept_abortStep)

theorem kept_execOrphanStatus {s : State} {a0} : ∃ u, execOrphanStatus a0 s = .next u ∧ Kept s u := by
  refine ⟨_, rfl, ?_⟩
  have h := kept_rfl s
  try dsimp only
  repeat' (first | with_reducible assumption | with_reducible apply kept_after | with_reducible apply kept_capsuleStep)

theorem kept_execSnapCreate {s : State} {a0} : ∃ u, execSnapCreate a0 s = .next u ∧ Kept s u := by
  refine ⟨_, rfl, ?_⟩
  have h := kept_rfl s
  try dsimp only
  repeat' (first | with_reducible assumption | with_reducible apply kept_after | with_reducible apply kept_capsuleStep)

theorem kept_execSnapDelete {s : State} {a0} : ∃ u, execSnapDelete a0 s = .next u ∧ Kept s u := by
  refine ⟨_, rfl, ?_⟩
  have h := kept_rfl s
  try dsimp only
  repeat' (first | with_reducible assumption | with_reducible apply kept_after | with_reducible apply kept_capsuleStep)

theorem kept_execSnapRead {s : State} {a0} : ∃ u, execSnapRead a0 s = .next u ∧ Kept s u := by
  refine ⟨_, rfl, ?_⟩
  have h := kept_rfl s
  try dsimp only
  repeat' (first | with_reducible assumption | with_reducible apply kept_after | with_reducible apply kept_capsuleStep)

theorem kept_execSnapFrameRead {s : State} {a0} : ∃ u, execSnapFrameRead a0 s = .next u ∧ Kept s u := by
  refine ⟨_, rfl, ?_⟩
  have h := kept_rfl s
  try dsimp only
  repeat' (first | with_reducible assumption | with_reducible apply kept_after | with_reducible apply kept_capsuleStep)

theorem kept_execSnapList {s : State} {a0} : ∃ u, execSnapList a0 s = .next u ∧ Kept s u := by
  refine ⟨_, rfl, ?_⟩
  have h := kept_rfl s
  try dsimp only
  repeat' (first | with_reducible assumption | with_reducible apply kept_after | with_reducible apply kept_capsuleStep)

theorem kept_execReplPoint {s : State} {a0} : ∃ u, execReplPoint a0 s = .next u ∧ Kept s u := by
  refine ⟨_, rfl, ?_⟩
  have h := kept_rfl s
  try dsimp only
  repeat' (first | with_reducible assumption | with_reducible apply kept_after | with_reducible apply kept_capsuleStep)

theorem kept_execReplInfo {s : State} {a0} : ∃ u, execReplInfo a0 s = .next u ∧ Kept s u := by
  refine ⟨_, rfl, ?_⟩
  have h := kept_rfl s
  try dsimp only
  repeat' (first | with_reducible assumption | with_reducible apply kept_after | with_reducible apply kept_capsuleStep)

theorem kept_execReplPromote {s : State} {a0} : ∃ u, execReplPromote a0 s = .next u ∧ Kept s u := by
  refine ⟨_, rfl, ?_⟩
  have h := kept_rfl s
  try dsimp only
  repeat' (first | with_reducible assumption | with_reducible apply kept_after | with_reducible apply kept_capsuleStep)

theorem kept_execReplBegin {s : State} {a0} : ∃ u, execReplBegin a0 s = .next u ∧ Kept s u := by
  refine ⟨_, rfl, ?_⟩
  have h := kept_rfl s
  try dsimp only
  repeat' (first | with_reducible assumption | with_reducible apply kept_after | with_reducible apply kept_capsuleStep)

theorem kept_execReplData {s : State} {a0} : ∃ u, execReplData a0 s = .next u ∧ Kept s u := by
  refine ⟨_, rfl, ?_⟩
  have h := kept_rfl s
  try dsimp only
  repeat' (first | with_reducible assumption | with_reducible apply kept_after | with_reducible apply kept_capsuleStep)

theorem kept_execReplEnd {s : State} {a0} : ∃ u, execReplEnd a0 s = .next u ∧ Kept s u := by
  refine ⟨_, rfl, ?_⟩
  have h := kept_rfl s
  try dsimp only
  repeat' (first | with_reducible assumption | with_reducible apply kept_after | with_reducible apply kept_capsuleStep)

theorem kept_execReplTakeDelete {s : State} {a0} : ∃ u, execReplTakeDelete a0 s = .next u ∧ Kept s u := by
  refine ⟨_, rfl, ?_⟩
  have h := kept_rfl s
  try dsimp only
  repeat' (first | with_reducible assumption | with_reducible apply kept_after | with_reducible apply kept_capsuleStep)

theorem kept_transferReadySend {s t : State} {a0 a1} (h : Kept s t) : Kept s (transferReadySend a0 a1 t) := by
  unfold transferReadySend
  try dsimp only
  repeat' (first | with_reducible assumption | with_reducible apply kept_nameWindow | (with_reducible refine kept_ite (fun _ => ?_) (fun _ => ?_)) | split)

theorem kept_execTransferReadySend {s : State} {a0 a1} : ∃ u, execTransferReadySend a0 a1 s = .next u ∧ Kept s u := by
  refine ⟨_, rfl, ?_⟩
  have h := kept_rfl s
  try dsimp only
  repeat' (first | with_reducible assumption | with_reducible apply kept_after | with_reducible apply kept_transferReadySend)

theorem kept_windowTimeout {s t : State} {a0} (h : Kept s t) : Kept s (windowTimeout a0 t) := by
  unfold windowTimeout
  try dsimp only
  repeat' (first | with_reducible assumption | with_reducible apply kept_dropWindows | with_reducible apply kept_finish | (with_reducible refine kept_foldl4 ?_ (fun u x h => ?_)) | (with_reducible refine kept_foldl3 ?_ (fun u x h => ?_)) | (with_reducible refine kept_foldl2 ?_ (fun u x h => ?_)) | (with_reducible refine kept_foldl ?_ (fun u x h => ?_)) | (with_reducible refine kept_ite (fun _ => ?_) (fun _ => ?_)) | split)

theorem kept_execWindowTimeout {s : State} {a0} : ∃ u, execWindowTimeout a0 s = .next u ∧ Kept s u := by
  refine ⟨_, rfl, ?_⟩
  have h := kept_rfl s
  try dsimp only
  repeat' (first | with_reducible assumption | with_reducible apply kept_after | with_reducible apply kept_windowTimeout)

theorem kept_execOrphanKeepExpiry {s : State} : ∃ u, execOrphanKeepExpiry s = .next u ∧ Kept s u := by
  refine ⟨_, rfl, ?_⟩
  have h := kept_rfl s
  try dsimp only
  repeat' (first | with_reducible assumption | with_reducible apply kept_onCmd)

end Sys2Proof.Machine
end

