-- ==== Sys2Proof/Laws/Kept/Access.lean ====
section
/-! SUPPORT. What the operations of Machine/Access.lean keep (`Kept`). -/

namespace Sys2Proof.Machine

theorem kept_access {s t : State} {a0 a1 a2 a3 a4} (h : Kept s t) (k : ∀ u, Kept s u → Kept s (a4 u)) : Kept s (access a0 a1 a2 a3 a4 t) := by
  unfold access
  try dsimp only
  repeat' (first | with_reducible assumption | apply k | with_reducible apply kept_accessError | split)

theorem kept_accessWrite {s t : State} {a0 a1 a2} (h : Kept s t) (k : ∀ u, Kept s u → Kept s (a2 u)) : Kept s (accessWrite a0 a1 a2 t) := by
  unfold accessWrite
  try dsimp only
  repeat' (first | with_reducible assumption | apply k | (with_reducible refine kept_access ?_ (fun u h => ?_)))

end Sys2Proof.Machine
end

