-- ==== Sys2Proof/Laws/Kept/Datapath.lean ====
section
/-! SUPPORT. What the operations of Machine/Datapath.lean keep (`Kept`). -/

namespace Sys2Proof.Machine

theorem kept_cipFault {s t : State} {a0} (h : Kept s t) : Kept s (cipFault a0 t) := by
  unfold cipFault
  try dsimp only
  repeat' (first | with_reducible assumption | with_reducible apply kept_note | with_reducible apply kept_onCip | (with_reducible refine kept_ite (fun _ => ?_) (fun _ => ?_)))

theorem kept_cmpFault {s t : State} {a0} (h : Kept s t) : Kept s (cmpFault a0 t) := by
  unfold cmpFault
  try dsimp only
  repeat' (first | with_reducible assumption | with_reducible apply kept_note | with_reducible apply kept_onCmp | (with_reducible refine kept_ite (fun _ => ?_) (fun _ => ?_)))

theorem kept_dropFrags {s t : State} {a0} (h : Kept s t) : Kept s (dropFrags a0 t) := by
  unfold dropFrags
  try dsimp only
  repeat' (first | with_reducible assumption | with_reducible apply kept_onIng | split)

theorem kept_engineFault {s t : State} {a0 a1} (h : Kept s t) : Kept s (engineFault a0 a1 t) := by
  unfold engineFault
  try dsimp only
  repeat' (first | with_reducible assumption | with_reducible apply kept_onCip | with_reducible apply kept_cipFault | with_reducible apply kept_cmpFault | (with_reducible refine kept_ite (fun _ => ?_) (fun _ => ?_)))

theorem kept_bufferBlock {s t : State} {a0 a1 a2 a3} (h : Kept s t) : Kept s (bufferBlock a0 a1 a2 a3 t) := by
  unfold bufferBlock
  try dsimp only
  repeat' (first | with_reducible assumption | with_reducible apply kept_cmpCount | with_reducible apply kept_dropFrags | with_reducible apply kept_chg | with_reducible apply kept_failCmd | with_reducible apply kept_onIng | with_reducible apply kept_joinDraft | with_reducible apply kept_fpDecide | (with_reducible refine kept_snd (by assumption) (kept_fpDecide ?_)) | (with_reducible refine kept_ite (fun _ => ?_) (fun _ => ?_)) | split)

theorem kept_ingestBlock {s t : State} {a0 a1 a2 a3 a4} (h : Kept s t) : Kept s (ingestBlock a0 a1 a2 a3 a4 t) := by
  unfold ingestBlock
  try dsimp only
  repeat' (first | with_reducible assumption | with_reducible apply kept_onIng | with_reducible apply kept_bufferBlock | with_reducible apply kept_engineFault | with_reducible apply kept_dropFrags | with_reducible apply kept_stageFail | (with_reducible refine kept_ite (fun _ => ?_) (fun _ => ?_)) | split)

theorem kept_execIngestBlockDone {s : State} {a0 a1 a2 a3 a4} : ∃ u, execIngestBlockDone a0 a1 a2 a3 a4 s = .next u ∧ Kept s u := by
  refine ⟨_, rfl, ?_⟩
  have h := kept_rfl s
  try dsimp only
  repeat' (first | with_reducible assumption | with_reducible apply kept_after | with_reducible apply kept_ingestBlock | (with_reducible refine kept_ite (fun _ => ?_) (fun _ => ?_)))

theorem kept_execCmpJobSubmit {s : State} {a0} : ∃ u, execCmpJobSubmit a0 s = .next u ∧ Kept s u := by
  refine ⟨_, rfl, ?_⟩
  have h := kept_rfl s
  try dsimp only
  repeat' (first | with_reducible assumption | with_reducible apply kept_onCmp | (with_reducible refine kept_ite (fun _ => ?_) (fun _ => ?_)))

theorem kept_cmpJobDone {s t : State} {a0 a1} (h : Kept s t) : Kept s (cmpJobDone a0 a1 t) := by
  unfold cmpJobDone
  try dsimp only
  repeat' (first | with_reducible assumption | with_reducible apply kept_cmpCount | with_reducible apply kept_onCmp | (with_reducible refine kept_foldl ?_ (fun u x h => ?_)) | (with_reducible refine kept_ite (fun _ => ?_) (fun _ => ?_)) | split)

theorem kept_execCmpJobDone {s : State} {a0 a1} : ∃ u, execCmpJobDone a0 a1 s = .next u ∧ Kept s u := by
  refine ⟨_, rfl, ?_⟩
  have h := kept_rfl s
  try dsimp only
  repeat' (first | with_reducible assumption | with_reducible apply kept_cmpJobDone)

theorem kept_fprRebuildWrite {s t : State} {a0} (h : Kept s t) : Kept s (fprRebuildWrite a0 t) := by
  unfold fprRebuildWrite
  try dsimp only
  repeat' (first | with_reducible assumption | with_reducible apply kept_fpRebuild | (with_reducible refine kept_ite (fun _ => ?_) (fun _ => ?_)))

theorem kept_execFprRebuild {s : State} {a0 a1} : ∃ u, execFprRebuild a0 a1 s = .next u ∧ Kept s u := by
  refine ⟨_, rfl, ?_⟩
  have h := kept_rfl s
  try dsimp only
  repeat' (first | with_reducible assumption | (with_reducible refine kept_accessWrite ?_ (fun u h => ?_)) | with_reducible apply kept_fprRebuildWrite)

theorem kept_execFilterRebuildDone {s : State} : ∃ u, execFilterRebuildDone s = .next u ∧ Kept s u := by
  refine ⟨_, rfl, ?_⟩
  have h := kept_rfl s
  try dsimp only
  repeat' (first | with_reducible assumption | with_reducible apply kept_onFpr | (with_reducible refine kept_ite (fun _ => ?_) (fun _ => ?_)))

theorem kept_kbusEnd {s t : State} {a0 a1 a2} (h : Kept s t) : Kept s (kbusEnd a0 a1 a2 t) := by
  unfold kbusEnd
  try dsimp only
  repeat' (first | with_reducible assumption | with_reducible apply kept_onCip)

theorem kept_kbusRefuse {s t : State} {a0 a1} (h : Kept s t) : Kept s (kbusRefuse a0 a1 t) := by
  unfold kbusRefuse
  try dsimp only
  repeat' (first | with_reducible assumption | with_reducible apply kept_note | with_reducible apply kept_kbusEnd)

theorem kept_gcmFail {s t : State} {a0} (h : Kept s t) : Kept s (gcmFail a0 t) := by
  unfold gcmFail
  try dsimp only
  repeat' (first | with_reducible assumption | with_reducible apply kept_gcmEnd | with_reducible apply kept_chunkFailed | split)

theorem kept_ctxLost {s t : State} {a0} (h : Kept s t) : Kept s (ctxLost a0 t) := by
  unfold ctxLost
  try dsimp only
  repeat' (first | with_reducible assumption | with_reducible apply kept_gcmFail | with_reducible apply kept_note | with_reducible apply kept_onCip)

theorem kept_slotGone {s t : State} {a0} (h : Kept s t) : Kept s (slotGone a0 t) := by
  unfold slotGone
  try dsimp only
  repeat' (first | with_reducible assumption | with_reducible apply kept_note | with_reducible apply kept_onPrt | with_reducible apply kept_plSessionEnd | with_reducible apply kept_ctxLost | with_reducible apply kept_gcmFail | (with_reducible refine kept_foldl ?_ (fun u x h => ?_)) | (with_reducible refine kept_ite (fun _ => ?_) (fun _ => ?_)))

theorem kept_kbusCmd {s t : State} {a0 a1} (h : Kept s t) : Kept s (kbusCmd a0 a1 t) := by
  unfold kbusCmd
  try dsimp only
  repeat' (first | with_reducible assumption | with_reducible apply kept_accessError | with_reducible apply kept_onCip | with_reducible apply kept_kbusEnd | with_reducible apply kept_slotGone | with_reducible apply kept_kbusRefuse | (with_reducible refine kept_ite (fun _ => ?_) (fun _ => ?_)) | split)

theorem kept_execKeyLoad {s : State} {a0 a1} : ∃ u, execKeyLoad a0 a1 s = .next u ∧ Kept s u := by
  refine ⟨_, rfl, ?_⟩
  have h := kept_rfl s
  try dsimp only
  repeat' (first | with_reducible assumption | (with_reducible refine kept_accessWrite ?_ (fun u h => ?_)) | with_reducible apply kept_kbusCmd)

theorem kept_execKeyErase {s : State} {a0 a1} : ∃ u, execKeyErase a0 a1 s = .next u ∧ Kept s u := by
  refine ⟨_, rfl, ?_⟩
  have h := kept_rfl s
  try dsimp only
  repeat' (first | with_reducible assumption | with_reducible apply kept_after | (with_reducible refine kept_accessWrite ?_ (fun u h => ?_)) | with_reducible apply kept_kbusCmd)

theorem kept_keyLoadDone {s t : State} {a0} (h : Kept s t) : Kept s (keyLoadDone a0 t) := by
  unfold keyLoadDone
  try dsimp only
  repeat' (first | with_reducible assumption | with_reducible apply kept_msrExtend | with_reducible apply kept_note | with_reducible apply kept_kbusEnd | with_reducible apply kept_onCip | with_reducible apply kept_kbusRefuse | (with_reducible refine kept_ite (fun _ => ?_) (fun _ => ?_)) | split)

theorem kept_execKeyLoadDone {s : State} {a0} : ∃ u, execKeyLoadDone a0 s = .next u ∧ Kept s u := by
  refine ⟨_, rfl, ?_⟩
  have h := kept_rfl s
  try dsimp only
  repeat' (first | with_reducible assumption | with_reducible apply kept_after | with_reducible apply kept_keyLoadDone)

theorem kept_execKeyEraseDone {s : State} {a0} : ∃ u, execKeyEraseDone a0 s = .next u ∧ Kept s u := by
  refine ⟨_, rfl, ?_⟩
  have h := kept_rfl s
  try dsimp only
  repeat' (first | with_reducible assumption | with_reducible apply kept_note | with_reducible apply kept_kbusEnd | with_reducible apply kept_onCip | (with_reducible refine kept_ite (fun _ => ?_) (fun _ => ?_)))

theorem kept_contextSave {s t : State} {a0} (h : Kept s t) : Kept s (contextSave a0 t) := by
  unfold contextSave
  try dsimp only
  repeat' (first | with_reducible assumption | with_reducible apply kept_fillLanes | with_reducible apply kept_onCip | (with_reducible refine kept_ite (fun _ => ?_) (fun _ => ?_)) | split)

theorem kept_execCipContextSave {s : State} {a0} : ∃ u, execCipContextSave a0 s = .next u ∧ Kept s u := by
  refine ⟨_, rfl, ?_⟩
  have h := kept_rfl s
  try dsimp only
  repeat' (first | with_reducible assumption | with_reducible apply kept_contextSave)

theorem kept_contextResume {s t : State} {a0 a1} (h : Kept s t) : Kept s (contextResume a0 a1 t) := by
  unfold contextResume
  try dsimp only
  repeat' (first | with_reducible assumption | with_reducible apply kept_onCip | (with_reducible refine kept_ite (fun _ => ?_) (fun _ => ?_)) | split)

theorem kept_execCipContextResume {s : State} {a0 a1} : ∃ u, execCipContextResume a0 a1 s = .next u ∧ Kept s u := by
  refine ⟨_, rfl, ?_⟩
  have h := kept_rfl s
  try dsimp only
  repeat' (first | with_reducible assumption | with_reducible apply kept_contextResume)

theorem kept_execFabCtrlWrite {s : State} {a0 a1} : ∃ u, execFabCtrlWrite a0 a1 s = .next u ∧ Kept s u := by
  refine ⟨_, rfl, ?_⟩
  have h := kept_rfl s
  try dsimp only
  repeat' (first | with_reducible assumption | with_reducible apply kept_after | (with_reducible refine kept_accessWrite ?_ (fun u h => ?_)) | with_reducible apply kept_fabCtrl)

end Sys2Proof.Machine
end

