-- ==== Sys2Proof/Laws/Kept/LogApply.lean ====
section
/-! SUPPORT. What the operations of Machine/LogApply.lean keep (`Kept`). -/

namespace Sys2Proof.Machine

theorem kept_onSegBlks {s t : State} {a0 a1 a2} (h : Kept s t) : Kept s (onSegBlks a0 a1 a2 t) := by
  unfold onSegBlks
  try dsimp only
  repeat' (first | with_reducible assumption | with_reducible apply kept_onBlk | (with_reducible refine kept_foldl ?_ (fun u x h => ?_)) | split)

theorem kept_topSeen {s t : State} {a0 a1} (h : Kept s t) : Kept s (topSeen a0 a1 t) := by
  unfold topSeen
  try dsimp only
  repeat' (first | with_reducible assumption | (with_reducible refine kept_onFtl_same ?_ (fun _ => rfl) (fun _ => rfl)) | (with_reducible refine kept_onFtl ?_ ?_) | exact fun x => ⟨x.1, x.2.1, tabDel_nodup x.2.2.1, fun e he => x.2.2.2 e (mem_tabDel he)⟩ | exact fun x => ⟨x.1, x.2.1, tabPut_nodup x.2.2.1, fun e he => (mem_tabPut he).elim (fun q => q ▸ by assumption) (x.2.2.2 e)⟩ | exact fun _ => canonical_empty rfl rfl | (intro hx; (try dsimp only); split <;> exact hx))

theorem kept_applySegment {s t : State} {a0 a1 a2 a3 a4 a5} (h : Kept s t) : Kept s (applySegment a0 a1 a2 a3 a4 a5 t) := by
  unfold applySegment
  try dsimp only
  repeat' (first | with_reducible assumption | with_reducible apply kept_topSeen | with_reducible apply kept_onBlk | with_reducible apply kept_onSeg | with_reducible apply kept_onSegBlks | (with_reducible refine kept_ite (fun _ => ?_) (fun _ => ?_)) | split)

theorem kept_applyValid {s t : State} {a0 a1 a2 a3} (h : Kept s t) : Kept s (applyValid a0 a1 a2 a3 t) := by
  unfold applyValid
  try dsimp only
  repeat' (first | with_reducible assumption | with_reducible apply kept_onSegBlks | with_reducible apply kept_onSeg | with_reducible apply kept_topSeen | (with_reducible refine kept_ite (fun _ => ?_) (fun _ => ?_)))

theorem kept_applyTakeSegs {s t : State} {a0 a1 a2} (h : Kept s t) : Kept s (applyTakeSegs a0 a1 a2 t) := by
  unfold applyTakeSegs
  try dsimp only
  repeat' (first | with_reducible assumption | (with_reducible refine kept_onFtl_same ?_ (fun _ => rfl) (fun _ => rfl)) | (with_reducible refine kept_onFtl ?_ ?_) | exact fun x => ⟨x.1, x.2.1, tabDel_nodup x.2.2.1, fun e he => x.2.2.2 e (mem_tabDel he)⟩ | exact fun x => ⟨x.1, x.2.1, tabPut_nodup x.2.2.1, fun e he => (mem_tabPut he).elim (fun q => q ▸ by assumption) (x.2.2.2 e)⟩ | exact fun _ => canonical_empty rfl rfl | (intro hx; (try dsimp only); split <;> exact hx) | with_reducible apply kept_onSeg | (with_reducible refine kept_foldl4 ?_ (fun u x h => ?_)) | (with_reducible refine kept_foldl3 ?_ (fun u x h => ?_)) | (with_reducible refine kept_foldl2 ?_ (fun u x h => ?_)) | (with_reducible refine kept_foldl ?_ (fun u x h => ?_)) | (with_reducible refine kept_ite (fun _ => ?_) (fun _ => ?_)) | split)

theorem kept_applyTake {s t : State} {a0 a1 a2} (h : Kept s t) : Kept s (applyTake a0 a1 a2 t) := by
  unfold applyTake
  try dsimp only
  repeat' (first | with_reducible assumption | (with_reducible refine kept_onFtl_same ?_ (fun _ => rfl) (fun _ => rfl)) | (with_reducible refine kept_onFtl ?_ ?_) | exact fun x => ⟨x.1, x.2.1, tabDel_nodup x.2.2.1, fun e he => x.2.2.2 e (mem_tabDel he)⟩ | exact fun x => ⟨x.1, x.2.1, tabPut_nodup x.2.2.1, fun e he => (mem_tabPut he).elim (fun q => q ▸ by assumption) (x.2.2.2 e)⟩ | exact fun _ => canonical_empty rfl rfl | (intro hx; (try dsimp only); split <;> exact hx) | with_reducible apply kept_onRpl | (with_reducible refine kept_foldl4 ?_ (fun u x h => ?_)) | (with_reducible refine kept_foldl3 ?_ (fun u x h => ?_)) | (with_reducible refine kept_foldl2 ?_ (fun u x h => ?_)) | (with_reducible refine kept_foldl ?_ (fun u x h => ?_)) | (with_reducible refine kept_ite (fun _ => ?_) (fun _ => ?_)) | split)

theorem kept_applyFrame {s t : State} {a0 a1 a2} (h : Kept s t) : Kept s (applyFrame a0 a1 a2 t) := by
  unfold applyFrame
  try dsimp only
  repeat' (first | with_reducible assumption | (with_reducible refine kept_onFtl_same ?_ (fun _ => rfl) (fun _ => rfl)) | (with_reducible refine kept_onFtl ?_ ?_) | exact fun x => ⟨x.1, x.2.1, tabDel_nodup x.2.2.1, fun e he => x.2.2.2 e (mem_tabDel he)⟩ | exact fun x => ⟨x.1, x.2.1, tabPut_nodup x.2.2.1, fun e he => (mem_tabPut he).elim (fun q => q ▸ by assumption) (x.2.2.2 e)⟩ | exact fun _ => canonical_empty rfl rfl | (intro hx; (try dsimp only); split <;> exact hx) | (with_reducible refine kept_foldl4 ?_ (fun u x h => ?_)) | (with_reducible refine kept_foldl3 ?_ (fun u x h => ?_)) | (with_reducible refine kept_foldl2 ?_ (fun u x h => ?_)) | (with_reducible refine kept_foldl ?_ (fun u x h => ?_)) | (with_reducible refine kept_ite (fun _ => ?_) (fun _ => ?_)) | split)

theorem kept_applySnap {s t : State} {a0} (h : Kept s t) : Kept s (applySnap a0 t) := by
  unfold applySnap
  try dsimp only
  repeat' (first | with_reducible assumption | with_reducible apply kept_onRpl | (with_reducible refine kept_ite (fun _ => ?_) (fun _ => ?_)) | split)

theorem kept_applyPage {s t : State} {a0 a1 a2 a3} (h : Kept s t) : Kept s (applyPage a0 a1 a2 a3 t) := by
  unfold applyPage
  try dsimp only
  repeat' (first | with_reducible assumption | with_reducible apply kept_putWord | with_reducible apply kept_onRpl | (with_reducible refine kept_foldl ?_ (fun u x h => ?_)) | (with_reducible refine kept_ite (fun _ => ?_) (fun _ => ?_)))

theorem kept_logSeen {s t : State} {a0 a1 a2} (h : Kept s t) : Kept s (logSeen a0 a1 a2 t) := by
  unfold logSeen
  try dsimp only
  repeat' (first | with_reducible assumption | with_reducible apply kept_onLog | (with_reducible refine kept_foldl ?_ (fun u x h => ?_)))

theorem kept_applyEntry {s t : State} {a0 a1} (h : Kept s t) : Kept s (applyEntry a0 a1 t).2 := by
  unfold applyEntry
  try dsimp only
  repeat' (first | with_reducible assumption | with_reducible apply kept_putWord | (with_reducible refine kept_onFtl_same ?_ (fun _ => rfl) (fun _ => rfl)) | (with_reducible refine kept_onFtl ?_ ?_) | exact fun x => ⟨x.1, x.2.1, tabDel_nodup x.2.2.1, fun e he => x.2.2.2 e (mem_tabDel he)⟩ | exact fun x => ⟨x.1, x.2.1, tabPut_nodup x.2.2.1, fun e he => (mem_tabPut he).elim (fun q => q ▸ by assumption) (x.2.2.2 e)⟩ | exact fun _ => canonical_empty rfl rfl | (intro hx; (try dsimp only); split <;> exact hx) | with_reducible apply kept_applySegment | with_reducible apply kept_applyTake | with_reducible apply kept_applyValid | with_reducible apply kept_applySnap | (with_reducible refine kept_ite (fun _ => ?_) (fun _ => ?_)) | (with_reducible refine kept_ite2 (fun _ => ?_) (fun _ => ?_)) | split)

theorem kept_applyLog {s t : State} {a0} (h : Kept s t) : Kept s (applyLog a0 t) := by
  unfold applyLog
  try dsimp only
  repeat' (first | with_reducible assumption | with_reducible apply kept_applyEntry | (with_reducible refine kept_snd (by assumption) (kept_applyEntry ?_)) | with_reducible apply kept_logSeen | with_reducible apply kept_onPrt | with_reducible apply kept_applyPage | with_reducible apply kept_applyFrame | with_reducible apply kept_applyTakeSegs | (with_reducible refine kept_foldl4 ?_ (fun u x h => ?_)) | (with_reducible refine kept_foldl3 ?_ (fun u x h => ?_)) | (with_reducible refine kept_foldl2 ?_ (fun u x h => ?_)) | (with_reducible refine kept_foldl ?_ (fun u x h => ?_)) | (with_reducible refine kept_ite (fun _ => ?_) (fun _ => ?_)) | split)

theorem kept_recountValid {s t : State} (h : Kept s t) : Kept s (recountValid t) := by
  unfold recountValid
  try dsimp only
  repeat' (first | with_reducible assumption | (with_reducible refine kept_onFtl_same ?_ (fun _ => rfl) (fun _ => rfl)) | (with_reducible refine kept_onFtl ?_ ?_) | exact fun x => ⟨x.1, x.2.1, tabDel_nodup x.2.2.1, fun e he => x.2.2.2 e (mem_tabDel he)⟩ | exact fun x => ⟨x.1, x.2.1, tabPut_nodup x.2.2.1, fun e he => (mem_tabPut he).elim (fun q => q ▸ by assumption) (x.2.2.2 e)⟩ | exact fun _ => canonical_empty rfl rfl | (intro hx; (try dsimp only); split <;> exact hx) | with_reducible apply kept_addValid | (with_reducible refine kept_foldl4 ?_ (fun u x h => ?_)) | (with_reducible refine kept_foldl3 ?_ (fun u x h => ?_)) | (with_reducible refine kept_foldl2 ?_ (fun u x h => ?_)) | (with_reducible refine kept_foldl ?_ (fun u x h => ?_)) | (with_reducible refine kept_ite (fun _ => ?_) (fun _ => ?_)))

theorem kept_peerEntry {s t : State} {a0} (h : Kept s t) : Kept s (peerEntry a0 t) := by
  unfold peerEntry
  try dsimp only
  repeat' (first | with_reducible assumption | with_reducible apply kept_onJnl | (with_reducible refine kept_ite (fun _ => ?_) (fun _ => ?_)))

theorem kept_takeEntries {s t : State} {a0} (h : Kept s t) : Kept s (takeEntries a0 t) := by
  unfold takeEntries
  try dsimp only
  repeat' (first | with_reducible assumption | with_reducible apply kept_onJnl | (with_reducible refine kept_foldl ?_ (fun u x h => ?_)) | (with_reducible refine kept_ite (fun _ => ?_) (fun _ => ?_)) | split)

end Sys2Proof.Machine
end

