-- ==== Sys2Proof/Laws/Kept/Format.lean ====
section
/-! SUPPORT. What the operations of Machine/Format.lean keep (`Kept`). -/

namespace Sys2Proof.Machine

theorem kept_ftlFormat {s t : State} {a0} (h : Kept s t) : Kept s (ftlFormat a0 t) := by
  unfold ftlFormat
  try dsimp only
  repeat' (first | with_reducible assumption | (with_reducible refine kept_onFtl_same ?_ (fun _ => rfl) (fun _ => rfl)) | (with_reducible refine kept_onFtl ?_ ?_) | exact fun x => ⟨x.1, x.2.1, tabDel_nodup x.2.2.1, fun e he => x.2.2.2 e (mem_tabDel he)⟩ | exact fun x => ⟨x.1, x.2.1, tabPut_nodup x.2.2.1, fun e he => (mem_tabPut he).elim (fun q => q ▸ by assumption) (x.2.2.2 e)⟩ | exact fun _ => canonical_empty rfl rfl | (intro hx; (try dsimp only); split <;> exact hx) | with_reducible apply kept_oslBadList | (with_reducible refine kept_foldl ?_ (fun u x h => ?_)) | (with_reducible refine kept_ite (fun _ => ?_) (fun _ => ?_)))

theorem kept_execFtlFormat {s : State} {a0 a1} : ∃ u, execFtlFormat a0 a1 s = .next u ∧ Kept s u := by
  refine ⟨_, rfl, ?_⟩
  have h := kept_rfl s
  try dsimp only
  repeat' (first | with_reducible assumption | with_reducible apply kept_after | (with_reducible refine kept_accessWrite ?_ (fun u h => ?_)) | with_reducible apply kept_ftlFormat)

theorem kept_formatUnit {s t : State} {a0} (h : Kept s t) : Kept s (formatUnit a0 t) := by
  unfold formatUnit
  try dsimp only
  repeat' (first | with_reducible assumption | (with_reducible refine kept_onFtl_same ?_ (fun _ => rfl) (fun _ => rfl)) | (with_reducible refine kept_onFtl ?_ ?_) | exact fun x => ⟨x.1, x.2.1, tabDel_nodup x.2.2.1, fun e he => x.2.2.2 e (mem_tabDel he)⟩ | exact fun x => ⟨x.1, x.2.1, tabPut_nodup x.2.2.1, fun e he => (mem_tabPut he).elim (fun q => q ▸ by assumption) (x.2.2.2 e)⟩ | exact fun _ => canonical_empty rfl rfl | (intro hx; (try dsimp only); split <;> exact hx) | with_reducible apply kept_onBlk | with_reducible apply kept_bindBlock | (with_reducible refine kept_foldl ?_ (fun u x h => ?_)) | (with_reducible refine kept_ite (fun _ => ?_) (fun _ => ?_)))

theorem kept_dropMaps {s t : State} (h : Kept s t) : Kept s (dropMaps t) := by
  unfold dropMaps
  try dsimp only
  repeat' (first | with_reducible assumption | with_reducible apply kept_onPar | with_reducible apply kept_onJnl | with_reducible apply kept_onRpl | (with_reducible refine kept_onFtl_same ?_ (fun _ => rfl) (fun _ => rfl)) | (with_reducible refine kept_onFtl ?_ ?_) | exact fun x => ⟨x.1, x.2.1, tabDel_nodup x.2.2.1, fun e he => x.2.2.2 e (mem_tabDel he)⟩ | exact fun x => ⟨x.1, x.2.1, tabPut_nodup x.2.2.1, fun e he => (mem_tabPut he).elim (fun q => q ▸ by assumption) (x.2.2.2 e)⟩ | exact fun _ => canonical_empty rfl rfl | (intro hx; (try dsimp only); split <;> exact hx) | (with_reducible refine kept_ite (fun _ => ?_) (fun _ => ?_)))

theorem kept_startReplay {s t : State} (h : Kept s t) : Kept s (startReplay t) := by
  unfold startReplay
  try dsimp only
  repeat' (first | with_reducible assumption | (with_reducible refine kept_onFtl_same ?_ (fun _ => rfl) (fun _ => rfl)) | (with_reducible refine kept_onFtl ?_ ?_) | exact fun x => ⟨x.1, x.2.1, tabDel_nodup x.2.2.1, fun e he => x.2.2.2 e (mem_tabDel he)⟩ | exact fun x => ⟨x.1, x.2.1, tabPut_nodup x.2.2.1, fun e he => (mem_tabPut he).elim (fun q => q ▸ by assumption) (x.2.2.2 e)⟩ | exact fun _ => canonical_empty rfl rfl | (intro hx; (try dsimp only); split <;> exact hx) | with_reducible apply kept_dropMaps)

theorem kept_reopenRows {s t : State} {a0} (h : Kept s t) : Kept s (reopenRows a0 t) := by
  unfold reopenRows
  try dsimp only
  repeat' (first | with_reducible assumption | with_reducible apply kept_onPar | (with_reducible refine kept_foldl4 ?_ (fun u x h => ?_)) | (with_reducible refine kept_foldl3 ?_ (fun u x h => ?_)) | (with_reducible refine kept_foldl2 ?_ (fun u x h => ?_)) | (with_reducible refine kept_foldl ?_ (fun u x h => ?_)) | (with_reducible refine kept_ite (fun _ => ?_) (fun _ => ?_)) | split)

theorem kept_closeReopened {s t : State} {a0} (h : Kept s t) : Kept s (closeReopened a0 t) := by
  unfold closeReopened
  try dsimp only
  repeat' (first | with_reducible assumption | with_reducible apply kept_closeRow | (with_reducible refine kept_foldl ?_ (fun u x h => ?_)) | (with_reducible refine kept_ite (fun _ => ?_) (fun _ => ?_)))

theorem kept_applyTags {s t : State} {a0 a1} (h : Kept s t) : Kept s (applyTags a0 a1 t) := by
  unfold applyTags
  try dsimp only
  repeat' (first | with_reducible assumption | with_reducible apply kept_setWord | (with_reducible refine kept_snd (by assumption) (kept_setWord ?_)) | (with_reducible refine kept_foldl4 ?_ (fun u x h => ?_)) | (with_reducible refine kept_foldl3 ?_ (fun u x h => ?_)) | (with_reducible refine kept_foldl2 ?_ (fun u x h => ?_)) | (with_reducible refine kept_foldl ?_ (fun u x h => ?_)) | (with_reducible refine kept_ite (fun _ => ?_) (fun _ => ?_)) | split)

theorem kept_startVersions {s t : State} (h : Kept s t) : Kept s (startVersions t) := by
  unfold startVersions
  try dsimp only
  repeat' (first | with_reducible assumption | with_reducible apply kept_startJob | (with_reducible refine kept_foldl4 ?_ (fun u x h => ?_)) | (with_reducible refine kept_foldl3 ?_ (fun u x h => ?_)) | (with_reducible refine kept_foldl2 ?_ (fun u x h => ?_)) | (with_reducible refine kept_foldl ?_ (fun u x h => ?_)) | split)

theorem kept_stepVersions {s t : State} {a0} (h : Kept s t) : Kept s (stepVersions a0 t) := by
  induction a0 generalizing t  with
  | zero =>
    unfold stepVersions
    repeat' (first | with_reducible assumption | with_reducible apply ih | with_reducible apply kept_applyTags | with_reducible apply kept_endJob | (with_reducible refine kept_foldl ?_ (fun u x h => ?_)) | split | (cases ‹_ + 1 = Nat.succ _›))
  | succ _ ih =>
    unfold stepVersions
    try dsimp only
    repeat' (first | with_reducible assumption | with_reducible apply ih | with_reducible apply kept_applyTags | with_reducible apply kept_endJob | (with_reducible refine kept_foldl ?_ (fun u x h => ?_)) | split | (cases ‹_ + 1 = Nat.succ _›))

theorem kept_resumeSegment {s t : State} {a0 a1} (h : Kept s t) : Kept s (resumeSegment a0 a1 t) := by
  unfold resumeSegment
  try dsimp only
  repeat' (first | with_reducible assumption | with_reducible apply kept_onSeg)

theorem kept_endSegment {s t : State} {a0 a1} (h : Kept s t) : Kept s (endSegment a0 a1 t) := by
  unfold endSegment
  try dsimp only
  repeat' (first | with_reducible assumption | with_reducible apply kept_freeNat | (with_reducible refine kept_snd (by assumption) (kept_freeNat ?_)) | with_reducible apply kept_onSeg | split)

theorem kept_resumeSegments {s t : State} {a0} (h : Kept s t) : Kept s (resumeSegments a0 t) := by
  unfold resumeSegments
  try dsimp only
  repeat' (first | with_reducible assumption | with_reducible apply kept_resumeSegment | with_reducible apply kept_closeSegment | with_reducible apply kept_onSeg | with_reducible apply kept_onTop | (with_reducible refine kept_foldl4 ?_ (fun u x h => ?_)) | (with_reducible refine kept_foldl3 ?_ (fun u x h => ?_)) | (with_reducible refine kept_foldl2 ?_ (fun u x h => ?_)) | (with_reducible refine kept_foldl ?_ (fun u x h => ?_)) | (with_reducible refine kept_ite (fun _ => ?_) (fun _ => ?_)))

theorem kept_resumeTakes {s t : State} {a0} (h : Kept s t) : Kept s (resumeTakes a0 t) := by
  unfold resumeTakes
  try dsimp only
  repeat' (first | with_reducible assumption | with_reducible apply kept_onTake | with_reducible apply kept_logItem | (with_reducible refine kept_snd (by assumption) (kept_logItem ?_)) | (with_reducible refine kept_foldl4 ?_ (fun u x h => ?_)) | (with_reducible refine kept_foldl3 ?_ (fun u x h => ?_)) | (with_reducible refine kept_foldl2 ?_ (fun u x h => ?_)) | (with_reducible refine kept_foldl ?_ (fun u x h => ?_)) | (with_reducible refine kept_ite (fun _ => ?_) (fun _ => ?_)) | split)

theorem kept_eraseUnnamed {s t : State} {a0} (h : Kept s t) : Kept s (eraseUnnamed a0 t) := by
  unfold eraseUnnamed
  try dsimp only
  repeat' (first | with_reducible assumption | with_reducible apply kept_eraseBlock | (with_reducible refine kept_snd (by assumption) (kept_eraseBlock ?_)) | with_reducible apply kept_onBlk | (with_reducible refine kept_foldl4 ?_ (fun u x h => ?_)) | (with_reducible refine kept_foldl3 ?_ (fun u x h => ?_)) | (with_reducible refine kept_foldl2 ?_ (fun u x h => ?_)) | (with_reducible refine kept_foldl ?_ (fun u x h => ?_)) | (with_reducible refine kept_ite (fun _ => ?_) (fun _ => ?_)))

theorem kept_eraseTrimmed {s t : State} {a0} (h : Kept s t) : Kept s (eraseTrimmed a0 t) := by
  unfold eraseTrimmed
  try dsimp only
  repeat' (first | with_reducible assumption | with_reducible apply kept_eraseBlock | (with_reducible refine kept_snd (by assumption) (kept_eraseBlock ?_)) | with_reducible apply kept_onSeg | (with_reducible refine kept_foldl4 ?_ (fun u x h => ?_)) | (with_reducible refine kept_foldl3 ?_ (fun u x h => ?_)) | (with_reducible refine kept_foldl2 ?_ (fun u x h => ?_)) | (with_reducible refine kept_foldl ?_ (fun u x h => ?_)) | split)

theorem kept_eraseStale {s t : State} (h : Kept s t) : Kept s (eraseStale t) := by
  unfold eraseStale
  try dsimp only
  repeat' (first | with_reducible assumption | with_reducible apply kept_eraseTrimmed | with_reducible apply kept_eraseUnnamed | (with_reducible refine kept_ite (fun _ => ?_) (fun _ => ?_)))

theorem kept_resumeReplication {s t : State} (h : Kept s t) : Kept s (resumeReplication t) := by
  unfold resumeReplication
  try dsimp only
  repeat' (first | with_reducible assumption | with_reducible apply kept_onSource | with_reducible apply kept_onReplica | (with_reducible refine kept_foldl4 ?_ (fun u x h => ?_)) | (with_reducible refine kept_foldl3 ?_ (fun u x h => ?_)) | (with_reducible refine kept_foldl2 ?_ (fun u x h => ?_)) | (with_reducible refine kept_foldl ?_ (fun u x h => ?_)) | (with_reducible refine kept_ite (fun _ => ?_) (fun _ => ?_)) | split)

theorem kept_resumeRebuilds {s t : State} (h : Kept s t) : Kept s (resumeRebuilds t) := by
  unfold resumeRebuilds
  try dsimp only
  repeat' (first | with_reducible assumption | with_reducible apply kept_recomputeHealth | with_reducible apply kept_onPar | (with_reducible refine kept_foldl4 ?_ (fun u x h => ?_)) | (with_reducible refine kept_foldl3 ?_ (fun u x h => ?_)) | (with_reducible refine kept_foldl2 ?_ (fun u x h => ?_)) | (with_reducible refine kept_foldl ?_ (fun u x h => ?_)) | (with_reducible refine kept_ite (fun _ => ?_) (fun _ => ?_)))

theorem kept_replayBlocks {s t : State} {a0 a1 a2} (h : Kept s t) : Kept s (replayBlocks a0 a1 a2 t) := by
  unfold replayBlocks
  refine kept_ite (fun _ => kept_note (kept_onFtl_same h (fun _ => rfl) fun _ => rfl)) (fun _ => ?_)
  refine kept_recomputeHealth (kept_onFtl_same ?_ (fun _ => rfl) fun _ => rfl)
  refine kept_resumeReplication (kept_resumeTakes (kept_resumeSegments (kept_eraseStale (kept_startVersions (kept_reopenRows ?_)))))
  refine kept_foldl ?_ fun u x h => ?_
  · exact kept_takeEntries (kept_recountValid (kept_onFtl_same (kept_foldl h fun u x h => kept_applyLog h) (fun _ => rfl) fun _ => rfl))
  · exact kept_ite (fun _ => kept_onSeg h) (fun _ => h)

theorem kept_stepReplay {s t : State} (h : Kept s t) : Kept s (stepReplay t) := by
  unfold stepReplay
  try dsimp only
  repeat' (first | with_reducible assumption | with_reducible apply kept_stepVersions | with_reducible apply kept_closeReopened | with_reducible apply kept_resumeRebuilds | (with_reducible refine kept_onFtl_same ?_ (fun _ => rfl) (fun _ => rfl)) | (with_reducible refine kept_onFtl ?_ ?_) | exact fun x => ⟨x.1, x.2.1, tabDel_nodup x.2.2.1, fun e he => x.2.2.2 e (mem_tabDel he)⟩ | exact fun x => ⟨x.1, x.2.1, tabPut_nodup x.2.2.1, fun e he => (mem_tabPut he).elim (fun q => q ▸ by assumption) (x.2.2.2 e)⟩ | exact fun _ => canonical_empty rfl rfl | (intro hx; (try dsimp only); split <;> exact hx) | (with_reducible refine kept_ite (fun _ => ?_) (fun _ => ?_)) | split)

theorem kept_replayDone {s t : State} {a0 a1 a2} (h : Kept s t) : Kept s (replayDone a0 a1 a2 t) := by
  unfold replayDone
  try dsimp only
  repeat' (first | with_reducible assumption | with_reducible apply kept_stepReplay | with_reducible apply kept_replayBlocks | (with_reducible refine kept_ite (fun _ => ?_) (fun _ => ?_)))

theorem kept_execMapSpillTimer {s : State} : ∃ u, execMapSpillTimer s = .next u ∧ Kept s u := by
  refine ⟨_, rfl, ?_⟩
  have h := kept_rfl s
  try dsimp only
  repeat' (first | with_reducible assumption | with_reducible apply kept_after | with_reducible apply kept_forceLog | (with_reducible refine kept_ite (fun _ => ?_) (fun _ => ?_)))

theorem kept_execGcVictimStart {s : State} {a0} : ∃ u, execGcVictimStart a0 s = .next u ∧ Kept s u := by
  refine ⟨_, rfl, ?_⟩
  have h := kept_rfl s
  try dsimp only
  repeat' (first | with_reducible assumption | with_reducible apply kept_after | with_reducible apply kept_startCollect | (with_reducible refine kept_ite (fun _ => ?_) (fun _ => ?_)))

theorem kept_execPartialWaitExpiry {s : State} {a0} : ∃ u, execPartialWaitExpiry a0 s = .next u ∧ Kept s u := by
  refine ⟨_, rfl, ?_⟩
  have h := kept_rfl s
  try dsimp only
  repeat' (first | with_reducible assumption | with_reducible apply kept_after | with_reducible apply kept_flushTop | (with_reducible refine kept_ite (fun _ => ?_) (fun _ => ?_)))

theorem kept_padWait {s t : State} {a0 a1} (h : Kept s t) : Kept s (padWait a0 a1 t) := by
  unfold padWait
  try dsimp only
  repeat' (first | with_reducible assumption | with_reducible apply kept_flushTake | (with_reducible refine kept_ite (fun _ => ?_) (fun _ => ?_)) | split)

theorem kept_execPadWaitExpiry {s : State} {a0 a1} : ∃ u, execPadWaitExpiry a0 a1 s = .next u ∧ Kept s u := by
  refine ⟨_, rfl, ?_⟩
  have h := kept_rfl s
  try dsimp only
  repeat' (first | with_reducible assumption | with_reducible apply kept_after | with_reducible apply kept_padWait)

theorem kept_execRowIdleCloseExpiry {s : State} {a0} : ∃ u, execRowIdleCloseExpiry a0 s = .next u ∧ Kept s u := by
  refine ⟨_, rfl, ?_⟩
  have h := kept_rfl s
  try dsimp only
  repeat' (first | with_reducible assumption | with_reducible apply kept_after | with_reducible apply kept_closeRow | (with_reducible refine kept_ite (fun _ => ?_) (fun _ => ?_)))

theorem kept_execJournalSpill {s : State} : ∃ u, execJournalSpill s = .next u ∧ Kept s u := by
  refine ⟨_, rfl, ?_⟩
  have h := kept_rfl s
  try dsimp only
  repeat' (first | with_reducible assumption | with_reducible apply kept_after | with_reducible apply kept_spillWaiting)

theorem kept_rebuildWait {s t : State} {a0} (h : Kept s t) : Kept s (rebuildWait a0 t) := by
  unfold rebuildWait
  try dsimp only
  repeat' (first | with_reducible assumption | with_reducible apply kept_onPar | (with_reducible refine kept_ite (fun _ => ?_) (fun _ => ?_)))

theorem kept_execRebuildWaitExpiry {s : State} {a0} : ∃ u, execRebuildWaitExpiry a0 s = .next u ∧ Kept s u := by
  refine ⟨_, rfl, ?_⟩
  have h := kept_rfl s
  try dsimp only
  repeat' (first | with_reducible assumption | with_reducible apply kept_after | with_reducible apply kept_rebuildWait)

theorem kept_execHemPatrolPace {s : State} : ∃ u, execHemPatrolPace s = .next u ∧ Kept s u := by
  refine ⟨_, rfl, ?_⟩
  have h := kept_rfl s
  try dsimp only
  repeat' (first | with_reducible assumption | with_reducible apply kept_after | with_reducible apply kept_patrolStep | (with_reducible refine kept_ite (fun _ => ?_) (fun _ => ?_)))

end Sys2Proof.Machine
end

