-- ==== Sys2Proof/Laws/Kept/Jobs.lean ====
section
/-! SUPPORT. What the operations of Machine/Jobs.lean keep (`Kept`). -/

namespace Sys2Proof.Machine

theorem kept_markDies {s t : State} {a0 a1} (h : Kept s t) : Kept s (markDies a0 a1 t) := by
  unfold markDies
  try dsimp only
  repeat' (first | with_reducible assumption | (with_reducible refine kept_onFtl_same ?_ (fun _ => rfl) (fun _ => rfl)) | (with_reducible refine kept_onFtl ?_ ?_) | exact fun x => ⟨x.1, x.2.1, tabDel_nodup x.2.2.1, fun e he => x.2.2.2 e (mem_tabDel he)⟩ | exact fun x => ⟨x.1, x.2.1, tabPut_nodup x.2.2.1, fun e he => (mem_tabPut he).elim (fun q => q ▸ by assumption) (x.2.2.2 e)⟩ | exact fun _ => canonical_empty rfl rfl | (intro hx; (try dsimp only); split <;> exact hx) | (with_reducible refine kept_foldl ?_ (fun u x h => ?_)))

theorem kept_handOver {s t : State} {a0} (h : Kept s t) : Kept s (handOver a0 t) := by
  unfold handOver
  try dsimp only
  repeat' (first | with_reducible assumption | with_reducible apply kept_onPort | with_reducible apply kept_jobRead | with_reducible apply kept_pageDone | (with_reducible refine kept_foldl4 ?_ (fun u x h => ?_)) | (with_reducible refine kept_foldl3 ?_ (fun u x h => ?_)) | (with_reducible refine kept_foldl2 ?_ (fun u x h => ?_)) | (with_reducible refine kept_foldl ?_ (fun u x h => ?_)) | split)

theorem kept_sledOut {s t : State} {a0} (h : Kept s t) : Kept s (sledOut a0 t) := by
  unfold sledOut
  try dsimp only
  repeat' (first | with_reducible assumption | with_reducible apply kept_recomputeHealth | with_reducible apply kept_handOver | with_reducible apply kept_markDies | (with_reducible refine kept_ite (fun _ => ?_) (fun _ => ?_)))

theorem kept_sledBack {s t : State} {a0} (h : Kept s t) : Kept s (sledBack a0 t) := by
  unfold sledBack
  try dsimp only
  repeat' (first | with_reducible assumption | with_reducible apply kept_onPar | with_reducible apply kept_markDies | with_reducible apply kept_recomputeHealth | with_reducible apply kept_startResync | with_reducible apply kept_onPort | (with_reducible refine kept_ite (fun _ => ?_) (fun _ => ?_)))

theorem kept_refreshSled {s t : State} {a0} (h : Kept s t) : Kept s (refreshSled a0 t) := by
  unfold refreshSled
  try dsimp only
  repeat' (first | with_reducible assumption | with_reducible apply kept_sledBack | with_reducible apply kept_sledOut | (with_reducible refine kept_ite (fun _ => ?_) (fun _ => ?_)))

theorem kept_bindSled {s t : State} {a0} (h : Kept s t) : Kept s (bindSled a0 t) := by
  unfold bindSled
  try dsimp only
  repeat' (first | with_reducible assumption | with_reducible apply kept_refreshSled | with_reducible apply kept_oslBind | with_reducible apply kept_onPort | (with_reducible refine kept_ite (fun _ => ?_) (fun _ => ?_)))

theorem kept_formatDone {s t : State} (h : Kept s t) : Kept s (formatDone t) := by
  unfold formatDone
  try dsimp only
  repeat' (first | with_reducible assumption | with_reducible apply kept_formatUnit | with_reducible apply kept_bindSled | with_reducible apply kept_note | with_reducible apply kept_recomputeHealth | (with_reducible refine kept_onFtl_same ?_ (fun _ => rfl) (fun _ => rfl)) | (with_reducible refine kept_onFtl ?_ ?_) | exact fun x => ⟨x.1, x.2.1, tabDel_nodup x.2.2.1, fun e he => x.2.2.2 e (mem_tabDel he)⟩ | exact fun x => ⟨x.1, x.2.1, tabPut_nodup x.2.2.1, fun e he => (mem_tabPut he).elim (fun q => q ▸ by assumption) (x.2.2.2 e)⟩ | exact fun _ => canonical_empty rfl rfl | (intro hx; (try dsimp only); split <;> exact hx) | (with_reducible refine kept_foldl4 ?_ (fun u x h => ?_)) | (with_reducible refine kept_foldl3 ?_ (fun u x h => ?_)) | (with_reducible refine kept_foldl2 ?_ (fun u x h => ?_)) | (with_reducible refine kept_foldl ?_ (fun u x h => ?_)) | (with_reducible refine kept_ite (fun _ => ?_) (fun _ => ?_)) | split)

end Sys2Proof.Machine
end

