-- ==== Sys2Proof/Laws/Kept/Shadow.lean ====
section
/-! SUPPORT. What the operations of Machine/Shadow.lean keep (`Kept`). -/

namespace Sys2Proof.Machine

theorem kept_onShCmd {s t : State} {a0 a1} (h : Kept s t) : Kept s (onShCmd a0 a1 t) := by
  unfold onShCmd
  try dsimp only
  repeat' (first | with_reducible assumption | with_reducible apply kept_onPrt)

theorem kept_shadowDrop {s t : State} {a0} (h : Kept s t) : Kept s (shadowDrop a0 t) := by
  unfold shadowDrop
  try dsimp only
  repeat' (first | with_reducible assumption | with_reducible apply kept_onPrt | with_reducible apply kept_onIng | (with_reducible refine kept_ite (fun _ => ?_) (fun _ => ?_)) | split)

theorem kept_shadowCkpt {s t : State} {a0 a1} (h : Kept s t) : Kept s (shadowCkpt a0 a1 t) := by
  unfold shadowCkpt
  try dsimp only
  repeat' (first | with_reducible assumption | with_reducible apply kept_onPrt | with_reducible apply kept_shadowDrop | (with_reducible refine kept_foldl4 ?_ (fun u x h => ?_)) | (with_reducible refine kept_foldl3 ?_ (fun u x h => ?_)) | (with_reducible refine kept_foldl2 ?_ (fun u x h => ?_)) | (with_reducible refine kept_foldl ?_ (fun u x h => ?_)) | (with_reducible refine kept_ite (fun _ => ?_) (fun _ => ?_)) | split)

theorem kept_shadowCmd {s t : State} {a0} (h : Kept s t) : Kept s (shadowCmd a0 t) := by
  unfold shadowCmd
  try dsimp only
  repeat' (first | with_reducible assumption | with_reducible apply kept_shadowDrop | with_reducible apply kept_onPrt | (with_reducible refine kept_ite (fun _ => ?_) (fun _ => ?_)) | split)

theorem kept_shadowWin {s t : State} {a0} (h : Kept s t) : Kept s (shadowWin a0 t) := by
  unfold shadowWin
  try dsimp only
  repeat' (first | with_reducible assumption | with_reducible apply kept_onShCmd | with_reducible apply kept_onPrt | (with_reducible refine kept_ite (fun _ => ?_) (fun _ => ?_)))

theorem kept_shadowOut {s t : State} {a0} (h : Kept s t) : Kept s (shadowOut a0 t) := by
  unfold shadowOut
  try dsimp only
  repeat' (first | with_reducible assumption | with_reducible apply kept_onPrt | with_reducible apply kept_onShCmd | (with_reducible refine kept_ite (fun _ => ?_) (fun _ => ?_)))

theorem kept_shadowConn {s t : State} {a0} (h : Kept s t) : Kept s (shadowConn a0 t) := by
  unfold shadowConn
  try dsimp only
  repeat' (first | with_reducible assumption | with_reducible apply kept_onPrt | (with_reducible refine kept_ite (fun _ => ?_) (fun _ => ?_)))

theorem kept_shadowDiscard {s t : State} {a0} (h : Kept s t) : Kept s (shadowDiscard a0 t) := by
  unfold shadowDiscard
  try dsimp only
  repeat' (first | with_reducible assumption | with_reducible apply kept_onIng)

theorem kept_shadowSeg {s t : State} {a0} (h : Kept s t) : Kept s (shadowSeg a0 t).2 := by
  unfold shadowSeg
  try dsimp only
  repeat' (first | with_reducible assumption | with_reducible apply kept_onIng | with_reducible apply kept_onPrt | (with_reducible refine kept_ite (fun _ => ?_) (fun _ => ?_)) | (with_reducible refine kept_ite2 (fun _ => ?_) (fun _ => ?_)) | split)

theorem kept_shadowRelease {s t : State} {a0} (h : Kept s t) : Kept s (shadowRelease a0 t) := by
  unfold shadowRelease
  try dsimp only
  repeat' (first | with_reducible assumption | with_reducible apply kept_onShCmd | with_reducible apply kept_shadowDrop | with_reducible apply kept_onIng | (with_reducible refine kept_foldl4 ?_ (fun u x h => ?_)) | (with_reducible refine kept_foldl3 ?_ (fun u x h => ?_)) | (with_reducible refine kept_foldl2 ?_ (fun u x h => ?_)) | (with_reducible refine kept_foldl ?_ (fun u x h => ?_)))

theorem kept_shadowMap {s t : State} {a0} (h : Kept s t) : Kept s (shadowMap a0 t) := by
  unfold shadowMap
  try dsimp only
  repeat' (first | with_reducible assumption | with_reducible apply kept_onPrt | with_reducible apply kept_applyLog | (with_reducible refine kept_foldl4 ?_ (fun u x h => ?_)) | (with_reducible refine kept_foldl3 ?_ (fun u x h => ?_)) | (with_reducible refine kept_foldl2 ?_ (fun u x h => ?_)) | (with_reducible refine kept_foldl ?_ (fun u x h => ?_)) | (with_reducible refine kept_ite (fun _ => ?_) (fun _ => ?_)))

theorem kept_shadowJnl {s t : State} {a0} (h : Kept s t) : Kept s (shadowJnl a0 t) := by
  unfold shadowJnl
  try dsimp only
  repeat' (first | with_reducible assumption | with_reducible apply kept_peerEntry | (with_reducible refine kept_foldl ?_ (fun u x h => ?_)))

theorem kept_shadowClear {s t : State} (h : Kept s t) : Kept s (shadowClear t) := by
  unfold shadowClear
  try dsimp only
  repeat' (first | with_reducible assumption | with_reducible apply kept_onIng | with_reducible apply kept_onPrt)

end Sys2Proof.Machine
end

