-- ==== Sys2Proof/Laws/Kept/Activate.lean ====
section
/-! SUPPORT. What the operations of Machine/Activate.lean keep (`Kept`). -/

namespace Sys2Proof.Machine

theorem kept_closeOpenSegs {s t : State} {a0} (h : Kept s t) : Kept s (closeOpenSegs a0 t) := by
  unfold closeOpenSegs
  try dsimp only
  repeat' (first | with_reducible assumption | with_reducible apply kept_endSegment | with_reducible apply kept_onSeg | with_reducible apply kept_closeSegment | (with_reducible refine kept_foldl4 ?_ (fun u x h => ?_)) | (with_reducible refine kept_foldl3 ?_ (fun u x h => ?_)) | (with_reducible refine kept_foldl2 ?_ (fun u x h => ?_)) | (with_reducible refine kept_foldl ?_ (fun u x h => ?_)) | (with_reducible refine kept_ite (fun _ => ?_) (fun _ => ?_)))

theorem kept_adoptMedia {s t : State} (h : Kept s t) : Kept s (adoptMedia t) := by
  unfold adoptMedia
  try dsimp only
  repeat' (first | with_reducible assumption | with_reducible apply kept_onJnl | with_reducible apply kept_takeEntries | with_reducible apply kept_resumeTakes | with_reducible apply kept_closeOpenSegs | with_reducible apply kept_reopenRows | with_reducible apply kept_recomputeHealth | with_reducible apply kept_eraseUnnamed | with_reducible apply kept_eraseTrimmed)

theorem kept_recoverMedia {s t : State} (h : Kept s t) : Kept s (recoverMedia t) := by
  unfold recoverMedia
  try dsimp only
  repeat' (first | with_reducible assumption | with_reducible apply kept_resumeRebuilds | with_reducible apply kept_closeReopened)

theorem kept_installCtx {s t : State} {a0 a1 a2} (h : Kept s t) : Kept s (installCtx a0 a1 a2 t) := by
  unfold installCtx
  try dsimp only
  repeat' (first | with_reducible assumption | with_reducible apply kept_note | with_reducible apply kept_onPrt | with_reducible apply kept_freeNat | (with_reducible refine kept_snd (by assumption) (kept_freeNat ?_)) | with_reducible apply kept_addCtx | (with_reducible refine kept_ite (fun _ => ?_) (fun _ => ?_)) | split)

theorem kept_resumeHost {s t : State} {a0} (h : Kept s t) : Kept s (resumeHost a0 t) := by
  unfold resumeHost
  try dsimp only
  repeat' (first | with_reducible assumption | with_reducible apply kept_sendLotNak | with_reducible apply kept_sendProbe | with_reducible apply kept_onCtxQuiet | with_reducible apply kept_sendNak | (with_reducible refine kept_ite (fun _ => ?_) (fun _ => ?_)) | split)

theorem kept_installWins {s t : State} {a0 a1 a2 a3 a4 a5} (h : Kept s t) : Kept s (installWins a0 a1 a2 a3 a4 a5 t) := by
  unfold installWins
  try dsimp only
  repeat' (first | with_reducible assumption | with_reducible apply kept_onCmd | (with_reducible refine kept_foldl4 ?_ (fun u x h => ?_)) | (with_reducible refine kept_foldl3 ?_ (fun u x h => ?_)) | (with_reducible refine kept_foldl2 ?_ (fun u x h => ?_)) | (with_reducible refine kept_foldl ?_ (fun u x h => ?_)) | (with_reducible refine kept_ite (fun _ => ?_) (fun _ => ?_)) | split)

theorem kept_promoteBlocks {s t : State} {a0 a1 a2 a3} (h : Kept s t) : Kept s (promoteBlocks a0 a1 a2 a3 t) := by
  unfold promoteBlocks
  try dsimp only
  repeat' (first | with_reducible assumption | with_reducible apply kept_bufferBlock | with_reducible apply kept_raise | with_reducible apply kept_onIng | with_reducible apply kept_chg | (with_reducible refine kept_foldl4 ?_ (fun u x h => ?_)) | (with_reducible refine kept_foldl3 ?_ (fun u x h => ?_)) | (with_reducible refine kept_foldl2 ?_ (fun u x h => ?_)) | (with_reducible refine kept_foldl ?_ (fun u x h => ?_)) | (with_reducible refine kept_ite (fun _ => ?_) (fun _ => ?_)) | split)

theorem kept_prepareWrite {s t : State} {a0 a1} (h : Kept s t) : Kept s (prepareWrite a0 a1 t) := by
  unfold prepareWrite
  try dsimp only
  repeat' (first | with_reducible assumption | with_reducible apply kept_reserve | with_reducible apply kept_takeSegment | (with_reducible refine kept_snd (by assumption) (kept_takeSegment ?_)) | with_reducible apply kept_onTake | (with_reducible refine kept_ite (fun _ => ?_) (fun _ => ?_)))

theorem kept_promoteDone {s t : State} {a0 a1 a2} (h : Kept s t) : Kept s (promoteDone a0 a1 a2 t) := by
  unfold promoteDone
  try dsimp only
  repeat' (first | with_reducible assumption | with_reducible apply kept_onCmd | with_reducible apply kept_onIng | with_reducible apply kept_promoteBlocks | with_reducible apply kept_dirtyAdd | with_reducible apply kept_prepareWrite | with_reducible apply kept_writeEffect | (with_reducible refine kept_ite (fun _ => ?_) (fun _ => ?_)) | split)

theorem kept_carryCmd {s t : State} {a0 a1 a2} (h : Kept s t) : Kept s (carryCmd a0 a1 a2 t).2 := by
  unfold carryCmd
  try dsimp only
  repeat' (first | with_reducible assumption | with_reducible apply kept_onCmd | with_reducible apply kept_claimAtAccept | with_reducible apply kept_onIng | with_reducible apply kept_installWins | with_reducible apply kept_dirtyAdd | with_reducible apply kept_prepareWrite | with_reducible apply kept_promoteBlocks | with_reducible apply kept_awaitLog | (with_reducible refine kept_foldl4 ?_ (fun u x h => ?_)) | (with_reducible refine kept_foldl3 ?_ (fun u x h => ?_)) | (with_reducible refine kept_foldl2 ?_ (fun u x h => ?_)) | (with_reducible refine kept_foldl ?_ (fun u x h => ?_)) | (with_reducible refine kept_ite (fun _ => ?_) (fun _ => ?_)) | (with_reducible refine kept_ite2 (fun _ => ?_) (fun _ => ?_)) | split)

theorem kept_ghostRead {s t : State} {a0 a1 a2} (h : Kept s t) : Kept s (ghostRead a0 a1 a2 t) := by
  unfold ghostRead
  try dsimp only
  repeat' (first | with_reducible assumption | with_reducible apply kept_chg | with_reducible apply kept_startCmd | with_reducible apply kept_onCmd)

theorem kept_takeAddrs {s t : State} (h : Kept s t) : Kept s (takeAddrs t) := by
  unfold takeAddrs
  try dsimp only
  repeat' (first | with_reducible assumption | with_reducible apply kept_takeAddr | (with_reducible refine kept_foldl ?_ (fun u x h => ?_)) | split)

theorem kept_takeoverDone {s t : State} (h : Kept s t) : Kept s (takeoverDone t) := by
  unfold takeoverDone
  try dsimp only
  repeat' (first | with_reducible assumption | with_reducible apply kept_openTargets | with_reducible apply kept_raise | with_reducible apply kept_onPrt)

theorem kept_carryOn {s t : State} {a0} (h : Kept s t) : Kept s (carryOn a0 t) := by
  unfold carryOn
  try dsimp only
  repeat' (first | with_reducible assumption | with_reducible apply kept_onCmd | with_reducible apply kept_promoteDone | with_reducible apply kept_installCtx | with_reducible apply kept_carryCmd | (with_reducible refine kept_snd (by assumption) (kept_carryCmd ?_)) | with_reducible apply kept_ghostRead | with_reducible apply kept_takeAddrs | with_reducible apply kept_shadowClear | with_reducible apply kept_resumeHost | with_reducible apply kept_finish | with_reducible apply kept_orphanQueue | (with_reducible refine kept_foldl4 ?_ (fun u x h => ?_)) | (with_reducible refine kept_foldl3 ?_ (fun u x h => ?_)) | (with_reducible refine kept_foldl2 ?_ (fun u x h => ?_)) | (with_reducible refine kept_foldl ?_ (fun u x h => ?_)) | (with_reducible refine kept_ite (fun _ => ?_) (fun _ => ?_)) | split)

theorem kept_activate {s t : State} {a0} (h : Kept s t) : Kept s (activate a0 t) := by
  unfold activate
  try dsimp only
  repeat' (first | with_reducible assumption | with_reducible apply kept_takeoverDone | with_reducible apply kept_recoverMedia | with_reducible apply kept_carryOn | with_reducible apply kept_adoptMedia | with_reducible apply kept_onPrt | with_reducible apply kept_note | (with_reducible refine kept_ite (fun _ => ?_) (fun _ => ?_)))

end Sys2Proof.Machine
end

