-- ==== Sys2Proof/Laws/Kept/Rounds.lean ====
section
/-! SUPPORT. What the operations of Machine/Rounds.lean keep (`Kept`). -/

namespace Sys2Proof.Machine

theorem kept_dropTx {s t : State} {a0} (h : Kept s t) : Kept s (dropTx a0 t) := by
  unfold dropTx
  try dsimp only
  repeat' (first | with_reducible assumption | with_reducible apply kept_onPort | split)

theorem kept_dropWork {s t : State} (h : Kept s t) : Kept s (dropWork t) := by
  unfold dropWork
  try dsimp only
  repeat' (first | with_reducible assumption | with_reducible apply kept_onIng | with_reducible apply kept_onCmd | with_reducible apply kept_onQpc | with_reducible apply kept_onFab | with_reducible apply kept_onPar | (with_reducible refine kept_onFtl_same ?_ (fun _ => rfl) (fun _ => rfl)) | (with_reducible refine kept_onFtl ?_ ?_) | exact fun x => ⟨x.1, x.2.1, tabDel_nodup x.2.2.1, fun e he => x.2.2.2 e (mem_tabDel he)⟩ | exact fun x => ⟨x.1, x.2.1, tabPut_nodup x.2.2.1, fun e he => (mem_tabPut he).elim (fun q => q ▸ by assumption) (x.2.2.2 e)⟩ | exact fun _ => canonical_empty rfl rfl | (intro hx; (try dsimp only); split <;> exact hx) | with_reducible apply kept_onRpl)

theorem kept_enterFenced {s t : State} {a0} (h : Kept s t) : Kept s (enterFenced a0 t) := by
  unfold enterFenced
  try dsimp only
  repeat' (first | with_reducible assumption | with_reducible apply kept_onPrt | with_reducible apply kept_note | with_reducible apply kept_dropTx | with_reducible apply kept_shadowClear | with_reducible apply kept_dropWork | (with_reducible refine kept_foldl ?_ (fun u x h => ?_)) | (with_reducible refine kept_ite (fun _ => ?_) (fun _ => ?_)))

theorem kept_claimLost {s t : State} {a0} (h : Kept s t) : Kept s (claimLost a0 t) := by
  unfold claimLost
  try dsimp only
  repeat' (first | with_reducible assumption | with_reducible apply kept_raise | with_reducible apply kept_onPort | with_reducible apply kept_enterFenced | (with_reducible refine kept_ite (fun _ => ?_) (fun _ => ?_)) | split)

theorem kept_commitAlone {s t : State} (h : Kept s t) : Kept s (commitAlone t) := by
  unfold commitAlone
  try dsimp only
  repeat' (first | with_reducible assumption | with_reducible apply kept_onJnl | with_reducible apply kept_spillWaiting | with_reducible apply kept_spillNow)

theorem kept_enterLone {s t : State} (h : Kept s t) : Kept s (enterLone t) := by
  unfold enterLone
  try dsimp only
  repeat' (first | with_reducible assumption | with_reducible apply kept_onPrt | with_reducible apply kept_onCmd | with_reducible apply kept_onIng | with_reducible apply kept_commitAlone | with_reducible apply kept_repairsLost | with_reducible apply kept_onPwr | with_reducible apply kept_ackAll | (with_reducible refine kept_foldl4 ?_ (fun u x h => ?_)) | (with_reducible refine kept_foldl3 ?_ (fun u x h => ?_)) | (with_reducible refine kept_foldl2 ?_ (fun u x h => ?_)) | (with_reducible refine kept_foldl ?_ (fun u x h => ?_)))

theorem kept_sendOwed {s t : State} {a0} (h : Kept s t) : Kept s (sendOwed a0 t) := by
  unfold sendOwed
  try dsimp only
  repeat' (first | with_reducible assumption | with_reducible apply kept_oslClaim)

theorem kept_roundWon {s t : State} {a0} (h : Kept s t) : Kept s (roundWon a0 t) := by
  unfold roundWon
  try dsimp only
  repeat' (first | with_reducible assumption | with_reducible apply kept_onPrt | with_reducible apply kept_sendOwed | with_reducible apply kept_refreshSled | with_reducible apply kept_activate | with_reducible apply kept_enterLone | with_reducible apply kept_startReplay | (with_reducible refine kept_foldl ?_ (fun u x h => ?_)) | (with_reducible refine kept_ite (fun _ => ?_) (fun _ => ?_)))

theorem kept_roundOver {s t : State} {a0 a1} (h : Kept s t) : Kept s (roundOver a0 a1 t) := by
  unfold roundOver
  try dsimp only
  repeat' (first | with_reducible assumption | with_reducible apply kept_note | with_reducible apply kept_onPrt | with_reducible apply kept_enterFenced | with_reducible apply kept_roundWon | (with_reducible refine kept_ite (fun _ => ?_) (fun _ => ?_)) | split)

theorem kept_decideRound {s t : State} (h : Kept s t) : Kept s (decideRound t) := by
  unfold decideRound
  try dsimp only
  repeat' (first | with_reducible assumption | with_reducible apply kept_roundOver | with_reducible apply kept_onPrt | with_reducible apply kept_oslClaim | (with_reducible refine kept_foldl ?_ (fun u x h => ?_)) | (with_reducible refine kept_ite (fun _ => ?_) (fun _ => ?_)) | split)

theorem kept_startRound {s t : State} {a0 a1} (h : Kept s t) : Kept s (startRound a0 a1 t) := by
  unfold startRound
  try dsimp only
  repeat' (first | with_reducible assumption | with_reducible apply kept_onPrt | with_reducible apply kept_oslClaim | with_reducible apply kept_decideRound | (with_reducible refine kept_foldl ?_ (fun u x h => ?_)) | (with_reducible refine kept_ite (fun _ => ?_) (fun _ => ?_)) | split)

theorem kept_roundClaim {s t : State} {a0 a1 a2} (h : Kept s t) : Kept s (roundClaim a0 a1 a2 t) := by
  unfold roundClaim
  try dsimp only
  repeat' (first | with_reducible assumption | with_reducible apply kept_onPrt | with_reducible apply kept_decideRound | (with_reducible refine kept_ite (fun _ => ?_) (fun _ => ?_)) | split)

theorem kept_claimDone {s t : State} {a0 a1 a2 a3 a4 a5 a6} (h : Kept s t) : Kept s (claimDone a0 a1 a2 a3 a4 a5 a6 t) := by
  unfold claimDone
  try dsimp only
  repeat' (first | with_reducible assumption | with_reducible apply kept_onPort | with_reducible apply kept_onSld | with_reducible apply kept_roundClaim | with_reducible apply kept_refreshSled | with_reducible apply kept_onPrt | (with_reducible refine kept_ite (fun _ => ?_) (fun _ => ?_)) | split)

theorem kept_claimWait {s t : State} (h : Kept s t) : Kept s (claimWait t) := by
  unfold claimWait
  try dsimp only
  repeat' (first | with_reducible assumption | with_reducible apply kept_decideRound | with_reducible apply kept_onPrt | (with_reducible refine kept_ite (fun _ => ?_) (fun _ => ?_)))

theorem kept_partnerGives {s t : State} {a0} (h : Kept s t) : Kept s (partnerGives a0 t) := by
  unfold partnerGives
  try dsimp only
  repeat' (first | with_reducible assumption | with_reducible apply kept_startRound | (with_reducible refine kept_ite (fun _ => ?_) (fun _ => ?_)))

theorem kept_giveVolumes {s t : State} (h : Kept s t) : Kept s (giveVolumes t) := by
  unfold giveVolumes
  try dsimp only
  repeat' (first | with_reducible assumption | with_reducible apply kept_checkpointBatch | with_reducible apply kept_onPrt | with_reducible apply kept_enterFenced | with_reducible apply kept_pulseCommand | with_reducible apply kept_plControl | (with_reducible refine kept_ite (fun _ => ?_) (fun _ => ?_)))

theorem kept_partnerGone {s t : State} (h : Kept s t) : Kept s (partnerGone t) := by
  unfold partnerGone
  try dsimp only
  repeat' (first | with_reducible assumption | with_reducible apply kept_startRound | with_reducible apply kept_onPrt | with_reducible apply kept_sendOwed | with_reducible apply kept_shadowClear | (with_reducible refine kept_foldl ?_ (fun u x h => ?_)) | (with_reducible refine kept_ite (fun _ => ?_) (fun _ => ?_)) | split)

theorem kept_judge {s t : State} (h : Kept s t) : Kept s (judge t) := by
  unfold judge
  try dsimp only
  repeat' (first | with_reducible assumption | with_reducible apply kept_raise | with_reducible apply kept_onPrt | with_reducible apply kept_wake | with_reducible apply kept_partnerGone | with_reducible apply kept_note | (with_reducible refine kept_ite (fun _ => ?_) (fun _ => ?_)))

theorem kept_periodMiss {s t : State} {a0} (h : Kept s t) : Kept s (periodMiss a0 t) := by
  unfold periodMiss
  try dsimp only
  repeat' (first | with_reducible assumption | with_reducible apply kept_onPrt | with_reducible apply kept_judge | (with_reducible refine kept_ite (fun _ => ?_) (fun _ => ?_)))

theorem kept_heartbeat {s t : State} {a0 a1 a2} (h : Kept s t) : Kept s (heartbeat a0 a1 a2 t) := by
  unfold heartbeat
  try dsimp only
  repeat' (first | with_reducible assumption | with_reducible apply kept_onPrt | with_reducible apply kept_teeDrain | with_reducible apply kept_partnerGives | (with_reducible refine kept_ite (fun _ => ?_) (fun _ => ?_)))

end Sys2Proof.Machine
end

