-- ==== Sys2Proof/Laws/Kept/Cold.lean ====
section
/-! SUPPORT. What the operations of Machine/Cold.lean keep (`Kept`). -/

namespace Sys2Proof.Machine

theorem kept_cold {s t : State} {a0} (h : Kept s t) : Kept s (State.cold a0 t) := by
  refine h.trans ⟨⟨rfl, .rfl' _, List.suffix_refl _, ?_⟩, fun _ => ⟨⟨fun y => (nomatch y), fun _ => ⟨rfl, rfl⟩⟩, canonical_empty rfl rfl⟩⟩
  cases a0
  · exact .inr rfl
  · exact .inl rfl
  · exact .inr rfl
  · exact .inr rfl

theorem kept_aoRelease {s t : State} (h : Kept s t) : Kept s (aoRelease t) := by
  unfold aoRelease
  try dsimp only
  repeat' (first | with_reducible assumption | ((with_reducible refine kept_onRst_all ?_ ?_); rotate_left; exact fun _ x => x) | ((with_reducible refine kept_onRst_all ?_ ?_); rotate_left; exact fun _ x => ordered_hot x.1 rfl) | ((with_reducible refine kept_onRst_all ?_ ?_); rotate_left; exact fun _ _ => ordered_hot (fun _ => rfl) rfl) | ((with_reducible refine kept_onRst_all ?_ ?_); rotate_left; exact fun _ _ => ordered_hot Bool.noConfusion rfl) | (with_reducible refine kept_onRst ?_ ?_) | exact fun x => ⟨x.1, x.2.1, tabDel_nodup x.2.2.1, fun e he => x.2.2.2 e (mem_tabDel he)⟩ | exact fun x => ⟨x.1, x.2.1, tabPut_nodup x.2.2.1, fun e he => (mem_tabPut he).elim (fun q => q ▸ by assumption) (x.2.2.2 e)⟩ | exact fun _ => canonical_empty rfl rfl | (intro hx; (try dsimp only); split <;> exact hx) | with_reducible apply kept_measureRom | with_reducible apply kept_onCfg | with_reducible apply kept_onClk | (with_reducible refine kept_ite (fun _ => ?_) (fun _ => ?_)))

theorem kept_tryRelease {s t : State} (h : Kept s t) : Kept s (tryRelease t) := by
  unfold tryRelease
  refine kept_ite (fun _ => h) fun c => kept_ite (fun _ => ?_) fun _ => kept_aoRelease h
  refine kept_onRst h fun x => ⟨x.1, fun _ => x.2 ?_⟩
  have e : t.rst.stage = .held := Decidable.byContradiction fun hc => c (.inl hc)
  rw [e]
  rfl

theorem kept_startCold {s t : State} {a0} (h : Kept s t) : Kept s (startCold a0 t) := by
  unfold startCold
  try dsimp only
  repeat' (first | with_reducible assumption | with_reducible apply kept_tryRelease | with_reducible apply kept_cold)

theorem kept_addCause {s t : State} {a0 a1} (h : Kept s t) : Kept s (addCause a0 a1 t) := by
  unfold addCause
  try dsimp only
  repeat' (first | with_reducible assumption | ((with_reducible refine kept_onRst_all ?_ ?_); rotate_left; exact fun _ x => x) | ((with_reducible refine kept_onRst_all ?_ ?_); rotate_left; exact fun _ x => ordered_hot x.1 rfl) | ((with_reducible refine kept_onRst_all ?_ ?_); rotate_left; exact fun _ _ => ordered_hot (fun _ => rfl) rfl) | ((with_reducible refine kept_onRst_all ?_ ?_); rotate_left; exact fun _ _ => ordered_hot Bool.noConfusion rfl) | (with_reducible refine kept_onRst ?_ ?_) | exact fun x => ⟨x.1, x.2.1, tabDel_nodup x.2.2.1, fun e he => x.2.2.2 e (mem_tabDel he)⟩ | exact fun x => ⟨x.1, x.2.1, tabPut_nodup x.2.2.1, fun e he => (mem_tabPut he).elim (fun q => q ▸ by assumption) (x.2.2.2 e)⟩ | exact fun _ => canonical_empty rfl rfl | (intro hx; (try dsimp only); split <;> exact hx) | (with_reducible refine kept_ite (fun _ => ?_) (fun _ => ?_)))

theorem kept_writeOptions {s t : State} {a0 a1} (h : Kept s t) : Kept s (writeOptions a0 a1 t) := by
  unfold writeOptions
  try dsimp only
  repeat' (first | with_reducible assumption | with_reducible apply kept_send)

theorem kept_requestL1 {s t : State} (h : Kept s t) : Kept s (requestL1 t) := by
  unfold requestL1
  try dsimp only
  repeat' (first | with_reducible assumption | with_reducible apply kept_startCold | with_reducible apply kept_addCause)

theorem kept_updActivate {s t : State} (h : Kept s t) : Kept s (updActivate t) := by
  unfold updActivate
  try dsimp only
  repeat' (first | with_reducible assumption | with_reducible apply kept_onUpd | with_reducible apply kept_requestL1 | with_reducible apply kept_writeOptions | with_reducible apply kept_giveVolumes | (with_reducible refine kept_ite (fun _ => ?_) (fun _ => ?_)) | split)

theorem kept_updRetry {s t : State} (h : Kept s t) : Kept s (updRetry t) := by
  unfold updRetry
  try dsimp only
  repeat' (first | with_reducible assumption | with_reducible apply kept_updActivate | (with_reducible refine kept_ite (fun _ => ?_) (fun _ => ?_)))

theorem kept_sendUpdDone {s t : State} (h : Kept s t) : Kept s (sendUpdDone t) := by
  unfold sendUpdDone
  try dsimp only
  repeat' (first | with_reducible assumption | with_reducible apply kept_plControl | (with_reducible refine kept_ite (fun _ => ?_) (fun _ => ?_)) | split)

theorem kept_updConfirm {s t : State} (h : Kept s t) : Kept s (updConfirm t) := by
  unfold updConfirm
  try dsimp only
  repeat' (first | with_reducible assumption | with_reducible apply kept_writeOptions | with_reducible apply kept_sendUpdDone | with_reducible apply kept_raise | with_reducible apply kept_onUpd | (with_reducible refine kept_ite (fun _ => ?_) (fun _ => ?_)) | split)

theorem kept_writeOldOptions {s t : State} (h : Kept s t) : Kept s (writeOldOptions t) := by
  unfold writeOldOptions
  try dsimp only
  repeat' (first | with_reducible assumption | with_reducible apply kept_writeOptions)

theorem kept_updRollBack {s t : State} (h : Kept s t) : Kept s (updRollBack t) := by
  unfold updRollBack
  try dsimp only
  repeat' (first | with_reducible assumption | with_reducible apply kept_raise | with_reducible apply kept_onUpd | with_reducible apply kept_writeOldOptions | with_reducible apply kept_requestL1 | with_reducible apply kept_giveVolumes | (with_reducible refine kept_ite (fun _ => ?_) (fun _ => ?_)))

end Sys2Proof.Machine
end

