-- ==== Sys2Proof/Laws/Kept/Power.lean ====
section
/-! SUPPORT. What the operations of Machine/Power.lean keep (`Kept`). -/

namespace Sys2Proof.Machine

theorem kept_powerRequest {s t : State} {a0} (h : Kept s t) : Kept s (powerRequest a0 t) := by
  unfold powerRequest
  try dsimp only
  repeat' (first | with_reducible assumption | with_reducible apply kept_onPwr | with_reducible apply kept_plControl | (with_reducible refine kept_ite (fun _ => ?_) (fun _ => ?_)))

theorem kept_powerWord {s t : State} {a0 a1} (h : Kept s t) : Kept s (powerWord a0 a1 t) := by
  unfold powerWord
  try dsimp only
  repeat' (first | with_reducible assumption | with_reducible apply kept_onPwr | with_reducible apply kept_plControl | (with_reducible refine kept_ite (fun _ => ?_) (fun _ => ?_)))

theorem kept_updDone {s t : State} {a0} (h : Kept s t) : Kept s (updDone a0 t) := by
  unfold updDone
  try dsimp only
  repeat' (first | with_reducible assumption | with_reducible apply kept_updRetry | with_reducible apply kept_onUpd | (with_reducible refine kept_ite (fun _ => ?_) (fun _ => ?_)))

end Sys2Proof.Machine
end

