-- ==== Sys2Proof/Laws/Kept/Join.lean ====
section
/-! SUPPORT. What the operations of Machine/Join.lean keep (`Kept`). -/

namespace Sys2Proof.Machine

theorem kept_plReply {s t : State} {a0 a1} (h : Kept s t) : Kept s (plReply a0 a1 t) := by
  unfold plReply
  try dsimp only
  repeat' (first | with_reducible assumption | with_reducible apply kept_plFrame | with_reducible apply kept_onPrt)

theorem kept_sendHello {s t : State} (h : Kept s t) : Kept s (sendHello t) := by
  unfold sendHello
  try dsimp only
  repeat' (first | with_reducible assumption | with_reducible apply kept_plRecords)

theorem kept_mirrorCtx {s t : State} {a0} (h : Kept s t) : Kept s (mirrorCtx a0 t) := by
  unfold mirrorCtx
  try dsimp only
  repeat' (first | with_reducible assumption | with_reducible apply kept_plRecords | with_reducible apply kept_onCtxQuiet | (with_reducible refine kept_foldl ?_ (fun u x h => ?_)) | (with_reducible refine kept_ite (fun _ => ?_) (fun _ => ?_)) | split)

theorem kept_mirrorWhole {s t : State} {a0} (h : Kept s t) : Kept s (mirrorWhole a0 t) := by
  unfold mirrorWhole
  try dsimp only
  repeat' (first | with_reducible assumption | with_reducible apply kept_plRecords | with_reducible apply kept_tee | with_reducible apply kept_chg | (with_reducible refine kept_foldl4 ?_ (fun u x h => ?_)) | (with_reducible refine kept_foldl3 ?_ (fun u x h => ?_)) | (with_reducible refine kept_foldl2 ?_ (fun u x h => ?_)) | (with_reducible refine kept_foldl ?_ (fun u x h => ?_)) | (with_reducible refine kept_ite (fun _ => ?_) (fun _ => ?_)) | split)

theorem kept_enterPaired {s t : State} (h : Kept s t) : Kept s (enterPaired t) := by
  unfold enterPaired
  try dsimp only
  repeat' (first | with_reducible assumption | with_reducible apply kept_onPrt | with_reducible apply kept_onIng | with_reducible apply kept_onJnl | with_reducible apply kept_note | with_reducible apply kept_mirrorCtx | with_reducible apply kept_updConfirm | with_reducible apply kept_openTargets | with_reducible apply kept_mirrorWhole | (with_reducible refine kept_foldl4 ?_ (fun u x h => ?_)) | (with_reducible refine kept_foldl3 ?_ (fun u x h => ?_)) | (with_reducible refine kept_foldl2 ?_ (fun u x h => ?_)) | (with_reducible refine kept_foldl ?_ (fun u x h => ?_)))

theorem kept_joinClaims {s t : State} {a0} (h : Kept s t) : Kept s (joinClaims a0 t) := by
  unfold joinClaims
  try dsimp only
  repeat' (first | with_reducible assumption | with_reducible apply kept_onPrt | with_reducible apply kept_oslClaim | (with_reducible refine kept_foldl ?_ (fun u x h => ?_)))

theorem kept_sendJoinOwed {s t : State} {a0} (h : Kept s t) : Kept s (sendJoinOwed a0 t) := by
  unfold sendJoinOwed
  try dsimp only
  repeat' (first | with_reducible assumption | with_reducible apply kept_oslClaim)

theorem kept_sendClaimed {s t : State} (h : Kept s t) : Kept s (sendClaimed t) := by
  unfold sendClaimed
  try dsimp only
  repeat' (first | with_reducible assumption | with_reducible apply kept_plControl | with_reducible apply kept_onPrt | with_reducible apply kept_refreshSled | (with_reducible refine kept_foldl ?_ (fun u x h => ?_)))

theorem kept_mirrorState {s t : State} (h : Kept s t) : Kept s (mirrorState t) := by
  unfold mirrorState
  try dsimp only
  repeat' (first | with_reducible assumption | with_reducible apply kept_plSend | (with_reducible refine kept_foldl4 ?_ (fun u x h => ?_)) | (with_reducible refine kept_foldl3 ?_ (fun u x h => ?_)) | (with_reducible refine kept_foldl2 ?_ (fun u x h => ?_)) | (with_reducible refine kept_foldl ?_ (fun u x h => ?_)))

theorem kept_sendFill {s t : State} {a0 a1} (h : Kept s t) : Kept s (sendFill a0 a1 t) := by
  unfold sendFill
  try dsimp only
  repeat' (first | with_reducible assumption | with_reducible apply kept_plReply)

theorem kept_startFill {s t : State} (h : Kept s t) : Kept s (startFill t) := by
  unfold startFill
  try dsimp only
  repeat' (first | with_reducible assumption | with_reducible apply kept_shadowClear | with_reducible apply kept_onPrt | with_reducible apply kept_sendFill | (with_reducible refine kept_foldl4 ?_ (fun u x h => ?_)) | (with_reducible refine kept_foldl3 ?_ (fun u x h => ?_)) | (with_reducible refine kept_foldl2 ?_ (fun u x h => ?_)) | (with_reducible refine kept_foldl ?_ (fun u x h => ?_)))

theorem kept_fillEntry {s t : State} {a0} (h : Kept s t) : Kept s (fillEntry a0 t) := by
  unfold fillEntry
  try dsimp only
  repeat' (first | with_reducible assumption | with_reducible apply kept_peerEntry | with_reducible apply kept_onJnl | with_reducible apply kept_takeEntries | (with_reducible refine kept_ite (fun _ => ?_) (fun _ => ?_)))

theorem kept_fillChange {s t : State} {a0 a1} (h : Kept s t) : Kept s (fillChange a0 a1 t) := by
  unfold fillChange
  try dsimp only
  repeat' (first | with_reducible assumption | with_reducible apply kept_applyLog | with_reducible apply kept_fillEntry | (with_reducible refine kept_foldl ?_ (fun u x h => ?_)) | (with_reducible refine kept_ite (fun _ => ?_) (fun _ => ?_)))

theorem kept_fillIn {s t : State} {a0} (h : Kept s t) : Kept s (fillIn a0 t) := by
  unfold fillIn
  try dsimp only
  repeat' (first | with_reducible assumption | with_reducible apply kept_sendFill | with_reducible apply kept_applyLog | with_reducible apply kept_fillEntry | with_reducible apply kept_fillChange | with_reducible apply kept_onPrt | with_reducible apply kept_resumeReplication | (with_reducible refine kept_onFtl_same ?_ (fun _ => rfl) (fun _ => rfl)) | (with_reducible refine kept_onFtl ?_ ?_) | exact fun x => ⟨x.1, x.2.1, tabDel_nodup x.2.2.1, fun e he => x.2.2.2 e (mem_tabDel he)⟩ | exact fun x => ⟨x.1, x.2.1, tabPut_nodup x.2.2.1, fun e he => (mem_tabPut he).elim (fun q => q ▸ by assumption) (x.2.2.2 e)⟩ | exact fun _ => canonical_empty rfl rfl | (intro hx; (try dsimp only); split <;> exact hx) | with_reducible apply kept_recountValid | with_reducible apply kept_plControl | (with_reducible refine kept_foldl4 ?_ (fun u x h => ?_)) | (with_reducible refine kept_foldl3 ?_ (fun u x h => ?_)) | (with_reducible refine kept_foldl2 ?_ (fun u x h => ?_)) | (with_reducible refine kept_foldl ?_ (fun u x h => ?_)) | (with_reducible refine kept_ite (fun _ => ?_) (fun _ => ?_)) | split)

theorem kept_filledChange {s t : State} {a0 a1} (h : Kept s t) : Kept s (filledChange a0 a1 t) := by
  unfold filledChange
  try dsimp only
  repeat' (first | with_reducible assumption | with_reducible apply kept_fillChange | with_reducible apply kept_onPrt | (with_reducible refine kept_ite (fun _ => ?_) (fun _ => ?_)))

theorem kept_startHandback {s t : State} (h : Kept s t) : Kept s (startHandback t) := by
  unfold startHandback
  try dsimp only
  repeat' (first | with_reducible assumption | with_reducible apply kept_onIng | with_reducible apply kept_shadowClear | with_reducible apply kept_onPrt | with_reducible apply kept_mirrorCtx | with_reducible apply kept_mirrorWhole | with_reducible apply kept_forceLog | with_reducible apply kept_plControl | (with_reducible refine kept_foldl4 ?_ (fun u x h => ?_)) | (with_reducible refine kept_foldl3 ?_ (fun u x h => ?_)) | (with_reducible refine kept_foldl2 ?_ (fun u x h => ?_)) | (with_reducible refine kept_foldl ?_ (fun u x h => ?_)) | (with_reducible refine kept_ite (fun _ => ?_) (fun _ => ?_)))

theorem kept_releaseTaken {s t : State} (h : Kept s t) : Kept s (releaseTaken t) := by
  unfold releaseTaken
  try dsimp only
  repeat' (first | with_reducible assumption | with_reducible apply kept_onTop | with_reducible apply kept_dropData | with_reducible apply kept_onCmd | (with_reducible refine kept_onFtl_same ?_ (fun _ => rfl) (fun _ => rfl)) | (with_reducible refine kept_onFtl ?_ ?_) | exact fun x => ⟨x.1, x.2.1, tabDel_nodup x.2.2.1, fun e he => x.2.2.2 e (mem_tabDel he)⟩ | exact fun x => ⟨x.1, x.2.1, tabPut_nodup x.2.2.1, fun e he => (mem_tabPut he).elim (fun q => q ▸ by assumption) (x.2.2.2 e)⟩ | exact fun _ => canonical_empty rfl rfl | (intro hx; (try dsimp only); split <;> exact hx) | with_reducible apply kept_onQpc | with_reducible apply kept_raise | with_reducible apply kept_onFab | (with_reducible refine kept_foldl4 ?_ (fun u x h => ?_)) | (with_reducible refine kept_foldl3 ?_ (fun u x h => ?_)) | (with_reducible refine kept_foldl2 ?_ (fun u x h => ?_)) | (with_reducible refine kept_foldl ?_ (fun u x h => ?_)) | split)

theorem kept_takeBack {s t : State} (h : Kept s t) : Kept s (takeBack t) := by
  unfold takeBack
  try dsimp only
  repeat' (first | with_reducible assumption | with_reducible apply kept_resumeTakes | with_reducible apply kept_closeOpenSegs | with_reducible apply kept_reopenRows | with_reducible apply kept_enterPaired | with_reducible apply kept_carryOn | with_reducible apply kept_recomputeHealth | with_reducible apply kept_announce | with_reducible apply kept_onFab | with_reducible apply kept_onPrt | with_reducible apply kept_note | with_reducible apply kept_resumeRebuilds | with_reducible apply kept_closeReopened | (with_reducible refine kept_foldl ?_ (fun u x h => ?_)))

theorem kept_helloIn {s t : State} {a0} (h : Kept s t) : Kept s (helloIn a0 t) := by
  unfold helloIn
  try dsimp only
  repeat' (first | with_reducible assumption | with_reducible apply kept_onPrt | with_reducible apply kept_note | (with_reducible refine kept_ite (fun _ => ?_) (fun _ => ?_)))

theorem kept_joinBegin {s t : State} (h : Kept s t) : Kept s (joinBegin t) := by
  unfold joinBegin
  try dsimp only
  repeat' (first | with_reducible assumption | with_reducible apply kept_joinClaims | with_reducible apply kept_onPrt | with_reducible apply kept_dropMaps | with_reducible apply kept_startFill | (with_reducible refine kept_ite (fun _ => ?_) (fun _ => ?_)) | split)

theorem kept_claimedIn {s t : State} {a0} (h : Kept s t) : Kept s (claimedIn a0 t) := by
  unfold claimedIn
  try dsimp only
  repeat' (first | with_reducible assumption | with_reducible apply kept_joinClaims | with_reducible apply kept_onPrt | with_reducible apply kept_startReplay | (with_reducible refine kept_ite (fun _ => ?_) (fun _ => ?_)) | split)

theorem kept_joinStep {s t : State} (h : Kept s t) : Kept s (joinStep t) := by
  unfold joinStep
  try dsimp only
  repeat' (first | with_reducible assumption | with_reducible apply kept_joinClaims | with_reducible apply kept_joinBegin | with_reducible apply kept_sendClaimed | with_reducible apply kept_startReplay | with_reducible apply kept_onPrt | with_reducible apply kept_plControl | with_reducible apply kept_mirrorState | with_reducible apply kept_enterPaired | with_reducible apply kept_startHandback | with_reducible apply kept_note | with_reducible apply kept_releaseTaken | with_reducible apply kept_takeBack | (with_reducible refine kept_ite (fun _ => ?_) (fun _ => ?_)) | split)

theorem kept_soloStep {s t : State} (h : Kept s t) : Kept s (soloStep t) := by
  unfold soloStep
  try dsimp only
  repeat' (first | with_reducible assumption | with_reducible apply kept_takeoverDone | with_reducible apply kept_takeAddrs | (with_reducible refine kept_ite (fun _ => ?_) (fun _ => ?_)))

theorem kept_resyncStep {s t : State} {a0} (h : Kept s t) : Kept s (resyncStep a0 t) := by
  unfold resyncStep
  try dsimp only
  repeat' (first | with_reducible assumption | with_reducible apply kept_recomputeHealth | with_reducible apply kept_note | with_reducible apply kept_onPort | (with_reducible refine kept_ite (fun _ => ?_) (fun _ => ?_)))

theorem kept_linkSteps {s t : State} (h : Kept s t) : Kept s (linkSteps t) := by
  unfold linkSteps
  try dsimp only
  repeat' (first | with_reducible assumption | with_reducible apply kept_resyncStep | with_reducible apply kept_stepReplay | with_reducible apply kept_soloStep | with_reducible apply kept_joinStep | (with_reducible refine kept_foldl ?_ (fun u x h => ?_)) | (with_reducible refine kept_ite (fun _ => ?_) (fun _ => ?_)))

theorem kept_afterP {s t : State} (h : Kept s t) : Kept s (afterP t) := by
  unfold afterP
  try dsimp only
  repeat' (first | with_reducible assumption | with_reducible apply kept_updRetry | with_reducible apply kept_after | with_reducible apply kept_linkSteps)

theorem kept_execFtlReplayDone {s : State} {a0 a1 a2} : ∃ u, execFtlReplayDone a0 a1 a2 s = .next u ∧ Kept s u := by
  refine ⟨_, rfl, ?_⟩
  have h := kept_rfl s
  try dsimp only
  repeat' (first | with_reducible assumption | with_reducible apply kept_afterP | with_reducible apply kept_replayDone)

theorem kept_execFormatDone {s : State} : ∃ u, execFormatDone s = .next u ∧ Kept s u := by
  refine ⟨_, rfl, ?_⟩
  have h := kept_rfl s
  try dsimp only
  repeat' (first | with_reducible assumption | with_reducible apply kept_afterP | with_reducible apply kept_formatDone)

theorem kept_joinWaitOver {s t : State} (h : Kept s t) : Kept s (joinWaitOver t) := by
  unfold joinWaitOver
  try dsimp only
  repeat' (first | with_reducible assumption | with_reducible apply kept_oslIdentify | with_reducible apply kept_onPrt | (with_reducible refine kept_foldl ?_ (fun u x h => ?_)) | (with_reducible refine kept_ite (fun _ => ?_) (fun _ => ?_)))

theorem kept_soloDecide {s t : State} (h : Kept s t) : Kept s (soloDecide t) := by
  unfold soloDecide
  try dsimp only
  repeat' (first | with_reducible assumption | with_reducible apply kept_onPrt | with_reducible apply kept_startRound | with_reducible apply kept_note | (with_reducible refine kept_ite (fun _ => ?_) (fun _ => ?_)))

theorem kept_soloRead {s t : State} {a0 a1} (h : Kept s t) : Kept s (soloRead a0 a1 t) := by
  unfold soloRead
  try dsimp only
  repeat' (first | with_reducible assumption | with_reducible apply kept_soloDecide | with_reducible apply kept_onPrt | (with_reducible refine kept_ite (fun _ => ?_) (fun _ => ?_)))

theorem kept_execJoinWaitExpiry {s : State} : ∃ u, execJoinWaitExpiry s = .next u ∧ Kept s u := by
  refine ⟨_, rfl, ?_⟩
  have h := kept_rfl s
  try dsimp only
  repeat' (first | with_reducible assumption | with_reducible apply kept_afterP | with_reducible apply kept_joinWaitOver | with_reducible apply kept_soloDecide | (with_reducible refine kept_ite (fun _ => ?_) (fun _ => ?_)))

end Sys2Proof.Machine
end

