-- ==== Sys2Proof/Laws/Kept/PlinkIn.lean ====
section
/-! SUPPORT. What the operations of Machine/PlinkIn.lean keep (`Kept`). -/

namespace Sys2Proof.Machine

theorem kept_plKeyAlarm {s t : State} (h : Kept s t) : Kept s (plKeyAlarm t) := by
  unfold plKeyAlarm
  try dsimp only
  repeat' (first | with_reducible assumption | with_reducible apply kept_onPrt | with_reducible apply kept_note | (with_reducible refine kept_ite (fun _ => ?_) (fun _ => ?_)))

theorem kept_plGroup {s t : State} {a0 a1} (h : Kept s t) : Kept s (plGroup a0 a1 t) := by
  unfold plGroup
  try dsimp only
  repeat' (first | with_reducible assumption | with_reducible apply kept_onPrt | with_reducible apply kept_note | with_reducible apply kept_plSessionEnd | with_reducible apply kept_plKeyAlarm | (with_reducible refine kept_ite (fun _ => ?_) (fun _ => ?_)))

theorem kept_execPlGroupUp {s : State} {a0} : ∃ u, execPlGroupUp a0 s = .next u ∧ Kept s u := by
  refine ⟨_, rfl, ?_⟩
  have h := kept_rfl s
  try dsimp only
  repeat' (first | with_reducible assumption | with_reducible apply kept_afterP | with_reducible apply kept_plGroup)

theorem kept_execPlGroupDown {s : State} {a0} : ∃ u, execPlGroupDown a0 s = .next u ∧ Kept s u := by
  refine ⟨_, rfl, ?_⟩
  have h := kept_rfl s
  try dsimp only
  repeat' (first | with_reducible assumption | with_reducible apply kept_afterP | with_reducible apply kept_plGroup)

theorem kept_plRestart {s t : State} {a0} (h : Kept s t) : Kept s (plRestart a0 t) := by
  unfold plRestart
  try dsimp only
  repeat' (first | with_reducible assumption | with_reducible apply kept_plSend | with_reducible apply kept_onPrt | (with_reducible refine kept_foldl ?_ (fun u x h => ?_)))

theorem kept_plSessionStart {s t : State} {a0} (h : Kept s t) : Kept s (plSessionStart a0 t) := by
  unfold plSessionStart
  try dsimp only
  repeat' (first | with_reducible assumption | with_reducible apply kept_plKeyAlarm | with_reducible apply kept_onPrt | with_reducible apply kept_plRestart | with_reducible apply kept_teeDrain | with_reducible apply kept_sendSeg | with_reducible apply kept_sendUpdDone | with_reducible apply kept_sendHello | (with_reducible refine kept_foldl ?_ (fun u x h => ?_)) | (with_reducible refine kept_ite (fun _ => ?_) (fun _ => ?_)))

theorem kept_execPlSessionStart {s : State} {a0} : ∃ u, execPlSessionStart a0 s = .next u ∧ Kept s u := by
  refine ⟨_, rfl, ?_⟩
  have h := kept_rfl s
  try dsimp only
  repeat' (first | with_reducible assumption | with_reducible apply kept_afterP | with_reducible apply kept_plSessionStart)

theorem kept_plAcked {s t : State} {a0} (h : Kept s t) : Kept s (plAcked a0 t) := by
  unfold plAcked
  try dsimp only
  repeat' (first | with_reducible assumption | with_reducible apply kept_ckptConfirmed | with_reducible apply kept_jnlCommitted | (with_reducible refine kept_foldl ?_ (fun u x h => ?_)) | split)

theorem kept_plAck {s t : State} {a0 a1} (h : Kept s t) : Kept s (plAck a0 a1 t) := by
  unfold plAck
  try dsimp only
  repeat' (first | with_reducible assumption | with_reducible apply kept_plAcked | with_reducible apply kept_onPrt | (with_reducible refine kept_foldl ?_ (fun u x h => ?_)))

theorem kept_plNewPeer {s t : State} {a0} (h : Kept s t) : Kept s (plNewPeer a0 t) := by
  unfold plNewPeer
  try dsimp only
  repeat' (first | with_reducible assumption | with_reducible apply kept_onPrt)

theorem kept_plCount {s t : State} {a0} (h : Kept s t) : Kept s (plCount a0 t) := by
  unfold plCount
  try dsimp only
  repeat' (first | with_reducible assumption | with_reducible apply kept_plControl | with_reducible apply kept_onPrt | (with_reducible refine kept_foldl ?_ (fun u x h => ?_)) | (with_reducible refine kept_ite (fun _ => ?_) (fun _ => ?_)) | split)

theorem kept_plFrameIn {s t : State} {a0} (h : Kept s t) : Kept s (plFrameIn a0 t) := by
  unfold plFrameIn
  try dsimp only
  repeat' (first | with_reducible assumption | with_reducible apply kept_onPrt | with_reducible apply kept_plCount | with_reducible apply kept_plNewPeer | with_reducible apply kept_plAck | with_reducible apply kept_segReceipts | with_reducible apply kept_heartbeat | (with_reducible refine kept_ite (fun _ => ?_) (fun _ => ?_)) | split)

theorem kept_execPlFrameReceive {s : State} {a0} : ∃ u, execPlFrameReceive a0 s = .next u ∧ Kept s u := by
  refine ⟨_, rfl, ?_⟩
  have h := kept_rfl s
  try dsimp only
  repeat' (first | with_reducible assumption | with_reducible apply kept_afterP | with_reducible apply kept_plFrameIn)

theorem kept_plConfirm {s t : State} (h : Kept s t) : Kept s (plConfirm t) := by
  unfold plConfirm
  try dsimp only
  repeat' (first | with_reducible assumption | with_reducible apply kept_plFrame)

theorem kept_segFail {s t : State} {a0} (h : Kept s t) : Kept s (segFail a0 t) := by
  unfold segFail
  try dsimp only
  repeat' (first | with_reducible assumption | with_reducible apply kept_onIng | with_reducible apply kept_stageFail | with_reducible apply kept_chg | split)

theorem kept_repairAnswer {s t : State} {a0 a1 a2} (h : Kept s t) : Kept s (repairAnswer a0 a1 a2 t) := by
  unfold repairAnswer
  try dsimp only
  repeat' (first | with_reducible assumption | with_reducible apply kept_plReply | split)

theorem kept_repairIn {s t : State} {a0} (h : Kept s t) : Kept s (repairIn a0 t) := by
  unfold repairIn
  try dsimp only
  repeat' (first | with_reducible assumption | with_reducible apply kept_repairReply | with_reducible apply kept_onIng | (with_reducible refine kept_ite (fun _ => ?_) (fun _ => ?_)))

theorem kept_lostIn {s t : State} {a0 a1} (h : Kept s t) : Kept s (lostIn a0 a1 t) := by
  unfold lostIn
  try dsimp only
  repeat' (first | with_reducible assumption | with_reducible apply kept_plFrame | with_reducible apply kept_onPrt | with_reducible apply kept_sendSeg | (with_reducible refine kept_foldl ?_ (fun u x h => ?_)) | (with_reducible refine kept_ite (fun _ => ?_) (fun _ => ?_)))

theorem kept_controlIn {s t : State} {a0 a1} (h : Kept s t) : Kept s (controlIn a0 a1 t) := by
  unfold controlIn
  try dsimp only
  repeat' (first | with_reducible assumption | with_reducible apply kept_lostIn | with_reducible apply kept_segFail | with_reducible apply kept_shadowDiscard | with_reducible apply kept_repairAnswer | with_reducible apply kept_powerWord | with_reducible apply kept_onPrt | with_reducible apply kept_partnerGives | with_reducible apply kept_claimedIn | with_reducible apply kept_updDone | (with_reducible refine kept_ite (fun _ => ?_) (fun _ => ?_)) | split)

theorem kept_ckptApply {s t : State} {a0 a1} (h : Kept s t) : Kept s (ckptApply a0 a1 t) := by
  unfold ckptApply
  try dsimp only
  repeat' (first | with_reducible assumption | with_reducible apply kept_shadowCkpt | with_reducible apply kept_shadowCmd | with_reducible apply kept_shadowWin | with_reducible apply kept_shadowOut | with_reducible apply kept_shadowConn | with_reducible apply kept_helloIn | with_reducible apply kept_controlIn | (with_reducible refine kept_foldl ?_ (fun u x h => ?_)) | (with_reducible refine kept_ite (fun _ => ?_) (fun _ => ?_)) | split)

theorem kept_ckptDrain {s t : State} {a0} (h : Kept s t) : Kept s (ckptDrain a0 t) := by
  induction a0 generalizing t  with
  | zero =>
    unfold ckptDrain
    repeat' (first | with_reducible assumption | with_reducible apply ih | with_reducible apply kept_ckptApply | with_reducible apply kept_onPrt | (with_reducible refine kept_ite (fun _ => ?_) (fun _ => ?_)) | split | (cases ‹_ + 1 = Nat.succ _›))
  | succ _ ih =>
    unfold ckptDrain
    try dsimp only
    repeat' (first | with_reducible assumption | with_reducible apply ih | with_reducible apply kept_ckptApply | with_reducible apply kept_onPrt | (with_reducible refine kept_ite (fun _ => ?_) (fun _ => ?_)) | split | (cases ‹_ + 1 = Nat.succ _›))

theorem kept_ckptIn {s t : State} {a0 a1 a2} (h : Kept s t) : Kept s (ckptIn a0 a1 a2 t) := by
  unfold ckptIn
  try dsimp only
  repeat' (first | with_reducible assumption | with_reducible apply kept_onPrt | with_reducible apply kept_plConfirm | with_reducible apply kept_ckptDrain | (with_reducible refine kept_ite (fun _ => ?_) (fun _ => ?_)))

theorem kept_execPlQpCkpt {s : State} {a0 a1 a2} : ∃ u, execPlQpCkpt a0 a1 a2 s = .next u ∧ Kept s u := by
  refine ⟨_, rfl, ?_⟩
  have h := kept_rfl s
  try dsimp only
  repeat' (first | with_reducible assumption | with_reducible apply kept_afterP | with_reducible apply kept_ckptIn)

theorem kept_execPlCmdRec {s : State} {a0 a1 a2} : ∃ u, execPlCmdRec a0 a1 a2 s = .next u ∧ Kept s u := by
  refine ⟨_, rfl, ?_⟩
  have h := kept_rfl s
  try dsimp only
  repeat' (first | with_reducible assumption | with_reducible apply kept_afterP | with_reducible apply kept_ckptIn)

theorem kept_execPlWinRec {s : State} {a0 a1 a2} : ∃ u, execPlWinRec a0 a1 a2 s = .next u ∧ Kept s u := by
  refine ⟨_, rfl, ?_⟩
  have h := kept_rfl s
  try dsimp only
  repeat' (first | with_reducible assumption | with_reducible apply kept_afterP | with_reducible apply kept_ckptIn)

theorem kept_execPlOutRec {s : State} {a0 a1 a2} : ∃ u, execPlOutRec a0 a1 a2 s = .next u ∧ Kept s u := by
  refine ⟨_, rfl, ?_⟩
  have h := kept_rfl s
  try dsimp only
  repeat' (first | with_reducible assumption | with_reducible apply kept_afterP | with_reducible apply kept_ckptIn)

theorem kept_execPlConnRec {s : State} {a0 a1 a2} : ∃ u, execPlConnRec a0 a1 a2 s = .next u ∧ Kept s u := by
  refine ⟨_, rfl, ?_⟩
  have h := kept_rfl s
  try dsimp only
  repeat' (first | with_reducible assumption | with_reducible apply kept_afterP | with_reducible apply kept_ckptIn)

theorem kept_execPlHello {s : State} {a0 a1 a2} : ∃ u, execPlHello a0 a1 a2 s = .next u ∧ Kept s u := by
  refine ⟨_, rfl, ?_⟩
  have h := kept_rfl s
  try dsimp only
  repeat' (first | with_reducible assumption | with_reducible apply kept_afterP | with_reducible apply kept_ckptIn)

theorem kept_jnlIn {s t : State} {a0 a1} (h : Kept s t) : Kept s (jnlIn a0 a1 t) := by
  unfold jnlIn
  try dsimp only
  repeat' (first | with_reducible assumption | with_reducible apply kept_onPrt | with_reducible apply kept_plConfirm | with_reducible apply kept_shadowJnl | with_reducible apply kept_filledChange | (with_reducible refine kept_ite (fun _ => ?_) (fun _ => ?_)))

theorem kept_execPlJnl {s : State} {a0 a1} : ∃ u, execPlJnl a0 a1 s = .next u ∧ Kept s u := by
  refine ⟨_, rfl, ?_⟩
  have h := kept_rfl s
  try dsimp only
  repeat' (first | with_reducible assumption | with_reducible apply kept_afterP | with_reducible apply kept_jnlIn)

theorem kept_mapTaken {s t : State} (h : Kept s t) : Kept s (mapTaken t) := by
  unfold mapTaken
  try dsimp only
  repeat' (first | with_reducible assumption | with_reducible apply kept_onPrt)

theorem kept_mapIn {s t : State} {a0 a1} (h : Kept s t) : Kept s (mapIn a0 a1 t) := by
  unfold mapIn
  try dsimp only
  repeat' (first | with_reducible assumption | with_reducible apply kept_mapTaken | with_reducible apply kept_plConfirm | with_reducible apply kept_shadowMap | with_reducible apply kept_filledChange | (with_reducible refine kept_ite (fun _ => ?_) (fun _ => ?_)))

theorem kept_execPlMap {s : State} {a0 a1} : ∃ u, execPlMap a0 a1 s = .next u ∧ Kept s u := by
  refine ⟨_, rfl, ?_⟩
  have h := kept_rfl s
  try dsimp only
  repeat' (first | with_reducible assumption | with_reducible apply kept_afterP | with_reducible apply kept_mapIn)

theorem kept_execPlRelease {s : State} {a0} : ∃ u, execPlRelease a0 s = .next u ∧ Kept s u := by
  refine ⟨_, rfl, ?_⟩
  have h := kept_rfl s
  try dsimp only
  repeat' (first | with_reducible assumption | with_reducible apply kept_afterP | with_reducible apply kept_plConfirm | with_reducible apply kept_mapTaken | with_reducible apply kept_shadowRelease | (with_reducible refine kept_ite (fun _ => ?_) (fun _ => ?_)))

theorem kept_segIn {s t : State} {a0} (h : Kept s t) : Kept s (segIn a0 t) := by
  unfold segIn
  try dsimp only
  repeat' (first | with_reducible assumption | with_reducible apply kept_shadowSeg | (with_reducible refine kept_snd (by assumption) (kept_shadowSeg ?_)) | with_reducible apply kept_ckptDrain | with_reducible apply kept_plConfirm | with_reducible apply kept_plControl | (with_reducible refine kept_ite (fun _ => ?_) (fun _ => ?_)) | split)

theorem kept_execPlSeg {s : State} {a0} : ∃ u, execPlSeg a0 s = .next u ∧ Kept s u := by
  refine ⟨_, rfl, ?_⟩
  have h := kept_rfl s
  try dsimp only
  repeat' (first | with_reducible assumption | with_reducible apply kept_afterP | with_reducible apply kept_segIn)

theorem kept_replyIn {s t : State} {a0 a1} (h : Kept s t) (k : ∀ u, Kept s u → Kept s (a1 u)) : Kept s (replyIn a0 a1 t) := by
  unfold replyIn
  try dsimp only
  repeat' (first | with_reducible assumption | apply k | with_reducible apply kept_onPrt | (with_reducible refine kept_ite (fun _ => ?_) (fun _ => ?_)))

theorem kept_execPlFill {s : State} {a0 a1} : ∃ u, execPlFill a0 a1 s = .next u ∧ Kept s u := by
  refine ⟨_, rfl, ?_⟩
  have h := kept_rfl s
  try dsimp only
  repeat' (first | with_reducible assumption | with_reducible apply kept_afterP | (with_reducible refine kept_replyIn ?_ (fun u h => ?_)) | with_reducible apply kept_fillIn)

theorem kept_execPlRepair {s : State} {a0 a1} : ∃ u, execPlRepair a0 a1 s = .next u ∧ Kept s u := by
  refine ⟨_, rfl, ?_⟩
  have h := kept_rfl s
  try dsimp only
  repeat' (first | with_reducible assumption | with_reducible apply kept_afterP | (with_reducible refine kept_replyIn ?_ (fun u h => ?_)) | with_reducible apply kept_repairIn)

theorem kept_wordIn {s t : State} {a0 a1} (h : Kept s t) : Kept s (wordIn a0 a1 t) := by
  unfold wordIn
  try dsimp only
  repeat' (first | with_reducible assumption | with_reducible apply kept_ckptIn | split)

theorem kept_execPlLost {s : State} {a0} : ∃ u, execPlLost a0 s = .next u ∧ Kept s u := by
  refine ⟨_, rfl, ?_⟩
  have h := kept_rfl s
  try dsimp only
  repeat' (first | with_reducible assumption | with_reducible apply kept_afterP | with_reducible apply kept_wordIn)

theorem kept_execPlSegfail {s : State} {a0} : ∃ u, execPlSegfail a0 s = .next u ∧ Kept s u := by
  refine ⟨_, rfl, ?_⟩
  have h := kept_rfl s
  try dsimp only
  repeat' (first | with_reducible assumption | with_reducible apply kept_afterP | with_reducible apply kept_wordIn)

theorem kept_execPlDiscard {s : State} {a0} : ∃ u, execPlDiscard a0 s = .next u ∧ Kept s u := by
  refine ⟨_, rfl, ?_⟩
  have h := kept_rfl s
  try dsimp only
  repeat' (first | with_reducible assumption | with_reducible apply kept_afterP | with_reducible apply kept_wordIn)

theorem kept_execPlRepairReq {s : State} {a0} : ∃ u, execPlRepairReq a0 s = .next u ∧ Kept s u := by
  refine ⟨_, rfl, ?_⟩
  have h := kept_rfl s
  try dsimp only
  repeat' (first | with_reducible assumption | with_reducible apply kept_afterP | with_reducible apply kept_wordIn)

theorem kept_execPlSynced {s : State} {a0} : ∃ u, execPlSynced a0 s = .next u ∧ Kept s u := by
  refine ⟨_, rfl, ?_⟩
  have h := kept_rfl s
  try dsimp only
  repeat' (first | with_reducible assumption | with_reducible apply kept_afterP | with_reducible apply kept_wordIn)

theorem kept_execPlHandover {s : State} {a0} : ∃ u, execPlHandover a0 s = .next u ∧ Kept s u := by
  refine ⟨_, rfl, ?_⟩
  have h := kept_rfl s
  try dsimp only
  repeat' (first | with_reducible assumption | with_reducible apply kept_afterP | with_reducible apply kept_wordIn)

theorem kept_execPlClaimed {s : State} {a0} : ∃ u, execPlClaimed a0 s = .next u ∧ Kept s u := by
  refine ⟨_, rfl, ?_⟩
  have h := kept_rfl s
  try dsimp only
  repeat' (first | with_reducible assumption | with_reducible apply kept_afterP | with_reducible apply kept_wordIn)

theorem kept_execPlPower {s : State} {a0} : ∃ u, execPlPower a0 s = .next u ∧ Kept s u := by
  refine ⟨_, rfl, ?_⟩
  have h := kept_rfl s
  try dsimp only
  repeat' (first | with_reducible assumption | with_reducible apply kept_afterP | with_reducible apply kept_wordIn)

theorem kept_execPlUpdDone {s : State} {a0} : ∃ u, execPlUpdDone a0 s = .next u ∧ Kept s u := by
  refine ⟨_, rfl, ?_⟩
  have h := kept_rfl s
  try dsimp only
  repeat' (first | with_reducible assumption | with_reducible apply kept_afterP | with_reducible apply kept_wordIn)

theorem kept_plResend {s t : State} {a0} (h : Kept s t) : Kept s (plResend a0 t) := by
  unfold plResend
  try dsimp only
  repeat' (first | with_reducible assumption | with_reducible apply kept_sendSeg | with_reducible apply kept_plFrame | with_reducible apply kept_onPrt | (with_reducible refine kept_foldl ?_ (fun u x h => ?_)) | (with_reducible refine kept_ite (fun _ => ?_) (fun _ => ?_)) | split)

theorem kept_execPlResendTimer {s : State} {a0} : ∃ u, execPlResendTimer a0 s = .next u ∧ Kept s u := by
  refine ⟨_, rfl, ?_⟩
  have h := kept_rfl s
  try dsimp only
  repeat' (first | with_reducible assumption | with_reducible apply kept_plResend)

theorem kept_pulseSend {s t : State} (h : Kept s t) : Kept s (pulseSend t) := by
  unfold pulseSend
  try dsimp only
  repeat' (first | with_reducible assumption | with_reducible apply kept_onPrt | with_reducible apply kept_send | with_reducible apply kept_plFrame | (with_reducible refine kept_ite (fun _ => ?_) (fun _ => ?_)))

theorem kept_execPulseSend {s : State} : ∃ u, execPulseSend s = .next u ∧ Kept s u := by
  refine ⟨_, rfl, ?_⟩
  have h := kept_rfl s
  try dsimp only
  repeat' (first | with_reducible assumption | with_reducible apply kept_pulseSend)

theorem kept_pulseIn {s t : State} {a0} (h : Kept s t) : Kept s (pulseIn a0 t) := by
  unfold pulseIn
  try dsimp only
  repeat' (first | with_reducible assumption | with_reducible apply kept_onPrt | with_reducible apply kept_heartbeat | (with_reducible refine kept_ite (fun _ => ?_) (fun _ => ?_)))

theorem kept_execPulseFrameReceive {s : State} {a0} : ∃ u, execPulseFrameReceive a0 s = .next u ∧ Kept s u := by
  refine ⟨_, rfl, ?_⟩
  have h := kept_rfl s
  try dsimp only
  repeat' (first | with_reducible assumption | with_reducible apply kept_afterP | with_reducible apply kept_pulseIn)

theorem kept_pulseDo {s t : State} {a0 a1 a2} (h : Kept s t) (k : ∀ u, Kept s u → Kept s (a2 u)) : Kept s (pulseDo a0 a1 a2 t) := by
  unfold pulseDo
  try dsimp only
  repeat' (first | with_reducible assumption | apply k | with_reducible apply kept_pulseIn | with_reducible apply kept_onPrt | (with_reducible refine kept_ite (fun _ => ?_) (fun _ => ?_)))

theorem kept_execPulseWake {s : State} {a0} : ∃ u, execPulseWake a0 s = .next u ∧ Kept s u := by
  refine ⟨_, rfl, ?_⟩
  have h := kept_rfl s
  try dsimp only
  repeat' (first | with_reducible assumption | with_reducible apply kept_afterP | (with_reducible refine kept_pulseDo ?_ (fun u h => ?_)) | with_reducible apply kept_wake)

theorem kept_execPulseYield {s : State} {a0} : ∃ u, execPulseYield a0 s = .next u ∧ Kept s u := by
  refine ⟨_, rfl, ?_⟩
  have h := kept_rfl s
  try dsimp only
  repeat' (first | with_reducible assumption | with_reducible apply kept_afterP | (with_reducible refine kept_pulseDo ?_ (fun u h => ?_)) | with_reducible apply kept_partnerGives)

theorem kept_execPulseHandover {s : State} {a0} : ∃ u, execPulseHandover a0 s = .next u ∧ Kept s u := by
  refine ⟨_, rfl, ?_⟩
  have h := kept_rfl s
  try dsimp only
  repeat' (first | with_reducible assumption | with_reducible apply kept_afterP | (with_reducible refine kept_pulseDo ?_ (fun u h => ?_)) | with_reducible apply kept_partnerGives | with_reducible apply kept_onPrt | (with_reducible refine kept_ite (fun _ => ?_) (fun _ => ?_)))

theorem kept_execHeartbeatPeriodMiss {s : State} {a0} : ∃ u, execHeartbeatPeriodMiss a0 s = .next u ∧ Kept s u := by
  refine ⟨_, rfl, ?_⟩
  have h := kept_rfl s
  try dsimp only
  repeat' (first | with_reducible assumption | with_reducible apply kept_afterP | with_reducible apply kept_periodMiss | (with_reducible refine kept_ite (fun _ => ?_) (fun _ => ?_)))

theorem kept_plLostWait {s t : State} (h : Kept s t) : Kept s (plLostWait t) := by
  unfold plLostWait
  try dsimp only
  repeat' (first | with_reducible assumption | with_reducible apply kept_startRound | with_reducible apply kept_enterFenced | with_reducible apply kept_pulseCommand | (with_reducible refine kept_ite (fun _ => ?_) (fun _ => ?_)))

theorem kept_execPlLostWaitExpiry {s : State} : ∃ u, execPlLostWaitExpiry s = .next u ∧ Kept s u := by
  refine ⟨_, rfl, ?_⟩
  have h := kept_rfl s
  try dsimp only
  repeat' (first | with_reducible assumption | with_reducible apply kept_afterP | with_reducible apply kept_plLostWait)

theorem kept_execClaimWaitExpiry {s : State} : ∃ u, execClaimWaitExpiry s = .next u ∧ Kept s u := by
  refine ⟨_, rfl, ?_⟩
  have h := kept_rfl s
  try dsimp only
  repeat' (first | with_reducible assumption | with_reducible apply kept_afterP | with_reducible apply kept_claimWait)

theorem kept_prtCtrl {s t : State} {a0 a1} (h : Kept s t) : Kept s (prtCtrl a0 a1 t) := by
  unfold prtCtrl
  try dsimp only
  repeat' (first | with_reducible assumption | with_reducible apply kept_accessError | with_reducible apply kept_giveVolumes | with_reducible apply kept_startHandback | with_reducible apply kept_startRound | with_reducible apply kept_pulseCommand | (with_reducible refine kept_ite (fun _ => ?_) (fun _ => ?_)) | split)

theorem kept_execPrtCtrlGiveVolumes {s : State} {a0 a1} : ∃ u, execPrtCtrlGiveVolumes a0 a1 s = .next u ∧ Kept s u := by
  refine ⟨_, rfl, ?_⟩
  have h := kept_rfl s
  try dsimp only
  repeat' (first | with_reducible assumption | with_reducible apply kept_afterP | (with_reducible refine kept_accessWrite ?_ (fun u h => ?_)) | with_reducible apply kept_prtCtrl)

theorem kept_execPrtCtrlHandback {s : State} {a0 a1} : ∃ u, execPrtCtrlHandback a0 a1 s = .next u ∧ Kept s u := by
  refine ⟨_, rfl, ?_⟩
  have h := kept_rfl s
  try dsimp only
  repeat' (first | with_reducible assumption | with_reducible apply kept_afterP | (with_reducible refine kept_accessWrite ?_ (fun u h => ?_)) | with_reducible apply kept_prtCtrl)

theorem kept_execPrtCtrlSoloStart {s : State} {a0 a1} : ∃ u, execPrtCtrlSoloStart a0 a1 s = .next u ∧ Kept s u := by
  refine ⟨_, rfl, ?_⟩
  have h := kept_rfl s
  try dsimp only
  repeat' (first | with_reducible assumption | with_reducible apply kept_afterP | (with_reducible refine kept_accessWrite ?_ (fun u h => ?_)) | with_reducible apply kept_prtCtrl)

theorem kept_execPrtCtrlSendResetReq {s : State} {a0 a1} : ∃ u, execPrtCtrlSendResetReq a0 a1 s = .next u ∧ Kept s u := by
  refine ⟨_, rfl, ?_⟩
  have h := kept_rfl s
  try dsimp only
  repeat' (first | with_reducible assumption | with_reducible apply kept_afterP | (with_reducible refine kept_accessWrite ?_ (fun u h => ?_)) | with_reducible apply kept_prtCtrl)

end Sys2Proof.Machine
end

