-- ==== Sys2Proof/Laws/Kept/Loops.lean ====
section
/-! SUPPORT. What the operations of Machine/Loops.lean keep (`Kept`). -/

namespace Sys2Proof.Machine

theorem kept_onLoop {s t : State} {a0 a1 a2} (h : Kept s t) : Kept s (onLoop a0 a1 a2 t) := by
  unfold onLoop
  try dsimp only
  repeat' (first | with_reducible assumption | with_reducible apply kept_onAdp)

theorem kept_selfFreeze {s t : State} {a0 a1} (h : Kept s t) : Kept s (selfFreeze a0 a1 t) := by
  unfold selfFreeze
  try dsimp only
  repeat' (first | with_reducible assumption | with_reducible apply kept_note | with_reducible apply kept_onAdp)

theorem kept_countAction {s t : State} {a0} (h : Kept s t) : Kept s (countAction a0 t) := by
  unfold countAction
  try dsimp only
  repeat' (first | with_reducible assumption | with_reducible apply kept_onAdp)

theorem kept_limitHit {s t : State} {a0} (h : Kept s t) : Kept s (limitHit a0 t) := by
  unfold limitHit
  try dsimp only
  repeat' (first | with_reducible assumption | with_reducible apply kept_onAdp)

theorem kept_countReversal {s t : State} {a0} (h : Kept s t) : Kept s (countReversal a0 t) := by
  unfold countReversal
  try dsimp only
  repeat' (first | with_reducible assumption | with_reducible apply kept_onAdp)

theorem kept_loopAct {s t : State} {a0 a1 a2 a3 a4} (h : Kept s t) : Kept s (loopAct a0 a1 a2 a3 a4 t) := by
  unfold loopAct
  try dsimp only
  repeat' (first | with_reducible assumption | with_reducible apply kept_countAction | with_reducible apply kept_onLoop | with_reducible apply kept_countReversal | with_reducible apply kept_selfFreeze | (with_reducible refine kept_ite (fun _ => ?_) (fun _ => ?_)) | split)

theorem kept_probeReads {s t : State} {a0 a1 a2 a3 a4} (h : Kept s t) : Kept s (probeReads a0 a1 a2 a3 a4 t) := by
  unfold probeReads
  try dsimp only
  repeat' (first | with_reducible assumption | with_reducible apply kept_onBlk | with_reducible apply kept_onAdp | with_reducible apply kept_readPage)

theorem kept_rtMeasure {s t : State} {a0 a1 a2 a3 a4 a5} (h : Kept s t) : Kept s (rtMeasure a0 a1 a2 a3 a4 a5 t) := by
  unfold rtMeasure
  try dsimp only
  repeat' (first | with_reducible assumption | with_reducible apply kept_onBlk | with_reducible apply kept_onLoop | with_reducible apply kept_probeReads | (with_reducible refine kept_ite (fun _ => ?_) (fun _ => ?_)))

theorem kept_rtMove {s t : State} {a0 a1 a2} (h : Kept s t) : Kept s (rtMove a0 a1 a2 t) := by
  unfold rtMove
  try dsimp only
  repeat' (first | with_reducible assumption | with_reducible apply kept_onBlk | with_reducible apply kept_countAction | with_reducible apply kept_onLoop | with_reducible apply kept_limitHit | with_reducible apply kept_countReversal | with_reducible apply kept_selfFreeze | (with_reducible refine kept_ite (fun _ => ?_) (fun _ => ?_)) | split)

theorem kept_probeDone {s t : State} {a0 a1 a2 a3} (h : Kept s t) : Kept s (probeDone a0 a1 a2 a3 t) := by
  unfold probeDone
  try dsimp only
  repeat' (first | with_reducible assumption | with_reducible apply kept_onBlk | with_reducible apply kept_rtMove | with_reducible apply kept_startReloc | (with_reducible refine kept_ite (fun _ => ?_) (fun _ => ?_)) | split)

theorem kept_ladderGood {s t : State} {a0 a1 a2} (h : Kept s t) : Kept s (ladderGood a0 a1 a2 t) := by
  unfold ladderGood
  try dsimp only
  repeat' (first | with_reducible assumption | (with_reducible refine kept_onFtl_same ?_ (fun _ => rfl) (fun _ => rfl)) | (with_reducible refine kept_onFtl ?_ ?_) | exact fun x => ⟨x.1, x.2.1, tabDel_nodup x.2.2.1, fun e he => x.2.2.2 e (mem_tabDel he)⟩ | exact fun x => ⟨x.1, x.2.1, tabPut_nodup x.2.2.1, fun e he => (mem_tabPut he).elim (fun q => q ▸ by assumption) (x.2.2.2 e)⟩ | exact fun _ => canonical_empty rfl rfl | (intro hx; (try dsimp only); split <;> exact hx) | with_reducible apply kept_onBlk)

theorem kept_ladderFailed {s t : State} {a0 a1} (h : Kept s t) : Kept s (ladderFailed a0 a1 t) := by
  unfold ladderFailed
  try dsimp only
  repeat' (first | with_reducible assumption | with_reducible apply kept_note | (with_reducible refine kept_onFtl_same ?_ (fun _ => rfl) (fun _ => rfl)) | (with_reducible refine kept_onFtl ?_ ?_) | exact fun x => ⟨x.1, x.2.1, tabDel_nodup x.2.2.1, fun e he => x.2.2.2 e (mem_tabDel he)⟩ | exact fun x => ⟨x.1, x.2.1, tabPut_nodup x.2.2.1, fun e he => (mem_tabPut he).elim (fun q => q ▸ by assumption) (x.2.2.2 e)⟩ | exact fun _ => canonical_empty rfl rfl | (intro hx; (try dsimp only); split <;> exact hx) | with_reducible apply kept_onBlk | with_reducible apply kept_startReloc | (with_reducible refine kept_ite (fun _ => ?_) (fun _ => ?_)))

end Sys2Proof.Machine
end

