-- ==== Sys2Proof/Laws/Kept/Sleds.lean ====
section
/-! SUPPORT. What the operations of Machine/Sleds.lean keep (`Kept`). -/

namespace Sys2Proof.Machine

theorem kept_portStart {s t : State} {a0} (h : Kept s t) : Kept s (portStart a0 t) := by
  unfold portStart
  try dsimp only
  repeat' (first | with_reducible assumption | with_reducible apply kept_send | with_reducible apply kept_onPort | (with_reducible refine kept_ite (fun _ => ?_) (fun _ => ?_)))

theorem kept_portClose {s t : State} {a0} (h : Kept s t) : Kept s (portClose a0 t) := by
  unfold portClose
  try dsimp only
  repeat' (first | with_reducible assumption | with_reducible apply kept_onPort | with_reducible apply kept_sledOut | with_reducible apply kept_handOver | (with_reducible refine kept_onFtl_same ?_ (fun _ => rfl) (fun _ => rfl)) | (with_reducible refine kept_onFtl ?_ ?_) | exact fun x => ⟨x.1, x.2.1, tabDel_nodup x.2.2.1, fun e he => x.2.2.2 e (mem_tabDel he)⟩ | exact fun x => ⟨x.1, x.2.1, tabPut_nodup x.2.2.1, fun e he => (mem_tabPut he).elim (fun q => q ▸ by assumption) (x.2.2.2 e)⟩ | exact fun _ => canonical_empty rfl rfl | (intro hx; (try dsimp only); split <;> exact hx) | (with_reducible refine kept_ite (fun _ => ?_) (fun _ => ?_)))

theorem kept_portDown {s t : State} {a0 a1} (h : Kept s t) : Kept s (portDown a0 a1 t) := by
  unfold portDown
  try dsimp only
  repeat' (first | with_reducible assumption | with_reducible apply kept_portClose | with_reducible apply kept_raise | with_reducible apply kept_onSld | with_reducible apply kept_soloDecide | with_reducible apply kept_onPrt | (with_reducible refine kept_ite (fun _ => ?_) (fun _ => ?_)))

theorem kept_retrain {s t : State} {a0 a1} (h : Kept s t) : Kept s (retrain a0 a1 t) := by
  unfold retrain
  try dsimp only
  repeat' (first | with_reducible assumption | with_reducible apply kept_onSld | with_reducible apply kept_onPort | with_reducible apply kept_portDown | with_reducible apply kept_send | (with_reducible refine kept_ite (fun _ => ?_) (fun _ => ?_)))

theorem kept_execPrsntChange {s : State} {a0 a1} : ∃ u, execPrsntChange a0 a1 s = .next u ∧ Kept s u := by
  refine ⟨_, rfl, ?_⟩
  have h := kept_rfl s
  try dsimp only
  repeat' (first | with_reducible assumption | with_reducible apply kept_onPort)

theorem kept_presenceStable {s t : State} {a0} (h : Kept s t) : Kept s (presenceStable a0 t) := by
  unfold presenceStable
  try dsimp only
  repeat' (first | with_reducible assumption | with_reducible apply kept_onPort | with_reducible apply kept_portStart | with_reducible apply kept_portDown | (with_reducible refine kept_ite (fun _ => ?_) (fun _ => ?_)))

theorem kept_execPrsntDebounceExpiry {s : State} {a0} : ∃ u, execPrsntDebounceExpiry a0 s = .next u ∧ Kept s u := by
  refine ⟨_, rfl, ?_⟩
  have h := kept_rfl s
  try dsimp only
  repeat' (first | with_reducible assumption | with_reducible apply kept_afterP | with_reducible apply kept_presenceStable)

theorem kept_linkUp {s t : State} {a0 a1} (h : Kept s t) : Kept s (linkUp a0 a1 t) := by
  unfold linkUp
  try dsimp only
  repeat' (first | with_reducible assumption | with_reducible apply kept_onPort | with_reducible apply kept_note | with_reducible apply kept_oslIdentify | with_reducible apply kept_sendControl | (with_reducible refine kept_ite (fun _ => ?_) (fun _ => ?_)) | split)

theorem kept_execSledLinkL0 {s : State} {a0 a1} : ∃ u, execSledLinkL0 a0 a1 s = .next u ∧ Kept s u := by
  refine ⟨_, rfl, ?_⟩
  have h := kept_rfl s
  try dsimp only
  repeat' (first | with_reducible assumption | with_reducible apply kept_afterP | with_reducible apply kept_linkUp)

theorem kept_ackFlits {s t : State} {a0 a1} (h : Kept s t) : Kept s (ackFlits a0 a1 t) := by
  unfold ackFlits
  try dsimp only
  repeat' (first | with_reducible assumption | with_reducible apply kept_send | with_reducible apply kept_onPort | (with_reducible refine kept_foldl4 ?_ (fun u x h => ?_)) | (with_reducible refine kept_foldl3 ?_ (fun u x h => ?_)) | (with_reducible refine kept_foldl2 ?_ (fun u x h => ?_)) | (with_reducible refine kept_foldl ?_ (fun u x h => ?_)) | split)

theorem kept_flitTakes {s t : State} {a0 a1} (h : Kept s t) : Kept s (flitTakes a0 a1 t) := by
  unfold flitTakes
  try dsimp only
  repeat' (first | with_reducible assumption | with_reducible apply kept_ackFlits | with_reducible apply kept_pumpSled | with_reducible apply kept_onPort | (with_reducible refine kept_ite (fun _ => ?_) (fun _ => ?_)) | split)

theorem kept_flitNak {s t : State} {a0} (h : Kept s t) : Kept s (flitNak a0 t) := by
  unfold flitNak
  try dsimp only
  repeat' (first | with_reducible assumption | with_reducible apply kept_sendControl | with_reducible apply kept_onPort | (with_reducible refine kept_ite (fun _ => ?_) (fun _ => ?_)))

theorem kept_flitIn {s t : State} {a0 a1} (h : Kept s t) : Kept s (flitIn a0 a1 t) := by
  unfold flitIn
  try dsimp only
  repeat' (first | with_reducible assumption | with_reducible apply kept_flitNak | with_reducible apply kept_flitTakes | with_reducible apply kept_onPort | (with_reducible refine kept_ite (fun _ => ?_) (fun _ => ?_)))

theorem kept_execOslFlitReceive {s : State} {a0 a1} : ∃ u, execOslFlitReceive a0 a1 s = .next u ∧ Kept s u := by
  refine ⟨_, rfl, ?_⟩
  have h := kept_rfl s
  try dsimp only
  repeat' (first | with_reducible assumption | with_reducible apply kept_afterP | with_reducible apply kept_flitIn)

theorem kept_replayFlits {s t : State} {a0} (h : Kept s t) : Kept s (replayFlits a0 t) := by
  unfold replayFlits
  try dsimp only
  repeat' (first | with_reducible assumption | with_reducible apply kept_send | with_reducible apply kept_onSld | with_reducible apply kept_onPort | (with_reducible refine kept_foldl4 ?_ (fun u x h => ?_)) | (with_reducible refine kept_foldl3 ?_ (fun u x h => ?_)) | (with_reducible refine kept_foldl2 ?_ (fun u x h => ?_)) | (with_reducible refine kept_foldl ?_ (fun u x h => ?_)) | (with_reducible refine kept_ite (fun _ => ?_) (fun _ => ?_)) | split)

theorem kept_nakIn {s t : State} {a0 a1} (h : Kept s t) : Kept s (nakIn a0 a1 t) := by
  unfold nakIn
  try dsimp only
  repeat' (first | with_reducible assumption | with_reducible apply kept_ackFlits | with_reducible apply kept_retrain | with_reducible apply kept_replayFlits | (with_reducible refine kept_ite (fun _ => ?_) (fun _ => ?_)) | split)

theorem kept_execOslNak {s : State} {a0 a1} : ∃ u, execOslNak a0 a1 s = .next u ∧ Kept s u := by
  refine ⟨_, rfl, ?_⟩
  have h := kept_rfl s
  try dsimp only
  repeat' (first | with_reducible assumption | with_reducible apply kept_afterP | with_reducible apply kept_nakIn)

theorem kept_initCredit {s t : State} {a0 a1} (h : Kept s t) : Kept s (initCredit a0 a1 t) := by
  unfold initCredit
  try dsimp only
  repeat' (first | with_reducible assumption | with_reducible apply kept_pumpSled | with_reducible apply kept_onPort | (with_reducible refine kept_ite (fun _ => ?_) (fun _ => ?_)))

theorem kept_execOslInitCredit {s : State} {a0 a1} : ∃ u, execOslInitCredit a0 a1 s = .next u ∧ Kept s u := by
  refine ⟨_, rfl, ?_⟩
  have h := kept_rfl s
  try dsimp only
  repeat' (first | with_reducible assumption | with_reducible apply kept_afterP | with_reducible apply kept_initCredit)

theorem kept_eqSet {s t : State} {a0 a1} (h : Kept s t) : Kept s (eqSet a0 a1 t) := by
  unfold eqSet
  try dsimp only
  repeat' (first | with_reducible assumption | with_reducible apply kept_onPort | with_reducible apply kept_sendControl | (with_reducible refine kept_ite (fun _ => ?_) (fun _ => ?_)) | split)

theorem kept_execOslEqSet {s : State} {a0 a1} : ∃ u, execOslEqSet a0 a1 s = .next u ∧ Kept s u := by
  refine ⟨_, rfl, ?_⟩
  have h := kept_rfl s
  try dsimp only
  repeat' (first | with_reducible assumption | with_reducible apply kept_afterP | with_reducible apply kept_eqSet)

theorem kept_eqAck {s t : State} {a0 a1} (h : Kept s t) : Kept s (eqAck a0 a1 t) := by
  unfold eqAck
  try dsimp only
  repeat' (first | with_reducible assumption | with_reducible apply kept_onPort | (with_reducible refine kept_ite (fun _ => ?_) (fun _ => ?_)))

theorem kept_execOslEqAck {s : State} {a0 a1} : ∃ u, execOslEqAck a0 a1 s = .next u ∧ Kept s u := by
  refine ⟨_, rfl, ?_⟩
  have h := kept_rfl s
  try dsimp only
  repeat' (first | with_reducible assumption | with_reducible apply kept_afterP | with_reducible apply kept_eqAck)

theorem kept_restIdle {s t : State} {a0} (h : Kept s t) : Kept s (restIdle a0 t) := by
  unfold restIdle
  try dsimp only
  repeat' (first | with_reducible assumption | with_reducible apply kept_sendControl | with_reducible apply kept_onPort | (with_reducible refine kept_ite (fun _ => ?_) (fun _ => ?_)))

theorem kept_execSledRestIdle {s : State} {a0} : ∃ u, execSledRestIdle a0 s = .next u ∧ Kept s u := by
  refine ⟨_, rfl, ?_⟩
  have h := kept_rfl s
  try dsimp only
  repeat' (first | with_reducible assumption | with_reducible apply kept_afterP | with_reducible apply kept_restIdle)

theorem kept_restAck {s t : State} {a0} (h : Kept s t) : Kept s (restAck a0 t) := by
  unfold restAck
  try dsimp only
  repeat' (first | with_reducible assumption | with_reducible apply kept_pumpSled | with_reducible apply kept_send | with_reducible apply kept_onPort | (with_reducible refine kept_ite (fun _ => ?_) (fun _ => ?_)))

theorem kept_execOslRestAck {s : State} {a0} : ∃ u, execOslRestAck a0 s = .next u ∧ Kept s u := by
  refine ⟨_, rfl, ?_⟩
  have h := kept_rfl s
  try dsimp only
  repeat' (first | with_reducible assumption | with_reducible apply kept_afterP | with_reducible apply kept_restAck)

theorem kept_execRestExit {s : State} {a0} : ∃ u, execRestExit a0 s = .next u ∧ Kept s u := by
  refine ⟨_, rfl, ?_⟩
  have h := kept_rfl s
  try dsimp only
  repeat' (first | with_reducible assumption | with_reducible apply kept_send | with_reducible apply kept_onPort | (with_reducible refine kept_ite (fun _ => ?_) (fun _ => ?_)))

theorem kept_reissue {s t : State} {a0 a1} (h : Kept s t) : Kept s (reissue a0 a1 t) := by
  unfold reissue
  try dsimp only
  repeat' (first | with_reducible assumption | with_reducible apply kept_pumpSled | with_reducible apply kept_onPort | split)

theorem kept_recallAll {s t : State} {a0} (h : Kept s t) : Kept s (recallAll a0 t) := by
  unfold recallAll
  try dsimp only
  repeat' (first | with_reducible assumption | with_reducible apply kept_onPort | with_reducible apply kept_reissue | with_reducible apply kept_oslRecall | (with_reducible refine kept_foldl4 ?_ (fun u x h => ?_)) | (with_reducible refine kept_foldl3 ?_ (fun u x h => ?_)) | (with_reducible refine kept_foldl2 ?_ (fun u x h => ?_)) | (with_reducible refine kept_foldl ?_ (fun u x h => ?_)) | (with_reducible refine kept_ite (fun _ => ?_) (fun _ => ?_)) | split)

theorem kept_retrained {s t : State} {a0} (h : Kept s t) : Kept s (retrained a0 t) := by
  unfold retrained
  try dsimp only
  repeat' (first | with_reducible assumption | with_reducible apply kept_onPort | with_reducible apply kept_replayFlits | with_reducible apply kept_pumpSled | with_reducible apply kept_recallAll | (with_reducible refine kept_ite (fun _ => ?_) (fun _ => ?_)) | split)

theorem kept_execRetrainComplete {s : State} {a0} : ∃ u, execRetrainComplete a0 s = .next u ∧ Kept s u := by
  refine ⟨_, rfl, ?_⟩
  have h := kept_rfl s
  try dsimp only
  repeat' (first | with_reducible assumption | with_reducible apply kept_afterP | with_reducible apply kept_retrained)

theorem kept_execRetrainTimeout {s : State} {a0} : ∃ u, execRetrainTimeout a0 s = .next u ∧ Kept s u := by
  refine ⟨_, rfl, ?_⟩
  have h := kept_rfl s
  try dsimp only
  repeat' (first | with_reducible assumption | with_reducible apply kept_afterP | with_reducible apply kept_portDown | (with_reducible refine kept_ite (fun _ => ?_) (fun _ => ?_)))

theorem kept_cmdTimeout {s t : State} {a0 a1} (h : Kept s t) : Kept s (cmdTimeout a0 a1 t) := by
  unfold cmdTimeout
  try dsimp only
  repeat' (first | with_reducible assumption | with_reducible apply kept_onSld | with_reducible apply kept_onPort | with_reducible apply kept_retrain | (with_reducible refine kept_ite (fun _ => ?_) (fun _ => ?_)) | split)

theorem kept_execSldCmdTimeoutExpiry {s : State} {a0 a1} : ∃ u, execSldCmdTimeoutExpiry a0 a1 s = .next u ∧ Kept s u := by
  refine ⟨_, rfl, ?_⟩
  have h := kept_rfl s
  try dsimp only
  repeat' (first | with_reducible assumption | with_reducible apply kept_afterP | with_reducible apply kept_cmdTimeout)

theorem kept_sledForeign {s t : State} {a0} (h : Kept s t) : Kept s (sledForeign a0 t) := by
  unfold sledForeign
  try dsimp only
  repeat' (first | with_reducible assumption | with_reducible apply kept_note | with_reducible apply kept_onPort | (with_reducible refine kept_ite (fun _ => ?_) (fun _ => ?_)))

theorem kept_reissueErases {s t : State} {a0} (h : Kept s t) : Kept s (reissueErases a0 t) := by
  unfold reissueErases
  try dsimp only
  repeat' (first | with_reducible assumption | with_reducible apply kept_reissue | (with_reducible refine kept_foldl4 ?_ (fun u x h => ?_)) | (with_reducible refine kept_foldl3 ?_ (fun u x h => ?_)) | (with_reducible refine kept_foldl2 ?_ (fun u x h => ?_)) | (with_reducible refine kept_foldl ?_ (fun u x h => ?_)))

theorem kept_claimUp {s t : State} {a0} (h : Kept s t) : Kept s (claimUp a0 t) := by
  unfold claimUp
  try dsimp only
  repeat' (first | with_reducible assumption | with_reducible apply kept_oslClaim | with_reducible apply kept_onPrt | with_reducible apply kept_sendJoinOwed | with_reducible apply kept_sendOwed | (with_reducible refine kept_ite (fun _ => ?_) (fun _ => ?_)) | split)

theorem kept_programFailed {s t : State} {a0 a1 a2 a3 a4 a5} (h : Kept s t) : Kept s (programFailed a0 a1 a2 a3 a4 a5 t) := by
  unfold programFailed
  try dsimp only
  repeat' (first | with_reducible assumption | with_reducible apply kept_relocFailed | with_reducible apply kept_onPar | with_reducible apply kept_pageDone | with_reducible apply kept_startReloc | (with_reducible refine kept_ite (fun _ => ?_) (fun _ => ?_)) | split)

theorem kept_sledUp {s t : State} {a0} (h : Kept s t) : Kept s (sledUp a0 t) := by
  unfold sledUp
  try dsimp only
  repeat' (first | with_reducible assumption | with_reducible apply kept_onPort | with_reducible apply kept_oslClaim | with_reducible apply kept_claimUp | with_reducible apply kept_programFailed | with_reducible apply kept_recallAll | with_reducible apply kept_refreshSled | with_reducible apply kept_bindSled | (with_reducible refine kept_foldl4 ?_ (fun u x h => ?_)) | (with_reducible refine kept_foldl3 ?_ (fun u x h => ?_)) | (with_reducible refine kept_foldl2 ?_ (fun u x h => ?_)) | (with_reducible refine kept_foldl ?_ (fun u x h => ?_)) | (with_reducible refine kept_ite (fun _ => ?_) (fun _ => ?_)) | split)

theorem kept_identified {s t : State} {a0 a1} (h : Kept s t) : Kept s (identified a0 a1 t) := by
  unfold identified
  try dsimp only
  repeat' (first | with_reducible assumption | with_reducible apply kept_onPort | with_reducible apply kept_note | with_reducible apply kept_sledForeign | with_reducible apply kept_oslBadList | with_reducible apply kept_oslDieInfo | with_reducible apply kept_sledUp | (with_reducible refine kept_foldl ?_ (fun u x h => ?_)) | (with_reducible refine kept_ite (fun _ => ?_) (fun _ => ?_)))

theorem kept_dieInfo {s t : State} {a0 a1 a2} (h : Kept s t) : Kept s (dieInfo a0 a1 a2 t) := by
  unfold dieInfo
  try dsimp only
  repeat' (first | with_reducible assumption | with_reducible apply kept_onPort | with_reducible apply kept_sledForeign | with_reducible apply kept_sledUp | (with_reducible refine kept_ite (fun _ => ?_) (fun _ => ?_)) | split)

theorem kept_blockBad {s t : State} {a0 a1} (h : Kept s t) : Kept s (blockBad a0 a1 t) := by
  unfold blockBad
  try dsimp only
  repeat' (first | with_reducible assumption | with_reducible apply kept_retireBlock | with_reducible apply kept_onBlk | with_reducible apply kept_startReloc | (with_reducible refine kept_ite (fun _ => ?_) (fun _ => ?_)))

theorem kept_statusDie {s t : State} {a0 a1 a2} (h : Kept s t) : Kept s (statusDie a0 a1 a2 t) := by
  unfold statusDie
  try dsimp only
  repeat' (first | with_reducible assumption | with_reducible apply kept_failDie | with_reducible apply kept_blockBad | (with_reducible refine kept_ite (fun _ => ?_) (fun _ => ?_)))

theorem kept_readDone {s t : State} {a0 a1 a2 a3 a4} (h : Kept s t) : Kept s (readDone a0 a1 a2 a3 a4 t) := by
  unfold readDone
  try dsimp only
  repeat' (first | with_reducible assumption | with_reducible apply kept_ladderGood | with_reducible apply kept_jobRead | with_reducible apply kept_readLimit | with_reducible apply kept_rtMeasure | with_reducible apply kept_readPage | with_reducible apply kept_ladderFailed | with_reducible apply kept_statusDie | with_reducible apply kept_probeDone | with_reducible apply kept_onPort | (with_reducible refine kept_ite (fun _ => ?_) (fun _ => ?_)) | split)

theorem kept_programDone {s t : State} {a0 a1 a2 a3} (h : Kept s t) : Kept s (programDone a0 a1 a2 a3 t) := by
  unfold programDone
  try dsimp only
  repeat' (first | with_reducible assumption | with_reducible apply kept_onBlk | with_reducible apply kept_pageDone | (with_reducible refine kept_onFtl_same ?_ (fun _ => rfl) (fun _ => rfl)) | (with_reducible refine kept_onFtl ?_ ?_) | exact fun x => ⟨x.1, x.2.1, tabDel_nodup x.2.2.1, fun e he => x.2.2.2 e (mem_tabDel he)⟩ | exact fun x => ⟨x.1, x.2.1, tabPut_nodup x.2.2.1, fun e he => (mem_tabPut he).elim (fun q => q ▸ by assumption) (x.2.2.2 e)⟩ | exact fun _ => canonical_empty rfl rfl | (intro hx; (try dsimp only); split <;> exact hx) | with_reducible apply kept_programFailed | with_reducible apply kept_statusDie | (with_reducible refine kept_ite (fun _ => ?_) (fun _ => ?_)) | split)

theorem kept_eraseDone {s t : State} {a0 a1 a2 a3} (h : Kept s t) : Kept s (eraseDone a0 a1 a2 a3 t) := by
  unfold eraseDone
  try dsimp only
  repeat' (first | with_reducible assumption | with_reducible apply kept_onSeg | with_reducible apply kept_onBlk | with_reducible apply kept_retireBlock | with_reducible apply kept_wearLevel | with_reducible apply kept_statusDie | (with_reducible refine kept_ite (fun _ => ?_) (fun _ => ?_)) | split)

theorem kept_oslDone {s t : State} {a0 a1 a2 a3 a4 a5 a6} (h : Kept s t) : Kept s (oslDone a0 a1 a2 a3 a4 a5 a6 t) := by
  unfold oslDone
  try dsimp only
  repeat' (first | with_reducible assumption | with_reducible apply kept_identified | with_reducible apply kept_soloRead | with_reducible apply kept_dieInfo | with_reducible apply kept_statusDie | with_reducible apply kept_onPort | with_reducible apply kept_sledForeign | with_reducible apply kept_sledUp | (with_reducible refine kept_onFtl_same ?_ (fun _ => rfl) (fun _ => rfl)) | (with_reducible refine kept_onFtl ?_ ?_) | exact fun x => ⟨x.1, x.2.1, tabDel_nodup x.2.2.1, fun e he => x.2.2.2 e (mem_tabDel he)⟩ | exact fun x => ⟨x.1, x.2.1, tabPut_nodup x.2.2.1, fun e he => (mem_tabPut he).elim (fun q => q ▸ by assumption) (x.2.2.2 e)⟩ | exact fun _ => canonical_empty rfl rfl | (intro hx; (try dsimp only); split <;> exact hx) | with_reducible apply kept_failDie | with_reducible apply kept_claimDone | with_reducible apply kept_reissueErases | with_reducible apply kept_oslBind | with_reducible apply kept_readDone | with_reducible apply kept_programDone | with_reducible apply kept_eraseDone | (with_reducible refine kept_ite (fun _ => ?_) (fun _ => ?_)) | split)

theorem kept_oslReply {s t : State} {a0 a1 a2} (h : Kept s t) : Kept s (oslReply a0 a1 a2 t) := by
  unfold oslReply
  try dsimp only
  repeat' (first | with_reducible assumption | with_reducible apply kept_claimSeen | with_reducible apply kept_onPort | with_reducible apply kept_claimLost | with_reducible apply kept_onSld | with_reducible apply kept_reissue | with_reducible apply kept_claimUp | with_reducible apply kept_oslDone | with_reducible apply kept_pumpSled | (with_reducible refine kept_ite (fun _ => ?_) (fun _ => ?_)) | split)

theorem kept_execOslCpl {s : State} {a0 a1} : ∃ u, execOslCpl a0 a1 s = .next u ∧ Kept s u := by
  refine ⟨_, rfl, ?_⟩
  have h := kept_rfl s
  try dsimp only
  repeat' (first | with_reducible assumption | with_reducible apply kept_afterP | with_reducible apply kept_oslReply)

theorem kept_execOslRdata {s : State} {a0 a1} : ∃ u, execOslRdata a0 a1 s = .next u ∧ Kept s u := by
  refine ⟨_, rfl, ?_⟩
  have h := kept_rfl s
  try dsimp only
  repeat' (first | with_reducible assumption | with_reducible apply kept_afterP | with_reducible apply kept_oslReply)

theorem kept_noticeIn {s t : State} {a0 a1} (h : Kept s t) : Kept s (noticeIn a0 a1 t) := by
  unfold noticeIn
  try dsimp only
  repeat' (first | with_reducible assumption | with_reducible apply kept_claimSeen | with_reducible apply kept_onPort | with_reducible apply kept_failDie | with_reducible apply kept_blockBad | with_reducible apply kept_claimLost | (with_reducible refine kept_ite (fun _ => ?_) (fun _ => ?_)) | split)

theorem kept_execOslNotice {s : State} {a0 a1} : ∃ u, execOslNotice a0 a1 s = .next u ∧ Kept s u := by
  refine ⟨_, rfl, ?_⟩
  have h := kept_rfl s
  try dsimp only
  repeat' (first | with_reducible assumption | with_reducible apply kept_afterP | with_reducible apply kept_noticeIn)

end Sys2Proof.Machine
end

