-- ==== Sys2Proof/Laws/Kept/Points.lean ====
section
/-! SUPPORT. What the operations of Machine/Points.lean keep (`Kept`). -/

namespace Sys2Proof.Machine

theorem kept_execPreservedPageRelease {s : State} {a0 a1} : ∃ u, execPreservedPageRelease a0 a1 s = .next u ∧ Kept s u := by
  refine ⟨_, rfl, ?_⟩
  have h := kept_rfl s
  try dsimp only
  repeat' (first | with_reducible assumption | with_reducible apply kept_after | with_reducible apply kept_releasePage | (with_reducible refine kept_ite (fun _ => ?_) (fun _ => ?_)))

theorem kept_replPeriod {s t : State} {a0} (h : Kept s t) : Kept s (replPeriod a0 t) := by
  unfold replPeriod
  try dsimp only
  repeat' (first | with_reducible assumption | with_reducible apply kept_onCmd | (with_reducible refine kept_ite (fun _ => ?_) (fun _ => ?_)) | split)

theorem kept_execReplPeriodExpiry {s : State} {a0} : ∃ u, execReplPeriodExpiry a0 s = .next u ∧ Kept s u := by
  refine ⟨_, rfl, ?_⟩
  have h := kept_rfl s
  try dsimp only
  repeat' (first | with_reducible assumption | with_reducible apply kept_after | with_reducible apply kept_replPeriod)

theorem kept_replSessionWait {s t : State} {a0} (h : Kept s t) : Kept s (replSessionWait a0 t) := by
  unfold replSessionWait
  try dsimp only
  repeat' (first | with_reducible assumption | with_reducible apply kept_openTarget | with_reducible apply kept_onSource | (with_reducible refine kept_foldl ?_ (fun u x h => ?_)))

theorem kept_execReplSessionWaitExpiry {s : State} {a0} : ∃ u, execReplSessionWaitExpiry a0 s = .next u ∧ Kept s u := by
  refine ⟨_, rfl, ?_⟩
  have h := kept_rfl s
  try dsimp only
  repeat' (first | with_reducible assumption | with_reducible apply kept_after | with_reducible apply kept_replSessionWait)

theorem kept_execReplLag {s : State} {a0} : ∃ u, execReplLag a0 s = .next u ∧ Kept s u := by
  refine ⟨_, rfl, ?_⟩
  have h := kept_rfl s
  try dsimp only
  repeat' (first | with_reducible assumption | with_reducible apply kept_replLag)

end Sys2Proof.Machine
end

