-- ==== Sys2Proof/Laws/Kept/Load.lean ====
section
/-! SUPPORT. What the operations of Machine/Load.lean keep (`Kept`). -/

namespace Sys2Proof.Machine

end Sys2Proof.Machine
end

