-- ==== Sys2Proof/Laws/Kept/Resets.lean ====
section
/-! SUPPORT. What the operations of Machine/Resets.lean keep (`Kept`). -/

namespace Sys2Proof.Machine

theorem kept_cdcReset {s t : State} {a0} (h : Kept s t) : Kept s (cdcReset a0 t) := by
  unfold cdcReset
  try dsimp only
  repeat' (first | with_reducible assumption | with_reducible apply kept_onClk | (with_reducible refine kept_ite (fun _ => ?_) (fun _ => ?_)))

theorem kept_warm {s t : State} (h : Kept s t) : Kept s (State.warm t) := by
  have h1 : Kept s (dropWork (shadowClear t)) := kept_dropWork (kept_shadowClear h)
  unfold State.warm
  generalize dropWork (shadowClear t) = u at h1
  exact h1.of_eq rfl rfl rfl rfl (fun _ => ⟨fun y => (nomatch y), fun y => (nomatch y)⟩) (fun x => x)

theorem kept_engineReset {s t : State} {a0 a1} (h : Kept s t) : Kept s (engineReset a0 a1 t) := by
  unfold engineReset
  try dsimp only
  repeat' (first | with_reducible assumption | with_reducible apply kept_finish | with_reducible apply kept_dropWindows | (with_reducible refine kept_foldl ?_ (fun u x h => ?_)))

theorem kept_subsSilent {s t : State} (h : Kept s t) : Kept s (subsSilent t) := by
  unfold subsSilent
  try dsimp only
  repeat' (first | with_reducible assumption | with_reducible apply kept_onFab)

theorem kept_resetFab {s t : State} (h : Kept s t) : Kept s (resetFab t) := by
  unfold resetFab
  try dsimp only
  repeat' (first | with_reducible assumption | with_reducible apply kept_raise | with_reducible apply kept_subsSilent | with_reducible apply kept_qpError | with_reducible apply kept_onFab | (with_reducible refine kept_foldl ?_ (fun u x h => ?_)))

theorem kept_resetQpc {s t : State} (h : Kept s t) : Kept s (resetQpc t) := by
  unfold resetQpc
  try dsimp only
  repeat' (first | with_reducible assumption | with_reducible apply kept_onQpc)

theorem kept_resetCmd {s t : State} (h : Kept s t) : Kept s (resetCmd t) := by
  unfold resetCmd
  try dsimp only
  repeat' (first | with_reducible assumption | with_reducible apply kept_checkWrite | with_reducible apply kept_onCmd | with_reducible apply kept_engineReset | (with_reducible refine kept_foldl ?_ (fun u x h => ?_)))

theorem kept_resetIng {s t : State} (h : Kept s t) : Kept s (resetIng t) := by
  unfold resetIng
  try dsimp only
  repeat' (first | with_reducible assumption | with_reducible apply kept_onIng | with_reducible apply kept_engineReset)

theorem kept_resetFpr {s t : State} (h : Kept s t) : Kept s (resetFpr t) := by
  unfold resetFpr
  try dsimp only
  repeat' (first | with_reducible assumption | with_reducible apply kept_onFpr)

theorem kept_resetCmp {s t : State} (h : Kept s t) : Kept s (resetCmp t) := by
  unfold resetCmp
  try dsimp only
  repeat' (first | with_reducible assumption | with_reducible apply kept_freeNat | (with_reducible refine kept_snd (by assumption) (kept_freeNat ?_)) | with_reducible apply kept_onCmp | (with_reducible refine kept_foldl4 ?_ (fun u x h => ?_)) | (with_reducible refine kept_foldl3 ?_ (fun u x h => ?_)) | (with_reducible refine kept_foldl2 ?_ (fun u x h => ?_)) | (with_reducible refine kept_foldl ?_ (fun u x h => ?_)) | split)

theorem kept_resetCip {s t : State} (h : Kept s t) : Kept s (resetCip t) := by
  unfold resetCip
  try dsimp only
  repeat' (first | with_reducible assumption | with_reducible apply kept_gcmFail | with_reducible apply kept_onCip | with_reducible apply kept_plKeyAlarm | with_reducible apply kept_plSessionEnd | (with_reducible refine kept_foldl ?_ (fun u x h => ?_)) | (with_reducible refine kept_ite (fun _ => ?_) (fun _ => ?_)))

theorem kept_dropReloc {s t : State} {a0} (h : Kept s t) : Kept s (dropReloc a0 t) := by
  unfold dropReloc
  try dsimp only
  repeat' (first | with_reducible assumption | with_reducible apply kept_onBlk | (with_reducible refine kept_ite (fun _ => ?_) (fun _ => ?_)))

theorem kept_resetFtl {s t : State} (h : Kept s t) : Kept s (resetFtl t) := by
  unfold resetFtl
  try dsimp only
  repeat' (first | with_reducible assumption | with_reducible apply kept_dropReloc | with_reducible apply kept_engineReset | (with_reducible refine kept_onFtl_same ?_ (fun _ => rfl) (fun _ => rfl)) | (with_reducible refine kept_onFtl ?_ ?_) | exact fun x => ⟨x.1, x.2.1, tabDel_nodup x.2.2.1, fun e he => x.2.2.2 e (mem_tabDel he)⟩ | exact fun x => ⟨x.1, x.2.1, tabPut_nodup x.2.2.1, fun e he => (mem_tabPut he).elim (fun q => q ▸ by assumption) (x.2.2.2 e)⟩ | exact fun _ => canonical_empty rfl rfl | (intro hx; (try dsimp only); split <;> exact hx) | with_reducible apply kept_onPar | (with_reducible refine kept_foldl ?_ (fun u x h => ?_)) | (with_reducible refine kept_ite (fun _ => ?_) (fun _ => ?_)) | split)

theorem kept_readsReset {s t : State} {a0 a1} (h : Kept s t) : Kept s (readsReset a0 a1 t) := by
  unfold readsReset
  try dsimp only
  repeat' (first | with_reducible assumption | with_reducible apply kept_engineReset | split)

theorem kept_resetPar {s t : State} (h : Kept s t) : Kept s (resetPar t) := by
  unfold resetPar
  try dsimp only
  repeat' (first | with_reducible assumption | with_reducible apply kept_readsReset | with_reducible apply kept_onPar | with_reducible apply kept_advanceJob | (with_reducible refine kept_foldl ?_ (fun u x h => ?_)))

theorem kept_resetJnl {s t : State} (h : Kept s t) : Kept s (resetJnl t) := by
  unfold resetJnl
  try dsimp only
  repeat' (first | with_reducible assumption | with_reducible apply kept_onJnl)

theorem kept_portRestart {s t : State} {a0} (h : Kept s t) : Kept s (portRestart a0 t) := by
  unfold portRestart
  try dsimp only
  repeat' (first | with_reducible assumption | with_reducible apply kept_onPort | with_reducible apply kept_portClose | (with_reducible refine kept_onFtl_same ?_ (fun _ => rfl) (fun _ => rfl)) | (with_reducible refine kept_onFtl ?_ ?_) | exact fun x => ⟨x.1, x.2.1, tabDel_nodup x.2.2.1, fun e he => x.2.2.2 e (mem_tabDel he)⟩ | exact fun x => ⟨x.1, x.2.1, tabPut_nodup x.2.2.1, fun e he => (mem_tabPut he).elim (fun q => q ▸ by assumption) (x.2.2.2 e)⟩ | exact fun _ => canonical_empty rfl rfl | (intro hx; (try dsimp only); split <;> exact hx) | (with_reducible refine kept_ite (fun _ => ?_) (fun _ => ?_)) | split)

theorem kept_resetSld {s t : State} (h : Kept s t) : Kept s (resetSld t) := by
  unfold resetSld
  try dsimp only
  repeat' (first | with_reducible assumption | with_reducible apply kept_readsReset | with_reducible apply kept_portRestart | with_reducible apply kept_onSld | (with_reducible refine kept_foldl ?_ (fun u x h => ?_)))

theorem kept_resetRpl {s t : State} (h : Kept s t) : Kept s (resetRpl t) := by
  unfold resetRpl
  try dsimp only
  repeat' (first | with_reducible assumption | with_reducible apply kept_engineReset | with_reducible apply kept_closeCtx | with_reducible apply kept_sessionEnd | with_reducible apply kept_onRpl | (with_reducible refine kept_foldl ?_ (fun u x h => ?_)) | split)

theorem kept_loopsRestart {s t : State} (h : Kept s t) : Kept s (loopsRestart t) := by
  unfold loopsRestart
  try dsimp only
  repeat' (first | with_reducible assumption | with_reducible apply kept_onAdp)

theorem kept_resetMgmt {s t : State} (h : Kept s t) : Kept s (resetMgmt t) := by
  unfold resetMgmt
  try dsimp only
  repeat' (first | with_reducible assumption | with_reducible apply kept_onMgt | ((with_reducible refine kept_onRst_all ?_ ?_); rotate_left; exact fun _ x => x) | ((with_reducible refine kept_onRst_all ?_ ?_); rotate_left; exact fun _ x => ordered_hot x.1 rfl) | ((with_reducible refine kept_onRst_all ?_ ?_); rotate_left; exact fun _ _ => ordered_hot (fun _ => rfl) rfl) | ((with_reducible refine kept_onRst_all ?_ ?_); rotate_left; exact fun _ _ => ordered_hot Bool.noConfusion rfl) | (with_reducible refine kept_onRst ?_ ?_) | exact fun x => ⟨x.1, x.2.1, tabDel_nodup x.2.2.1, fun e he => x.2.2.2 e (mem_tabDel he)⟩ | exact fun x => ⟨x.1, x.2.1, tabPut_nodup x.2.2.1, fun e he => (mem_tabPut he).elim (fun q => q ▸ by assumption) (x.2.2.2 e)⟩ | exact fun _ => canonical_empty rfl rfl | (intro hx; (try dsimp only); split <;> exact hx) | with_reducible apply kept_cdcReset | with_reducible apply kept_onChain | with_reducible apply kept_onMsr | with_reducible apply kept_onEvr | with_reducible apply kept_onBus | with_reducible apply kept_onUpd | (with_reducible refine kept_ite (fun _ => ?_) (fun _ => ?_)))

theorem kept_resetTarget {s t : State} {a0} (h : Kept s t) : Kept s (resetTarget a0 t) := by
  unfold resetTarget
  try dsimp only
  repeat' (first | with_reducible assumption | with_reducible apply kept_resetFab | with_reducible apply kept_resetQpc | with_reducible apply kept_resetCmd | with_reducible apply kept_resetIng | with_reducible apply kept_resetFpr | with_reducible apply kept_resetCmp | with_reducible apply kept_resetCip | with_reducible apply kept_resetFtl | with_reducible apply kept_resetPar | with_reducible apply kept_resetJnl | with_reducible apply kept_resetSld | with_reducible apply kept_resetRpl | with_reducible apply kept_loopsRestart | with_reducible apply kept_resetMgmt | split)

theorem kept_startCore {s t : State} (h : Kept s t) : Kept s (startCore t) := by
  unfold startCore
  try dsimp only
  repeat' (first | with_reducible assumption | ((with_reducible refine kept_onRst_all ?_ ?_); rotate_left; exact fun _ x => x) | ((with_reducible refine kept_onRst_all ?_ ?_); rotate_left; exact fun _ x => ordered_hot x.1 rfl) | ((with_reducible refine kept_onRst_all ?_ ?_); rotate_left; exact fun _ _ => ordered_hot (fun _ => rfl) rfl) | ((with_reducible refine kept_onRst_all ?_ ?_); rotate_left; exact fun _ _ => ordered_hot Bool.noConfusion rfl) | (with_reducible refine kept_onRst ?_ ?_) | exact fun x => ⟨x.1, x.2.1, tabDel_nodup x.2.2.1, fun e he => x.2.2.2 e (mem_tabDel he)⟩ | exact fun x => ⟨x.1, x.2.1, tabPut_nodup x.2.2.1, fun e he => (mem_tabPut he).elim (fun q => q ▸ by assumption) (x.2.2.2 e)⟩ | exact fun _ => canonical_empty rfl rfl | (intro hx; (try dsimp only); split <;> exact hx) | with_reducible apply kept_note | (with_reducible refine kept_ite (fun _ => ?_) (fun _ => ?_)))

theorem kept_startRecovery {s t : State} (h : Kept s t) : Kept s (startRecovery t) := by
  unfold startRecovery
  try dsimp only
  repeat' (first | with_reducible assumption | with_reducible apply kept_msrExtend | with_reducible apply kept_onMgt | with_reducible apply kept_note | with_reducible apply kept_startCore)

theorem kept_beginReread {s t : State} {a0} (h : Kept s t) : Kept s (beginReread a0 t) := by
  unfold beginReread
  try dsimp only
  repeat' (first | with_reducible assumption | with_reducible apply kept_readSlot | with_reducible apply kept_onCfg | (with_reducible refine kept_ite (fun _ => ?_) (fun _ => ?_)))

theorem kept_startL3 {s t : State} {a0} (h : Kept s t) : Kept s (startL3 a0 t) := by
  unfold startL3
  try dsimp only
  repeat' (first | with_reducible assumption | with_reducible apply kept_resetTarget | ((with_reducible refine kept_onRst_all ?_ ?_); rotate_left; exact fun _ x => x) | ((with_reducible refine kept_onRst_all ?_ ?_); rotate_left; exact fun _ x => ordered_hot x.1 rfl) | ((with_reducible refine kept_onRst_all ?_ ?_); rotate_left; exact fun _ _ => ordered_hot (fun _ => rfl) rfl) | ((with_reducible refine kept_onRst_all ?_ ?_); rotate_left; exact fun _ _ => ordered_hot Bool.noConfusion rfl) | (with_reducible refine kept_onRst ?_ ?_) | exact fun x => ⟨x.1, x.2.1, tabDel_nodup x.2.2.1, fun e he => x.2.2.2 e (mem_tabDel he)⟩ | exact fun x => ⟨x.1, x.2.1, tabPut_nodup x.2.2.1, fun e he => (mem_tabPut he).elim (fun q => q ▸ by assumption) (x.2.2.2 e)⟩ | exact fun _ => canonical_empty rfl rfl | (intro hx; (try dsimp only); split <;> exact hx) | with_reducible apply kept_beginReread | (with_reducible refine kept_ite (fun _ => ?_) (fun _ => ?_)))

theorem kept_countReset {s t : State} {a0} (h : Kept s t) : Kept s (countReset a0 t) := by
  unfold countReset
  try dsimp only
  repeat' (first | with_reducible assumption | ((with_reducible refine kept_onRst_all ?_ ?_); rotate_left; exact fun _ x => x) | ((with_reducible refine kept_onRst_all ?_ ?_); rotate_left; exact fun _ x => ordered_hot x.1 rfl) | ((with_reducible refine kept_onRst_all ?_ ?_); rotate_left; exact fun _ _ => ordered_hot (fun _ => rfl) rfl) | ((with_reducible refine kept_onRst_all ?_ ?_); rotate_left; exact fun _ _ => ordered_hot Bool.noConfusion rfl) | (with_reducible refine kept_onRst ?_ ?_) | exact fun x => ⟨x.1, x.2.1, tabDel_nodup x.2.2.1, fun e he => x.2.2.2 e (mem_tabDel he)⟩ | exact fun x => ⟨x.1, x.2.1, tabPut_nodup x.2.2.1, fun e he => (mem_tabPut he).elim (fun q => q ▸ by assumption) (x.2.2.2 e)⟩ | exact fun _ => canonical_empty rfl rfl | (intro hx; (try dsimp only); split <;> exact hx) | (with_reducible refine kept_ite (fun _ => ?_) (fun _ => ?_)))

theorem kept_resetAt {s t : State} {a0 a1 a2} (h : Kept s t) : Kept s (resetAt a0 a1 a2 t) := by
  unfold resetAt
  try dsimp only
  repeat' (first | with_reducible assumption | (with_reducible refine kept_toHeld ?_ ?_) | (refine (id ?_ : t.rst.stage = _ ∨ t.rst.stage = _); assumption) | with_reducible apply kept_addCause | with_reducible apply kept_startCold | with_reducible apply kept_tryRelease | ((with_reducible refine kept_onRst_all ?_ ?_); rotate_left; exact fun _ x => x) | ((with_reducible refine kept_onRst_all ?_ ?_); rotate_left; exact fun _ x => ordered_hot x.1 rfl) | ((with_reducible refine kept_onRst_all ?_ ?_); rotate_left; exact fun _ _ => ordered_hot (fun _ => rfl) rfl) | ((with_reducible refine kept_onRst_all ?_ ?_); rotate_left; exact fun _ _ => ordered_hot Bool.noConfusion rfl) | (with_reducible refine kept_onRst ?_ ?_) | exact fun x => ⟨x.1, x.2.1, tabDel_nodup x.2.2.1, fun e he => x.2.2.2 e (mem_tabDel he)⟩ | exact fun x => ⟨x.1, x.2.1, tabPut_nodup x.2.2.1, fun e he => (mem_tabPut he).elim (fun q => q ▸ by assumption) (x.2.2.2 e)⟩ | exact fun _ => canonical_empty rfl rfl | (intro hx; (try dsimp only); split <;> exact hx) | with_reducible apply kept_countReset | with_reducible apply kept_startLoad | with_reducible apply kept_startRecovery | with_reducible apply kept_resetMgmt | with_reducible apply kept_wakeDormant | with_reducible apply kept_onPwr | with_reducible apply kept_warm | with_reducible apply kept_startL3 | with_reducible apply kept_startCore | (with_reducible refine kept_ite (fun _ => ?_) (fun _ => ?_)) | split)

theorem kept_resetBy {s t : State} {a0} (h : Kept s t) : Kept s (resetBy a0 t) := by
  unfold resetBy
  try dsimp only
  repeat' (first | with_reducible assumption | ((with_reducible refine kept_onRst_all ?_ ?_); rotate_left; exact fun _ x => x) | ((with_reducible refine kept_onRst_all ?_ ?_); rotate_left; exact fun _ x => ordered_hot x.1 rfl) | ((with_reducible refine kept_onRst_all ?_ ?_); rotate_left; exact fun _ _ => ordered_hot (fun _ => rfl) rfl) | ((with_reducible refine kept_onRst_all ?_ ?_); rotate_left; exact fun _ _ => ordered_hot Bool.noConfusion rfl) | (with_reducible refine kept_onRst ?_ ?_) | exact fun x => ⟨x.1, x.2.1, tabDel_nodup x.2.2.1, fun e he => x.2.2.2 e (mem_tabDel he)⟩ | exact fun x => ⟨x.1, x.2.1, tabPut_nodup x.2.2.1, fun e he => (mem_tabPut he).elim (fun q => q ▸ by assumption) (x.2.2.2 e)⟩ | exact fun _ => canonical_empty rfl rfl | (intro hx; (try dsimp only); split <;> exact hx) | with_reducible apply kept_resetAt | (with_reducible refine kept_ite (fun _ => ?_) (fun _ => ?_)) | split)

theorem kept_softReset {s t : State} {a0 a1} (h : Kept s t) : Kept s (softReset a0 a1 t) := by
  unfold softReset
  try dsimp only
  repeat' (first | with_reducible assumption | ((with_reducible refine kept_onRst_all ?_ ?_); rotate_left; exact fun _ x => x) | ((with_reducible refine kept_onRst_all ?_ ?_); rotate_left; exact fun _ x => ordered_hot x.1 rfl) | ((with_reducible refine kept_onRst_all ?_ ?_); rotate_left; exact fun _ _ => ordered_hot (fun _ => rfl) rfl) | ((with_reducible refine kept_onRst_all ?_ ?_); rotate_left; exact fun _ _ => ordered_hot Bool.noConfusion rfl) | (with_reducible refine kept_onRst ?_ ?_) | exact fun x => ⟨x.1, x.2.1, tabDel_nodup x.2.2.1, fun e he => x.2.2.2 e (mem_tabDel he)⟩ | exact fun x => ⟨x.1, x.2.1, tabPut_nodup x.2.2.1, fun e he => (mem_tabPut he).elim (fun q => q ▸ by assumption) (x.2.2.2 e)⟩ | exact fun _ => canonical_empty rfl rfl | (intro hx; (try dsimp only); split <;> exact hx) | with_reducible apply kept_resetAt | (with_reducible refine kept_ite (fun _ => ?_) (fun _ => ?_)))

theorem kept_releaseDeferred {s t : State} (h : Kept s t) : Kept s (releaseDeferred t) := by
  unfold releaseDeferred
  try dsimp only
  repeat' (first | with_reducible assumption | with_reducible apply kept_resetAt | ((with_reducible refine kept_onRst_all ?_ ?_); rotate_left; exact fun _ x => x) | ((with_reducible refine kept_onRst_all ?_ ?_); rotate_left; exact fun _ x => ordered_hot x.1 rfl) | ((with_reducible refine kept_onRst_all ?_ ?_); rotate_left; exact fun _ _ => ordered_hot (fun _ => rfl) rfl) | ((with_reducible refine kept_onRst_all ?_ ?_); rotate_left; exact fun _ _ => ordered_hot Bool.noConfusion rfl) | (with_reducible refine kept_onRst ?_ ?_) | exact fun x => ⟨x.1, x.2.1, tabDel_nodup x.2.2.1, fun e he => x.2.2.2 e (mem_tabDel he)⟩ | exact fun x => ⟨x.1, x.2.1, tabPut_nodup x.2.2.1, fun e he => (mem_tabPut he).elim (fun q => q ▸ by assumption) (x.2.2.2 e)⟩ | exact fun _ => canonical_empty rfl rfl | (intro hx; (try dsimp only); split <;> exact hx) | (with_reducible refine kept_foldl4 ?_ (fun u x h => ?_)) | (with_reducible refine kept_foldl3 ?_ (fun u x h => ?_)) | (with_reducible refine kept_foldl2 ?_ (fun u x h => ?_)) | (with_reducible refine kept_foldl ?_ (fun u x h => ?_)))

theorem kept_escalate {s t : State} (h : Kept s t) : Kept s (escalate t) := by
  unfold escalate
  try dsimp only
  repeat' (first | with_reducible assumption | with_reducible apply kept_resetAt)

end Sys2Proof.Machine
end

