-- ==== Sys2Proof/Laws/Kept/Boot.lean ====
section
/-! SUPPORT. What the operations of Machine/Boot.lean keep (`Kept`). -/

namespace Sys2Proof.Machine

theorem kept_beginHold {s t : State} (h : Kept s t) : Kept s (beginHold t) := by
  unfold beginHold
  try dsimp only
  repeat' (first | with_reducible assumption | with_reducible apply kept_onPwr | with_reducible apply kept_note | with_reducible apply kept_forceLog | with_reducible apply kept_spillWaiting | (with_reducible refine kept_foldl ?_ (fun u x h => ?_)) | (with_reducible refine kept_ite (fun _ => ?_) (fun _ => ?_)))

theorem kept_supplyLow {s t : State} {a0} (h : Kept s t) : Kept s (supplyLow a0 t) := by
  unfold supplyLow
  try dsimp only
  repeat' (first | with_reducible assumption | with_reducible apply kept_onPwr | with_reducible apply kept_beginHold | (with_reducible refine kept_ite (fun _ => ?_) (fun _ => ?_)) | split)

theorem kept_execHoldStart {s : State} {a0} : ∃ u, execHoldStart a0 s = .next u ∧ Kept s u := by
  refine ⟨_, rfl, ?_⟩
  have h := kept_rfl s
  try dsimp only
  repeat' (first | with_reducible assumption | with_reducible apply kept_after | with_reducible apply kept_supplyLow)

theorem kept_supplyClear {s t : State} (h : Kept s t) : Kept s (supplyClear t) := by
  unfold supplyClear
  try dsimp only
  repeat' (first | with_reducible assumption | with_reducible apply kept_onPwr | (with_reducible refine kept_ite (fun _ => ?_) (fun _ => ?_)))

theorem kept_execPwrWarnNHigh {s : State} : ∃ u, execPwrWarnNHigh s = .next u ∧ Kept s u := by
  refine ⟨_, rfl, ?_⟩
  have h := kept_rfl s
  try dsimp only
  repeat' (first | with_reducible assumption | with_reducible apply kept_supplyClear | with_reducible apply kept_onPwr)

theorem kept_holdClear {s t : State} (h : Kept s t) : Kept s (holdClear t) := by
  unfold holdClear
  try dsimp only
  repeat' (first | with_reducible assumption | with_reducible apply kept_updRetry | with_reducible apply kept_after | with_reducible apply kept_onPwr | (with_reducible refine kept_ite (fun _ => ?_) (fun _ => ?_)))

theorem kept_execHoldClearTimer {s : State} : ∃ u, execHoldClearTimer s = .next u ∧ Kept s u := by
  refine ⟨_, rfl, ?_⟩
  have h := kept_rfl s
  try dsimp only
  repeat' (first | with_reducible assumption | with_reducible apply kept_holdClear)

theorem kept_execHoldFlushDone {s : State} : ∃ u, execHoldFlushDone s = .next u ∧ Kept s u := by
  refine ⟨_, rfl, ?_⟩
  have h := kept_rfl s
  try dsimp only
  repeat' (first | with_reducible assumption | with_reducible apply kept_after | with_reducible apply kept_releaseDeferred | with_reducible apply kept_onPwr | (with_reducible refine kept_ite (fun _ => ?_) (fun _ => ?_)))

theorem kept_deviceFailed {s t : State} {a0} (h : Kept s t) : Kept s (deviceFailed a0 t) := by
  unfold deviceFailed
  try dsimp only
  repeat' (first | with_reducible assumption | with_reducible apply kept_send | with_reducible apply kept_onCfg | with_reducible apply kept_onPwr | ((with_reducible refine kept_onRst_all ?_ ?_); rotate_left; exact fun _ x => x) | ((with_reducible refine kept_onRst_all ?_ ?_); rotate_left; exact fun _ x => ordered_hot x.1 rfl) | ((with_reducible refine kept_onRst_all ?_ ?_); rotate_left; exact fun _ _ => ordered_hot (fun _ => rfl) rfl) | ((with_reducible refine kept_onRst_all ?_ ?_); rotate_left; exact fun _ _ => ordered_hot Bool.noConfusion rfl) | (with_reducible refine kept_onRst ?_ ?_) | exact fun x => ⟨x.1, x.2.1, tabDel_nodup x.2.2.1, fun e he => x.2.2.2 e (mem_tabDel he)⟩ | exact fun x => ⟨x.1, x.2.1, tabPut_nodup x.2.2.1, fun e he => (mem_tabPut he).elim (fun q => q ▸ by assumption) (x.2.2.2 e)⟩ | exact fun _ => canonical_empty rfl rfl | (intro hx; (try dsimp only); split <;> exact hx) | split)

theorem kept_optionRead {s t : State} {a0} (h : Kept s t) : Kept s (optionRead a0 t) := by
  unfold optionRead
  try dsimp only
  repeat' (first | with_reducible assumption | with_reducible apply kept_onCfg | with_reducible apply kept_deviceFailed | with_reducible apply kept_send | with_reducible apply kept_readSlot | (with_reducible refine kept_ite (fun _ => ?_) (fun _ => ?_)))

theorem kept_execOptionByteReadDone {s : State} {a0} : ∃ u, execOptionByteReadDone a0 s = .next u ∧ Kept s u := by
  refine ⟨_, rfl, ?_⟩
  have h := kept_rfl s
  try dsimp only
  repeat' (first | with_reducible assumption | with_reducible apply kept_optionRead)

theorem kept_execOptionRereadTimer {s : State} : ∃ u, execOptionRereadTimer s = .next u ∧ Kept s u := by
  refine ⟨_, rfl, ?_⟩
  have h := kept_rfl s
  try dsimp only
  repeat' (first | with_reducible assumption | with_reducible apply kept_send | with_reducible apply kept_onCfg | (with_reducible refine kept_ite (fun _ => ?_) (fun _ => ?_)))

theorem kept_recordFailed {s t : State} {a0 a1} (h : Kept s t) (k : ∀ u, Kept s u → Kept s (a1 u)) : Kept s (recordFailed a0 a1 t) := by
  unfold recordFailed
  try dsimp only
  repeat' (first | with_reducible assumption | apply k | with_reducible apply kept_onCfg | (with_reducible refine kept_ite (fun _ => ?_) (fun _ => ?_)))

theorem kept_loadRecord {s t : State} {a0} (h : Kept s t) : Kept s (loadRecord a0 t) := by
  unfold loadRecord
  try dsimp only
  repeat' (first | with_reducible assumption | (with_reducible refine kept_recordFailed ?_ (fun u h => ?_)) | with_reducible apply kept_deviceFailed | with_reducible apply kept_onCfg | (with_reducible refine kept_ite (fun _ => ?_) (fun _ => ?_)) | split)

theorem kept_healthBase {s t : State} (h : Kept s t) : Kept s (healthBase t) := by
  unfold healthBase
  try dsimp only
  repeat' (first | with_reducible assumption | (with_reducible refine kept_onFtl_same ?_ (fun _ => rfl) (fun _ => rfl)) | (with_reducible refine kept_onFtl ?_ ?_) | exact fun x => ⟨x.1, x.2.1, tabDel_nodup x.2.2.1, fun e he => x.2.2.2 e (mem_tabDel he)⟩ | exact fun x => ⟨x.1, x.2.1, tabPut_nodup x.2.2.1, fun e he => (mem_tabPut he).elim (fun q => q ▸ by assumption) (x.2.2.2 e)⟩ | exact fun _ => canonical_empty rfl rfl | (intro hx; (try dsimp only); split <;> exact hx))

theorem kept_slotsCleared {s t : State} (h : Kept s t) : Kept s (slotsCleared t) := by
  unfold slotsCleared
  try dsimp only
  repeat' (first | with_reducible assumption | with_reducible apply kept_note | with_reducible apply kept_onCip | split)

theorem kept_hostPortsStart {s t : State} (h : Kept s t) : Kept s (hostPortsStart t) := by
  unfold hostPortsStart
  try dsimp only
  repeat' (first | with_reducible assumption | with_reducible apply kept_autoneg | (with_reducible refine kept_foldl ?_ (fun u x h => ?_)))

theorem kept_sledPortsStart {s t : State} (h : Kept s t) : Kept s (sledPortsStart t) := by
  unfold sledPortsStart
  try dsimp only
  repeat' (first | with_reducible assumption | with_reducible apply kept_portStart | (with_reducible refine kept_foldl ?_ (fun u x h => ?_)))

theorem kept_releaseDatapath {s t : State} (h : Kept s t) : Kept s (releaseDatapath t) := by
  unfold releaseDatapath
  try dsimp only
  repeat' (first | with_reducible assumption | ((with_reducible refine kept_onRst_all ?_ ?_); rotate_left; exact fun _ x => x) | ((with_reducible refine kept_onRst_all ?_ ?_); rotate_left; exact fun _ x => ordered_hot x.1 rfl) | ((with_reducible refine kept_onRst_all ?_ ?_); rotate_left; exact fun _ _ => ordered_hot (fun _ => rfl) rfl) | ((with_reducible refine kept_onRst_all ?_ ?_); rotate_left; exact fun _ _ => ordered_hot Bool.noConfusion rfl) | (with_reducible refine kept_onRst ?_ ?_) | exact fun x => ⟨x.1, x.2.1, tabDel_nodup x.2.2.1, fun e he => x.2.2.2 e (mem_tabDel he)⟩ | exact fun x => ⟨x.1, x.2.1, tabPut_nodup x.2.2.1, fun e he => (mem_tabPut he).elim (fun q => q ▸ by assumption) (x.2.2.2 e)⟩ | exact fun _ => canonical_empty rfl rfl | (intro hx; (try dsimp only); split <;> exact hx) | with_reducible apply kept_onSld | with_reducible apply kept_slotsCleared | with_reducible apply kept_sledPortsStart | with_reducible apply kept_healthBase | with_reducible apply kept_loopsRestart | with_reducible apply kept_releaseDeferred | with_reducible apply kept_hostPortsStart | (with_reducible refine kept_ite (fun _ => ?_) (fun _ => ?_)))

theorem kept_l2Release {s t : State} (h : Kept s t) : Kept s (l2Release t) := by
  unfold l2Release
  try dsimp only
  repeat' (first | with_reducible assumption | with_reducible apply kept_countReset | with_reducible apply kept_releaseDatapath | (with_reducible refine kept_ite (fun _ => ?_) (fun _ => ?_)))

theorem kept_restartTarget {s t : State} {a0} (h : Kept s t) : Kept s (restartTarget a0 t) := by
  unfold restartTarget
  try dsimp only
  repeat' (first | with_reducible assumption | with_reducible apply kept_countReset | with_reducible apply kept_hostPortsStart | with_reducible apply kept_fpRebuild | with_reducible apply kept_slotsCleared | with_reducible apply kept_sledPortsStart | with_reducible apply kept_openTargets | with_reducible apply kept_loopsRestart | with_reducible apply kept_startCore | split)

theorem kept_l3Release {s t : State} (h : Kept s t) : Kept s (l3Release t) := by
  unfold l3Release
  try dsimp only
  repeat' (first | with_reducible assumption | with_reducible apply kept_restartTarget | ((with_reducible refine kept_onRst_all ?_ ?_); rotate_left; exact fun _ x => x) | ((with_reducible refine kept_onRst_all ?_ ?_); rotate_left; exact fun _ x => ordered_hot x.1 rfl) | ((with_reducible refine kept_onRst_all ?_ ?_); rotate_left; exact fun _ _ => ordered_hot (fun _ => rfl) rfl) | ((with_reducible refine kept_onRst_all ?_ ?_); rotate_left; exact fun _ _ => ordered_hot Bool.noConfusion rfl) | (with_reducible refine kept_onRst ?_ ?_) | exact fun x => ⟨x.1, x.2.1, tabDel_nodup x.2.2.1, fun e he => x.2.2.2 e (mem_tabDel he)⟩ | exact fun x => ⟨x.1, x.2.1, tabPut_nodup x.2.2.1, fun e he => (mem_tabPut he).elim (fun q => q ▸ by assumption) (x.2.2.2 e)⟩ | exact fun _ => canonical_empty rfl rfl | (intro hx; (try dsimp only); split <;> exact hx) | (with_reducible refine kept_foldl ?_ (fun u x h => ?_)) | (with_reducible refine kept_ite (fun _ => ?_) (fun _ => ?_)))

theorem kept_applyReread {s t : State} (h : Kept s t) : Kept s (applyReread t) := by
  unfold applyReread
  try dsimp only
  repeat' (first | with_reducible assumption | with_reducible apply kept_onCfg | with_reducible apply kept_l2Release | with_reducible apply kept_l3Release | (with_reducible refine kept_ite (fun _ => ?_) (fun _ => ?_)) | split)

theorem kept_rereadRecord {s t : State} {a0} (h : Kept s t) : Kept s (rereadRecord a0 t) := by
  unfold rereadRecord
  try dsimp only
  repeat' (first | with_reducible assumption | (with_reducible refine kept_recordFailed ?_ (fun u h => ?_)) | with_reducible apply kept_escalate | with_reducible apply kept_onCfg | with_reducible apply kept_applyReread | (with_reducible refine kept_ite (fun _ => ?_) (fun _ => ?_)))

theorem kept_imageLoaded {s t : State} {a0} (h : Kept s t) : Kept s (imageLoaded a0 t) := by
  unfold imageLoaded
  try dsimp only
  repeat' (first | with_reducible assumption | with_reducible apply kept_onCfg | with_reducible apply kept_msrExtend | with_reducible apply kept_onUpd | ((with_reducible refine kept_onRst_all ?_ ?_); rotate_left; exact fun _ x => x) | ((with_reducible refine kept_onRst_all ?_ ?_); rotate_left; exact fun _ x => ordered_hot x.1 rfl) | ((with_reducible refine kept_onRst_all ?_ ?_); rotate_left; exact fun _ _ => ordered_hot (fun _ => rfl) rfl) | ((with_reducible refine kept_onRst_all ?_ ?_); rotate_left; exact fun _ _ => ordered_hot Bool.noConfusion rfl) | (with_reducible refine kept_onRst ?_ ?_) | exact fun x => ⟨x.1, x.2.1, tabDel_nodup x.2.2.1, fun e he => x.2.2.2 e (mem_tabDel he)⟩ | exact fun x => ⟨x.1, x.2.1, tabPut_nodup x.2.2.1, fun e he => (mem_tabPut he).elim (fun q => q ▸ by assumption) (x.2.2.2 e)⟩ | exact fun _ => canonical_empty rfl rfl | (intro hx; (try dsimp only); split <;> exact hx) | with_reducible apply kept_updRollBack | with_reducible apply kept_beginHold | (with_reducible refine kept_ite (fun _ => ?_) (fun _ => ?_)))

theorem kept_loadChecks {s t : State} (h : Kept s t) : Kept s (loadChecks t) := by
  unfold loadChecks
  try dsimp only
  repeat' (first | with_reducible assumption | with_reducible apply kept_imageLoaded | with_reducible apply kept_deviceFailed | (with_reducible refine kept_ite (fun _ => ?_) (fun _ => ?_)) | split)

theorem kept_execLoadChecksDone {s : State} : ∃ u, execLoadChecksDone s = .next u ∧ Kept s u := by
  refine ⟨_, rfl, ?_⟩
  have h := kept_rfl s
  try dsimp only
  repeat' (first | with_reducible assumption | with_reducible apply kept_loadChecks)

theorem kept_execAoRailsInRange {s : State} : ∃ u, execAoRailsInRange s = .next u ∧ Kept s u := by
  refine ⟨_, rfl, ?_⟩
  have h := kept_rfl s
  try dsimp only
  repeat' (first | with_reducible assumption | with_reducible apply kept_tryRelease | ((with_reducible refine kept_onRst_all ?_ ?_); rotate_left; exact fun _ x => x) | ((with_reducible refine kept_onRst_all ?_ ?_); rotate_left; exact fun _ x => ordered_hot x.1 rfl) | ((with_reducible refine kept_onRst_all ?_ ?_); rotate_left; exact fun _ _ => ordered_hot (fun _ => rfl) rfl) | ((with_reducible refine kept_onRst_all ?_ ?_); rotate_left; exact fun _ _ => ordered_hot Bool.noConfusion rfl) | (with_reducible refine kept_onRst ?_ ?_) | exact fun x => ⟨x.1, x.2.1, tabDel_nodup x.2.2.1, fun e he => x.2.2.2 e (mem_tabDel he)⟩ | exact fun x => ⟨x.1, x.2.1, tabPut_nodup x.2.2.1, fun e he => (mem_tabPut he).elim (fun q => q ▸ by assumption) (x.2.2.2 e)⟩ | exact fun _ => canonical_empty rfl rfl | (intro hx; (try dsimp only); split <;> exact hx) | (with_reducible refine kept_ite (fun _ => ?_) (fun _ => ?_)))

theorem kept_execAoReleaseTimer {s : State} : ∃ u, execAoReleaseTimer s = .next u ∧ Kept s u := by
  refine ⟨_, rfl, ?_⟩
  have h := kept_rfl s
  try dsimp only
  repeat' (first | with_reducible assumption | with_reducible apply kept_aoRelease | (with_reducible refine kept_ite (fun _ => ?_) (fun _ => ?_)))

theorem kept_execRailWaitEnd {s : State} {a0 a1} : ∃ u, execRailWaitEnd a0 a1 s = .next u ∧ Kept s u := by
  refine ⟨_, rfl, ?_⟩
  have h := kept_rfl s
  try dsimp only
  repeat' (first | with_reducible assumption | with_reducible apply kept_startLoad | with_reducible apply kept_onPwr | ((with_reducible refine kept_onRst_all ?_ ?_); rotate_left; exact fun _ x => x) | ((with_reducible refine kept_onRst_all ?_ ?_); rotate_left; exact fun _ x => ordered_hot x.1 rfl) | ((with_reducible refine kept_onRst_all ?_ ?_); rotate_left; exact fun _ _ => ordered_hot (fun _ => rfl) rfl) | ((with_reducible refine kept_onRst_all ?_ ?_); rotate_left; exact fun _ _ => ordered_hot Bool.noConfusion rfl) | (with_reducible refine kept_onRst ?_ ?_) | exact fun x => ⟨x.1, x.2.1, tabDel_nodup x.2.2.1, fun e he => x.2.2.2 e (mem_tabDel he)⟩ | exact fun x => ⟨x.1, x.2.1, tabPut_nodup x.2.2.1, fun e he => (mem_tabPut he).elim (fun q => q ▸ by assumption) (x.2.2.2 e)⟩ | exact fun _ => canonical_empty rfl rfl | (intro hx; (try dsimp only); split <;> exact hx) | (with_reducible refine kept_ite (fun _ => ?_) (fun _ => ?_)))

theorem kept_clockGood {s t : State} {a0} (h : Kept s t) : Kept s (clockGood a0 t) := by
  unfold clockGood
  try dsimp only
  repeat' (first | with_reducible assumption | with_reducible apply kept_onClk | with_reducible apply kept_startCore | ((with_reducible refine kept_onRst_all ?_ ?_); rotate_left; exact fun _ x => x) | ((with_reducible refine kept_onRst_all ?_ ?_); rotate_left; exact fun _ x => ordered_hot x.1 rfl) | ((with_reducible refine kept_onRst_all ?_ ?_); rotate_left; exact fun _ _ => ordered_hot (fun _ => rfl) rfl) | ((with_reducible refine kept_onRst_all ?_ ?_); rotate_left; exact fun _ _ => ordered_hot Bool.noConfusion rfl) | (with_reducible refine kept_onRst ?_ ?_) | exact fun x => ⟨x.1, x.2.1, tabDel_nodup x.2.2.1, fun e he => x.2.2.2 e (mem_tabDel he)⟩ | exact fun x => ⟨x.1, x.2.1, tabPut_nodup x.2.2.1, fun e he => (mem_tabPut he).elim (fun q => q ▸ by assumption) (x.2.2.2 e)⟩ | exact fun _ => canonical_empty rfl rfl | (intro hx; (try dsimp only); split <;> exact hx) | with_reducible apply kept_startRecovery | with_reducible apply kept_send | with_reducible apply kept_onBuf | with_reducible apply kept_l3Release | with_reducible apply kept_releaseDatapath | with_reducible apply kept_beginReread | (with_reducible refine kept_ite (fun _ => ?_) (fun _ => ?_)) | split)

theorem kept_execClockGood {s : State} {a0} : ∃ u, execClockGood a0 s = .next u ∧ Kept s u := by
  refine ⟨_, rfl, ?_⟩
  have h := kept_rfl s
  try dsimp only
  repeat' (first | with_reducible assumption | with_reducible apply kept_after | with_reducible apply kept_clockGood)

theorem kept_hssDown {s t : State} (h : Kept s t) : Kept s (hssDown t) := by
  unfold hssDown
  try dsimp only
  repeat' (first | with_reducible assumption | with_reducible apply kept_subDown | with_reducible apply kept_plGroup | with_reducible apply kept_onFab | (with_reducible refine kept_foldl ?_ (fun u x h => ?_)))

theorem kept_domainFails {s t : State} {a0} (h : Kept s t) : Kept s (domainFails a0 t) := by
  unfold domainFails
  try dsimp only
  repeat' (first | with_reducible assumption | with_reducible apply kept_onClk | with_reducible apply kept_resetAt | ((with_reducible refine kept_onRst_all ?_ ?_); rotate_left; exact fun _ x => x) | ((with_reducible refine kept_onRst_all ?_ ?_); rotate_left; exact fun _ x => ordered_hot x.1 rfl) | ((with_reducible refine kept_onRst_all ?_ ?_); rotate_left; exact fun _ _ => ordered_hot (fun _ => rfl) rfl) | ((with_reducible refine kept_onRst_all ?_ ?_); rotate_left; exact fun _ _ => ordered_hot Bool.noConfusion rfl) | (with_reducible refine kept_onRst ?_ ?_) | exact fun x => ⟨x.1, x.2.1, tabDel_nodup x.2.2.1, fun e he => x.2.2.2 e (mem_tabDel he)⟩ | exact fun x => ⟨x.1, x.2.1, tabPut_nodup x.2.2.1, fun e he => (mem_tabPut he).elim (fun q => q ▸ by assumption) (x.2.2.2 e)⟩ | exact fun _ => canonical_empty rfl rfl | (intro hx; (try dsimp only); split <;> exact hx) | with_reducible apply kept_hssDown | with_reducible apply kept_portDown | (with_reducible refine kept_foldl ?_ (fun u x h => ?_)) | (with_reducible refine kept_ite (fun _ => ?_) (fun _ => ?_)))

theorem kept_clockFailure {s t : State} {a0} (h : Kept s t) : Kept s (clockFailure a0 t) := by
  unfold clockFailure
  try dsimp only
  repeat' (first | with_reducible assumption | with_reducible apply kept_onClk | with_reducible apply kept_resetAt | ((with_reducible refine kept_onRst_all ?_ ?_); rotate_left; exact fun _ x => x) | ((with_reducible refine kept_onRst_all ?_ ?_); rotate_left; exact fun _ x => ordered_hot x.1 rfl) | ((with_reducible refine kept_onRst_all ?_ ?_); rotate_left; exact fun _ _ => ordered_hot (fun _ => rfl) rfl) | ((with_reducible refine kept_onRst_all ?_ ?_); rotate_left; exact fun _ _ => ordered_hot Bool.noConfusion rfl) | (with_reducible refine kept_onRst ?_ ?_) | exact fun x => ⟨x.1, x.2.1, tabDel_nodup x.2.2.1, fun e he => x.2.2.2 e (mem_tabDel he)⟩ | exact fun x => ⟨x.1, x.2.1, tabPut_nodup x.2.2.1, fun e he => (mem_tabPut he).elim (fun q => q ▸ by assumption) (x.2.2.2 e)⟩ | exact fun _ => canonical_empty rfl rfl | (intro hx; (try dsimp only); split <;> exact hx) | with_reducible apply kept_domainFails | (with_reducible refine kept_ite (fun _ => ?_) (fun _ => ?_)))

theorem kept_execClockFailure {s : State} {a0} : ∃ u, execClockFailure a0 s = .next u ∧ Kept s u := by
  refine ⟨_, rfl, ?_⟩
  have h := kept_rfl s
  try dsimp only
  repeat' (first | with_reducible assumption | with_reducible apply kept_after | with_reducible apply kept_clockFailure)

theorem kept_refclkReturn {s t : State} {a0} (h : Kept s t) : Kept s (refclkReturn a0 t) := by
  unfold refclkReturn
  try dsimp only
  repeat' (first | with_reducible assumption | with_reducible apply kept_tryRelease | ((with_reducible refine kept_onRst_all ?_ ?_); rotate_left; exact fun _ x => x) | ((with_reducible refine kept_onRst_all ?_ ?_); rotate_left; exact fun _ x => ordered_hot x.1 rfl) | ((with_reducible refine kept_onRst_all ?_ ?_); rotate_left; exact fun _ _ => ordered_hot (fun _ => rfl) rfl) | ((with_reducible refine kept_onRst_all ?_ ?_); rotate_left; exact fun _ _ => ordered_hot Bool.noConfusion rfl) | (with_reducible refine kept_onRst ?_ ?_) | exact fun x => ⟨x.1, x.2.1, tabDel_nodup x.2.2.1, fun e he => x.2.2.2 e (mem_tabDel he)⟩ | exact fun x => ⟨x.1, x.2.1, tabPut_nodup x.2.2.1, fun e he => (mem_tabPut he).elim (fun q => q ▸ by assumption) (x.2.2.2 e)⟩ | exact fun _ => canonical_empty rfl rfl | (intro hx; (try dsimp only); split <;> exact hx) | with_reducible apply kept_onClk | with_reducible apply kept_autoneg | with_reducible apply kept_sledPortsStart | (with_reducible refine kept_foldl ?_ (fun u x h => ?_)) | (with_reducible refine kept_ite (fun _ => ?_) (fun _ => ?_)))

theorem kept_execRefclkReturn {s : State} {a0} : ∃ u, execRefclkReturn a0 s = .next u ∧ Kept s u := by
  refine ⟨_, rfl, ?_⟩
  have h := kept_rfl s
  try dsimp only
  repeat' (first | with_reducible assumption | with_reducible apply kept_after | with_reducible apply kept_refclkReturn)

theorem kept_execCdcFallback {s : State} {a0} : ∃ u, execCdcFallback a0 s = .next u ∧ Kept s u := by
  refine ⟨_, rfl, ?_⟩
  have h := kept_rfl s
  try dsimp only
  repeat' (first | with_reducible assumption | with_reducible apply kept_note | with_reducible apply kept_onClk | (with_reducible refine kept_ite (fun _ => ?_) (fun _ => ?_)))

end Sys2Proof.Machine
end

