-- ==== Sys2Proof/Laws/Kept/PowerStates.lean ====
section
/-! SUPPORT. What the operations of Machine/PowerStates.lean keep (`Kept`). -/

namespace Sys2Proof.Machine

theorem kept_brownout {s t : State} {a0} (h : Kept s t) : Kept s (brownout a0 t) := by
  unfold brownout
  try dsimp only
  repeat' (first | with_reducible assumption | with_reducible apply kept_resetBy | with_reducible apply kept_onPwr | ((with_reducible refine kept_onRst_all ?_ ?_); rotate_left; exact fun _ x => x) | ((with_reducible refine kept_onRst_all ?_ ?_); rotate_left; exact fun _ x => ordered_hot x.1 rfl) | ((with_reducible refine kept_onRst_all ?_ ?_); rotate_left; exact fun _ _ => ordered_hot (fun _ => rfl) rfl) | ((with_reducible refine kept_onRst_all ?_ ?_); rotate_left; exact fun _ _ => ordered_hot Bool.noConfusion rfl) | (with_reducible refine kept_onRst ?_ ?_) | exact fun x => ⟨x.1, x.2.1, tabDel_nodup x.2.2.1, fun e he => x.2.2.2 e (mem_tabDel he)⟩ | exact fun x => ⟨x.1, x.2.1, tabPut_nodup x.2.2.1, fun e he => (mem_tabPut he).elim (fun q => q ▸ by assumption) (x.2.2.2 e)⟩ | exact fun _ => canonical_empty rfl rfl | (intro hx; (try dsimp only); split <;> exact hx) | (with_reducible refine kept_ite (fun _ => ?_) (fun _ => ?_)))

theorem kept_execBrownoutReset {s : State} {a0} : ∃ u, execBrownoutReset a0 s = .next u ∧ Kept s u := by
  refine ⟨_, rfl, ?_⟩
  have h := kept_rfl s
  try dsimp only
  repeat' (first | with_reducible assumption | with_reducible apply kept_brownout)

theorem kept_railRecovers {s t : State} {a0} (h : Kept s t) : Kept s (railRecovers a0 t) := by
  unfold railRecovers
  try dsimp only
  repeat' (first | with_reducible assumption | with_reducible apply kept_tryRelease | ((with_reducible refine kept_onRst_all ?_ ?_); rotate_left; exact fun _ x => x) | ((with_reducible refine kept_onRst_all ?_ ?_); rotate_left; exact fun _ x => ordered_hot x.1 rfl) | ((with_reducible refine kept_onRst_all ?_ ?_); rotate_left; exact fun _ _ => ordered_hot (fun _ => rfl) rfl) | ((with_reducible refine kept_onRst_all ?_ ?_); rotate_left; exact fun _ _ => ordered_hot Bool.noConfusion rfl) | (with_reducible refine kept_onRst ?_ ?_) | exact fun x => ⟨x.1, x.2.1, tabDel_nodup x.2.2.1, fun e he => x.2.2.2 e (mem_tabDel he)⟩ | exact fun x => ⟨x.1, x.2.1, tabPut_nodup x.2.2.1, fun e he => (mem_tabPut he).elim (fun q => q ▸ by assumption) (x.2.2.2 e)⟩ | exact fun _ => canonical_empty rfl rfl | (intro hx; (try dsimp only); split <;> exact hx) | with_reducible apply kept_supplyClear | with_reducible apply kept_onPwr | (with_reducible refine kept_ite (fun _ => ?_) (fun _ => ?_)))

theorem kept_execRailRecovered {s : State} {a0} : ∃ u, execRailRecovered a0 s = .next u ∧ Kept s u := by
  refine ⟨_, rfl, ?_⟩
  have h := kept_rfl s
  try dsimp only
  repeat' (first | with_reducible assumption | with_reducible apply kept_railRecovers)

theorem kept_resetNLow {s t : State} {a0} (h : Kept s t) : Kept s (resetNLow a0 t) := by
  unfold resetNLow
  try dsimp only
  repeat' (first | with_reducible assumption | with_reducible apply kept_resetBy | ((with_reducible refine kept_onRst_all ?_ ?_); rotate_left; exact fun _ x => x) | ((with_reducible refine kept_onRst_all ?_ ?_); rotate_left; exact fun _ x => ordered_hot x.1 rfl) | ((with_reducible refine kept_onRst_all ?_ ?_); rotate_left; exact fun _ _ => ordered_hot (fun _ => rfl) rfl) | ((with_reducible refine kept_onRst_all ?_ ?_); rotate_left; exact fun _ _ => ordered_hot Bool.noConfusion rfl) | (with_reducible refine kept_onRst ?_ ?_) | exact fun x => ⟨x.1, x.2.1, tabDel_nodup x.2.2.1, fun e he => x.2.2.2 e (mem_tabDel he)⟩ | exact fun x => ⟨x.1, x.2.1, tabPut_nodup x.2.2.1, fun e he => (mem_tabPut he).elim (fun q => q ▸ by assumption) (x.2.2.2 e)⟩ | exact fun _ => canonical_empty rfl rfl | (intro hx; (try dsimp only); split <;> exact hx) | with_reducible apply kept_freeBit | (with_reducible refine kept_snd (by assumption) (kept_freeBit ?_)) | (with_reducible refine kept_ite (fun _ => ?_) (fun _ => ?_)) | split)

theorem kept_execResetNLow {s : State} {a0} : ∃ u, execResetNLow a0 s = .next u ∧ Kept s u := by
  refine ⟨_, rfl, ?_⟩
  have h := kept_rfl s
  try dsimp only
  repeat' (first | with_reducible assumption | with_reducible apply kept_resetNLow)

theorem kept_execResetNHigh {s : State} : ∃ u, execResetNHigh s = .next u ∧ Kept s u := by
  refine ⟨_, rfl, ?_⟩
  have h := kept_rfl s
  try dsimp only
  repeat' (first | with_reducible assumption | with_reducible apply kept_tryRelease | ((with_reducible refine kept_onRst_all ?_ ?_); rotate_left; exact fun _ x => x) | ((with_reducible refine kept_onRst_all ?_ ?_); rotate_left; exact fun _ x => ordered_hot x.1 rfl) | ((with_reducible refine kept_onRst_all ?_ ?_); rotate_left; exact fun _ _ => ordered_hot (fun _ => rfl) rfl) | ((with_reducible refine kept_onRst_all ?_ ?_); rotate_left; exact fun _ _ => ordered_hot Bool.noConfusion rfl) | (with_reducible refine kept_onRst ?_ ?_) | exact fun x => ⟨x.1, x.2.1, tabDel_nodup x.2.2.1, fun e he => x.2.2.2 e (mem_tabDel he)⟩ | exact fun x => ⟨x.1, x.2.1, tabPut_nodup x.2.2.1, fun e he => (mem_tabPut he).elim (fun q => q ▸ by assumption) (x.2.2.2 e)⟩ | exact fun _ => canonical_empty rfl rfl | (intro hx; (try dsimp only); split <;> exact hx) | (with_reducible refine kept_ite (fun _ => ?_) (fun _ => ?_)))

theorem kept_watchdogExpiry {s t : State} (h : Kept s t) : Kept s (watchdogExpiry t) := by
  unfold watchdogExpiry
  try dsimp only
  repeat' (first | with_reducible assumption | with_reducible apply kept_resetBy | ((with_reducible refine kept_onRst_all ?_ ?_); rotate_left; exact fun _ x => x) | ((with_reducible refine kept_onRst_all ?_ ?_); rotate_left; exact fun _ x => ordered_hot x.1 rfl) | ((with_reducible refine kept_onRst_all ?_ ?_); rotate_left; exact fun _ _ => ordered_hot (fun _ => rfl) rfl) | ((with_reducible refine kept_onRst_all ?_ ?_); rotate_left; exact fun _ _ => ordered_hot Bool.noConfusion rfl) | (with_reducible refine kept_onRst ?_ ?_) | exact fun x => ⟨x.1, x.2.1, tabDel_nodup x.2.2.1, fun e he => x.2.2.2 e (mem_tabDel he)⟩ | exact fun x => ⟨x.1, x.2.1, tabPut_nodup x.2.2.1, fun e he => (mem_tabPut he).elim (fun q => q ▸ by assumption) (x.2.2.2 e)⟩ | exact fun _ => canonical_empty rfl rfl | (intro hx; (try dsimp only); split <;> exact hx) | with_reducible apply kept_note | (with_reducible refine kept_ite (fun _ => ?_) (fun _ => ?_)))

theorem kept_execWatchdogExpiry {s : State} : ∃ u, execWatchdogExpiry s = .next u ∧ Kept s u := by
  refine ⟨_, rfl, ?_⟩
  have h := kept_rfl s
  try dsimp only
  repeat' (first | with_reducible assumption | with_reducible apply kept_after | with_reducible apply kept_watchdogExpiry)

theorem kept_wdogKick {s t : State} {a0} (h : Kept s t) : Kept s (wdogKick a0 t) := by
  unfold wdogKick
  try dsimp only
  repeat' (first | with_reducible assumption | ((with_reducible refine kept_onRst_all ?_ ?_); rotate_left; exact fun _ x => x) | ((with_reducible refine kept_onRst_all ?_ ?_); rotate_left; exact fun _ x => ordered_hot x.1 rfl) | ((with_reducible refine kept_onRst_all ?_ ?_); rotate_left; exact fun _ _ => ordered_hot (fun _ => rfl) rfl) | ((with_reducible refine kept_onRst_all ?_ ?_); rotate_left; exact fun _ _ => ordered_hot Bool.noConfusion rfl) | (with_reducible refine kept_onRst ?_ ?_) | exact fun x => ⟨x.1, x.2.1, tabDel_nodup x.2.2.1, fun e he => x.2.2.2 e (mem_tabDel he)⟩ | exact fun x => ⟨x.1, x.2.1, tabPut_nodup x.2.2.1, fun e he => (mem_tabPut he).elim (fun q => q ▸ by assumption) (x.2.2.2 e)⟩ | exact fun _ => canonical_empty rfl rfl | (intro hx; (try dsimp only); split <;> exact hx) | (with_reducible refine kept_ite (fun _ => ?_) (fun _ => ?_)))

theorem kept_execRstWdogKick {s : State} {a0 a1} : ∃ u, execRstWdogKick a0 a1 s = .next u ∧ Kept s u := by
  refine ⟨_, rfl, ?_⟩
  have h := kept_rfl s
  try dsimp only
  repeat' (first | with_reducible assumption | (with_reducible refine kept_accessWrite ?_ (fun u h => ?_)) | with_reducible apply kept_wdogKick)

theorem kept_softWrite {s t : State} {a0 a1} (h : Kept s t) : Kept s (softWrite a0 a1 t) := by
  unfold softWrite
  try dsimp only
  repeat' (first | with_reducible assumption | with_reducible apply kept_accessError | with_reducible apply kept_softReset | (with_reducible refine kept_ite (fun _ => ?_) (fun _ => ?_)) | split)

theorem kept_execSoftResetL0 {s : State} {a0 a1} : ∃ u, execSoftResetL0 a0 a1 s = .next u ∧ Kept s u := by
  refine ⟨_, rfl, ?_⟩
  have h := kept_rfl s
  try dsimp only
  repeat' (first | with_reducible assumption | with_reducible apply kept_after | (with_reducible refine kept_accessWrite ?_ (fun u h => ?_)) | with_reducible apply kept_softWrite)

theorem kept_execSoftResetL1 {s : State} {a0 a1} : ∃ u, execSoftResetL1 a0 a1 s = .next u ∧ Kept s u := by
  refine ⟨_, rfl, ?_⟩
  have h := kept_rfl s
  try dsimp only
  repeat' (first | with_reducible assumption | with_reducible apply kept_after | (with_reducible refine kept_accessWrite ?_ (fun u h => ?_)) | with_reducible apply kept_softWrite)

theorem kept_execSoftResetL2 {s : State} {a0 a1} : ∃ u, execSoftResetL2 a0 a1 s = .next u ∧ Kept s u := by
  refine ⟨_, rfl, ?_⟩
  have h := kept_rfl s
  try dsimp only
  repeat' (first | with_reducible assumption | with_reducible apply kept_after | (with_reducible refine kept_accessWrite ?_ (fun u h => ?_)) | with_reducible apply kept_softWrite)

theorem kept_execSoftResetL3 {s : State} {a0 a1} : ∃ u, execSoftResetL3 a0 a1 s = .next u ∧ Kept s u := by
  refine ⟨_, rfl, ?_⟩
  have h := kept_rfl s
  try dsimp only
  repeat' (first | with_reducible assumption | with_reducible apply kept_after | (with_reducible refine kept_accessWrite ?_ (fun u h => ?_)) | with_reducible apply kept_softWrite)

theorem kept_thermalTrip {s t : State} {a0} (h : Kept s t) : Kept s (thermalTrip a0 t) := by
  unfold thermalTrip
  try dsimp only
  repeat' (first | with_reducible assumption | with_reducible apply kept_resetBy | with_reducible apply kept_send | ((with_reducible refine kept_onRst_all ?_ ?_); rotate_left; exact fun _ x => x) | ((with_reducible refine kept_onRst_all ?_ ?_); rotate_left; exact fun _ x => ordered_hot x.1 rfl) | ((with_reducible refine kept_onRst_all ?_ ?_); rotate_left; exact fun _ _ => ordered_hot (fun _ => rfl) rfl) | ((with_reducible refine kept_onRst_all ?_ ?_); rotate_left; exact fun _ _ => ordered_hot Bool.noConfusion rfl) | (with_reducible refine kept_onRst ?_ ?_) | exact fun x => ⟨x.1, x.2.1, tabDel_nodup x.2.2.1, fun e he => x.2.2.2 e (mem_tabDel he)⟩ | exact fun x => ⟨x.1, x.2.1, tabPut_nodup x.2.2.1, fun e he => (mem_tabPut he).elim (fun q => q ▸ by assumption) (x.2.2.2 e)⟩ | exact fun _ => canonical_empty rfl rfl | (intro hx; (try dsimp only); split <;> exact hx) | (with_reducible refine kept_ite (fun _ => ?_) (fun _ => ?_)))

theorem kept_execThermalTrip {s : State} {a0} : ∃ u, execThermalTrip a0 s = .next u ∧ Kept s u := by
  refine ⟨_, rfl, ?_⟩
  have h := kept_rfl s
  try dsimp only
  repeat' (first | with_reducible assumption | with_reducible apply kept_thermalTrip)

theorem kept_thermalTripEnd {s t : State} {a0} (h : Kept s t) : Kept s (thermalTripEnd a0 t) := by
  unfold thermalTripEnd
  try dsimp only
  repeat' (first | with_reducible assumption | with_reducible apply kept_tryRelease | with_reducible apply kept_send | ((with_reducible refine kept_onRst_all ?_ ?_); rotate_left; exact fun _ x => x) | ((with_reducible refine kept_onRst_all ?_ ?_); rotate_left; exact fun _ x => ordered_hot x.1 rfl) | ((with_reducible refine kept_onRst_all ?_ ?_); rotate_left; exact fun _ _ => ordered_hot (fun _ => rfl) rfl) | ((with_reducible refine kept_onRst_all ?_ ?_); rotate_left; exact fun _ _ => ordered_hot Bool.noConfusion rfl) | (with_reducible refine kept_onRst ?_ ?_) | exact fun x => ⟨x.1, x.2.1, tabDel_nodup x.2.2.1, fun e he => x.2.2.2 e (mem_tabDel he)⟩ | exact fun x => ⟨x.1, x.2.1, tabPut_nodup x.2.2.1, fun e he => (mem_tabPut he).elim (fun q => q ▸ by assumption) (x.2.2.2 e)⟩ | exact fun _ => canonical_empty rfl rfl | (intro hx; (try dsimp only); split <;> exact hx) | (with_reducible refine kept_ite (fun _ => ?_) (fun _ => ?_)))

theorem kept_execThermalTripEnd {s : State} {a0} : ∃ u, execThermalTripEnd a0 s = .next u ∧ Kept s u := by
  refine ⟨_, rfl, ?_⟩
  have h := kept_rfl s
  try dsimp only
  repeat' (first | with_reducible assumption | with_reducible apply kept_thermalTripEnd)

theorem kept_execDebugReset {s : State} : ∃ u, execDebugReset s = .next u ∧ Kept s u := by
  refine ⟨_, rfl, ?_⟩
  have h := kept_rfl s
  try dsimp only
  repeat' (first | with_reducible assumption | with_reducible apply kept_resetBy | (with_reducible refine kept_ite (fun _ => ?_) (fun _ => ?_)))

theorem kept_resetReq {s t : State} (h : Kept s t) : Kept s (resetReq t) := by
  unfold resetReq
  try dsimp only
  repeat' (first | with_reducible assumption | with_reducible apply kept_resetBy | with_reducible apply kept_onPrt | (with_reducible refine kept_ite (fun _ => ?_) (fun _ => ?_)))

theorem kept_execPulseResetReq {s : State} {a0} : ∃ u, execPulseResetReq a0 s = .next u ∧ Kept s u := by
  refine ⟨_, rfl, ?_⟩
  have h := kept_rfl s
  try dsimp only
  repeat' (first | with_reducible assumption | with_reducible apply kept_afterP | (with_reducible refine kept_pulseDo ?_ (fun u h => ?_)) | with_reducible apply kept_resetReq)

theorem kept_pwrWrite {s t : State} {a0} (h : Kept s t) : Kept s (pwrWrite a0 t) := by
  unfold pwrWrite
  try dsimp only
  repeat' (first | with_reducible assumption | with_reducible apply kept_onPwr | with_reducible apply kept_wake | with_reducible apply kept_powerRequest | (with_reducible refine kept_ite (fun _ => ?_) (fun _ => ?_)))

theorem kept_execPwrReqRun {s : State} {a0 a1} : ∃ u, execPwrReqRun a0 a1 s = .next u ∧ Kept s u := by
  refine ⟨_, rfl, ?_⟩
  have h := kept_rfl s
  try dsimp only
  repeat' (first | with_reducible assumption | with_reducible apply kept_afterP | (with_reducible refine kept_accessWrite ?_ (fun u h => ?_)) | with_reducible apply kept_pwrWrite)

theorem kept_execPwrReqArmed {s : State} {a0 a1} : ∃ u, execPwrReqArmed a0 a1 s = .next u ∧ Kept s u := by
  refine ⟨_, rfl, ?_⟩
  have h := kept_rfl s
  try dsimp only
  repeat' (first | with_reducible assumption | with_reducible apply kept_afterP | (with_reducible refine kept_accessWrite ?_ (fun u h => ?_)) | with_reducible apply kept_pwrWrite)

theorem kept_execPwrReqQuiet {s : State} {a0 a1} : ∃ u, execPwrReqQuiet a0 a1 s = .next u ∧ Kept s u := by
  refine ⟨_, rfl, ?_⟩
  have h := kept_rfl s
  try dsimp only
  repeat' (first | with_reducible assumption | with_reducible apply kept_afterP | (with_reducible refine kept_accessWrite ?_ (fun u h => ?_)) | with_reducible apply kept_pwrWrite)

theorem kept_execPwrReqDormant {s : State} {a0 a1} : ∃ u, execPwrReqDormant a0 a1 s = .next u ∧ Kept s u := by
  refine ⟨_, rfl, ?_⟩
  have h := kept_rfl s
  try dsimp only
  repeat' (first | with_reducible assumption | with_reducible apply kept_afterP | (with_reducible refine kept_accessWrite ?_ (fun u h => ?_)) | with_reducible apply kept_pwrWrite)

theorem kept_execArmIdleExpiry {s : State} : ∃ u, execArmIdleExpiry s = .next u ∧ Kept s u := by
  refine ⟨_, rfl, ?_⟩
  have h := kept_rfl s
  try dsimp only
  repeat' (first | with_reducible assumption | with_reducible apply kept_afterP | with_reducible apply kept_powerRequest | (with_reducible refine kept_ite (fun _ => ?_) (fun _ => ?_)))

theorem kept_execPwrWakeTimer {s : State} : ∃ u, execPwrWakeTimer s = .next u ∧ Kept s u := by
  refine ⟨_, rfl, ?_⟩
  have h := kept_rfl s
  try dsimp only
  repeat' (first | with_reducible assumption | with_reducible apply kept_afterP | with_reducible apply kept_wake | (with_reducible refine kept_ite (fun _ => ?_) (fun _ => ?_)))

theorem kept_enterArmed {s t : State} (h : Kept s t) : Kept s (enterArmed t) := by
  unfold enterArmed
  try dsimp only
  repeat' (first | with_reducible assumption | with_reducible apply kept_onAdp | with_reducible apply kept_onBuf | with_reducible apply kept_restIdle | (with_reducible refine kept_foldl ?_ (fun u x h => ?_)))

theorem kept_linksIdle {s t : State} (h : Kept s t) : Kept s (linksIdle t) := by
  unfold linksIdle
  try dsimp only
  repeat' (first | with_reducible assumption | with_reducible apply kept_onClk | with_reducible apply kept_onSld | with_reducible apply kept_onPrt | with_reducible apply kept_subsSilent)

theorem kept_enterQuiet {s t : State} (h : Kept s t) : Kept s (enterQuiet t) := by
  unfold enterQuiet
  try dsimp only
  repeat' (first | with_reducible assumption | with_reducible apply kept_onBuf | with_reducible apply kept_linksIdle)

theorem kept_enterDormant {s t : State} (h : Kept s t) : Kept s (enterDormant t) := by
  have h1 : Kept s (linksIdle (shadowClear t)) := kept_linksIdle (kept_shadowClear h)
  unfold enterDormant
  generalize linksIdle (shadowClear t) = u at h1
  refine kept_send (h1.of_eq rfl rfl rfl rfl (fun x => ?_) fun _ => canonical_empty rfl rfl)
  exact ⟨Bool.noConfusion, fun y => ⟨(x.2 y).1, rfl⟩⟩

theorem kept_powerEntered {s t : State} (h : Kept s t) : Kept s (powerEntered t) := by
  unfold powerEntered
  try dsimp only
  repeat' (first | with_reducible assumption | with_reducible apply kept_onPwr | with_reducible apply kept_pulseCommand | with_reducible apply kept_enterArmed | with_reducible apply kept_enterQuiet | with_reducible apply kept_enterDormant | (with_reducible refine kept_ite (fun _ => ?_) (fun _ => ?_)) | split)

theorem kept_execPowerEntryDone {s : State} : ∃ u, execPowerEntryDone s = .next u ∧ Kept s u := by
  refine ⟨_, rfl, ?_⟩
  have h := kept_rfl s
  try dsimp only
  repeat' (first | with_reducible assumption | with_reducible apply kept_afterP | with_reducible apply kept_powerEntered)

theorem kept_wokenAlone {s t : State} (h : Kept s t) : Kept s (wokenAlone t) := by
  unfold wokenAlone
  try dsimp only
  repeat' (first | with_reducible assumption | with_reducible apply kept_partnerGone | (with_reducible refine kept_ite (fun _ => ?_) (fun _ => ?_)))

theorem kept_wakeDone {s t : State} (h : Kept s t) : Kept s (wakeDone t) := by
  unfold wakeDone
  try dsimp only
  repeat' (first | with_reducible assumption | exact fun x => ⟨fun _ => Decidable.of_not_not ‹¬¬t.rst.dpUp = true›, x.2⟩ | with_reducible apply kept_onBuf | with_reducible apply kept_onPwr | with_reducible apply kept_onClk | with_reducible apply kept_onQpc | with_reducible apply kept_onCip | with_reducible apply kept_fpRebuild | with_reducible apply kept_onFpr | with_reducible apply kept_wokenAlone | with_reducible apply kept_hostPortsStart | with_reducible apply kept_sledPortsStart | with_reducible apply kept_slotsCleared | with_reducible apply kept_loopsRestart | ((with_reducible refine kept_onRst_all ?_ ?_); rotate_left; exact fun _ x => x) | ((with_reducible refine kept_onRst_all ?_ ?_); rotate_left; exact fun _ x => ordered_hot x.1 rfl) | ((with_reducible refine kept_onRst_all ?_ ?_); rotate_left; exact fun _ _ => ordered_hot (fun _ => rfl) rfl) | ((with_reducible refine kept_onRst_all ?_ ?_); rotate_left; exact fun _ _ => ordered_hot Bool.noConfusion rfl) | (with_reducible refine kept_onRst ?_ ?_) | exact fun x => ⟨x.1, x.2.1, tabDel_nodup x.2.2.1, fun e he => x.2.2.2 e (mem_tabDel he)⟩ | exact fun x => ⟨x.1, x.2.1, tabPut_nodup x.2.2.1, fun e he => (mem_tabPut he).elim (fun q => q ▸ by assumption) (x.2.2.2 e)⟩ | exact fun _ => canonical_empty rfl rfl | (intro hx; (try dsimp only); split <;> exact hx) | (with_reducible refine kept_ite (fun _ => ?_) (fun _ => ?_)) | split)

theorem kept_execWakeComplete {s : State} : ∃ u, execWakeComplete s = .next u ∧ Kept s u := by
  refine ⟨_, rfl, ?_⟩
  have h := kept_rfl s
  try dsimp only
  repeat' (first | with_reducible assumption | with_reducible apply kept_afterP | with_reducible apply kept_wakeDone)

end Sys2Proof.Machine
end

