-- ==== Sys2Proof/Laws/Kept/Dram.lean ====
section
/-! SUPPORT. What the operations of Machine/Dram.lean keep (`Kept`). -/

namespace Sys2Proof.Machine

theorem kept_bufInit {s t : State} {a0} (h : Kept s t) : Kept s (bufInit a0 t) := by
  unfold bufInit
  generalize initFault (t.param P.ddrRate) a0 = o
  generalize t.regionsPlaced = rp
  generalize t.armedShare = x
  refine kept_ite (fun _ => h) fun _ => ?_
  obtain ⟨regions, last⟩ := rp
  cases o with
  | some p => 
    obtain ⟨code, k⟩ := p
    refine kept_note (kept_onRst_all (kept_onBuf (kept_ite (fun _ => kept_onBuf (kept_onBuf h)) fun _ => kept_onBuf h)) fun _ x => ordered_hot x.1 rfl)
  | none =>
    refine kept_ite (fun _ => ?_) fun _ => ?_
    · exact kept_note (kept_onRst_all (kept_onBuf (kept_onBuf (kept_onBuf h))) fun _ x => ordered_hot x.1 rfl)
    · refine kept_ite (fun _ => kept_releaseDatapath ?_) fun _ => ?_
      · exact kept_onRst_all (kept_onBuf (kept_onBuf (kept_onBuf h))) fun _ x => ordered_hot x.1 rfl
      · exact kept_onRst_all (kept_onBuf (kept_onBuf (kept_onBuf h))) fun _ x => ordered_hot x.1 rfl

theorem kept_execBufInitDone {s : State} {a0} : ∃ u, execBufInitDone a0 s = .next u ∧ Kept s u := by
  refine ⟨_, rfl, ?_⟩
  have h := kept_rfl s
  try dsimp only
  repeat' (first | with_reducible assumption | with_reducible apply kept_after | with_reducible apply kept_bufInit)

theorem kept_countCorrection {s t : State} {a0 a1 a2} (h : Kept s t) : Kept s (countCorrection a0 a1 a2 t) := by
  unfold countCorrection
  try dsimp only
  repeat' (first | with_reducible assumption | with_reducible apply kept_onBuf | with_reducible apply kept_note | (with_reducible refine kept_ite (fun _ => ?_) (fun _ => ?_)))

theorem kept_correctLine {s t : State} {a0 a1 a2 a3} (h : Kept s t) : Kept s (correctLine a0 a1 a2 a3 t).2 := by
  unfold correctLine
  try dsimp only
  repeat' (first | with_reducible assumption | with_reducible apply kept_countCorrection | (with_reducible refine kept_foldl4 ?_ (fun u x h => ?_)) | (with_reducible refine kept_foldl3 ?_ (fun u x h => ?_)) | (with_reducible refine kept_foldl2 ?_ (fun u x h => ?_)) | (with_reducible refine kept_foldl ?_ (fun u x h => ?_)) | (with_reducible refine kept_ite (fun _ => ?_) (fun _ => ?_)) | (with_reducible refine kept_ite2 (fun _ => ?_) (fun _ => ?_)))

theorem kept_neighbourRefresh {s t : State} {a0 a1} (h : Kept s t) : Kept s (neighbourRefresh a0 a1 t) := by
  unfold neighbourRefresh
  try dsimp only
  repeat' (first | with_reducible assumption | with_reducible apply kept_send | with_reducible apply kept_onBuf | (with_reducible refine kept_ite (fun _ => ?_) (fun _ => ?_)))

theorem kept_actRow {s t : State} {a0 a1} (h : Kept s t) : Kept s (actRow a0 a1 t) := by
  unfold actRow
  try dsimp only
  repeat' (first | with_reducible assumption | with_reducible apply kept_onBuf | with_reducible apply kept_neighbourRefresh | (with_reducible refine kept_ite (fun _ => ?_) (fun _ => ?_)) | split)

theorem kept_struck {α : Type} {s t : State} {a0 : List α} (h : Kept s t) : Kept s (struck a0 t).2 := by
  unfold struck
  refine kept_foldl2 h fun u x h => ?_
  split
  exact kept_snd (by assumption) (kept_freeBit h)

theorem kept_recordsRestart {s t : State} {a0} (h : Kept s t) : Kept s (recordsRestart a0 t) := by
  unfold recordsRestart
  try dsimp only
  repeat' (first | with_reducible assumption | with_reducible apply kept_onBlk | (with_reducible refine kept_foldl4 ?_ (fun u x h => ?_)) | (with_reducible refine kept_foldl3 ?_ (fun u x h => ?_)) | (with_reducible refine kept_foldl2 ?_ (fun u x h => ?_)) | (with_reducible refine kept_foldl ?_ (fun u x h => ?_)) | (with_reducible refine kept_ite (fun _ => ?_) (fun _ => ?_)) | split)

theorem kept_lineLost {s t : State} {a0 a1} (h : Kept s t) : Kept s (lineLost a0 a1 t) := by
  unfold lineLost
  try dsimp only
  repeat' (first | with_reducible assumption | with_reducible apply kept_qpError | with_reducible apply kept_struck | (with_reducible refine kept_snd (by assumption) (kept_struck ?_)) | with_reducible apply kept_finish | with_reducible apply kept_dropWindows | with_reducible apply kept_bufferFault | with_reducible apply kept_stageFail | with_reducible apply kept_plControl | with_reducible apply kept_onIng | with_reducible apply kept_sendFill | with_reducible apply kept_onFpr | with_reducible apply kept_recordsRestart | with_reducible apply kept_ctxLost | with_reducible apply kept_onCip | with_reducible apply kept_chunkFailed | (with_reducible refine kept_foldl4 ?_ (fun u x h => ?_)) | (with_reducible refine kept_foldl3 ?_ (fun u x h => ?_)) | (with_reducible refine kept_foldl2 ?_ (fun u x h => ?_)) | (with_reducible refine kept_foldl ?_ (fun u x h => ?_)) | (with_reducible refine kept_ite (fun _ => ?_) (fun _ => ?_)) | split)

theorem kept_lineRaised {s t : State} {a0 a1 a2 a3} (h : Kept s t) : Kept s (lineRaised a0 a1 a2 a3 t) := by
  unfold lineRaised
  try dsimp only
  repeat' (first | with_reducible assumption | with_reducible apply kept_note | with_reducible apply kept_onBuf)

theorem kept_channelCount {s t : State} {a0} (h : Kept s t) : Kept s (channelCount a0 t) := by
  unfold channelCount
  try dsimp only
  repeat' (first | with_reducible assumption | with_reducible apply kept_onBuf | with_reducible apply kept_note | with_reducible apply kept_enterFenced | with_reducible apply kept_pulseCommand | (with_reducible refine kept_ite (fun _ => ?_) (fun _ => ?_)))

theorem kept_lineRead {s t : State} {a0 a1 a2} (h : Kept s t) : Kept s (lineRead a0 a1 a2 t) := by
  unfold lineRead
  try dsimp only
  repeat' (first | with_reducible assumption | with_reducible apply kept_correctLine | (with_reducible refine kept_snd (by assumption) (kept_correctLine ?_)) | with_reducible apply kept_actRow | with_reducible apply kept_onBuf | with_reducible apply kept_lineRaised | with_reducible apply kept_lineLost | with_reducible apply kept_channelCount | (with_reducible refine kept_ite (fun _ => ?_) (fun _ => ?_)) | split)

theorem kept_execDramLineRead {s : State} {a0 a1 a2} : ∃ u, execDramLineRead a0 a1 a2 s = .next u ∧ Kept s u := by
  refine ⟨_, rfl, ?_⟩
  have h := kept_rfl s
  try dsimp only
  repeat' (first | with_reducible assumption | with_reducible apply kept_after | with_reducible apply kept_lineRead)

theorem kept_scrubStep {s t : State} {a0} (h : Kept s t) : Kept s (scrubStep a0 t) := by
  unfold scrubStep
  repeat' (first | with_reducible assumption | with_reducible apply kept_onBuf | with_reducible apply kept_correctLine | (with_reducible refine kept_snd (by assumption) (kept_correctLine ?_)) | with_reducible apply kept_actRow | with_reducible apply kept_channelCount | with_reducible apply kept_lineRaised | (with_reducible refine kept_ite (fun _ => ?_) (fun _ => ?_)) | extract_lets | split)

theorem kept_execScrubStep {s : State} {a0} : ∃ u, execScrubStep a0 s = .next u ∧ Kept s u := by
  refine ⟨_, rfl, ?_⟩
  have h := kept_rfl s
  try dsimp only
  repeat' (first | with_reducible assumption | with_reducible apply kept_after | with_reducible apply kept_scrubStep)

theorem kept_mr4Reading {s t : State} {a0 a1 a2} (h : Kept s t) : Kept s (mr4Reading a0 a1 a2 t) := by
  unfold mr4Reading
  try dsimp only
  repeat' (first | with_reducible assumption | with_reducible apply kept_onBuf | with_reducible apply kept_note | (with_reducible refine kept_ite (fun _ => ?_) (fun _ => ?_)) | split)

theorem kept_execMr4Poll {s : State} {a0 a1 a2} : ∃ u, execMr4Poll a0 a1 a2 s = .next u ∧ Kept s u := by
  refine ⟨_, rfl, ?_⟩
  have h := kept_rfl s
  try dsimp only
  repeat' (first | with_reducible assumption | with_reducible apply kept_mr4Reading | (with_reducible refine kept_ite (fun _ => ?_) (fun _ => ?_)))

theorem kept_refresh {s t : State} {a0 a1} (h : Kept s t) : Kept s (refresh a0 a1 t) := by
  unfold refresh
  try dsimp only
  repeat' (first | with_reducible assumption | with_reducible apply kept_send | with_reducible apply kept_onBuf | (with_reducible refine kept_ite (fun _ => ?_) (fun _ => ?_)))

theorem kept_execRefreshDue {s : State} {a0 a1} : ∃ u, execRefreshDue a0 a1 s = .next u ∧ Kept s u := by
  refine ⟨_, rfl, ?_⟩
  have h := kept_rfl s
  try dsimp only
  repeat' (first | with_reducible assumption | with_reducible apply kept_refresh | (with_reducible refine kept_ite (fun _ => ?_) (fun _ => ?_)))

theorem kept_execActTableWindow {s : State} : ∃ u, execActTableWindow s = .next u ∧ Kept s u := by
  refine ⟨_, rfl, ?_⟩
  have h := kept_rfl s
  try dsimp only
  repeat' (first | with_reducible assumption | with_reducible apply kept_onBuf)

theorem kept_selfRefreshExit {s t : State} {a0} (h : Kept s t) : Kept s (selfRefreshExit a0 t) := by
  unfold selfRefreshExit
  try dsimp only
  repeat' (first | with_reducible assumption | with_reducible apply kept_onBuf | with_reducible apply kept_mr4Reading | with_reducible apply kept_l2Release | (with_reducible refine kept_foldl4 ?_ (fun u x h => ?_)) | (with_reducible refine kept_foldl3 ?_ (fun u x h => ?_)) | (with_reducible refine kept_foldl2 ?_ (fun u x h => ?_)) | (with_reducible refine kept_foldl ?_ (fun u x h => ?_)) | (with_reducible refine kept_ite (fun _ => ?_) (fun _ => ?_)))

theorem kept_execSelfRefreshExitDone {s : State} {a0} : ∃ u, execSelfRefreshExitDone a0 s = .next u ∧ Kept s u := by
  refine ⟨_, rfl, ?_⟩
  have h := kept_rfl s
  try dsimp only
  repeat' (first | with_reducible assumption | with_reducible apply kept_after | with_reducible apply kept_selfRefreshExit)

end Sys2Proof.Machine
end

