-- ==== Sys2Proof/Laws/Kept/Adapt.lean ====
section
/-! SUPPORT. What the operations of Machine/Adapt.lean keep (`Kept`). -/

namespace Sys2Proof.Machine

theorem kept_vfCluster {s t : State} {a0 a1 a2 a3} (h : Kept s t) : Kept s (vfCluster a0 a1 a2 a3 t) := by
  unfold vfCluster
  try dsimp only
  repeat' (first | with_reducible assumption | with_reducible apply kept_onAdp | with_reducible apply kept_loopAct | with_reducible apply kept_onLoop | with_reducible apply kept_limitHit | (with_reducible refine kept_ite (fun _ => ?_) (fun _ => ?_)))

theorem kept_vfSample {s t : State} {a0 a1} (h : Kept s t) : Kept s (vfSample a0 a1 t) := by
  unfold vfSample
  try dsimp only
  repeat' (first | with_reducible assumption | with_reducible apply kept_onAdp | with_reducible apply kept_note | with_reducible apply kept_vfCluster | (with_reducible refine kept_foldl4 ?_ (fun u x h => ?_)) | (with_reducible refine kept_foldl3 ?_ (fun u x h => ?_)) | (with_reducible refine kept_foldl2 ?_ (fun u x h => ?_)) | (with_reducible refine kept_foldl ?_ (fun u x h => ?_)) | (with_reducible refine kept_ite (fun _ => ?_) (fun _ => ?_)))

theorem kept_execAlVfSample {s : State} {a0 a1} : ∃ u, execAlVfSample a0 a1 s = .next u ∧ Kept s u := by
  refine ⟨_, rfl, ?_⟩
  have h := kept_rfl s
  try dsimp only
  repeat' (first | with_reducible assumption | with_reducible apply kept_vfSample)

theorem kept_eqMove {s t : State} {a0 a1 a2} (h : Kept s t) : Kept s (eqMove a0 a1 a2 t) := by
  unfold eqMove
  try dsimp only
  repeat' (first | with_reducible assumption | with_reducible apply kept_sendControl | with_reducible apply kept_onLoop | (with_reducible refine kept_ite (fun _ => ?_) (fun _ => ?_)) | split)

theorem kept_eqAct {s t : State} {a0 a1 a2} (h : Kept s t) : Kept s (eqAct a0 a1 a2 t) := by
  unfold eqAct
  try dsimp only
  repeat' (first | with_reducible assumption | with_reducible apply kept_eqMove | with_reducible apply kept_loopAct)

theorem kept_eqTry {s t : State} {a0 a1} (h : Kept s t) : Kept s (eqTry a0 a1 t) := by
  unfold eqTry
  try dsimp only
  repeat' (first | with_reducible assumption | with_reducible apply kept_freeBit | (with_reducible refine kept_snd (by assumption) (kept_freeBit ?_)) | with_reducible apply kept_onLoop | with_reducible apply kept_eqAct | (with_reducible refine kept_ite (fun _ => ?_) (fun _ => ?_)) | split)

theorem kept_eqLane {s t : State} {a0 a1} (h : Kept s t) : Kept s (eqLane a0 a1 t) := by
  unfold eqLane
  try dsimp only
  repeat' (first | with_reducible assumption | with_reducible apply kept_onLoop | with_reducible apply kept_note | with_reducible apply kept_retrain | with_reducible apply kept_eqAct | with_reducible apply kept_eqTry | (with_reducible refine kept_ite (fun _ => ?_) (fun _ => ?_)) | split)

theorem kept_execAlEqSample {s : State} {a0} : ∃ u, execAlEqSample a0 s = .next u ∧ Kept s u := by
  refine ⟨_, rfl, ?_⟩
  have h := kept_rfl s
  try dsimp only
  repeat' (first | with_reducible assumption | with_reducible apply kept_afterP | with_reducible apply kept_eqLane | (with_reducible refine kept_foldl4 ?_ (fun u x h => ?_)) | (with_reducible refine kept_foldl3 ?_ (fun u x h => ?_)) | (with_reducible refine kept_foldl2 ?_ (fun u x h => ?_)) | (with_reducible refine kept_foldl ?_ (fun u x h => ?_)))

theorem kept_gcUnit {s t : State} {a0 a1} (h : Kept s t) : Kept s (gcUnit a0 a1 t) := by
  unfold gcUnit
  try dsimp only
  repeat' (first | with_reducible assumption | with_reducible apply kept_onLoop | with_reducible apply kept_onTop | with_reducible apply kept_note | with_reducible apply kept_loopAct | with_reducible apply kept_onAdp | (with_reducible refine kept_ite (fun _ => ?_) (fun _ => ?_)) | split)

theorem kept_gcSample {s t : State} {a0} (h : Kept s t) : Kept s (gcSample a0 t) := by
  unfold gcSample
  try dsimp only
  repeat' (first | with_reducible assumption | with_reducible apply kept_onAdp | with_reducible apply kept_gcUnit | (with_reducible refine kept_foldl4 ?_ (fun u x h => ?_)) | (with_reducible refine kept_foldl3 ?_ (fun u x h => ?_)) | (with_reducible refine kept_foldl2 ?_ (fun u x h => ?_)) | (with_reducible refine kept_foldl ?_ (fun u x h => ?_)) | (with_reducible refine kept_ite (fun _ => ?_) (fun _ => ?_)))

theorem kept_execAlGcSample {s : State} {a0} : ∃ u, execAlGcSample a0 s = .next u ∧ Kept s u := by
  refine ⟨_, rfl, ?_⟩
  have h := kept_rfl s
  try dsimp only
  repeat' (first | with_reducible assumption | with_reducible apply kept_after | with_reducible apply kept_gcSample)

theorem kept_rbStep {s t : State} {a0 a1 a2} (h : Kept s t) : Kept s (rbStep a0 a1 a2 t) := by
  unfold rbStep
  try dsimp only
  repeat' (first | with_reducible assumption | with_reducible apply kept_onLoop | with_reducible apply kept_loopAct | with_reducible apply kept_limitHit | (with_reducible refine kept_ite (fun _ => ?_) (fun _ => ?_)))

theorem kept_rbSample {s t : State} {a0 a1} (h : Kept s t) : Kept s (rbSample a0 a1 t) := by
  unfold rbSample
  try dsimp only
  repeat' (first | with_reducible assumption | with_reducible apply kept_onAdp | with_reducible apply kept_onPar | with_reducible apply kept_rbStep | (with_reducible refine kept_foldl4 ?_ (fun u x h => ?_)) | (with_reducible refine kept_foldl3 ?_ (fun u x h => ?_)) | (with_reducible refine kept_foldl2 ?_ (fun u x h => ?_)) | (with_reducible refine kept_foldl ?_ (fun u x h => ?_)) | (with_reducible refine kept_ite (fun _ => ?_) (fun _ => ?_)))

theorem kept_execAlRbSample {s : State} {a0 a1} : ∃ u, execAlRbSample a0 a1 s = .next u ∧ Kept s u := by
  refine ⟨_, rfl, ?_⟩
  have h := kept_rfl s
  try dsimp only
  repeat' (first | with_reducible assumption | with_reducible apply kept_rbSample)

theorem kept_freezeWrite {s t : State} {a0} (h : Kept s t) : Kept s (freezeWrite a0 t) := by
  unfold freezeWrite
  try dsimp only
  repeat' (first | with_reducible assumption | with_reducible apply kept_onAdp)

theorem kept_execAdpFreezeWrite {s : State} {a0 a1} : ∃ u, execAdpFreezeWrite a0 a1 s = .next u ∧ Kept s u := by
  refine ⟨_, rfl, ?_⟩
  have h := kept_rfl s
  try dsimp only
  repeat' (first | with_reducible assumption | (with_reducible refine kept_accessWrite ?_ (fun u h => ?_)) | with_reducible apply kept_freezeWrite)

end Sys2Proof.Machine
end

