-- ==== Sys2Proof/Laws/Kept/Recorder.lean ====
section
/-! SUPPORT. What the operations of Machine/Recorder.lean keep (`Kept`). -/

namespace Sys2Proof.Machine

theorem kept_onSensor {s t : State} {a0 a1} (h : Kept s t) : Kept s (onSensor a0 a1 t) := by
  unfold onSensor
  try dsimp only
  repeat' (first | with_reducible assumption | with_reducible apply kept_onMgt)

theorem kept_sensRead {s t : State} {a0 a1} (h : Kept s t) : Kept s (sensRead a0 a1 t) := by
  unfold sensRead
  try dsimp only
  repeat' (first | with_reducible assumption | with_reducible apply kept_onSensor | with_reducible apply kept_onMgt | with_reducible apply kept_evrRaise | (with_reducible refine kept_ite (fun _ => ?_) (fun _ => ?_)) | split)

theorem kept_junctionSample {s t : State} {a0} (h : Kept s t) : Kept s (junctionSample a0 t) := by
  unfold junctionSample
  try dsimp only
  repeat' (first | with_reducible assumption | with_reducible apply kept_sensRead | with_reducible apply kept_thermalTripEnd | with_reducible apply kept_thermalTrip | (with_reducible refine kept_foldl4 ?_ (fun u x h => ?_)) | (with_reducible refine kept_foldl3 ?_ (fun u x h => ?_)) | (with_reducible refine kept_foldl2 ?_ (fun u x h => ?_)) | (with_reducible refine kept_foldl ?_ (fun u x h => ?_)) | (with_reducible refine kept_ite (fun _ => ?_) (fun _ => ?_)) | split)

theorem kept_execJunctionSample {s : State} {a0} : ∃ u, execJunctionSample a0 s = .next u ∧ Kept s u := by
  refine ⟨_, rfl, ?_⟩
  have h := kept_rfl s
  try dsimp only
  repeat' (first | with_reducible assumption | with_reducible apply kept_after | with_reducible apply kept_junctionSample)

theorem kept_sensPoll {s t : State} {a0 a1 a2} (h : Kept s t) : Kept s (sensPoll a0 a1 a2 t) := by
  unfold sensPoll
  try dsimp only
  repeat' (first | with_reducible assumption | with_reducible apply kept_send | with_reducible apply kept_onSensor | with_reducible apply kept_note | with_reducible apply kept_sensRead | (with_reducible refine kept_ite (fun _ => ?_) (fun _ => ?_)) | split)

theorem kept_execSensorPoll {s : State} {a0} : ∃ u, execSensorPoll a0 s = .next u ∧ Kept s u := by
  refine ⟨_, rfl, ?_⟩
  have h := kept_rfl s
  try dsimp only
  repeat' (first | with_reducible assumption | with_reducible apply kept_sensPoll | (with_reducible refine kept_foldl4 ?_ (fun u x h => ?_)) | (with_reducible refine kept_foldl3 ?_ (fun u x h => ?_)) | (with_reducible refine kept_foldl2 ?_ (fun u x h => ?_)) | (with_reducible refine kept_foldl ?_ (fun u x h => ?_)) | (with_reducible refine kept_ite (fun _ => ?_) (fun _ => ?_)))

theorem kept_driveFans {s t : State} (h : Kept s t) : Kept s (driveFans t) := by
  unfold driveFans
  try dsimp only
  repeat' (first | with_reducible assumption | with_reducible apply kept_send | (with_reducible refine kept_foldl ?_ (fun u x h => ?_)))

theorem kept_fanUpdate {s t : State} {a0} (h : Kept s t) : Kept s (fanUpdate a0 t) := by
  unfold fanUpdate
  try dsimp only
  repeat' (first | with_reducible assumption | with_reducible apply kept_driveFans | with_reducible apply kept_onMgt | (with_reducible refine kept_ite (fun _ => ?_) (fun _ => ?_)) | split)

theorem kept_execFanUpdate {s : State} {a0} : ∃ u, execFanUpdate a0 s = .next u ∧ Kept s u := by
  refine ⟨_, rfl, ?_⟩
  have h := kept_rfl s
  try dsimp only
  repeat' (first | with_reducible assumption | with_reducible apply kept_fanUpdate)

theorem kept_fanFails {s t : State} {a0 a1} (h : Kept s t) : Kept s (fanFails a0 a1 t) := by
  unfold fanFails
  try dsimp only
  repeat' (first | with_reducible assumption | with_reducible apply kept_driveFans | with_reducible apply kept_note | with_reducible apply kept_onMgt | (with_reducible refine kept_ite (fun _ => ?_) (fun _ => ?_)))

theorem kept_execFanTachFail {s : State} {a0 a1} : ∃ u, execFanTachFail a0 a1 s = .next u ∧ Kept s u := by
  refine ⟨_, rfl, ?_⟩
  have h := kept_rfl s
  try dsimp only
  repeat' (first | with_reducible assumption | with_reducible apply kept_fanFails)

theorem kept_debugWrite {s t : State} {a0 a1} (h : Kept s t) : Kept s (debugWrite a0 a1 t) := by
  unfold debugWrite
  try dsimp only
  repeat' (first | with_reducible assumption | with_reducible apply kept_accessError | with_reducible apply kept_onMgt | with_reducible apply kept_note | with_reducible apply kept_msrExtend | (with_reducible refine kept_ite (fun _ => ?_) (fun _ => ?_)))

theorem kept_execMgtDebugSet {s : State} {a0 a1} : ∃ u, execMgtDebugSet a0 a1 s = .next u ∧ Kept s u := by
  refine ⟨_, rfl, ?_⟩
  have h := kept_rfl s
  try dsimp only
  repeat' (first | with_reducible assumption | (with_reducible refine kept_accessWrite ?_ (fun u h => ?_)) | with_reducible apply kept_debugWrite)

theorem kept_execMgtDebugClear {s : State} {a0 a1} : ∃ u, execMgtDebugClear a0 a1 s = .next u ∧ Kept s u := by
  refine ⟨_, rfl, ?_⟩
  have h := kept_rfl s
  try dsimp only
  repeat' (first | with_reducible assumption | (with_reducible refine kept_accessWrite ?_ (fun u h => ?_)) | with_reducible apply kept_debugWrite)

theorem kept_evrCtrl {s t : State} {a0} (h : Kept s t) : Kept s (evrCtrl a0 t) := by
  unfold evrCtrl
  try dsimp only
  repeat' (first | with_reducible assumption | with_reducible apply kept_onEvr)

theorem kept_execEvrCtrlWrite {s : State} {a0 a1} : ∃ u, execEvrCtrlWrite a0 a1 s = .next u ∧ Kept s u := by
  refine ⟨_, rfl, ?_⟩
  have h := kept_rfl s
  try dsimp only
  repeat' (first | with_reducible assumption | (with_reducible refine kept_accessWrite ?_ (fun u h => ?_)) | with_reducible apply kept_evrCtrl)

theorem kept_evrClear {s t : State} {a0} (h : Kept s t) : Kept s (evrClear a0 t) := by
  unfold evrClear
  try dsimp only
  repeat' (first | with_reducible assumption | with_reducible apply kept_onEvr | (with_reducible refine kept_ite (fun _ => ?_) (fun _ => ?_)))

theorem kept_execEvrClear {s : State} {a0 a1} : ∃ u, execEvrClear a0 a1 s = .next u ∧ Kept s u := by
  refine ⟨_, rfl, ?_⟩
  have h := kept_rfl s
  try dsimp only
  repeat' (first | with_reducible assumption | (with_reducible refine kept_accessWrite ?_ (fun u h => ?_)) | with_reducible apply kept_evrClear)

theorem kept_spillEntries {s t : State} {a0 a1} (h : Kept s t) : Kept s (spillEntries a0 a1 t) := by
  induction a0 generalizing t a1 with
  | zero =>
    unfold spillEntries
    repeat' (first | with_reducible assumption | with_reducible apply ih | with_reducible apply kept_send | with_reducible apply kept_onEvr | (with_reducible refine kept_ite (fun _ => ?_) (fun _ => ?_)) | split | (cases ‹_ + 1 = Nat.succ _›))
  | succ _ ih =>
    unfold spillEntries
    try dsimp only
    repeat' (first | with_reducible assumption | with_reducible apply ih | with_reducible apply kept_send | with_reducible apply kept_onEvr | (with_reducible refine kept_ite (fun _ => ?_) (fun _ => ?_)) | split | (cases ‹_ + 1 = Nat.succ _›))

theorem kept_evrSpill {s t : State} {a0} (h : Kept s t) : Kept s (evrSpill a0 t) := by
  unfold evrSpill
  try dsimp only
  repeat' (first | with_reducible assumption | with_reducible apply kept_spillEntries | (with_reducible refine kept_ite (fun _ => ?_) (fun _ => ?_)))

theorem kept_execEvrSpill {s : State} {a0} : ∃ u, execEvrSpill a0 s = .next u ∧ Kept s u := by
  refine ⟨_, rfl, ?_⟩
  have h := kept_rfl s
  try dsimp only
  repeat' (first | with_reducible assumption | with_reducible apply kept_evrSpill)

theorem kept_msrGo {s t : State} {a0 a1} (h : Kept s t) : Kept s (msrGo a0 a1 t) := by
  unfold msrGo
  try dsimp only
  repeat' (first | with_reducible assumption | with_reducible apply kept_accessError | with_reducible apply kept_msrExtend | (with_reducible refine kept_ite (fun _ => ?_) (fun _ => ?_)))

theorem kept_execMsrExtGo {s : State} {a0 a1} : ∃ u, execMsrExtGo a0 a1 s = .next u ∧ Kept s u := by
  refine ⟨_, rfl, ?_⟩
  have h := kept_rfl s
  try dsimp only
  repeat' (first | with_reducible assumption | (with_reducible refine kept_accessWrite ?_ (fun u h => ?_)) | with_reducible apply kept_msrGo)

theorem kept_digGo {s t : State} {a0} (h : Kept s t) : Kept s (digGo a0 t) := by
  unfold digGo
  try dsimp only
  repeat' (first | with_reducible assumption | with_reducible apply kept_onMsr | (with_reducible refine kept_ite (fun _ => ?_) (fun _ => ?_)))

theorem kept_execMsrDigGo {s : State} {a0 a1} : ∃ u, execMsrDigGo a0 a1 s = .next u ∧ Kept s u := by
  refine ⟨_, rfl, ?_⟩
  have h := kept_rfl s
  try dsimp only
  repeat' (first | with_reducible assumption | (with_reducible refine kept_accessWrite ?_ (fun u h => ?_)) | with_reducible apply kept_digGo)

theorem kept_freeWords {s t : State} {a0} (h : Kept s t) : Kept s (freeWords a0 t).2 := by
  induction a0 generalizing t  with
  | zero =>
    unfold freeWords
    repeat' (first | with_reducible assumption | with_reducible apply ih | with_reducible apply kept_freeNat | (with_reducible refine kept_snd (by assumption) (kept_freeNat ?_)) | split | (cases ‹_ + 1 = Nat.succ _›))
  | succ _ ih =>
    unfold freeWords
    try dsimp only
    repeat' (first | with_reducible assumption | with_reducible apply ih | with_reducible apply kept_freeNat | (with_reducible refine kept_snd (by assumption) (kept_freeNat ?_)) | split | (cases ‹_ + 1 = Nat.succ _›))

theorem kept_digDone {s t : State} (h : Kept s t) : Kept s (digDone t) := by
  unfold digDone
  try dsimp only
  repeat' (first | with_reducible assumption | with_reducible apply kept_freeWords | (with_reducible refine kept_snd (by assumption) (kept_freeWords ?_)) | with_reducible apply kept_onMsr | (with_reducible refine kept_ite (fun _ => ?_) (fun _ => ?_)) | split)

theorem kept_execMsrDigDone {s : State} : ∃ u, execMsrDigDone s = .next u ∧ Kept s u := by
  refine ⟨_, rfl, ?_⟩
  have h := kept_rfl s
  try dsimp only
  repeat' (first | with_reducible assumption | with_reducible apply kept_digDone)

end Sys2Proof.Machine
end

