-- ==== Sys2Proof/Laws/Kept/Chain.lean ====
section
/-! SUPPORT. What the operations of Machine/Chain.lean keep (`Kept`). -/

namespace Sys2Proof.Machine

theorem kept_fn_onChain {s t : State} {a0 a1} (h : Kept s t) : Kept s (onChain a0 a1 t) := by
  unfold onChain
  try dsimp only
  repeat' (first | with_reducible assumption | with_reducible apply kept_onChain | (with_reducible refine kept_ite (fun _ => ?_) (fun _ => ?_)))

theorem kept_chainPump {s t : State} {a0 a1} (h : Kept s t) : Kept s (chainPump a0 a1 t) := by
  induction a1 generalizing t  with
  | zero =>
    unfold chainPump
    repeat' (first | with_reducible assumption | with_reducible apply ih | with_reducible apply kept_send | with_reducible apply kept_fn_onChain | (with_reducible refine kept_ite (fun _ => ?_) (fun _ => ?_)) | split | (cases ‹_ + 1 = Nat.succ _›))
  | succ _ ih =>
    unfold chainPump
    try dsimp only
    repeat' (first | with_reducible assumption | with_reducible apply ih | with_reducible apply kept_send | with_reducible apply kept_fn_onChain | (with_reducible refine kept_ite (fun _ => ?_) (fun _ => ?_)) | split | (cases ‹_ + 1 = Nat.succ _›))

theorem kept_chainSend {s t : State} {a0 a1 a2} (h : Kept s t) : Kept s (chainSend a0 a1 a2 t) := by
  unfold chainSend
  try dsimp only
  repeat' (first | with_reducible assumption | with_reducible apply kept_chainPump | with_reducible apply kept_fn_onChain | (with_reducible refine kept_ite (fun _ => ?_) (fun _ => ?_)))

theorem kept_chainAnswer {s t : State} {a0 a1 a2} (h : Kept s t) : Kept s (chainAnswer a0 a1 a2 t) := by
  unfold chainAnswer
  try dsimp only
  repeat' (first | with_reducible assumption | with_reducible apply kept_send)

theorem kept_chainResend {s t : State} {a0 a1} (h : Kept s t) : Kept s (chainResend a0 a1 t) := by
  unfold chainResend
  try dsimp only
  repeat' (first | with_reducible assumption | with_reducible apply kept_note | with_reducible apply kept_fn_onChain | with_reducible apply kept_send | with_reducible apply kept_onUpd | (with_reducible refine kept_ite (fun _ => ?_) (fun _ => ?_)) | split)

theorem kept_chainAcked {s t : State} {a0 a1} (h : Kept s t) : Kept s (chainAcked a0 a1 t) := by
  unfold chainAcked
  try dsimp only
  repeat' (first | with_reducible assumption | with_reducible apply kept_chainPump | with_reducible apply kept_fn_onChain)

theorem kept_writeBlock {s t : State} {a0 a1 a2} (h : Kept s t) : Kept s (writeBlock a0 a1 a2 t) := by
  unfold writeBlock
  try dsimp only
  repeat' (first | with_reducible assumption | with_reducible apply kept_send | (with_reducible refine kept_foldl ?_ (fun u x h => ?_)) | (with_reducible refine kept_ite (fun _ => ?_) (fun _ => ?_)) | split)

theorem kept_updFail {s t : State} {a0} (h : Kept s t) : Kept s (updFail a0 t) := by
  unfold updFail
  try dsimp only
  repeat' (first | with_reducible assumption | with_reducible apply kept_note | with_reducible apply kept_onUpd)

theorem kept_storeBlock {s t : State} {a0} (h : Kept s t) : Kept s (storeBlock a0 t) := by
  unfold storeBlock
  try dsimp only
  repeat' (first | with_reducible assumption | with_reducible apply kept_onUpd | with_reducible apply kept_updFail | with_reducible apply kept_writeBlock | (with_reducible refine kept_ite (fun _ => ?_) (fun _ => ?_)))

theorem kept_updDrain {s t : State} {a0} (h : Kept s t) : Kept s (updDrain a0 t) := by
  induction a0 generalizing t  with
  | zero =>
    unfold updDrain
    repeat' (first | with_reducible assumption | with_reducible apply ih | with_reducible apply kept_storeBlock | with_reducible apply kept_onUpd | (with_reducible refine kept_ite (fun _ => ?_) (fun _ => ?_)) | split | (cases ‹_ + 1 = Nat.succ _›))
  | succ _ ih =>
    unfold updDrain
    try dsimp only
    repeat' (first | with_reducible assumption | with_reducible apply ih | with_reducible apply kept_storeBlock | with_reducible apply kept_onUpd | (with_reducible refine kept_ite (fun _ => ?_) (fun _ => ?_)) | split | (cases ‹_ + 1 = Nat.succ _›))

theorem kept_takeBlock {s t : State} {a0} (h : Kept s t) : Kept s (takeBlock a0 t).2 := by
  unfold takeBlock
  try dsimp only
  repeat' (first | with_reducible assumption | with_reducible apply kept_onUpd | with_reducible apply kept_chainSend | with_reducible apply kept_updDrain | (with_reducible refine kept_ite (fun _ => ?_) (fun _ => ?_)) | (with_reducible refine kept_ite2 (fun _ => ?_) (fun _ => ?_)))

theorem kept_blockIn {s t : State} {a0 a1} (h : Kept s t) : Kept s (blockIn a0 a1 t) := by
  unfold blockIn
  try dsimp only
  repeat' (first | with_reducible assumption | with_reducible apply kept_takeBlock | (with_reducible refine kept_snd (by assumption) (kept_takeBlock ?_)) | with_reducible apply kept_chainAnswer | split)

theorem kept_updVerified {s t : State} {a0} (h : Kept s t) : Kept s (updVerified a0 t) := by
  unfold updVerified
  try dsimp only
  repeat' (first | with_reducible assumption | with_reducible apply kept_updFail | with_reducible apply kept_note | with_reducible apply kept_msrExtend | with_reducible apply kept_onUpd | with_reducible apply kept_requestL1 | with_reducible apply kept_writeOptions | with_reducible apply kept_updRetry | (with_reducible refine kept_ite (fun _ => ?_) (fun _ => ?_)) | split)

theorem kept_execUpdVerifyDone {s : State} {a0} : ∃ u, execUpdVerifyDone a0 s = .next u ∧ Kept s u := by
  refine ⟨_, rfl, ?_⟩
  have h := kept_rfl s
  try dsimp only
  repeat' (first | with_reducible assumption | with_reducible apply kept_afterP | with_reducible apply kept_updVerified)

theorem kept_updDeny {s t : State} {a0} (h : Kept s t) : Kept s (updDeny a0 t) := by
  unfold updDeny
  try dsimp only
  repeat' (first | with_reducible assumption | with_reducible apply kept_onUpd)

theorem kept_updRollTo {s t : State} {a0} (h : Kept s t) : Kept s (updRollTo a0 t) := by
  unfold updRollTo
  try dsimp only
  repeat' (first | with_reducible assumption | with_reducible apply kept_raise | with_reducible apply kept_onUpd | with_reducible apply kept_writeOptions | with_reducible apply kept_giveVolumes | with_reducible apply kept_requestL1)

theorem kept_burnKey {s t : State} {a0} (h : Kept s t) : Kept s (burnKey a0 t) := by
  refine h.trans ⟨⟨rfl, ⟨rfl, rfl, rfl, fun i x => ?_⟩, List.suffix_refl _, .inl rfl⟩, id⟩
  show ((setBit t.part.revoked a0 true).getLsbD i) = true
  simp [setBit, x]

theorem kept_updCtrl {s t : State} {a0 a1} (h : Kept s t) : Kept s (updCtrl a0 a1 t) := by
  unfold updCtrl
  try dsimp only
  repeat' (first | with_reducible assumption | with_reducible apply kept_accessError | with_reducible apply kept_updActivate | with_reducible apply kept_onUpd | with_reducible apply kept_updDeny | with_reducible apply kept_updRollTo | with_reducible apply kept_burnKey | (with_reducible refine kept_ite (fun _ => ?_) (fun _ => ?_)) | split)

theorem kept_execUpdCtrlActivate {s : State} {a0 a1} : ∃ u, execUpdCtrlActivate a0 a1 s = .next u ∧ Kept s u := by
  refine ⟨_, rfl, ?_⟩
  have h := kept_rfl s
  try dsimp only
  repeat' (first | with_reducible assumption | with_reducible apply kept_afterP | (with_reducible refine kept_accessWrite ?_ (fun u h => ?_)) | with_reducible apply kept_updCtrl)

theorem kept_execUpdCtrlAbandon {s : State} {a0 a1} : ∃ u, execUpdCtrlAbandon a0 a1 s = .next u ∧ Kept s u := by
  refine ⟨_, rfl, ?_⟩
  have h := kept_rfl s
  try dsimp only
  repeat' (first | with_reducible assumption | with_reducible apply kept_afterP | (with_reducible refine kept_accessWrite ?_ (fun u h => ?_)) | with_reducible apply kept_updCtrl)

theorem kept_execUpdCtrlRollback {s : State} {a0 a1} : ∃ u, execUpdCtrlRollback a0 a1 s = .next u ∧ Kept s u := by
  refine ⟨_, rfl, ?_⟩
  have h := kept_rfl s
  try dsimp only
  repeat' (first | with_reducible assumption | with_reducible apply kept_afterP | (with_reducible refine kept_accessWrite ?_ (fun u h => ?_)) | with_reducible apply kept_updCtrl)

theorem kept_execUpdCtrlRevoke {s : State} {a0 a1} : ∃ u, execUpdCtrlRevoke a0 a1 s = .next u ∧ Kept s u := by
  refine ⟨_, rfl, ?_⟩
  have h := kept_rfl s
  try dsimp only
  repeat' (first | with_reducible assumption | with_reducible apply kept_afterP | (with_reducible refine kept_accessWrite ?_ (fun u h => ?_)) | with_reducible apply kept_updCtrl)

theorem kept_execUpdConfirmTimeout {s : State} : ∃ u, execUpdConfirmTimeout s = .next u ∧ Kept s u := by
  refine ⟨_, rfl, ?_⟩
  have h := kept_rfl s
  try dsimp only
  repeat' (first | with_reducible assumption | with_reducible apply kept_afterP | with_reducible apply kept_updRollBack | (with_reducible refine kept_ite (fun _ => ?_) (fun _ => ?_)))

theorem kept_tokenIn {s t : State} {a0 a1} (h : Kept s t) : Kept s (tokenIn a0 a1 t) := by
  unfold tokenIn
  try dsimp only
  repeat' (first | with_reducible assumption | with_reducible apply kept_chainAnswer | with_reducible apply kept_onUpd | with_reducible apply kept_raise | with_reducible apply kept_chainSend | (with_reducible refine kept_ite (fun _ => ?_) (fun _ => ?_)))

theorem kept_agreePeriod {s t : State} (h : Kept s t) : Kept s (agreePeriod t) := by
  unfold agreePeriod
  try dsimp only
  repeat' (first | with_reducible assumption | with_reducible apply kept_onChain | with_reducible apply kept_chainSend | with_reducible apply kept_onUpd | (with_reducible refine kept_ite (fun _ => ?_) (fun _ => ?_)))

theorem kept_execAgreePeriodToken {s : State} : ∃ u, execAgreePeriodToken s = .next u ∧ Kept s u := by
  refine ⟨_, rfl, ?_⟩
  have h := kept_rfl s
  try dsimp only
  repeat' (first | with_reducible assumption | with_reducible apply kept_agreePeriod)

theorem kept_agreeLost {s t : State} (h : Kept s t) : Kept s (agreeLost t) := by
  unfold agreeLost
  try dsimp only
  repeat' (first | with_reducible assumption | with_reducible apply kept_note | with_reducible apply kept_onUpd | (with_reducible refine kept_ite (fun _ => ?_) (fun _ => ?_)))

theorem kept_execAgreeLostTimer {s : State} : ∃ u, execAgreeLostTimer s = .next u ∧ Kept s u := by
  refine ⟨_, rfl, ?_⟩
  have h := kept_rfl s
  try dsimp only
  repeat' (first | with_reducible assumption | with_reducible apply kept_agreeLost)

theorem kept_chainIn {s t : State} {a0 a1} (h : Kept s t) : Kept s (chainIn a0 a1 t) := by
  unfold chainIn
  try dsimp only
  repeat' (first | with_reducible assumption | with_reducible apply kept_blockIn | with_reducible apply kept_chainAcked | with_reducible apply kept_chainResend | with_reducible apply kept_tokenIn | (with_reducible refine kept_ite (fun _ => ?_) (fun _ => ?_)) | split)

theorem kept_execChainBlock {s : State} {a0 a1} : ∃ u, execChainBlock a0 a1 s = .next u ∧ Kept s u := by
  refine ⟨_, rfl, ?_⟩
  have h := kept_rfl s
  try dsimp only
  repeat' (first | with_reducible assumption | with_reducible apply kept_chainIn)

theorem kept_execChainAck {s : State} {a0 a1} : ∃ u, execChainAck a0 a1 s = .next u ∧ Kept s u := by
  refine ⟨_, rfl, ?_⟩
  have h := kept_rfl s
  try dsimp only
  repeat' (first | with_reducible assumption | with_reducible apply kept_chainIn)

theorem kept_execChainNak {s : State} {a0 a1} : ∃ u, execChainNak a0 a1 s = .next u ∧ Kept s u := by
  refine ⟨_, rfl, ?_⟩
  have h := kept_rfl s
  try dsimp only
  repeat' (first | with_reducible assumption | with_reducible apply kept_chainIn)

theorem kept_execChainToken {s : State} {a0 a1} : ∃ u, execChainToken a0 a1 s = .next u ∧ Kept s u := by
  refine ⟨_, rfl, ?_⟩
  have h := kept_rfl s
  try dsimp only
  repeat' (first | with_reducible assumption | with_reducible apply kept_chainIn)

theorem kept_execChainResendTimer {s : State} {a0 a1} : ∃ u, execChainResendTimer a0 a1 s = .next u ∧ Kept s u := by
  refine ⟨_, rfl, ?_⟩
  have h := kept_rfl s
  try dsimp only
  repeat' (first | with_reducible assumption | with_reducible apply kept_chainResend | (with_reducible refine kept_ite (fun _ => ?_) (fun _ => ?_)))

theorem kept_chainUp {s t : State} {a0} (h : Kept s t) : Kept s (chainUp a0 t) := by
  unfold chainUp
  try dsimp only
  repeat' (first | with_reducible assumption | with_reducible apply kept_fn_onChain | with_reducible apply kept_onMgt | (with_reducible refine kept_ite (fun _ => ?_) (fun _ => ?_)))

theorem kept_execChainLinkUp {s : State} {a0} : ∃ u, execChainLinkUp a0 s = .next u ∧ Kept s u := by
  refine ⟨_, rfl, ?_⟩
  have h := kept_rfl s
  try dsimp only
  repeat' (first | with_reducible assumption | with_reducible apply kept_chainUp | (with_reducible refine kept_ite (fun _ => ?_) (fun _ => ?_)))

theorem kept_execRecordReadDone {s : State} {a0} : ∃ u, execRecordReadDone a0 s = .next u ∧ Kept s u := by
  refine ⟨_, rfl, ?_⟩
  have h := kept_rfl s
  try dsimp only
  repeat' (first | with_reducible assumption | with_reducible apply kept_after | with_reducible apply kept_updDrain | with_reducible apply kept_loadRecord | with_reducible apply kept_rereadRecord | (with_reducible refine kept_ite (fun _ => ?_) (fun _ => ?_)))

end Sys2Proof.Machine
end

