-- ==== Sys2Proof/Laws/Kept/Regs.lean ====
section
/-! SUPPORT. What the operations of Machine/Regs.lean keep (`Kept`). -/

namespace Sys2Proof.Machine

theorem kept_onBusPort {s t : State} {a0 a1} (h : Kept s t) : Kept s (onBusPort a0 a1 t) := by
  unfold onBusPort
  try dsimp only
  repeat' (first | with_reducible assumption | with_reducible apply kept_onBus | split)

/-- What a word of the register space may do to the state. -/
def RegKept (o : Option Reg) : Prop := ∀ g, o = some g →
  (∀ r s t, Kept s t → Kept s (g.onRead r t)) ∧ ∀ r v s t, Kept s t → Kept s (g.write r v t)

theorem regKept_none : RegKept none := fun _ e => by cases e

theorem regKept_ro {f : State → Nat} : RegKept (roReg f) := fun _ e => by cases e; exact ⟨fun _ _ _ h => h, fun _ _ _ _ h => h⟩

theorem regKept_rw {f : State → Nat} {w : Nat → State → State} (k : ∀ v s t, Kept s t → Kept s (w v t)) : RegKept (rwReg f w) :=
  fun _ e => by cases e; exact ⟨fun _ _ _ h => h, fun _ v _ _ h => k v _ _ h⟩

theorem regKept_rc {f : State → Nat} {c : State → State} (k : ∀ s t, Kept s t → Kept s (c t)) : RegKept (rcReg f c) :=
  fun _ e => by cases e; exact ⟨fun _ _ _ h => k _ _ h, fun _ _ _ _ h => h⟩

theorem regKept_wo {w : Requester → Nat → State → State} (k : ∀ r v s t, Kept s t → Kept s (w r v t)) : RegKept (woReg w) :=
  fun _ e => by cases e; exact ⟨fun _ _ _ h => h, k⟩

theorem regKept_lo {a : Nat} {f : State → Nat} : RegKept (loReg a f) :=
  fun _ e => by cases e; exact ⟨fun _ _ _ h => kept_onBusPort h, fun _ _ _ _ h => h⟩

theorem regKept_hi {a : Nat} {f : State → Nat} : RegKept (hiReg a f) := fun _ e => by cases e; exact ⟨fun _ _ _ h => h, fun _ _ _ _ h => h⟩

/-- A low or high word that a write goes to. -/
theorem regKept_write {o : Option Reg} {w : Requester → Nat → State → State} (h : RegKept o) (k : ∀ r v s t, Kept s t → Kept s (w r v t)) :
    RegKept (o.map fun g => { g with write := w }) := by
  intro g e
  cases o with
  | none => cases e
  | some x => cases e; exact ⟨(h x rfl).1, k⟩

theorem kept_cfgReg {a0} : RegKept (cfgReg a0) := by
  unfold cfgReg
  repeat' (first | with_reducible exact regKept_ro | with_reducible exact regKept_hi | with_reducible exact regKept_lo | with_reducible exact regKept_none | with_reducible assumption | (with_reducible refine regKept_rc fun s t h => ?_) | (with_reducible refine regKept_rw fun v s t h => ?_) | (with_reducible refine regKept_wo fun r v s t h => ?_) | (with_reducible refine regKept_map fun r v s t h => ?_) | with_reducible apply kept_onCfg | (with_reducible refine kept_onFtl_same ?_ (fun _ => rfl) (fun _ => rfl)) | ((with_reducible refine kept_onRst_all ?_ ?_); rotate_left; exact fun _ x => x) | (with_reducible refine kept_ite (fun _ => ?_) (fun _ => ?_)) | split)

theorem kept_fabReg {a0} : RegKept (fabReg a0) := by
  unfold fabReg
  repeat' (first | with_reducible exact regKept_ro | with_reducible exact regKept_hi | with_reducible exact regKept_lo | with_reducible exact regKept_none | with_reducible assumption | (with_reducible refine regKept_rc fun s t h => ?_) | (with_reducible refine regKept_rw fun v s t h => ?_) | (with_reducible refine regKept_wo fun r v s t h => ?_) | (with_reducible refine regKept_map fun r v s t h => ?_) | with_reducible apply kept_after | with_reducible apply kept_fabCtrl | with_reducible apply kept_onFab | (with_reducible refine kept_onFtl_same ?_ (fun _ => rfl) (fun _ => rfl)) | ((with_reducible refine kept_onRst_all ?_ ?_); rotate_left; exact fun _ x => x) | (with_reducible refine kept_ite (fun _ => ?_) (fun _ => ?_)) | split)

theorem kept_qpcReg {a0} : RegKept (qpcReg a0) := by
  unfold qpcReg
  repeat' (first | with_reducible exact regKept_ro | with_reducible exact regKept_hi | with_reducible exact regKept_lo | with_reducible exact regKept_none | with_reducible assumption | (with_reducible refine regKept_rc fun s t h => ?_) | (with_reducible refine regKept_rw fun v s t h => ?_) | (with_reducible refine regKept_wo fun r v s t h => ?_) | (with_reducible refine regKept_map fun r v s t h => ?_) | with_reducible apply kept_onQpc | (with_reducible refine kept_onFtl_same ?_ (fun _ => rfl) (fun _ => rfl)) | ((with_reducible refine kept_onRst_all ?_ ?_); rotate_left; exact fun _ x => x) | (with_reducible refine kept_ite (fun _ => ?_) (fun _ => ?_)) | split)

theorem kept_cmdReg {a0} : RegKept (cmdReg a0) := by
  unfold cmdReg
  repeat' (first | with_reducible exact regKept_ro | with_reducible exact regKept_hi | with_reducible exact regKept_lo | with_reducible exact regKept_none | with_reducible assumption | (with_reducible refine regKept_rc fun s t h => ?_) | (with_reducible refine regKept_rw fun v s t h => ?_) | (with_reducible refine regKept_wo fun r v s t h => ?_) | (with_reducible refine regKept_map fun r v s t h => ?_) | with_reducible apply kept_onCmd | (with_reducible refine kept_onFtl_same ?_ (fun _ => rfl) (fun _ => rfl)) | ((with_reducible refine kept_onRst_all ?_ ?_); rotate_left; exact fun _ x => x) | (with_reducible refine kept_ite (fun _ => ?_) (fun _ => ?_)) | split)

theorem kept_ingReg {a0} : RegKept (ingReg a0) := by
  unfold ingReg
  repeat' (first | with_reducible exact regKept_ro | with_reducible exact regKept_hi | with_reducible exact regKept_lo | with_reducible exact regKept_none | with_reducible assumption | (with_reducible refine regKept_rc fun s t h => ?_) | (with_reducible refine regKept_rw fun v s t h => ?_) | (with_reducible refine regKept_wo fun r v s t h => ?_) | (with_reducible refine regKept_map fun r v s t h => ?_) | with_reducible apply kept_onIng | (with_reducible refine kept_onFtl_same ?_ (fun _ => rfl) (fun _ => rfl)) | ((with_reducible refine kept_onRst_all ?_ ?_); rotate_left; exact fun _ x => x) | (with_reducible refine kept_ite (fun _ => ?_) (fun _ => ?_)) | split)

theorem kept_fprReg {a0} : RegKept (fprReg a0) := by
  unfold fprReg
  repeat' (first | with_reducible exact regKept_ro | with_reducible exact regKept_hi | with_reducible exact regKept_lo | with_reducible exact regKept_none | with_reducible assumption | (with_reducible refine regKept_rc fun s t h => ?_) | (with_reducible refine regKept_rw fun v s t h => ?_) | (with_reducible refine regKept_wo fun r v s t h => ?_) | (with_reducible refine regKept_map fun r v s t h => ?_) | with_reducible apply kept_evict | with_reducible apply kept_fprRebuildWrite | with_reducible apply kept_onFpr | (with_reducible refine kept_onFtl_same ?_ (fun _ => rfl) (fun _ => rfl)) | ((with_reducible refine kept_onRst_all ?_ ?_); rotate_left; exact fun _ x => x) | (with_reducible refine kept_ite (fun _ => ?_) (fun _ => ?_)) | split)

theorem kept_cmpReg {a0} : RegKept (cmpReg a0) := by
  unfold cmpReg
  repeat' (first | with_reducible exact regKept_ro | with_reducible exact regKept_hi | with_reducible exact regKept_lo | with_reducible exact regKept_none | with_reducible assumption | (with_reducible refine regKept_rc fun s t h => ?_) | (with_reducible refine regKept_rw fun v s t h => ?_) | (with_reducible refine regKept_wo fun r v s t h => ?_) | (with_reducible refine regKept_map fun r v s t h => ?_) | with_reducible apply kept_onCmp | (with_reducible refine kept_onFtl_same ?_ (fun _ => rfl) (fun _ => rfl)) | ((with_reducible refine kept_onRst_all ?_ ?_); rotate_left; exact fun _ x => x) | (with_reducible refine kept_ite (fun _ => ?_) (fun _ => ?_)) | split)

theorem kept_kbusWrite {s t : State} {a0 a1 a2} (h : Kept s t) : Kept s (kbusWrite a0 a1 a2 t) := by
  unfold kbusWrite
  try dsimp only
  repeat' (first | with_reducible assumption | with_reducible apply kept_accessError | with_reducible apply kept_onCip | (with_reducible refine kept_ite (fun _ => ?_) (fun _ => ?_)))

theorem kept_cipReg {a0} : RegKept (cipReg a0) := by
  unfold cipReg
  repeat' (first | with_reducible exact regKept_ro | with_reducible exact regKept_hi | with_reducible exact regKept_lo | with_reducible exact regKept_none | with_reducible assumption | (with_reducible refine regKept_rc fun s t h => ?_) | (with_reducible refine regKept_rw fun v s t h => ?_) | (with_reducible refine regKept_wo fun r v s t h => ?_) | (with_reducible refine regKept_map fun r v s t h => ?_) | with_reducible apply kept_after | with_reducible apply kept_kbusCmd | with_reducible apply kept_kbusWrite | with_reducible apply kept_ctxLost | with_reducible apply kept_onCip | (with_reducible refine kept_onFtl_same ?_ (fun _ => rfl) (fun _ => rfl)) | ((with_reducible refine kept_onRst_all ?_ ?_); rotate_left; exact fun _ x => x) | (with_reducible refine kept_ite (fun _ => ?_) (fun _ => ?_)) | split)

theorem kept_bufReg {a0} : RegKept (bufReg a0) := by
  unfold bufReg
  repeat' (first | with_reducible exact regKept_ro | with_reducible exact regKept_hi | with_reducible exact regKept_lo | with_reducible exact regKept_none | with_reducible assumption | (with_reducible refine regKept_rc fun s t h => ?_) | (with_reducible refine regKept_rw fun v s t h => ?_) | (with_reducible refine regKept_wo fun r v s t h => ?_) | (with_reducible refine regKept_map fun r v s t h => ?_) | with_reducible apply kept_fn_onBuf | with_reducible apply kept_onBuf | (with_reducible refine kept_onFtl_same ?_ (fun _ => rfl) (fun _ => rfl)) | ((with_reducible refine kept_onRst_all ?_ ?_); rotate_left; exact fun _ x => x) | (with_reducible refine kept_ite (fun _ => ?_) (fun _ => ?_)) | split)

theorem kept_ftlReg {a0} : RegKept (ftlReg a0) := by
  unfold ftlReg
  repeat' (first | with_reducible exact regKept_ro | with_reducible exact regKept_hi | with_reducible exact regKept_lo | with_reducible exact regKept_none | with_reducible assumption | (with_reducible refine regKept_rc fun s t h => ?_) | (with_reducible refine regKept_rw fun v s t h => ?_) | (with_reducible refine regKept_wo fun r v s t h => ?_) | (with_reducible refine regKept_map fun r v s t h => ?_) | with_reducible apply kept_after | with_reducible apply kept_ftlFormat | (with_reducible refine kept_onFtl_same ?_ (fun _ => rfl) (fun _ => rfl)) | ((with_reducible refine kept_onRst_all ?_ ?_); rotate_left; exact fun _ x => x) | (with_reducible refine kept_ite (fun _ => ?_) (fun _ => ?_)) | split)

theorem kept_parReg {a0} : RegKept (parReg a0) := by
  unfold parReg
  repeat' (first | with_reducible exact regKept_ro | with_reducible exact regKept_hi | with_reducible exact regKept_lo | with_reducible exact regKept_none | with_reducible assumption | (with_reducible refine regKept_rc fun s t h => ?_) | (with_reducible refine regKept_rw fun v s t h => ?_) | (with_reducible refine regKept_wo fun r v s t h => ?_) | (with_reducible refine regKept_map fun r v s t h => ?_) | with_reducible apply kept_onPar | (with_reducible refine kept_onFtl_same ?_ (fun _ => rfl) (fun _ => rfl)) | ((with_reducible refine kept_onRst_all ?_ ?_); rotate_left; exact fun _ x => x) | (with_reducible refine kept_ite (fun _ => ?_) (fun _ => ?_)) | split)

theorem kept_jnlReg {a0} : RegKept (jnlReg a0) := by
  unfold jnlReg
  repeat' (first | with_reducible exact regKept_ro | with_reducible exact regKept_hi | with_reducible exact regKept_lo | with_reducible exact regKept_none | with_reducible assumption | (with_reducible refine regKept_rc fun s t h => ?_) | (with_reducible refine regKept_rw fun v s t h => ?_) | (with_reducible refine regKept_wo fun r v s t h => ?_) | (with_reducible refine regKept_map fun r v s t h => ?_) | with_reducible apply kept_onJnl | (with_reducible refine kept_onFtl_same ?_ (fun _ => rfl) (fun _ => rfl)) | ((with_reducible refine kept_onRst_all ?_ ?_); rotate_left; exact fun _ x => x) | (with_reducible refine kept_ite (fun _ => ?_) (fun _ => ?_)) | split)

theorem kept_sldReg {a0} : RegKept (sldReg a0) := by
  unfold sldReg
  repeat' (first | with_reducible exact regKept_ro | with_reducible exact regKept_hi | with_reducible exact regKept_lo | with_reducible exact regKept_none | with_reducible assumption | (with_reducible refine regKept_rc fun s t h => ?_) | (with_reducible refine regKept_rw fun v s t h => ?_) | (with_reducible refine regKept_wo fun r v s t h => ?_) | (with_reducible refine regKept_map fun r v s t h => ?_) | with_reducible apply kept_linkUp | with_reducible apply kept_onSld | (with_reducible refine kept_onFtl_same ?_ (fun _ => rfl) (fun _ => rfl)) | ((with_reducible refine kept_onRst_all ?_ ?_); rotate_left; exact fun _ x => x) | (with_reducible refine kept_ite (fun _ => ?_) (fun _ => ?_)) | split)

theorem kept_prtReg {a0} : RegKept (prtReg a0) := by
  unfold prtReg
  repeat' (first | with_reducible exact regKept_ro | with_reducible exact regKept_hi | with_reducible exact regKept_lo | with_reducible exact regKept_none | with_reducible assumption | (with_reducible refine regKept_rc fun s t h => ?_) | (with_reducible refine regKept_rw fun v s t h => ?_) | (with_reducible refine regKept_wo fun r v s t h => ?_) | (with_reducible refine regKept_map fun r v s t h => ?_) | with_reducible apply kept_prtCtrl | with_reducible apply kept_afterP | with_reducible apply kept_onPrt | (with_reducible refine kept_onFtl_same ?_ (fun _ => rfl) (fun _ => rfl)) | ((with_reducible refine kept_onRst_all ?_ ?_); rotate_left; exact fun _ x => x) | (with_reducible refine kept_ite (fun _ => ?_) (fun _ => ?_)) | split)

theorem kept_rplReg {a0} : RegKept (rplReg a0) := by
  unfold rplReg
  repeat' (first | with_reducible exact regKept_ro | with_reducible exact regKept_hi | with_reducible exact regKept_lo | with_reducible exact regKept_none | with_reducible assumption | (with_reducible refine regKept_rc fun s t h => ?_) | (with_reducible refine regKept_rw fun v s t h => ?_) | (with_reducible refine regKept_wo fun r v s t h => ?_) | (with_reducible refine regKept_map fun r v s t h => ?_) | with_reducible apply kept_onRpl | (with_reducible refine kept_onFtl_same ?_ (fun _ => rfl) (fun _ => rfl)) | ((with_reducible refine kept_onRst_all ?_ ?_); rotate_left; exact fun _ x => x) | (with_reducible refine kept_ite (fun _ => ?_) (fun _ => ?_)) | split)

theorem kept_adpReg {a0} : RegKept (adpReg a0) := by
  unfold adpReg
  repeat' (first | with_reducible exact regKept_ro | with_reducible exact regKept_hi | with_reducible exact regKept_lo | with_reducible exact regKept_none | with_reducible assumption | (with_reducible refine regKept_rc fun s t h => ?_) | (with_reducible refine regKept_rw fun v s t h => ?_) | (with_reducible refine regKept_wo fun r v s t h => ?_) | (with_reducible refine regKept_map fun r v s t h => ?_) | with_reducible apply kept_freezeWrite | with_reducible apply kept_onAdp | (with_reducible refine kept_onFtl_same ?_ (fun _ => rfl) (fun _ => rfl)) | ((with_reducible refine kept_onRst_all ?_ ?_); rotate_left; exact fun _ x => x) | (with_reducible refine kept_ite (fun _ => ?_) (fun _ => ?_)) | split)

theorem kept_mgtReg {a0} : RegKept (mgtReg a0) := by
  unfold mgtReg
  repeat' (first | with_reducible exact regKept_ro | with_reducible exact regKept_hi | with_reducible exact regKept_lo | with_reducible exact regKept_none | with_reducible assumption | (with_reducible refine regKept_rc fun s t h => ?_) | (with_reducible refine regKept_rw fun v s t h => ?_) | (with_reducible refine regKept_wo fun r v s t h => ?_) | (with_reducible refine regKept_map fun r v s t h => ?_) | with_reducible apply kept_onSensor | with_reducible apply kept_debugWrite | with_reducible apply kept_onMgt | (with_reducible refine kept_onFtl_same ?_ (fun _ => rfl) (fun _ => rfl)) | ((with_reducible refine kept_onRst_all ?_ ?_); rotate_left; exact fun _ x => x) | (with_reducible refine kept_ite (fun _ => ?_) (fun _ => ?_)) | split)

theorem kept_evrReg {a0} : RegKept (evrReg a0) := by
  unfold evrReg
  repeat' (first | with_reducible exact regKept_ro | with_reducible exact regKept_hi | with_reducible exact regKept_lo | with_reducible exact regKept_none | with_reducible assumption | (with_reducible refine regKept_rc fun s t h => ?_) | (with_reducible refine regKept_rw fun v s t h => ?_) | (with_reducible refine regKept_wo fun r v s t h => ?_) | (with_reducible refine regKept_map fun r v s t h => ?_) | with_reducible apply kept_evrCtrl | with_reducible apply kept_evrClear | with_reducible apply kept_onEvr | (with_reducible refine kept_onFtl_same ?_ (fun _ => rfl) (fun _ => rfl)) | ((with_reducible refine kept_onRst_all ?_ ?_); rotate_left; exact fun _ x => x) | (with_reducible refine kept_ite (fun _ => ?_) (fun _ => ?_)) | split)

theorem kept_msrReg {a0} : RegKept (msrReg a0) := by
  unfold msrReg
  repeat' (first | with_reducible exact regKept_ro | with_reducible exact regKept_hi | with_reducible exact regKept_lo | with_reducible exact regKept_none | with_reducible assumption | exact fun _ e => by cases e; exact ⟨fun _ _ _ h => h, fun _ _ _ _ h => h⟩ | exact fun _ e => by cases e; exact ⟨fun _ _ _ h => kept_onBusPort h, fun _ _ _ _ h => h⟩ | (with_reducible refine regKept_rc fun s t h => ?_) | (with_reducible refine regKept_rw fun v s t h => ?_) | (with_reducible refine regKept_wo fun r v s t h => ?_) | (with_reducible refine regKept_map fun r v s t h => ?_) | with_reducible apply kept_msrGo | with_reducible apply kept_onBusPort | with_reducible apply kept_digGo | with_reducible apply kept_onMsr | (with_reducible refine kept_onFtl_same ?_ (fun _ => rfl) (fun _ => rfl)) | ((with_reducible refine kept_onRst_all ?_ ?_); rotate_left; exact fun _ x => x) | (with_reducible refine kept_ite (fun _ => ?_) (fun _ => ?_)) | split)

theorem kept_updReg {a0} : RegKept (updReg a0) := by
  unfold updReg
  repeat' (first | with_reducible exact regKept_ro | with_reducible exact regKept_hi | with_reducible exact regKept_lo | with_reducible exact regKept_none | with_reducible assumption | (with_reducible refine regKept_rc fun s t h => ?_) | (with_reducible refine regKept_rw fun v s t h => ?_) | (with_reducible refine regKept_wo fun r v s t h => ?_) | (with_reducible refine regKept_map fun r v s t h => ?_) | with_reducible apply kept_updCtrl | with_reducible apply kept_afterP | with_reducible apply kept_onUpd | (with_reducible refine kept_onFtl_same ?_ (fun _ => rfl) (fun _ => rfl)) | ((with_reducible refine kept_onRst_all ?_ ?_); rotate_left; exact fun _ x => x) | (with_reducible refine kept_ite (fun _ => ?_) (fun _ => ?_)) | split)

theorem kept_rstReg {a0} : RegKept (rstReg a0) := by
  unfold rstReg
  repeat' (first | with_reducible exact regKept_ro | with_reducible exact regKept_hi | with_reducible exact regKept_lo | with_reducible exact regKept_none | with_reducible assumption | (with_reducible refine regKept_rc fun s t h => ?_) | (with_reducible refine regKept_rw fun v s t h => ?_) | (with_reducible refine regKept_wo fun r v s t h => ?_) | (with_reducible refine regKept_map fun r v s t h => ?_) | with_reducible apply kept_softWrite | with_reducible apply kept_after | with_reducible apply kept_wdogKick | (with_reducible refine kept_onFtl_same ?_ (fun _ => rfl) (fun _ => rfl)) | ((with_reducible refine kept_onRst_all ?_ ?_); rotate_left; exact fun _ x => x) | (with_reducible refine kept_ite (fun _ => ?_) (fun _ => ?_)) | split)

theorem kept_clkReg {a0} : RegKept (clkReg a0) := by
  unfold clkReg
  repeat' (first | with_reducible exact regKept_ro | with_reducible exact regKept_hi | with_reducible exact regKept_lo | with_reducible exact regKept_none | with_reducible assumption | (with_reducible refine regKept_rc fun s t h => ?_) | (with_reducible refine regKept_rw fun v s t h => ?_) | (with_reducible refine regKept_wo fun r v s t h => ?_) | (with_reducible refine regKept_map fun r v s t h => ?_) | with_reducible apply kept_onClk | (with_reducible refine kept_onFtl_same ?_ (fun _ => rfl) (fun _ => rfl)) | ((with_reducible refine kept_onRst_all ?_ ?_); rotate_left; exact fun _ x => x) | (with_reducible refine kept_ite (fun _ => ?_) (fun _ => ?_)) | split)

theorem kept_wakeTimerHigh {s t : State} {a0 a1} (h : Kept s t) : Kept s (wakeTimerHigh a0 a1 t) := by
  unfold wakeTimerHigh
  try dsimp only
  repeat' (first | with_reducible assumption | with_reducible apply kept_onPwr)

theorem kept_pwrReg {a0} : RegKept (pwrReg a0) := by
  unfold pwrReg
  repeat' (first | with_reducible exact regKept_ro | with_reducible exact regKept_none | with_reducible assumption | (with_reducible refine regKept_rc fun s t h => ?_) | (with_reducible refine regKept_rw fun v s t h => ?_) | with_reducible apply kept_afterP | with_reducible apply kept_pwrWrite | with_reducible apply kept_onPwr | exact regKept_write regKept_lo fun r v s t h => kept_onBusPort h | exact regKept_write regKept_hi fun r v s t h => kept_wakeTimerHigh h | split)

theorem kept_regAt {a0} : RegKept (regAt a0) := by
  unfold regAt
  repeat' (first | exact regKept_none | exact kept_cfgReg | exact kept_fabReg | exact kept_qpcReg | exact kept_cmdReg | exact kept_ingReg | exact kept_fprReg | exact kept_cmpReg | exact kept_cipReg | exact kept_bufReg | exact kept_ftlReg | exact kept_parReg | exact kept_jnlReg | exact kept_sldReg | exact kept_prtReg | exact kept_rplReg | exact kept_adpReg | exact kept_mgtReg | exact kept_evrReg | exact kept_msrReg | exact kept_updReg | exact kept_rstReg | exact kept_clkReg | exact kept_pwrReg | split)

theorem kept_returned {s t : State} {a0 a1} (h : Kept s t) : Kept s (returned a0 a1 t) := by
  unfold returned
  try dsimp only
  repeat' (first | with_reducible assumption | with_reducible apply kept_onBusPort)

theorem kept_regRead {s t : State} {a0 a1 a2} (h : Kept s t) : Kept s (regRead a0 a1 a2 t) := by
  unfold regRead
  split
  · split
    · rename_i g e
      exact kept_returned ((kept_regAt g e).1 _ _ _ h)
    · exact kept_returned h
  · exact kept_returned (kept_accessError h)
  · exact h

theorem kept_regWrite {s t : State} {a0 a1 a2 a3} (h : Kept s t) : Kept s (regWrite a0 a1 a2 a3 t) := by
  unfold regWrite
  refine kept_access h fun u h => ?_
  split
  · rename_i g e
    exact (kept_regAt g e).2 _ _ _ _ h
  · exact h

theorem kept_execRegisterWrite {s : State} {a0 a1 a2 a3} : ∃ u, execRegisterWrite a0 a1 a2 a3 s = .next u ∧ Kept s u := by
  refine ⟨_, rfl, ?_⟩
  have h := kept_rfl s
  try dsimp only
  repeat' (first | with_reducible assumption | with_reducible apply kept_regWrite)

theorem kept_execReadRcField {s : State} {a0 a1 a2} : ∃ u, execReadRcField a0 a1 a2 s = .next u ∧ Kept s u := by
  refine ⟨_, rfl, ?_⟩
  have h := kept_rfl s
  try dsimp only
  repeat' (first | with_reducible assumption | with_reducible apply kept_regRead)

theorem kept_execRead64Low {s : State} {a0 a1 a2} : ∃ u, execRead64Low a0 a1 a2 s = .next u ∧ Kept s u := by
  refine ⟨_, rfl, ?_⟩
  have h := kept_rfl s
  try dsimp only
  repeat' (first | with_reducible assumption | with_reducible apply kept_regRead)

theorem kept_execRead64High {s : State} {a0 a1 a2} : ∃ u, execRead64High a0 a1 a2 s = .next u ∧ Kept s u := by
  refine ⟨_, rfl, ?_⟩
  have h := kept_rfl s
  try dsimp only
  repeat' (first | with_reducible assumption | with_reducible apply kept_regRead)

theorem kept_execWrite64Low {s : State} {a0 a1 a2 a3} : ∃ u, execWrite64Low a0 a1 a2 a3 s = .next u ∧ Kept s u := by
  refine ⟨_, rfl, ?_⟩
  have h := kept_rfl s
  try dsimp only
  repeat' (first | with_reducible assumption | with_reducible apply kept_regWrite)

theorem kept_execWrite64High {s : State} {a0 a1 a2 a3} : ∃ u, execWrite64High a0 a1 a2 a3 s = .next u ∧ Kept s u := by
  refine ⟨_, rfl, ?_⟩
  have h := kept_rfl s
  try dsimp only
  repeat' (first | with_reducible assumption | with_reducible apply kept_regWrite)

theorem kept_execMsrVal0Read {s : State} {a0} : ∃ u, execMsrVal0Read a0 s = .next u ∧ Kept s u := by
  refine ⟨_, rfl, ?_⟩
  have h := kept_rfl s
  try dsimp only
  repeat' (first | with_reducible assumption | with_reducible apply kept_regRead)

end Sys2Proof.Machine
end

