-- ==== Sys2Proof/Laws/Kept/Mgmt.lean ====
section
/-! SUPPORT. What the operations of Machine/Mgmt.lean keep (`Kept`). -/

namespace Sys2Proof.Machine

theorem kept_mgmtReadWords {s t : State} {a0 a1 a2} (h : Kept s t) : Kept s (mgmtReadWords a0 a1 a2 t).2 := by
  induction a0 generalizing t a1 a2 with
  | zero =>
    unfold mgmtReadWords
    repeat' (first | with_reducible assumption | with_reducible apply ih | with_reducible apply kept_regRead | (with_reducible refine kept_ite (fun _ => ?_) (fun _ => ?_)) | (with_reducible refine kept_ite2 (fun _ => ?_) (fun _ => ?_)) | split | (cases ‹_ + 1 = Nat.succ _›))
  | succ _ ih =>
    unfold mgmtReadWords
    try dsimp only
    repeat' (first | with_reducible assumption | with_reducible apply ih | with_reducible apply kept_regRead | (with_reducible refine kept_ite (fun _ => ?_) (fun _ => ?_)) | (with_reducible refine kept_ite2 (fun _ => ?_) (fun _ => ?_)) | split | (cases ‹_ + 1 = Nat.succ _›))

theorem kept_mgmtWriteWords {s t : State} {a0 a1 a2} (h : Kept s t) : Kept s (mgmtWriteWords a0 a1 a2 t).2 := by
  induction a0 generalizing t a1 a2 with
  | zero =>
    unfold mgmtWriteWords
    repeat' (first | with_reducible assumption | with_reducible apply ih | with_reducible apply kept_regWrite | (with_reducible refine kept_ite (fun _ => ?_) (fun _ => ?_)) | (with_reducible refine kept_ite2 (fun _ => ?_) (fun _ => ?_)) | split | (cases ‹_ + 1 = Nat.succ _›))
  | succ _ ih =>
    unfold mgmtWriteWords
    try dsimp only
    repeat' (first | with_reducible assumption | with_reducible apply ih | with_reducible apply kept_regWrite | (with_reducible refine kept_ite (fun _ => ?_) (fun _ => ?_)) | (with_reducible refine kept_ite2 (fun _ => ?_) (fun _ => ?_)) | split | (cases ‹_ + 1 = Nat.succ _›))

theorem kept_mgmtBlock {s t : State} {a0} (h : Kept s t) : Kept s (mgmtBlock a0 t).2 := by
  unfold mgmtBlock
  try dsimp only
  repeat' (first | with_reducible assumption | with_reducible apply kept_takeBlock | (with_reducible refine kept_snd (by assumption) (kept_takeBlock ?_)) | (with_reducible refine kept_ite (fun _ => ?_) (fun _ => ?_)) | (with_reducible refine kept_ite2 (fun _ => ?_) (fun _ => ?_)) | split)

theorem kept_mgmtRequest {s t : State} {a0} (h : Kept s t) : Kept s (mgmtRequest a0 t).2 := by
  unfold mgmtRequest
  try dsimp only
  repeat' (first | with_reducible assumption | with_reducible apply kept_mgmtReadWords | (with_reducible refine kept_snd (by assumption) (kept_mgmtReadWords ?_)) | with_reducible apply kept_mgmtWriteWords | (with_reducible refine kept_snd (by assumption) (kept_mgmtWriteWords ?_)) | with_reducible apply kept_mgmtBlock | (with_reducible refine kept_snd (by assumption) (kept_mgmtBlock ?_)) | (with_reducible refine kept_ite (fun _ => ?_) (fun _ => ?_)) | (with_reducible refine kept_ite2 (fun _ => ?_) (fun _ => ?_)) | split)

theorem kept_mgmtReply {s t : State} {a0 a1} (h : Kept s t) : Kept s (mgmtReply a0 a1 t) := by
  unfold mgmtReply
  try dsimp only
  repeat' (first | with_reducible assumption | with_reducible apply kept_freeNat | (with_reducible refine kept_snd (by assumption) (kept_freeNat ?_)) | with_reducible apply kept_send | split)

theorem kept_mgmtIn {s t : State} {a0 a1} (h : Kept s t) : Kept s (mgmtIn a0 a1 t) := by
  unfold mgmtIn
  try dsimp only
  repeat' (first | with_reducible assumption | with_reducible apply kept_mgmtRequest | (with_reducible refine kept_snd (by assumption) (kept_mgmtRequest ?_)) | with_reducible apply kept_mgmtReply | (with_reducible refine kept_ite (fun _ => ?_) (fun _ => ?_)) | split)

theorem kept_execMgmtRead {s : State} {a0 a1} : ∃ u, execMgmtRead a0 a1 s = .next u ∧ Kept s u := by
  refine ⟨_, rfl, ?_⟩
  have h := kept_rfl s
  try dsimp only
  repeat' (first | with_reducible assumption | with_reducible apply kept_mgmtIn)

theorem kept_execMgmtWrite {s : State} {a0 a1} : ∃ u, execMgmtWrite a0 a1 s = .next u ∧ Kept s u := by
  refine ⟨_, rfl, ?_⟩
  have h := kept_rfl s
  try dsimp only
  repeat' (first | with_reducible assumption | with_reducible apply kept_mgmtIn)

theorem kept_execMgmtUpdBlock {s : State} {a0 a1} : ∃ u, execMgmtUpdBlock a0 a1 s = .next u ∧ Kept s u := by
  refine ⟨_, rfl, ?_⟩
  have h := kept_rfl s
  try dsimp only
  repeat' (first | with_reducible assumption | with_reducible apply kept_mgmtIn)

theorem kept_execMgmtEvrRead {s : State} {a0 a1} : ∃ u, execMgmtEvrRead a0 a1 s = .next u ∧ Kept s u := by
  refine ⟨_, rfl, ?_⟩
  have h := kept_rfl s
  try dsimp only
  repeat' (first | with_reducible assumption | with_reducible apply kept_mgmtIn)

end Sys2Proof.Machine
end

