-- ==== Sys2Proof/Laws/Resets.lean ====
section
/-! SUPPORT. What a reset that arrives at a running head does, level by level. -/

namespace Sys2Proof.Machine

/-- Of a running head, an L0 or L1 reset starts at once (R86, R88). -/
theorem resetAt_cold {s : State} {l : Level} {t : Option Target} {c : Cause} (h : s.rst.stage = .run) (d : l.depth < 2) :
    resetAt l t c s = startCold l (addCause l c s) := by
  have n : ¬ (s.rst.stage = .held ∨ s.rst.stage = .por) := by rw [h]; decide
  unfold resetAt
  exact (if_pos (Or.inl d)).trans (if_neg n)

/-- An L1 reset of a running head with no cause that stands: the state that it leaves is released at once (R86, R95). -/
theorem resetAt_l1 {s : State} {t : Option Target} {c : Cause} (h : s.rst.stage = .run) (k : s.causesStand = false) :
    resetAt .l1 t c s = aoRelease ((addCause .l1 c s).cold .l1) := by
  have hs : ((addCause .l1 c s).cold .l1).causesStand = false := k
  rw [resetAt_cold h (by decide)]
  unfold startCold tryRelease
  rw [hs]
  exact (if_neg (by simp [State.cold])).trans (if_neg (by simp [State.cold]))

/-- An L0 reset of a running head with no cause that stands: tPOR runs (R95 step 1). -/
theorem resetAt_l0 {s : State} {t : Option Target} {c : Cause} (h : s.rst.stage = .run) (k : s.causesStand = false) :
    resetAt .l0 t c s = ((addCause .l0 c s).cold .l0).onRst fun r => { r with stage := .por } := by
  have hs : ((addCause .l0 c s).cold .l0).causesStand = false := k
  rw [resetAt_cold h (by decide)]
  unfold startCold tryRelease
  rw [hs]
  exact (if_neg (by simp [State.cold])).trans (if_pos (by simp [State.cold]))

/-- An L2 reset of a running head (R97). -/
theorem resetAt_l2 {s : State} {t : Option Target} {c : Cause} (h : s.rst.stage = .run) (p : s.pwr.state = .run) :
    resetAt .l2 t c s = (addCause .l2 c s).warm := by
  unfold resetAt
  rw [h, p]
  simp [Level.depth]

/-- An L3 reset of a target of a running head (R93). -/
theorem resetAt_l3 {s : State} {t : Target} {c : Cause} (h : s.rst.stage = .run) (p : s.pwr.state = .run) :
    resetAt .l3 (some t) c s = startL3 t (addCause .l3 c s) := by
  unfold resetAt
  rw [h, p]
  simp [Level.depth]

/-- A source's reset when no hold's flush is under way arrives at once. -/
theorem resetBy_now {s : State} {c : Cause} (h : s.pwr.flushing = false) : resetBy c s = resetAt (s.part.levelOf c).1 (s.part.levelOf c).2 c s := by
  unfold resetBy
  simp [h]

/-- A management soft reset when no hold's flush is under way: never deeper than the fuse entry (R92). -/
theorem softReset_now {s : State} {l : Level} {t : Option Target} (h : s.pwr.flushing = false) :
    softReset l t s = resetAt (if l.depth < (s.part.levelOf .soft).1.depth then (s.part.levelOf .soft).1 else l) t .soft s := by
  unfold softReset
  simp [h]

/-- The code of a target names it (R118). -/
theorem targetOf_code (t : Target) : targetOf t.code = some t := by cases t <;> decide

end Sys2Proof.Machine
end

