-- ==== Sys2Proof/Laws/Same.lean ====
section
/-! SUPPORT. The relation between a state and what follows from a datapath command (`after`): the control blocks are the same. How it goes
through the ways in which operations are put together. -/

namespace Sys2Proof.Machine

/-- The control blocks are the same. -/
def Same (s t : State) : Prop := s.SameCtl t

theorem same_rfl (s : State) : Same s s := ⟨rfl, rfl, rfl, rfl, rfl, rfl, rfl, rfl, rfl, rfl, rfl, rfl, rfl⟩

theorem Same.trans {s t u : State} (h : Same s t) (k : Same t u) : Same s u := by
  obtain ⟨h1, h2, h3, h4, h5, h6, h7, h8, h9, h10, h11, h12, h13⟩ := h
  obtain ⟨k1, k2, k3, k4, k5, k6, k7, k8, k9, k10, k11, k12, k13⟩ := k
  exact ⟨k1.trans h1, k2.trans h2, k3.trans h3, k4.trans h4, k5.trans h5, k6.trans h6, k7.trans h7, k8.trans h8, k9.trans h9,
    k10.trans h10, k11.trans h11, k12.trans h12, k13.trans h13⟩

theorem same_foldl {α : Type} {s t : State} {f : State → α → State} {l : List α} (h : Same s t)
    (k : ∀ u x, Same s u → Same s (f u x)) : Same s (l.foldl f t) := by
  induction l generalizing t with
  | nil => exact h
  | cons a l ih => exact ih (k _ _ h)

theorem same_foldl2 {α β : Type} {s : State} {t : β × State} {f : β × State → α → β × State} {l : List α} (h : Same s t.2)
    (k : ∀ u x, Same s u.2 → Same s (f u x).2) : Same s (l.foldl f t).2 := by
  induction l generalizing t with
  | nil => exact h
  | cons a l ih => exact ih (k _ _ h)

theorem same_foldl3 {α β γ : Type} {s : State} {t : β × γ × State} {f : β × γ × State → α → β × γ × State} {l : List α}
    (h : Same s t.2.2) (k : ∀ u x, Same s u.2.2 → Same s (f u x).2.2) : Same s (l.foldl f t).2.2 := by
  induction l generalizing t with
  | nil => exact h
  | cons a l ih => exact ih (k _ _ h)

theorem same_foldl4 {α β γ δ : Type} {s : State} {t : β × γ × δ × State} {f : β × γ × δ × State → α → β × γ × δ × State} {l : List α}
    (h : Same s t.2.2.2) (k : ∀ u x, Same s u.2.2.2 → Same s (f u x).2.2.2) : Same s (l.foldl f t).2.2.2 := by
  induction l generalizing t with
  | nil => exact h
  | cons a l ih => exact ih (k _ _ h)

theorem same_send {s t : State} {x : Tx} (h : Same s t) : Same s (t.send x) := h.trans ⟨rfl, rfl, rfl, rfl, rfl, rfl, rfl, rfl, rfl, rfl, rfl, rfl, rfl⟩

/-- The state in a tuple that a match has taken apart. -/
theorem same_snd {β : Type} {s u : State} {p : β × State} {b : β} (e : p = (b, u)) (h : Same s p.2) : Same s u := by rw [e] at h; exact h

theorem same_snd3 {β γ : Type} {s u : State} {p : β × γ × State} {b : β} {c : γ} (e : p = (b, c, u)) (h : Same s p.2.2) : Same s u := by
  rw [e] at h; exact h

theorem same_snd4 {β γ δ : Type} {s u : State} {p : β × γ × δ × State} {b : β} {c : γ} {d : δ} (e : p = (b, c, d, u))
    (h : Same s p.2.2.2) : Same s u := by rw [e] at h; exact h

theorem same_ite {c : Prop} [Decidable c] {s t u : State} (h : c → Same s t) (k : ¬c → Same s u) : Same s (if c then t else u) := by
  split
  · exact h ‹_›
  · exact k ‹_›

theorem same_ite2 {β : Type} {c : Prop} [Decidable c] {s : State} {t u : β × State} (h : c → Same s t.2) (k : ¬c → Same s u.2) :
    Same s (if c then t else u).2 := by
  split
  · exact h ‹_›
  · exact k ‹_›

theorem same_ite3 {β γ : Type} {c : Prop} [Decidable c] {s : State} {t u : β × γ × State} (h : c → Same s t.2.2) (k : ¬c → Same s u.2.2) :
    Same s (if c then t else u).2.2 := by
  split
  · exact h ‹_›
  · exact k ‹_›

theorem same_onEvr {s t : State} {g : Evr → Evr} (h : Same s t) : Same s (t.onEvr g) :=
  h.trans ⟨rfl, rfl, rfl, rfl, rfl, rfl, rfl, rfl, rfl, rfl, rfl, rfl, rfl⟩

theorem same_onFab {s t : State} {g : Fab → Fab} (h : Same s t) : Same s (t.onFab g) :=
  h.trans ⟨rfl, rfl, rfl, rfl, rfl, rfl, rfl, rfl, rfl, rfl, rfl, rfl, rfl⟩

theorem same_onQpc {s t : State} {g : Qpc → Qpc} (h : Same s t) : Same s (t.onQpc g) :=
  h.trans ⟨rfl, rfl, rfl, rfl, rfl, rfl, rfl, rfl, rfl, rfl, rfl, rfl, rfl⟩

theorem same_onCmd {s t : State} {g : CmdU → CmdU} (h : Same s t) : Same s (t.onCmd g) :=
  h.trans ⟨rfl, rfl, rfl, rfl, rfl, rfl, rfl, rfl, rfl, rfl, rfl, rfl, rfl⟩

theorem same_onIng {s t : State} {g : Ing → Ing} (h : Same s t) : Same s (t.onIng g) :=
  h.trans ⟨rfl, rfl, rfl, rfl, rfl, rfl, rfl, rfl, rfl, rfl, rfl, rfl, rfl⟩

theorem same_onPrt {s t : State} {g : Prt → Prt} (h : Same s t) : Same s (t.onPrt g) :=
  h.trans ⟨rfl, rfl, rfl, rfl, rfl, rfl, rfl, rfl, rfl, rfl, rfl, rfl, rfl⟩

theorem same_onCmp {s t : State} {g : Cmp → Cmp} (h : Same s t) : Same s (t.onCmp g) :=
  h.trans ⟨rfl, rfl, rfl, rfl, rfl, rfl, rfl, rfl, rfl, rfl, rfl, rfl, rfl⟩

theorem same_onFpr {s t : State} {g : Fpr → Fpr} (h : Same s t) : Same s (t.onFpr g) :=
  h.trans ⟨rfl, rfl, rfl, rfl, rfl, rfl, rfl, rfl, rfl, rfl, rfl, rfl, rfl⟩

theorem same_onCip {s t : State} {g : Cip → Cip} (h : Same s t) : Same s (t.onCip g) :=
  h.trans ⟨rfl, rfl, rfl, rfl, rfl, rfl, rfl, rfl, rfl, rfl, rfl, rfl, rfl⟩

theorem same_onFtl {s t : State} {g : Ftl → Ftl} (h : Same s t) : Same s (t.onFtl g) :=
  h.trans ⟨rfl, rfl, rfl, rfl, rfl, rfl, rfl, rfl, rfl, rfl, rfl, rfl, rfl⟩

theorem same_onPar {s t : State} {g : Par → Par} (h : Same s t) : Same s (t.onPar g) :=
  h.trans ⟨rfl, rfl, rfl, rfl, rfl, rfl, rfl, rfl, rfl, rfl, rfl, rfl, rfl⟩

theorem same_onJnl {s t : State} {g : Jnl → Jnl} (h : Same s t) : Same s (t.onJnl g) :=
  h.trans ⟨rfl, rfl, rfl, rfl, rfl, rfl, rfl, rfl, rfl, rfl, rfl, rfl, rfl⟩

theorem same_onSld {s t : State} {g : Sld → Sld} (h : Same s t) : Same s (t.onSld g) :=
  h.trans ⟨rfl, rfl, rfl, rfl, rfl, rfl, rfl, rfl, rfl, rfl, rfl, rfl, rfl⟩

theorem same_onRpl {s t : State} {g : Rpl → Rpl} (h : Same s t) : Same s (t.onRpl g) :=
  h.trans ⟨rfl, rfl, rfl, rfl, rfl, rfl, rfl, rfl, rfl, rfl, rfl, rfl, rfl⟩

theorem same_onAdp {s t : State} {g : Adp → Adp} (h : Same s t) : Same s (t.onAdp g) :=
  h.trans ⟨rfl, rfl, rfl, rfl, rfl, rfl, rfl, rfl, rfl, rfl, rfl, rfl, rfl⟩

end Sys2Proof.Machine
end

