-- ==== Sys2Proof/Laws/Same/Ops.lean ====
section
/-! SUPPORT. Operations of Machine/Ops.lean that leave the control blocks (`Same`). -/

namespace Sys2Proof.Machine

theorem same_freeNat {s t : State} {w : Nat} (h : Same s t) : Same s (t.freeNat w).2 :=
  h.trans ⟨rfl, rfl, rfl, rfl, rfl, rfl, rfl, rfl, rfl, rfl, rfl, rfl, rfl⟩

theorem same_raiseValue {s t : State} {a0 a1 a2} (h : Same s t) : Same s (State.raiseValue t a0 a1 a2).2.2 := by
  unfold State.raiseValue
  try dsimp only
  repeat' (first | with_reducible assumption | with_reducible apply same_freeNat | (with_reducible refine same_snd (by assumption) (same_freeNat ?_)) | split)

theorem same_evrRecord {s t : State} {a0 a1 a2} (h : Same s t) : Same s (evrRecord a0 a1 a2 t) := by
  unfold evrRecord
  try dsimp only
  repeat' (first | with_reducible assumption | with_reducible apply same_raiseValue | (with_reducible refine same_snd3 (by assumption) (same_raiseValue ?_)) | with_reducible apply same_onEvr | (with_reducible refine same_ite (fun _ => ?_) (fun _ => ?_)) | split)

theorem same_evrRaise {s t : State} {a0 a1 a2} (h : Same s t) : Same s (evrRaise a0 a1 a2 t) := by
  unfold evrRaise
  try dsimp only
  repeat' (first | with_reducible assumption | with_reducible apply same_evrRecord | with_reducible apply same_onEvr | (with_reducible refine same_ite (fun _ => ?_) (fun _ => ?_)))

end Sys2Proof.Machine
end

