-- ==== Sys2Proof/Laws/Same/Net.lean ====
section
/-! SUPPORT. Operations of Machine/Net.lean that leave the control blocks (`Same`). -/

namespace Sys2Proof.Machine

theorem same_fabCount {s t : State} {a0 a1 a2} (h : Same s t) : Same s (fabCount a0 a1 a2 t) := by
  unfold fabCount
  try dsimp only
  repeat' (first | with_reducible assumption | with_reducible apply same_onFab)

theorem same_wire {s t : State} {a0 a1} (h : Same s t) : Same s (wire a0 a1 t) := by
  unfold wire
  try dsimp only
  repeat' (first | with_reducible assumption | with_reducible apply same_onFab | with_reducible apply same_send | (with_reducible refine same_ite (fun _ => ?_) (fun _ => ?_)))

theorem same_hostSend {s t : State} {a0} (h : Same s t) : Same s (hostSend a0 t) := by
  unfold hostSend
  try dsimp only
  repeat' (first | with_reducible assumption | with_reducible apply same_send | (with_reducible refine same_ite (fun _ => ?_) (fun _ => ?_)))

theorem same_onCtx {s t : State} {a0 a1} (h : Same s t) : Same s (onCtx a0 a1 t) := by
  unfold onCtx
  try dsimp only
  repeat' (first | with_reducible assumption | with_reducible apply same_onQpc)

theorem same_onCtxQuiet {s t : State} {a0 a1} (h : Same s t) : Same s (onCtxQuiet a0 a1 t) := by
  unfold onCtxQuiet
  try dsimp only
  repeat' (first | with_reducible assumption | with_reducible apply same_onQpc)

theorem same_transmit {s t : State} {a0 a1 a2} (h : Same s t) : Same s (transmit a0 a1 a2 t) := by
  unfold transmit
  try dsimp only
  repeat' (first | with_reducible assumption | with_reducible apply same_wire | with_reducible apply same_fabCount | (with_reducible refine same_ite (fun _ => ?_) (fun _ => ?_)) | split)

theorem same_ctxSend {s t : State} {a0 a1 a2} (h : Same s t) : Same s (ctxSend a0 a1 a2 t) := by
  unfold ctxSend
  try dsimp only
  repeat' (first | with_reducible assumption | with_reducible apply same_onCtx | with_reducible apply same_transmit | (with_reducible refine same_ite (fun _ => ?_) (fun _ => ?_)) | split)

theorem same_sendMsg {s t : State} {a0 a1} (h : Same s t) : Same s (sendMsg a0 a1 t) := by
  unfold sendMsg
  try dsimp only
  repeat' (first | with_reducible assumption | with_reducible apply same_ctxSend)

end Sys2Proof.Machine
end

