-- ==== Sys2Proof/Laws/Same/Plink.lean ====
section
/-! SUPPORT. Operations of Machine/Plink.lean that leave the control blocks (`Same`). -/

namespace Sys2Proof.Machine

theorem same_plFrame {s t : State} {a0} (h : Same s t) : Same s (plFrame a0 t) := by
  unfold plFrame
  try dsimp only
  repeat' (first | with_reducible assumption | with_reducible apply same_onPrt | with_reducible apply same_send | (with_reducible refine same_ite (fun _ => ?_) (fun _ => ?_)) | split)

theorem same_plSend {s t : State} {a0 a1 a2 a3} (h : Same s t) : Same s (plSend a0 a1 a2 a3 t) := by
  unfold plSend
  try dsimp only
  repeat' (first | with_reducible assumption | with_reducible apply same_plFrame | with_reducible apply same_onPrt)

theorem same_plRecords {s t : State} {a0 a1 a2} (h : Same s t) : Same s (plRecords a0 a1 a2 t) := by
  unfold plRecords
  try dsimp only
  repeat' (first | with_reducible assumption | with_reducible apply same_plSend)

theorem same_plControl {s t : State} {a0 a1} (h : Same s t) : Same s (plControl a0 a1 t) := by
  unfold plControl
  try dsimp only
  repeat' (first | with_reducible assumption | with_reducible apply same_plRecords)

theorem same_mirror {s t : State} {a0} (h : Same s t) (k : ∀ u, Same s u → Same s (a0 u)) : Same s (mirror a0 t) := by
  unfold mirror
  try dsimp only
  repeat' (first | with_reducible assumption | apply k | (with_reducible refine same_ite (fun _ => ?_) (fun _ => ?_)))

theorem same_mirrorMap {s t : State} {a0} (h : Same s t) (k : ∀ u, Same s u → Same s (a0 u)) : Same s (mirrorMap a0 t) := by
  unfold mirrorMap
  try dsimp only
  repeat' (first | with_reducible assumption | apply k | (with_reducible refine same_ite (fun _ => ?_) (fun _ => ?_)))

theorem same_sendHead {s t : State} {a0 a1} (h : Same s t) : Same s (sendHead a0 a1 t) := by
  unfold sendHead
  try dsimp only
  repeat' (first | with_reducible assumption | with_reducible apply same_sendMsg | (with_reducible refine same_mirror ?_ (fun u h => ?_)) | with_reducible apply same_plRecords | split)

end Sys2Proof.Machine
end

