-- ==== Sys2Proof/Laws/Same/Events.lean ====
section
/-! SUPPORT. Operations of Machine/Events.lean that leave the control blocks (`Same`). -/

namespace Sys2Proof.Machine

theorem same_deliver {s t : State} {a0 a1 a2} (h : Same s t) : Same s (deliver a0 a1 a2 t) := by
  unfold deliver
  try dsimp only
  repeat' (first | with_reducible assumption | with_reducible apply same_sendHead | with_reducible apply same_onCtxQuiet | (with_reducible refine same_ite (fun _ => ?_) (fun _ => ?_)) | split)

theorem same_raise {s t : State} {a0 a1 a2} (h : Same s t) : Same s (raise a0 a1 a2 t) := by
  unfold raise
  try dsimp only
  repeat' (first | with_reducible assumption | with_reducible apply same_deliver | with_reducible apply same_evrRaise | (with_reducible refine same_foldl ?_ (fun u x h => ?_)))

theorem same_note {s t : State} {a0 a1} (h : Same s t) : Same s (note a0 a1 t) := by
  unfold note
  try dsimp only
  repeat' (first | with_reducible assumption | with_reducible apply same_evrRaise)

end Sys2Proof.Machine
end

