-- ==== Sys2Proof/Laws/Same/Tree.lean ====
section
/-! SUPPORT. Operations of Machine/Tree.lean that leave the control blocks (`Same`). -/

namespace Sys2Proof.Machine

theorem same_recomputeHealth {s t : State} (h : Same s t) : Same s (recomputeHealth t) := by
  unfold recomputeHealth
  try dsimp only
  repeat' (first | with_reducible assumption | (with_reducible refine same_onFtl ?_) | (with_reducible refine same_onFtl ?_ ?_) | exact fun x => ⟨x.1, x.2.1, tabDel_nodup x.2.2.1, fun e he => x.2.2.2 e (mem_tabDel he)⟩ | exact fun x => ⟨x.1, x.2.1, tabPut_nodup x.2.2.1, fun e he => (mem_tabPut he).elim (fun q => q ▸ by assumption) (x.2.2.2 e)⟩ | exact fun _ => canonical_empty rfl rfl | (intro hx; (try dsimp only); split <;> exact hx) | with_reducible apply same_raise | (with_reducible refine same_foldl4 ?_ (fun u x h => ?_)) | (with_reducible refine same_foldl3 ?_ (fun u x h => ?_)) | (with_reducible refine same_foldl2 ?_ (fun u x h => ?_)) | (with_reducible refine same_foldl ?_ (fun u x h => ?_)) | (with_reducible refine same_ite (fun _ => ?_) (fun _ => ?_)))

end Sys2Proof.Machine
end

