-- ==== Sys2Proof/Laws/Same/Link.lean ====
section
/-! SUPPORT. Operations of Machine/Link.lean that leave the control blocks (`Same`). -/

namespace Sys2Proof.Machine

theorem same_onPort {s t : State} {a0 a1} (h : Same s t) : Same s (onPort a0 a1 t) := by
  unfold onPort
  try dsimp only
  repeat' (first | with_reducible assumption | with_reducible apply same_onSld)

theorem same_sendFlit {s t : State} {a0 a1 a2} (h : Same s t) : Same s (sendFlit a0 a1 a2 t) := by
  unfold sendFlit
  try dsimp only
  repeat' (first | with_reducible assumption | with_reducible apply same_onPort | with_reducible apply same_send | (with_reducible refine same_ite (fun _ => ?_) (fun _ => ?_)))

theorem same_sendFlits {s t : State} {a0 a1} (h : Same s t) : Same s (sendFlits a0 a1 t) := by
  unfold sendFlits
  try dsimp only
  repeat' (first | with_reducible assumption | with_reducible apply same_sendFlit | (with_reducible refine same_foldl ?_ (fun u x h => ?_)))

theorem same_pumpPort {s t : State} {a0 a1} (h : Same s t) : Same s (pumpPort a0 a1 t) := by
  induction a1 generalizing t  with
  | zero =>
    unfold pumpPort
    repeat' (first | with_reducible assumption | with_reducible apply ih | with_reducible apply same_onPort | with_reducible apply same_sendFlits | (with_reducible refine same_ite (fun _ => ?_) (fun _ => ?_)) | split | (cases ‹_ + 1 = Nat.succ _›))
  | succ _ ih =>
    unfold pumpPort
    try dsimp only
    repeat' (first | with_reducible assumption | with_reducible apply ih | with_reducible apply same_onPort | with_reducible apply same_sendFlits | (with_reducible refine same_ite (fun _ => ?_) (fun _ => ?_)) | split | (cases ‹_ + 1 = Nat.succ _›))

theorem same_pumpSled {s t : State} {a0} (h : Same s t) : Same s (pumpSled a0 t) := by
  unfold pumpSled
  try dsimp only
  repeat' (first | with_reducible assumption | with_reducible apply same_send | with_reducible apply same_onPort | with_reducible apply same_pumpPort | (with_reducible refine same_ite (fun _ => ?_) (fun _ => ?_)))

theorem same_osl {s t : State} {a0 a1 a2 a3 a4 a5 a6} (h : Same s t) : Same s (osl a0 a1 a2 a3 a4 a5 a6 t) := by
  unfold osl
  try dsimp only
  repeat' (first | with_reducible assumption | with_reducible apply same_pumpSled | with_reducible apply same_onPort | (with_reducible refine same_ite (fun _ => ?_) (fun _ => ?_)))

end Sys2Proof.Machine
end

