-- ==== Sys2Proof/Laws/Same/Media.lean ====
section
/-! SUPPORT. Operations of Machine/Media.lean that leave the control blocks (`Same`). -/

namespace Sys2Proof.Machine

theorem same_onBlk {s t : State} {a0 a1 a2} (h : Same s t) : Same s (onBlk a0 a1 a2 t) := by
  unfold onBlk
  try dsimp only
  repeat' (first | with_reducible assumption | (with_reducible refine same_onFtl ?_) | (with_reducible refine same_onFtl ?_ ?_) | exact fun x => ⟨x.1, x.2.1, tabDel_nodup x.2.2.1, fun e he => x.2.2.2 e (mem_tabDel he)⟩ | exact fun x => ⟨x.1, x.2.1, tabPut_nodup x.2.2.1, fun e he => (mem_tabPut he).elim (fun q => q ▸ by assumption) (x.2.2.2 e)⟩ | exact fun _ => canonical_empty rfl rfl | (intro hx; (try dsimp only); split <;> exact hx))

theorem same_onSeg {s t : State} {a0 a1 a2} (h : Same s t) : Same s (onSeg a0 a1 a2 t) := by
  unfold onSeg
  try dsimp only
  repeat' (first | with_reducible assumption | (with_reducible refine same_onFtl ?_) | (with_reducible refine same_onFtl ?_ ?_) | exact fun x => ⟨x.1, x.2.1, tabDel_nodup x.2.2.1, fun e he => x.2.2.2 e (mem_tabDel he)⟩ | exact fun x => ⟨x.1, x.2.1, tabPut_nodup x.2.2.1, fun e he => (mem_tabPut he).elim (fun q => q ▸ by assumption) (x.2.2.2 e)⟩ | exact fun _ => canonical_empty rfl rfl | (intro hx; (try dsimp only); split <;> exact hx))

theorem same_onTop {s t : State} {a0 a1} (h : Same s t) : Same s (onTop a0 a1 t) := by
  unfold onTop
  try dsimp only
  repeat' (first | with_reducible assumption | (with_reducible refine same_onFtl ?_) | (with_reducible refine same_onFtl ?_ ?_) | exact fun x => ⟨x.1, x.2.1, tabDel_nodup x.2.2.1, fun e he => x.2.2.2 e (mem_tabDel he)⟩ | exact fun x => ⟨x.1, x.2.1, tabPut_nodup x.2.2.1, fun e he => (mem_tabPut he).elim (fun q => q ▸ by assumption) (x.2.2.2 e)⟩ | exact fun _ => canonical_empty rfl rfl | (intro hx; (try dsimp only); split <;> exact hx))

theorem same_programBlock {s t : State} {a0 a1 a2 a3 a4} (h : Same s t) : Same s (programBlock a0 a1 a2 a3 a4 t) := by
  unfold programBlock
  try dsimp only
  repeat' (first | with_reducible assumption | with_reducible apply same_osl | with_reducible apply same_onBlk)

theorem same_programPage {s t : State} {a0 a1 a2 a3 a4} (h : Same s t) : Same s (programPage a0 a1 a2 a3 a4 t).2 := by
  unfold programPage
  try dsimp only
  repeat' (first | with_reducible assumption | (with_reducible refine same_onFtl ?_) | (with_reducible refine same_onFtl ?_ ?_) | exact fun x => ⟨x.1, x.2.1, tabDel_nodup x.2.2.1, fun e he => x.2.2.2 e (mem_tabDel he)⟩ | exact fun x => ⟨x.1, x.2.1, tabPut_nodup x.2.2.1, fun e he => (mem_tabPut he).elim (fun q => q ▸ by assumption) (x.2.2.2 e)⟩ | exact fun _ => canonical_empty rfl rfl | (intro hx; (try dsimp only); split <;> exact hx) | with_reducible apply same_programBlock | (with_reducible refine same_ite (fun _ => ?_) (fun _ => ?_)) | (with_reducible refine same_ite2 (fun _ => ?_) (fun _ => ?_)) | split)

theorem same_missRow {s t : State} {a0 a1 a2 a3} (h : Same s t) : Same s (missRow a0 a1 a2 a3 t) := by
  unfold missRow
  try dsimp only
  repeat' (first | with_reducible assumption | with_reducible apply same_onPort | (with_reducible refine same_ite (fun _ => ?_) (fun _ => ?_)))

theorem same_eraseBlock {s t : State} {a0 a1 a2} (h : Same s t) : Same s (eraseBlock a0 a1 a2 t).2 := by
  unfold eraseBlock
  try dsimp only
  repeat' (first | with_reducible assumption | with_reducible apply same_osl | (with_reducible refine same_onFtl ?_) | (with_reducible refine same_onFtl ?_ ?_) | exact fun x => ⟨x.1, x.2.1, tabDel_nodup x.2.2.1, fun e he => x.2.2.2 e (mem_tabDel he)⟩ | exact fun x => ⟨x.1, x.2.1, tabPut_nodup x.2.2.1, fun e he => (mem_tabPut he).elim (fun q => q ▸ by assumption) (x.2.2.2 e)⟩ | exact fun _ => canonical_empty rfl rfl | (intro hx; (try dsimp only); split <;> exact hx) | with_reducible apply same_missRow | (with_reducible refine same_ite (fun _ => ?_) (fun _ => ?_)) | (with_reducible refine same_ite2 (fun _ => ?_) (fun _ => ?_)) | split)

theorem same_issueRow {s t : State} {a0 a1} (h : Same s t) : Same s (issueRow a0 a1 t) := by
  unfold issueRow
  try dsimp only
  repeat' (first | with_reducible assumption | with_reducible apply same_programPage | (with_reducible refine same_snd (by assumption) (same_programPage ?_)) | with_reducible apply same_missRow | with_reducible apply same_onPar | (with_reducible refine same_foldl4 ?_ (fun u x h => ?_)) | (with_reducible refine same_foldl3 ?_ (fun u x h => ?_)) | (with_reducible refine same_foldl2 ?_ (fun u x h => ?_)) | (with_reducible refine same_foldl ?_ (fun u x h => ?_)) | (with_reducible refine same_ite (fun _ => ?_) (fun _ => ?_)) | split)

theorem same_newId {s t : State} (h : Same s t) : Same s (State.newId t).2 := by
  unfold State.newId
  try dsimp only
  repeat' (first | with_reducible assumption | with_reducible apply same_onPar)

theorem same_readPage {s t : State} {a0 a1 a2 a3 a4 a5 a6 a7} (h : Same s t) : Same s (readPage a0 a1 a2 a3 a4 a5 a6 a7 t) := by
  unfold readPage
  try dsimp only
  repeat' (first | with_reducible assumption | with_reducible apply same_osl | with_reducible apply same_onBlk)

theorem same_onJob {s t : State} {a0 a1} (h : Same s t) : Same s (onJob a0 a1 t) := by
  unfold onJob
  try dsimp only
  repeat' (first | with_reducible assumption | with_reducible apply same_onPar | (with_reducible refine same_ite (fun _ => ?_) (fun _ => ?_)))

theorem same_advanceJob {s t : State} {a0} (h : Same s t) : Same s (advanceJob a0 t) := by
  unfold advanceJob
  try dsimp only
  repeat' (first | with_reducible assumption | with_reducible apply same_readPage | with_reducible apply same_onJob | (with_reducible refine same_foldl ?_ (fun u x h => ?_)) | (with_reducible refine same_ite (fun _ => ?_) (fun _ => ?_)) | split)

theorem same_startJob {s t : State} {a0 a1 a2 a3} (h : Same s t) : Same s (startJob a0 a1 a2 a3 t) := by
  unfold startJob
  try dsimp only
  repeat' (first | with_reducible assumption | with_reducible apply same_newId | (with_reducible refine same_snd (by assumption) (same_newId ?_)) | with_reducible apply same_advanceJob | with_reducible apply same_onPar | split)

theorem same_endJob {s t : State} {a0} (h : Same s t) : Same s (endJob a0 t) := by
  unfold endJob
  try dsimp only
  repeat' (first | with_reducible assumption | with_reducible apply same_onPar)

end Sys2Proof.Machine
end

