-- ==== Sys2Proof/Laws/Same/MapLog.lean ====
section
/-! SUPPORT. Operations of Machine/MapLog.lean that leave the control blocks (`Same`). -/

namespace Sys2Proof.Machine

theorem same_onLog {s t : State} {a0 a1} (h : Same s t) : Same s (onLog a0 a1 t) := by
  unfold onLog
  try dsimp only
  repeat' (first | with_reducible assumption | (with_reducible refine same_onFtl ?_) | (with_reducible refine same_onFtl ?_ ?_) | exact fun x => ⟨x.1, x.2.1, tabDel_nodup x.2.2.1, fun e he => x.2.2.2 e (mem_tabDel he)⟩ | exact fun x => ⟨x.1, x.2.1, tabPut_nodup x.2.2.1, fun e he => (mem_tabPut he).elim (fun q => q ▸ by assumption) (x.2.2.2 e)⟩ | exact fun _ => canonical_empty rfl rfl | (intro hx; (try dsimp only); split <;> exact hx) | (with_reducible refine same_ite (fun _ => ?_) (fun _ => ?_)))

theorem same_logItem {s t : State} {a0 a1} (h : Same s t) : Same s (logItem a0 a1 t).2 := by
  unfold logItem
  try dsimp only
  repeat' (first | with_reducible assumption | with_reducible apply same_onLog | (with_reducible refine same_mirrorMap ?_ (fun u h => ?_)) | with_reducible apply same_plSend | (with_reducible refine same_foldl4 ?_ (fun u x h => ?_)) | (with_reducible refine same_foldl3 ?_ (fun u x h => ?_)) | (with_reducible refine same_foldl2 ?_ (fun u x h => ?_)) | (with_reducible refine same_foldl ?_ (fun u x h => ?_)) | split)

theorem same_logItems {s t : State} {a0 a1} (h : Same s t) : Same s (logItems a0 a1 t) := by
  unfold logItems
  try dsimp only
  repeat' (first | with_reducible assumption | with_reducible apply same_logItem | (with_reducible refine same_snd (by assumption) (same_logItem ?_)) | (with_reducible refine same_foldl4 ?_ (fun u x h => ?_)) | (with_reducible refine same_foldl3 ?_ (fun u x h => ?_)) | (with_reducible refine same_foldl2 ?_ (fun u x h => ?_)) | (with_reducible refine same_foldl ?_ (fun u x h => ?_)))

end Sys2Proof.Machine
end

