-- ==== Sys2Proof/Laws/Same/Space.lean ====
section
/-! SUPPORT. Operations of Machine/Space.lean that leave the control blocks (`Same`). -/

namespace Sys2Proof.Machine

theorem same_spareLow {s t : State} {a0} (h : Same s t) : Same s (spareLow a0 t) := by
  unfold spareLow
  try dsimp only
  repeat' (first | with_reducible assumption | (with_reducible refine same_onFtl ?_) | (with_reducible refine same_onFtl ?_ ?_) | exact fun x => ⟨x.1, x.2.1, tabDel_nodup x.2.2.1, fun e he => x.2.2.2 e (mem_tabDel he)⟩ | exact fun x => ⟨x.1, x.2.1, tabPut_nodup x.2.2.1, fun e he => (mem_tabPut he).elim (fun q => q ▸ by assumption) (x.2.2.2 e)⟩ | exact fun _ => canonical_empty rfl rfl | (intro hx; (try dsimp only); split <;> exact hx) | with_reducible apply same_note | (with_reducible refine same_ite (fun _ => ?_) (fun _ => ?_)))

theorem same_freezeBand {s t : State} {a0} (h : Same s t) : Same s (freezeBand a0 t) := by
  unfold freezeBand
  try dsimp only
  repeat' (first | with_reducible assumption | with_reducible apply same_raise | (with_reducible refine same_onFtl ?_) | (with_reducible refine same_onFtl ?_ ?_) | exact fun x => ⟨x.1, x.2.1, tabDel_nodup x.2.2.1, fun e he => x.2.2.2 e (mem_tabDel he)⟩ | exact fun x => ⟨x.1, x.2.1, tabPut_nodup x.2.2.1, fun e he => (mem_tabPut he).elim (fun q => q ▸ by assumption) (x.2.2.2 e)⟩ | exact fun _ => canonical_empty rfl rfl | (intro hx; (try dsimp only); split <;> exact hx) | (with_reducible refine same_ite (fun _ => ?_) (fun _ => ?_)))

theorem same_dismantle {s t : State} {a0 a1} (h : Same s t) : Same s (dismantle a0 a1 t) := by
  unfold dismantle
  try dsimp only
  repeat' (first | with_reducible assumption | with_reducible apply same_onBlk | with_reducible apply same_note | with_reducible apply same_logItem | (with_reducible refine same_snd (by assumption) (same_logItem ?_)) | with_reducible apply same_onSeg | (with_reducible refine same_foldl4 ?_ (fun u x h => ?_)) | (with_reducible refine same_foldl3 ?_ (fun u x h => ?_)) | (with_reducible refine same_foldl2 ?_ (fun u x h => ?_)) | (with_reducible refine same_foldl ?_ (fun u x h => ?_)) | split)

theorem same_takeSpare {s t : State} {a0 a1} (h : Same s t) : Same s (takeSpare a0 a1 t).2 := by
  unfold takeSpare
  try dsimp only
  repeat' (first | with_reducible assumption | with_reducible apply same_spareLow | with_reducible apply same_onBlk | with_reducible apply same_freezeBand | with_reducible apply same_dismantle | (with_reducible refine same_ite (fun _ => ?_) (fun _ => ?_)) | (with_reducible refine same_ite2 (fun _ => ?_) (fun _ => ?_)) | split)

theorem same_failDie {s t : State} {a0 a1} (h : Same s t) : Same s (failDie a0 a1 t) := by
  unfold failDie
  try dsimp only
  repeat' (first | with_reducible assumption | with_reducible apply same_recomputeHealth | with_reducible apply same_raise | (with_reducible refine same_onFtl ?_) | (with_reducible refine same_onFtl ?_ ?_) | exact fun x => ⟨x.1, x.2.1, tabDel_nodup x.2.2.1, fun e he => x.2.2.2 e (mem_tabDel he)⟩ | exact fun x => ⟨x.1, x.2.1, tabPut_nodup x.2.2.1, fun e he => (mem_tabPut he).elim (fun q => q ▸ by assumption) (x.2.2.2 e)⟩ | exact fun _ => canonical_empty rfl rfl | (intro hx; (try dsimp only); split <;> exact hx) | (with_reducible refine same_ite (fun _ => ?_) (fun _ => ?_)))

theorem same_retireBlock {s t : State} {a0 a1 a2} (h : Same s t) : Same s (retireBlock a0 a1 a2 t) := by
  unfold retireBlock
  try dsimp only
  repeat' (first | with_reducible assumption | with_reducible apply same_note | (with_reducible refine same_onFtl ?_) | (with_reducible refine same_onFtl ?_ ?_) | exact fun x => ⟨x.1, x.2.1, tabDel_nodup x.2.2.1, fun e he => x.2.2.2 e (mem_tabDel he)⟩ | exact fun x => ⟨x.1, x.2.1, tabPut_nodup x.2.2.1, fun e he => (mem_tabPut he).elim (fun q => q ▸ by assumption) (x.2.2.2 e)⟩ | exact fun _ => canonical_empty rfl rfl | (intro hx; (try dsimp only); split <;> exact hx) | with_reducible apply same_onBlk | with_reducible apply same_failDie | (with_reducible refine same_ite (fun _ => ?_) (fun _ => ?_)) | split)

theorem same_bindBlock {s t : State} {a0 a1 a2 a3} (h : Same s t) : Same s (bindBlock a0 a1 a2 a3 t) := by
  unfold bindBlock
  try dsimp only
  repeat' (first | with_reducible assumption | with_reducible apply same_logItem | (with_reducible refine same_snd (by assumption) (same_logItem ?_)) | with_reducible apply same_onBlk)

theorem same_exchangeBlock {s t : State} {a0 a1 a2} (h : Same s t) : Same s (exchangeBlock a0 a1 a2 t) := by
  unfold exchangeBlock
  try dsimp only
  repeat' (first | with_reducible assumption | with_reducible apply same_takeSpare | (with_reducible refine same_snd (by assumption) (same_takeSpare ?_)) | with_reducible apply same_bindBlock | with_reducible apply same_onBlk | (with_reducible refine same_ite (fun _ => ?_) (fun _ => ?_)) | split)

theorem same_openSegment {s t : State} {a0 a1 a2 a3} (h : Same s t) : Same s (openSegment a0 a1 a2 a3 t) := by
  unfold openSegment
  try dsimp only
  repeat' (first | with_reducible assumption | with_reducible apply same_exchangeBlock | with_reducible apply same_onBlk | with_reducible apply same_onTop | with_reducible apply same_onSeg | with_reducible apply same_onAdp | with_reducible apply same_logItem | (with_reducible refine same_snd (by assumption) (same_logItem ?_)) | (with_reducible refine same_foldl4 ?_ (fun u x h => ?_)) | (with_reducible refine same_foldl3 ?_ (fun u x h => ?_)) | (with_reducible refine same_foldl2 ?_ (fun u x h => ?_)) | (with_reducible refine same_foldl ?_ (fun u x h => ?_)) | split)

theorem same_blockClass {s t : State} {a0 a1} (h : Same s t) : Same s (blockClass a0 a1 t) := by
  unfold blockClass
  try dsimp only
  repeat' (first | with_reducible assumption | with_reducible apply same_onBlk | (with_reducible refine same_ite (fun _ => ?_) (fun _ => ?_)))

theorem same_closeSegment {s t : State} {a0 a1} (h : Same s t) : Same s (closeSegment a0 a1 t) := by
  unfold closeSegment
  try dsimp only
  repeat' (first | with_reducible assumption | with_reducible apply same_blockClass | with_reducible apply same_onBlk | with_reducible apply same_logItem | (with_reducible refine same_snd (by assumption) (same_logItem ?_)) | with_reducible apply same_onSeg | (with_reducible refine same_foldl4 ?_ (fun u x h => ?_)) | (with_reducible refine same_foldl3 ?_ (fun u x h => ?_)) | (with_reducible refine same_foldl2 ?_ (fun u x h => ?_)) | (with_reducible refine same_foldl ?_ (fun u x h => ?_)) | (with_reducible refine same_ite (fun _ => ?_) (fun _ => ?_)) | split)

theorem same_trimSegment {s t : State} {a0 a1} (h : Same s t) : Same s (trimSegment a0 a1 t) := by
  unfold trimSegment
  try dsimp only
  repeat' (first | with_reducible assumption | with_reducible apply same_logItem | (with_reducible refine same_snd (by assumption) (same_logItem ?_)) | with_reducible apply same_onBlk | with_reducible apply same_eraseBlock | (with_reducible refine same_snd (by assumption) (same_eraseBlock ?_)) | with_reducible apply same_onSeg | (with_reducible refine same_foldl4 ?_ (fun u x h => ?_)) | (with_reducible refine same_foldl3 ?_ (fun u x h => ?_)) | (with_reducible refine same_foldl2 ?_ (fun u x h => ?_)) | (with_reducible refine same_foldl ?_ (fun u x h => ?_)) | split)

theorem same_freeSegment {s t : State} {a0 a1} (h : Same s t) : Same s (freeSegment a0 a1 t) := by
  unfold freeSegment
  try dsimp only
  repeat' (first | with_reducible assumption | with_reducible apply same_logItem | (with_reducible refine same_snd (by assumption) (same_logItem ?_)) | with_reducible apply same_onSeg)

theorem same_spaceAlarms {s t : State} {a0} (h : Same s t) : Same s (spaceAlarms a0 t) := by
  unfold spaceAlarms
  try dsimp only
  repeat' (first | with_reducible assumption | with_reducible apply same_note | with_reducible apply same_onTop | (with_reducible refine same_ite (fun _ => ?_) (fun _ => ?_)))

theorem same_addValid {s t : State} {a0 a1} (h : Same s t) : Same s (addValid a0 a1 t) := by
  unfold addValid
  try dsimp only
  repeat' (first | with_reducible assumption | with_reducible apply same_onSeg | (with_reducible refine same_ite (fun _ => ?_) (fun _ => ?_)) | split)

theorem same_fprClear {s t : State} {a0} (h : Same s t) : Same s (fprClear a0 t) := by
  unfold fprClear
  try dsimp only
  repeat' (first | with_reducible assumption | with_reducible apply same_onFpr)

theorem same_fprMove {s t : State} {a0 a1} (h : Same s t) : Same s (fprMove a0 a1 t) := by
  unfold fprMove
  try dsimp only
  repeat' (first | with_reducible assumption | with_reducible apply same_onFpr | (with_reducible refine same_ite (fun _ => ?_) (fun _ => ?_)))

theorem same_shareDrop {s t : State} {a0 a1} (h : Same s t) : Same s (shareDrop a0 a1 t) := by
  unfold shareDrop
  try dsimp only
  repeat' (first | with_reducible assumption | with_reducible apply same_logItem | (with_reducible refine same_snd (by assumption) (same_logItem ?_)) | with_reducible apply same_addValid | with_reducible apply same_fprClear | (with_reducible refine same_onFtl ?_) | (with_reducible refine same_onFtl ?_ ?_) | exact fun x => ⟨x.1, x.2.1, tabDel_nodup x.2.2.1, fun e he => x.2.2.2 e (mem_tabDel he)⟩ | exact fun x => ⟨x.1, x.2.1, tabPut_nodup x.2.2.1, fun e he => (mem_tabPut he).elim (fun q => q ▸ by assumption) (x.2.2.2 e)⟩ | exact fun _ => canonical_empty rfl rfl | (intro hx; (try dsimp only); split <;> exact hx) | (with_reducible refine same_ite (fun _ => ?_) (fun _ => ?_)) | split)

theorem same_shareAdd {s t : State} {a0 a1} (h : Same s t) : Same s (shareAdd a0 a1 t) := by
  unfold shareAdd
  try dsimp only
  repeat' (first | with_reducible assumption | with_reducible apply same_logItem | (with_reducible refine same_snd (by assumption) (same_logItem ?_)) | (with_reducible refine same_onFtl ?_) | (with_reducible refine same_onFtl ?_ ?_) | exact fun x => ⟨x.1, x.2.1, tabDel_nodup x.2.2.1, fun e he => x.2.2.2 e (mem_tabDel he)⟩ | exact fun x => ⟨x.1, x.2.1, tabPut_nodup x.2.2.1, fun e he => (mem_tabPut he).elim (fun q => q ▸ by assumption) (x.2.2.2 e)⟩ | exact fun _ => canonical_empty rfl rfl | (intro hx; (try dsimp only); split <;> exact hx) | split)

theorem same_shareNew {s t u : State} {h0 loc refs i : Nat} (e : shareNew h0 loc refs t = some (i, u)) (h : Same s t) (_ : refs ≠ 0) : Same s u := by
  unfold shareNew at e
  split at e
  · cases e
  · split at e
    · cases e
    · cases e
      exact same_logItem (same_onFtl h)

theorem same_putWord {s t : State} {a0 a1 a2} (h : Same s t) : Same s (putWord a0 a1 a2 t) := by
  unfold putWord
  try dsimp only
  repeat' (first | with_reducible assumption | (with_reducible refine same_onFtl ?_) | (with_reducible refine same_onFtl ?_ ?_) | exact fun x => ⟨x.1, x.2.1, tabDel_nodup x.2.2.1, fun e he => x.2.2.2 e (mem_tabDel he)⟩ | exact fun x => ⟨x.1, x.2.1, tabPut_nodup x.2.2.1, fun e he => (mem_tabPut he).elim (fun q => q ▸ by assumption) (x.2.2.2 e)⟩ | exact fun _ => canonical_empty rfl rfl | (intro hx; (try dsimp only); split <;> exact hx) | (with_reducible refine same_ite (fun _ => ?_) (fun _ => ?_)))

theorem same_preservePage {s t : State} {a0 a1 a2 a3} (h : Same s t) : Same s (preservePage a0 a1 a2 a3 t) := by
  unfold preservePage
  try dsimp only
  repeat' (first | with_reducible assumption | (with_reducible refine same_shareNew (by assumption) ?_ (by decide)) | with_reducible apply same_logItem | (with_reducible refine same_snd (by assumption) (same_logItem ?_)) | with_reducible apply same_putWord | with_reducible apply same_shareAdd | with_reducible apply same_onRpl | (with_reducible refine same_foldl4 ?_ (fun u x h => ?_)) | (with_reducible refine same_foldl3 ?_ (fun u x h => ?_)) | (with_reducible refine same_foldl2 ?_ (fun u x h => ?_)) | (with_reducible refine same_foldl ?_ (fun u x h => ?_)) | (with_reducible refine same_ite (fun _ => ?_) (fun _ => ?_)) | split)

theorem same_preserve {s t : State} {a0 a1 a2} (h : Same s t) : Same s (preserve a0 a1 a2 t) := by
  unfold preserve
  try dsimp only
  repeat' (first | with_reducible assumption | with_reducible apply same_preservePage | split)

theorem same_dropWord {s t : State} {a0 a1} (h : Same s t) : Same s (dropWord a0 a1 t) := by
  unfold dropWord
  try dsimp only
  repeat' (first | with_reducible assumption | with_reducible apply same_addValid | with_reducible apply same_fprClear | with_reducible apply same_shareDrop | (with_reducible refine same_ite (fun _ => ?_) (fun _ => ?_)))

theorem same_setWord {s t : State} {a0 a1 a2 a3} (h : Same s t) : Same s (setWord a0 a1 a2 a3 t).2 := by
  unfold setWord
  try dsimp only
  repeat' (first | with_reducible assumption | with_reducible apply same_preserve | with_reducible apply same_putWord | with_reducible apply same_dropWord | with_reducible apply same_addValid | with_reducible apply same_logItem | (with_reducible refine same_snd (by assumption) (same_logItem ?_)) | (with_reducible refine same_ite (fun _ => ?_) (fun _ => ?_)) | (with_reducible refine same_ite2 (fun _ => ?_) (fun _ => ?_)))

theorem same_logSegment {s t : State} {a0} (h : Same s t) : Same s (logSegment a0 t).2 := by
  unfold logSegment
  try dsimp only
  repeat' (first | with_reducible assumption | with_reducible apply same_onTop | with_reducible apply same_openSegment | split)

theorem same_rowTaken {s t : State} {a0 a1} (h : Same s t) : Same s (rowTaken a0 a1 t) := by
  unfold rowTaken
  try dsimp only
  repeat' (first | with_reducible assumption | with_reducible apply same_onSeg | with_reducible apply same_onTop | with_reducible apply same_closeSegment | (with_reducible refine same_ite (fun _ => ?_) (fun _ => ?_)))

theorem same_mapRow {s t : State} {a0 a1 a2} (h : Same s t) : Same s (mapRow a0 a1 a2 t) := by
  unfold mapRow
  try dsimp only
  repeat' (first | with_reducible assumption | with_reducible apply same_logSegment | (with_reducible refine same_snd (by assumption) (same_logSegment ?_)) | with_reducible apply same_newId | (with_reducible refine same_snd (by assumption) (same_newId ?_)) | with_reducible apply same_onLog | with_reducible apply same_rowTaken | with_reducible apply same_issueRow | (with_reducible refine same_foldl4 ?_ (fun u x h => ?_)) | (with_reducible refine same_foldl3 ?_ (fun u x h => ?_)) | (with_reducible refine same_foldl2 ?_ (fun u x h => ?_)) | (with_reducible refine same_foldl ?_ (fun u x h => ?_)) | split)

theorem same_flushLog {s t : State} {a0 a1} (h : Same s t) : Same s (flushLog a0 a1 t) := by
  induction a1 generalizing t  with
  | zero =>
    unfold flushLog
    repeat' (first | with_reducible assumption | with_reducible apply ih | with_reducible apply same_mapRow | with_reducible apply same_onLog | split | (cases ‹_ + 1 = Nat.succ _›))
  | succ _ ih =>
    unfold flushLog
    try dsimp only
    repeat' (first | with_reducible assumption | with_reducible apply ih | with_reducible apply same_mapRow | with_reducible apply same_onLog | split | (cases ‹_ + 1 = Nat.succ _›))

theorem same_forceLog {s t : State} {a0} (h : Same s t) : Same s (forceLog a0 t) := by
  unfold forceLog
  try dsimp only
  repeat' (first | with_reducible assumption | with_reducible apply same_flushLog)

theorem same_fullLog {s t : State} {a0} (h : Same s t) : Same s (fullLog a0 t) := by
  unfold fullLog
  try dsimp only
  repeat' (first | with_reducible assumption | with_reducible apply same_forceLog | (with_reducible refine same_ite (fun _ => ?_) (fun _ => ?_)) | split)

theorem same_mapFullAlarm {s t : State} (h : Same s t) : Same s (mapFullAlarm t) := by
  unfold mapFullAlarm
  try dsimp only
  repeat' (first | with_reducible assumption | with_reducible apply same_note | (with_reducible refine same_onFtl ?_) | (with_reducible refine same_onFtl ?_ ?_) | exact fun x => ⟨x.1, x.2.1, tabDel_nodup x.2.2.1, fun e he => x.2.2.2 e (mem_tabDel he)⟩ | exact fun x => ⟨x.1, x.2.1, tabPut_nodup x.2.2.1, fun e he => (mem_tabPut he).elim (fun q => q ▸ by assumption) (x.2.2.2 e)⟩ | exact fun _ => canonical_empty rfl rfl | (intro hx; (try dsimp only); split <;> exact hx) | (with_reducible refine same_ite (fun _ => ?_) (fun _ => ?_)))

end Sys2Proof.Machine
end

