-- ==== Sys2Proof/Laws/Same/Journal.lean ====
section
/-! SUPPORT. Operations of Machine/Journal.lean that leave the control blocks (`Same`). -/

namespace Sys2Proof.Machine

theorem same_commitTime {s t : State} {a0} (h : Same s t) : Same s (commitTime a0 t) := by
  unfold commitTime
  try dsimp only
  repeat' (first | with_reducible assumption | with_reducible apply same_onJnl)

theorem same_jnlCommitted {s t : State} {a0} (h : Same s t) : Same s (jnlCommitted a0 t) := by
  unfold jnlCommitted
  try dsimp only
  repeat' (first | with_reducible assumption | with_reducible apply same_commitTime | with_reducible apply same_onJnl | (with_reducible refine same_ite (fun _ => ?_) (fun _ => ?_)) | split)

theorem same_spillRow {s t : State} {a0 a1} (h : Same s t) : Same s (spillRow a0 a1 t) := by
  unfold spillRow
  try dsimp only
  repeat' (first | with_reducible assumption | with_reducible apply same_logSegment | (with_reducible refine same_snd (by assumption) (same_logSegment ?_)) | with_reducible apply same_newId | (with_reducible refine same_snd (by assumption) (same_newId ?_)) | with_reducible apply same_onJnl | with_reducible apply same_rowTaken | with_reducible apply same_issueRow | (with_reducible refine same_foldl4 ?_ (fun u x h => ?_)) | (with_reducible refine same_foldl3 ?_ (fun u x h => ?_)) | (with_reducible refine same_foldl2 ?_ (fun u x h => ?_)) | (with_reducible refine same_foldl ?_ (fun u x h => ?_)) | split)

theorem same_spillNow {s t : State} {a0 a1 a2} (h : Same s t) : Same s (spillNow a0 a1 a2 t) := by
  induction a1 generalizing t a2 with
  | zero =>
    unfold spillNow
    repeat' (first | with_reducible assumption | with_reducible apply ih | with_reducible apply same_spillRow | with_reducible apply same_onJnl | split | (cases ‹_ + 1 = Nat.succ _›))
  | succ _ ih =>
    unfold spillNow
    try dsimp only
    repeat' (first | with_reducible assumption | with_reducible apply ih | with_reducible apply same_spillRow | with_reducible apply same_onJnl | split | (cases ‹_ + 1 = Nat.succ _›))

theorem same_jnlCommit {s t : State} {a0 a1} (h : Same s t) : Same s (jnlCommit a0 a1 t) := by
  unfold jnlCommit
  try dsimp only
  repeat' (first | with_reducible assumption | with_reducible apply same_plSend | with_reducible apply same_onJnl | (with_reducible refine same_mirrorMap ?_ (fun u h => ?_)) | with_reducible apply same_spillNow | (with_reducible refine same_ite (fun _ => ?_) (fun _ => ?_)))

theorem same_jnlRecord {s t : State} {a0 a1 a2} (h : Same s t) : Same s (jnlRecord a0 a1 a2 t).2 := by
  unfold jnlRecord
  try dsimp only
  repeat' (first | with_reducible assumption | with_reducible apply same_onJnl | with_reducible apply same_jnlCommit | (with_reducible refine same_ite (fun _ => ?_) (fun _ => ?_)) | (with_reducible refine same_ite2 (fun _ => ?_) (fun _ => ?_)))

theorem same_jnlSpan {s t : State} {a0 a1 a2} (h : Same s t) : Same s (jnlSpan a0 a1 a2 t).2 := by
  unfold jnlSpan
  try dsimp only
  repeat' (first | with_reducible assumption | with_reducible apply same_jnlCommit | with_reducible apply same_onJnl)

theorem same_spillWaiting {s t : State} (h : Same s t) : Same s (spillWaiting t) := by
  unfold spillWaiting
  try dsimp only
  repeat' (first | with_reducible assumption | with_reducible apply same_spillNow | with_reducible apply same_onJnl)

theorem same_homeOut {s t : State} {a0 a1} (h : Same s t) : Same s (homeOut a0 a1 t) := by
  unfold homeOut
  try dsimp only
  repeat' (first | with_reducible assumption | with_reducible apply same_note | with_reducible apply same_onJnl | (with_reducible refine same_ite (fun _ => ?_) (fun _ => ?_)))

theorem same_checkHomes {s t : State} (h : Same s t) : Same s (checkHomes t) := by
  unfold checkHomes
  try dsimp only
  repeat' (first | with_reducible assumption | with_reducible apply same_homeOut | (with_reducible refine same_foldl ?_ (fun u x h => ?_)) | (with_reducible refine same_ite (fun _ => ?_) (fun _ => ?_)) | split)

end Sys2Proof.Machine
end

