-- ==== Sys2Proof/Laws/Same/Flush.lean ====
section
/-! SUPPORT. Operations of Machine/Flush.lean that leave the control blocks (`Same`). -/

namespace Sys2Proof.Machine

theorem same_fn_onBuf {s t : State} {a0 a1 a2} (h : Same s t) : Same s (onBuf a0 a1 a2 t) := by
  unfold onBuf
  try dsimp only
  repeat' (first | with_reducible assumption | with_reducible apply same_onIng | (with_reducible refine same_ite (fun _ => ?_) (fun _ => ?_)))

theorem same_jnlIntent {s t : State} {a0 a1 a2 a3 a4 a5 a6 a7 a8} (h : Same s t) : Same s (jnlIntent a0 a1 a2 a3 a4 a5 a6 a7 a8 t) := by
  unfold jnlIntent
  try dsimp only
  repeat' (first | with_reducible assumption | with_reducible apply same_jnlRecord | (with_reducible refine same_snd (by assumption) (same_jnlRecord ?_)) | (with_reducible refine same_ite (fun _ => ?_) (fun _ => ?_)))

theorem same_jnlCommitStripe {s t : State} {a0 a1} (h : Same s t) : Same s (jnlCommitStripe a0 a1 t).2 := by
  unfold jnlCommitStripe
  try dsimp only
  repeat' (first | with_reducible assumption | with_reducible apply same_jnlRecord | (with_reducible refine same_snd (by assumption) (same_jnlRecord ?_)) | split)

theorem same_jnlRoom {s t : State} {a0} (h : Same s t) : Same s (jnlRoom a0 t).2 := by
  unfold jnlRoom
  try dsimp only
  repeat' (first | with_reducible assumption | with_reducible apply same_onJnl | with_reducible apply same_note | (with_reducible refine same_ite (fun _ => ?_) (fun _ => ?_)) | (with_reducible refine same_ite2 (fun _ => ?_) (fun _ => ?_)))

theorem same_dataSegment {s t : State} {a0} (h : Same s t) : Same s (dataSegment a0 t).2 := by
  unfold dataSegment
  try dsimp only
  repeat' (first | with_reducible assumption | with_reducible apply same_onTop | with_reducible apply same_openSegment | (with_reducible refine same_ite (fun _ => ?_) (fun _ => ?_)) | (with_reducible refine same_ite2 (fun _ => ?_) (fun _ => ?_)) | split)

theorem same_completeRow {s t : State} {a0 a1 a2 a3 a4 a5 a6} (h : Same s t) : Same s (completeRow a0 a1 a2 a3 a4 a5 a6 t) := by
  unfold completeRow
  try dsimp only
  repeat' (first | with_reducible assumption | with_reducible apply same_jnlIntent | with_reducible apply same_newId | (with_reducible refine same_snd (by assumption) (same_newId ?_)) | with_reducible apply same_issueRow | with_reducible apply same_onPar | with_reducible apply same_rowTaken | (with_reducible refine same_foldl4 ?_ (fun u x h => ?_)) | (with_reducible refine same_foldl3 ?_ (fun u x h => ?_)) | (with_reducible refine same_foldl2 ?_ (fun u x h => ?_)) | (with_reducible refine same_foldl ?_ (fun u x h => ?_)) | (with_reducible refine same_ite (fun _ => ?_) (fun _ => ?_)) | split)

theorem same_rewriteSegment {s t : State} {a0 a1} (h : Same s t) : Same s (rewriteSegment a0 a1 t).2 := by
  unfold rewriteSegment
  try dsimp only
  repeat' (first | with_reducible assumption | with_reducible apply same_onPar | with_reducible apply same_openSegment | (with_reducible refine same_ite (fun _ => ?_) (fun _ => ?_)) | (with_reducible refine same_ite2 (fun _ => ?_) (fun _ => ?_)) | split)

theorem same_programVersion {s t : State} {a0 a1 a2 a3 a4 a5 a6} (h : Same s t) : Same s (programVersion a0 a1 a2 a3 a4 a5 a6 t).2.2 := by
  unfold programVersion
  try dsimp only
  repeat' (first | with_reducible assumption | with_reducible apply same_onPar | with_reducible apply same_programPage | (with_reducible refine same_snd (by assumption) (same_programPage ?_)) | (with_reducible refine same_ite (fun _ => ?_) (fun _ => ?_)) | (with_reducible refine same_ite3 (fun _ => ?_) (fun _ => ?_)) | split)

theorem same_extendStripe {s t : State} {a0 a1 a2 a3 a4 a5} (h : Same s t) : Same s (extendStripe a0 a1 a2 a3 a4 a5 t).2.2.2 := by
  unfold extendStripe
  try dsimp only
  repeat' (first | with_reducible assumption | with_reducible apply same_jnlIntent | with_reducible apply same_rewriteSegment | (with_reducible refine same_snd (by assumption) (same_rewriteSegment ?_)) | with_reducible apply same_programVersion | (with_reducible refine same_snd3 (by assumption) (same_programVersion ?_)) | with_reducible apply same_onPar | (with_reducible refine same_foldl4 ?_ (fun u x h => ?_)) | (with_reducible refine same_foldl3 ?_ (fun u x h => ?_)) | (with_reducible refine same_foldl2 ?_ (fun u x h => ?_)) | (with_reducible refine same_foldl ?_ (fun u x h => ?_)) | (with_reducible refine same_ite (fun _ => ?_) (fun _ => ?_)) | (with_reducible refine same_ite4 (fun _ => ?_) (fun _ => ?_)) | split)

theorem same_extendRow {s t : State} {a0 a1 a2 a3 a4} (h : Same s t) : Same s (extendRow a0 a1 a2 a3 a4 t) := by
  unfold extendRow
  try dsimp only
  repeat' (first | with_reducible assumption | with_reducible apply same_newId | (with_reducible refine same_snd (by assumption) (same_newId ?_)) | with_reducible apply same_extendStripe | (with_reducible refine same_snd4 (by assumption) (same_extendStripe ?_)) | with_reducible apply same_issueRow | with_reducible apply same_onPar | (with_reducible refine same_foldl4 ?_ (fun u x h => ?_)) | (with_reducible refine same_foldl3 ?_ (fun u x h => ?_)) | (with_reducible refine same_foldl2 ?_ (fun u x h => ?_)) | (with_reducible refine same_foldl ?_ (fun u x h => ?_)) | (with_reducible refine same_ite (fun _ => ?_) (fun _ => ?_)) | split)

theorem same_placeBlocks {s t : State} {a0 a1} (h : Same s t) : Same s (placeBlocks a0 a1 t) := by
  unfold placeBlocks
  try dsimp only
  repeat' (first | with_reducible assumption | with_reducible apply same_fn_onBuf | (with_reducible refine same_foldl ?_ (fun u x h => ?_)))

theorem same_closeRow {s t : State} {a0} (h : Same s t) : Same s (closeRow a0 t) := by
  unfold closeRow
  try dsimp only
  repeat' (first | with_reducible assumption | with_reducible apply same_onPar | with_reducible apply same_startJob | with_reducible apply same_completeRow | (with_reducible refine same_ite (fun _ => ?_) (fun _ => ?_)) | split)

theorem same_flushTop {s t : State} {a0 a1 a2} (h : Same s t) : Same s (flushTop a0 a1 a2 t) := by
  induction a2 generalizing t  with
  | zero =>
    unfold flushTop
    repeat' (first | with_reducible assumption | with_reducible apply ih | with_reducible apply same_dataSegment | (with_reducible refine same_snd (by assumption) (same_dataSegment ?_)) | with_reducible apply same_jnlRoom | (with_reducible refine same_snd (by assumption) (same_jnlRoom ?_)) | with_reducible apply same_placeBlocks | with_reducible apply same_completeRow | with_reducible apply same_rewriteSegment | (with_reducible refine same_snd (by assumption) (same_rewriteSegment ?_)) | with_reducible apply same_extendRow | (with_reducible refine same_foldl ?_ (fun u x h => ?_)) | (with_reducible refine same_ite (fun _ => ?_) (fun _ => ?_)) | split | (cases ‹_ + 1 = Nat.succ _›))
  | succ _ ih =>
    unfold flushTop
    try dsimp only
    repeat' (first | with_reducible assumption | with_reducible apply ih | with_reducible apply same_dataSegment | (with_reducible refine same_snd (by assumption) (same_dataSegment ?_)) | with_reducible apply same_jnlRoom | (with_reducible refine same_snd (by assumption) (same_jnlRoom ?_)) | with_reducible apply same_placeBlocks | with_reducible apply same_completeRow | with_reducible apply same_rewriteSegment | (with_reducible refine same_snd (by assumption) (same_rewriteSegment ?_)) | with_reducible apply same_extendRow | (with_reducible refine same_foldl ?_ (fun u x h => ?_)) | (with_reducible refine same_ite (fun _ => ?_) (fun _ => ?_)) | split | (cases ‹_ + 1 = Nat.succ _›))

theorem same_flushBlocks {s t : State} {a0} (h : Same s t) : Same s (flushBlocks a0 t) := by
  unfold flushBlocks
  try dsimp only
  repeat' (first | with_reducible assumption | with_reducible apply same_flushTop | (with_reducible refine same_foldl ?_ (fun u x h => ?_)))

theorem same_onTake {s t : State} {a0 a1 a2} (h : Same s t) : Same s (onTake a0 a1 a2 t) := by
  unfold onTake
  try dsimp only
  repeat' (first | with_reducible assumption | (with_reducible refine same_onFtl ?_) | (with_reducible refine same_onFtl ?_ ?_) | exact fun x => ⟨x.1, x.2.1, tabDel_nodup x.2.2.1, fun e he => x.2.2.2 e (mem_tabDel he)⟩ | exact fun x => ⟨x.1, x.2.1, tabPut_nodup x.2.2.1, fun e he => (mem_tabPut he).elim (fun q => q ▸ by assumption) (x.2.2.2 e)⟩ | exact fun _ => canonical_empty rfl rfl | (intro hx; (try dsimp only); split <;> exact hx))

theorem same_drawStrips {s t : State} {a0 a1 a2 a3} (h : Same s t) : Same s (drawStrips a0 a1 a2 a3 t) := by
  unfold drawStrips
  try dsimp only
  repeat' (first | with_reducible assumption | with_reducible apply same_onTake | (with_reducible refine same_ite (fun _ => ?_) (fun _ => ?_)) | split)

theorem same_takeSegment {s t : State} {a0 a1 a2} (h : Same s t) : Same s (takeSegment a0 a1 a2 t).2 := by
  unfold takeSegment
  try dsimp only
  repeat' (first | with_reducible assumption | with_reducible apply same_onSeg | with_reducible apply same_openSegment | split)

theorem same_streamRow {s t : State} {a0 a1 a2} (h : Same s t) : Same s (streamRow a0 a1 a2 t) := by
  unfold streamRow
  try dsimp only
  repeat' (first | with_reducible assumption | with_reducible apply same_takeSegment | (with_reducible refine same_snd (by assumption) (same_takeSegment ?_)) | with_reducible apply same_newId | (with_reducible refine same_snd (by assumption) (same_newId ?_)) | with_reducible apply same_onTake | with_reducible apply same_onSeg | with_reducible apply same_logItem | (with_reducible refine same_snd (by assumption) (same_logItem ?_)) | with_reducible apply same_rowTaken | with_reducible apply same_issueRow | (with_reducible refine same_ite (fun _ => ?_) (fun _ => ?_)) | split)

theorem same_flushTake {s t : State} {a0 a1 a2 a3} (h : Same s t) : Same s (flushTake a0 a1 a2 a3 t) := by
  induction a3 generalizing t  with
  | zero =>
    unfold flushTake
    repeat' (first | with_reducible assumption | with_reducible apply ih | with_reducible apply same_streamRow | (with_reducible refine same_ite (fun _ => ?_) (fun _ => ?_)) | split | (cases ‹_ + 1 = Nat.succ _›))
  | succ _ ih =>
    unfold flushTake
    try dsimp only
    repeat' (first | with_reducible assumption | with_reducible apply ih | with_reducible apply same_streamRow | (with_reducible refine same_ite (fun _ => ?_) (fun _ => ?_)) | split | (cases ‹_ + 1 = Nat.succ _›))

theorem same_flushTakes {s t : State} {a0} (h : Same s t) : Same s (flushTakes a0 t) := by
  unfold flushTakes
  try dsimp only
  repeat' (first | with_reducible assumption | with_reducible apply same_flushTake | (with_reducible refine same_foldl4 ?_ (fun u x h => ?_)) | (with_reducible refine same_foldl3 ?_ (fun u x h => ?_)) | (with_reducible refine same_foldl2 ?_ (fun u x h => ?_)) | (with_reducible refine same_foldl ?_ (fun u x h => ?_)))

theorem same_rowPrograms {s t : State} {a0} (h : Same s t) : Same s (rowPrograms a0 t) := by
  unfold rowPrograms
  try dsimp only
  repeat' (first | with_reducible assumption | with_reducible apply same_jnlCommitStripe | (with_reducible refine same_snd (by assumption) (same_jnlCommitStripe ?_)) | with_reducible apply same_onPar | (with_reducible refine same_foldl4 ?_ (fun u x h => ?_)) | (with_reducible refine same_foldl3 ?_ (fun u x h => ?_)) | (with_reducible refine same_foldl2 ?_ (fun u x h => ?_)) | (with_reducible refine same_foldl ?_ (fun u x h => ?_)) | (with_reducible refine same_ite (fun _ => ?_) (fun _ => ?_)) | split)

theorem same_pageDone {s t : State} {a0 a1 a2} (h : Same s t) : Same s (pageDone a0 a1 a2 t) := by
  unfold pageDone
  try dsimp only
  repeat' (first | with_reducible assumption | with_reducible apply same_rowPrograms | with_reducible apply same_onPar | (with_reducible refine same_ite (fun _ => ?_) (fun _ => ?_)))

theorem same_dropRewrites {s t : State} {a0} (h : Same s t) : Same s (dropRewrites a0 t) := by
  unfold dropRewrites
  try dsimp only
  repeat' (first | with_reducible assumption | with_reducible apply same_trimSegment | with_reducible apply same_closeSegment | with_reducible apply same_onPar | (with_reducible refine same_ite (fun _ => ?_) (fun _ => ?_)) | split)

end Sys2Proof.Machine
end

