-- ==== Sys2Proof/Laws/Same/Ingest.lean ====
section
/-! SUPPORT. Operations of Machine/Ingest.lean that leave the control blocks (`Same`). -/

namespace Sys2Proof.Machine

theorem same_chg {s t : State} {a0 a1} (h : Same s t) : Same s (chg a0 a1 t) := by
  unfold chg
  try dsimp only
  repeat' (first | with_reducible assumption | with_reducible apply same_onCmd | (with_reducible refine same_ite (fun _ => ?_) (fun _ => ?_)))

theorem same_holdsClear {s t : State} (h : Same s t) : Same s (holdsClear t) := by
  unfold holdsClear
  try dsimp only
  repeat' (first | with_reducible assumption | with_reducible apply same_onCmd)

theorem same_dirtyAdd {s t : State} {a0 a1 a2} (h : Same s t) : Same s (dirtyAdd a0 a1 a2 t) := by
  unfold dirtyAdd
  try dsimp only
  repeat' (first | with_reducible assumption | with_reducible apply same_onIng)

theorem same_dirtyDrop {s t : State} {a0 a1 a2} (h : Same s t) : Same s (dirtyDrop a0 a1 a2 t) := by
  unfold dirtyDrop
  try dsimp only
  repeat' (first | with_reducible assumption | with_reducible apply same_holdsClear | with_reducible apply same_onIng | (with_reducible refine same_ite (fun _ => ?_) (fun _ => ?_)))

theorem same_leaveBlock {s t : State} {a0} (h : Same s t) : Same s (leaveBlock a0 t) := by
  unfold leaveBlock
  try dsimp only
  repeat' (first | with_reducible assumption | with_reducible apply same_onIng | with_reducible apply same_dirtyDrop | (with_reducible refine same_ite (fun _ => ?_) (fun _ => ?_)))

theorem same_dropData {s t : State} {a0 a1} (h : Same s t) : Same s (dropData a0 a1 t) := by
  unfold dropData
  try dsimp only
  repeat' (first | with_reducible assumption | with_reducible apply same_dropWord | with_reducible apply same_dirtyDrop | with_reducible apply same_onIng | (with_reducible refine same_foldl4 ?_ (fun u x h => ?_)) | (with_reducible refine same_foldl3 ?_ (fun u x h => ?_)) | (with_reducible refine same_foldl2 ?_ (fun u x h => ?_)) | (with_reducible refine same_foldl ?_ (fun u x h => ?_)))

theorem same_sendSeg {s t : State} {a0} (h : Same s t) : Same s (sendSeg a0 t) := by
  unfold sendSeg
  try dsimp only
  repeat' (first | with_reducible assumption | with_reducible apply same_plFrame)

theorem same_failCmd {s t : State} {a0 a1 a2 a3} (h : Same s t) : Same s (failCmd a0 a1 a2 a3 t) := by
  unfold failCmd
  try dsimp only
  repeat' (first | with_reducible assumption | with_reducible apply same_chg | (with_reducible refine same_ite (fun _ => ?_) (fun _ => ?_)))

theorem same_stageFail {s t : State} {a0 a1 a2} (h : Same s t) : Same s (stageFail a0 a1 a2 t) := by
  unfold stageFail
  try dsimp only
  repeat' (first | with_reducible assumption | with_reducible apply same_onIng | with_reducible apply same_note | with_reducible apply same_chg | with_reducible apply same_failCmd | (with_reducible refine same_foldl4 ?_ (fun u x h => ?_)) | (with_reducible refine same_foldl3 ?_ (fun u x h => ?_)) | (with_reducible refine same_foldl2 ?_ (fun u x h => ?_)) | (with_reducible refine same_foldl ?_ (fun u x h => ?_)) | split)

theorem same_joinBlocks {s t : State} {a0 a1 a2 a3} (h : Same s t) : Same s (joinBlocks a0 a1 a2 a3 t) := by
  induction a3 generalizing t  with
  | zero =>
    unfold joinBlocks
    repeat' (first | with_reducible assumption | with_reducible apply ih | with_reducible apply same_onTake | (with_reducible refine same_ite (fun _ => ?_) (fun _ => ?_)) | split | (cases ‹_ + 1 = Nat.succ _›))
  | succ _ ih =>
    unfold joinBlocks
    try dsimp only
    repeat' (first | with_reducible assumption | with_reducible apply ih | with_reducible apply same_onTake | (with_reducible refine same_ite (fun _ => ?_) (fun _ => ?_)) | split | (cases ‹_ + 1 = Nat.succ _›))

theorem same_joinDraft {s t : State} {a0 a1 a2} (h : Same s t) : Same s (joinDraft a0 a1 a2 t) := by
  unfold joinDraft
  try dsimp only
  repeat' (first | with_reducible assumption | with_reducible apply same_joinBlocks | with_reducible apply same_drawStrips | (with_reducible refine same_ite (fun _ => ?_) (fun _ => ?_)))

end Sys2Proof.Machine
end

