-- ==== Sys2Proof/Laws/Same/Commands.lean ====
section
/-! SUPPORT. Operations of Machine/Commands.lean that leave the control blocks (`Same`). -/

namespace Sys2Proof.Machine

theorem same_mirrorCmd {s t : State} {a0 a1 a2} (h : Same s t) : Same s (mirrorCmd a0 a1 a2 t) := by
  unfold mirrorCmd
  try dsimp only
  repeat' (first | with_reducible assumption | (with_reducible refine same_mirror ?_ (fun u h => ?_)) | with_reducible apply same_plRecords)

theorem same_mirrorWin {s t : State} {a0 a1 a2 a3} (h : Same s t) : Same s (mirrorWin a0 a1 a2 a3 t) := by
  unfold mirrorWin
  try dsimp only
  repeat' (first | with_reducible assumption | (with_reducible refine same_mirror ?_ (fun u h => ?_)) | with_reducible apply same_plRecords)

theorem same_sendOn {s t : State} {a0 a1} (h : Same s t) : Same s (sendOn a0 a1 t) := by
  unfold sendOn
  try dsimp only
  repeat' (first | with_reducible assumption | with_reducible apply same_sendHead | split)

theorem same_recordOrphan {s t : State} {a0 a1} (h : Same s t) : Same s (recordOrphan a0 a1 t) := by
  unfold recordOrphan
  try dsimp only
  repeat' (first | with_reducible assumption | with_reducible apply same_onCmd | (with_reducible refine same_ite (fun _ => ?_) (fun _ => ?_)) | split)

theorem same_orphansRaised {s t : State} {a0} (h : Same s t) : Same s (orphansRaised a0 t) := by
  unfold orphansRaised
  try dsimp only
  repeat' (first | with_reducible assumption | with_reducible apply same_raise)

theorem same_supersede {s t : State} {a0 a1} (h : Same s t) : Same s (supersede a0 a1 t) := by
  unfold supersede
  try dsimp only
  repeat' (first | with_reducible assumption | with_reducible apply same_dropWord | with_reducible apply same_leaveBlock | with_reducible apply same_fn_onBuf | with_reducible apply same_onCmd | (with_reducible refine same_foldl4 ?_ (fun u x h => ?_)) | (with_reducible refine same_foldl3 ?_ (fun u x h => ?_)) | (with_reducible refine same_foldl2 ?_ (fun u x h => ?_)) | (with_reducible refine same_foldl ?_ (fun u x h => ?_)) | (with_reducible refine same_ite (fun _ => ?_) (fun _ => ?_)) | split)

theorem same_unreserve {s t : State} {a0} (h : Same s t) : Same s (unreserve a0 t) := by
  unfold unreserve
  try dsimp only
  repeat' (first | with_reducible assumption | with_reducible apply same_onTop | split)

theorem same_writeEffect {s t : State} {a0} (h : Same s t) : Same s (writeEffect a0 t) := by
  unfold writeEffect
  try dsimp only
  repeat' (first | with_reducible assumption | with_reducible apply same_unreserve | with_reducible apply same_leaveBlock | with_reducible apply same_dropWord | with_reducible apply same_fn_onBuf | with_reducible apply same_supersede | with_reducible apply same_onTake | (with_reducible refine same_foldl ?_ (fun u x h => ?_)) | (with_reducible refine same_ite (fun _ => ?_) (fun _ => ?_)) | split)

theorem same_failEffect {s t : State} {a0} (h : Same s t) : Same s (failEffect a0 t) := by
  unfold failEffect
  try dsimp only
  repeat' (first | with_reducible assumption | with_reducible apply same_dropData | with_reducible apply same_unreserve | (with_reducible refine same_mirror ?_ (fun u h => ?_)) | with_reducible apply same_plControl | with_reducible apply same_onTake | with_reducible apply same_logItem | (with_reducible refine same_snd (by assumption) (same_logItem ?_)) | (with_reducible refine same_onFtl ?_) | (with_reducible refine same_onFtl ?_ ?_) | exact fun x => ⟨x.1, x.2.1, tabDel_nodup x.2.2.1, fun e he => x.2.2.2 e (mem_tabDel he)⟩ | exact fun x => ⟨x.1, x.2.1, tabPut_nodup x.2.2.1, fun e he => (mem_tabPut he).elim (fun q => q ▸ by assumption) (x.2.2.2 e)⟩ | exact fun _ => canonical_empty rfl rfl | (intro hx; (try dsimp only); split <;> exact hx) | (with_reducible refine same_ite (fun _ => ?_) (fun _ => ?_)))

theorem same_endCmd {s t : State} {a0 a1 a2 a3 a4 a5} (h : Same s t) : Same s (endCmd a0 a1 a2 a3 a4 a5 t) := by
  unfold endCmd
  try dsimp only
  repeat' (first | with_reducible assumption | with_reducible apply same_writeEffect | with_reducible apply same_failEffect | with_reducible apply same_onCmd | with_reducible apply same_onPar | with_reducible apply same_orphansRaised | with_reducible apply same_recordOrphan | with_reducible apply same_sendOn | with_reducible apply same_mirrorCmd | (with_reducible refine same_ite (fun _ => ?_) (fun _ => ?_)) | split)

theorem same_tryEnd {s t : State} {a0} (h : Same s t) : Same s (tryEnd a0 t) := by
  unfold tryEnd
  try dsimp only
  repeat' (first | with_reducible assumption | with_reducible apply same_endCmd | (with_reducible refine same_ite (fun _ => ?_) (fun _ => ?_)) | split)

theorem same_finish {s t : State} {a0 a1 a2 a3 a4 a5} (h : Same s t) : Same s (finish a0 a1 a2 a3 a4 a5 t) := by
  unfold finish
  try dsimp only
  repeat' (first | with_reducible assumption | with_reducible apply same_tryEnd | with_reducible apply same_chg | (with_reducible refine same_ite (fun _ => ?_) (fun _ => ?_)))

theorem same_dropWindows {s t : State} {a0} (h : Same s t) : Same s (dropWindows a0 t) := by
  unfold dropWindows
  try dsimp only
  repeat' (first | with_reducible assumption | with_reducible apply same_mirrorWin | with_reducible apply same_onCmd | (with_reducible refine same_foldl4 ?_ (fun u x h => ?_)) | (with_reducible refine same_foldl3 ?_ (fun u x h => ?_)) | (with_reducible refine same_foldl2 ?_ (fun u x h => ?_)) | (with_reducible refine same_foldl ?_ (fun u x h => ?_)) | split)

theorem same_openWindow {s t : State} {a0 a1 a2} (h : Same s t) : Same s (openWindow a0 a1 a2 t) := by
  unfold openWindow
  try dsimp only
  repeat' (first | with_reducible assumption | with_reducible apply same_onCmd | with_reducible apply same_chg | with_reducible apply same_sendOn | with_reducible apply same_mirrorWin)

theorem same_nameWindow {s t : State} {a0} (h : Same s t) : Same s (nameWindow a0 t) := by
  unfold nameWindow
  try dsimp only
  repeat' (first | with_reducible assumption | with_reducible apply same_onCmd | with_reducible apply same_openWindow | with_reducible apply same_dirtyAdd | with_reducible apply same_onIng | (with_reducible refine same_ite (fun _ => ?_) (fun _ => ?_)) | split)

theorem same_nameWindows {s t : State} {a0 a1} (h : Same s t) : Same s (nameWindows a0 a1 t) := by
  induction a1 generalizing t  with
  | zero =>
    unfold nameWindows
    repeat' (first | with_reducible assumption | with_reducible apply ih | with_reducible apply same_nameWindow | (with_reducible refine same_ite (fun _ => ?_) (fun _ => ?_)) | split | (cases ‹_ + 1 = Nat.succ _›))
  | succ _ ih =>
    unfold nameWindows
    try dsimp only
    repeat' (first | with_reducible assumption | with_reducible apply ih | with_reducible apply same_nameWindow | (with_reducible refine same_ite (fun _ => ?_) (fun _ => ?_)) | split | (cases ‹_ + 1 = Nat.succ _›))

theorem same_checkWrite {s t : State} {a0} (h : Same s t) : Same s (checkWrite a0 t) := by
  unfold checkWrite
  try dsimp only
  repeat' (first | with_reducible assumption | with_reducible apply same_finish | (with_reducible refine same_ite (fun _ => ?_) (fun _ => ?_)) | split)

theorem same_startReads {s t : State} {a0 a1} (h : Same s t) : Same s (startReads a0 a1 t) := by
  unfold startReads
  try dsimp only
  repeat' (first | with_reducible assumption | with_reducible apply same_chg | with_reducible apply same_startJob | (with_reducible refine same_foldl4 ?_ (fun u x h => ?_)) | (with_reducible refine same_foldl3 ?_ (fun u x h => ?_)) | (with_reducible refine same_foldl2 ?_ (fun u x h => ?_)) | (with_reducible refine same_foldl ?_ (fun u x h => ?_)) | split)

theorem same_countHits {s t : State} {a0} (h : Same s t) : Same s (countHits a0 t) := by
  unfold countHits
  try dsimp only
  repeat' (first | with_reducible assumption | with_reducible apply same_onCmd)

theorem same_sendData {s t : State} {a0 a1 a2} (h : Same s t) : Same s (sendData a0 a1 a2 t) := by
  unfold sendData
  try dsimp only
  repeat' (first | with_reducible assumption | (with_reducible refine same_mirror ?_ (fun u h => ?_)) | with_reducible apply same_plRecords | with_reducible apply same_ctxSend | (with_reducible refine same_foldl ?_ (fun u x h => ?_)) | (with_reducible refine same_ite (fun _ => ?_) (fun _ => ?_)) | split)

theorem same_sendReady {s t : State} {a0 a1} (h : Same s t) : Same s (sendReady a0 a1 t) := by
  induction a1 generalizing t  with
  | zero =>
    unfold sendReady
    repeat' (first | with_reducible assumption | with_reducible apply ih | with_reducible apply same_sendData | with_reducible apply same_chg | split | (cases ‹_ + 1 = Nat.succ _›))
  | succ _ ih =>
    unfold sendReady
    try dsimp only
    repeat' (first | with_reducible assumption | with_reducible apply ih | with_reducible apply same_sendData | with_reducible apply same_chg | split | (cases ‹_ + 1 = Nat.succ _›))

theorem same_pullWindows {s t : State} {a0 a1} (h : Same s t) : Same s (pullWindows a0 a1 t) := by
  induction a1 generalizing t  with
  | zero =>
    unfold pullWindows
    repeat' (first | with_reducible assumption | with_reducible apply ih | with_reducible apply same_openWindow | (with_reducible refine same_ite (fun _ => ?_) (fun _ => ?_)) | split | (cases ‹_ + 1 = Nat.succ _›))
  | succ _ ih =>
    unfold pullWindows
    try dsimp only
    repeat' (first | with_reducible assumption | with_reducible apply ih | with_reducible apply same_openWindow | (with_reducible refine same_ite (fun _ => ?_) (fun _ => ?_)) | split | (cases ‹_ + 1 = Nat.succ _›))

theorem same_checkRead {s t : State} {a0} (h : Same s t) : Same s (checkRead a0 t) := by
  unfold checkRead
  try dsimp only
  repeat' (first | with_reducible assumption | with_reducible apply same_finish | with_reducible apply same_dropWindows | with_reducible apply same_pullWindows | with_reducible apply same_sendReady | (with_reducible refine same_ite (fun _ => ?_) (fun _ => ?_)) | split)

theorem same_readBlock {s t : State} {a0 a1 a2} (h : Same s t) : Same s (readBlock a0 a1 a2 t) := by
  unfold readBlock
  try dsimp only
  repeat' (first | with_reducible assumption | with_reducible apply same_chg | (with_reducible refine same_ite (fun _ => ?_) (fun _ => ?_)))

theorem same_sendRecords {s t : State} {a0 a1} (h : Same s t) : Same s (sendRecords a0 a1 t) := by
  unfold sendRecords
  try dsimp only
  repeat' (first | with_reducible assumption | with_reducible apply same_sendData | with_reducible apply same_finish | (with_reducible refine same_foldl4 ?_ (fun u x h => ?_)) | (with_reducible refine same_foldl3 ?_ (fun u x h => ?_)) | (with_reducible refine same_foldl2 ?_ (fun u x h => ?_)) | (with_reducible refine same_foldl ?_ (fun u x h => ?_)) | split)

end Sys2Proof.Machine
end

