-- ==== Sys2Proof/Laws/Same/Snaps.lean ====
section
/-! SUPPORT. Operations of Machine/Snaps.lean that leave the control blocks (`Same`). -/

namespace Sys2Proof.Machine

theorem same_putSnap {s t : State} {a0 a1} (h : Same s t) : Same s (putSnap a0 a1 t).2 := by
  unfold putSnap
  try dsimp only
  repeat' (first | with_reducible assumption | with_reducible apply same_logItem | (with_reducible refine same_snd (by assumption) (same_logItem ?_)) | with_reducible apply same_onRpl)

theorem same_dropSnap {s t : State} {a0} (h : Same s t) : Same s (dropSnap a0 t).2 := by
  unfold dropSnap
  try dsimp only
  repeat' (first | with_reducible assumption | with_reducible apply same_logItem | (with_reducible refine same_snd (by assumption) (same_logItem ?_)) | with_reducible apply same_onRpl | split)

theorem same_addSnap {s t u : State} {a0 a1 a2 a3 a4 a5 a6 b c} (e : addSnap a0 a1 a2 a3 a4 a5 a6 t = some (b, c, u)) (h : Same s t) :
    Same s u := by
  unfold addSnap at e
  split at e
  · cases e
  · cases e
    exact same_putSnap (same_onRpl h)

theorem same_releaseWords {s t : State} {a0 a1} (h : Same s t) : Same s (releaseWords a0 a1 t) := by
  unfold releaseWords
  try dsimp only
  repeat' (first | with_reducible assumption | with_reducible apply same_shareDrop | (with_reducible refine same_foldl ?_ (fun u x h => ?_)) | (with_reducible refine same_ite (fun _ => ?_) (fun _ => ?_)))

theorem same_releasePage {s t : State} {a0 a1} (h : Same s t) : Same s (releasePage a0 a1 t) := by
  unfold releasePage
  try dsimp only
  repeat' (first | with_reducible assumption | with_reducible apply same_onRpl | with_reducible apply same_releaseWords | with_reducible apply same_logItem | (with_reducible refine same_snd (by assumption) (same_logItem ?_)) | with_reducible apply same_dropSnap | (with_reducible refine same_snd (by assumption) (same_dropSnap ?_)) | (with_reducible refine same_foldl4 ?_ (fun u x h => ?_)) | (with_reducible refine same_foldl3 ?_ (fun u x h => ?_)) | (with_reducible refine same_foldl2 ?_ (fun u x h => ?_)) | (with_reducible refine same_foldl ?_ (fun u x h => ?_)) | (with_reducible refine same_ite (fun _ => ?_) (fun _ => ?_)) | split)

theorem same_freeRows {s t : State} {a0 a1 a2 a3} (h : Same s t) : Same s (freeRows a0 a1 a2 a3 t) := by
  unfold freeRows
  try dsimp only
  repeat' (first | with_reducible assumption | with_reducible apply same_onSeg | with_reducible apply same_trimSegment | (with_reducible refine same_foldl4 ?_ (fun u x h => ?_)) | (with_reducible refine same_foldl3 ?_ (fun u x h => ?_)) | (with_reducible refine same_foldl2 ?_ (fun u x h => ?_)) | (with_reducible refine same_foldl ?_ (fun u x h => ?_)) | (with_reducible refine same_ite (fun _ => ?_) (fun _ => ?_)))

theorem same_dropOpenSeg {s t : State} {a0 a1 a2} (h : Same s t) : Same s (dropOpenSeg a0 a1 a2 t) := by
  unfold dropOpenSeg
  try dsimp only
  repeat' (first | with_reducible assumption | with_reducible apply same_trimSegment | with_reducible apply same_onSeg | (with_reducible refine same_ite (fun _ => ?_) (fun _ => ?_)) | split)

theorem same_deleteTake {s t : State} {a0 a1} (h : Same s t) : Same s (deleteTake a0 a1 t).2 := by
  unfold deleteTake
  try dsimp only
  repeat' (first | with_reducible assumption | (with_reducible refine same_onFtl ?_) | (with_reducible refine same_onFtl ?_ ?_) | exact fun x => ⟨x.1, x.2.1, tabDel_nodup x.2.2.1, fun e he => x.2.2.2 e (mem_tabDel he)⟩ | exact fun x => ⟨x.1, x.2.1, tabPut_nodup x.2.2.1, fun e he => (mem_tabPut he).elim (fun q => q ▸ by assumption) (x.2.2.2 e)⟩ | exact fun _ => canonical_empty rfl rfl | (intro hx; (try dsimp only); split <;> exact hx) | with_reducible apply same_onRpl | with_reducible apply same_leaveBlock | with_reducible apply same_dropOpenSeg | with_reducible apply same_freeRows | with_reducible apply same_logItem | (with_reducible refine same_snd (by assumption) (same_logItem ?_)) | (with_reducible refine same_foldl4 ?_ (fun u x h => ?_)) | (with_reducible refine same_foldl3 ?_ (fun u x h => ?_)) | (with_reducible refine same_foldl2 ?_ (fun u x h => ?_)) | (with_reducible refine same_foldl ?_ (fun u x h => ?_)) | (with_reducible refine same_ite (fun _ => ?_) (fun _ => ?_)) | (with_reducible refine same_ite2 (fun _ => ?_) (fun _ => ?_)) | split)

theorem same_endHold {s t : State} {a0} (h : Same s t) : Same s (endHold a0 t).2 := by
  unfold endHold
  try dsimp only
  repeat' (first | with_reducible assumption | with_reducible apply same_dropSnap | (with_reducible refine same_snd (by assumption) (same_dropSnap ?_)) | with_reducible apply same_onRpl | with_reducible apply same_freeRows | (with_reducible refine same_ite (fun _ => ?_) (fun _ => ?_)) | (with_reducible refine same_ite2 (fun _ => ?_) (fun _ => ?_)) | split)

theorem same_deleteSnap {s t : State} {a0} (h : Same s t) : Same s (deleteSnap a0 t).2 := by
  unfold deleteSnap
  try dsimp only
  repeat' (first | with_reducible assumption | with_reducible apply same_endHold | (with_reducible refine same_snd (by assumption) (same_endHold ?_)) | with_reducible apply same_putSnap | (with_reducible refine same_snd (by assumption) (same_putSnap ?_)) | with_reducible apply same_dropSnap | (with_reducible refine same_snd (by assumption) (same_dropSnap ?_)) | (with_reducible refine same_ite (fun _ => ?_) (fun _ => ?_)) | (with_reducible refine same_ite2 (fun _ => ?_) (fun _ => ?_)) | split)

end Sys2Proof.Machine
end

