-- ==== Sys2Proof/Laws/Same/Repl.lean ====
section
/-! SUPPORT. Operations of Machine/Repl.lean that leave the control blocks (`Same`). -/

namespace Sys2Proof.Machine

theorem same_onSource {s t : State} {a0 a1} (h : Same s t) : Same s (onSource a0 a1 t) := by
  unfold onSource
  try dsimp only
  repeat' (first | with_reducible assumption | with_reducible apply same_onRpl)

theorem same_onReplica {s t : State} {a0 a1} (h : Same s t) : Same s (onReplica a0 a1 t) := by
  unfold onReplica
  try dsimp only
  repeat' (first | with_reducible assumption | with_reducible apply same_onRpl)

theorem same_onTarget {s t : State} {a0 a1} (h : Same s t) : Same s (onTarget a0 a1 t) := by
  unfold onTarget
  try dsimp only
  repeat' (first | with_reducible assumption | with_reducible apply same_onRpl)

theorem same_addCtx {s t : State} {a0 a1} (h : Same s t) : Same s (addCtx a0 a1 t) := by
  unfold addCtx
  try dsimp only
  repeat' (first | with_reducible assumption | with_reducible apply same_onQpc)

theorem same_openTarget {s t : State} {a0} (h : Same s t) : Same s (openTarget a0 t) := by
  unfold openTarget
  try dsimp only
  repeat' (first | with_reducible assumption | with_reducible apply same_transmit | with_reducible apply same_onTarget | with_reducible apply same_addCtx | (with_reducible refine same_ite (fun _ => ?_) (fun _ => ?_)) | split)

theorem same_sessionEnd {s t : State} {a0} (h : Same s t) : Same s (sessionEnd a0 t) := by
  unfold sessionEnd
  try dsimp only
  repeat' (first | with_reducible assumption | with_reducible apply same_gcmEnd | with_reducible apply same_onSource | with_reducible apply same_onTarget | (with_reducible refine same_foldl ?_ (fun u x h => ?_)))

theorem same_replConnDown {s t : State} {a0} (h : Same s t) : Same s (replConnDown a0 t) := by
  unfold replConnDown
  try dsimp only
  repeat' (first | with_reducible assumption | with_reducible apply same_note | with_reducible apply same_sessionEnd)

theorem same_sendCapsule {s t : State} {a0 a1 a2 a3 a4 a5} (h : Same s t) : Same s (sendCapsule a0 a1 a2 a3 a4 a5 t).2 := by
  unfold sendCapsule
  try dsimp only
  repeat' (first | with_reducible assumption | with_reducible apply same_sendHead | with_reducible apply same_onTarget | split)

theorem same_createPoint {s t u : State} {a0 a1 a2 b c} (e : createPoint a0 a1 a2 t = some (b, c, u)) (h : Same s t) : Same s u := by
  unfold createPoint at e
  dsimp only at e
  split at e
  · cases e; exact h
  · split at e
    · cases e
    · rename_i q
      cases e
      exact same_onSource (same_addSnap q h)

theorem same_sendChunk {s t : State} {a0 a1 a2} (h : Same s t) : Same s (sendChunk a0 a1 a2 t) := by
  unfold sendChunk
  try dsimp only
  repeat' (first | with_reducible assumption | with_reducible apply same_sendCapsule | (with_reducible refine same_snd (by assumption) (same_sendCapsule ?_)) | with_reducible apply same_gcmStart | with_reducible apply same_onSource | (with_reducible refine same_foldl4 ?_ (fun u x h => ?_)) | (with_reducible refine same_foldl3 ?_ (fun u x h => ?_)) | (with_reducible refine same_foldl2 ?_ (fun u x h => ?_)) | (with_reducible refine same_foldl ?_ (fun u x h => ?_)) | (with_reducible refine same_ite (fun _ => ?_) (fun _ => ?_)) | split)

theorem same_startBuild {s t : State} {a0 a1 a2 a3 a4} (h : Same s t) : Same s (startBuild a0 a1 a2 a3 a4 t) := by
  unfold startBuild
  try dsimp only
  repeat' (first | with_reducible assumption | with_reducible apply same_onSource | with_reducible apply same_startJob | (with_reducible refine same_foldl4 ?_ (fun u x h => ?_)) | (with_reducible refine same_foldl3 ?_ (fun u x h => ?_)) | (with_reducible refine same_foldl2 ?_ (fun u x h => ?_)) | (with_reducible refine same_foldl ?_ (fun u x h => ?_)) | split)

theorem same_pumpSource {s t : State} {a0 a1 a2} (h : Same s t) : Same s (pumpSource a0 a1 a2 t) := by
  induction a2 generalizing t  with
  | zero =>
    unfold pumpSource
    repeat' (first | with_reducible assumption | with_reducible apply ih | with_reducible apply same_sendCapsule | (with_reducible refine same_snd (by assumption) (same_sendCapsule ?_)) | with_reducible apply same_onSource | with_reducible apply same_freeNat | (with_reducible refine same_snd (by assumption) (same_freeNat ?_)) | with_reducible apply same_cmpCount | with_reducible apply same_sendChunk | with_reducible apply same_startBuild | (with_reducible refine same_foldl4 ?_ (fun u x h => ?_)) | (with_reducible refine same_foldl3 ?_ (fun u x h => ?_)) | (with_reducible refine same_foldl2 ?_ (fun u x h => ?_)) | (with_reducible refine same_foldl ?_ (fun u x h => ?_)) | (with_reducible refine same_ite (fun _ => ?_) (fun _ => ?_)) | split | (cases ‹_ + 1 = Nat.succ _›))
  | succ _ ih =>
    unfold pumpSource
    try dsimp only
    repeat' (first | with_reducible assumption | with_reducible apply ih | with_reducible apply same_sendCapsule | (with_reducible refine same_snd (by assumption) (same_sendCapsule ?_)) | with_reducible apply same_onSource | with_reducible apply same_freeNat | (with_reducible refine same_snd (by assumption) (same_freeNat ?_)) | with_reducible apply same_cmpCount | with_reducible apply same_sendChunk | with_reducible apply same_startBuild | (with_reducible refine same_foldl4 ?_ (fun u x h => ?_)) | (with_reducible refine same_foldl3 ?_ (fun u x h => ?_)) | (with_reducible refine same_foldl2 ?_ (fun u x h => ?_)) | (with_reducible refine same_foldl ?_ (fun u x h => ?_)) | (with_reducible refine same_ite (fun _ => ?_) (fun _ => ?_)) | split | (cases ‹_ + 1 = Nat.succ _›))

theorem same_pumpSources {s t : State} (h : Same s t) : Same s (pumpSources t) := by
  unfold pumpSources
  try dsimp only
  repeat' (first | with_reducible assumption | with_reducible apply same_pumpSource | (with_reducible refine same_foldl ?_ (fun u x h => ?_)) | (with_reducible refine same_ite (fun _ => ?_) (fun _ => ?_)))

theorem same_replBlock {s t : State} {a0 a1 a2} (h : Same s t) : Same s (replBlock a0 a1 a2 t) := by
  unfold replBlock
  try dsimp only
  repeat' (first | with_reducible assumption | with_reducible apply same_onSource | (with_reducible refine same_ite (fun _ => ?_) (fun _ => ?_)))

theorem same_replLag {s t : State} {a0} (h : Same s t) : Same s (replLag a0 t) := by
  unfold replLag
  try dsimp only
  repeat' (first | with_reducible assumption | with_reducible apply same_raise | with_reducible apply same_onTarget | (with_reducible refine same_ite (fun _ => ?_) (fun _ => ?_)))

theorem same_replPut {s t : State} {a0 a1 a2 a3 a4 a5 a6} (h : Same s t) : Same s (replPut a0 a1 a2 a3 a4 a5 a6 t) := by
  unfold replPut
  try dsimp only
  repeat' (first | with_reducible assumption | with_reducible apply same_onIng | with_reducible apply same_failCmd | split)

end Sys2Proof.Machine
end

