-- ==== Sys2Proof/Laws/Same/Starts.lean ====
section
/-! SUPPORT. Operations of Machine/Starts.lean that leave the control blocks (`Same`). -/

namespace Sys2Proof.Machine

theorem same_viewFail {s t : State} {a0 a1} (h : Same s t) : Same s (viewFail a0 a1 t) := by
  unfold viewFail
  try dsimp only
  repeat' (first | with_reducible assumption | with_reducible apply same_finish | with_reducible apply same_note | with_reducible apply same_onRpl)

theorem same_reserve {s t : State} {a0 a1 a2} (h : Same s t) : Same s (reserve a0 a1 a2 t) := by
  unfold reserve
  try dsimp only
  repeat' (first | with_reducible assumption | with_reducible apply same_onTop)

theorem same_startWrite {s t : State} {a0 a1} (h : Same s t) : Same s (startWrite a0 a1 t) := by
  unfold startWrite
  try dsimp only
  repeat' (first | with_reducible assumption | with_reducible apply same_viewFail | with_reducible apply same_finish | with_reducible apply same_nameWindows | with_reducible apply same_reserve | (with_reducible refine same_ite (fun _ => ?_) (fun _ => ?_)) | split)

theorem same_startAppend {s t : State} {a0 a1} (h : Same s t) : Same s (startAppend a0 a1 t) := by
  unfold startAppend
  try dsimp only
  repeat' (first | with_reducible assumption | with_reducible apply same_takeSegment | (with_reducible refine same_snd (by assumption) (same_takeSegment ?_)) | with_reducible apply same_finish | with_reducible apply same_nameWindows | with_reducible apply same_onTake | with_reducible apply same_reserve | (with_reducible refine same_ite (fun _ => ?_) (fun _ => ?_)) | split)

theorem same_startTrim {s t : State} {a0} (h : Same s t) : Same s (startTrim a0 t) := by
  unfold startTrim
  try dsimp only
  repeat' (first | with_reducible assumption | with_reducible apply same_viewFail | with_reducible apply same_onCmd | with_reducible apply same_onIng | with_reducible apply same_supersede | (with_reducible refine same_foldl4 ?_ (fun u x h => ?_)) | (with_reducible refine same_foldl3 ?_ (fun u x h => ?_)) | (with_reducible refine same_foldl2 ?_ (fun u x h => ?_)) | (with_reducible refine same_foldl ?_ (fun u x h => ?_)) | (with_reducible refine same_ite (fun _ => ?_) (fun _ => ?_)) | split)

theorem same_awaitLog {s t : State} {a0 a1} (h : Same s t) : Same s (awaitLog a0 a1 t) := by
  unfold awaitLog
  try dsimp only
  repeat' (first | with_reducible assumption | with_reducible apply same_chg)

theorem same_startRead {s t : State} {a0 a1} (h : Same s t) : Same s (startRead a0 a1 t) := by
  unfold startRead
  try dsimp only
  repeat' (first | with_reducible assumption | with_reducible apply same_startReads | with_reducible apply same_countHits | (with_reducible refine same_ite (fun _ => ?_) (fun _ => ?_)) | split)

theorem same_startFrameRead {s t : State} {a0 a1 a2} (h : Same s t) : Same s (startFrameRead a0 a1 a2 t) := by
  unfold startFrameRead
  try dsimp only
  repeat' (first | with_reducible assumption | with_reducible apply same_finish | with_reducible apply same_startReads | with_reducible apply same_countHits | split)

theorem same_discardRelease {s t : State} {a0} (h : Same s t) : Same s (discardRelease a0 t) := by
  unfold discardRelease
  try dsimp only
  repeat' (first | with_reducible assumption | with_reducible apply same_finish | with_reducible apply same_onCmd)

theorem same_release {s t : State} {a0} (h : Same s t) : Same s (release a0 t) := by
  unfold release
  try dsimp only
  repeat' (first | with_reducible assumption | with_reducible apply same_discardRelease | with_reducible apply same_mirrorWin | with_reducible apply same_onCmd | with_reducible apply same_finish | with_reducible apply same_chg | split)

theorem same_abort {s t : State} {a0} (h : Same s t) : Same s (abort a0 t) := by
  unfold abort
  try dsimp only
  repeat' (first | with_reducible assumption | with_reducible apply same_finish | with_reducible apply same_tryEnd | with_reducible apply same_chg | with_reducible apply same_dropWindows | (with_reducible refine same_ite (fun _ => ?_) (fun _ => ?_)) | split)

theorem same_orphanStatus {s t : State} {a0} (h : Same s t) : Same s (orphanStatus a0 t) := by
  unfold orphanStatus
  try dsimp only
  repeat' (first | with_reducible assumption | with_reducible apply same_finish | with_reducible apply same_sendRecords | with_reducible apply same_onCmd | (with_reducible refine same_foldl4 ?_ (fun u x h => ?_)) | (with_reducible refine same_foldl3 ?_ (fun u x h => ?_)) | (with_reducible refine same_foldl2 ?_ (fun u x h => ?_)) | (with_reducible refine same_foldl ?_ (fun u x h => ?_)) | (with_reducible refine same_ite (fun _ => ?_) (fun _ => ?_)) | split)

theorem same_startAdmin {s t : State} {a0} (h : Same s t) : Same s (startAdmin a0 t) := by
  unfold startAdmin
  try dsimp only
  repeat' (first | with_reducible assumption | with_reducible apply same_finish | with_reducible apply same_abort | with_reducible apply same_orphanStatus | split)

theorem same_startCmd {s t : State} {a0} (h : Same s t) : Same s (startCmd a0 t) := by
  unfold startCmd
  try dsimp only
  repeat' (first | with_reducible assumption | with_reducible apply same_chg | with_reducible apply same_startAdmin | with_reducible apply same_finish | with_reducible apply same_startRead | with_reducible apply same_startWrite | with_reducible apply same_startTrim | with_reducible apply same_logItem | (with_reducible refine same_snd (by assumption) (same_logItem ?_)) | with_reducible apply same_awaitLog | with_reducible apply same_startAppend | with_reducible apply same_startFrameRead | with_reducible apply same_deleteTake | (with_reducible refine same_snd (by assumption) (same_deleteTake ?_)) | with_reducible apply same_onSource | (with_reducible refine same_addSnap (by assumption) ?_) | with_reducible apply same_deleteSnap | (with_reducible refine same_snd (by assumption) (same_deleteSnap ?_)) | with_reducible apply same_startReads | with_reducible apply same_sendRecords | (with_reducible refine same_createPoint (by assumption) ?_) | with_reducible apply same_onReplica | (with_reducible refine same_onFtl ?_) | (with_reducible refine same_onFtl ?_ ?_) | exact fun x => ⟨x.1, x.2.1, tabDel_nodup x.2.2.1, fun e he => x.2.2.2 e (mem_tabDel he)⟩ | exact fun x => ⟨x.1, x.2.1, tabPut_nodup x.2.2.1, fun e he => (mem_tabPut he).elim (fun q => q ▸ by assumption) (x.2.2.2 e)⟩ | exact fun _ => canonical_empty rfl rfl | (intro hx; (try dsimp only); split <;> exact hx) | with_reducible apply same_nameWindows | with_reducible apply same_onTake | with_reducible apply same_release | (with_reducible refine same_ite (fun _ => ?_) (fun _ => ?_)) | split)

end Sys2Proof.Machine
end

