-- ==== Sys2Proof/Laws/Same/Upkeep.lean ====
section
/-! SUPPORT. Operations of Machine/Upkeep.lean that leave the control blocks (`Same`). -/

namespace Sys2Proof.Machine

theorem same_startCollect {s t : State} {a0} (h : Same s t) : Same s (startCollect a0 t) := by
  unfold startCollect
  try dsimp only
  repeat' (first | with_reducible assumption | with_reducible apply same_onTop | (with_reducible refine same_ite (fun _ => ?_) (fun _ => ?_)) | split)

theorem same_onCollect {s t : State} {a0 a1} (h : Same s t) : Same s (onCollect a0 a1 t) := by
  unfold onCollect
  try dsimp only
  repeat' (first | with_reducible assumption | with_reducible apply same_onTop)

theorem same_gcForm {s t : State} {a0 a1 a2} (h : Same s t) : Same s (gcForm a0 a1 a2 t) := by
  unfold gcForm
  try dsimp only
  repeat' (first | with_reducible assumption | with_reducible apply same_onCollect | with_reducible apply same_setWord | (with_reducible refine same_snd (by assumption) (same_setWord ?_)) | with_reducible apply same_onPar | (with_reducible refine same_foldl4 ?_ (fun u x h => ?_)) | (with_reducible refine same_foldl3 ?_ (fun u x h => ?_)) | (with_reducible refine same_foldl2 ?_ (fun u x h => ?_)) | (with_reducible refine same_foldl ?_ (fun u x h => ?_)) | split)

theorem same_gcSegment {s t : State} {a0} (h : Same s t) : Same s (gcSegment a0 t).2 := by
  unfold gcSegment
  try dsimp only
  repeat' (first | with_reducible assumption | with_reducible apply same_onTop | with_reducible apply same_openSegment | split)

theorem same_placeCopies {s t : State} {a0 a1} (h : Same s t) : Same s (placeCopies a0 a1 t) := by
  unfold placeCopies
  try dsimp only
  repeat' (first | with_reducible assumption | with_reducible apply same_jnlRoom | (with_reducible refine same_snd (by assumption) (same_jnlRoom ?_)) | with_reducible apply same_gcSegment | (with_reducible refine same_snd (by assumption) (same_gcSegment ?_)) | with_reducible apply same_completeRow | with_reducible apply same_onCollect | (with_reducible refine same_foldl4 ?_ (fun u x h => ?_)) | (with_reducible refine same_foldl3 ?_ (fun u x h => ?_)) | (with_reducible refine same_foldl2 ?_ (fun u x h => ?_)) | (with_reducible refine same_foldl ?_ (fun u x h => ?_)) | (with_reducible refine same_ite (fun _ => ?_) (fun _ => ?_)) | split)

theorem same_applyMove {s t : State} {a0 a1} (h : Same s t) : Same s (applyMove a0 a1 t) := by
  unfold applyMove
  try dsimp only
  repeat' (first | with_reducible assumption | (with_reducible refine same_onFtl ?_) | (with_reducible refine same_onFtl ?_ ?_) | exact fun x => ⟨x.1, x.2.1, tabDel_nodup x.2.2.1, fun e he => x.2.2.2 e (mem_tabDel he)⟩ | exact fun x => ⟨x.1, x.2.1, tabPut_nodup x.2.2.1, fun e he => (mem_tabPut he).elim (fun q => q ▸ by assumption) (x.2.2.2 e)⟩ | exact fun _ => canonical_empty rfl rfl | (intro hx; (try dsimp only); split <;> exact hx) | with_reducible apply same_onCollect | with_reducible apply same_logItem | (with_reducible refine same_snd (by assumption) (same_logItem ?_)) | with_reducible apply same_addValid | with_reducible apply same_putWord | with_reducible apply same_fprMove | split)

theorem same_collectRow {s t : State} {a0 a1} (h : Same s t) : Same s (collectRow a0 a1 t) := by
  unfold collectRow
  try dsimp only
  repeat' (first | with_reducible assumption | with_reducible apply same_startJob | with_reducible apply same_onCollect | (with_reducible refine same_foldl ?_ (fun u x h => ?_)) | split)

theorem same_stepCollect {s t : State} {a0 a1} (h : Same s t) : Same s (stepCollect a0 a1 t) := by
  induction a1 generalizing t  with
  | zero =>
    unfold stepCollect
    repeat' (first | with_reducible assumption | with_reducible apply ih | with_reducible apply same_onTop | with_reducible apply same_onCollect | with_reducible apply same_placeCopies | with_reducible apply same_collectRow | with_reducible apply same_trimSegment | (with_reducible refine same_ite (fun _ => ?_) (fun _ => ?_)) | split | (cases ‹_ + 1 = Nat.succ _›))
  | succ _ ih =>
    unfold stepCollect
    try dsimp only
    repeat' (first | with_reducible assumption | with_reducible apply ih | with_reducible apply same_onTop | with_reducible apply same_onCollect | with_reducible apply same_placeCopies | with_reducible apply same_collectRow | with_reducible apply same_trimSegment | (with_reducible refine same_ite (fun _ => ?_) (fun _ => ?_)) | split | (cases ‹_ + 1 = Nat.succ _›))

theorem same_onReloc {s t : State} {a0 a1 a2} (h : Same s t) : Same s (onReloc a0 a1 a2 t) := by
  unfold onReloc
  try dsimp only
  repeat' (first | with_reducible assumption | (with_reducible refine same_onFtl ?_) | (with_reducible refine same_onFtl ?_ ?_) | exact fun x => ⟨x.1, x.2.1, tabDel_nodup x.2.2.1, fun e he => x.2.2.2 e (mem_tabDel he)⟩ | exact fun x => ⟨x.1, x.2.1, tabPut_nodup x.2.2.1, fun e he => (mem_tabPut he).elim (fun q => q ▸ by assumption) (x.2.2.2 e)⟩ | exact fun _ => canonical_empty rfl rfl | (intro hx; (try dsimp only); split <;> exact hx) | (with_reducible refine same_ite (fun _ => ?_) (fun _ => ?_)))

theorem same_startReloc {s t : State} {a0 a1 a2 a3 a4} (h : Same s t) : Same s (startReloc a0 a1 a2 a3 a4 t) := by
  unfold startReloc
  try dsimp only
  repeat' (first | with_reducible assumption | with_reducible apply same_onReloc | with_reducible apply same_takeSpare | (with_reducible refine same_snd (by assumption) (same_takeSpare ?_)) | with_reducible apply same_onBlk | (with_reducible refine same_onFtl ?_) | (with_reducible refine same_onFtl ?_ ?_) | exact fun x => ⟨x.1, x.2.1, tabDel_nodup x.2.2.1, fun e he => x.2.2.2 e (mem_tabDel he)⟩ | exact fun x => ⟨x.1, x.2.1, tabPut_nodup x.2.2.1, fun e he => (mem_tabPut he).elim (fun q => q ▸ by assumption) (x.2.2.2 e)⟩ | exact fun _ => canonical_empty rfl rfl | (intro hx; (try dsimp only); split <;> exact hx) | (with_reducible refine same_ite (fun _ => ?_) (fun _ => ?_)) | split)

theorem same_relocProgram {s t : State} {a0 a1 a2 a3} (h : Same s t) : Same s (relocProgram a0 a1 a2 a3 t) := by
  unfold relocProgram
  try dsimp only
  repeat' (first | with_reducible assumption | with_reducible apply same_newId | (with_reducible refine same_snd (by assumption) (same_newId ?_)) | with_reducible apply same_programBlock | with_reducible apply same_onPar | split)

theorem same_relocRead {s t : State} {a0 a1 a2 a3 a4} (h : Same s t) : Same s (relocRead a0 a1 a2 a3 a4 t) := by
  unfold relocRead
  try dsimp only
  repeat' (first | with_reducible assumption | with_reducible apply same_relocProgram | split)

theorem same_relocDone {s t : State} {a0 a1} (h : Same s t) : Same s (relocDone a0 a1 t) := by
  unfold relocDone
  try dsimp only
  repeat' (first | with_reducible assumption | with_reducible apply same_onReloc | (with_reducible refine same_ite (fun _ => ?_) (fun _ => ?_)) | split)

theorem same_relocBind {s t : State} {a0 a1} (h : Same s t) : Same s (relocBind a0 a1 t) := by
  unfold relocBind
  try dsimp only
  repeat' (first | with_reducible assumption | with_reducible apply same_onBlk | with_reducible apply same_logItem | (with_reducible refine same_snd (by assumption) (same_logItem ?_)) | with_reducible apply same_onReloc | (with_reducible refine same_ite (fun _ => ?_) (fun _ => ?_)) | split)

theorem same_relocEnd {s t : State} {a0 a1} (h : Same s t) : Same s (relocEnd a0 a1 t) := by
  unfold relocEnd
  try dsimp only
  repeat' (first | with_reducible assumption | (with_reducible refine same_onFtl ?_) | (with_reducible refine same_onFtl ?_ ?_) | exact fun x => ⟨x.1, x.2.1, tabDel_nodup x.2.2.1, fun e he => x.2.2.2 e (mem_tabDel he)⟩ | exact fun x => ⟨x.1, x.2.1, tabPut_nodup x.2.2.1, fun e he => (mem_tabPut he).elim (fun q => q ▸ by assumption) (x.2.2.2 e)⟩ | exact fun _ => canonical_empty rfl rfl | (intro hx; (try dsimp only); split <;> exact hx) | with_reducible apply same_onBlk | with_reducible apply same_retireBlock | with_reducible apply same_eraseBlock | (with_reducible refine same_snd (by assumption) (same_eraseBlock ?_)) | with_reducible apply same_pageDone | (with_reducible refine same_foldl4 ?_ (fun u x h => ?_)) | (with_reducible refine same_foldl3 ?_ (fun u x h => ?_)) | (with_reducible refine same_foldl2 ?_ (fun u x h => ?_)) | (with_reducible refine same_foldl ?_ (fun u x h => ?_)) | (with_reducible refine same_ite (fun _ => ?_) (fun _ => ?_)))

theorem same_stepReloc {s t : State} {a0} (h : Same s t) : Same s (stepReloc a0 t) := by
  unfold stepReloc
  try dsimp only
  repeat' (first | with_reducible assumption | with_reducible apply same_relocEnd | with_reducible apply same_startJob | with_reducible apply same_onReloc | with_reducible apply same_relocProgram | with_reducible apply same_relocBind | (with_reducible refine same_ite (fun _ => ?_) (fun _ => ?_)) | split)

theorem same_startRebuild {s t : State} {a0 a1 a2} (h : Same s t) : Same s (startRebuild a0 a1 a2 t) := by
  unfold startRebuild
  try dsimp only
  repeat' (first | with_reducible assumption | with_reducible apply same_jnlSpan | (with_reducible refine same_snd (by assumption) (same_jnlSpan ?_)) | with_reducible apply same_raise | with_reducible apply same_recomputeHealth | with_reducible apply same_onPar | with_reducible apply same_onAdp | split)

theorem same_checkRebuilds {s t : State} (h : Same s t) : Same s (checkRebuilds t) := by
  unfold checkRebuilds
  try dsimp only
  repeat' (first | with_reducible assumption | with_reducible apply same_closeRow | with_reducible apply same_startRebuild | with_reducible apply same_note | with_reducible apply same_onPar | (with_reducible refine same_foldl4 ?_ (fun u x h => ?_)) | (with_reducible refine same_foldl3 ?_ (fun u x h => ?_)) | (with_reducible refine same_foldl2 ?_ (fun u x h => ?_)) | (with_reducible refine same_foldl ?_ (fun u x h => ?_)) | (with_reducible refine same_ite (fun _ => ?_) (fun _ => ?_)) | split)

theorem same_rebuildRow {s t : State} {a0 a1} (h : Same s t) : Same s (rebuildRow a0 a1 t) := by
  unfold rebuildRow
  try dsimp only
  repeat' (first | with_reducible assumption | with_reducible apply same_onBlk | with_reducible apply same_exchangeBlock | with_reducible apply same_newId | (with_reducible refine same_snd (by assumption) (same_newId ?_)) | with_reducible apply same_issueRow | with_reducible apply same_setWord | (with_reducible refine same_snd (by assumption) (same_setWord ?_)) | with_reducible apply same_raise | with_reducible apply same_onPar | (with_reducible refine same_foldl4 ?_ (fun u x h => ?_)) | (with_reducible refine same_foldl3 ?_ (fun u x h => ?_)) | (with_reducible refine same_foldl2 ?_ (fun u x h => ?_)) | (with_reducible refine same_foldl ?_ (fun u x h => ?_)) | (with_reducible refine same_ite (fun _ => ?_) (fun _ => ?_)) | split)

theorem same_rebuildDone {s t : State} {a0} (h : Same s t) : Same s (rebuildDone a0 t) := by
  unfold rebuildDone
  try dsimp only
  repeat' (first | with_reducible assumption | with_reducible apply same_jnlSpan | (with_reducible refine same_snd (by assumption) (same_jnlSpan ?_)) | with_reducible apply same_onPar | split)

theorem same_regenInto {s t : State} {a0 a1 a2 a3 a4 a5 a6 a7 a8} (h : Same s t) : Same s (regenInto a0 a1 a2 a3 a4 a5 a6 a7 a8 t) := by
  unfold regenInto
  try dsimp only
  repeat' (first | with_reducible assumption | with_reducible apply same_exchangeBlock | with_reducible apply same_jnlIntent | with_reducible apply same_newId | (with_reducible refine same_snd (by assumption) (same_newId ?_)) | with_reducible apply same_programVersion | (with_reducible refine same_snd3 (by assumption) (same_programVersion ?_)) | with_reducible apply same_onPar | (with_reducible refine same_foldl4 ?_ (fun u x h => ?_)) | (with_reducible refine same_foldl3 ?_ (fun u x h => ?_)) | (with_reducible refine same_foldl2 ?_ (fun u x h => ?_)) | (with_reducible refine same_foldl ?_ (fun u x h => ?_)) | (with_reducible refine same_ite (fun _ => ?_) (fun _ => ?_)) | split)

theorem same_regenVersion {s t : State} {a0 a1 a2 a3} (h : Same s t) : Same s (regenVersion a0 a1 a2 a3 t) := by
  unfold regenVersion
  try dsimp only
  repeat' (first | with_reducible assumption | with_reducible apply same_rewriteSegment | (with_reducible refine same_snd (by assumption) (same_rewriteSegment ?_)) | with_reducible apply same_closeRow | with_reducible apply same_regenInto | (with_reducible refine same_ite (fun _ => ?_) (fun _ => ?_)) | split)

theorem same_stepRebuild {s t : State} {a0 a1} (h : Same s t) : Same s (stepRebuild a0 a1 t) := by
  unfold stepRebuild
  try dsimp only
  repeat' (first | with_reducible assumption | with_reducible apply same_onPar | with_reducible apply same_startRebuild | with_reducible apply same_onJnl | with_reducible apply same_note | with_reducible apply same_regenVersion | with_reducible apply same_jnlSpan | (with_reducible refine same_snd (by assumption) (same_jnlSpan ?_)) | with_reducible apply same_recomputeHealth | with_reducible apply same_raise | with_reducible apply same_startJob | (with_reducible refine same_foldl4 ?_ (fun u x h => ?_)) | (with_reducible refine same_foldl3 ?_ (fun u x h => ?_)) | (with_reducible refine same_foldl2 ?_ (fun u x h => ?_)) | (with_reducible refine same_foldl ?_ (fun u x h => ?_)) | (with_reducible refine same_ite (fun _ => ?_) (fun _ => ?_)) | split)

theorem same_resyncPage {s t : State} {a0 a1} (h : Same s t) : Same s (resyncPage a0 a1 t) := by
  unfold resyncPage
  try dsimp only
  repeat' (first | with_reducible assumption | with_reducible apply same_newId | (with_reducible refine same_snd (by assumption) (same_newId ?_)) | with_reducible apply same_issueRow | with_reducible apply same_onPar | split)

theorem same_stepResync {s t : State} {a0 a1} (h : Same s t) : Same s (stepResync a0 a1 t) := by
  unfold stepResync
  try dsimp only
  repeat' (first | with_reducible assumption | with_reducible apply same_newId | (with_reducible refine same_snd (by assumption) (same_newId ?_)) | with_reducible apply same_advanceJob | with_reducible apply same_onPar | with_reducible apply same_recomputeHealth | (with_reducible refine same_ite (fun _ => ?_) (fun _ => ?_)) | split)

theorem same_patrolRepair {s t : State} {a0 a1 a2} (h : Same s t) : Same s (patrolRepair a0 a1 a2 t) := by
  unfold patrolRepair
  try dsimp only
  repeat' (first | with_reducible assumption | with_reducible apply same_note | with_reducible apply same_onPar | with_reducible apply same_startReloc | (with_reducible refine same_ite (fun _ => ?_) (fun _ => ?_)) | split)

theorem same_patrolCheck {s t : State} {a0 a1 a2 a3 a4} (h : Same s t) : Same s (patrolCheck a0 a1 a2 a3 a4 t) := by
  unfold patrolCheck
  try dsimp only
  repeat' (first | with_reducible assumption | with_reducible apply same_patrolRepair | with_reducible apply same_note | with_reducible apply same_onPar | (with_reducible refine same_foldl4 ?_ (fun u x h => ?_)) | (with_reducible refine same_foldl3 ?_ (fun u x h => ?_)) | (with_reducible refine same_foldl2 ?_ (fun u x h => ?_)) | (with_reducible refine same_foldl ?_ (fun u x h => ?_)) | (with_reducible refine same_ite (fun _ => ?_) (fun _ => ?_)) | split)

theorem same_patrolStep {s t : State} (h : Same s t) : Same s (patrolStep t) := by
  unfold patrolStep
  try dsimp only
  repeat' (first | with_reducible assumption | with_reducible apply same_startJob | with_reducible apply same_onPar | with_reducible apply same_note | (with_reducible refine same_ite (fun _ => ?_) (fun _ => ?_)) | split)

end Sys2Proof.Machine
end

