-- ==== Sys2Proof/Laws/Same/Progress.lean ====
section
/-! SUPPORT. Operations of Machine/Progress.lean that leave the control blocks (`Same`). -/

namespace Sys2Proof.Machine

theorem same_rowOver {s t : State} {a0} (h : Same s t) : Same s (rowOver a0 t) := by
  unfold rowOver
  try dsimp only
  repeat' (first | with_reducible assumption | with_reducible apply same_onPar | with_reducible apply same_fn_onBuf | with_reducible apply same_closeRow | with_reducible apply same_applyMove | (with_reducible refine same_onFtl ?_) | (with_reducible refine same_onFtl ?_ ?_) | exact fun x => ⟨x.1, x.2.1, tabDel_nodup x.2.2.1, fun e he => x.2.2.2 e (mem_tabDel he)⟩ | exact fun x => ⟨x.1, x.2.1, tabPut_nodup x.2.2.1, fun e he => (mem_tabPut he).elim (fun q => q ▸ by assumption) (x.2.2.2 e)⟩ | exact fun _ => canonical_empty rfl rfl | (intro hx; (try dsimp only); split <;> exact hx) | with_reducible apply same_onJnl | with_reducible apply same_jnlCommitted | with_reducible apply same_relocDone | with_reducible apply same_rebuildDone | (with_reducible refine same_foldl4 ?_ (fun u x h => ?_)) | (with_reducible refine same_foldl3 ?_ (fun u x h => ?_)) | (with_reducible refine same_foldl2 ?_ (fun u x h => ?_)) | (with_reducible refine same_foldl ?_ (fun u x h => ?_)) | (with_reducible refine same_ite (fun _ => ?_) (fun _ => ?_)) | split)

theorem same_settleRows {s t : State} (h : Same s t) : Same s (settleRows t) := by
  unfold settleRows
  try dsimp only
  repeat' (first | with_reducible assumption | with_reducible apply same_rowOver | (with_reducible refine same_foldl ?_ (fun u x h => ?_)))

theorem same_settleFrames {s t : State} (h : Same s t) : Same s (settleFrames t) := by
  unfold settleFrames
  try dsimp only
  repeat' (first | with_reducible assumption | with_reducible apply same_onIng | (with_reducible refine same_ite (fun _ => ?_) (fun _ => ?_)) | split)

theorem same_logFrames {s t : State} (h : Same s t) : Same s (logFrames t) := by
  unfold logFrames
  try dsimp only
  repeat' (first | with_reducible assumption | with_reducible apply same_logItem | (with_reducible refine same_snd (by assumption) (same_logItem ?_)) | with_reducible apply same_onIng | (with_reducible refine same_foldl ?_ (fun u x h => ?_)) | (with_reducible refine same_ite (fun _ => ?_) (fun _ => ?_)) | split)

theorem same_mapBlock {s t : State} {a0} (h : Same s t) : Same s (mapBlock a0 t) := by
  unfold mapBlock
  try dsimp only
  repeat' (first | with_reducible assumption | with_reducible apply same_setWord | (with_reducible refine same_snd (by assumption) (same_setWord ?_)) | with_reducible apply same_fn_onBuf | with_reducible apply same_fpInsert | (with_reducible refine same_ite (fun _ => ?_) (fun _ => ?_)) | split)

theorem same_mapBlocks {s t : State} {a0} (h : Same s t) : Same s (mapBlocks a0 t) := by
  induction a0 generalizing t  with
  | zero =>
    unfold mapBlocks
    repeat' (first | with_reducible assumption | with_reducible apply ih | with_reducible apply same_mapBlock | (with_reducible refine same_foldl ?_ (fun u x h => ?_)) | (with_reducible refine same_ite (fun _ => ?_) (fun _ => ?_)) | split | (cases ‹_ + 1 = Nat.succ _›))
  | succ _ ih =>
    unfold mapBlocks
    try dsimp only
    repeat' (first | with_reducible assumption | with_reducible apply ih | with_reducible apply same_mapBlock | (with_reducible refine same_foldl ?_ (fun u x h => ?_)) | (with_reducible refine same_ite (fun _ => ?_) (fun _ => ?_)) | split | (cases ‹_ + 1 = Nat.succ _›))

theorem same_releaseBlocks {s t : State} (h : Same s t) : Same s (releaseBlocks t) := by
  unfold releaseBlocks
  try dsimp only
  repeat' (first | with_reducible assumption | (with_reducible refine same_mirrorMap ?_ (fun u h => ?_)) | with_reducible apply same_plSend | with_reducible apply same_leaveBlock | (with_reducible refine same_foldl ?_ (fun u x h => ?_)) | (with_reducible refine same_ite (fun _ => ?_) (fun _ => ?_)) | split)

theorem same_retireRecords {s t : State} (h : Same s t) : Same s (retireRecords t) := by
  unfold retireRecords
  try dsimp only
  repeat' (first | with_reducible assumption | with_reducible apply same_jnlRecord | (with_reducible refine same_snd (by assumption) (same_jnlRecord ?_)) | with_reducible apply same_dropRewrites | (with_reducible refine same_foldl4 ?_ (fun u x h => ?_)) | (with_reducible refine same_foldl3 ?_ (fun u x h => ?_)) | (with_reducible refine same_foldl2 ?_ (fun u x h => ?_)) | (with_reducible refine same_foldl ?_ (fun u x h => ?_)) | split)

theorem same_reclaimMap {s t : State} {a0 a1} (h : Same s t) : Same s (reclaimMap a0 a1 t) := by
  unfold reclaimMap
  try dsimp only
  repeat' (first | with_reducible assumption | with_reducible apply same_onTop | with_reducible apply same_trimSegment | with_reducible apply same_onCollect | with_reducible apply same_logItems | (with_reducible refine same_ite (fun _ => ?_) (fun _ => ?_)) | split)

theorem same_reclaimJournal {s t : State} {a0} (h : Same s t) : Same s (reclaimJournal a0 t) := by
  unfold reclaimJournal
  try dsimp only
  repeat' (first | with_reducible assumption | with_reducible apply same_onTop | with_reducible apply same_trimSegment | with_reducible apply same_onCollect | with_reducible apply same_spillNow | (with_reducible refine same_ite (fun _ => ?_) (fun _ => ?_)) | split)

theorem same_settleMedia {s t : State} (h : Same s t) : Same s (settleMedia t) := by
  unfold settleMedia
  try dsimp only
  repeat' (first | with_reducible assumption | with_reducible apply same_freeSegment | with_reducible apply same_stepCollect | with_reducible apply same_stepReloc | with_reducible apply same_stepRebuild | with_reducible apply same_stepResync | with_reducible apply same_checkRebuilds | with_reducible apply same_reclaimMap | with_reducible apply same_reclaimJournal | with_reducible apply same_mapFullAlarm | with_reducible apply same_checkHomes | with_reducible apply same_spaceAlarms | (with_reducible refine same_foldl4 ?_ (fun u x h => ?_)) | (with_reducible refine same_foldl3 ?_ (fun u x h => ?_)) | (with_reducible refine same_foldl2 ?_ (fun u x h => ?_)) | (with_reducible refine same_foldl ?_ (fun u x h => ?_)) | (with_reducible refine same_ite (fun _ => ?_) (fun _ => ?_)))

theorem same_applyMsgs {s t : State} {a0 a1 a2} (h : Same s t) : Same s (applyMsgs a0 a1 a2 t) := by
  unfold applyMsgs
  try dsimp only
  repeat' (first | with_reducible assumption | with_reducible apply same_onTake | with_reducible apply same_replPut | with_reducible apply same_joinDraft | (with_reducible refine same_foldl4 ?_ (fun u x h => ?_)) | (with_reducible refine same_foldl3 ?_ (fun u x h => ?_)) | (with_reducible refine same_foldl2 ?_ (fun u x h => ?_)) | (with_reducible refine same_foldl ?_ (fun u x h => ?_)) | (with_reducible refine same_ite (fun _ => ?_) (fun _ => ?_)) | split)

theorem same_applyChunk {s t : State} {a0} (h : Same s t) : Same s (applyChunk a0 t) := by
  unfold applyChunk
  try dsimp only
  repeat' (first | with_reducible assumption | with_reducible apply same_failCmd | with_reducible apply same_chg | with_reducible apply same_onIng | with_reducible apply same_dirtyDrop | with_reducible apply same_applyMsgs | with_reducible apply same_dirtyAdd | with_reducible apply same_onReplica | (with_reducible refine same_ite (fun _ => ?_) (fun _ => ?_)) | split)

theorem same_sealTake {s t : State} {a0 a1 a2} (h : Same s t) : Same s (sealTake a0 a1 a2 t) := by
  unfold sealTake
  try dsimp only
  repeat' (first | with_reducible assumption | with_reducible apply same_flushTake | with_reducible apply same_onTake | with_reducible apply same_onSeg | with_reducible apply same_logItems | (with_reducible refine same_createPoint (by assumption) ?_) | (with_reducible refine same_foldl4 ?_ (fun u x h => ?_)) | (with_reducible refine same_foldl3 ?_ (fun u x h => ?_)) | (with_reducible refine same_foldl2 ?_ (fun u x h => ?_)) | (with_reducible refine same_foldl ?_ (fun u x h => ?_)) | (with_reducible refine same_ite (fun _ => ?_) (fun _ => ?_)) | split)

theorem same_endPoint {s t : State} {a0 a1} (h : Same s t) : Same s (endPoint a0 a1 t) := by
  unfold endPoint
  try dsimp only
  repeat' (first | with_reducible assumption | with_reducible apply same_sealTake | with_reducible apply same_deleteSnap | (with_reducible refine same_snd (by assumption) (same_deleteSnap ?_)) | (with_reducible refine same_addSnap (by assumption) ?_) | with_reducible apply same_finish | with_reducible apply same_note | with_reducible apply same_onReplica | (with_reducible refine same_ite (fun _ => ?_) (fun _ => ?_)) | split)

theorem same_promote {s t : State} {a0 a1} (h : Same s t) : Same s (promote a0 a1 t) := by
  unfold promote
  try dsimp only
  repeat' (first | with_reducible assumption | with_reducible apply same_leaveBlock | with_reducible apply same_deleteTake | (with_reducible refine same_snd (by assumption) (same_deleteTake ?_)) | with_reducible apply same_setWord | (with_reducible refine same_snd (by assumption) (same_setWord ?_)) | with_reducible apply same_shareAdd | with_reducible apply same_deleteSnap | (with_reducible refine same_snd (by assumption) (same_deleteSnap ?_)) | with_reducible apply same_awaitLog | with_reducible apply same_onReplica | (with_reducible refine same_foldl4 ?_ (fun u x h => ?_)) | (with_reducible refine same_foldl3 ?_ (fun u x h => ?_)) | (with_reducible refine same_foldl2 ?_ (fun u x h => ?_)) | (with_reducible refine same_foldl ?_ (fun u x h => ?_)) | (with_reducible refine same_ite (fun _ => ?_) (fun _ => ?_)) | split)

theorem same_stepCmd {s t : State} {a0} (h : Same s t) : Same s (stepCmd a0 t) := by
  unfold stepCmd
  try dsimp only
  repeat' (first | with_reducible assumption | with_reducible apply same_tryEnd | with_reducible apply same_startCmd | with_reducible apply same_checkWrite | with_reducible apply same_applyChunk | with_reducible apply same_nameWindows | with_reducible apply same_checkRead | with_reducible apply same_finish | with_reducible apply same_sealTake | with_reducible apply same_endPoint | with_reducible apply same_promote | (with_reducible refine same_ite (fun _ => ?_) (fun _ => ?_)) | split)

theorem same_stepCmds {s t : State} (h : Same s t) : Same s (stepCmds t) := by
  unfold stepCmds
  try dsimp only
  repeat' (first | with_reducible assumption | with_reducible apply same_stepCmd | (with_reducible refine same_foldl ?_ (fun u x h => ?_)))

theorem same_settleFlush {s t : State} (h : Same s t) : Same s (settleFlush t) := by
  unfold settleFlush
  try dsimp only
  repeat' (first | with_reducible assumption | with_reducible apply same_flushBlocks | with_reducible apply same_flushTakes | (with_reducible refine same_ite (fun _ => ?_) (fun _ => ?_)))

theorem same_settleLog {s t : State} (h : Same s t) : Same s (settleLog t) := by
  unfold settleLog
  try dsimp only
  repeat' (first | with_reducible assumption | with_reducible apply same_forceLog | with_reducible apply same_fullLog | (with_reducible refine same_foldl ?_ (fun u x h => ?_)) | (with_reducible refine same_ite (fun _ => ?_) (fun _ => ?_)))

theorem same_settleOnce {s t : State} (h : Same s t) : Same s (settleOnce t) := by
  unfold settleOnce
  try dsimp only
  repeat' (first | with_reducible assumption | with_reducible apply same_mapBlocks | with_reducible apply same_settleFrames | with_reducible apply same_settleRows | with_reducible apply same_releaseBlocks | with_reducible apply same_settleLog | with_reducible apply same_logFrames | with_reducible apply same_settleMedia | with_reducible apply same_retireRecords | with_reducible apply same_pumpSources | with_reducible apply same_settleFlush | with_reducible apply same_stepCmds)

theorem same_settle {s t : State} (h : Same s t) : Same s (settle t) := by
  unfold settle
  try dsimp only
  repeat' (first | with_reducible assumption | with_reducible apply same_settleOnce | (with_reducible refine same_ite (fun _ => ?_) (fun _ => ?_)))

end Sys2Proof.Machine
end

