-- ==== Sys2Proof/Laws/Same/Forms.lean ====
section
/-! SUPPORT. Operations of Machine/Forms.lean that leave the control blocks (`Same`). -/

namespace Sys2Proof.Machine

theorem same_wakeReads {s t : State} {a0 a1} (h : Same s t) : Same s (wakeReads a0 a1 t) := by
  unfold wakeReads
  try dsimp only
  repeat' (first | with_reducible assumption | with_reducible apply same_onCmd | (with_reducible refine same_ite (fun _ => ?_) (fun _ => ?_)) | split)

theorem same_repairFail {s t : State} {a0 a1} (h : Same s t) : Same s (repairFail a0 a1 t) := by
  unfold repairFail
  try dsimp only
  repeat' (first | with_reducible assumption | with_reducible apply same_wakeReads | with_reducible apply same_fn_onBuf | with_reducible apply same_raise | with_reducible apply same_onIng | split)

theorem same_repairDone {s t : State} {a0 a1 a2 a3} (h : Same s t) : Same s (repairDone a0 a1 a2 a3 t) := by
  unfold repairDone
  try dsimp only
  repeat' (first | with_reducible assumption | with_reducible apply same_repairFail | with_reducible apply same_wakeReads | with_reducible apply same_fn_onBuf | with_reducible apply same_note | with_reducible apply same_onIng | split)

theorem same_formDone {s t : State} {a0 a1} (h : Same s t) : Same s (formDone a0 a1 t) := by
  unfold formDone
  try dsimp only
  repeat' (first | with_reducible assumption | with_reducible apply same_readBlock | with_reducible apply same_replBlock | with_reducible apply same_repairDone | with_reducible apply same_repairFail | (with_reducible refine same_ite (fun _ => ?_) (fun _ => ?_)) | split)

theorem same_closeRead {s t : State} {a0 a1} (h : Same s t) : Same s (closeRead a0 a1 t) := by
  unfold closeRead
  try dsimp only
  repeat' (first | with_reducible assumption | with_reducible apply same_completeRow | (with_reducible refine same_ite (fun _ => ?_) (fun _ => ?_)) | split)

theorem same_pagesDone {s t : State} {a0 a1} (h : Same s t) : Same s (pagesDone a0 a1 t) := by
  unfold pagesDone
  try dsimp only
  repeat' (first | with_reducible assumption | with_reducible apply same_gcForm | with_reducible apply same_relocRead | with_reducible apply same_rebuildRow | with_reducible apply same_patrolCheck | with_reducible apply same_closeRead | with_reducible apply same_resyncPage | split)

theorem same_jobStep {s t : State} {a0} (h : Same s t) : Same s (jobStep a0 t) := by
  unfold jobStep
  try dsimp only
  repeat' (first | with_reducible assumption | with_reducible apply same_onPar | with_reducible apply same_endJob | with_reducible apply same_formDone | with_reducible apply same_pagesDone | (with_reducible refine same_ite (fun _ => ?_) (fun _ => ?_)) | split)

theorem same_settleJobs {s t : State} (h : Same s t) : Same s (settleJobs t) := by
  unfold settleJobs
  try dsimp only
  repeat' (first | with_reducible assumption | with_reducible apply same_settle | with_reducible apply same_jobStep | (with_reducible refine same_foldl ?_ (fun u x h => ?_)) | (with_reducible refine same_ite (fun _ => ?_) (fun _ => ?_)))

end Sys2Proof.Machine
end

