-- ==== Sys2Proof/Laws/Same/Conn.lean ====
section
/-! SUPPORT. Operations of Machine/Conn.lean that leave the control blocks (`Same`). -/

namespace Sys2Proof.Machine

theorem same_checkpointBatch {s t : State} (h : Same s t) : Same s (checkpointBatch t) := by
  unfold checkpointBatch
  try dsimp only
  repeat' (first | with_reducible assumption | with_reducible apply same_onCtxQuiet | with_reducible apply same_plRecords | (with_reducible refine same_foldl4 ?_ (fun u x h => ?_)) | (with_reducible refine same_foldl3 ?_ (fun u x h => ?_)) | (with_reducible refine same_foldl2 ?_ (fun u x h => ?_)) | (with_reducible refine same_foldl ?_ (fun u x h => ?_)) | (with_reducible refine same_ite (fun _ => ?_) (fun _ => ?_)))

theorem same_orphanQueue {s t : State} {a0} (h : Same s t) : Same s (orphanQueue a0 t) := by
  unfold orphanQueue
  try dsimp only
  repeat' (first | with_reducible assumption | with_reducible apply same_chg | with_reducible apply same_finish | with_reducible apply same_dropWindows | (with_reducible refine same_foldl ?_ (fun u x h => ?_)) | (with_reducible refine same_ite (fun _ => ?_) (fun _ => ?_)))

theorem same_qpError {s t : State} {a0 a1} (h : Same s t) : Same s (qpError a0 a1 t) := by
  unfold qpError
  try dsimp only
  repeat' (first | with_reducible assumption | with_reducible apply same_onCtx | with_reducible apply same_raise | with_reducible apply same_orphanQueue | with_reducible apply same_replConnDown | (with_reducible refine same_ite (fun _ => ?_) (fun _ => ?_)) | split)

theorem same_closeCtx {s t : State} {a0} (h : Same s t) : Same s (closeCtx a0 t) := by
  unfold closeCtx
  try dsimp only
  repeat' (first | with_reducible assumption | (with_reducible refine same_mirror ?_ (fun u h => ?_)) | with_reducible apply same_plRecords | with_reducible apply same_onQpc | with_reducible apply same_replConnDown | (with_reducible refine same_ite (fun _ => ?_) (fun _ => ?_)) | split)

theorem same_drain {s t : State} {a0} (h : Same s t) : Same s (drain a0 t) := by
  unfold drain
  try dsimp only
  repeat' (first | with_reducible assumption | with_reducible apply same_wire | with_reducible apply same_hostSend | with_reducible apply same_closeCtx | (with_reducible refine same_ite (fun _ => ?_) (fun _ => ?_)) | split)

theorem same_sendProbe {s t : State} {a0} (h : Same s t) : Same s (sendProbe a0 t) := by
  unfold sendProbe
  try dsimp only
  repeat' (first | with_reducible assumption | with_reducible apply same_wire | split)

theorem same_tkovLost {s t : State} {a0 a1} (h : Same s t) : Same s (tkovLost a0 a1 t) := by
  unfold tkovLost
  try dsimp only
  repeat' (first | with_reducible assumption | with_reducible apply same_note | with_reducible apply same_qpError | with_reducible apply same_onPrt | with_reducible apply same_onCtx)

theorem same_resumeConn {s t : State} {a0} (h : Same s t) : Same s (resumeConn a0 t) := by
  unfold resumeConn
  try dsimp only
  repeat' (first | with_reducible assumption | with_reducible apply same_onCmd | with_reducible apply same_tkovLost | with_reducible apply same_onCtx | with_reducible apply same_transmit | (with_reducible refine same_foldl ?_ (fun u x h => ?_)) | (with_reducible refine same_ite (fun _ => ?_) (fun _ => ?_)) | split)

theorem same_after {s t : State} (h : Same s t) : Same s (after t) := by
  unfold after
  try dsimp only
  repeat' (first | with_reducible assumption | with_reducible apply same_settleJobs | with_reducible apply same_resumeConn | with_reducible apply same_drain | (with_reducible refine same_foldl ?_ (fun u x h => ?_)))

theorem same_connReady {s t : State} {a0} (h : Same s t) : Same s (connReady a0 t) := by
  unfold connReady
  try dsimp only
  repeat' (first | with_reducible assumption | with_reducible apply same_onCtx | (with_reducible refine same_mirror ?_ (fun u h => ?_)) | with_reducible apply same_plRecords | split)

end Sys2Proof.Machine
end

