-- ==== Sys2Proof/Laws/Same/Fabric.lean ====
section
/-! SUPPORT. Operations of Machine/Fabric.lean that leave the control blocks (`Same`). -/

namespace Sys2Proof.Machine

theorem same_autoneg {s t : State} {a0} (h : Same s t) : Same s (autoneg a0 t) := by
  unfold autoneg
  try dsimp only
  repeat' (first | with_reducible assumption | with_reducible apply same_hostSend | with_reducible apply same_onFab | (with_reducible refine same_ite (fun _ => ?_) (fun _ => ?_)))

theorem same_subDown {s t : State} {a0} (h : Same s t) : Same s (subDown a0 t) := by
  unfold subDown
  try dsimp only
  repeat' (first | with_reducible assumption | with_reducible apply same_onFab | with_reducible apply same_raise | with_reducible apply same_transmit | with_reducible apply same_onCtxQuiet | with_reducible apply same_autoneg | (with_reducible refine same_foldl4 ?_ (fun u x h => ?_)) | (with_reducible refine same_foldl3 ?_ (fun u x h => ?_)) | (with_reducible refine same_foldl2 ?_ (fun u x h => ?_)) | (with_reducible refine same_foldl ?_ (fun u x h => ?_)) | (with_reducible refine same_ite (fun _ => ?_) (fun _ => ?_)))

theorem same_announce {s t : State} {a0} (h : Same s t) : Same s (announce a0 t) := by
  unfold announce
  try dsimp only
  repeat' (first | with_reducible assumption | with_reducible apply same_hostSend | (with_reducible refine same_foldl ?_ (fun u x h => ?_)) | (with_reducible refine same_ite (fun _ => ?_) (fun _ => ?_)) | split)

theorem same_takeAddr {s t : State} {a0} (h : Same s t) : Same s (takeAddr a0 t) := by
  unfold takeAddr
  try dsimp only
  repeat' (first | with_reducible assumption | with_reducible apply same_onFab | with_reducible apply same_raise | with_reducible apply same_announce | (with_reducible refine same_ite (fun _ => ?_) (fun _ => ?_)))

theorem same_execSubportDown {s : State} {a0} : ∃ u, execSubportDown a0 s = .next u ∧ Same s u := by
  refine ⟨_, rfl, ?_⟩
  have h := same_rfl s
  try dsimp only
  repeat' (first | with_reducible assumption | with_reducible apply same_after | with_reducible apply same_subDown)

theorem same_subCameUp {s t : State} {a0} (h : Same s t) : Same s (subCameUp a0 t) := by
  unfold subCameUp
  try dsimp only
  repeat' (first | with_reducible assumption | with_reducible apply same_raise | with_reducible apply same_onFab | with_reducible apply same_takeAddr | (with_reducible refine same_ite (fun _ => ?_) (fun _ => ?_)))

theorem same_execSubportUp {s : State} {a0} : ∃ u, execSubportUp a0 s = .next u ∧ Same s u := by
  refine ⟨_, rfl, ?_⟩
  have h := same_rfl s
  try dsimp only
  repeat' (first | with_reducible assumption | with_reducible apply same_after | with_reducible apply same_subCameUp)

theorem same_pauseFrame {s t : State} {a0 a1 a2} (h : Same s t) : Same s (pauseFrame a0 a1 a2 t) := by
  unfold pauseFrame
  try dsimp only
  repeat' (first | with_reducible assumption | with_reducible apply same_fabCount | with_reducible apply same_onFab | with_reducible apply same_wire | (with_reducible refine same_foldl4 ?_ (fun u x h => ?_)) | (with_reducible refine same_foldl3 ?_ (fun u x h => ?_)) | (with_reducible refine same_foldl2 ?_ (fun u x h => ?_)) | (with_reducible refine same_foldl ?_ (fun u x h => ?_)) | (with_reducible refine same_ite (fun _ => ?_) (fun _ => ?_)) | split)

theorem same_execPauseFrameReceive {s : State} {a0 a1 a2} : ∃ u, execPauseFrameReceive a0 a1 a2 s = .next u ∧ Same s u := by
  refine ⟨_, rfl, ?_⟩
  have h := same_rfl s
  try dsimp only
  repeat' (first | with_reducible assumption | with_reducible apply same_after | with_reducible apply same_pauseFrame | (with_reducible refine same_ite (fun _ => ?_) (fun _ => ?_)))

theorem same_announceAgain {s t : State} {a0} (h : Same s t) : Same s (announceAgain a0 t) := by
  unfold announceAgain
  try dsimp only
  repeat' (first | with_reducible assumption | with_reducible apply same_announce | with_reducible apply same_onFab | (with_reducible refine same_ite (fun _ => ?_) (fun _ => ?_)) | split)

theorem same_execAddrAnnounceRepeat {s : State} {a0} : ∃ u, execAddrAnnounceRepeat a0 s = .next u ∧ Same s u := by
  refine ⟨_, rfl, ?_⟩
  have h := same_rfl s
  try dsimp only
  repeat' (first | with_reducible assumption | with_reducible apply same_announceAgain)

theorem same_arpRequest {s t : State} {a0 a1 a2} (h : Same s t) : Same s (arpRequest a0 a1 a2 t) := by
  unfold arpRequest
  try dsimp only
  repeat' (first | with_reducible assumption | with_reducible apply same_hostSend | with_reducible apply same_send | (with_reducible refine same_ite (fun _ => ?_) (fun _ => ?_)) | split)

theorem same_execArpRequest {s : State} {a0 a1 a2} : ∃ u, execArpRequest a0 a1 a2 s = .next u ∧ Same s u := by
  refine ⟨_, rfl, ?_⟩
  have h := same_rfl s
  try dsimp only
  repeat' (first | with_reducible assumption | with_reducible apply same_arpRequest)

theorem same_execNeighbourSolicitation {s : State} {a0 a1 a2} : ∃ u, execNeighbourSolicitation a0 a1 a2 s = .next u ∧ Same s u := by
  refine ⟨_, rfl, ?_⟩
  have h := same_rfl s
  try dsimp only
  repeat' (first | with_reducible assumption | with_reducible apply same_hostSend | (with_reducible refine same_ite (fun _ => ?_) (fun _ => ?_)))

theorem same_icmpEcho {s t : State} {a0 a1 a2 a3} (h : Same s t) : Same s (icmpEcho a0 a1 a2 a3 t) := by
  unfold icmpEcho
  try dsimp only
  repeat' (first | with_reducible assumption | with_reducible apply same_send | with_reducible apply same_hostSend | with_reducible apply same_onFab | (with_reducible refine same_ite (fun _ => ?_) (fun _ => ?_)) | split)

theorem same_execIcmpEcho {s : State} {a0 a1 a2 a3} : ∃ u, execIcmpEcho a0 a1 a2 a3 s = .next u ∧ Same s u := by
  refine ⟨_, rfl, ?_⟩
  have h := same_rfl s
  try dsimp only
  repeat' (first | with_reducible assumption | with_reducible apply same_icmpEcho)

theorem same_resendAll {s t : State} {a0} (h : Same s t) : Same s (resendAll a0 t) := by
  unfold resendAll
  try dsimp only
  repeat' (first | with_reducible assumption | with_reducible apply same_sendProbe | with_reducible apply same_transmit | (with_reducible refine same_foldl ?_ (fun u x h => ?_)) | (with_reducible refine same_ite (fun _ => ?_) (fun _ => ?_)) | split)

theorem same_retryOver {s t : State} {a0} (h : Same s t) : Same s (retryOver a0 t) := by
  unfold retryOver
  try dsimp only
  repeat' (first | with_reducible assumption | with_reducible apply same_qpError | with_reducible apply same_onFab)

theorem same_retry {s t : State} {a0 a1} (h : Same s t) : Same s (retry a0 a1 t) := by
  unfold retry
  try dsimp only
  repeat' (first | with_reducible assumption | with_reducible apply same_retryOver | with_reducible apply same_onCtx | with_reducible apply same_raise | with_reducible apply same_resendAll | (with_reducible refine same_foldl ?_ (fun u x h => ?_)) | (with_reducible refine same_ite (fun _ => ?_) (fun _ => ?_)) | split)

theorem same_sendRep {s t : State} {a0} (h : Same s t) : Same s (sendRep a0 t) := by
  unfold sendRep
  try dsimp only
  repeat' (first | with_reducible assumption | with_reducible apply same_hostSend | with_reducible apply same_onCtx | split)

theorem same_cmRtu {s t : State} {a0} (h : Same s t) : Same s (cmRtu a0 t) := by
  unfold cmRtu
  try dsimp only
  repeat' (first | with_reducible assumption | with_reducible apply same_connReady | (with_reducible refine same_ite (fun _ => ?_) (fun _ => ?_)) | split)

theorem same_execCmRtu {s : State} {a0} : ∃ u, execCmRtu a0 s = .next u ∧ Same s u := by
  refine ⟨_, rfl, ?_⟩
  have h := same_rfl s
  try dsimp only
  repeat' (first | with_reducible assumption | with_reducible apply same_after | with_reducible apply same_cmRtu)

theorem same_disconnect {s t : State} {a0 a1 a2} (h : Same s t) (k : ∀ u, Same s u → Same s (a2 u)) : Same s (disconnect a0 a1 a2 t) := by
  unfold disconnect
  try dsimp only
  repeat' (first | with_reducible assumption | apply k | with_reducible apply same_closeCtx | with_reducible apply same_onCtx | (with_reducible refine same_ite (fun _ => ?_) (fun _ => ?_)))

theorem same_cmDreq {s t : State} {a0} (h : Same s t) : Same s (cmDreq a0 t) := by
  unfold cmDreq
  try dsimp only
  repeat' (first | with_reducible assumption | (with_reducible refine same_disconnect ?_ (fun u h => ?_)) | with_reducible apply same_hostSend | (with_reducible refine same_ite (fun _ => ?_) (fun _ => ?_)) | split)

theorem same_execCmDreq {s : State} {a0} : ∃ u, execCmDreq a0 s = .next u ∧ Same s u := by
  refine ⟨_, rfl, ?_⟩
  have h := same_rfl s
  try dsimp only
  repeat' (first | with_reducible assumption | with_reducible apply same_after | with_reducible apply same_cmDreq)

theorem same_cmRej {s t : State} {a0} (h : Same s t) : Same s (cmRej a0 t) := by
  unfold cmRej
  try dsimp only
  repeat' (first | with_reducible assumption | with_reducible apply same_closeCtx | (with_reducible refine same_ite (fun _ => ?_) (fun _ => ?_)) | split)

theorem same_execCmRej {s : State} {a0} : ∃ u, execCmRej a0 s = .next u ∧ Same s u := by
  refine ⟨_, rfl, ?_⟩
  have h := same_rfl s
  try dsimp only
  repeat' (first | with_reducible assumption | with_reducible apply same_after | with_reducible apply same_cmRej)

theorem same_repRetry {s t : State} {a0} (h : Same s t) : Same s (repRetry a0 t) := by
  unfold repRetry
  try dsimp only
  repeat' (first | with_reducible assumption | with_reducible apply same_closeCtx | with_reducible apply same_sendRep | (with_reducible refine same_ite (fun _ => ?_) (fun _ => ?_)) | split)

theorem same_execRepRetryTimer {s : State} {a0} : ∃ u, execRepRetryTimer a0 s = .next u ∧ Same s u := by
  refine ⟨_, rfl, ?_⟩
  have h := same_rfl s
  try dsimp only
  repeat' (first | with_reducible assumption | with_reducible apply same_after | with_reducible apply same_repRetry)

theorem same_retryTimeout {s t : State} {a0} (h : Same s t) : Same s (retryTimeout a0 t) := by
  unfold retryTimeout
  try dsimp only
  repeat' (first | with_reducible assumption | with_reducible apply same_retry | with_reducible apply same_closeCtx | with_reducible apply same_onFab | (with_reducible refine same_ite (fun _ => ?_) (fun _ => ?_)) | split)

theorem same_execRetryTimeout {s : State} {a0} : ∃ u, execRetryTimeout a0 s = .next u ∧ Same s u := by
  refine ⟨_, rfl, ?_⟩
  have h := same_rfl s
  try dsimp only
  repeat' (first | with_reducible assumption | with_reducible apply same_after | with_reducible apply same_retryTimeout)

theorem same_rnrResend {s t : State} {a0} (h : Same s t) : Same s (rnrResend a0 t) := by
  unfold rnrResend
  try dsimp only
  repeat' (first | with_reducible assumption | with_reducible apply same_resendAll | with_reducible apply same_onCtx | (with_reducible refine same_ite (fun _ => ?_) (fun _ => ?_)) | split)

theorem same_execRnrResendTimer {s : State} {a0} : ∃ u, execRnrResendTimer a0 s = .next u ∧ Same s u := by
  refine ⟨_, rfl, ?_⟩
  have h := same_rfl s
  try dsimp only
  repeat' (first | with_reducible assumption | with_reducible apply same_after | with_reducible apply same_rnrResend)

theorem same_errLinger {s t : State} {a0} (h : Same s t) : Same s (errLinger a0 t) := by
  unfold errLinger
  try dsimp only
  repeat' (first | with_reducible assumption | with_reducible apply same_closeCtx | (with_reducible refine same_ite (fun _ => ?_) (fun _ => ?_)) | split)

theorem same_execQpErrLingerExpiry {s : State} {a0} : ∃ u, execQpErrLingerExpiry a0 s = .next u ∧ Same s u := by
  refine ⟨_, rfl, ?_⟩
  have h := same_rfl s
  try dsimp only
  repeat' (first | with_reducible assumption | with_reducible apply same_after | with_reducible apply same_errLinger)

theorem same_execCheckpointBatch {s : State} : ∃ u, execCheckpointBatch s = .next u ∧ Same s u := by
  refine ⟨_, rfl, ?_⟩
  have h := same_rfl s
  try dsimp only
  repeat' (first | with_reducible assumption | with_reducible apply same_checkpointBatch)

theorem same_cnpRaise {s t : State} {a0 a1} (h : Same s t) : Same s (cnpRaise a0 a1 t) := by
  unfold cnpRaise
  try dsimp only
  repeat' (first | with_reducible assumption | with_reducible apply same_onCtxQuiet | split)

theorem same_execCnpRateRaise {s : State} {a0 a1} : ∃ u, execCnpRateRaise a0 a1 s = .next u ∧ Same s u := by
  refine ⟨_, rfl, ?_⟩
  have h := same_rfl s
  try dsimp only
  repeat' (first | with_reducible assumption | with_reducible apply same_cnpRaise)

theorem same_mergeInterval {s t : State} {a0 a1} (h : Same s t) : Same s (mergeInterval a0 a1 t) := by
  unfold mergeInterval
  try dsimp only
  repeat' (first | with_reducible assumption | with_reducible apply same_onCtxQuiet | with_reducible apply same_sendHead | (with_reducible refine same_ite (fun _ => ?_) (fun _ => ?_)) | split)

theorem same_execEventMergeInterval {s : State} {a0 a1} : ∃ u, execEventMergeInterval a0 a1 s = .next u ∧ Same s u := by
  refine ⟨_, rfl, ?_⟩
  have h := same_rfl s
  try dsimp only
  repeat' (first | with_reducible assumption | with_reducible apply same_mergeInterval)

end Sys2Proof.Machine
end

