-- ==== Sys2Proof/Laws/Same/Lot.lean ====
section
/-! SUPPORT. Operations of Machine/Lot.lean that leave the control blocks (`Same`). -/

namespace Sys2Proof.Machine

theorem same_lotOpenReplyIn {s t : State} {a0 a1} (h : Same s t) : Same s (lotOpenReplyIn a0 a1 t) := by
  unfold lotOpenReplyIn
  try dsimp only
  repeat' (first | with_reducible assumption | with_reducible apply same_fabCount | with_reducible apply same_closeCtx | with_reducible apply same_onTarget | with_reducible apply same_connReady | with_reducible apply same_onCtx | (with_reducible refine same_ite (fun _ => ?_) (fun _ => ?_)) | split)

theorem same_execLotOpenReply {s : State} {a0 a1} : ∃ u, execLotOpenReply a0 a1 s = .next u ∧ Same s u := by
  refine ⟨_, rfl, ?_⟩
  have h := same_rfl s
  try dsimp only
  repeat' (first | with_reducible assumption | with_reducible apply same_after | with_reducible apply same_lotOpenReplyIn)

end Sys2Proof.Machine
end

