-- ==== Sys2Proof/Laws/Same/Capsules.lean ====
section
/-! SUPPORT. Operations of Machine/Capsules.lean that leave the control blocks (`Same`). -/

namespace Sys2Proof.Machine

theorem same_claimAtAccept {s t : State} {a0} (h : Same s t) : Same s (claimAtAccept a0 t) := by
  unfold claimAtAccept
  try dsimp only
  repeat' (first | with_reducible assumption | (with_reducible refine same_onFtl ?_) | (with_reducible refine same_onFtl ?_ ?_) | exact fun x => ⟨x.1, x.2.1, tabDel_nodup x.2.2.1, fun e he => x.2.2.2 e (mem_tabDel he)⟩ | exact fun x => ⟨x.1, x.2.1, tabPut_nodup x.2.2.1, fun e he => (mem_tabPut he).elim (fun q => q ▸ by assumption) (x.2.2.2 e)⟩ | exact fun _ => canonical_empty rfl rfl | (intro hx; (try dsimp only); split <;> exact hx) | with_reducible apply same_onTake | (with_reducible refine same_ite (fun _ => ?_) (fun _ => ?_)) | split)

theorem same_takeIn {s t : State} {a0} (h : Same s t) : Same s (takeIn a0 t) := by
  unfold takeIn
  try dsimp only
  repeat' (first | with_reducible assumption | with_reducible apply same_claimAtAccept | with_reducible apply same_mirrorCmd | with_reducible apply same_chg)

theorem same_capsuleStep {s t : State} {a0 a1} (h : Same s t) : Same s (capsuleStep a0 a1 t) := by
  unfold capsuleStep
  try dsimp only
  repeat' (first | with_reducible assumption | with_reducible apply same_finish | with_reducible apply same_takeIn | (with_reducible refine same_ite (fun _ => ?_) (fun _ => ?_)) | split)

theorem same_execRead {s : State} {a0} : ∃ u, execRead a0 s = .next u ∧ Same s u := by
  refine ⟨_, rfl, ?_⟩
  have h := same_rfl s
  try dsimp only
  repeat' (first | with_reducible assumption | with_reducible apply same_after | with_reducible apply same_capsuleStep)

theorem same_execWrite {s : State} {a0} : ∃ u, execWrite a0 s = .next u ∧ Same s u := by
  refine ⟨_, rfl, ?_⟩
  have h := same_rfl s
  try dsimp only
  repeat' (first | with_reducible assumption | with_reducible apply same_after | with_reducible apply same_capsuleStep)

theorem same_execTrim {s : State} {a0} : ∃ u, execTrim a0 s = .next u ∧ Same s u := by
  refine ⟨_, rfl, ?_⟩
  have h := same_rfl s
  try dsimp only
  repeat' (first | with_reducible assumption | with_reducible apply same_after | with_reducible apply same_capsuleStep)

theorem same_execFlush {s : State} {a0} : ∃ u, execFlush a0 s = .next u ∧ Same s u := by
  refine ⟨_, rfl, ?_⟩
  have h := same_rfl s
  try dsimp only
  repeat' (first | with_reducible assumption | with_reducible apply same_after | with_reducible apply same_capsuleStep)

theorem same_releaseStep {s t : State} {a0} (h : Same s t) : Same s (releaseStep a0 t) := by
  unfold releaseStep
  try dsimp only
  repeat' (first | with_reducible assumption | with_reducible apply same_discardRelease | with_reducible apply same_takeIn | (with_reducible refine same_ite (fun _ => ?_) (fun _ => ?_)) | split)

theorem same_execRelease {s : State} {a0} : ∃ u, execRelease a0 s = .next u ∧ Same s u := by
  refine ⟨_, rfl, ?_⟩
  have h := same_rfl s
  try dsimp only
  repeat' (first | with_reducible assumption | with_reducible apply same_after | with_reducible apply same_releaseStep)

theorem same_execTakeOpen {s : State} {a0} : ∃ u, execTakeOpen a0 s = .next u ∧ Same s u := by
  refine ⟨_, rfl, ?_⟩
  have h := same_rfl s
  try dsimp only
  repeat' (first | with_reducible assumption | with_reducible apply same_after | with_reducible apply same_capsuleStep)

theorem same_execFrameAppend {s : State} {a0} : ∃ u, execFrameAppend a0 s = .next u ∧ Same s u := by
  refine ⟨_, rfl, ?_⟩
  have h := same_rfl s
  try dsimp only
  repeat' (first | with_reducible assumption | with_reducible apply same_after | with_reducible apply same_capsuleStep)

theorem same_execFrameRead {s : State} {a0} : ∃ u, execFrameRead a0 s = .next u ∧ Same s u := by
  refine ⟨_, rfl, ?_⟩
  have h := same_rfl s
  try dsimp only
  repeat' (first | with_reducible assumption | with_reducible apply same_after | with_reducible apply same_capsuleStep)

theorem same_execTakeSeal {s : State} {a0} : ∃ u, execTakeSeal a0 s = .next u ∧ Same s u := by
  refine ⟨_, rfl, ?_⟩
  have h := same_rfl s
  try dsimp only
  repeat' (first | with_reducible assumption | with_reducible apply same_after | with_reducible apply same_capsuleStep)

theorem same_execTakeDelete {s : State} {a0} : ∃ u, execTakeDelete a0 s = .next u ∧ Same s u := by
  refine ⟨_, rfl, ?_⟩
  have h := same_rfl s
  try dsimp only
  repeat' (first | with_reducible assumption | with_reducible apply same_after | with_reducible apply same_capsuleStep)

theorem same_execTakeInfo {s : State} {a0} : ∃ u, execTakeInfo a0 s = .next u ∧ Same s u := by
  refine ⟨_, rfl, ?_⟩
  have h := same_rfl s
  try dsimp only
  repeat' (first | with_reducible assumption | with_reducible apply same_after | with_reducible apply same_capsuleStep)

theorem same_execIdentify {s : State} {a0} : ∃ u, execIdentify a0 s = .next u ∧ Same s u := by
  refine ⟨_, rfl, ?_⟩
  have h := same_rfl s
  try dsimp only
  repeat' (first | with_reducible assumption | with_reducible apply same_after | with_reducible apply same_capsuleStep)

theorem same_execVolumeInfo {s : State} {a0} : ∃ u, execVolumeInfo a0 s = .next u ∧ Same s u := by
  refine ⟨_, rfl, ?_⟩
  have h := same_rfl s
  try dsimp only
  repeat' (first | with_reducible assumption | with_reducible apply same_after | with_reducible apply same_capsuleStep)

theorem same_abortStep {s t : State} {a0} (h : Same s t) : Same s (abortStep a0 t) := by
  unfold abortStep
  try dsimp only
  repeat' (first | with_reducible assumption | with_reducible apply same_capsuleStep | with_reducible apply same_startCmd | (with_reducible refine same_ite (fun _ => ?_) (fun _ => ?_)) | split)

theorem same_execAbort {s : State} {a0} : ∃ u, execAbort a0 s = .next u ∧ Same s u := by
  refine ⟨_, rfl, ?_⟩
  have h := same_rfl s
  try dsimp only
  repeat' (first | with_reducible assumption | with_reducible apply same_after | with_reducible apply same_abortStep)

theorem same_execOrphanStatus {s : State} {a0} : ∃ u, execOrphanStatus a0 s = .next u ∧ Same s u := by
  refine ⟨_, rfl, ?_⟩
  have h := same_rfl s
  try dsimp only
  repeat' (first | with_reducible assumption | with_reducible apply same_after | with_reducible apply same_capsuleStep)

theorem same_execSnapCreate {s : State} {a0} : ∃ u, execSnapCreate a0 s = .next u ∧ Same s u := by
  refine ⟨_, rfl, ?_⟩
  have h := same_rfl s
  try dsimp only
  repeat' (first | with_reducible assumption | with_reducible apply same_after | with_reducible apply same_capsuleStep)

theorem same_execSnapDelete {s : State} {a0} : ∃ u, execSnapDelete a0 s = .next u ∧ Same s u := by
  refine ⟨_, rfl, ?_⟩
  have h := same_rfl s
  try dsimp only
  repeat' (first | with_reducible assumption | with_reducible apply same_after | with_reducible apply same_capsuleStep)

theorem same_execSnapRead {s : State} {a0} : ∃ u, execSnapRead a0 s = .next u ∧ Same s u := by
  refine ⟨_, rfl, ?_⟩
  have h := same_rfl s
  try dsimp only
  repeat' (first | with_reducible assumption | with_reducible apply same_after | with_reducible apply same_capsuleStep)

theorem same_execSnapFrameRead {s : State} {a0} : ∃ u, execSnapFrameRead a0 s = .next u ∧ Same s u := by
  refine ⟨_, rfl, ?_⟩
  have h := same_rfl s
  try dsimp only
  repeat' (first | with_reducible assumption | with_reducible apply same_after | with_reducible apply same_capsuleStep)

theorem same_execSnapList {s : State} {a0} : ∃ u, execSnapList a0 s = .next u ∧ Same s u := by
  refine ⟨_, rfl, ?_⟩
  have h := same_rfl s
  try dsimp only
  repeat' (first | with_reducible assumption | with_reducible apply same_after | with_reducible apply same_capsuleStep)

theorem same_execReplPoint {s : State} {a0} : ∃ u, execReplPoint a0 s = .next u ∧ Same s u := by
  refine ⟨_, rfl, ?_⟩
  have h := same_rfl s
  try dsimp only
  repeat' (first | with_reducible assumption | with_reducible apply same_after | with_reducible apply same_capsuleStep)

theorem same_execReplInfo {s : State} {a0} : ∃ u, execReplInfo a0 s = .next u ∧ Same s u := by
  refine ⟨_, rfl, ?_⟩
  have h := same_rfl s
  try dsimp only
  repeat' (first | with_reducible assumption | with_reducible apply same_after | with_reducible apply same_capsuleStep)

theorem same_execReplPromote {s : State} {a0} : ∃ u, execReplPromote a0 s = .next u ∧ Same s u := by
  refine ⟨_, rfl, ?_⟩
  have h := same_rfl s
  try dsimp only
  repeat' (first | with_reducible assumption | with_reducible apply same_after | with_reducible apply same_capsuleStep)

theorem same_execReplBegin {s : State} {a0} : ∃ u, execReplBegin a0 s = .next u ∧ Same s u := by
  refine ⟨_, rfl, ?_⟩
  have h := same_rfl s
  try dsimp only
  repeat' (first | with_reducible assumption | with_reducible apply same_after | with_reducible apply same_capsuleStep)

theorem same_execReplData {s : State} {a0} : ∃ u, execReplData a0 s = .next u ∧ Same s u := by
  refine ⟨_, rfl, ?_⟩
  have h := same_rfl s
  try dsimp only
  repeat' (first | with_reducible assumption | with_reducible apply same_after | with_reducible apply same_capsuleStep)

theorem same_execReplEnd {s : State} {a0} : ∃ u, execReplEnd a0 s = .next u ∧ Same s u := by
  refine ⟨_, rfl, ?_⟩
  have h := same_rfl s
  try dsimp only
  repeat' (first | with_reducible assumption | with_reducible apply same_after | with_reducible apply same_capsuleStep)

theorem same_execReplTakeDelete {s : State} {a0} : ∃ u, execReplTakeDelete a0 s = .next u ∧ Same s u := by
  refine ⟨_, rfl, ?_⟩
  have h := same_rfl s
  try dsimp only
  repeat' (first | with_reducible assumption | with_reducible apply same_after | with_reducible apply same_capsuleStep)

theorem same_transferReadySend {s t : State} {a0 a1} (h : Same s t) : Same s (transferReadySend a0 a1 t) := by
  unfold transferReadySend
  try dsimp only
  repeat' (first | with_reducible assumption | with_reducible apply same_nameWindow | (with_reducible refine same_ite (fun _ => ?_) (fun _ => ?_)) | split)

theorem same_execTransferReadySend {s : State} {a0 a1} : ∃ u, execTransferReadySend a0 a1 s = .next u ∧ Same s u := by
  refine ⟨_, rfl, ?_⟩
  have h := same_rfl s
  try dsimp only
  repeat' (first | with_reducible assumption | with_reducible apply same_after | with_reducible apply same_transferReadySend)

theorem same_windowTimeout {s t : State} {a0} (h : Same s t) : Same s (windowTimeout a0 t) := by
  unfold windowTimeout
  try dsimp only
  repeat' (first | with_reducible assumption | with_reducible apply same_dropWindows | with_reducible apply same_finish | (with_reducible refine same_foldl4 ?_ (fun u x h => ?_)) | (with_reducible refine same_foldl3 ?_ (fun u x h => ?_)) | (with_reducible refine same_foldl2 ?_ (fun u x h => ?_)) | (with_reducible refine same_foldl ?_ (fun u x h => ?_)) | (with_reducible refine same_ite (fun _ => ?_) (fun _ => ?_)) | split)

theorem same_execWindowTimeout {s : State} {a0} : ∃ u, execWindowTimeout a0 s = .next u ∧ Same s u := by
  refine ⟨_, rfl, ?_⟩
  have h := same_rfl s
  try dsimp only
  repeat' (first | with_reducible assumption | with_reducible apply same_after | with_reducible apply same_windowTimeout)

theorem same_execOrphanKeepExpiry {s : State} : ∃ u, execOrphanKeepExpiry s = .next u ∧ Same s u := by
  refine ⟨_, rfl, ?_⟩
  have h := same_rfl s
  try dsimp only
  repeat' (first | with_reducible assumption | with_reducible apply same_onCmd)

end Sys2Proof.Machine
end

