-- ==== Sys2Proof/Laws/Same/Datapath.lean ====
section
/-! SUPPORT. Operations of Machine/Datapath.lean that leave the control blocks (`Same`). -/

namespace Sys2Proof.Machine

theorem same_cipFault {s t : State} {a0} (h : Same s t) : Same s (cipFault a0 t) := by
  unfold cipFault
  try dsimp only
  repeat' (first | with_reducible assumption | with_reducible apply same_note | with_reducible apply same_onCip | (with_reducible refine same_ite (fun _ => ?_) (fun _ => ?_)))

theorem same_cmpFault {s t : State} {a0} (h : Same s t) : Same s (cmpFault a0 t) := by
  unfold cmpFault
  try dsimp only
  repeat' (first | with_reducible assumption | with_reducible apply same_note | with_reducible apply same_onCmp | (with_reducible refine same_ite (fun _ => ?_) (fun _ => ?_)))

theorem same_dropFrags {s t : State} {a0} (h : Same s t) : Same s (dropFrags a0 t) := by
  unfold dropFrags
  try dsimp only
  repeat' (first | with_reducible assumption | with_reducible apply same_onIng | split)

theorem same_engineFault {s t : State} {a0 a1} (h : Same s t) : Same s (engineFault a0 a1 t) := by
  unfold engineFault
  try dsimp only
  repeat' (first | with_reducible assumption | with_reducible apply same_onCip | with_reducible apply same_cipFault | with_reducible apply same_cmpFault | (with_reducible refine same_ite (fun _ => ?_) (fun _ => ?_)))

theorem same_bufferBlock {s t : State} {a0 a1 a2 a3} (h : Same s t) : Same s (bufferBlock a0 a1 a2 a3 t) := by
  unfold bufferBlock
  try dsimp only
  repeat' (first | with_reducible assumption | with_reducible apply same_cmpCount | with_reducible apply same_dropFrags | with_reducible apply same_chg | with_reducible apply same_failCmd | with_reducible apply same_onIng | with_reducible apply same_joinDraft | with_reducible apply same_fpDecide | (with_reducible refine same_snd (by assumption) (same_fpDecide ?_)) | (with_reducible refine same_ite (fun _ => ?_) (fun _ => ?_)) | split)

theorem same_ingestBlock {s t : State} {a0 a1 a2 a3 a4} (h : Same s t) : Same s (ingestBlock a0 a1 a2 a3 a4 t) := by
  unfold ingestBlock
  try dsimp only
  repeat' (first | with_reducible assumption | with_reducible apply same_onIng | with_reducible apply same_bufferBlock | with_reducible apply same_engineFault | with_reducible apply same_dropFrags | with_reducible apply same_stageFail | (with_reducible refine same_ite (fun _ => ?_) (fun _ => ?_)) | split)

theorem same_execIngestBlockDone {s : State} {a0 a1 a2 a3 a4} : ∃ u, execIngestBlockDone a0 a1 a2 a3 a4 s = .next u ∧ Same s u := by
  refine ⟨_, rfl, ?_⟩
  have h := same_rfl s
  try dsimp only
  repeat' (first | with_reducible assumption | with_reducible apply same_after | with_reducible apply same_ingestBlock | (with_reducible refine same_ite (fun _ => ?_) (fun _ => ?_)))

theorem same_execCmpJobSubmit {s : State} {a0} : ∃ u, execCmpJobSubmit a0 s = .next u ∧ Same s u := by
  refine ⟨_, rfl, ?_⟩
  have h := same_rfl s
  try dsimp only
  repeat' (first | with_reducible assumption | with_reducible apply same_onCmp | (with_reducible refine same_ite (fun _ => ?_) (fun _ => ?_)))

theorem same_cmpJobDone {s t : State} {a0 a1} (h : Same s t) : Same s (cmpJobDone a0 a1 t) := by
  unfold cmpJobDone
  try dsimp only
  repeat' (first | with_reducible assumption | with_reducible apply same_cmpCount | with_reducible apply same_onCmp | (with_reducible refine same_foldl ?_ (fun u x h => ?_)) | (with_reducible refine same_ite (fun _ => ?_) (fun _ => ?_)) | split)

theorem same_execCmpJobDone {s : State} {a0 a1} : ∃ u, execCmpJobDone a0 a1 s = .next u ∧ Same s u := by
  refine ⟨_, rfl, ?_⟩
  have h := same_rfl s
  try dsimp only
  repeat' (first | with_reducible assumption | with_reducible apply same_cmpJobDone)

theorem same_execFilterRebuildDone {s : State} : ∃ u, execFilterRebuildDone s = .next u ∧ Same s u := by
  refine ⟨_, rfl, ?_⟩
  have h := same_rfl s
  try dsimp only
  repeat' (first | with_reducible assumption | with_reducible apply same_onFpr | (with_reducible refine same_ite (fun _ => ?_) (fun _ => ?_)))

theorem same_kbusEnd {s t : State} {a0 a1 a2} (h : Same s t) : Same s (kbusEnd a0 a1 a2 t) := by
  unfold kbusEnd
  try dsimp only
  repeat' (first | with_reducible assumption | with_reducible apply same_onCip)

theorem same_execKeyEraseDone {s : State} {a0} : ∃ u, execKeyEraseDone a0 s = .next u ∧ Same s u := by
  refine ⟨_, rfl, ?_⟩
  have h := same_rfl s
  try dsimp only
  repeat' (first | with_reducible assumption | with_reducible apply same_note | with_reducible apply same_kbusEnd | with_reducible apply same_onCip | (with_reducible refine same_ite (fun _ => ?_) (fun _ => ?_)))

theorem same_contextSave {s t : State} {a0} (h : Same s t) : Same s (contextSave a0 t) := by
  unfold contextSave
  try dsimp only
  repeat' (first | with_reducible assumption | with_reducible apply same_fillLanes | with_reducible apply same_onCip | (with_reducible refine same_ite (fun _ => ?_) (fun _ => ?_)) | split)

theorem same_execCipContextSave {s : State} {a0} : ∃ u, execCipContextSave a0 s = .next u ∧ Same s u := by
  refine ⟨_, rfl, ?_⟩
  have h := same_rfl s
  try dsimp only
  repeat' (first | with_reducible assumption | with_reducible apply same_contextSave)

theorem same_contextResume {s t : State} {a0 a1} (h : Same s t) : Same s (contextResume a0 a1 t) := by
  unfold contextResume
  try dsimp only
  repeat' (first | with_reducible assumption | with_reducible apply same_onCip | (with_reducible refine same_ite (fun _ => ?_) (fun _ => ?_)) | split)

theorem same_execCipContextResume {s : State} {a0 a1} : ∃ u, execCipContextResume a0 a1 s = .next u ∧ Same s u := by
  refine ⟨_, rfl, ?_⟩
  have h := same_rfl s
  try dsimp only
  repeat' (first | with_reducible assumption | with_reducible apply same_contextResume)

end Sys2Proof.Machine
end

