-- ==== Sys2Proof/Laws/Same/Format.lean ====
section
/-! SUPPORT. Operations of Machine/Format.lean that leave the control blocks (`Same`). -/

namespace Sys2Proof.Machine

theorem same_execMapSpillTimer {s : State} : ∃ u, execMapSpillTimer s = .next u ∧ Same s u := by
  refine ⟨_, rfl, ?_⟩
  have h := same_rfl s
  try dsimp only
  repeat' (first | with_reducible assumption | with_reducible apply same_after | with_reducible apply same_forceLog | (with_reducible refine same_ite (fun _ => ?_) (fun _ => ?_)))

theorem same_execGcVictimStart {s : State} {a0} : ∃ u, execGcVictimStart a0 s = .next u ∧ Same s u := by
  refine ⟨_, rfl, ?_⟩
  have h := same_rfl s
  try dsimp only
  repeat' (first | with_reducible assumption | with_reducible apply same_after | with_reducible apply same_startCollect | (with_reducible refine same_ite (fun _ => ?_) (fun _ => ?_)))

theorem same_execPartialWaitExpiry {s : State} {a0} : ∃ u, execPartialWaitExpiry a0 s = .next u ∧ Same s u := by
  refine ⟨_, rfl, ?_⟩
  have h := same_rfl s
  try dsimp only
  repeat' (first | with_reducible assumption | with_reducible apply same_after | with_reducible apply same_flushTop | (with_reducible refine same_ite (fun _ => ?_) (fun _ => ?_)))

theorem same_padWait {s t : State} {a0 a1} (h : Same s t) : Same s (padWait a0 a1 t) := by
  unfold padWait
  try dsimp only
  repeat' (first | with_reducible assumption | with_reducible apply same_flushTake | (with_reducible refine same_ite (fun _ => ?_) (fun _ => ?_)) | split)

theorem same_execPadWaitExpiry {s : State} {a0 a1} : ∃ u, execPadWaitExpiry a0 a1 s = .next u ∧ Same s u := by
  refine ⟨_, rfl, ?_⟩
  have h := same_rfl s
  try dsimp only
  repeat' (first | with_reducible assumption | with_reducible apply same_after | with_reducible apply same_padWait)

theorem same_execRowIdleCloseExpiry {s : State} {a0} : ∃ u, execRowIdleCloseExpiry a0 s = .next u ∧ Same s u := by
  refine ⟨_, rfl, ?_⟩
  have h := same_rfl s
  try dsimp only
  repeat' (first | with_reducible assumption | with_reducible apply same_after | with_reducible apply same_closeRow | (with_reducible refine same_ite (fun _ => ?_) (fun _ => ?_)))

theorem same_execJournalSpill {s : State} : ∃ u, execJournalSpill s = .next u ∧ Same s u := by
  refine ⟨_, rfl, ?_⟩
  have h := same_rfl s
  try dsimp only
  repeat' (first | with_reducible assumption | with_reducible apply same_after | with_reducible apply same_spillWaiting)

theorem same_rebuildWait {s t : State} {a0} (h : Same s t) : Same s (rebuildWait a0 t) := by
  unfold rebuildWait
  try dsimp only
  repeat' (first | with_reducible assumption | with_reducible apply same_onPar | (with_reducible refine same_ite (fun _ => ?_) (fun _ => ?_)))

theorem same_execRebuildWaitExpiry {s : State} {a0} : ∃ u, execRebuildWaitExpiry a0 s = .next u ∧ Same s u := by
  refine ⟨_, rfl, ?_⟩
  have h := same_rfl s
  try dsimp only
  repeat' (first | with_reducible assumption | with_reducible apply same_after | with_reducible apply same_rebuildWait)

theorem same_execHemPatrolPace {s : State} : ∃ u, execHemPatrolPace s = .next u ∧ Same s u := by
  refine ⟨_, rfl, ?_⟩
  have h := same_rfl s
  try dsimp only
  repeat' (first | with_reducible assumption | with_reducible apply same_after | with_reducible apply same_patrolStep | (with_reducible refine same_ite (fun _ => ?_) (fun _ => ?_)))

end Sys2Proof.Machine
end

