-- ==== Sys2Proof/Laws/Same/PlinkIn.lean ====
section
/-! SUPPORT. Operations of Machine/PlinkIn.lean that leave the control blocks (`Same`). -/

namespace Sys2Proof.Machine

theorem same_plResend {s t : State} {a0} (h : Same s t) : Same s (plResend a0 t) := by
  unfold plResend
  try dsimp only
  repeat' (first | with_reducible assumption | with_reducible apply same_sendSeg | with_reducible apply same_plFrame | with_reducible apply same_onPrt | (with_reducible refine same_foldl ?_ (fun u x h => ?_)) | (with_reducible refine same_ite (fun _ => ?_) (fun _ => ?_)) | split)

theorem same_execPlResendTimer {s : State} {a0} : ∃ u, execPlResendTimer a0 s = .next u ∧ Same s u := by
  refine ⟨_, rfl, ?_⟩
  have h := same_rfl s
  try dsimp only
  repeat' (first | with_reducible assumption | with_reducible apply same_plResend)

theorem same_pulseSend {s t : State} (h : Same s t) : Same s (pulseSend t) := by
  unfold pulseSend
  try dsimp only
  repeat' (first | with_reducible assumption | with_reducible apply same_onPrt | with_reducible apply same_send | with_reducible apply same_plFrame | (with_reducible refine same_ite (fun _ => ?_) (fun _ => ?_)))

theorem same_execPulseSend {s : State} : ∃ u, execPulseSend s = .next u ∧ Same s u := by
  refine ⟨_, rfl, ?_⟩
  have h := same_rfl s
  try dsimp only
  repeat' (first | with_reducible assumption | with_reducible apply same_pulseSend)

end Sys2Proof.Machine
end

