-- ==== Sys2Proof/Laws/Same/Loops.lean ====
section
/-! SUPPORT. Operations of Machine/Loops.lean that leave the control blocks (`Same`). -/

namespace Sys2Proof.Machine

theorem same_onLoop {s t : State} {a0 a1 a2} (h : Same s t) : Same s (onLoop a0 a1 a2 t) := by
  unfold onLoop
  try dsimp only
  repeat' (first | with_reducible assumption | with_reducible apply same_onAdp)

theorem same_selfFreeze {s t : State} {a0 a1} (h : Same s t) : Same s (selfFreeze a0 a1 t) := by
  unfold selfFreeze
  try dsimp only
  repeat' (first | with_reducible assumption | with_reducible apply same_note | with_reducible apply same_onAdp)

theorem same_countAction {s t : State} {a0} (h : Same s t) : Same s (countAction a0 t) := by
  unfold countAction
  try dsimp only
  repeat' (first | with_reducible assumption | with_reducible apply same_onAdp)

theorem same_limitHit {s t : State} {a0} (h : Same s t) : Same s (limitHit a0 t) := by
  unfold limitHit
  try dsimp only
  repeat' (first | with_reducible assumption | with_reducible apply same_onAdp)

theorem same_countReversal {s t : State} {a0} (h : Same s t) : Same s (countReversal a0 t) := by
  unfold countReversal
  try dsimp only
  repeat' (first | with_reducible assumption | with_reducible apply same_onAdp)

theorem same_loopAct {s t : State} {a0 a1 a2 a3 a4} (h : Same s t) : Same s (loopAct a0 a1 a2 a3 a4 t) := by
  unfold loopAct
  try dsimp only
  repeat' (first | with_reducible assumption | with_reducible apply same_countAction | with_reducible apply same_onLoop | with_reducible apply same_countReversal | with_reducible apply same_selfFreeze | (with_reducible refine same_ite (fun _ => ?_) (fun _ => ?_)) | split)

end Sys2Proof.Machine
end

