-- ==== Sys2Proof/Laws/Same/Sleds.lean ====
section
/-! SUPPORT. Operations of Machine/Sleds.lean that leave the control blocks (`Same`). -/

namespace Sys2Proof.Machine

theorem same_execPrsntChange {s : State} {a0 a1} : ∃ u, execPrsntChange a0 a1 s = .next u ∧ Same s u := by
  refine ⟨_, rfl, ?_⟩
  have h := same_rfl s
  try dsimp only
  repeat' (first | with_reducible assumption | with_reducible apply same_onPort)

theorem same_execRestExit {s : State} {a0} : ∃ u, execRestExit a0 s = .next u ∧ Same s u := by
  refine ⟨_, rfl, ?_⟩
  have h := same_rfl s
  try dsimp only
  repeat' (first | with_reducible assumption | with_reducible apply same_send | with_reducible apply same_onPort | (with_reducible refine same_ite (fun _ => ?_) (fun _ => ?_)))

end Sys2Proof.Machine
end

