-- ==== Sys2Proof/Laws/Same/Points.lean ====
section
/-! SUPPORT. Operations of Machine/Points.lean that leave the control blocks (`Same`). -/

namespace Sys2Proof.Machine

theorem same_execPreservedPageRelease {s : State} {a0 a1} : ∃ u, execPreservedPageRelease a0 a1 s = .next u ∧ Same s u := by
  refine ⟨_, rfl, ?_⟩
  have h := same_rfl s
  try dsimp only
  repeat' (first | with_reducible assumption | with_reducible apply same_after | with_reducible apply same_releasePage | (with_reducible refine same_ite (fun _ => ?_) (fun _ => ?_)))

theorem same_replPeriod {s t : State} {a0} (h : Same s t) : Same s (replPeriod a0 t) := by
  unfold replPeriod
  try dsimp only
  repeat' (first | with_reducible assumption | with_reducible apply same_onCmd | (with_reducible refine same_ite (fun _ => ?_) (fun _ => ?_)) | split)

theorem same_execReplPeriodExpiry {s : State} {a0} : ∃ u, execReplPeriodExpiry a0 s = .next u ∧ Same s u := by
  refine ⟨_, rfl, ?_⟩
  have h := same_rfl s
  try dsimp only
  repeat' (first | with_reducible assumption | with_reducible apply same_after | with_reducible apply same_replPeriod)

theorem same_replSessionWait {s t : State} {a0} (h : Same s t) : Same s (replSessionWait a0 t) := by
  unfold replSessionWait
  try dsimp only
  repeat' (first | with_reducible assumption | with_reducible apply same_openTarget | with_reducible apply same_onSource | (with_reducible refine same_foldl ?_ (fun u x h => ?_)))

theorem same_execReplSessionWaitExpiry {s : State} {a0} : ∃ u, execReplSessionWaitExpiry a0 s = .next u ∧ Same s u := by
  refine ⟨_, rfl, ?_⟩
  have h := same_rfl s
  try dsimp only
  repeat' (first | with_reducible assumption | with_reducible apply same_after | with_reducible apply same_replSessionWait)

theorem same_execReplLag {s : State} {a0} : ∃ u, execReplLag a0 s = .next u ∧ Same s u := by
  refine ⟨_, rfl, ?_⟩
  have h := same_rfl s
  try dsimp only
  repeat' (first | with_reducible assumption | with_reducible apply same_replLag)

end Sys2Proof.Machine
end

