-- ==== Sys2Proof/Laws/Same/Adapt.lean ====
section
/-! SUPPORT. Operations of Machine/Adapt.lean that leave the control blocks (`Same`). -/

namespace Sys2Proof.Machine

theorem same_vfCluster {s t : State} {a0 a1 a2 a3} (h : Same s t) : Same s (vfCluster a0 a1 a2 a3 t) := by
  unfold vfCluster
  try dsimp only
  repeat' (first | with_reducible assumption | with_reducible apply same_onAdp | with_reducible apply same_loopAct | with_reducible apply same_onLoop | with_reducible apply same_limitHit | (with_reducible refine same_ite (fun _ => ?_) (fun _ => ?_)))

theorem same_vfSample {s t : State} {a0 a1} (h : Same s t) : Same s (vfSample a0 a1 t) := by
  unfold vfSample
  try dsimp only
  repeat' (first | with_reducible assumption | with_reducible apply same_onAdp | with_reducible apply same_note | with_reducible apply same_vfCluster | (with_reducible refine same_foldl4 ?_ (fun u x h => ?_)) | (with_reducible refine same_foldl3 ?_ (fun u x h => ?_)) | (with_reducible refine same_foldl2 ?_ (fun u x h => ?_)) | (with_reducible refine same_foldl ?_ (fun u x h => ?_)) | (with_reducible refine same_ite (fun _ => ?_) (fun _ => ?_)))

theorem same_execAlVfSample {s : State} {a0 a1} : ∃ u, execAlVfSample a0 a1 s = .next u ∧ Same s u := by
  refine ⟨_, rfl, ?_⟩
  have h := same_rfl s
  try dsimp only
  repeat' (first | with_reducible assumption | with_reducible apply same_vfSample)

theorem same_gcUnit {s t : State} {a0 a1} (h : Same s t) : Same s (gcUnit a0 a1 t) := by
  unfold gcUnit
  try dsimp only
  repeat' (first | with_reducible assumption | with_reducible apply same_onLoop | with_reducible apply same_onTop | with_reducible apply same_note | with_reducible apply same_loopAct | with_reducible apply same_onAdp | (with_reducible refine same_ite (fun _ => ?_) (fun _ => ?_)) | split)

theorem same_gcSample {s t : State} {a0} (h : Same s t) : Same s (gcSample a0 t) := by
  unfold gcSample
  try dsimp only
  repeat' (first | with_reducible assumption | with_reducible apply same_onAdp | with_reducible apply same_gcUnit | (with_reducible refine same_foldl4 ?_ (fun u x h => ?_)) | (with_reducible refine same_foldl3 ?_ (fun u x h => ?_)) | (with_reducible refine same_foldl2 ?_ (fun u x h => ?_)) | (with_reducible refine same_foldl ?_ (fun u x h => ?_)) | (with_reducible refine same_ite (fun _ => ?_) (fun _ => ?_)))

theorem same_execAlGcSample {s : State} {a0} : ∃ u, execAlGcSample a0 s = .next u ∧ Same s u := by
  refine ⟨_, rfl, ?_⟩
  have h := same_rfl s
  try dsimp only
  repeat' (first | with_reducible assumption | with_reducible apply same_after | with_reducible apply same_gcSample)

theorem same_rbStep {s t : State} {a0 a1 a2} (h : Same s t) : Same s (rbStep a0 a1 a2 t) := by
  unfold rbStep
  try dsimp only
  repeat' (first | with_reducible assumption | with_reducible apply same_onLoop | with_reducible apply same_loopAct | with_reducible apply same_limitHit | (with_reducible refine same_ite (fun _ => ?_) (fun _ => ?_)))

theorem same_rbSample {s t : State} {a0 a1} (h : Same s t) : Same s (rbSample a0 a1 t) := by
  unfold rbSample
  try dsimp only
  repeat' (first | with_reducible assumption | with_reducible apply same_onAdp | with_reducible apply same_onPar | with_reducible apply same_rbStep | (with_reducible refine same_foldl4 ?_ (fun u x h => ?_)) | (with_reducible refine same_foldl3 ?_ (fun u x h => ?_)) | (with_reducible refine same_foldl2 ?_ (fun u x h => ?_)) | (with_reducible refine same_foldl ?_ (fun u x h => ?_)) | (with_reducible refine same_ite (fun _ => ?_) (fun _ => ?_)))

theorem same_execAlRbSample {s : State} {a0 a1} : ∃ u, execAlRbSample a0 a1 s = .next u ∧ Same s u := by
  refine ⟨_, rfl, ?_⟩
  have h := same_rfl s
  try dsimp only
  repeat' (first | with_reducible assumption | with_reducible apply same_rbSample)

end Sys2Proof.Machine
end

