-- ==== Sys2Proof/Laws/Same/Recorder.lean ====
section
/-! SUPPORT. Operations of Machine/Recorder.lean that leave the control blocks (`Same`). -/

namespace Sys2Proof.Machine

theorem same_spillEntries {s t : State} {a0 a1} (h : Same s t) : Same s (spillEntries a0 a1 t) := by
  induction a0 generalizing t a1 with
  | zero =>
    unfold spillEntries
    repeat' (first | with_reducible assumption | with_reducible apply ih | with_reducible apply same_send | with_reducible apply same_onEvr | (with_reducible refine same_ite (fun _ => ?_) (fun _ => ?_)) | split | (cases ‹_ + 1 = Nat.succ _›))
  | succ _ ih =>
    unfold spillEntries
    try dsimp only
    repeat' (first | with_reducible assumption | with_reducible apply ih | with_reducible apply same_send | with_reducible apply same_onEvr | (with_reducible refine same_ite (fun _ => ?_) (fun _ => ?_)) | split | (cases ‹_ + 1 = Nat.succ _›))

theorem same_evrSpill {s t : State} {a0} (h : Same s t) : Same s (evrSpill a0 t) := by
  unfold evrSpill
  try dsimp only
  repeat' (first | with_reducible assumption | with_reducible apply same_spillEntries | (with_reducible refine same_ite (fun _ => ?_) (fun _ => ?_)))

theorem same_execEvrSpill {s : State} {a0} : ∃ u, execEvrSpill a0 s = .next u ∧ Same s u := by
  refine ⟨_, rfl, ?_⟩
  have h := same_rfl s
  try dsimp only
  repeat' (first | with_reducible assumption | with_reducible apply same_evrSpill)

end Sys2Proof.Machine
end

