-- ==== Sys2Proof/WellFormed.lean ====
section
/-! DEFINITION. Which operands the rows of the opcode table allow: the numbers of rails, clock domains, ports, channels and units that the head has.
A command outside them is no event of this hardware; exec still answers it (it changes nothing, or the number is taken modulo its field). -/

namespace Sys2Proof

open Sys2Proof.Machine

/-- The sizes an access can have (R17): 1, 2 or 4 bytes. -/
def okSize (n : Nat) : Bool := n == 1 || n == 2 || n == 4

/-- The three reference clocks by their frequency in MHz (R600). -/
def okRefclk (n : Nat) : Bool := n == 25 || n == 100 || n == 156

/-- A unit descriptor index is below 8,192 (R71). -/
def okUnit (n : Nat) : Bool := decide (n < 2 ^ 13)

/-- Whether a command's operands are within what the head has. -/
def Instr.wellFormed : Instr → Bool
  | .registerWrite _ _ size _ => okSize size
  | .readRcField _ _ size => okSize size
  | .read64Low _ _ size => okSize size
  | .read64High _ _ size => okSize size
  | .write64Low _ _ size _ => okSize size
  | .write64High _ _ size _ => okSize size
  | .aoRailsInRange => true
  | .aoReleaseTimer => true
  | .railWaitEnd _ _ => true
  | .optionByteReadDone _ => true
  | .optionRereadTimer => true
  | .recordReadDone _ => true
  | .loadChecksDone => true
  | .clockGood domain => decide (domain < 13)
  | .clockFailure source => (decide (source < 13) || okRefclk source)
  | .cdcFallback crossing => decide (crossing < 1024)
  | .brownoutReset rail => decide (rail < 16)
  | .resetNLow _ => true
  | .resetNHigh => true
  | .watchdogExpiry => true
  | .rstWdogKick _ _ => true
  | .softResetL0 _ _ => true
  | .softResetL1 _ _ => true
  | .softResetL2 _ _ => true
  | .softResetL3 _ _ => true
  | .thermalTrip _ => true
  | .thermalTripEnd _ => true
  | .debugReset => true
  | .pwrReqRun _ _ => true
  | .pwrReqArmed _ _ => true
  | .pwrReqQuiet _ _ => true
  | .pwrReqDormant _ _ => true
  | .armIdleExpiry => true
  | .pwrWakeTimer => true
  | .powerEntryDone => true
  | .wakeComplete => true
  | .holdStart rail => rail.all (decide <| · < 16)
  | .holdClearTimer => true
  | .holdFlushDone => true
  | .subportDown _ => true
  | .subportUp _ => true
  | .fabCtrlWrite _ _ => true
  | .arpRequest _ _ _ => true
  | .neighbourSolicitation _ _ _ => true
  | .icmpEcho _ _ _ _ => true
  | .roceSend _ _ _ => true
  | .roceRdmaWrite _ _ _ _ _ => true
  | .roceRdmaWriteImm _ _ _ _ _ _ => true
  | .roceRdmaReadRequest _ _ _ _ => true
  | .roceAck _ => true
  | .roceNak _ _ _ => true
  | .roceCnp _ => true
  | .roceUnsupportedOpcode _ => true
  | .cmReq _ => true
  | .cmRtu _ => true
  | .cmDreq _ => true
  | .repRetryTimer _ => true
  | .lotData _ _ => true
  | .lotSend _ _ => true
  | .lotAck _ _ => true
  | .lotNak _ _ => true
  | .lotOpen _ _ => true
  | .lotClose _ _ => true
  | .lotCnp _ _ => true
  | .qpContextFetchDone idx => decide (idx < 2 ^ 18)
  | .retryTimeout _ => true
  | .rnrResendTimer _ => true
  | .qpErrLingerExpiry _ => true
  | .checkpointBatch => true
  | .cnpRateRaise _ _ => true
  | .eventMergeInterval _ _ => true
  | .addrAnnounceRepeat _ => true
  | .read _ => true
  | .write _ => true
  | .trim _ => true
  | .flush _ => true
  | .release _ => true
  | .takeOpen _ => true
  | .frameAppend _ => true
  | .frameRead _ => true
  | .takeSeal _ => true
  | .takeDelete _ => true
  | .takeInfo _ => true
  | .identify _ => true
  | .volumeInfo _ => true
  | .abort _ => true
  | .orphanStatus _ => true
  | .transferReadySend _ _ => true
  | .windowTimeout _ => true
  | .orphanKeepExpiry => true
  | .ingestBlockDone _ _ _ _ lane => decide (lane < 48)
  | .dramLineRead _ _ _ => true
  | .cmpJobSubmit _ => true
  | .cmpJobDone _ _ => true
  | .fprRebuild _ _ => true
  | .filterRebuildDone => true
  | .keyLoad _ _ => true
  | .keyErase _ _ => true
  | .keyLoadDone _ => true
  | .keyEraseDone slot => decide (slot < 1024)
  | .cipContextSave lane => decide (lane < 48)
  | .cipContextResume lane _ => decide (lane < 48)
  | .ftlFormat _ _ => true
  | .formatDone => true
  | .ftlReplayDone _ _ _ => true
  | .mapSpillTimer => true
  | .gcVictimStart top => okUnit top
  | .partialWaitExpiry top => okUnit top
  | .padWaitExpiry _ _ => true
  | .rowIdleCloseExpiry top => okUnit top
  | .journalSpill => true
  | .rebuildWaitExpiry die => decide (die < 2048)
  | .hemPatrolPace => true
  | .prsntChange port _ => decide (port < 32)
  | .prsntDebounceExpiry port => decide (port < 32)
  | .sledLinkL0 port _ => decide (port < 32)
  | .oslFlitReceive port _ => decide (port < 32)
  | .oslNak port _ => decide (port < 32)
  | .oslInitCredit port _ => decide (port < 32)
  | .oslEqSet port _ => decide (port < 32)
  | .oslEqAck port _ => decide (port < 32)
  | .sledRestIdle port => decide (port < 32)
  | .oslRestAck port => decide (port < 32)
  | .restExit port => decide (port < 32)
  | .retrainComplete port => decide (port < 32)
  | .retrainTimeout port => decide (port < 32)
  | .sldCmdTimeoutExpiry port tag => decide (port < 32) && decide (tag < 65535)
  | .oslCpl port _ => decide (port < 32)
  | .oslRdata port _ => decide (port < 32)
  | .oslNotice port _ => decide (port < 32)
  | .claimWaitExpiry => true
  | .plGroupUp group => decide (group < 4)
  | .plGroupDown group => decide (group < 4)
  | .plSessionStart _ => true
  | .plFrameReceive _ => true
  | .plQpCkpt _ _ _ => true
  | .plCmdRec _ _ _ => true
  | .plWinRec _ _ _ => true
  | .plOutRec _ _ _ => true
  | .plConnRec _ _ _ => true
  | .plHello _ _ _ => true
  | .plJnl _ _ => true
  | .plMap _ _ => true
  | .plRelease _ => true
  | .plSeg _ => true
  | .plFill _ _ => true
  | .plRepair _ _ => true
  | .plLost _ => true
  | .plSegfail _ => true
  | .plDiscard _ => true
  | .plRepairReq _ => true
  | .plPower _ => true
  | .plSynced _ => true
  | .plHandover _ => true
  | .plClaimed _ => true
  | .plUpdDone _ => true
  | .plResendTimer _ => true
  | .pulseSend => true
  | .pulseFrameReceive _ => true
  | .pulseWake _ => true
  | .pulseResetReq _ => true
  | .pulseYield _ => true
  | .pulseHandover _ => true
  | .heartbeatPeriodMiss _ => true
  | .plLostWaitExpiry => true
  | .joinWaitExpiry => true
  | .prtCtrlGiveVolumes _ _ => true
  | .prtCtrlHandback _ _ => true
  | .prtCtrlSoloStart _ _ => true
  | .prtCtrlSendResetReq _ _ => true
  | .snapCreate _ => true
  | .snapDelete _ => true
  | .preservedPageRelease _ _ => true
  | .snapRead _ => true
  | .snapFrameRead _ => true
  | .snapList _ => true
  | .replPoint _ => true
  | .replInfo _ => true
  | .replPromote _ => true
  | .replBegin _ => true
  | .replData _ => true
  | .replEnd _ => true
  | .replTakeDelete _ => true
  | .replPeriodExpiry vol => decide (vol < 4096)
  | .replSessionWaitExpiry target => decide (target < 16)
  | .replLag target => decide (target < 16)
  | .bufInitDone channels => channels.length == 12
  | .scrubStep _ => true
  | .mr4Poll channel rank _ => decide (channel < 12) && decide (rank < 4)
  | .refreshDue channel rank => decide (channel < 12) && decide (rank < 4)
  | .actTableWindow => true
  | .selfRefreshExitDone _ => true
  | .alVfSample _ _ => true
  | .alEqSample _ => true
  | .alGcSample _ => true
  | .alRbSample _ _ => true
  | .adpFreezeWrite _ _ => true
  | .mgmtRead _ _ => true
  | .mgmtWrite _ _ => true
  | .mgmtUpdBlock _ _ => true
  | .mgmtEvrRead _ _ => true
  | .junctionSample _ => true
  | .sensorPoll _ => true
  | .fanUpdate tach => decide (tach.length ≤ 4)
  | .fanTachFail fan _ => decide (fan < 4)
  | .mgtDebugSet _ _ => true
  | .mgtDebugClear _ _ => true
  | .evrCtrlWrite _ _ => true
  | .evrClear _ _ => true
  | .evrSpill _ => true
  | .msrExtGo _ _ => true
  | .msrDigGo _ _ => true
  | .msrDigDone => true
  | .msrVal0Read _ => true
  | .chainBlock _ _ => true
  | .chainAck _ _ => true
  | .chainNak _ _ => true
  | .chainResendTimer _ _ => true
  | .chainToken _ _ => true
  | .agreePeriodToken => true
  | .agreeLostTimer => true
  | .updVerifyDone _ => true
  | .updCtrlActivate _ _ => true
  | .updCtrlAbandon _ _ => true
  | .updCtrlRollback _ _ => true
  | .updCtrlRevoke _ _ => true
  | .updConfirmTimeout => true
  | .refclkReturn source => okRefclk source
  | .pwrWarnNHigh => true
  | .railRecovered rail => decide (rail < 16)
  | .cmRej _ => true
  | .lotOpenReply _ _ => true
  | .pauseFrameReceive _ _ _ => true
  | .chainLinkUp _ => true

/-- A well-formed command. -/
abbrev Instr.WellFormed (i : Instr) : Prop := i.wellFormed = true

end Sys2Proof
end

