-- ==== Sys2Proof/Tests/Slice0.lean ====
section
/-! SUPPORT. Small tests: an ill-formed command for each check of WellFormed; values the spec or a named standard gives; and, for each statement
with hypotheses, concrete states and operands that meet them, clause by clause. -/

set_option Elab.async false

namespace Sys2Proof.Tests

open Sys2Proof Sys2Proof.Machine

/-! ## States to start from -/

/-- A head whose domains are all released, alone. -/
def up : State :=
  { State.reset with
    rst := { stage := .run, aoRails := true, aoUp := true, mgUp := true, ddrUp := true, dpUp := true, hostUp := true, newCause := 0 }
    prt := { pair := .lone } }

/-- With parameters of an image. -/
def tuned (l : List (Nat × Nat)) (s : State) : State := { s with cfg := { s.cfg with img := some { entries := l.map fun e => ⟨e.1, 0, e.2⟩ } } }

/-- While the loader works. -/
def loading : State := { State.reset with rst := { stage := .loading, aoRails := true, aoUp := true } }

/-- An option-byte block of the given bytes 4 to 59, padded, with its magic and CRC. -/
def optBytes (l : Bytes) : Bytes := withCrc (padTo 60 (leBytes 4 0x4B534C50 ++ l))

/-! ## Well-formed commands -/

/-- A term for each check of WellFormed that it refuses. -/
theorem test_illFormed_control :
    ([.registerWrite .core 0 3 0, .readRcField .core 0 8, .read64Low .core 0 0, .read64High .core 0 5, .write64Low .core 0 3 0, .write64High .core 0 3 0
      , .clockGood 13, .clockFailure 13, .cdcFallback 1024, .brownoutReset 16, .holdStart (some 16), .refclkReturn 26, .railRecovered 16, .fanUpdate [0, 0, 0, 0, 0]
      , .fanTachFail 4 0, .bufInitDone [], .mr4Poll 12 0 0, .mr4Poll 0 4 0, .refreshDue 12 0, .refreshDue 0 4] : List Instr).all (fun c => !c.wellFormed) = true := by decide

/-- The same for the datapath and the links. -/
theorem test_illFormed_datapath :
    ([.qpContextFetchDone (2 ^ 18), .ingestBlockDone 0 0 0 none 48, .keyEraseDone 1024, .cipContextSave 48, .cipContextResume 48 0, .gcVictimStart 8192
      , .partialWaitExpiry 8192, .rowIdleCloseExpiry 8192, .rebuildWaitExpiry 2048, .prsntChange 32 true, .prsntDebounceExpiry 32, .sledLinkL0 32 none
      , .oslFlitReceive 32 [], .oslNak 32 [], .oslInitCredit 32 [], .oslEqSet 32 [], .oslEqAck 32 [], .sledRestIdle 32, .oslRestAck 32, .restExit 32
      , .retrainComplete 32, .retrainTimeout 32, .sldCmdTimeoutExpiry 32 0, .sldCmdTimeoutExpiry 0 65535, .oslCpl 32 [], .oslRdata 32 [], .oslNotice 32 []
      , .plGroupUp 4, .plGroupDown 4, .replPeriodExpiry 4096, .replSessionWaitExpiry 16, .replLag 16] : List Instr).all (fun c => !c.wellFormed) = true := by decide

/-- The last number that each range takes in is well formed. -/
theorem test_wellFormed_bounds :
    ([.registerWrite .core 0 4 0, .clockGood 12, .clockFailure 25, .cdcFallback 1023, .brownoutReset 15, .holdStart none, .keyEraseDone 1023, .cipContextSave 47
      , .gcVictimStart 8191, .rebuildWaitExpiry 2047, .prsntChange 31 true, .plGroupUp 3, .replPeriodExpiry 4095, .replLag 15, .bufInitDone (List.replicate 12 {})
      , .fanTachFail 3 0, .neighbourSolicitation 15 (BitVec.allOnes 128) 0] : List Instr).all (fun c => c.wellFormed) = true := by decide

/-! ## What the statements' hypotheses are met by -/

theorem meets_StepKeepsInvariant : up.Inv ∧ ∃ t, step up = .next t :=
  ⟨⟨⟨by decide, by decide⟩, by decide, by decide, by decide, by decide⟩, _, rfl⟩

theorem meets_EmptyQueueTicks : State.reset.pending = [] ∧ up.pending = [] := by decide

theorem meets_NarrowAccessHasNoEffect :
    up.reaches .core = true ∧ (1 ≠ 4 ∨ (0x150010 : BitVec 24).toNat % 4 ≠ 0) ∧ (4 ≠ 4 ∨ (0x150012 : BitVec 24).toNat % 4 ≠ 0) := by decide

theorem meets_SixtyFourBitRegister : up.reaches .core = true ∧ Requester.jtag ≠ .core := by decide

theorem meets_RegisterAccessCodes : up.reaches .core = true ∧ ({ up with mgt := { up.mgt with debug := true } } : State).reaches .jtag = true := by decide

theorem meets_AlwaysOnRelease :
    (let s := State.reset
     s.rst.level = .l0 ∧ s.rst.stage = .held ∧ s.rst.aoRails = false ∧ s.rst.ref25 = true ∧ s.rst.extHeld = false ∧ s.rst.trip = false ∧ s.rst.brown = 0)
    ∧ (let s : State := { State.reset with rst := { stage := .por, aoRails := true } }
       s.rst.level = .l0 ∧ s.rst.stage = .por) := by decide

theorem meets_RailWaitEndStartsTheLoad : ({ stage := .railWait } : Rst).stage = .railWait := rfl

/-- Sub-port 0 up, with an IPv4 address of this head on it. -/
def wired : State :=
  { up with
    fab := { up.fab with subUp := 1 }
    cfg := { up.cfg with img := some { addrs := [{ v4ok := true, ipv4 := 0x0A000001, v6ok := true, ipv6 := 0xFD00 }] } } }

/-- A Ready RC context of index 0 and generation 1: its QPN is 2^18. -/
def rcCtx : Ctx := { state := .ready, depth := 4, rxNext := 5, txNext := 9 }

/-- A head with that context. -/
def joined : State := { wired with qpc := { wired.qpc with ctx := [(0, rcCtx)] } }

/-- The header of a packet to it. -/
def rcHdr (psn : BitVec 24) : RoceHdr := ⟨0, 0, 0x40000, psn, true, true, false⟩

/-- A DRAM channel without fault. -/
def ddr : Machine.Channel := { speed := 6400 }

/-- Bytes 4 to 59 of an option-byte block that passes the format checks: version 1, slots A and B, a size, a partition. -/
theorem meets_OptionByteRead :
    (let s : State := { loading with cfg := { loading.cfg with optP := 6 } }
     s.rst.stage = .loading ∧ s.cfg.state = .options ∧ s.cfg.rereadWait = false ∧ (optBytes []).length = 64 ∧ s.cfg.dev = .primary
      ∧ s.cfg.optP.toNat < 7 ∧ crcGood (List.replicate 63 0 ++ [1]) = false)
    ∧ (let s : State := { loading with cfg := { loading.cfg with optP := 7 } }
       s.cfg.dev = .primary ∧ 7 ≤ s.cfg.optP.toNat ∧ s.cfg.state = .options) := by decide +kernel

theorem meets_LoaderWalk :
    loading.rst.stage = .loading ∧ loading.rst.dpUp = false ∧ loading.upd.staging = [] ∧ loading.upd.pend = false := by decide

theorem meets_ClocksReleaseTheDomains :
    (let s : State := { State.reset with rst := { stage := .mgStart, aoUp := true } }
     s.rst.aoUp = true ∧ s.rst.stage = .mgStart)
    ∧ (let s : State := { State.reset with rst := { stage := .dpStart, aoUp := true } }
       s.rst.aoUp = true ∧ s.rst.stage = .dpStart) := by decide

theorem meets_BufferInitialisation :
    let s : State := { State.reset with rst := { stage := .ddrStart, aoUp := true, mgUp := true, ddrUp := true } }
    s.rst.stage = .ddrStart ∧ s.rst.ddrUp = true ∧ (List.replicate 12 ddr).length = 12 ∧ s.rst.deferred = []
      ∧ initFault (s.param P.ddrRate) (List.replicate 12 ddr) = none
      ∧ initFault (s.param P.ddrRate) (List.replicate 11 ddr ++ [{ ddr with trainFails := 2 }]) = some (4, 11) := by decide +kernel

theorem meets_ClockFailures :
    getBit (0x1FFF : BitVec 13) 10 = true ∧ State.reset.rst.ref25 = true
      ∧ ({ State.reset with rst := { ref25 := false } } : State).rst.ref25 = false ∧ (tabGetD 1023 {} State.reset.clk.cdc).onQueue = false := by decide

theorem meets_SoftResets :
    up.rst.mgUp = true ∧ up.rst.stage = .run ∧ up.pwr.state = .run ∧ up.pwr.flushing = false ∧ up.causesStand = false ∧ up.part.profile2 = false
      ∧ (0x96400003 : Word).toNat / 2 ^ 16 = 0x9640 ∧ (0x96400003 : Word).toNat % 4 = 3 ∧ (0x96400003 : Word).toNat / 4 % 32 = Target.fab.code := by decide

theorem meets_ResetSources :
    up.pwr.flushing = false ∧ getBit up.rst.brown 15 = false ∧ up.rst.extHeld = false ∧ up.rst.trip = false
      ∧ (let s : State := { up with rst := { up.rst with extHeld := true, trip := true }, mgt := { up.mgt with debug := true } }
         s.pwr.flushing = false ∧ s.rst.extHeld = true ∧ s.rst.trip = true ∧ s.mgt.debug = true) := by decide

theorem meets_Watchdog :
    ∀ first : Bool, let s : State := { up with rst := { up.rst with wdogOn := true, wdogFirst := first } }
    s.rst.wdogOn = true ∧ s.rst.wdogFirst = first ∧ s.reaches .core = true := by decide

theorem meets_PowerRequests :
    (let s := tuned [(P.gcStartFree, 0)] up
     let u : State := { s with pwr := { s.pwr with req := 1 } }
     s.reaches .core = true ∧ s.rst.stage = .run ∧ s.pwr.state = .run ∧ s.pwr.transit = none ∧ s.pwr.proposed = none ∧ u.powerDeny .armed = 0
      ∧ s.prt.pair = .lone ∧ s.powerDeny .armed = 0)
    ∧ (let s : State := { up with prt := { up.prt with pair := .paired } }
       let u : State := { s with pwr := { s.pwr with req := 1 } }
       u.powerDeny .armed = 0 ∧ s.prt.pair = .paired)
    ∧ (let s : State := { up with prt := { up.prt with pair := .joining } }
       let u : State := { s with pwr := { s.pwr with req := 1 } }
       u.powerDeny .armed = 5)
    ∧ (tuned [(P.armIdle, 0)] up).param P.armIdle = 0 ∧ (tuned [(P.armIdle, 1)] up).param P.armIdle ≠ 0 := by decide +kernel

theorem meets_EntryAndWake :
    (let s : State := { up with pwr := { up.pwr with state := .armed, wakeTimer := 1 } }
     s.reaches .core = true ∧ s.prt.pair = .lone ∧ s.pwr.state = .armed ∧ s.pwr.transit = none ∧ s.pwr.wakeTimer ≠ 0)
    ∧ (let s : State := { up with pwr := { up.pwr with state := .armed, transit := some .run } }
       s.pwr.state = .armed ∧ s.pwr.transit = some .run ∧ s.pwr.wakeTimer = 0)
    ∧ (∀ p ∈ [Power.armed, .quiet, .dormant],
       let s := tuned [(P.quietAllow, 1), (P.dormantAllow, 1)] { up with pwr := { up.pwr with transit := some p } }
       s.prt.pair = .lone ∧ s.pwr.transit = some p ∧ s.powerDeny p = 0) := by decide +kernel

theorem meets_BrownOutHold :
    up.holdCan = true ∧ up.pwr.hold = false
      ∧ (let s : State := { up with pwr := { up.pwr with hold := true, flushing := true, borRuns := true } }
         s.holdCan = true ∧ s.pwr.hold = true ∧ s.pwr.railLow = 0 ∧ s.pwr.warnLow = false ∧ s.pwr.flushing = true ∧ s.pwr.borRuns = true
          ∧ getBit s.rst.brown 3 = false ∧ setBit s.pwr.railLow 3 false = 0) := by decide

theorem meets_SubportsUpAndDown :
    up.subIsUp 15 = false ∧ up.subEnabled 0 = true ∧ up.rst.hostUp = true ∧ getBit up.fab.addrWait 0 = false ∧ up.subIsUp 0 = false
      ∧ wired.subIsUp 0 = true ∧ wired.qpc.ctx = []
      ∧ (let s : State := { up with fab := { up.fab with ctrl := 0 } }
         s.accessStop .core 0x10000 4 = none ∧ s.fab.ctrl = 0) := by decide +kernel

theorem meets_FramesOfNoConnection :
    wired.rst.hostUp = true ∧ wired.rst.mgUp = true ∧ wired.subIsUp 0 = true
      ∧ (wired.addrAt 0 fun a => a.v4ok && a.ipv4 == 0x0A000001).isSome ∧ (wired.addrAt 0 fun a => a.v4ok && a.ipv4 == 0x0A000002) = none
      ∧ (wired.addrAt 0 fun a => a.v6ok && a.ipv6 == 0xFD00).isSome
      ∧ (wired.addrAt 0 fun a => (a.v4ok && mapped4 a.ipv4 == 0xFFFF0A000001) || (a.v6ok && a.ipv6 == 0xFFFF0A000001)).isSome
      ∧ tabGet 0 wired.fab.echo = none ∧ wired.mgmtAddr.1 < 2 ^ 32
      ∧ (let s : State := { wired with fab := { wired.fab with echo := [(0, 0, 1000)], announces := [(0, 1)] }, time := 49999999 }
         tabGet 0 s.fab.echo = some (0, 1000) ∧ s.since 0 < 50000000 ∧ tabGet 0 s.fab.announces = some 1)
      ∧ (tuned [(P.pauseMode, 1)] wired).param P.pauseMode = 1 ∧ (tuned [(P.pauseMode, 1)] wired).subIsUp 0 = true := by decide +kernel

/-- An option-byte block that passes the format checks: version 1, slot A of 64 KiB at 64 KiB, slot B at 128 KiB, no recorder region. -/
def goodOpt : Bytes :=
  optBytes ([1, 0, 0, 0, 0, 0, 0, 0] ++ leBytes 4 65536 ++ leBytes 4 65536 ++ leBytes 4 131072 ++ leBytes 4 65536 ++ leBytes 4 0 ++ leBytes 4 0)

theorem meets_OptionByteRead_good :
    goodOpt.length = 64 ∧ crcGood goodOpt = true ∧ optFormatGood goodOpt = true ∧ bitAt (fieldLe goodOpt 5 1) 4 = false := by decide +kernel

/-- A unit descriptor: KIND, ROLE, HEAD, PARENT, POS and bytes 8 on. -/
def unitBytes (kind role head parent pos : Nat) (l : Bytes) : Bytes :=
  padTo 64 (leBytes 1 kind ++ leBytes 1 role ++ leBytes 1 head ++ [0] ++ leBytes 2 parent ++ leBytes 2 pos ++ l)

/-- Descriptor `n` of the smallest tree, 36 to a head: a map band over eight sleds, three journal bands on a sled each, and their dies. -/
def unitOf (n : Nat) : Bytes :=
  let h := n / 36
  let j := n % 36
  let b := (j - 4) / 8
  let k := (j - 4) % 8
  let port := 16 * h + if b = 0 then k else b - 1
  if j < 4 then unitBytes 2 (if j = 0 then 2 else 3) h 0xFFFF 0 (leBytes 2 (36 * h + 4 + 8 * j) ++ [8, 0] ++ leBytes 2 16)
  else unitBytes 1 0 h (36 * h + b) k (leBytes 1 port ++ leBytes 1 (if b = 0 then 0 else 8 * b + k) ++ leBytes 1 (port % 16) ++ [1] ++ leBytes 2 256 ++ leBytes 2 256 ++ [64])

/-- A TRAILER record as the walk meets it, the fifth. -/
def trailerRaw : Bytes := withCrc ([0xFF, 0xFF, 1, 0] ++ leBytes 4 152 ++ leBytes 4 4 ++ List.replicate 152 0)

theorem meets_LoaderWalk_records :
    recCheck loading.part 65536 (some 7) [(some 0x0001, [1, 0, 0, 0] ++ leBytes 4 168), (some 0x0002, []), (some 0x0020, []), (some 0x0030, [])] 0 trailerRaw
        = .good (some 0xFFFF) (List.replicate 152 0)
      ∧ imageVerdict loading.part [(some 0xFFFF, padTo 152 [1])] [] = some 0x25 := by decide +kernel

/-- Record `k` of a TYPE (R61). -/
def recRaw (k ty : Nat) (body : Bytes) : Bytes := withCrc (leBytes 2 ty ++ [1, 0] ++ leBytes 4 body.length ++ leBytes 4 k ++ body)

/-- The smallest image as bytes: header, COMPILER, the journal homes, an address, both heads' trees, two unit descriptors to a record, up to TRAILER. -/
def imageFront : Bytes :=
  recRaw 0 0x0001 (padTo 32 ([1, 0, 0, 0] ++ leBytes 4 5600 ++ leBytes 8 0 ++ leBytes 4 7 ++ leBytes 4 41))
    ++ recRaw 1 0x0002 (padTo 32 (leBytes 4 0 ++ leBytes 4 1 ++ [1]))
    ++ recRaw 2 0x0010 ((List.range 6).flatMap fun k => leBytes 2 (0x0B00 + k % 3) ++ leBytes 2 (k / 3 + 1) ++ leBytes 8 (36 * (k / 3) + 1 + k % 3))
    ++ recRaw 3 0x0020 (padTo 48 [0, 0, 1])
    ++ (List.range 36).flatMap fun m => recRaw (4 + m) 0x0030 (unitOf (2 * m) ++ unitOf (2 * m + 1))

/-- The whole image: its trailer holds the digest of what is before it. -/
def wholeImage : Bytes :=
  imageFront ++ recRaw 40 0xFFFF (padTo 152 (beBytes 48 24666030776190362177395531102276138387998196369264345429156332459797316787687454349383492018147650313043630014182255))

theorem wholeImage_length : wholeImage.length = 5600 := by decide +kernel

theorem wholeImage_digest :
    sha384 (wholeImage.take 5432) = (rawBody (cutRecords 351 wholeImage) 0xFFFF).take 48 := by decide +kernel

theorem wholeImage_checks : (checkOnly up.part 65536 wholeImage).1 = true := by decide +kernel

theorem meets_LoaderWalk_image : ∃ recs, imageVerdict loading.part recs wholeImage = none := by
  have h := wholeImage_checks
  simp only [checkOnly, Bool.and_eq_true] at h
  exact ⟨_, eq_of_beq h.2⟩

theorem meets_ReliableRequests :
    joined.Hears (rcHdr 5) 0 rcCtx ∧ (rcHdr 5).psn.toNat = rcCtx.rxNext
      ∧ (joined.heard (rcHdr 5) 0).slotFree (qpnOf 0 rcCtx) rcCtx = true ∧ (List.replicate 64 (0 : Byte)).length = 64
      ∧ (joined.heard (rcHdr 5) 0).winAt rcCtx.taken 0x00100000 = none ∧ (joined.heard (rcHdr 5) 0).readsOut rcCtx < 16 := by
  unfold State.Hears; decide +kernel

/-- The same head with a window that may be written, index 0 and tag 1, and one that may be read, index 1 and tag 1. -/
def windowed : State :=
  { joined with cmd := { joined.cmd with wins := [(0, { tag := 1, acc := 0, seq := 0, wlen := 4096, off := 0 }),
                                                  (1, { tag := 1, acc := 0, seq := 1, wlen := 4096, off := 0, readPerm := true })] } }

theorem meets_ReliableRequests_windows :
    windowed.Hears (rcHdr 5) 0 rcCtx
      ∧ ((windowed.heard (rcHdr 5) 0).winAt rcCtx.taken 0x00100000).any (fun e => e.1 == 0 && !e.2.readPerm && !e.2.complete) = true
      ∧ ((windowed.heard (rcHdr 5) 0).winAt rcCtx.taken 0x00100001).any (fun e => e.1 == 1 && e.2.readPerm) = true
      ∧ (0x00100001 : BitVec 32) ≠ 0x00100000 := by
  unfold State.Hears; decide +kernel

/-- A packet one beyond the expected one, and the farthest ahead that still counts as ahead. -/
theorem meets_ReliableAnswers :
    joined.Hears (rcHdr 6) 0 rcCtx ∧ tabHas 0 joined.prt.probes = false ∧ rcCtx.gapNak = false ∧ rcCtx.rxNext < 2 ^ 24
      ∧ (tuned [(P.rnrRetryLimit, 7)] joined).param P.rnrRetryLimit = 7 ∧ (tuned [(P.rnrRetryLimit, 7)] joined).subIsUp 0 = true
      ∧ (∀ psn ∈ [6, 5 + 2 ^ 23 - 1], 0 < ((rcHdr (BitVec.ofNat 24 psn)).psn.toNat + 2 ^ 24 - rcCtx.rxNext) % 2 ^ 24
          ∧ ((rcHdr (BitVec.ofNat 24 psn)).psn.toNat + 2 ^ 24 - rcCtx.rxNext) % 2 ^ 24 < 2 ^ 23) := by
  unfold State.Hears; decide +kernel

/-- A request with good Munatra parameters: version 1, no flags, depth 4. -/
def goodReq : ConnReq := ⟨0, 0, 0, 7, 0, 4096, 0, 0, true, 0, [1, 0, 4, 0, 0, 0, 0, 0], 0, 0, 0⟩

theorem meets_ConnectionManagement :
    wired.prt.pair ≠ .fenced ∧ wired.rst.hostUp = true ∧ wired.subIsUp goodReq.sub.toNat = true ∧ wired.qpc.ctx = [] ∧ wired.pwr.state = .run
      ∧ wired.pwr.transit = none ∧ (wired.munatraGrant goodReq.priv false).isSome ∧ wired.munatraGrant [] false = none ∧ goodReq.rc = true
      ∧ wired.param P.pmtu ≤ goodReq.pmtu ∧ wired.freeCtx = some (0, 1)
      ∧ (∀ st ∈ [CtxState.connecting, .ready, .error],
          let c : Ctx := { rcCtx with state := st, reps := 3 }
          let s : State := { wired with qpc := { wired.qpc with ctx := [(0, c)] } }
          s.prt.pair ≠ .fenced ∧ s.ctxAt 0x40000 = some (0, c) ∧ c.lot = false ∧ c.state = st ∧ s.prt.round = none
            ∧ (s.qpc.miss.any fun m => m.2.1 == 0) = false) := by decide +kernel

theorem meets_ConnectionTimers :
    (let c : Ctx := { rcCtx with timeout := 1000, sent := [{ num := 8, msg := 0, body := .send [], sub := 0, rnrWait := true }],
                                 merges := [(0x0101, {}), (0x0102, { held := 2 })] }
     let s : State := { wired with qpc := { wired.qpc with ctx := [(0, c)], fetching := [(0, wired.time)] } }
     s.ctxAt 0x40000 = some (0, c) ∧ s.prt.round = none ∧ c.timeout ≠ 0 ∧ c.state = .ready ∧ c.sent.any (·.rnrWait) = true
      ∧ tabGet 0x0101 c.merges = some {} ∧ tabGet 0x0102 c.merges = some { held := 2 } ∧ s.qpc.fetching = [(0, s.time)] ∧ s.qpc.miss = [])
    ∧ (let s : State := { joined with prt := { joined.prt with round := some { cause := .solo, epoch := 1, waiting := [], granted := [] } } }
       s.ctxAt 0x40000 = some (0, rcCtx) ∧ s.prt.round.isSome)
    ∧ up.prt.pair ≠ .paired ∧ (∀ e ∈ up.qpc.ctx, e.2.changed = false)
    ∧ (let s : State := { joined with prt := { joined.prt with pair := .paired } }
       s.prt.pair = .paired ∧ s.qpc.ctx = [(0, rcCtx)] ∧ rcCtx.changed = true ∧ rcCtx.state = .ready ∧ s.capsuleWaits 0 = false) := by decide +kernel

/-- A LOT context and a head with it, LOT enabled. -/
def lotCtx : Ctx := { rcCtx with lot := true, addrs := [0], rxNext := 5, rxSet := [7] }

def loose : State :=
  let t := tuned [(P.lotEnable, 1)] wired
  { t with qpc := { t.qpc with ctx := [(0, lotCtx)] } }

/-- A LOT packet of an opcode, a connection, a packet number and a payload, its CRC good. -/
def lotRaw (op conn pkt : Nat) (pay : Bytes) : Bytes :=
  withCrc (leBytes 1 (0x10 + op) ++ [0] ++ leBytes 2 pay.length ++ leBytes 4 conn ++ leBytes 4 0 ++ leBytes 4 pkt ++ List.replicate 16 0 ++ pay)

theorem meets_LooseOrderTransport :
    (∀ op ∈ [1, 2, 3, 4, 7, 8], loose.HearsLot op ⟨0, 0, false⟩ (lotRaw op 0x40000 5 []) 0 lotCtx)
      ∧ (∀ pkt ∈ [5, 6, 8, 4 + loose.param P.lotRxWindow], numLe (2 ^ 32) lotCtx.rxNext (lotOf (lotRaw 1 0 pkt [])).pkt = true
          ∧ lotCtx.rxSet.contains (lotOf (lotRaw 1 0 pkt [])).pkt = false
          ∧ ((lotOf (lotRaw 1 0 pkt [])).pkt + 2 ^ 32 - lotCtx.rxNext) % 2 ^ 32 < loose.param P.lotRxWindow)
      ∧ (∀ pkt ∈ [4, 7], ¬ (numLe (2 ^ 32) lotCtx.rxNext pkt = true ∧ lotCtx.rxSet.contains pkt = false))
      ∧ loose.param P.lotRxWindow ≤ (5 + loose.param P.lotRxWindow + 2 ^ 32 - lotCtx.rxNext) % 2 ^ 32
      ∧ numLe (2 ^ 32) lotCtx.rxNext (5 + loose.param P.lotRxWindow) = true ∧ lotCtx.rxSet.contains (5 + loose.param P.lotRxWindow) = false
      ∧ (loose.qpc.miss.any fun m => m.2.1 == 0) = false ∧ crcGood [] = false
      ∧ (tuned [(P.lotEnable, 0)] wired).param P.lotEnable = 0 ∧ (tuned [(P.lotEnable, 0)] wired).subIsUp 0 = true
      ∧ (tuned [(P.lotEnable, 0)] wired).rst.hostUp = true := by
  unfold State.HearsLot; decide +kernel

/-- The body of an OPEN: connection, packet, message, one address, Munatra parameters of depth 4. -/
def openBody (conn : Nat) : Bytes := padTo 80 (leBytes 4 conn ++ leBytes 4 0 ++ leBytes 4 0 ++ leBytes 4 1) ++ [1, 0, 4, 0, 0, 0, 0, 0]

theorem meets_LooseOrderConnections :
    (let s := tuned [(P.lotEnable, 1)] wired
     let raw := lotRaw 5 0 0 (openBody 3)
     s.rst.hostUp = true ∧ s.subIsUp 0 = true ∧ s.prt.pair ≠ .fenced ∧ s.param P.lotEnable ≠ 0 ∧ crcGood raw = true ∧ lotShape raw = true
      ∧ (lotOf raw).pay.length = 88 ∧ (lotOf raw).op = 5 ∧ s.qpc.ctx = [] ∧ s.pwr.state = .run ∧ s.pwr.transit = none
      ∧ fieldLe (lotOf raw).pay 0 4 < 2 ^ 24 ∧ 1 ≤ fieldLe (lotOf raw).pay 12 4 ∧ fieldLe (lotOf raw).pay 12 4 ≤ 4
      ∧ (s.munatraGrant (slice (lotOf raw).pay 80 8) true).isSome ∧ s.freeCtx.isSome ∧ s.munatraGrant (slice (List.replicate 88 0) 80 8) true = none)
    ∧ (∀ conn ∈ [2 ^ 24, 2 ^ 24 - 1],
       let c : Ctx := { lotCtx with state := .connecting, replTarget := some 15 }
       let s : State := { loose with qpc := { loose.qpc with ctx := [(0, c)] } }
       let raw := lotRaw 6 0x40000 0 (openBody conn)
       crcGood raw = true ∧ lotShape raw = true ∧ (lotOf raw).pay.length = 88 ∧ (lotOf raw).op = 6 ∧ s.ctxAt (lotOf raw).conn = some (0, c)
        ∧ c.replTarget = some 15 ∧ c.state = .connecting ∧ fieldLe (lotOf raw).pay 0 4 = conn ∧ openAddrs (lotOf raw).pay ≠ []) := by decide +kernel

/-! ### Commands -/

/-- A head that serves four volumes: block 1 with snapshot 9, stream 2 with take 7 and its hold 9, source 3, replica 4 with point 3 begun. -/
def served : State :=
  { joined with
    cfg := { joined.cfg with img := some {
      entries := [⟨0x0E21, 0, 2⟩]
      addrs := [{ v4ok := true, ipv4 := 0x0A000001 }]
      vols := [{ vol := 0x1001, capacity := 100, snapshots := true }, { vol := 0x1002, stream := true, maxTakes := 10, snapshots := true },
               { vol := 0x1003, capacity := 100, replicate := true, replTarget := 0 }, { vol := 0x1004, capacity := 100, replTarget := 1 }] } }
    ftl := { joined.ftl with
      ready := true
      takes := [((2, 7), { frames := [(0, { bytes := 5000, extents := [], lens := [], short := false })] }), ((4, 7), { state := .sealed })] }
    rpl := { joined.rpl with
      snaps := [(1, { vol := 0x1001, snap := 9, kind := 0, sseq := 1 }), (2, { vol := 0x1002, snap := 9, kind := 1, sseq := 1, take := 7, hold := true })]
      replicas := [(4, { begun := some (3, 0x40000) })] } }

/-- With one outstanding command. -/
def asked (c : Cmd) : State := { served with cmd := { served.cmd with cmds := [c] } }

/-- A capsule of each row that passes every check, its range ending where the volume or the frame ends. -/
def passing : List Cmd :=
  let c (op vol lba take len param : Nat) : Cmd := { acc := 0, qpn := 0x40000, cid := 1, op := op, vol := vol, lba := lba, take := take, len := len, param := param }
  [c 0x01 0x1001 99 0 4096 0, c 0x02 0x1001 99 0 4096 0, c 0x03 0x1001 99 0 0 1, c 0x04 0x1001 0 0 0 0, c 0x10 0x1002 0 8 0 0, c 0x11 0x1002 1 7 1 0,
   c 0x12 0x1002 0 7 904 4096, c 0x13 0x1002 0 7 0 0, c 0x14 0x1002 0 7 0 0, c 0x15 0x1002 0 7 0 0, c 0x40 0 0 0 0 0, c 0x41 0 0 0 0 1, c 0x43 0 0 0 16 0,
   c 0x50 0x1001 0 0 0 (8 * 2 ^ 32), c 0x51 0x1001 0 0 0 (9 * 2 ^ 32), c 0x52 0x1001 99 0 4096 (9 * 2 ^ 32), c 0x53 0x1002 0 7 904 (9 * 2 ^ 32 + 4096),
   c 0x54 0x1001 0 0 32 0, c 0x55 0x1003 0 0 0 0, c 0x56 0x1003 0 0 0 0, c 0x57 0x1004 0 0 0 0, c 0x58 0x1004 0 0 0 4, c 0x59 0x1004 0 0 32 3,
   c 0x5A 0x1004 0 0 0 3, c 0x5B 0x1004 0 7 0 0, c 0x0F 0x1001 0 0 0 5, c 0x42 0 0 0 0 1]

theorem meets_CapsuleSteps :
    served.unchecked 0x40000 = none ∧ passing.map (·.op) = capsuleRows.map (·.1) ++ [0x0F, 0x42]
      ∧ (∀ c ∈ passing, (asked c).unchecked 0x40000 = some c ∧ (asked c).ctxAt 0x40000 = some (0, rcCtx) ∧ (asked c).checkCapsule c rcCtx = none
          ∧ (asked c).cmdAt c.acc = some c ∧ c.fence = false)
      ∧ (∀ c ∈ passing, let bad : Cmd := { c with raw := [0, 4], fence := true }
          (asked bad).unchecked 0x40000 = some bad ∧ ((asked bad).checkCapsule bad rcCtx).isSome ∧ (c.op = 0x42 → bad.fence = true)) := by decide +kernel

/-- A write of one block that ends where volume 1 does, and a head that serves one volume. -/
def aWrite : Cmd := { acc := 0, qpn := 0x40000, cid := 1, op := 0x02, vol := 0x1001, lba := 99, len := 4096 }

def serving (v : VolPolicy) (c : Cmd) : State :=
  { asked c with cfg := { served.cfg with img := some { entries := [⟨0x0E21, 0, 2⟩], vols := [v] } } }

theorem meets_BlockCapsuleChecks :
    let v : VolPolicy := { vol := 0x1001, capacity := 100 }
    let s := serving v aWrite
    s.unchecked 0x40000 = some aWrite ∧ s.ctxAt 0x40000 = some (0, rcCtx) ∧ aWrite.op = 0x02 ∧ fieldLe aWrite.raw 1 1 / 4 = 0
      ∧ allZero (slice aWrite.raw 6 2) = true ∧ allZero (slice aWrite.raw 28 4) = true ∧ allZero (slice aWrite.raw 48 12) = true
      ∧ ((s.outstandingOn aWrite.qpn).any fun y => y.acc != aWrite.acc && y.cid == aWrite.cid) = false ∧ s.volOf aWrite = some v ∧ s.mantle v = true
      ∧ aWrite.vol / 2 ^ 12 = v.vol / 2 ^ 12 ∧ aWrite.take = 0 ∧ aWrite.param = 0 ∧ aWrite.pull = false ∧ aWrite.hkey = 0 ∧ aWrite.haddr = 0
      ∧ aWrite.len ≠ 0 ∧ aWrite.len % 4096 = 0 ∧ aWrite.len ≤ s.param P.cmdMaxLen ∧ aWrite.lba + aWrite.len / 4096 = v.capacity
      ∧ s.isReplica v = false ∧ v.encrypt = false := by decide +kernel

/-- The cases in which each check fails. -/
theorem meets_BlockCapsuleChecks_fails :
    fieldLe { aWrite with raw := [2, 4] }.raw 1 1 / 4 ≠ 0
      ∧ (let s : State := { served with cmd := { served.cmd with cmds := [aWrite, { aWrite with acc := 1, phase := .moving }] } }
         s.unchecked 0x40000 = some aWrite ∧ ((s.outstandingOn aWrite.qpn).any fun y => y.acc != aWrite.acc && y.cid == aWrite.cid) = true)
      ∧ (asked { aWrite with vol := 0x1005 }).volOf { aWrite with vol := 0x1005 } = none
      ∧ { asked aWrite with ftl := {} }.mantle { vol := 0x1001 } = false
      ∧ 0x2001 / 2 ^ 12 ≠ 0x1001 / 2 ^ 12
      ∧ (∀ len ∈ [0, 4095, served.param P.cmdMaxLen + 4096], len = 0 ∨ len % 4096 ≠ 0 ∨ served.param P.cmdMaxLen < len)
      ∧ (serving { vol := 0x1001, capacity := 99 } aWrite).volOf aWrite = some { vol := 0x1001, capacity := 99 } ∧ 99 < aWrite.lba + aWrite.len / 4096
      ∧ (let v : VolPolicy := { vol := 0x1001, capacity := 100, replTarget := 1 }
         (serving v aWrite).isReplica v = true ∧ (serving v aWrite).volOf aWrite = some v)
      ∧ (let v : VolPolicy := { vol := 0x1001, capacity := 100, encrypt := true, keySlot := 1023 }
         (serving v aWrite).volKey v = none ∧ (serving v aWrite).volOf aWrite = some v ∧ (serving v aWrite).isReplica v = false) := by decide +kernel

theorem meets_InformationResults :
    (∃ v, served.vol 1 = some v)
      ∧ (let c : Cmd := { acc := 0, qpn := 0x40000, cid := 1, op := 0x15, vol := 0x1002, take := 7 }
         let s1 := chg c.acc (fun c => { c with phase := .moving }) (asked c)
         ∃ v t, s1.volOf c = some v ∧ s1.spaceStop c v = none ∧ (asked c).take c.volId c.take = some t)
      ∧ (let c : Cmd := { acc := 0, qpn := 0x40000, cid := 1, op := 0x42, param := 1 }
         ((chg c.acc (fun c => { c with phase := .moving }) (asked c)).cmd.cmds.find? fun x => x.qpn == c.qpn && x.cid == c.param % 2 ^ 16 && x.acc != c.acc && !x.orphan)
          = none) :=
  ⟨⟨_, rfl⟩, ⟨_, _, rfl, rfl, rfl⟩, by decide +kernel⟩

theorem meets_WindowsAndOrphans :
    (let c : Cmd := { aWrite with phase := .moving }
     let s : State := { asked c with cmd := { (asked c).cmd with wins := [(0, { tag := 1, acc := 0, seq := 0, wlen := 4096, off := 0 })],
                                                                   orphans := [⟨0x40000, 1, 0, 1, 0, 0, 0⟩] } }
     (s.cmd.cmds.find? fun c => c.qpn == 0x40000 && c.cid == 1 && c.takesData && !c.orphan) = some c ∧ c.phase = .moving
      ∧ (tabGet 0 s.cmd.wins).any (fun w => w.acc == 0 && w.valid && !w.complete) = true ∧ s.cmdAt 0 = some c ∧ c.held = none ∧ c.takesData = true
      ∧ s.pwr.hold = false ∧ s.roundHolds c.vol = false ∧ c.fail = none ∧ s.cmd.orphans = [⟨0x40000, 1, 0, 1, 0, 0, 0⟩])
    ∧ (({ tag := 1, acc := 0, seq := 0, wlen := 4096, off := 0, complete := true } : Window).complete = true) := by decide +kernel

/-! ### Engines, flash translation, sleds -/

theorem meets_IngestBlocks :
    (let c : Cmd := { aWrite with phase := .moving }
     let s : State := { asked c with ing := { (asked c).ing with frags := [⟨0, 0, List.replicate 4096 1⟩] } }
     s.dpAnswers = true ∧ (s.cmd.cmds.find? fun c => c.qpn == 0x40000 && c.cid == 1 && c.isWrite && c.held.isNone) = some c ∧ (s.volOf c).isSome
      ∧ 0 < c.blocks ∧ c.blocksIn.contains 0 = false ∧ c.blocksBad.contains 0 = false ∧ (s.assemble c.acc 0 (c.blockLen 0)).isSome ∧ c.blocks ≤ 1)
    ∧ ({ aWrite with blocksIn := [0] } : Cmd).blocksIn.contains 0 = true := by decide +kernel

def aJob : CmpJob := { op := 1, client := 0, blocks := 2, inAddr := 0, outAddr := 0, outSize := 16384, jobId := 5 }

/-- A record of a block is at most 4,112 bytes (R247): the output's size is what the hypothesis asks, whatever the compressor. -/
theorem meets_JobsAndFilter :
    served.dpAnswers = true ∧ aJob.op = 1 ∧ 1 ≤ aJob.blocks ∧ aJob.blocks ≤ 65536 ∧ aJob.outSize % 16 = 0
      ∧ ({ up with cmp := { up.cmp with jobs := [aJob] } } : State).cmp.jobs = [aJob] ∧ aJob.blocks = 1 + 1
      ∧ (List.replicate 4096 (0 : Byte)).length = 4096 ∧ ({ aJob with op := 3 } : CmpJob).op ≠ 1 ∧ ({ aJob with op := 3 } : CmpJob).op ≠ 2
      ∧ up.accessStop .core 0x50034 4 = none ∧ ({ up with fpr := { up.fpr with rebuilding := true } } : State).fpr.rebuilding = true
      ∧ up.fpr.rebuilding = false := by decide +kernel

/-- A key slot in a state. -/
def keyed (st : SlotState) : State := { up with cip := { up.cip with slots := [(1023, { state := st, kind := 2 })] } }

theorem meets_KeyBus :
    up.accessStop .core 0x70008 4 = none ∧ Requester.core ≠ .jtag ∧ up.cip.kbusStat ≠ 1
      ∧ (let v : Word := 0x9640_2BFF
         v.toNat / 2 ^ 16 = 0x9640 ∧ v.toNat % 2 ^ 10 = 1023 ∧ v.toNat / 2 ^ 10 % 4 = 2 ∧ v.toNat / 2 ^ 13 % 4 = 1 ∧ v.toNat / 2 ^ 12 % 2 = 0)
      ∧ (let v : Word := 0x9640_23FF
         v.toNat / 2 ^ 10 % 4 = 0 ∧ v.toNat / 2 ^ 13 % 4 = 1)
      ∧ (let v : Word := 0x9640_43FF
         v.toNat / 2 ^ 16 = 0x9640 ∧ v.toNat / 2 ^ 13 % 4 = 2 ∧ v.toNat % 2 ^ 10 = 1023)
      ∧ tabGet 1023 up.cip.slots = none ∧ (tabGet 1023 (keyed .ready).cip.slots).any (fun k => k.state != .empty) = true
      ∧ (tuned [(P.keyClearAllow, 1)] up).param P.keyClearAllow ≠ 0 ∧ (tuned [(P.keyClearAllow, 0)] up).param P.keyClearAllow = 0
      ∧ (tuned [(P.keyClearAllow, 1)] up).accessStop .core 0x70008 4 = none
      ∧ (tabGet 1023 (keyed .erasing).cip.slots).any (fun k => k.state == .erasing) = true
      ∧ ({ up with cip := { up.cip with kbusOp := some ⟨1023, 2, false, []⟩ } } : State).cip.kbusOp = some ⟨1023, 2, false, []⟩ := by decide +kernel

theorem meets_SavedContexts :
    (let m : GcmMsg := { ref := 0, cls := 0, slot := 1, total := 2 ^ 20 }
     let s : State := { up with cip := { up.cip with lanes := [(16, m)] } }
     tabGet 16 s.cip.lanes = some m ∧ m.doneBytes + s.param P.cipSlice * 1024 < m.total ∧ s.cip.ctxRam.length < 256)
    ∧ (let m : GcmMsg := { ref := 0, cls := 0, slot := 1, total := 1024 }
       let s : State := { up with cip := { up.cip with lanes := [(16, m)] } }
       m.total ≤ m.doneBytes + s.param P.cipSlice * 1024)
    ∧ (let x : CipCtx := ⟨0, 1, [], [], 0, 128, 7⟩
       let s : State := { up with cip := { up.cip with ctxRam := [x] } }
       s.cip.ctxRam = [x] ∧ x.ref = 7 ∧ s.cip.ctxSpill = [] ∧ s.chunkOf 7 = none ∧ (classLanes x.cls).contains 31 = true ∧ s.laneInService 31 = true
        ∧ tabHas 31 s.cip.lanes = false) := by decide +kernel

theorem meets_FormatAndReplay :
    (let s : State := { up with ftl := { up.ftl with noLog := true } }
     s.accessStop .core 0x90004 4 = none ∧ (0x96400000 : Word).toNat / 2 ^ 16 = 0x9640 ∧ s.ftl.noLog = true ∧ s.ftl.formatting = false ∧ s.ownDies = [])
    ∧ up.ftl.noLog = false
    ∧ (let s : State := { up with ftl := { up.ftl with formatting := true } }
       s.ftl.formatting = true ∧ s.sld.ports = [] ∧ s.segUnits = [])
    ∧ (let s : State := { up with ftl := { up.ftl with replay := true } }
       s.ftl.replay = true ∧ s.ftl.replayed = false ∧ ∀ b ∈ [List.replicate 4 (1 : Byte)], logGood b = false)
    ∧ up.ftl.replay = false := by decide +kernel

/-- A head with one block top unit over eight dies on port 0, formatted. -/
def flashed : State :=
  { served with
    cfg := { served.cfg with img := some {
      units := { kind := .band, role := .top, base := 1, width := 8, rsvSegs := 2 }
        :: (List.range 8).map fun k => { kind := .die, parent := some 0, pos := k, die := k, planes := 1, blocks := 256, pages := 256, pageKib := 64 } } }
    ftl := { served.ftl with tops := [(0, { formatted := true })] } }

theorem meets_MediaTimers :
    flashed.ftl.ready = true ∧ flashed.prt.pair = .lone ∧ flashed.serves 0 = true ∧ flashed.blockTops.contains 0 = true
      ∧ ({ flashed with prt := { flashed.prt with pair := .paired } } : State).prt.pair ≠ .lone
      ∧ (let c : Cmd := { acc := 0, qpn := 0x40000, cid := 1, op := 0x11 }
         ((asked c).cmd.cmds.find? fun c => c.qpn == 0x40000 && c.cid == 1 && !c.orphan) = some c ∧ (asked c).ftl.ready = true)
      ∧ (tabGetD 7 {} flashed.ftl.dies).missing = true ∧ (flashed.dieOf 7).isSome ∧ flashed.par.waited.contains 7 = false
      ∧ (tabGetD 7 {} ([(7, { missing := false })] : Tab Nat DieSt)).missing = false := by decide +kernel

/-- A head with one sled port in a state. -/
def sledded (q : SledPort) : State := { up with sld := { up.sld with ports := [(31, q)] } }

theorem meets_SledPresenceAndLinks :
    (let s := sledded { raw := true, bouncing := true }
     (s.port 31).bouncing = true ∧ (s.port 31).raw = true ∧ (s.port 31).state = .down ∧ s.portOn 31 = true ∧ s.sledsOn = true)
    ∧ (∀ here : Bool, let s := sledded { raw := false, present := here, bouncing := true }
       (s.port 31).bouncing = true ∧ (s.port 31).raw = false ∧ (s.port 31).present = here)
    ∧ (up.port 31).bouncing = false
    ∧ (∀ x1 ∈ [0, 1], let t := tuned [(P.sldX1Allow, x1)] (sledded { present := true, state := .training })
       (t.port 31).live = false ∧ (t.port 31).present = true ∧ t.portOn 31 = true ∧ t.sledsOn = true ∧ t.flag P.sldX1Allow = decide (x1 = 1))
    ∧ ((sledded { state := .l0 }).port 31).live = true
    ∧ (let s := sledded { state := .recovery }
       (s.port 31).state = .recovery ∧ (s.port 31).replay = [] ∧ (s.port 31).forTimeout = false ∧ s.par.resyncs = [])
    ∧ ((sledded { state := .l0 }).port 31).state ≠ .recovery
    ∧ tabHas 3 ((sledded { state := .l0 }).port 31).tx = false := by decide +kernel

/-- A control word or a message of a sled bridge: bytes 0 to 31 with some of them set. -/
def oslWord (w : Nat) : Bytes := leBytes 8 w ++ List.replicate 24 0

/-- A transaction of TAG 3 that is not a RECALL. -/
def aTx : OslTx := { what := .dieInfo 0, op := 0, chan := 0, args := [], data := [], since := 0 }

/-- A flit of kind 1, number 0, with its check code. -/
def aFlit : Bytes := padTo 504 [1] ++ leBytes 8 12781683450901321741

/-- A check code whose remainder is a number before each byte, so that long strings evaluate. -/
def crcRun (poly : Nat) : Bytes → Nat → Nat
  | [], c => c
  | b :: l, 0 => crcRun poly l (crcByte poly 0 b)
  | b :: l, c + 1 => crcRun poly l (crcByte poly (c + 1) b)

theorem crcRun_eq (poly : Nat) (l : Bytes) (c : Nat) : l.foldl (crcByte poly) c = crcRun poly l c := by
  induction l generalizing c with
  | nil => simp [crcRun]
  | cons b l ih => cases c <;> simp [crcRun, ih]

theorem aFlit_good : flitGood aFlit = true := by
  rw [flitGood, carryK, crcRun_eq]
  decide +kernel

theorem meets_SledFlits :
    (let s := sledded { state := .l0 }
     (s.port 31).state = .l0 ∧ (s.port 31).naked = false ∧ fieldLe aFlit 0 1 % 16 ≠ 0
      ∧ BitVec.ofNat 12 (fieldLe aFlit 2 2) = (s.port 31).acked.getD (BitVec.allOnes 12) + 1
      ∧ flitGood [1] = false ∧ fieldLe [1] 0 1 % 16 ≠ 0)
    ∧ ((sledded { state := .l0, naked := true }).port 31).naked = true
    ∧ fieldLe (oslWord 1) 0 1 = 0x01
    ∧ (let t := ackFlits 31 (BitVec.ofNat 12 (bitsAt (leNat ((oslWord 1).take 8)) 16 12)) (sledded { state := .l0 })
       (t.port 31).replay = [])
    ∧ (∀ n ∈ [0, 255], ((ackFlits 31 (BitVec.ofNat 12 (bitsAt (leNat ((oslWord (1 + 2 * 2 ^ 16)).take 8)) 16 12))
         (sledded { state := .l0, replay := [(3, [], n)] })).port 31).replay = [(3, [], n)]
       ∧ (n = 0 → n < up.param P.sldReplayLimit) ∧ (n = 255 → up.param P.sldReplayLimit ≤ n))
    ∧ leNat ((oslWord 2).take 8) % 256 = 0x02 ∧ leNat ((oslWord 3).take 8) % 256 = 0x03 ∧ leNat ((oslWord 4).take 8) % 256 = 0x04
    ∧ (let s : State := { sledded { state := .l0 } with pwr := { up.pwr with state := .armed } }
       (s.port 31).tx = [] ∧ (s.port 31).queue = [] ∧ (s.port 31).restAsked = false ∧ s.pwr.state = .armed)
    ∧ ((sledded { state := .l0, restAsked := true }).port 31).restAsked = true := by decide +kernel

/-- Coefficients that fit, where LF, which the spec leaves open, is at most 63, and some that never do; of a lane there is. -/
theorem meets_SledFlits_coefficients :
    (headLf ≤ 63 → eqFits 0 0 63 = true) ∧ eqFits 0 0 0 = false ∧ bitsAt (leNat ((oslWord 3).take 8)) 8 1 < ((sledded { state := .l0 }).port 31).eq.length :=
  ⟨fun h => by simp [eqFits, h], by simp [eqFits], by decide⟩

theorem meets_SledReplies :
    (∀ op ∈ [0x80, 0x81],
      let raw : Bytes := leBytes 1 op ++ [0] ++ leBytes 2 3 ++ List.replicate 28 0
      let s := sledded { state := .l0, tx := [(3, aTx)] }
      (s.port 31).state = .l0 ∧ 32 ≤ raw.length ∧ fieldLe raw 0 1 = op ∧ fieldLe raw 16 1 ≠ 0x07 ∧ tabGet (fieldLe raw 2 2) (s.port 31).tx = some aTx)
    ∧ (∀ old, aTx.what ≠ .recall old)
    ∧ (∀ kind ∈ [1, 2, 3, 4],
      let raw : Bytes := leBytes 1 0x82 ++ List.replicate 15 0 ++ leBytes 1 kind ++ List.replicate 15 0
      let s : State := { sledded { state := .l0 } with cfg := { up.cfg with img := some { units := [{ kind := .die, port := 31, die := 0 }] } } }
      fieldLe raw 0 1 = 0x82 ∧ fieldLe raw 16 1 = kind ∧ 32 ≤ raw.length ∧ (s.port 31).state = .l0 ∧ (s.dieOf (31 * 64 + fieldLe raw 17 1)).isSome) := by
  refine ⟨by decide +kernel, fun old h => (nomatch h), by decide +kernel⟩

/-! ### The partner -/

/-- A head with the partner link's key, a group up and the partner's session 5 heard up to frame 9. -/
def linked : State :=
  { up with
    cip := { up.cip with slots := [(up.param P.plKeySlot, { state := .ready, kind := 2, key := List.replicate 32 7 })] }
    prt := { up.prt with pair := .paired, groups := 1, peerSession := some 0x80000005, fack := some 9 } }

theorem meets_PartnerLink :
    linked.rst.dpUp = true ∧ 0 < linked.plGroups ∧ getBit up.prt.groups 0 = false ∧ getBit linked.prt.groups 0 = true
      ∧ setBit linked.prt.groups 0 false = 0 ∧ linked.prt.groups ≠ 0 ∧ linked.prt.session = none ∧ linked.prt.pair ≠ .fenced ∧ linked.plKey.isSome
      ∧ gcmOpen (List.replicate 32 7) (leBytes 4 0 ++ leBytes 8 0) (List.replicate 48 0) (List.replicate 16 0) = none
      ∧ linked.plKey = some (List.replicate 32 7) ∧ linked.prt.ckpt.sent = []
      ∧ (let m : PlMsg := ⟨0, 1, [], 0, .none⟩
         ({ linked with prt := { linked.prt with map := { sent := [m] } } } : State).prt.map.sent = [m]) := by decide +kernel

/-- A frame of the partner: number 10 of session 5, of head 1, heartbeat only. -/
def frameHead : Bytes := [0x11, 1] ++ leBytes 2 0 ++ leBytes 4 0x80000005 ++ leBytes 8 10 ++ List.replicate 32 0

def aFrame : Bytes := frameHead ++ gcmSeal (List.replicate 32 7) (leBytes 4 0x80000005 ++ leBytes 8 10) frameHead []

theorem meets_PartnerFrames :
    linked.rst.dpUp = true ∧ linked.prt.groups ≠ 0 ∧ linked.plKey = some (List.replicate 32 7) ∧ linked.prt.peerSession = some 0x80000005
      ∧ linked.prt.fack = some 9 ∧ linked.prt.ahead = [] ∧ 64 ≤ aFrame.length ∧ fieldLe (aFrame.take 48) 4 4 = 0x80000005 ∧ fieldLe (aFrame.take 48) 8 8 = 9 + 1
      ∧ fieldLe (aFrame.take 48) 2 2 + 64 = aFrame.length ∧ fieldLe (aFrame.take 48) 0 1 = 0x11 ∧ fieldLe (aFrame.take 48) 1 1 ≠ linked.head
      ∧ (gcmOpen (List.replicate 32 7) (leBytes 4 0x80000005 ++ leBytes 8 (9 + 1)) (aFrame.take 48) (aFrame.drop 48)).isSome := by decide +kernel

theorem meets_PartnerMessages :
    linked.plTakes = true ∧ linked.prt.ckpt.rxNext < 2 ^ 32 ∧ linked.prt.fenceWait = [] ∧ linked.fenceMet (2 ^ 32 - 1) = true ∧ linked.fenceMet 0 = false
      ∧ linked.prt.ckpt.rxNext = 0 ∧ linked.prt.jnl.rxNext = 0 ∧ linked.prt.map.rxNext = 0 ∧ linked.prt.pair = .paired ∧ linked.holdsShadow = true
      ∧ (shadowSeg [] linked).1 = false
      ∧ (shadowSeg (List.replicate 24 0 ++ leBytes 8 (if partialP [] = 0 then 1 else 0)) linked).1 = true := by decide +kernel

/-- A pulse frame of head 1 with a command. -/
def pulseRaw (cmd : Nat) : Bytes := withCrc ([1, 1, 1, 0, 0, 0, 0, 0, 0] ++ leBytes 1 cmd ++ [0, 0])

theorem meets_PulseLink :
    up.rst.aoUp = true ∧ up.beats = true ∧ up.prt.pulseCmd.2.2.2 = 0 ∧ up.pwr.state = .run
      ∧ ({ up with pwr := { up.pwr with state := .quiet } } : State).beats = true ∧ loading.beats = false ∧ loading.rst.aoUp = true
      ∧ pulseGood [] = false ∧ (∀ c ∈ [1, 2, 3, 4], pulseGood (pulseRaw c) = true ∧ fieldLe (pulseRaw c) 0 1 = 1 ∧ fieldLe (pulseRaw c) 1 1 ≠ up.head
          ∧ fieldLe (pulseRaw c) 9 1 = c ∧ fieldLe (pulseRaw c) 10 2 = 0)
      ∧ up.prt.peerCmdId ≠ some 1 ∧ ({ up with prt := { up.prt with peerCmdId := some 1 } } : State).prt.peerCmdId = some 1
      ∧ (let s : State := { up with prt := { up.prt with peerSeen := true, missPl := up.param P.hbMisses, missPulse := up.param P.hbMisses - 1 } }
         s.beats = true ∧ s.prt.peerSeen = true ∧ s.prt.lostRaised = false ∧ s.prt.missPl = s.param P.hbMisses ∧ s.prt.missPulse + 1 = s.param P.hbMisses)
      ∧ (∀ pref : Bool, let s : State := { up with prt := { up.prt with pair := .paired, hold := true, plDown := true }, rst := { up.rst with prefHead := pref } }
         s.prt.pair = .paired ∧ s.prt.hold = true ∧ s.prt.plDown = true ∧ s.rst.prefHead = pref) ∧ up.prt.pair ≠ .paired := by decide +kernel

/-- A round over two sleds, of which some are granted. -/
def rounded (granted : List Nat) : State :=
  { up with
    cfg := { up.cfg with img := some { units := [{ kind := .die, port := 0 }, { kind := .die, port := 1 }] } }
    prt := { up.prt with pair := .joining, round := some { cause := .solo, epoch := 1, waiting := [], granted := granted } }
    sld := { up.sld with ports := [(0, { state := .l0 }), (1, { state := .l0 })] } }

theorem meets_PairingCommands :
    up.accessStop .core 0xD001C 4 = none ∧ (0 : Word).toNat / 2 ^ 16 ≠ 0x9640
      ∧ (∀ op ∈ [1, 2, 3, 4], (BitVec.ofNat 32 (0x96400000 + op)).toNat / 2 ^ 16 = 0x9640 ∧ (BitVec.ofNat 32 (0x96400000 + op)).toNat % 16 = op)
      ∧ (rounded []).prt.pair = .joining ∧ (rounded []).accessStop .core 0xD001C 4 = none
      ∧ (rounded [0, 1]).prt.round = some { cause := .solo, epoch := 1, waiting := [], granted := [0, 1] } ∧ (rounded []).claimSleds.length = 2
      ∧ up.prt.round = none ∧ up.prt.pair ≠ .joining
      ∧ (let s : State := { up with prt := { up.prt with pair := .joining } }
         s.prt.peerSeen = false ∧ s.prt.round = none ∧ s.rst.dpUp = true ∧ s.prt.soloWait = [] ∧ ∀ p ∈ s.claimSleds, (s.port p).live = false) := by decide +kernel
/-- A head that verifies it, received in one block, for the slot B of option bytes. -/
def verifying : State :=
  { up with
    cfg := { up.cfg with opt := goodOpt }
    upd := { up.upd with state := .verifying, updId := 7, blks := 1, imgLen := 5600, stored := [(0, wholeImage)] } }

/-- The signature's verdict is the one thing that the spec leaves open (log entry 3). -/
theorem meets_UpdateControl_verified :
    let t := rawBody (cutRecords 351 wholeImage) 0xFFFF
    verifying.upd.state = .verifying ∧ verifying.mgt.recovery = false ∧ verifying.head = 0
      ∧ (signatureGood 0 (t.take 48) (slice t 48 48) (slice t 96 48) = true → verifying.updFault true = none) := by
  refine ⟨by decide, by decide, by decide +kernel, fun h => ?_⟩
  have hi : verifying.upd.image = wholeImage := by
    show ((wholeImage ++ []).take 5600) = wholeImage
    rw [List.append_nil, List.take_of_length_le (Nat.le_of_eq wholeImage_length)]
  have hs : verifying.stageSlot.2 = 65536 := by decide +kernel
  have hk : fieldLe (rawBody (cutRecords 351 wholeImage) 0xFFFF) 144 4 = 0 := by decide +kernel
  have hq : fieldLe (rawBody (cutRecords 351 wholeImage) 0x0001) 16 4 = 7 := by decide +kernel
  have hp : partAdmitted verifying.part (rawBody (cutRecords 351 wholeImage) 0x0002) = true := by decide +kernel
  have hd := wholeImage_digest
  have hc : (checkOnly verifying.part 65536 wholeImage).1 = true := wholeImage_checks
  unfold State.updFault
  simp only [hi, hs, wholeImage_length, hk, hq, h, hc, hp, hd, show 5600 / 16 + 1 = 351 from rfl, show 5600 - 168 = 5432 from rfl]
  decide +kernel

/-! ### Snapshots, buffer memory, loops -/

theorem meets_ReplicationTimers :
    served.ftl.ready = true ∧ up.ftl.ready = false
      ∧ (∃ v t, served.vol 3 = some v ∧ served.role v = .source t ∧ v.stream = false ∧ served.mantle v = true
          ∧ (served.cmd.cmds.any fun c => c.qpn == headQpn && c.volId == 3) = false)
      ∧ served.vol 5 = none ∧ served.sourcesOf 15 = [] ∧ (∃ v, served.sourcesOf 0 = [v]) ∧ (served.target 15).lagRaised = false
      ∧ served.tgtLag 15 < served.param P.replLagAlarm * 1000 := by
  refine ⟨by decide, by decide, ⟨_, 0, rfl, by decide +kernel, by decide, by decide, by decide⟩, by decide +kernel, by decide +kernel, ⟨_, rfl⟩, by decide, by decide +kernel⟩

/-- A point that is late by the whole alarm. -/
theorem meets_ReplicationTimers_late :
    let s : State := { served with
      rpl := { served.rpl with snaps := [(5, { vol := 0x1003, snap := 0, kind := 3, sseq := 1, created := 0 })] }
      time := BitVec.ofNat 64 (served.param P.replLagAlarm * 1000 * 1000 * usTicks) }
    s.param P.replLagAlarm * 1000 ≤ s.tgtLag 0 ∧ (s.target 0).lagRaised = false := by decide +kernel

/-- A head whose DRAM runs: two ranks to a channel of 16 GiB. -/
def buffered : State := { up with buf := { up.buf with state := 2, dpc := 1, gib := 16, ranks := 2 } }

theorem meets_BufferMemory :
    buffered.channelUp (buffered.ddrPlace false 0).1 = true ∧ (buffered.ddrPlace false 0).2 < buffered.buf.channelBytes ∧ buffered.regionOf false 0 = none
      ∧ ({ buffered with pwr := { up.pwr with state := .armed } } : State).pwr.state ≠ .run ∧ buffered.pwr.state = .run
      ∧ buffered.channelUp 11 = true ∧ 1 < buffered.buf.ranks ∧ tabGet (11, 1) buffered.buf.doubled = none
      ∧ buffered.buf.exiting = 0 ∧ ({ buffered with buf := { buffered.buf with exiting := 1 } } : State).buf.exiting ≠ 0 := by decide +kernel

/-- A line that reads well and one that does not; and a place that no address uses: the Armed share of a channel that has none. -/
theorem meets_BufferMemory_lines :
    (let place := buffered.ddrPlace false 0
     let read (raw : Bytes) := correctLine place.1 (buffered.ddrLine place.2) (padTo 80 raw) 0 (actRow place.1 (buffered.ddrLine place.2) buffered)
     (read []).1.data.isSome ∧ (read [1, 0, 0, 0, 0, 0, 0, 0, 1, 0, 0, 0, 0, 0, 0, 0, 1]).1.data = none)
    ∧ buffered.ddrAddress 4 0 = none
    ∧ (let s : State := { buffered with buf := { buffered.buf with scrubPos := 4 * (buffered.buf.channelBytes / 64) } }
       s.buf.scrubPos / max 1 (s.buf.channelBytes / 64) = 4 ∧ s.buf.scrubPos % max 1 (s.buf.channelBytes / 64) * 64 = 0) := by decide +kernel

theorem meets_AdaptiveLoops :
    (let s : State := { up with adp := { up.adp with freq := List.replicate 8 800 } }
     s.rst.dpUp = true ∧ s.pwr.state = .run ∧ 0 < (s.param P.vfTjSoft : Int) ∧ s.adp.freq[0]? = some 800
      ∧ 800 < s.vfPoint (s.vfDemand 800 (min 1000 1000) false false))
    ∧ ({ up with pwr := { up.pwr with state := .armed } } : State).pwr.state ≠ .run ∧ up.eqRuns 0 = false
    ∧ (flashed.pwr.state = .run ∧ flashed.ftl.ready = true ∧ (flashed.blockTops.filter fun u => flashed.serves u && (flashed.top u).formatted) = [0]
        ∧ flashed.pwr.hold = false)
    ∧ up.ftl.ready = false ∧ up.rbRuns = [] ∧ up.accessStop .core 0xF0000 4 = none := by decide +kernel

/-! ### Management -/

/-- A datagram of an MOP, a count and data. -/
def datagram (op count : Nat) (data : Bytes) : Bytes :=
  withCrc (leBytes 1 op ++ [0] ++ leBytes 2 data.length ++ leBytes 4 1 ++ leBytes 4 0x100000 ++ leBytes 4 count ++ data)

theorem meets_ManagementDatagrams :
    up.rst.mgUp = true ∧ crcGood [] = false ∧ fieldLe (datagram 5 0 []) 0 1 = 5
      ∧ ((some (0x0A000002 : BitVec 32)).any fun a => !(tuned [(P.mgmtAllow, 32 * 2 ^ 32 + 1)] up).mgmtAllows a.toNat) = true
      ∧ (tuned [(P.mgmtAllow, 32 * 2 ^ 32 + 1)] up).rst.mgUp = true
      ∧ ((none : Option (BitVec 32)).any fun a => !up.mgmtAllows a.toNat) = false
      ∧ (∀ raw ∈ [datagram 1 1 [], datagram 1 256 [], datagram 2 1 [0, 0, 0, 0], datagram 3 0 [], datagram 4 128 [], datagram 4 129 [], datagram 4 0 []],
          20 ≤ raw.length ∧ crcGood raw = true ∧ fieldLe raw 0 1 ≠ 5 ∧ raw.length = 20 + fieldLe raw 2 2)
      ∧ (let raw := withCrc (leBytes 1 1 ++ [0] ++ leBytes 2 1 ++ List.replicate 12 0)
         20 ≤ raw.length ∧ crcGood raw = true ∧ fieldLe raw 0 1 ≠ 5 ∧ raw.length ≠ 20 + fieldLe raw 2 2)
      ∧ fieldLe (datagram 1 256 []) 12 4 = 256 ∧ fieldLe (datagram 2 1 [0, 0, 0, 0]) 2 2 = 4 * fieldLe (datagram 2 1 [0, 0, 0, 0]) 12 4
      ∧ fieldLe (datagram 4 128 []) 12 4 = 128 ∧ fieldLe (datagram 4 129 []) 12 4 = 129 := by decide +kernel

/-- What the words and the block of such datagrams answer, and a write after which the core is down: RST_SOFT with an L0 reset. -/
theorem meets_ManagementDatagrams_answers :
    (mgmtReadWords 1 0x100000 [] up).2.rst.mgUp = true ∧ (mgmtWriteWords 1 0x100000 [0, 0, 0, 0] up).2.rst.mgUp = true
      ∧ (mgmtWriteWords 1 0x140008 [0, 0, 0x40, 0x96] up).2.rst.mgUp = false ∧ (mgmtBlock [] up).2.rst.mgUp = true := by decide +kernel

theorem meets_SensorsAndFans :
    up.rst.mgUp = true ∧ up.rst.trip = false ∧ up.sensTh 8 false ≤ 100 * 100000
      ∧ 100 * (-100000) < up.sensTh 8 false - (up.sensTh 8 false).natAbs / 100
      ∧ (let s := tuned [(0x103F, 4 * 2 ^ 17)] up
         s.rst.mgUp = true ∧ bitsAt (s.sensDesc 31) 17 3 = 4 ∧ (s.sensor (32 + 31)).fault = false)
      ∧ ({ up with mgt := { up.mgt with fanFailed := true } } : State).mgt.fanFailed = true
      ∧ (let s : State := { up with mgt := { up.mgt with sensors := [(0, { val := 16 * up.param P.fanTmin })] } }
         s.mgt.fanFailed = false ∧ s.mgt.sensors = [(0, { val := 16 * up.param P.fanTmin })] ∧ (16 * up.param P.fanTmin : Int) ≤ ((16 * s.param P.fanTmin : Nat) : Int))
      ∧ (let s := tuned [(P.fanCount, 4), (P.fanTachMin, 500)] up
         3 < s.param P.fanCount ∧ (499 : BitVec 16).toNat < s.param P.fanTachMin ∧ s.param P.fanTachMin ≤ (500 : BitVec 16).toNat) := by decide +kernel

theorem meets_MeasurementRegisters :
    up.accessStop .core 0x120070 4 = none ∧ (0x96400006 : Word).toNat / 2 ^ 16 = 0x9640 ∧ 6 ≤ (0x96400006 : Word).toNat % 16 ∧ up.msr.busy = false
      ∧ (0x96400005 : Word).toNat % 16 < 6 ∧ (0x96410006 : Word).toNat / 2 ^ 16 ≠ 0x9640
      ∧ ({ up with msr := { up.msr with busy := true } } : State).msr.busy = true ∧ up.accessStop .core 0x120004 4 = none
      ∧ (let u := onBusPort .core (fun p => { p with msrLatch := up.selMsr }) up
         (u.busPort .core).msrLatch = up.selMsr ∧ ∀ k ∈ [1, 11], u.accessStop .core (0x120004 + 4 * k) 4 = none) := by decide +kernel

theorem meets_DebugAndRecorder :
    up.accessStop .core 0x100008 4 = none ∧ (0x96400001 : Word).toNat / 2 ^ 16 = 0x9640 ∧ (0x96400001 : Word).toNat % 2 = 1 ∧ up.mgt.debug = false
      ∧ (tuned [(P.debugAllow, 1)] up).flag P.debugAllow = true ∧ (tuned [(P.debugAllow, 0)] up).flag P.debugAllow = false
      ∧ (tuned [(P.debugAllow, 0)] up).mgt.recovery = false ∧ (tuned [(P.debugAllow, 1)] up).accessStop .core 0x100008 4 = none
      ∧ up.accessStop .core 0x110000 4 = none ∧ up.accessStop .core 0x110040 4 = none ∧ (0x10000 : Word).getLsbD 16 = true ∧ (0xFFFF : Word).getLsbD 16 = false
      ∧ fieldLe up.cfg.opt 32 4 < 65536
      ∧ (let e : RingEntry := ⟨0, 0, 0, 0, 0, 0⟩
         let s : State := { tuned [] up with evr := { up.evr with ring := [e], sectorFill := some 2045 } }
         let t : State := { s with cfg := { s.cfg with opt := List.replicate 34 0 ++ [1, 0] } }
         t.rst.mgUp = true ∧ t.cfg.img.isSome ∧ t.cfg.reread = none ∧ t.upd.staging = [] ∧ 65536 ≤ fieldLe t.cfg.opt 32 4 ∧ t.evr.ring = [e]
          ∧ t.evr.spilled ≤ e.eseq ∧ t.evr.sectorFill = some 2045 ∧ 2045 + 1 < 2047)
      ∧ up.accessStop .core 0x120088 4 = none ∧ up.msr.busy = false ∧ ({ up with msr := { up.msr with busy := true } } : State).msr.busy = true := by decide +kernel

/-- A chain frame of a kind and a body (R562). -/
def chainRaw (kind : Nat) (body : Bytes) : Bytes := leBytes 1 kind ++ [0] ++ leBytes 2 body.length ++ List.replicate 12 0 ++ body

theorem meets_ChainFrames :
    (let s := tuned [(P.chainOrigin, 0)] up
     s.rst.mgUp = true ∧ s.mgt.recovery = false ∧ s.cfg.img.isSome ∧ s.flag P.chainOrigin = false ∧ s.upd.lostRaised = false)
    ∧ (tuned [(P.chainOrigin, 1)] up).flag P.chainOrigin = true
    ∧ (∀ k ∈ [1, 2, 3, 4], 16 ≤ (chainRaw k [0, 0, 0, 0]).length ∧ fieldLe (chainRaw k [0, 0, 0, 0]) 2 2 = ((chainRaw k [0, 0, 0, 0]).drop 16).length
        ∧ fieldLe (chainRaw k [0, 0, 0, 0]) 0 1 = k)
    ∧ blockGood [0, 0, 0, 0] = false ∧ tokenGood [0, 0, 0, 0] = false
    ∧ (∀ n ∈ [15, 16], ({ up with chain := { up.chain with dn := { sent := [⟨3, [], n⟩] } } } : State).chain.dn.sent = [⟨3, [], n⟩])
    ∧ ({ up with upd := { up.upd with lostRaised := true } } : State).upd.lostRaised = true := by decide +kernel

/-- A block of zeros with its check code, which a head with room takes. -/
def aBlock : Bytes := List.replicate 28 0 ++ (leBytes 4 3280099647 ++ List.replicate 4096 0)

theorem aBlock_good : blockGood aBlock = true := by
  have h : aBlock.take 28 ++ aBlock.drop 32 = List.replicate 28 0 ++ List.replicate 4096 0 := rfl
  rw [blockGood, h, crc32c, crcRun_eq]
  decide +kernel

theorem meets_ChainFrames_acked : ∃ u, takeBlock aBlock up = (.acked, u) :=
  ⟨_, by rw [takeBlock, if_neg (by simp [aBlock_good]), if_neg (by decide), if_neg (by decide)]⟩

theorem meets_UpdateControl :
    up.upd.state ≠ .verifying
      ∧ (let s : State := { verifying with upd := { verifying.upd with blks := 2 } }
         s.upd.state = .verifying ∧ s.updFault true = some 8)
      ∧ up.accessStop .core 0x13000C 4 = none ∧ (0 : Word).toNat / 2 ^ 16 ≠ 0x9640
      ∧ (∀ op ∈ [1, 2, 3, 4], (BitVec.ofNat 32 (0x96400000 + op)).toNat / 2 ^ 16 = 0x9640 ∧ (BitVec.ofNat 32 (0x96400000 + op)).toNat % 16 = op)
      ∧ up.upd.stagedImg = none
      ∧ (let s : State := { linked with upd := { up.upd with state := .staged, stagedImg := some ⟨8, [], 0⟩, other := some ⟨6, [], 0⟩ } }
         s.accessStop .core 0x13000C 4 = none ∧ s.upd.stagedImg = some ⟨8, [], 0⟩ ∧ s.updStops = 0 ∧ s.upd.state = .staged ∧ s.upd.other = some ⟨6, [], 0⟩)
      ∧ (let s : State := { up with upd := { up.upd with stagedImg := some ⟨8, [], 0⟩ } }
         s.upd.stagedImg.isSome ∧ s.prt.pair ≠ .paired)
      ∧ (∀ k ∈ [2, 3], let s : State := { up with cfg := { up.cfg with img := some { keyId := k } } }
         s.cfg.img = some { keyId := k } ∧ (0x96400024 : Word).toNat / 16 % 4 = 2 ∧ (k = 3 → 2 < k) ∧ (k = 2 → k ≤ 2))
      ∧ ({ up with upd := { up.upd with pend := true } } : State).upd.pend = true ∧ up.upd.pend = false := by decide +kernel

/-! ### What holds across commands -/

theorem meets_DatapathLeavesControl : (Instr.read 0).datapath = true ∧ (Instr.restExit 31).datapath = true := by decide

/-- Blocks of a volume that does not compress; one of a volume that does has a media form whatever the compressor emits. -/
theorem meets_WhatIsStoredReadsBack :
    (List.replicate 4096 (0 : Byte)).length = 4096 ∧ (∃ p, up.mediaForm {} 0 0 false (List.replicate 4096 0) = some p)
      ∧ up.volKey { encrypt := true } = none :=
  ⟨by decide +kernel, ⟨_, rfl⟩, by decide⟩

theorem meets_MapWordReadsBack : State.reset.ftl.Canonical ∧ served.ftl.Canonical ∧ up.needsView 1 0 0 = none ∧ ((1, 511) : Nat × Nat) ≠ (1, 512) := by
  refine ⟨⟨?_, ?_, ?_, ?_⟩, ⟨?_, ?_, ?_, ?_⟩, by decide, by decide⟩ <;> decide

/-! ## Values that the spec or a standard gives -/

/-- A map word as bytes (R11's worked example). -/
theorem test_mapWord_bytes : leBytes 6 0x00003A4107C2 = [0xC2, 0x07, 0x41, 0x3A, 0x00, 0x00] := by decide

/-- The fields of that word (chapter 09's worked example). -/
theorem test_mapWord_fields :
    let w := 0x00003A4107C2
    wordKind w = 2 ∧ bitsAt w 2 3 = 0 ∧ bitsAt w 5 3 = 6 ∧ bitsAt w 8 16 = 0x4107 ∧ bitsAt w 24 13 = 58 ∧ bitsAt w 37 6 = 0 ∧ bitsAt w 43 5 = 0 := by decide

/-- CRC-32C and CRC-64 of "123456789": the published check values. -/
def digits : Bytes := [0x31, 0x32, 0x33, 0x34, 0x35, 0x36, 0x37, 0x38, 0x39]

theorem test_crc32c : crc32c digits = 0xE3069283 := by decide +kernel

theorem test_carryK : carryK digits = 0xAE8B14860A799888 := by decide +kernel

/-- SHA-384 of "abc" (FIPS 180-4). -/
theorem test_sha384 :
    beNat (sha384 [0x61, 0x62, 0x63])
      = 0xCB00753F45A35E8BB5A03D699AC65007272C32AB0EDED1631A8B605A43FF5BED8086072BA1E7CC2358BAECA134C825A7 := by decide +kernel

/-- SHA-256 of "abc" (FIPS 180-4). -/
theorem test_sha256 : beNat (sha256 [0x61, 0x62, 0x63]) = 0xBA7816BF8F01CFEA414140DE5DAE2223B00361A396177A9CB410FF61F20015AD := by decide +kernel

/-- AES-256 of FIPS 197, C.3, forwards and back. -/
theorem test_aes256 :
    let key := (List.range 32).map (BitVec.ofNat 8)
    beNat (aesEnc key (beBytes 16 0x00112233445566778899AABBCCDDEEFF)) = 0x8EA2B7CA516745BFEAFC49904B496089
      ∧ beNat (aesDec key (beBytes 16 0x8EA2B7CA516745BFEAFC49904B496089)) = 0x00112233445566778899AABBCCDDEEFF := by decide +kernel

/-- AES-256-GCM of one block of zeros under the key of zeros (the GCM specification's test case 14). -/
theorem test_gcm :
    beNat (gcmSeal (List.replicate 32 0) (List.replicate 12 0) [] (List.replicate 16 0))
      = 0xCEA7403D4D606B6E074EC5D3BAF39D18D0D1C8A799996BF0265B98B5D48AB919 := by decide +kernel

/-- The compressed block of chapter 07's worked example expands to "TQHFRAME" and 4,088 zeros. -/
theorem test_lr1Expand :
    let c := [0x07, 0x54, 0x51, 0x48, 0x46, 0x52, 0x41, 0x4D, 0x45, 0xFE, 0xB4, 0x00, 0x00]
    c.length = 13 ∧ (lr1Expand c).map (fun b => (b.take 9, b.length)) = some ([0x54, 0x51, 0x48, 0x46, 0x52, 0x41, 0x4D, 0x45, 0], 4096) := by decide +kernel

/-- Q of the first bytes of chapter 10's worked example, and the division it makes. -/
theorem test_parityQ :
    Nat.xor (gfMul 0x11D 8 1 1) (Nat.xor (gfMul 0x11D 8 2 2) (gfMul 0x11D 8 4 3)) = 0x09 ∧ gfMul 0x11D 8 0x0A (gfInv 0x06) = 0x03 := by decide +kernel

/-! ## Single steps -/

/-- What a register reads as, by the core. -/
def reads (addr : BitVec 24) (s : State) : Nat :=
  match exec (.readRcField .core addr 4) s with
  | .next t => t.bus.core.lastRead.toNat
  | _ => 2 ^ 32

/-- CFG_LOAD_STAT of chapter 02's worked example. -/
theorem test_cfgLoadStat :
    reads 0x000000 { up with cfg := { up.cfg with state := .done, codeP := 0x20, codeA := 0x01, src := .alternate } } = 0x01012004 := by decide +kernel

/-- SLD_CLAIM_EPOCH of chapter 17's worked example. -/
theorem test_claimEpoch : reads 0x0C0000 { up with sld := { up.sld with epoch := 0x1900 } } = 0x1900 := by decide +kernel

/-- The waits of chapter 04's worked example: each timeout doubles up to RETRY_TIMEOUT_MAX, and after RETRY_LIMIT the queue pair is in Error. -/
theorem test_retryWaits :
    let s (t n : Nat) : State := { joined with qpc := { joined.qpc with ctx := [(0, { rcCtx with timeout := t, retries := n, sent := [{ num := 8, msg := 0, body := .send [], sub := 0 }] })] } }
    let after (t n : Nat) : Option (Nat × CtxState) := match exec (.retryTimeout 0x40000) (tuned [(P.retryTimeoutInit, 64), (P.retryTimeoutMax, 4096), (P.retryLimit, 7)] (s t n)) with
      | .next u => (tabGet 0 u.qpc.ctx).map fun c => (c.timeout, c.state)
      | _ => none
    after 64 0 = some (128, .ready) ∧ after 2048 5 = some (4096, .ready) ∧ after 4096 6 = some (4096, .ready) ∧ (after 4096 7).map (·.2) = some .error := by decide +kernel

/-- A write of RST_SOFT for L0 under fuse profile 1 leaves the head at the rail wait of an L1 reset with its cause shown. -/
theorem test_softReset :
    (match exec (.softResetL0 .core 0x96400000) { up with rst := { up.rst with countL1 := 4 } } with
      | .next t => (t.rst.level, t.rst.countL1, t.rst.mgUp, t.prt.pair)
      | _ => (.l0, 0, true, .lone)) = (.l1, 5, false, .joining) := by decide +kernel

end Sys2Proof.Tests
end

/-! SUPPORT. The statements of chapter 00's family: every command completes, the idle step, and the rules of the register space. -/

namespace Sys2Proof.Machine

/-! ## Every command completes -/

/-- Every command answers a next state that keeps what every command keeps, and the invariant: command by command, by what its
meaning keeps. -/
theorem exec_kept (c : Instr) (s : State) : ∃ t, exec c s = .next t ∧ Kept s t := by
  cases c with
  | registerWrite => exact kept_execRegisterWrite
  | readRcField => exact kept_execReadRcField
  | read64Low => exact kept_execRead64Low
  | read64High => exact kept_execRead64High
  | write64Low => exact kept_execWrite64Low
  | write64High => exact kept_execWrite64High
  | aoRailsInRange => exact kept_execAoRailsInRange
  | aoReleaseTimer => exact kept_execAoReleaseTimer
  | railWaitEnd => exact kept_execRailWaitEnd
  | optionByteReadDone => exact kept_execOptionByteReadDone
  | optionRereadTimer => exact kept_execOptionRereadTimer
  | recordReadDone => exact kept_execRecordReadDone
  | loadChecksDone => exact kept_execLoadChecksDone
  | clockGood => exact kept_execClockGood
  | clockFailure => exact kept_execClockFailure
  | cdcFallback => exact kept_execCdcFallback
  | brownoutReset => exact kept_execBrownoutReset
  | resetNLow => exact kept_execResetNLow
  | resetNHigh => exact kept_execResetNHigh
  | watchdogExpiry => exact kept_execWatchdogExpiry
  | rstWdogKick => exact kept_execRstWdogKick
  | softResetL0 => exact kept_execSoftResetL0
  | softResetL1 => exact kept_execSoftResetL1
  | softResetL2 => exact kept_execSoftResetL2
  | softResetL3 => exact kept_execSoftResetL3
  | thermalTrip => exact kept_execThermalTrip
  | thermalTripEnd => exact kept_execThermalTripEnd
  | debugReset => exact kept_execDebugReset
  | pwrReqRun => exact kept_execPwrReqRun
  | pwrReqArmed => exact kept_execPwrReqArmed
  | pwrReqQuiet => exact kept_execPwrReqQuiet
  | pwrReqDormant => exact kept_execPwrReqDormant
  | armIdleExpiry => exact kept_execArmIdleExpiry
  | pwrWakeTimer => exact kept_execPwrWakeTimer
  | powerEntryDone => exact kept_execPowerEntryDone
  | wakeComplete => exact kept_execWakeComplete
  | holdStart => exact kept_execHoldStart
  | holdClearTimer => exact kept_execHoldClearTimer
  | holdFlushDone => exact kept_execHoldFlushDone
  | subportDown => exact kept_execSubportDown
  | subportUp => exact kept_execSubportUp
  | fabCtrlWrite => exact kept_execFabCtrlWrite
  | arpRequest => exact kept_execArpRequest
  | neighbourSolicitation => exact kept_execNeighbourSolicitation
  | icmpEcho => exact kept_execIcmpEcho
  | roceSend => exact kept_execRoceSend
  | roceRdmaWrite => exact kept_execRoceRdmaWrite
  | roceRdmaWriteImm => exact kept_execRoceRdmaWriteImm
  | roceRdmaReadRequest => exact kept_execRoceRdmaReadRequest
  | roceAck => exact kept_execRoceAck
  | roceNak => exact kept_execRoceNak
  | roceCnp => exact kept_execRoceCnp
  | roceUnsupportedOpcode => exact kept_execRoceUnsupportedOpcode
  | cmReq => exact kept_execCmReq
  | cmRtu => exact kept_execCmRtu
  | cmDreq => exact kept_execCmDreq
  | repRetryTimer => exact kept_execRepRetryTimer
  | lotData => exact kept_execLotData
  | lotSend => exact kept_execLotSend
  | lotAck => exact kept_execLotAck
  | lotNak => exact kept_execLotNak
  | lotOpen => exact kept_execLotOpen
  | lotClose => exact kept_execLotClose
  | lotCnp => exact kept_execLotCnp
  | qpContextFetchDone => exact kept_execQpContextFetchDone
  | retryTimeout => exact kept_execRetryTimeout
  | rnrResendTimer => exact kept_execRnrResendTimer
  | qpErrLingerExpiry => exact kept_execQpErrLingerExpiry
  | checkpointBatch => exact kept_execCheckpointBatch
  | cnpRateRaise => exact kept_execCnpRateRaise
  | eventMergeInterval => exact kept_execEventMergeInterval
  | addrAnnounceRepeat => exact kept_execAddrAnnounceRepeat
  | read => exact kept_execRead
  | write => exact kept_execWrite
  | trim => exact kept_execTrim
  | flush => exact kept_execFlush
  | release => exact kept_execRelease
  | takeOpen => exact kept_execTakeOpen
  | frameAppend => exact kept_execFrameAppend
  | frameRead => exact kept_execFrameRead
  | takeSeal => exact kept_execTakeSeal
  | takeDelete => exact kept_execTakeDelete
  | takeInfo => exact kept_execTakeInfo
  | identify => exact kept_execIdentify
  | volumeInfo => exact kept_execVolumeInfo
  | abort => exact kept_execAbort
  | orphanStatus => exact kept_execOrphanStatus
  | transferReadySend => exact kept_execTransferReadySend
  | windowTimeout => exact kept_execWindowTimeout
  | orphanKeepExpiry => exact kept_execOrphanKeepExpiry
  | ingestBlockDone => exact kept_execIngestBlockDone
  | dramLineRead => exact kept_execDramLineRead
  | cmpJobSubmit => exact kept_execCmpJobSubmit
  | cmpJobDone => exact kept_execCmpJobDone
  | fprRebuild => exact kept_execFprRebuild
  | filterRebuildDone => exact kept_execFilterRebuildDone
  | keyLoad => exact kept_execKeyLoad
  | keyErase => exact kept_execKeyErase
  | keyLoadDone => exact kept_execKeyLoadDone
  | keyEraseDone => exact kept_execKeyEraseDone
  | cipContextSave => exact kept_execCipContextSave
  | cipContextResume => exact kept_execCipContextResume
  | ftlFormat => exact kept_execFtlFormat
  | formatDone => exact kept_execFormatDone
  | ftlReplayDone => exact kept_execFtlReplayDone
  | mapSpillTimer => exact kept_execMapSpillTimer
  | gcVictimStart => exact kept_execGcVictimStart
  | partialWaitExpiry => exact kept_execPartialWaitExpiry
  | padWaitExpiry => exact kept_execPadWaitExpiry
  | rowIdleCloseExpiry => exact kept_execRowIdleCloseExpiry
  | journalSpill => exact kept_execJournalSpill
  | rebuildWaitExpiry => exact kept_execRebuildWaitExpiry
  | hemPatrolPace => exact kept_execHemPatrolPace
  | prsntChange => exact kept_execPrsntChange
  | prsntDebounceExpiry => exact kept_execPrsntDebounceExpiry
  | sledLinkL0 => exact kept_execSledLinkL0
  | oslFlitReceive => exact kept_execOslFlitReceive
  | oslNak => exact kept_execOslNak
  | oslInitCredit => exact kept_execOslInitCredit
  | oslEqSet => exact kept_execOslEqSet
  | oslEqAck => exact kept_execOslEqAck
  | sledRestIdle => exact kept_execSledRestIdle
  | oslRestAck => exact kept_execOslRestAck
  | restExit => exact kept_execRestExit
  | retrainComplete => exact kept_execRetrainComplete
  | retrainTimeout => exact kept_execRetrainTimeout
  | sldCmdTimeoutExpiry => exact kept_execSldCmdTimeoutExpiry
  | oslCpl => exact kept_execOslCpl
  | oslRdata => exact kept_execOslRdata
  | oslNotice => exact kept_execOslNotice
  | claimWaitExpiry => exact kept_execClaimWaitExpiry
  | plGroupUp => exact kept_execPlGroupUp
  | plGroupDown => exact kept_execPlGroupDown
  | plSessionStart => exact kept_execPlSessionStart
  | plFrameReceive => exact kept_execPlFrameReceive
  | plQpCkpt => exact kept_execPlQpCkpt
  | plCmdRec => exact kept_execPlCmdRec
  | plWinRec => exact kept_execPlWinRec
  | plOutRec => exact kept_execPlOutRec
  | plConnRec => exact kept_execPlConnRec
  | plHello => exact kept_execPlHello
  | plJnl => exact kept_execPlJnl
  | plMap => exact kept_execPlMap
  | plRelease => exact kept_execPlRelease
  | plSeg => exact kept_execPlSeg
  | plFill => exact kept_execPlFill
  | plRepair => exact kept_execPlRepair
  | plLost => exact kept_execPlLost
  | plSegfail => exact kept_execPlSegfail
  | plDiscard => exact kept_execPlDiscard
  | plRepairReq => exact kept_execPlRepairReq
  | plPower => exact kept_execPlPower
  | plSynced => exact kept_execPlSynced
  | plHandover => exact kept_execPlHandover
  | plClaimed => exact kept_execPlClaimed
  | plUpdDone => exact kept_execPlUpdDone
  | plResendTimer => exact kept_execPlResendTimer
  | pulseSend => exact kept_execPulseSend
  | pulseFrameReceive => exact kept_execPulseFrameReceive
  | pulseWake => exact kept_execPulseWake
  | pulseResetReq => exact kept_execPulseResetReq
  | pulseYield => exact kept_execPulseYield
  | pulseHandover => exact kept_execPulseHandover
  | heartbeatPeriodMiss => exact kept_execHeartbeatPeriodMiss
  | plLostWaitExpiry => exact kept_execPlLostWaitExpiry
  | joinWaitExpiry => exact kept_execJoinWaitExpiry
  | prtCtrlGiveVolumes => exact kept_execPrtCtrlGiveVolumes
  | prtCtrlHandback => exact kept_execPrtCtrlHandback
  | prtCtrlSoloStart => exact kept_execPrtCtrlSoloStart
  | prtCtrlSendResetReq => exact kept_execPrtCtrlSendResetReq
  | snapCreate => exact kept_execSnapCreate
  | snapDelete => exact kept_execSnapDelete
  | preservedPageRelease => exact kept_execPreservedPageRelease
  | snapRead => exact kept_execSnapRead
  | snapFrameRead => exact kept_execSnapFrameRead
  | snapList => exact kept_execSnapList
  | replPoint => exact kept_execReplPoint
  | replInfo => exact kept_execReplInfo
  | replPromote => exact kept_execReplPromote
  | replBegin => exact kept_execReplBegin
  | replData => exact kept_execReplData
  | replEnd => exact kept_execReplEnd
  | replTakeDelete => exact kept_execReplTakeDelete
  | replPeriodExpiry => exact kept_execReplPeriodExpiry
  | replSessionWaitExpiry => exact kept_execReplSessionWaitExpiry
  | replLag => exact kept_execReplLag
  | bufInitDone => exact kept_execBufInitDone
  | scrubStep => exact kept_execScrubStep
  | mr4Poll => exact kept_execMr4Poll
  | refreshDue => exact kept_execRefreshDue
  | actTableWindow => exact kept_execActTableWindow
  | selfRefreshExitDone => exact kept_execSelfRefreshExitDone
  | alVfSample => exact kept_execAlVfSample
  | alEqSample => exact kept_execAlEqSample
  | alGcSample => exact kept_execAlGcSample
  | alRbSample => exact kept_execAlRbSample
  | adpFreezeWrite => exact kept_execAdpFreezeWrite
  | mgmtRead => exact kept_execMgmtRead
  | mgmtWrite => exact kept_execMgmtWrite
  | mgmtUpdBlock => exact kept_execMgmtUpdBlock
  | mgmtEvrRead => exact kept_execMgmtEvrRead
  | junctionSample => exact kept_execJunctionSample
  | sensorPoll => exact kept_execSensorPoll
  | fanUpdate => exact kept_execFanUpdate
  | fanTachFail => exact kept_execFanTachFail
  | mgtDebugSet => exact kept_execMgtDebugSet
  | mgtDebugClear => exact kept_execMgtDebugClear
  | evrCtrlWrite => exact kept_execEvrCtrlWrite
  | evrClear => exact kept_execEvrClear
  | evrSpill => exact kept_execEvrSpill
  | msrExtGo => exact kept_execMsrExtGo
  | msrDigGo => exact kept_execMsrDigGo
  | msrDigDone => exact kept_execMsrDigDone
  | msrVal0Read => exact kept_execMsrVal0Read
  | chainBlock => exact kept_execChainBlock
  | chainAck => exact kept_execChainAck
  | chainNak => exact kept_execChainNak
  | chainResendTimer => exact kept_execChainResendTimer
  | chainToken => exact kept_execChainToken
  | agreePeriodToken => exact kept_execAgreePeriodToken
  | agreeLostTimer => exact kept_execAgreeLostTimer
  | updVerifyDone => exact kept_execUpdVerifyDone
  | updCtrlActivate => exact kept_execUpdCtrlActivate
  | updCtrlAbandon => exact kept_execUpdCtrlAbandon
  | updCtrlRollback => exact kept_execUpdCtrlRollback
  | updCtrlRevoke => exact kept_execUpdCtrlRevoke
  | updConfirmTimeout => exact kept_execUpdConfirmTimeout
  | refclkReturn => exact kept_execRefclkReturn
  | pwrWarnNHigh => exact kept_execPwrWarnNHigh
  | railRecovered => exact kept_execRailRecovered
  | cmRej => exact kept_execCmRej
  | lotOpenReply => exact kept_execLotOpenReply
  | pauseFrameReceive => exact kept_execPauseFrameReceive
  | chainLinkUp => exact kept_execChainLinkUp

/-- Settles O1, by the relation `Kept` that every command's meaning stands in to the state it is given. -/
theorem everyCommandCompletes : Obligations.EveryCommandCompletes := by
  intro c s
  obtain ⟨t, ht, hk⟩ := exec_kept c s
  exact ⟨t, ht, hk.1⟩

/-! ## The idle step -/

/-- An idle step counts one tick once the always-on domain is released. -/
theorem idle_eq (s : State) : idle s = { s with time := if s.rst.aoUp then s.time + 1 else s.time } := by
  unfold idle
  split <;> rfl

/-- With nothing waiting a step is an idle one. -/
theorem step_idle {s : State} (h : s.pending = []) : step s = .next (idle s) := by
  unfold step
  rw [h]

/-- Settles O5, by the two cases of the always-on release. -/
theorem emptyQueueTicks : Obligations.EmptyQueueTicks := fun s h => (step_idle h).trans (congrArg _ (idle_eq s))

/-! ## Access codes -/

/-- A number of more bits than a field, put into the field. -/
theorem ofNat_toNat_word {w : Nat} (v : Word) : BitVec.ofNat w v.toNat = v.setWidth w := by
  apply BitVec.eq_of_toNat_eq
  simp

/-- A register write of RST, CLK or PWR by a requester that can make accesses writes the register at its address. -/
theorem exec_registerWrite_alwaysOn (a : BitVec 24) {s : State} {r : Requester} {v : Word} {g : Reg} (hr : s.reaches r = true)
    (ha : a.toNat % 4 = 0) (hb : a.toNat / 2 ^ 16 = 0x14 ∨ a.toNat / 2 ^ 16 = 0x15 ∨ a.toNat / 2 ^ 16 = 0x16) (hg : regAt a.toNat = some g) :
    exec (.registerWrite r a 4 v) s = .next (g.write r v.toNat s) :=
  (exec_writes r a 4 v s).1.trans (congrArg _ (regWrite_at (accessStop_alwaysOn s r _ hr ha hb) hg))

/-- A read of RST, CLK or PWR by a requester that can make accesses returns what the register reads as. -/
theorem exec_readRcField_alwaysOn (a : BitVec 24) {s : State} {r : Requester} {g : Reg} (hr : s.reaches r = true)
    (ha : a.toNat % 4 = 0) (hb : a.toNat / 2 ^ 16 = 0x14 ∨ a.toNat / 2 ^ 16 = 0x15 ∨ a.toNat / 2 ^ 16 = 0x16) (hg : regAt a.toNat = some g) :
    exec (.readRcField r a 4) s = .next (returned r (g.read r s) (g.onRead r s)) :=
  (exec_reads r a 4 s).1.trans (congrArg _ (regRead_at (accessStop_alwaysOn s r _ hr ha hb) hg))

/-- A write of a word that no register holds changes nothing (R21). -/
theorem regWrite_nowhere {s : State} {r : Requester} {a v : Nat} (h : s.accessStop r a 4 = none) (k : regAt a = none) :
    regWrite r a 4 v s = s := by
  unfold regWrite access; rw [h, k]

/-- A read of a word that no register holds returns 0 (R21). -/
theorem regRead_nowhere {s : State} {r : Requester} {a : Nat} (h : s.accessStop r a 4 = none) (k : regAt a = none) :
    regRead r a 4 s = returned r 0 s := by
  unfold regRead; rw [h, k]

/-- CLK_CDC_SEL. -/
theorem regAt_cdcSel : regAt 0x150010
    = rwReg (fun s => s.clk.cdcSel.toNat) fun v s => s.onClk fun c => { c with cdcSel := BitVec.ofNat 10 v } := rfl

/-- CLK_STAT. -/
theorem regAt_clkStat : regAt 0x150000 = roReg fun s => s.clk.good.toNat := rfl

/-- RST_CAUSE. -/
theorem regAt_rstCause : regAt 0x140000
    = rwReg (fun s => s.rst.cause.toNat) fun v s => s.onRst fun r => { r with cause := r.cause &&& ~~~(BitVec.ofNat 10 v) } := rfl

/-- RST_SOFT. -/
theorem regAt_rstSoft : regAt 0x140008 = woReg fun r v s => after (softWrite r v s) := rfl

/-- The hold counter. -/
theorem regAt_holdCount : regAt 0x160010 = rcReg (fun s => s.pwr.holdCount.toNat) fun s => s.onPwr fun p => { p with holdCount := 0 } := rfl

/-- Settles O8, register by register. -/
theorem registerAccessCodes : Obligations.RegisterAccessCodes := by
  intro r val s hr
  have hole : s.accessStop r 0x15FFFC 4 = none := accessStop_alwaysOn s r _ hr rfl (.inr (.inl rfl))
  refine ⟨?rw_write, ?rw_read, ?ro_write, ?ro_read, ?rw1c_write, ?rc_read, ?wo_read, ?hole_write, ?hole_read⟩
  case rw_write =>
    rw [exec_registerWrite_alwaysOn 0x150010 hr rfl (.inr (.inl rfl)) regAt_cdcSel, ← ofNat_toNat_word]; rfl
  case rw_read => exact exec_readRcField_alwaysOn 0x150010 hr rfl (.inr (.inl rfl)) regAt_cdcSel
  case ro_write => exact exec_registerWrite_alwaysOn 0x150000 hr rfl (.inr (.inl rfl)) regAt_clkStat
  case ro_read => exact exec_readRcField_alwaysOn 0x150000 hr rfl (.inr (.inl rfl)) regAt_clkStat
  case rw1c_write =>
    rw [exec_registerWrite_alwaysOn 0x140000 hr rfl (.inl rfl) regAt_rstCause, ← ofNat_toNat_word]; rfl
  case rc_read => exact exec_readRcField_alwaysOn 0x160010 hr rfl (.inr (.inr rfl)) regAt_holdCount
  case wo_read => exact exec_readRcField_alwaysOn 0x140008 hr rfl (.inl rfl) regAt_rstSoft
  case hole_write => exact (exec_writes ..).1.trans (congrArg _ (regWrite_nowhere hole rfl))
  case hole_read => exact (exec_reads ..).1.trans (congrArg _ (regRead_nowhere hole rfl))

/-! ## 64-bit registers -/

/-- A register of 64 bits is its high word and its low word. -/
theorem ofNat_halves (lo hi : Word) : BitVec.ofNat 64 (lo.toNat + hi.toNat * 2 ^ 32) = hi ++ lo := by
  apply BitVec.eq_of_toNat_eq
  have hl := lo.isLt
  have hh := hi.isLt
  rw [BitVec.toNat_append, ← Nat.shiftLeft_add_eq_or_of_lt hl, Nat.shiftLeft_eq, BitVec.toNat_ofNat]
  omega

/-- The low word of a register of 64 bits. -/
theorem word_low (x : BitVec 64) : word (x.toNat % 2 ^ 32) = x.setWidth 32 := by
  apply BitVec.eq_of_toNat_eq
  simp [word]

/-- The high word of a register of 64 bits. -/
theorem word_high (x : BitVec 64) : word (x.toNat / 2 ^ 32) = (x >>> 32).setWidth 32 := by
  apply BitVec.eq_of_toNat_eq
  simp [word, Nat.shiftRight_eq_div_pow]

/-- A read of the low word of PWR_WAKE_TIMER latches the high word and returns the low one (R18, R589). -/
theorem exec_read_wakeLow {s : State} {r : Requester} (hr : s.reaches r = true) :
    exec (.read64Low r 0x160014 4) s = .next (returned r (s.pwr.wakeTimer.toNat % 2 ^ 32)
      (onBusPort r (fun p => { p with latch := some (0x160014, word (s.pwr.wakeTimer.toNat / 2 ^ 32)) }) s)) :=
  (exec_reads ..).2.1.trans (congrArg _ (regRead_at (accessStop_alwaysOn s r _ hr rfl (.inr (.inr rfl))) regAt_wakeLow))

/-- A read of the high word of PWR_WAKE_TIMER (R589). -/
theorem exec_read_wakeHigh {s : State} {r : Requester} (hr : s.reaches r = true) :
    exec (.read64High r 0x160018 4) s = .next (returned r (s.highWord r 0x160014 fun s => s.pwr.wakeTimer.toNat) s) :=
  (exec_reads ..).2.2.trans (congrArg _ (regRead_at (accessStop_alwaysOn s r _ hr rfl (.inr (.inr rfl))) regAt_wakeHigh))

/-- A write of the low word of PWR_WAKE_TIMER waits for the high word (R18, R589). -/
theorem exec_write_wakeLow {s : State} {r : Requester} {v : Word} (hr : s.reaches r = true) :
    exec (.write64Low r 0x160014 4 v) s = .next (onBusPort r (fun p => { p with lows := tabPut 0x160014 (word v.toNat) p.lows }) s) :=
  (exec_writes ..).2.1.trans (congrArg _ (regWrite_at (accessStop_alwaysOn s r _ hr rfl (.inr (.inr rfl))) regAt_wakeLow))

/-- A write of the high word of PWR_WAKE_TIMER (R18, R589). -/
theorem exec_write_wakeHigh {s : State} {r : Requester} {v : Word} (hr : s.reaches r = true) :
    exec (.write64High r 0x160018 4 v) s = .next (wakeTimerHigh r v.toNat s) :=
  (exec_writes ..).2.2.trans (congrArg _ (regWrite_at (accessStop_alwaysOn s r _ hr rfl (.inr (.inr rfl))) regAt_wakeHigh))

/-- The high word that the requester's latch holds for the register. -/
theorem highWord_latched {s : State} {r : Requester} {a : Nat} {w : Word} {f : State → Nat} (h : (s.busPort r).latch = some (a, w)) :
    s.highWord r a f = w.toNat := by
  unfold State.highWord; rw [h]; exact if_pos rfl

/-- A high word written takes the low word that the same requester wrote last (R18). -/
theorem wakeTimerHigh_pending {s : State} {r : Requester} {lo hi : Word} (h : tabGet 0x160014 (s.busPort r).lows = some lo) :
    wakeTimerHigh r hi.toNat s = s.onPwr fun p => { p with wakeTimer := hi ++ lo } := by
  unfold wakeTimerHigh; rw [h, ← ofNat_halves]; rfl

/-- What the space keeps for a requester is no part of the power block. -/
theorem busPort_onPwr (s : State) (r : Requester) (f : Pwr → Pwr) : (s.onPwr f).busPort r = s.busPort r := rfl

/-- A number that a word gave comes back as the word. -/
theorem word_toNat (w : Word) : word w.toNat = w := (ofNat_toNat_word w).trans (BitVec.setWidth_eq w)

/-- What a read returned is no change to what a requester can reach. -/
theorem reaches_returned (s : State) (q r : Requester) (x : Nat) : (returned r x s).reaches q = s.reaches q := reaches_onBusPort ..

/-- What a requester can reach does not depend on the power block. -/
theorem reaches_onPwr (s : State) (q : Requester) (f : Pwr → Pwr) : (s.onPwr f).reaches q = s.reaches q := by cases q <;> rfl

/-- Settles O7, by what a read and a write of each half of the register leave for the requester. -/
theorem sixtyFourBitRegister : Obligations.SixtyFourBitRegister := by
  intro r other lo hi now s hr ho
  constructor
  · refine ⟨_, _, exec_read_wakeLow hr, ?low, ?otherLow, exec_read_wakeHigh ?reaches, ?high, rfl, ?otherHigh⟩
    case reaches => rw [reaches_onPwr, reaches_returned, reaches_onBusPort, hr]
    case low => rw [returned, busPort_onBusPort]; exact word_low _
    case otherLow => rw [returned, busPort_onBusPort_ne ho, busPort_onBusPort_ne ho]
    case high =>
      rw [returned, busPort_onBusPort, highWord_latched (w := word (s.pwr.wakeTimer.toNat / 2 ^ 32)), word_toNat]
      · exact word_high _
      · rw [busPort_onPwr, returned, busPort_onBusPort, busPort_onBusPort]
    case otherHigh =>
      rw [returned, busPort_onBusPort_ne ho, busPort_onPwr, returned, busPort_onBusPort_ne ho, busPort_onBusPort_ne ho]
  · have pending : tabGet 0x160014 ((onBusPort r (fun p => { p with lows := tabPut 0x160014 (word lo.toNat) p.lows }) s).busPort r).lows
        = some lo := by
      rw [busPort_onBusPort, word_toNat]; exact tabGet_put_same
    refine ⟨_, _, exec_write_wakeLow hr, rfl, busPort_onBusPort_ne ho, exec_write_wakeHigh ?reaches, ?written, ?other⟩
    case reaches => rw [reaches_onBusPort, hr]
    case written => rw [wakeTimerHigh_pending pending]; rfl
    case other => rw [wakeTimerHigh_pending pending, busPort_onPwr, busPort_onBusPort_ne ho]

/-! ## Narrow accesses -/

/-- The first raise of a code with no value of its own takes a free value for its ring entry (R552, log entry 6). -/
theorem evrRecord_first_free {s : State} {code detail : Nat} (hp : tabGet code s.evr.prev = none) (hm : measuredValue code detail = none) :
    (evrRecord code detail none s).free = s.free + 1 := by
  have hv : s.raiseValue code detail none = (none, (s.freeNat 32).1, (s.freeNat 32).2) := by
    unfold State.raiseValue; rw [hm, hp]
  unfold evrRecord
  rw [hv]
  dsimp only
  split
  · rfl
  · split <;> rfl

/-- Without a trigger a raise is its record (R556). -/
theorem evrRaise_untriggered {s : State} {code detail : Nat} {v : Option Nat} (h : s.evr.trigEn = false) :
    evrRaise code detail v s = evrRecord code detail v s := by
  unfold evrRaise
  exact if_neg fun ⟨ht, _⟩ => by rw [h] at ht; cases ht

/-- The first raise of a code that is no trigger takes a free value. -/
theorem evrRaise_first_free {s : State} {code detail : Nat} (hp : tabGet code s.evr.prev = none) (hm : measuredValue code detail = none)
    (ht : s.evr.trigEn = false) : (evrRaise code detail none s).free = s.free + 1 := by
  rw [evrRaise_untriggered ht, evrRecord_first_free hp hm]

/-- Refutes O6: a one-byte write by the core of a head whose management domain is up, the head's first access error, takes a free value for
the error's ring entry (log entry 6), so it changes the model's counter of free values beside the recorder and the space's own state. -/
theorem not_narrowAccessHasNoEffect : ¬ Obligations.NarrowAccessHasNoEffect := by
  intro h
  obtain ⟨⟨e, he⟩, -⟩ := h .core 0 1 0 { rst := { mgUp := true } } rfl (.inl (by decide))
  have hfree : 0 + 1 = 0 := (evrRaise_first_free rfl rfl rfl).symm.trans (congrArg State.free he)
  exact absurd hfree (by decide)

/-! ## Sealing -/

/-- Under an empty key every round key is empty. -/
theorem aesKeys_nil : aesKeys [] = List.replicate 13 [] := by decide

/-- Under an empty key no byte of a block is left. -/
theorem aesEnc_nil_key (block : Bytes) : aesEnc [] block = [] := by
  unfold aesEnc
  rw [aesKeys_nil]
  exact List.zipWith_nil_right

/-- Under an empty key no byte of a message is left. -/
theorem gcmStream_nil_key (iv m : Bytes) : gcmStream [] iv m = [] := by
  simp [gcmStream, aesEnc_nil_key, xorBytes]

/-- Under an empty key there is no tag. -/
theorem gcmTag_nil_key (iv aad ct : Bytes) : gcmTag [] iv aad ct = [] := by
  unfold gcmTag
  rw [aesEnc_nil_key]
  exact List.zipWith_nil_right

/-- Under an empty key every message is sealed to nothing. -/
theorem gcmSeal_nil_key (iv aad pt : Bytes) : gcmSeal [] iv aad pt = [] := by
  simp [gcmSeal, gcmStream_nil_key, gcmTag_nil_key]

/-- What is shorter than a tag does not open. -/
theorem gcmOpen_short {key iv aad sealed : Bytes} (h : sealed.length < 16) : gcmOpen key iv aad sealed = none := by
  unfold gcmOpen
  exact if_neg fun ⟨hl, _⟩ => by omega

/-- Refutes O59: its fourth clause asks nothing of the key, and what is sealed under an empty key is lost: here one byte, under an IV of 12
bytes and no additional data. (A key of AES-256 has 32 bytes.) -/
theorem not_whatIsStoredReadsBack : ¬ Obligations.WhatIsStoredReadsBack := by
  intro h
  obtain ⟨-, -, -, opens, -⟩ := h State.reset
  have lost : gcmOpen [] (List.replicate 12 0) [] (gcmSeal [] (List.replicate 12 0) [] [1]) = none := by
    rw [gcmSeal_nil_key]
    exact gcmOpen_short (by decide)
  exact Option.some_ne_none _ ((opens [] (List.replicate 12 0) [] [1]).symm.trans lost)

end Sys2Proof.Machine

/-! SUPPORT. The statements of chapter 02's family: the start of a load, reads of the option bytes, and the loader's walk. -/

namespace Sys2Proof.Machine

/-! ## The loader's commands -/

/-- RAIL_WAIT_END samples the pins and starts the load (R597). -/
theorem exec_railWaitEnd {s : State} {headId prefHead : Bool} (h : s.rst.stage = .railWait) :
    exec (.railWaitEnd headId prefHead) s = .next
      (startLoad ((s.onRst fun r => { r with headId := headId, prefHead := prefHead }).onPwr fun p => { p with railLow := 0 })) :=
  congrArg _ (if_pos h)

/-- OPTION_BYTE_READ_DONE takes the bytes read. -/
theorem exec_optionByteReadDone (raw : Bytes) (s : State) : exec (.optionByteReadDone raw) s = .next (optionRead raw s) := rfl

/-- OPTION_REREAD_TIMER, while the loader waits for it, brings another read from the same device (R58). -/
theorem exec_optionRereadTimer {s : State} {d : Device} (h : s.rst.stage = .loading) (w : s.cfg.rereadWait = true) (hd : s.cfg.dev = d) :
    exec .optionRereadTimer s = .next ((s.onCfg fun c => { c with rereadWait := false }).send (.spi d .readOptions)) := by
  subst hd
  exact congrArg _ (if_pos ⟨h, w⟩)

/-- With no block waiting in the staging buffer nothing drains (R575). -/
theorem updDrain_nothing {s : State} {fuel : Nat} (h : s.upd.staging = []) : updDrain fuel s = s := by
  cases fuel with
  | zero => rfl
  | succ fuel =>
    unfold updDrain
    rw [h]
    exact ite_self s

/-- RECORD_READ_DONE while the loader reads the image is one record of the load. -/
theorem exec_recordReadDone {s : State} (raw : Bytes) (h : s.rst.stage = .loading) (k : s.cfg.state = .image) :
    exec (.recordReadDone raw) s = .next (after (updDrain (stagingBlocks + 1) (loadRecord raw s))) :=
  congrArg (fun t => Host.Outcome.next (after (updDrain (stagingBlocks + 1) t))) (if_pos ⟨h, k⟩)

/-- LOAD_CHECKS_DONE acts on the verdict over the image read. -/
theorem exec_loadChecksDone (s : State) : exec .loadChecksDone s = .next (loadChecks s) := rfl

/-! ## A device that fails -/

/-- The loader as the primary's failure leaves it (R74 step 7). -/
def Cfg.toAlternate (code : Nat) (c : Cfg) : Cfg :=
  { c with
    opt := List.replicate 64 0, slotB := false, recs := [], bytes := [], recFails := 0, rereadWait := false
    codeP := BitVec.ofNat 8 code, dev := .alternate, state := .options }

/-- When the primary fails the alternate's option bytes are read (R74 step 7). -/
theorem deviceFailed_primary {code : Nat} {s : State} (h : s.cfg.dev = .primary) :
    deviceFailed code s = (s.onCfg (Cfg.toAlternate code)).send (.spi .alternate .readOptions) := by
  unfold deviceFailed
  rw [h]
  rfl

/-! ## Option bytes -/

/-- Adding one to a saturating count, as a number. -/
theorem satInc_toNat {w : Nat} (a : BitVec w) : (satInc a).toNat = min (a.toNat + 1) (2 ^ w - 1) := by
  have hpos := Nat.two_pow_pos w
  unfold satInc satAdd
  exact (BitVec.toNat_ofNat ..).trans (Nat.mod_eq_of_lt (by omega))

section

variable {raw : Bytes} {s : State} (hl : s.rst.stage = .loading) (ho : s.cfg.state = .options) (hw : s.cfg.rereadWait = false)
  (hn : raw.length = 64)

include hl ho hw hn

/-- Option bytes whose OPT_CRC and format are good name the slot, which is read (R59, R60). -/
theorem optionRead_good (hc : crcGood raw = true) (hf : optFormatGood raw = true) (h4 : bitAt (fieldLe raw 5 1) 4 = false) :
    optionRead raw s = readSlot (s.onCfg fun c =>
      { c with opt := raw, slotB := optSlotB raw, state := .image, recs := [], bytes := [], recFails := 0 }) := by
  have hraw : raw.take 64 = raw := List.take_of_length_le (Nat.le_of_eq hn)
  unfold optionRead
  simp [hl, ho, hw, hn, hraw, hc, hf, h4]

/-- A bad OPT_CRC on the primary is a failed attempt: the eighth ends its load, before that the interval to the next read runs (R58). -/
theorem optionRead_badCrc (hc : crcGood raw = false) (hd : s.cfg.dev = .primary) :
    optionRead raw s =
      if 8 ≤ (satInc s.cfg.optP).toNat then deviceFailed 0x10 (s.onCfg fun c => { c with optP := satInc c.optP })
      else s.onCfg fun c => { c with optP := satInc c.optP, rereadWait := true } := by
  have hraw : raw.take 64 = raw := List.take_of_length_le (Nat.le_of_eq hn)
  unfold optionRead
  simp [hl, ho, hw, hn, hraw, hc, hd, State.onCfg]

/-- Before the eighth failed attempt the loader waits for the next read. -/
theorem optionRead_again (hc : crcGood raw = false) (hd : s.cfg.dev = .primary) (h7 : s.cfg.optP.toNat < 7) :
    optionRead raw s = s.onCfg fun c => { c with optP := satInc c.optP, rereadWait := true } := by
  rw [optionRead_badCrc hl ho hw hn hc hd, satInc_toNat]
  exact if_neg (by omega)

/-- The eighth failed attempt ends the primary's load with OPT_CRC. -/
theorem optionRead_eighth (hc : crcGood raw = false) (hd : s.cfg.dev = .primary) (h7 : 7 ≤ s.cfg.optP.toNat) :
    optionRead raw s = ((s.onCfg fun c => { c with optP := satInc c.optP }).onCfg (Cfg.toAlternate 0x10)).send (.spi .alternate .readOptions) := by
  rw [optionRead_badCrc hl ho hw hn hc hd, satInc_toNat]
  exact (if_pos (by omega)).trans (deviceFailed_primary hd)

end

/-! ## The walk and the checks -/

/-- A TRAILER that passes its checks ends the walk (R74 step 4). -/
theorem loadRecord_trailer {raw body : Bytes} {s : State}
    (h : recCheck s.part (optSlot s.cfg.opt s.cfg.slotB).2 (some (fieldLe s.cfg.opt 36 4)) s.cfg.recs s.cfg.bytes.length raw
      = .good (some 0xFFFF) body) :
    loadRecord raw s = s.onCfg fun c =>
      { c with recs := c.recs ++ [(some 0xFFFF, body)], bytes := c.bytes ++ raw, recFails := 0, state := .checks } := by
  unfold loadRecord
  dsimp only
  rw [h]
  rfl

/-- An image that passes the load checks is loaded (R74 step 4). -/
theorem loadChecks_passed {s : State} (h : s.rst.stage = .loading) (k : s.cfg.state = .checks)
    (hv : imageVerdict s.part s.cfg.recs s.cfg.bytes = none) : loadChecks s = imageLoaded (imageOf s.cfg.recs) s := by
  unfold loadChecks
  rw [if_neg (by simp [h, k]), hv]

/-- An image that fails a load check fails its device with the check's code (R74 step 4). -/
theorem loadChecks_failed {s : State} {code : Nat} (h : s.rst.stage = .loading) (k : s.cfg.state = .checks)
    (hv : imageVerdict s.part s.cfg.recs s.cfg.bytes = some code) : loadChecks s = deviceFailed code s := by
  unfold loadChecks
  rw [if_neg (by simp [h, k]), hv]

/-- A hold that starts before the datapath is released flushes nothing: it leaves the reset block and the loader (R112). -/
theorem beginHold_beforeRelease {s : State} (h : s.rst.dpUp = false) : (beginHold s).rst = s.rst ∧ (beginHold s).cfg = s.cfg := by
  unfold beginHold
  split
  · exact ⟨rfl, rfl⟩
  · simp only [h]
    obtain ⟨hrst, -, -, hcfg, -⟩ := same_note (a0 := 0x1102) (same_rfl _)
    exact ⟨hrst, hcfg⟩

/-- The hold that the supply may call for at step 8 of R74 leaves the reset block and the loader too. -/
theorem warnedHold_beforeRelease {s : State} (h : s.rst.dpUp = false) :
    (if s.supplyWarns then beginHold s else s).rst = s.rst ∧ (if s.supplyWarns then beginHold s else s).cfg = s.cfg := by
  split
  · exact beginHold_beforeRelease h
  · exact ⟨rfl, rfl⟩

/-- An image that passes with no update pending is in force, and the management domain's clock is waited for (R74 steps 4 to 8). -/
theorem imageLoaded_inForce {im : Image} {s : State} (h : s.rst.dpUp = false) (k : s.upd.pend = false) :
    (imageLoaded im s).cfg.img = some im ∧ (imageLoaded im s).cfg.state = .done ∧ (imageLoaded im s).cfg.src = s.cfg.dev
      ∧ (imageLoaded im s).rst.stage = .mgStart := by
  unfold imageLoaded
  extract_lets c s1 s2 s3 s4
  have hpend : s3.upd.pend = false := by simp [s3, s2, s1, msrExtend, k]
  have hstay : s4 = s3 := if_neg (by simp [hpend])
  obtain ⟨hrst, hcfg⟩ := warnedHold_beforeRelease (s := s4) (by rw [hstay]; exact h)
  rw [hrst, hcfg, hstay]
  exact ⟨rfl, rfl, rfl, rfl⟩

/-! ## The statements -/

/-- Settles O10: the reset block, the supply and the loader are each set once. -/
theorem railWaitEndStartsTheLoad : Obligations.RailWaitEndStartsTheLoad := fun _ _ _ h => exec_railWaitEnd h

/-- Settles O11, by the three fates of the bytes read: good, a failed attempt before the eighth, and the eighth. -/
theorem optionByteRead : Obligations.OptionByteRead := by
  intro raw s hl ho hw hn
  refine ⟨?good, ?again, ?eighth⟩
  case good =>
    intro hc hf h4
    exact congrArg _ (optionRead_good hl ho hw hn hc hf h4)
  case again =>
    intro hc hd h7
    have hread := optionRead_again hl ho hw hn hc hd h7
    exact ⟨_, (exec_optionByteReadDone raw s).trans (congrArg _ hread), rfl, exec_optionRereadTimer hl rfl hd⟩
  case eighth =>
    intro hc hd h7
    have hread := optionRead_eighth hl ho hw hn hc hd h7
    exact ⟨_, (exec_optionByteReadDone raw s).trans (congrArg _ hread), rfl, rfl, rfl, rfl, rfl⟩

/-- Settles O12: the record that ends the walk, then the two verdicts of the load checks. -/
theorem loaderWalk : Obligations.LoaderWalk := by
  intro raw body ty s hl hdp hstaging hpend
  refine ⟨?trailer, ?passes, ?fails⟩
  case trailer =>
    rintro hs hgood rfl
    have htaken := loadRecord_trailer hgood
    have hidle : (loadRecord raw s).upd.staging = [] := by rw [htaken]; exact hstaging
    rw [exec_recordReadDone raw hl hs, updDrain_nothing hidle, htaken]
    rfl
  case passes =>
    intro hs hv
    refine ⟨_, exec_loadChecksDone s, ?_⟩
    rw [loadChecks_passed hl hs hv]
    exact imageLoaded_inForce hdp hpend
  case fails =>
    intro code hs hv hd
    refine ⟨_, exec_loadChecksDone s, ?_⟩
    rw [loadChecks_failed hl hs hv, deviceFailed_primary hd]
    exact ⟨rfl, rfl, rfl, rfl, rfl⟩

end Sys2Proof.Machine

/-! SUPPORT. The statements of chapter 03's family: the step's invariant and the release of the domains, clocks that fail, the sources of
resets and the watchdog. -/

namespace Sys2Proof.Machine

/-! ## What a row answers -/

/-- Rows that go on to the same state have the same outcome. -/
theorem next_eq {t u : State} (h : t = u) : (.next t : Host.Outcome State Fault Refusal) = .next u := congrArg _ h

/-- A row that ends with what follows from a datapath command. -/
theorem next_after {t u : State} (h : t = u) : (.next (after t) : Host.Outcome State Fault Refusal) = .next (after u) :=
  next_eq (congrArg after h)

/-- A row that ends with what follows from a command that can reach the partner. -/
theorem next_afterP {t u : State} (h : t = u) : (.next (afterP t) : Host.Outcome State Fault Refusal) = .next (afterP u) :=
  next_eq (congrArg afterP h)

/-! ## The invariant -/

/-- With a command waiting a step runs it. -/
theorem step_front {s : State} {c : Instr} {rest : List Instr} (h : s.pending = c :: rest) : step s = exec c (s.withPending rest) := by
  unfold step
  rw [h]

/-- A tick of the always-on clock is no part of the invariant. -/
theorem idle_inv {s : State} (h : s.Inv) : (idle s).Inv := by
  unfold idle
  split
  · exact h
  · exact h

/-- Settles O2: an idle step lets time pass alone, and what a command keeps (`exec_kept`) holds the invariant. -/
theorem stepKeepsInvariant : Obligations.StepKeepsInvariant := by
  intro s t hs ht
  cases hq : s.pending with
  | nil =>
    obtain rfl : idle s = t := Host.Outcome.next.inj ((step_idle hq).symm.trans ht)
    exact idle_inv hs
  | cons c rest =>
    obtain ⟨u, hu, -, hinv⟩ := exec_kept c (s.withPending rest)
    obtain rfl : u = t := Host.Outcome.next.inj (hu.symm.trans ((step_front hq).symm.trans ht))
    exact hinv hs

/-- Settles O3: after reset nothing is released and both map tables are empty. -/
theorem resetHasInvariant : Obligations.ResetHasInvariant :=
  ⟨⟨Bool.noConfusion, fun _ => ⟨rfl, rfl⟩⟩, canonical_empty rfl rfl⟩

/-! ## The always-on release -/

/-- An L0 reset whose last cause has ended: tPOR runs (R95 step 1). -/
theorem tryRelease_l0 {s : State} (h : s.rst.stage = .held) (k : s.causesStand = false) (l : s.rst.level = .l0) :
    tryRelease s = s.onRst fun r => { r with stage := .por } := by
  unfold tryRelease
  rw [if_neg (by simp [h, k]), if_pos l]

/-- The always-on release at L0 takes the causes noted since the last one, and leaves the count of L1 resets (R95, R118). -/
theorem aoRelease_l0 {s : State} (h : s.rst.level = .l0) :
    aoRelease s = measureRom (((s.onRst fun r =>
      { r with stage := .railWait, aoUp := true, cause := r.newCause, newCause := 0, lastTarget := 0 }).onClk
        fun c => { c with good := c.good ||| 1 }).onCfg fun c => { c with loadStart := s.time }) := by
  unfold aoRelease State.onRst
  rw [h]
  rfl

/-- Settles O9: the start of tPOR with the rails, and the release at its end. -/
theorem alwaysOnRelease : Obligations.AlwaysOnRelease := by
  intro s hl
  constructor
  · intro hstage hrails href hext htrip hbrown
    have hcauses : (s.onRst fun r => { r with aoRails := true }).causesStand = false := by
      simp [State.causesStand, href, hext, htrip, hbrown]
    have hpor := tryRelease_l0 (s := s.onRst fun r => { r with aoRails := true }) hstage hcauses hl
    exact next_eq ((if_neg (by simp [hrails])).trans hpor)
  · intro hpor
    refine ⟨_, next_eq ((if_pos hpor).trans (aoRelease_l0 hl)), ?rst, ?clk, ?cfg, ?msr, ?frame⟩
    all_goals rfl

/-! ## Clocks that become good -/

/-- The reset block as the management core's start leaves it (R91, R95 step 4). -/
def Rst.coreStarted (period : Nat) (r : Rst) : Rst :=
  { r with mgUp := true, wdogOn := true, wdogFirst := false, wdogLeft := BitVec.ofNat 24 period }

/-- The start of the management core leaves every control block but the reset block. -/
theorem same_startCore (s : State) : Same (s.onRst (Rst.coreStarted (s.param P.wdogPeriod))) (startCore s) := by
  unfold startCore
  exact same_ite (fun _ => same_rfl _) (fun _ => same_note (same_rfl _))

/-- What follows from a command takes back nothing that was sent. -/
theorem tx_suffix_after (s : State) : s.tx <:+ (after s).tx := by
  obtain ⟨⟨-, -, htx, -⟩, -⟩ := kept_after (kept_rfl s)
  exact htx

section

variable {s : State} (hao : s.rst.aoUp = true)
include hao

/-- The management domain's clock starts its core (R95 step 4). -/
theorem clockGood_mg (h : s.rst.stage = .mgStart) :
    clockGood 1 s = startCore ((s.onClk fun c => { c with good := setBit c.good 1 true }).onRst fun r => { r with stage := .ddrStart }) := by
  unfold clockGood
  simp [hao, h]

/-- The DDR clock releases BUF's controller and the reset pin of its DRAM (R95 step 5). -/
theorem clockGood_ddr (h : s.rst.stage = .ddrStart) :
    clockGood 2 s = (((s.onClk fun c => { c with good := setBit c.good 2 true }).onRst fun r => { r with ddrUp := true }).onBuf
      fun b => { b with state := 1 }).send (.pin (.ddrResetN false)) := by
  unfold clockGood
  simp [hao, h]

/-- The last of the later clocks releases the datapath (R95 step 6). -/
theorem clockGood_late {d : Nat} (h : s.rst.stage = .dpStart) (h3 : 3 ≤ d) (h12 : d ≤ 12) :
    clockGood d s = if (s.onClk fun c => { c with good := setBit c.good d true }).lateClocks
      then releaseDatapath (s.onClk fun c => { c with good := setBit c.good d true })
      else s.onClk fun c => { c with good := setBit c.good d true } := by
  have hknown : ¬ (12 < d ∨ d ≠ 0 ∧ ¬ s.rst.aoUp) := by simp [hao, h12]
  have hddr : d ≠ 2 := by omega
  unfold clockGood
  simp only [if_neg hknown, h, if_neg hddr]

end

/-- Settles O13, clock by clock; what follows from the command leaves the control blocks. -/
theorem clocksReleaseTheDomains : Obligations.ClocksReleaseTheDomains := by
  intro s hao
  refine ⟨?mg, ?ddr, ?late⟩
  case mg =>
    intro hstage
    refine ⟨_, next_after (clockGood_mg hao hstage), ?_⟩
    obtain ⟨hrst, hclk, -⟩ := same_after (same_startCore
      ((s.onClk fun c => { c with good := setBit c.good 1 true }).onRst fun r => { r with stage := .ddrStart }))
    exact ⟨hclk, hrst⟩
  case ddr =>
    intro hstage
    refine ⟨_, next_after (clockGood_ddr hao hstage), ?_⟩
    obtain ⟨hrst, hclk, -, -, -, -, -, -, -, -, hbuf, -, -⟩ := same_after (same_rfl
      ((((s.onClk fun c => { c with good := setBit c.good 2 true }).onRst fun r => { r with ddrUp := true }).onBuf
        fun b => { b with state := 1 }).send (.pin (.ddrResetN false))))
    refine ⟨hclk, hrst, congrArg Buf.state hbuf, (tx_suffix_after _).subset ?_⟩
    exact List.mem_cons_self
  case late =>
    intro d h3 h12 hstage
    exact next_after (clockGood_late hao hstage h3 h12)

/-! ## Clocks that fail -/

/-- The failure of DDR's clock is an L1 reset, that of a cluster's clock an L2 reset; CLK_FAIL says which (R96). -/
theorem clockFailure_domain {d : Nat} {s : State} (h2 : 2 ≤ d) (h10 : d ≤ 10) (hg : getBit s.clk.good d = true) :
    clockFailure d s = (resetAt (if d = 2 then .l1 else .l2) none .clkfail s).onClk
      fun c => { c with good := setBit c.good d false, fail := setBit c.fail d true } := by
  have hgood : ¬ (12 < d ∨ ¬ getBit s.clk.good d = true) := not_or.2 ⟨by omega, not_not_intro hg⟩
  unfold clockFailure domainFails
  simp only [if_neg hgood, if_neg (show d ≠ 25 by omega), if_neg (show d ≠ 156 by omega), if_neg (show d ≠ 100 by omega),
    if_neg (show d ≠ 0 by omega), if_neg (show d ≠ 1 by omega), if_pos h10]
  split <;> rfl

/-- The loss of REFCLK_25 is an L0 reset, which the reference holds (R96). -/
theorem clockFailure_ref25 {s : State} (h : s.rst.ref25 = true) :
    clockFailure 25 s = (resetAt .l0 none .clkfail (s.onRst fun r => { r with ref25 := false })).onClk
      fun c => { c with good := setBit c.good 0 false, fail := setBit c.fail 0 true } :=
  (if_pos rfl).trans (if_pos h)

/-- The return of REFCLK_25 ends its cause (R96). -/
theorem refclkReturn_ref25 {s : State} (h : s.rst.ref25 = false) :
    refclkReturn 25 s = tryRelease (s.onRst fun r => { r with ref25 := true }) :=
  (if_pos rfl).trans (if_neg (by simp [h]))

/-- A crossing that was not on its queue falls back to it, and says so (R103). -/
theorem exec_cdcFallback {k : Nat} {s : State} (hk : k < 1024) (h : (tabGetD k {} s.clk.cdc).onQueue = false) :
    exec (.cdcFallback k) s = .next (note 0x1103 k (s.onClk fun c =>
      { c with cdc := tabUpdD k {} (fun x => { x with onQueue := true }) c.cdc })) := by
  have hmod : k % 2 ^ 10 = k := Nat.mod_eq_of_lt hk
  show execCdcFallback k s = _
  unfold execCdcFallback
  rw [hmod]
  exact next_eq (if_neg (Bool.eq_false_iff.1 h))

/-- Settles O15, clause by clause. -/
theorem clockFailures : Obligations.ClockFailures := by
  intro s
  refine ⟨?domain, ?lost, ?back, ?crossing⟩
  case domain =>
    intro d h2 h10 hg
    exact next_after (clockFailure_domain h2 h10 hg)
  case lost =>
    intro h
    exact next_after (clockFailure_ref25 h)
  case back =>
    intro h
    exact next_after (refclkReturn_ref25 h)
  case crossing => intro k hk h; exact exec_cdcFallback hk h

/-! ## Soft resets -/

/-- A command write of RST, CLK or PWR by a requester that can make accesses takes effect. -/
theorem accessWrite_alwaysOn {s : State} {r : Requester} {a : Nat} {f : State → State} (hr : s.reaches r = true) (ha : a % 4 = 0)
    (hb : a / 2 ^ 16 = 0x14 ∨ a / 2 ^ 16 = 0x15 ∨ a / 2 ^ 16 = 0x16) : accessWrite r a f s = f s :=
  accessWrite_at (accessStop_alwaysOn s r a hr ha hb)

/-- The rows of RST_SOFT are one write, whose value decides. -/
theorem exec_softResets {s : State} {r : Requester} (val : Word) (hr : s.reaches r = true) :
    exec (.softResetL0 r val) s = .next (after (softWrite r val.toNat s))
      ∧ exec (.softResetL1 r val) s = .next (after (softWrite r val.toNat s))
      ∧ exec (.softResetL2 r val) s = .next (after (softWrite r val.toNat s))
      ∧ exec (.softResetL3 r val) s = .next (after (softWrite r val.toNat s)) := by
  have hrow : Host.Outcome.next (after (accessWrite r 0x140008 (softWrite r val.toNat) s))
      = (.next (after (softWrite r val.toNat s)) : Host.Outcome State Fault Refusal) := by
    rw [accessWrite_alwaysOn hr rfl (.inl rfl)]
  exact ⟨hrow, hrow, hrow, hrow⟩

/-- The KEY of a word (R592). -/
theorem bitsAt_key (val : Word) : bitsAt val.toNat 16 16 = val.toNat / 2 ^ 16 :=
  Nat.mod_eq_of_lt (by have := val.isLt; omega)

/-- A write of RST_SOFT with a wrong KEY is an access error (R92). -/
theorem softWrite_badKey {s : State} {r : Requester} {v : Nat} (h : bitsAt v 16 16 ≠ 0x9640) :
    softWrite r v s = accessError r 0x140008 true s := if_pos h

/-- A write of RST_SOFT with its KEY asks for the level that it names (R92). -/
theorem softWrite_level {s : State} {r : Requester} {v : Nat} (h : bitsAt v 16 16 = 0x9640) :
    (v % 4 = 0 → softWrite r v s = softReset .l0 none s) ∧ (v % 4 = 1 → softWrite r v s = softReset .l1 none s)
      ∧ (v % 4 = 2 → softWrite r v s = softReset .l2 none s)
      ∧ ∀ t, v % 4 = 3 → bitsAt v 2 5 = t.code → softWrite r v s = softReset .l3 (some t) s := by
  unfold softWrite
  rw [if_neg (not_not_intro h)]
  refine ⟨fun h0 => ?_, fun h1 => ?_, fun h2 => ?_, fun t h3 hcode => ?_⟩
  · simp only [h0]
  · simp only [h1]
  · simp only [h2]
  · simp only [h3, hcode, targetOf_code]

/-- Profile 1 lets a management soft reset go no deeper than L1 (R87, R92). -/
theorem softReset_profile1 {s : State} {l : Level} {t : Option Target} (h : s.pwr.flushing = false) (hp : s.part.profile2 = false) :
    softReset l t s = resetAt (if l.depth < 1 then .l1 else l) t .soft s := by
  have hfloor : s.part.levelOf .soft = (.l1, none) := by simp [Part.levelOf, hp]
  rw [softReset_now h, hfloor]
  rfl

/-- Settles O16: the KEY decides whether a level is asked at all, and profile 1 carries L0 out as L1. -/
theorem softResets : Obligations.SoftResets := by
  intro val s hmg hrun hpwr hflush hcauses hprofile
  obtain ⟨exec0, exec1, exec2, exec3⟩ := exec_softResets (s := s) (r := .core) val hmg
  constructor
  · intro hkey
    obtain ⟨ask0, ask1, ask2, ask3⟩ := softWrite_level (s := s) (r := .core) ((bitsAt_key val).trans hkey)
    refine ⟨fun h0 => ?l0, fun h1 => ?l1, fun h2 => ?l2, fun t h3 hcode => ?l3⟩
    case l0 => rw [exec0, ask0 h0, softReset_profile1 hflush hprofile]; exact next_after (resetAt_l1 hrun hcauses)
    case l1 => rw [exec1, ask1 h1, softReset_profile1 hflush hprofile]; exact next_after (resetAt_l1 hrun hcauses)
    case l2 => rw [exec2, ask2 h2, softReset_profile1 hflush hprofile]; exact next_after (resetAt_l2 hrun hpwr)
    case l3 => rw [exec3, ask3 t h3 hcode, softReset_profile1 hflush hprofile]; exact next_after (resetAt_l3 hrun hpwr)
  · intro hkey
    have hbad : softWrite .core val.toNat s = accessError .core 0x140008 true s :=
      softWrite_badKey (by rw [bitsAt_key]; exact hkey)
    rw [hbad] at exec0 exec1 exec2 exec3
    exact ⟨exec0, exec1, exec2, exec3⟩

/-! ## Other sources -/

section

variable {s : State} (hf : s.pwr.flushing = false)
include hf

/-- A rail that falls below its brown-out level (R115). -/
theorem brownout_new {rail : Nat} (h : rail < 16) (hb : getBit s.rst.brown rail = false) :
    brownout rail s = resetAt (s.part.levelOf .brownout).1 (s.part.levelOf .brownout).2 .brownout
      ((s.onRst fun r => { r with brown := setBit r.brown rail true }).onPwr fun p => { p with railLow := setBit p.railLow rail true }) :=
  (if_neg (by simp [h, hb])).trans (resetBy_now hf)

/-- RESET_N low for at least tRSTW is a reset (R89). -/
theorem resetNLow_long {ns : Nat} (h : s.rst.extHeld = false) (hns : 1000 ≤ ns) :
    resetNLow ns s = resetAt (s.part.levelOf .ext).1 (s.part.levelOf .ext).2 .ext (s.onRst fun r => { r with extHeld := true }) := by
  have htaken : ¬ (s.rst.extHeld = true ∨ ns < 100) := not_or.2 ⟨Bool.eq_false_iff.1 h, by omega⟩
  exact (if_neg htaken).trans ((if_pos hns).trans (resetBy_now hf))

/-- A junction that reaches the trip level (R90). -/
theorem thermalTrip_new {temp : Int} (h : s.rst.trip = false) (ht : s.tripAt.1 ≤ temp) :
    thermalTrip temp s = resetAt (s.part.levelOf .therm).1 (s.part.levelOf .therm).2 .therm
      ((s.onRst fun r => { r with trip := true }).send (.pin (.thermTripN true))) := by
  have hnew : ¬ (s.rst.trip = true ∨ temp < s.tripAt.1) := not_or.2 ⟨Bool.eq_false_iff.1 h, by omega⟩
  exact (if_neg hnew).trans (resetBy_now hf)

end

/-- A pulse of RESET_N shorter than tRSTG is ignored (R89). -/
theorem resetNLow_glitch {s : State} {ns : Nat} (h : ns < 100) : resetNLow ns s = s := if_pos (.inr h)

/-- A junction that has cooled ends its trip (R90). -/
theorem thermalTripEnd_cooled {s : State} {temp : Int} (h : s.rst.trip = true) (ht : temp ≤ s.tripAt.2) :
    thermalTripEnd temp s = tryRelease ((s.onRst fun r => { r with trip := false }).send (.pin (.thermTripN false))) :=
  if_neg (not_or.2 ⟨not_not_intro h, by omega⟩)

/-- The trip level and the end of a trip by the part's grade (R90). -/
theorem tripAt_eq (s : State) : s.tripAt.1 = (if s.part.gradeE then 120 else 115) ∧ s.tripAt.2 = (if s.part.gradeE then 100 else 95) := by
  unfold State.tripAt
  split <;> exact ⟨rfl, rfl⟩

/-- Settles O18, source by source. -/
theorem resetSources : Obligations.ResetSources := by
  intro s hf
  obtain ⟨htrip, hcool⟩ := tripAt_eq s
  refine ⟨?brownout, ?resetN, ?glitch, ?released, ?trip, ?cooled, ?debug, ?noDebug⟩
  case brownout => intro rail h hb; exact next_eq (brownout_new hf h hb)
  case resetN => intro ns h hns; exact next_eq (resetNLow_long hf h hns)
  case glitch => intro ns h; exact next_eq (resetNLow_glitch h)
  case released => intro h; exact next_eq (if_pos h)
  case trip => intro temp h ht; exact next_eq (thermalTrip_new hf h (htrip ▸ ht))
  case cooled => intro temp h ht; exact next_eq (thermalTripEnd_cooled h (hcool ▸ ht))
  case debug => intro h; exact next_eq ((if_pos h).trans (resetBy_now hf))
  case noDebug => intro h; exact next_eq (if_neg (by simp [h]))

/-! ## The watchdog -/

section

variable {s : State} (hon : s.rst.wdogOn = true)
include hon

/-- The first expiry is marked and recorded, and the period starts again (R91). -/
theorem watchdogExpiry_first (h : s.rst.wdogFirst = false) :
    watchdogExpiry s = note 0x1101 0 (s.onRst fun r => { r with wdogFirst := true, wdogLeft := BitVec.ofNat 24 (s.param P.wdogPeriod) }) :=
  (if_neg (by simp [hon])).trans (if_neg (by simp [h]))

/-- The second expiry in a row is a watchdog reset (R91). -/
theorem watchdogExpiry_second (h : s.rst.wdogFirst = true) :
    watchdogExpiry s = resetBy .wdog (s.onRst fun r => { r with wdogFirst := false }) :=
  (if_neg (by simp [hon])).trans (if_pos h)

/-- A kick starts the period again (R91). -/
theorem wdogKick_key :
    wdogKick 0x9640 s = s.onRst fun r => { r with wdogFirst := false, wdogLeft := BitVec.ofNat 24 (s.param P.wdogPeriod) } :=
  if_pos ⟨rfl, hon⟩

end

/-- Another value is no kick (R91). -/
theorem wdogKick_other {s : State} {v : Nat} (h : v ≠ 0x9640) : wdogKick v s = s := if_neg fun k => h k.1

/-- A write of RST_WDOG_KICK by a requester that can make accesses. -/
theorem exec_rstWdogKick {s : State} {r : Requester} (val : Word) (hr : s.reaches r = true) :
    exec (.rstWdogKick r val) s = .next (wdogKick val.toNat s) :=
  next_eq (accessWrite_alwaysOn hr rfl (.inl rfl))

/-- Settles O19: the two expiries, the kick, and another value. -/
theorem watchdog : Obligations.Watchdog := by
  intro s hon
  refine ⟨?first, ?second, fun r hr => ⟨?kick, fun val hval => ?other⟩⟩
  case first => intro h; exact next_after (watchdogExpiry_first hon h)
  case second => intro h; exact next_after (watchdogExpiry_second hon h)
  case kick => exact (exec_rstWdogKick 0x9640 hr).trans (next_eq (wdogKick_key hon))
  case other =>
    have hne : val.toNat ≠ 0x9640 := fun h => hval (BitVec.eq_of_toNat_eq h)
    exact (exec_rstWdogKick val hr).trans (next_eq (wdogKick_other hne))

end Sys2Proof.Machine

/-! SUPPORT. The statements of chapter 03's family, continued: requests for a power state, entry and wake, the brown-out hold, and the
sensors and fans. -/

namespace Sys2Proof.Machine

/-! ## Requests for a power state -/

/-- The state that a TARGET names has its code (R118). -/
theorem powerCode_powerOf (n : Nat) : powerCode (powerOf n) = n % 4 := by
  have hcode : n % 4 = 0 ∨ n % 4 = 1 ∨ n % 4 = 2 ∨ n % 4 = 3 := by omega
  unfold powerOf
  rcases hcode with h | h | h | h <;> simp only [h, powerCode]

section

variable {s : State} {p : Power} (hrun : s.rst.stage = .run) (hst : s.pwr.state = .run) (ht : s.pwr.transit = none)
  (ha : s.pwr.proposed = none) (hp : 0 < powerCode p)

include hrun hst ht ha hp

/-- A running head with no request under way decides a request for a state below Run (R106, R107). -/
theorem powerRequest_open :
    powerRequest p s = if s.powerDeny p ≠ 0 then s.onPwr fun x => { x with deny := BitVec.ofNat 4 (s.powerDeny p) }
      else if s.prt.pair = .paired then plControl 0x05 (leBytes 1 (powerCode p) ++ [0]) (s.onPwr fun x => { x with proposed := some p })
      else s.onPwr fun x => { x with transit := some p } := by
  have hbelow : powerCode s.pwr.state < powerCode p := by rw [hst]; exact hp
  refine if_neg ?_
  simp [hrun, ht, ha, hbelow]

/-- In the Lone state a request that nothing forbids is decided at once (R106). -/
theorem powerRequest_lone (hd : s.powerDeny p = 0) (hl : s.prt.pair = .lone) :
    powerRequest p s = s.onPwr fun x => { x with transit := some p } := by
  have hpair : s.prt.pair ≠ .paired := by rw [hl]; decide
  rw [powerRequest_open hrun hst ht ha hp, if_neg (not_not_intro hd), if_neg hpair]

/-- In the Paired state it is proposed to the partner (R106). -/
theorem powerRequest_paired (hd : s.powerDeny p = 0) (hl : s.prt.pair = .paired) :
    powerRequest p s = plControl 0x05 (leBytes 1 (powerCode p) ++ [0]) (s.onPwr fun x => { x with proposed := some p }) := by
  rw [powerRequest_open hrun hst ht ha hp, if_neg (not_not_intro hd), if_pos hl]

/-- A condition that forbids it leaves its reason in DENY (R107, R119). -/
theorem powerRequest_denied (hd : s.powerDeny p ≠ 0) :
    powerRequest p s = s.onPwr fun x => { x with deny := BitVec.ofNat 4 (s.powerDeny p) } := by
  rw [powerRequest_open hrun hst ht ha hp, if_pos hd]

end

/-- The rows of PWR_REQ are one write, whose value decides. -/
theorem exec_pwrReqs {s : State} {r : Requester} (val : Word) (hr : s.reaches r = true) :
    exec (.pwrReqRun r val) s = .next (afterP (pwrWrite val.toNat s)) ∧ exec (.pwrReqArmed r val) s = .next (afterP (pwrWrite val.toNat s))
      ∧ exec (.pwrReqQuiet r val) s = .next (afterP (pwrWrite val.toNat s))
      ∧ exec (.pwrReqDormant r val) s = .next (afterP (pwrWrite val.toNat s)) := by
  have hrow : Host.Outcome.next (afterP (accessWrite r 0x160000 (pwrWrite val.toNat) s))
      = (.next (afterP (pwrWrite val.toNat s)) : Host.Outcome State Fault Refusal) := by
    rw [accessWrite_alwaysOn hr rfl (.inr (.inr rfl))]
  exact ⟨hrow, hrow, hrow, hrow⟩

/-- A TARGET other than 0 requests its state (R106). -/
theorem pwrWrite_request {s : State} (val : Word) (h : val.toNat % 4 ≠ 0) :
    pwrWrite val.toNat s = powerRequest (powerOf val.toNat) (s.onPwr fun p => { p with req := val.setWidth 2 }) := by
  rw [← ofNat_toNat_word]
  exact if_neg h

/-- TARGET 0 wakes a head in Armed (R108). -/
theorem pwrWrite_wakes {s : State} (hs : s.pwr.state = .armed) : pwrWrite 0 s = wake 3 (s.onPwr fun p => { p with req := 0 }) := by
  unfold pwrWrite
  rw [if_pos rfl, if_neg (by rw [hs]; decide)]
  rfl

/-- Rows that are one write have one outcome. -/
theorem exec_pwrReqs_below {s t : State} {r : Requester} {val : Word} (hr : s.reaches r = true) (h : pwrWrite val.toNat s = t) :
    exec (.pwrReqArmed r val) s = .next (afterP t) ∧ exec (.pwrReqQuiet r val) s = .next (afterP t)
      ∧ exec (.pwrReqDormant r val) s = .next (afterP t) := h ▸ (exec_pwrReqs val hr).2

/-- ARM_IDLE's expiry in Run requests Armed, while ARM_IDLE is on (R107, R119). -/
theorem exec_armIdleExpiry_on {s : State} (h : s.param P.armIdle ≠ 0) (hst : s.pwr.state = .run) :
    exec .armIdleExpiry s = .next (afterP (powerRequest .armed s)) :=
  next_afterP (if_pos ⟨h, hst⟩)

/-- Settles O20: a request is granted, proposed or denied, whichever row brings it. -/
theorem powerRequests : Obligations.PowerRequests := by
  intro r val s hr hrun hst ht ha
  have hbelow (h : val.toNat % 4 ≠ 0) : 0 < powerCode (powerOf val.toNat) := by rw [powerCode_powerOf]; omega
  refine ⟨?granted, ?proposed, ?denied, ?idle, ?idleOff⟩
  case granted =>
    intro h hd hl
    refine exec_pwrReqs_below hr ((pwrWrite_request val h).trans ?_)
    exact powerRequest_lone hrun hst ht ha (hbelow h) hd hl
  case proposed =>
    intro h hd hl
    refine exec_pwrReqs_below hr ((pwrWrite_request val h).trans ?_)
    rw [← powerCode_powerOf]
    exact powerRequest_paired hrun hst ht ha (hbelow h) hd hl
  case denied =>
    intro h hd
    refine exec_pwrReqs_below hr ((pwrWrite_request val h).trans ?_)
    exact powerRequest_denied hrun hst ht ha (hbelow h) hd
  case idle =>
    intro h hd hl
    rw [exec_armIdleExpiry_on h hst, powerRequest_lone hrun hst ht ha (by decide) hd hl]
    rfl
  case idleOff =>
    intro h
    exact next_afterP (if_neg fun k => k.1 h)

/-! ## Entry and wake -/

/-- A wake of a head in Armed that is not one of a pair (R108). -/
theorem wake_armed {s : State} {why : Nat} (hs : s.pwr.state = .armed) (ht : s.pwr.transit = none) (hp : s.prt.pair = .lone) :
    wake why s = (s.onPwr fun p => { p with transit := some .run, req := 0, lastWake := BitVec.ofNat 4 why }).onBuf
      fun b => { b with exiting := b.selfRef } := by
  unfold wake
  simp [hs, ht, hp, State.onPwr]

/-- WAKE_COMPLETE from Armed: the head is in Run, no channel in self-refresh (R109). -/
theorem wakeDone_armed {s : State} (hs : s.pwr.state = .armed) (ht : s.pwr.transit = some .run) :
    wakeDone s = (s.onPwr fun p => { p with state := .run, transit := none }).onBuf fun b => { b with selfRef := 0, exiting := 0 } := by
  unfold wakeDone
  simp [hs, ht]

/-- What entry to a state does to the head (R105). -/
def Power.enter : Power → State → State
  | .run => id
  | .armed => enterArmed
  | .quiet => enterQuiet
  | .dormant => enterDormant

/-- An entry whose conditions still hold is completed (R107). -/
theorem powerEntered_allowed {s : State} {p : Power} (ht : s.pwr.transit = some p) (hp : p ≠ .run) (hd : s.powerDeny p = 0) :
    powerEntered s = p.enter (s.onPwr fun x => { x with state := p, transit := none }) := by
  unfold powerEntered
  rw [ht]
  cases p with
  | run => exact absurd rfl hp
  | armed => simp [hd, Power.enter]
  | quiet => simp [hd, Power.enter]
  | dormant => simp [hd, Power.enter]

/-- Settles O21: the two wakes from Armed, their end, and the three entries. -/
theorem entryAndWake : Obligations.EntryAndWake := by
  intro r s hr hp
  refine ⟨?wakes, ?timerOff, ?awake, ?armed, ?quiet, ?dormant⟩
  case wakes =>
    intro hs ht
    constructor
    · have hwake := wake_armed (s := s.onPwr fun p => { p with req := 0 }) (why := 3) hs ht hp
      exact (exec_pwrReqs 0 hr).1.trans (next_afterP ((pwrWrite_wakes hs).trans hwake))
    · intro htimer
      exact next_afterP ((if_pos htimer).trans (wake_armed hs ht hp))
  case timerOff =>
    intro htimer
    exact next_afterP (if_neg (not_not_intro htimer))
  case awake =>
    intro hs ht
    exact next_afterP (wakeDone_armed hs ht)
  case armed =>
    intro ht hd
    exact next_afterP (powerEntered_allowed ht (by decide) hd)
  case quiet =>
    intro ht hd
    exact next_afterP (powerEntered_allowed ht (by decide) hd)
  case dormant =>
    intro ht hd
    exact next_afterP (powerEntered_allowed ht (by decide) hd)

/-! ## The brown-out hold -/

/-- A hold that starts is counted, and flushes what the datapath holds; beyond the power block it changes no control block (R112, R113). -/
theorem same_beginHold {s : State} (h : s.pwr.hold = false) :
    Same (s.onPwr fun p => { p with hold := true, borRuns := false, holdCount := satInc p.holdCount, flushing := s.rst.dpUp }) (beginHold s) := by
  unfold beginHold
  rw [if_neg (by simp [h])]
  exact same_ite (fun _ => same_foldl (same_spillWaiting (same_note (same_rfl _))) fun _ _ k => same_forceLog k)
    fun _ => same_note (same_rfl _)

/-- A dip during a hold only stops the clear interval (R114). -/
theorem beginHold_again {s : State} (h : s.pwr.hold = true) : beginHold s = s.onPwr fun p => { p with borRuns := false } := if_pos h

/-- A supply that warns where a hold can start starts one, or meets the one that stands (R112, R114). -/
theorem supplyLow_holds {s : State} (h : s.holdCan = true) :
    supplyLow none s = beginHold (s.onPwr fun p => { p with warnLow := true })
      ∧ ∀ rail, supplyLow (some rail) s
        = beginHold (s.onPwr fun p => { p with railLow := setBit p.railLow rail true, railLatch := setBit p.railLatch rail true }) :=
  ⟨if_pos h, fun _ => if_pos h⟩

/-- The clear interval starts during a hold once nothing warns (R114). -/
theorem supplyClear_quiet {s : State} (h : s.pwr.hold = true) (hw : s.pwr.warnLow = false) (hl : s.pwr.railLow = 0) :
    supplyClear s = s.onPwr fun p => { p with borRuns := true } := by
  refine if_pos ⟨h, ?_⟩
  simp [State.supplyWarns, hw, hl]

/-- Settles O22: the start of a hold and a dip during it, what starts the clear interval, and its two ends. -/
theorem brownOutHold : Obligations.BrownOutHold := by
  intro s
  refine ⟨?starts, ?dips, ?warnHigh, ?recovers, ?clears, ?flushed⟩
  case starts =>
    intro hcan hhold
    refine ⟨_, next_after (supplyLow_holds hcan).1, ?_⟩
    obtain ⟨-, -, hpwr, -⟩ := same_after (same_beginHold (s := s.onPwr fun p => { p with warnLow := true }) hhold)
    exact hpwr
  case dips =>
    intro rail hcan hhold
    have hdip := ((supplyLow_holds hcan).2 rail).trans (beginHold_again hhold)
    refine ⟨_, next_after hdip, ?_⟩
    obtain ⟨-, -, hpwr, -⟩ := same_after (same_rfl ((s.onPwr fun p =>
      { p with railLow := setBit p.railLow rail true, railLatch := setBit p.railLatch rail true }).onPwr fun p => { p with borRuns := false }))
    exact hpwr
  case warnHigh =>
    intro hhold hlow
    exact next_eq (supplyClear_quiet (s := s.onPwr fun p => { p with warnLow := false }) hhold rfl hlow)
  case recovers =>
    intro rail hbrown hhold hwarn hlow
    have hclear := supplyClear_quiet (s := s.onPwr fun p => { p with railLow := setBit p.railLow rail false }) hhold hwarn hlow
    refine (next_eq ((if_neg (by simp [hbrown])).trans hclear)).trans ?_
    simp only [State.onPwr, hlow]
  case clears =>
    intro hhold hruns
    exact next_eq (if_pos ⟨hhold, hruns⟩)
  case flushed =>
    intro hflush
    exact next_eq (if_pos hflush)

/-! ## Sensors -/

/-- A sensor is read back as it was changed. -/
theorem sensor_onSensor (i : Nat) (f : Sensor → Sensor) (s : State) : (onSensor i f s).sensor i = f (s.sensor i) :=
  congrArg (fun x : Option Sensor => x.getD {}) tabGet_put_same

/-- The sensors and the reset block are the same. -/
def SameSensors (s t : State) : Prop := t.mgt.sensors = s.mgt.sensors ∧ t.rst = s.rst

/-- Each sensor is then the same. -/
theorem SameSensors.sensor_eq {s t : State} (h : SameSensors s t) (i : Nat) : t.sensor i = s.sensor i := by
  unfold State.sensor
  rw [h.1]

/-- An event recorded leaves the sensors and the reset block. -/
theorem sameSensors_evrRaise {s t : State} {code detail : Nat} {v : Option Nat} (h : SameSensors s t) :
    SameSensors s (evrRaise code detail v t) := by
  obtain ⟨hrst, -, -, -, -, -, -, hmgt, -⟩ := same_evrRaise (a0 := code) (a1 := detail) (a2 := v) (same_rfl t)
  exact ⟨(congrArg Mgt.sensors hmgt).trans h.1, hrst.trans h.2⟩

/-- What a reading leaves of its sensor: the value, no fault, and the warning state that the value stands in (R548). Nothing of it reaches
the reset block. -/
theorem sensRead_sensor (i : Nat) (v : Int) (s : State) :
    ((sensRead i v s).sensor i).val = v ∧ ((sensRead i v s).sensor i).fault = false
      ∧ ((sensRead i v s).sensor i).warn = sensStands (s.isTemp i) (s.sensor i).warn (s.sensTh i false) v ∧ (sensRead i v s).rst = s.rst := by
  unfold sensRead
  extract_lets x temp warn crit mm s1 latch told s2
  have htold {code : Nat} {u : State} (h : SameSensors s1 u) : SameSensors s1 (told code u) := by
    refine sameSensors_evrRaise ⟨Eq.trans ?_ h.1, h.2⟩
    show (if i < 32 then _ else _ : Mgt).sensors = _
    split <;> rfl
  have htoldIf {c : Prop} [Decidable c] {code : Nat} {u : State} (h : SameSensors s1 u) : SameSensors s1 (if c then told code u else u) := by
    split
    · exact htold h
    · exact h
  have hs2 : SameSensors s1 s2 := htoldIf ⟨rfl, rfl⟩
  have hend : SameSensors s1 (if crit = true ∧ ¬x.crit = true then told 0x1004 s2 else s2) := htoldIf hs2
  have hread : s1.sensor i = { x with val := v, minmax := some mm, warn := warn, crit := crit, fault := false } := sensor_onSensor ..
  rw [hend.sensor_eq, hread]
  exact ⟨rfl, rfl, rfl, hend.2⟩

/-- A rail's reading at its threshold stands in the state: the state ends 1 % below it (R548). -/
theorem sensStands_rail_reached {was : Bool} {th v : Int} (hth : 100 ≤ th.natAbs) (h : th ≤ 100 * v) : sensStands false was th v = true := by
  have hback : th - (th.natAbs / 100 : Nat) < 100 * v := by omega
  cases was with
  | false => exact decide_eq_true h
  | true => exact decide_eq_true hback

/-- A rail's reading more than 1 % below its threshold does not (R548). -/
theorem sensStands_rail_below {was : Bool} {th v : Int} (h : 100 * v < th - th.natAbs / 100) : sensStands false was th v = false := by
  have hback : ¬ th - (th.natAbs / 100 : Nat) < 100 * v := by omega
  have hth : ¬ th ≤ 100 * v := by omega
  cases was with
  | false => exact decide_eq_false hth
  | true => exact decide_eq_false hback

/-- Every rail has a nominal voltage (R100). -/
theorem railNominal_pos : ∀ k < 16, 0 < (railNominal[k]?).getD 0 := by decide

/-- A rail's warning threshold is at least one unit of its register from 0 (R547). -/
theorem sensTh_rail {s : State} {i : Nat} (h8 : 8 ≤ i) (h24 : i < 24) : 100 ≤ (s.sensTh i false).natAbs := by
  unfold State.sensTh
  extract_lets w
  split
  · have hnominal := railNominal_pos (i - 8) (by omega)
    simp only [State.sensDefault, if_neg (show ¬ i < 8 by omega), if_pos h24, Bool.false_eq_true, if_false]
    omega
  · next hw =>
    have hset : w.toInt ≠ 0 := fun h0 => hw (BitVec.eq_of_toInt_eq (h0.trans BitVec.toInt_zero.symm))
    omega

/-- A rail's sensor reads no temperature (R547). -/
theorem isTemp_rail {s : State} {i : Nat} (h8 : 8 ≤ i) (h24 : i < 24) : s.isTemp i = false := by
  simp [State.isTemp, show ¬ i < 8 by omega, show ¬ 32 ≤ i by omega]

/-- A sample of one rail is its sensor's reading (R547). -/
theorem junctionSample_rail {s : State} {i : Nat} {v : Int} (hmg : s.rst.mgUp = true) (h8 : 8 ≤ i) (h24 : i < 24) :
    junctionSample [(i, v)] s = sensRead i v s := by
  have hsite : hottestOf [(i, v)] = none := by simp [hottestOf, show ¬ i < 8 by omega]
  unfold junctionSample
  rw [hsite]
  simp [hmg, h24]

/-- A sample of one junction site is its sensor's reading, and may trip (R90, R547). -/
theorem junctionSample_site {s : State} {i : Nat} {v : Int} (hmg : s.rst.mgUp = true) (h8 : i < 8) (ht : s.rst.trip = false) :
    junctionSample [(i, v)] s = thermalTrip (v / 16) (sensRead i v s) := by
  have hsite : hottestOf [(i, v)] = some v := by simp [hottestOf, h8]
  unfold junctionSample
  rw [hsite]
  simp [hmg, ht, show i < 24 by omega]

/-- A board sensor that does not answer for the first time keeps its value, is faulty and says so (R549). -/
theorem sensPoll_silent {s : State} {n : Nat} {mode : BitVec 5} (hn : n < 32) (h1 : 1 ≤ bitsAt (s.sensDesc n) 17 3)
    (h4 : bitsAt (s.sensDesc n) 17 3 ≤ 4) (hf : (s.sensor (32 + n)).fault = false) :
    sensPoll n none mode s = note 0x1005 (32 + n) (onSensor (32 + n) (fun x => { x with fault := true })
      (s.send (.smbus (bitsAt (s.sensDesc n) 0 2) (bitsAt (s.sensDesc n) 2 7) (bitsAt (s.sensDesc n) 9 8)))) := by
  have hpresent : ¬ (32 ≤ n ∨ bitsAt (s.sensDesc n) 17 3 = 0 ∨ 4 < bitsAt (s.sensDesc n) 17 3) := by omega
  exact (if_neg hpresent).trans (if_neg (by simp [hf]))

/-- SENSOR_POLL of one board sensor. -/
theorem exec_sensorPoll_one {s : State} (n : Nat) (w : Option (BitVec 16)) (mode : BitVec 5) (hmg : s.rst.mgUp = true) :
    exec (.sensorPoll [(n, w, mode)]) s = .next (sensPoll n w mode s) := next_eq (if_pos hmg)

/-! ## Fans -/

/-- The management block with another duty and the tachometers read. -/
def Mgt.driven (duty : Nat) (tach : List (BitVec 16)) (m : Mgt) : Mgt :=
  { m with duty := BitVec.ofNat 7 duty, tach := (List.range 4).map fun k => (tach[k]?).getD ((m.tach[k]?).getD 0) }

/-- Once a fan has failed the duty is full (R550). -/
theorem fanUpdate_failed {s : State} {tach : List (BitVec 16)} (hmg : s.rst.mgUp = true) (h : s.mgt.fanFailed = true) :
    fanUpdate tach s = driveFans (s.onMgt (Mgt.driven 100 tach)) := by
  unfold fanUpdate
  dsimp only
  rw [if_neg (by simp [hmg]), if_pos h]
  rfl

/-- With one junction site read the duty follows it (R550). -/
theorem fanUpdate_site {s : State} {tach : List (BitVec 16)} {v : Sensor} (hmg : s.rst.mgUp = true) (h : s.mgt.fanFailed = false)
    (hs : s.mgt.sensors = [(0, v)]) : fanUpdate tach s = driveFans (s.onMgt (Mgt.driven (s.fanDuty v.val) tach)) := by
  unfold fanUpdate
  dsimp only
  rw [if_neg (by simp [hmg]), if_neg (by simp [h]), hs]
  rfl

/-- Settles O53: rails, junction sites, a board sensor that does not answer, the duty, and a fan too slow. -/
theorem sensorsAndFans : Obligations.SensorsAndFans := by
  intro s hmg
  refine ⟨?rail, ?site, ?silent, ?full, ?follows, ?fails, ?fast⟩
  case rail =>
    intro i v h8 h24
    refine ⟨_, next_after (junctionSample_rail hmg h8 h24), ?_⟩
    obtain ⟨hval, hfault, hwarn, hrst⟩ := sensRead_sensor i v s
    rw [isTemp_rail h8 h24] at hwarn
    exact ⟨hval, hfault, fun h => hwarn.trans (sensStands_rail_reached (sensTh_rail h8 h24) h),
      fun h => hwarn.trans (sensStands_rail_below h), hrst⟩
  case site =>
    intro i v h8 ht
    exact next_after (junctionSample_site hmg h8 ht)
  case silent =>
    intro n mode hn h1 h4 hf
    refine ⟨_, (exec_sensorPoll_one n none mode hmg).trans (next_eq (sensPoll_silent hn h1 h4 hf)), ?_⟩
    rw [sensor_onSensor]
    exact ⟨rfl, rfl⟩
  case full =>
    intro tach h
    exact ⟨_, next_eq (fanUpdate_failed hmg h), rfl⟩
  case follows =>
    intro tach v h hs
    exact ⟨_, next_eq (fanUpdate_site hmg h hs), rfl, fun hcold => if_pos hcold⟩
  case fails =>
    intro fan rpm hcount h4 hslow
    have hfails : ¬ (¬ s.rst.mgUp ∨ s.param P.fanCount ≤ fan ∨ 4 ≤ fan ∨ s.param P.fanTachMin ≤ rpm.toNat) :=
      not_or.2 ⟨not_not_intro hmg, by omega⟩
    exact next_eq (if_neg hfails)
  case fast =>
    intro fan rpm hfast
    exact next_eq (if_pos (.inr (.inr (.inr hfast))))

end Sys2Proof.Machine

/-! SUPPORT. The statements of chapter 04's family: sub-ports, frames of no connection, packets of a reliable connection, and how connections
of both kinds are made and ended. -/

namespace Sys2Proof.Machine

/-! ## What a raise leaves -/

/-- The VALUE of a raise is drawn from what the state holds, or is a free value. -/
theorem raiseValue_free (code detail : Nat) (v : Option Nat) (s : State) : ∃ n, (s.raiseValue code detail v).2.2 = { s with free := n } := by
  unfold State.raiseValue
  extract_lets m
  clear_value m
  cases m with
  | some x => exact ⟨s.free, rfl⟩
  | none =>
    cases tabGet code s.evr.prev with
    | some t => exact ⟨s.free, rfl⟩
    | none => exact ⟨s.free + 1, rfl⟩

/-- One raise into the recorder leaves the host fabric and the contexts. -/
theorem evrRecord_keeps (code detail : Nat) (v : Option Nat) (s : State) :
    (evrRecord code detail v s).fab = s.fab ∧ (evrRecord code detail v s).qpc = s.qpc := by
  obtain ⟨n, hfree⟩ := raiseValue_free code detail v s
  have hfab : (s.raiseValue code detail v).2.2.fab = s.fab := by rw [hfree]
  have hqpc : (s.raiseValue code detail v).2.2.qpc = s.qpc := by rw [hfree]
  unfold evrRecord
  dsimp only
  split
  · exact ⟨hfab, hqpc⟩
  · split
    · exact ⟨hfab, hqpc⟩
    · exact ⟨hfab, hqpc⟩

/-- So does a raise with the trigger of R556. -/
theorem evrRaise_keeps (code detail : Nat) (v : Option Nat) (s : State) :
    (evrRaise code detail v s).fab = s.fab ∧ (evrRaise code detail v s).qpc = s.qpc := by
  obtain ⟨hfab, hqpc⟩ := evrRecord_keeps code detail v s
  unfold evrRaise
  dsimp only
  split
  · obtain ⟨hfab', hqpc'⟩ := evrRecord_keeps 0x1007 code none ((evrRecord code detail v s).onEvr fun e => { e with freeze := true })
    exact ⟨hfab'.trans hfab, hqpc'.trans hqpc⟩
  · exact ⟨hfab, hqpc⟩

/-- With no context open an event for every queue goes to the recorder alone. -/
theorem raise_all_noContexts {code detail : Nat} {s : State} (h : s.qpc.ctx = []) : raise code detail .all s = evrRaise code detail none s := by
  unfold raise State.destCtxs
  simp [h]

/-! ## What a counter of the fabric leaves -/

section

variable (s : State)

@[simp] theorem fabCount_qpc (sub k n : Nat) : (fabCount sub k n s).qpc = s.qpc := rfl
@[simp] theorem fabCount_prt (sub k n : Nat) : (fabCount sub k n s).prt = s.prt := rfl
@[simp] theorem fabCount_ctxAt (sub k n qpn : Nat) : (fabCount sub k n s).ctxAt qpn = s.ctxAt qpn := rfl
@[simp] theorem fabCount_freeCtx (sub k n : Nat) : (fabCount sub k n s).freeCtx = s.freeCtx := rfl
@[simp] theorem fabCount_munatraGrant (sub k n : Nat) (priv : Bytes) (lot : Bool) :
    (fabCount sub k n s).munatraGrant priv lot = s.munatraGrant priv lot := rfl

end

/-! ## Addresses that wait for their sub-port -/

section

variable (s : State)

@[simp] theorem addrWait_onCtx (i : Nat) (f : Ctx → Ctx) : (onCtx i f s).fab.addrWait = s.fab.addrWait := rfl

@[simp] theorem addrWait_onCtxQuiet (i : Nat) (f : Ctx → Ctx) : (onCtxQuiet i f s).fab.addrWait = s.fab.addrWait := rfl

@[simp] theorem addrWait_wire (sub : Nat) (w : OutWire) : (wire sub w s).fab.addrWait = s.fab.addrWait := by
  unfold wire
  split
  · rfl
  · split
    · rfl
    · rfl

@[simp] theorem addrWait_transmit (c : Ctx) (p : OutPkt) (retx : Bool) : (transmit c p retx s).fab.addrWait = s.fab.addrWait := by
  have hcounted (k : Nat) : (if retx then fabCount k 11 1 s else s).fab.addrWait = s.fab.addrWait := by split <;> rfl
  unfold transmit
  split
  · rfl
  · split
    · split
      · rfl
      · rw [addrWait_wire, hcounted]
    · rw [addrWait_wire, hcounted]

@[simp] theorem addrWait_sendMsg (i : Nat) (msg : Bytes) : (sendMsg i msg s).fab.addrWait = s.fab.addrWait := by
  unfold sendMsg ctxSend
  split
  · rfl
  · simp

/-- A partner-link frame leaves the host fabric. -/
@[simp] theorem fab_plFrame (body : Bytes) : (plFrame body s).fab = s.fab := by
  unfold plFrame
  split
  · rfl
  · rfl

/-- So do records to the partner. -/
@[simp] theorem fab_plRecords (m : Nat) (recs : List Bytes) (tag : PlTag) : (plRecords m recs tag s).fab = s.fab := by
  unfold plRecords plSend
  simp

@[simp] theorem addrWait_sendHead (i : Nat) (msg : Bytes) : (sendHead i msg s).fab.addrWait = s.fab.addrWait := by
  unfold sendHead mirror
  split
  · rfl
  · rw [addrWait_sendMsg]
    split
    · rw [fab_plRecords]
    · rfl

@[simp] theorem addrWait_deliver (code detail i : Nat) : (deliver code detail i s).fab.addrWait = s.fab.addrWait := by
  unfold deliver
  split
  · rfl
  · split
    · rfl
    · split
      · simp
      · simp

/-- An event leaves the addresses that wait for their sub-port (R157). -/
theorem addrWait_raise (code detail : Nat) (dest : Dest) : (raise code detail dest s).fab.addrWait = s.fab.addrWait := by
  have hdelivered (l : List Nat) (u : State) : (l.foldl (fun s i => deliver code detail i s) u).fab.addrWait = u.fab.addrWait := by
    induction l generalizing u with
    | nil => rfl
    | cons i l ih => rw [List.foldl_cons, ih, addrWait_deliver]
  obtain ⟨hfab, -⟩ := evrRaise_keeps code detail none s
  unfold raise
  rw [hdelivered, hfab]

end

/-! ## Sub-ports -/

/-- A sub-port that comes up and has no address waiting for it (R129). -/
theorem subCameUp_new {sub : Nat} {s : State} (hdown : s.subIsUp sub = false) (hen : s.subEnabled sub = true) (hup : s.rst.hostUp = true)
    (hwait : getBit s.fab.addrWait sub = false) : subCameUp sub s = raise 0x0102 sub .all (s.onFab fun f =>
      { f with subUp := setBit f.subUp sub true, training := setBit f.training sub false }) := by
  unfold subCameUp
  rw [if_neg (by simp [hdown, hen, hup])]
  refine if_neg ?_
  rw [addrWait_raise]
  exact Bool.eq_false_iff.1 hwait

/-- A sub-port that is up and comes up again changes nothing (log entry 4). -/
theorem subCameUp_again {sub : Nat} {s : State} (h : s.subIsUp sub = true) : subCameUp sub s = s := if_pos (.inl h)

/-- A sub-port that goes down with no context open: nothing is sent again (R129). -/
theorem subDown_noContexts {sub : Nat} {s : State} (hup : s.subIsUp sub = true) (hctx : s.qpc.ctx = []) :
    subDown sub s = autoneg sub (raise 0x0101 sub .all (s.onFab fun f => { f with
      subUp := setBit f.subUp sub false, latch := setBit f.latch sub true, stopped := f.stopped.filter fun x => x.1 ≠ sub })) := by
  unfold subDown
  extract_lets s1 s2 s3
  have hraised : s2 = evrRaise 0x0101 sub none s1 := raise_all_noContexts hctx
  obtain ⟨-, hqpc⟩ := evrRaise_keeps 0x0101 sub none s1
  have hnone : s2.qpc.ctx = [] := by
    rw [hraised, hqpc]
    exact hctx
  have hresent : s3 = s2 := by rw [show s3 = s2.qpc.ctx.foldl _ s2 from rfl, hnone]; rfl
  rw [if_neg (not_not_intro hup), hresent]

/-- A sub-port that is down and goes down again changes nothing (log entry 4). -/
theorem subDown_again {sub : Nat} {s : State} (h : s.subIsUp sub = false) : subDown sub s = s := if_pos (Bool.eq_false_iff.1 h)

/-- FAB_CTRL written with no port enabled before: each enable is one that rises (R160). -/
theorem fabCtrl_allRise {s : State} {v : Nat} (h : s.fab.ctrl = 0) :
    fabCtrl v s = (((List.range 4).filter fun p => getBit (BitVec.ofNat 4 v) p).flatMap fun p =>
      (List.range 4).map (4 * p + ·)).foldl (fun s n => autoneg n s) (s.onFab fun f => { f with ctrl := BitVec.ofNat 4 v }) := by
  have hnone (p : Nat) : getBit s.fab.ctrl p = false := by rw [h]; exact BitVec.getLsbD_zero
  have hfall : ((List.range 4).filter fun p => getBit s.fab.ctrl p && !getBit (BitVec.ofNat 4 v) p) = [] :=
    List.filter_eq_nil_iff.2 fun p _ => by rw [hnone, Bool.false_and]; exact Bool.false_ne_true
  have hrise : ((List.range 4).filter fun p => !getBit s.fab.ctrl p && getBit (BitVec.ofNat 4 v) p)
      = (List.range 4).filter fun p => getBit (BitVec.ofNat 4 v) p :=
    List.filter_congr fun p _ => by rw [hnone, Bool.not_false, Bool.true_and]
  unfold fabCtrl
  dsimp only
  rw [hfall, hrise]
  rfl

/-- Settles O23: up, up again, down, down again, and the enables. -/
theorem subportsUpAndDown : Obligations.SubportsUpAndDown := by
  intro sub s
  refine ⟨?up, ?upAgain, ?down, ?downAgain, ?enables⟩
  case up => intro hdown hen hup hwait; exact next_after (subCameUp_new hdown hen hup hwait)
  case upAgain => intro h; exact next_after (subCameUp_again h)
  case down => intro hup hctx; exact next_after (subDown_noContexts hup hctx)
  case downAgain => intro h; exact next_after (subDown_again h)
  case enables =>
    intro r val hreach hoff
    have hval : BitVec.ofNat 4 (val.toNat % 16) = val.setWidth 4 := by
      apply BitVec.eq_of_toNat_eq
      simp
    refine next_after ((accessWrite_at hreach).trans ?_)
    rw [fabCtrl_allRise hoff, hval]
    rfl

/-! ## Frames of no connection -/

/-- A bit set in a bit vector is read back. -/
theorem getBit_setBit_true {w : Nat} (x : BitVec w) {i : Nat} (h : i < w) : getBit (setBit x i true) i = true := by
  have hbit : (BitVec.ofNat w (2 ^ i)).getLsbD i = true := by
    simp only [BitVec.getLsbD_ofNat, h, Nat.testBit_two_pow_self, decide_true, Bool.and_self]
  show (x ||| BitVec.ofNat w (2 ^ i)).getLsbD i = true
  rw [BitVec.getLsbD_or, hbit, Bool.or_true]

/-- Link-level pause that stops a sub-port: what waits there goes on waiting (R126). -/
theorem pauseFrame_stops {sub : Nat} {stop : BitVec 8} {s : State} (h16 : sub < 16) (hmode : s.param P.pauseMode = 1) (hstop : stop ≠ 0) :
    pauseFrame sub none stop s = fabCount sub 12 1 (s.onFab fun f => { f with paused := setBit f.paused sub true }) := by
  have hnew : (stop != 0) = true := bne_iff_ne.2 hstop
  have hstopped : (fabCount sub 12 1 (s.onFab fun f => { f with paused := setBit f.paused sub true })).subStopped sub = true :=
    Bool.or_eq_true_iff.2 (.inl (getBit_setBit_true _ h16))
  unfold pauseFrame
  simp only [hmode, hnew, if_pos, hstopped]

section

variable {sub : Nat} {s : State} (hup : s.subIsUp sub = true)
include hup

/-- The second announcement of taken addresses leaves one more to make (R157). -/
theorem announceAgain_second (h : tabGet sub s.fab.announces = some 0) :
    announceAgain sub s = announce sub (s.onFab fun f => { f with announces := tabPut sub 1 f.announces }) := by
  unfold announceAgain
  simp only [h, if_pos hup, if_pos]

/-- The third is the last (R157). -/
theorem announceAgain_third (h : tabGet sub s.fab.announces = some 1) :
    announceAgain sub s = announce sub (s.onFab fun f => { f with announces := tabDel sub f.announces }) := by
  unfold announceAgain
  simp only [h, if_pos hup, if_neg Nat.one_ne_zero]

end

/-- The first echo request of a second is answered and counted (R127). -/
theorem icmpEcho_first {sub : BitVec 4} {dst src : Nat} {data : Bytes} {s : State} (hhost : s.rst.hostUp = true) (hup : s.subIsUp sub.toNat = true)
    (haddr : (s.addrAt sub.toNat fun a => (a.v4ok && mapped4 a.ipv4 == dst) || (a.v6ok && a.ipv6 == dst)).isSome)
    (hnone : tabGet sub.toNat s.fab.echo = none) : icmpEcho (some sub) dst src data s
      = hostSend (.eth sub.toNat (.echoReply dst src data)) (s.onFab fun f => { f with echo := tabPut sub.toNat (s.time, 1) f.echo }) := by
  unfold icmpEcho
  simp only [hnone]
  exact if_pos ⟨hhost, hup, haddr, by decide⟩

/-- After a thousand answers in a second the next request is dropped (R127). -/
theorem icmpEcho_full {sub : BitVec 4} {dst src : Nat} {data : Bytes} {t : Word64} {s : State}
    (hfull : tabGet sub.toNat s.fab.echo = some (t, 1000)) (hsecond : s.since t < 50000000) : icmpEcho (some sub) dst src data s = s := by
  unfold icmpEcho
  simp only [hfull, if_pos hsecond]
  exact if_neg fun ⟨_, _, _, hroom⟩ => absurd hroom (by decide)

/-- Settles O24, frame by frame. -/
theorem framesOfNoConnection : Obligations.FramesOfNoConnection := by
  intro sub s hhost hup
  refine ⟨?arp, ?arpOther, ?arpMgmt, ?neighbour, ?echo, ?echoFull, ?pause, ?second, ?third⟩
  case arp => intro ip mac haddr; exact next_eq (if_pos ⟨hhost, hup, haddr⟩)
  case arpOther =>
    intro ip mac hnone
    exact next_eq (if_neg fun ⟨_, _, hsome⟩ => Option.not_isSome_iff_eq_none.2 hnone hsome)
  case arpMgmt => intro ip mac hmg haddr; exact next_eq (if_pos ⟨hmg, haddr⟩)
  case neighbour => intro target src haddr; exact next_eq (if_pos ⟨hhost, hup, haddr⟩)
  case echo => intro dst src data haddr hnone; exact next_eq (icmpEcho_first hhost hup haddr hnone)
  case echoFull => intro dst src data t hfull hsecond; exact next_eq (icmpEcho_full hfull hsecond)
  case pause =>
    intro stop hmode hstop
    exact next_eq ((if_pos hup).trans (congrArg after (pauseFrame_stops sub.isLt hmode hstop)))
  case second => intro h; exact next_eq (announceAgain_second hup h)
  case third => intro h; exact next_eq (announceAgain_third hup h)

/-! ## Packets of a reliable connection -/

/-- The context that a connection number names stands at its index. -/
theorem tabGet_of_ctxAt {s : State} {qpn i : Nat} {c : Ctx} (h : s.ctxAt qpn = some (i, c)) : tabGet i s.qpc.ctx = some c := by
  unfold State.ctxAt at h
  split at h
  next x hx =>
    split at h
    · obtain ⟨rfl, rfl⟩ := Prod.mk.inj (Option.some.inj h)
      exact hx
    · cases h
  · cases h

section

variable {h : RoceHdr} {idx : Nat} {c : Ctx} {s : State} (hh : s.Hears h idx c)
include hh

/-- A packet that reaches a context in the cache (R130, R149). -/
theorem roceIn_hears (p : Inbound) : roceIn h p s = rcPacket idx h p (s.heard h idx) := by
  obtain ⟨hhost, hup, hicrc, hrc, hce, hctx, hlot, hlost, hready, hcached⟩ := hh
  unfold roceIn
  simp [hhost, hup, hicrc, hrc, hce, hctx, hlot, hlost, hready, hcached, State.heard]

/-- A packet with a bad ICRC is only counted (R130). -/
theorem roceIn_badIcrc (p : Inbound) :
    roceIn { h with icrcOk := false } p s = fabCount h.sub.toNat 14 1 (fabCount h.sub.toNat 0 1 (fabCount h.sub.toNat 5 1 s)) := by
  obtain ⟨hhost, hup, -, -, hce, -⟩ := hh
  unfold roceIn
  simp [hhost, hup, hce]

/-- The Ready context takes a packet as an answer, as the request it expects, or as another request (R134). -/
theorem rcPacket_hears (p : Inbound) : rcPacket idx h p (s.heard h idx) =
    if ¬ p.isRequest then rcResponse idx c p (s.heard h idx)
    else if h.psn.toNat = c.rxNext then rcRequest idx c p (s.heard h idx)
    else if (h.psn.toNat + 2 ^ 24 - c.rxNext) % 2 ^ 24 < 2 ^ 23 then
      if c.gapNak then s.heard h idx else sendNak idx 0 (onCtx idx (fun c => { c with gapNak := true }) (s.heard h idx))
    else rcDuplicate idx c h.psn.toNat p (s.heard h idx) := by
  obtain ⟨-, -, -, -, hce, hctx, -, hlost, hready, -⟩ := hh
  have hat : tabGet idx (s.heard h idx).qpc.ctx = some c := tabGet_of_ctxAt hctx
  have htaken : ¬ (c.lost = true ∨ (c.state ≠ .ready ∧ c.state ≠ .draining)) := by simp [hlost, hready]
  unfold rcPacket
  simp only [hat, if_neg htaken, hce, Bool.false_eq_true, if_false]

/-- An answer of the host. -/
theorem roceIn_answer {p : Inbound} (hp : p.isRequest = false) : roceIn h p s = rcResponse idx c p (s.heard h idx) := by
  rw [roceIn_hears hh, rcPacket_hears hh, if_pos (by simp [hp])]

/-- The request that is expected. -/
theorem roceIn_inOrder {p : Inbound} (hp : p.isRequest = true) (hpsn : h.psn.toNat = c.rxNext) :
    roceIn h p s = rcRequest idx c p (s.heard h idx) := by
  rw [roceIn_hears hh, rcPacket_hears hh, if_neg (not_not_intro hp), if_pos hpsn]

/-- The first request beyond a gap (R134). -/
theorem roceIn_gap {p : Inbound} (hp : p.isRequest = true) (hnak : c.gapNak = false) (hpsn : h.psn.toNat ≠ c.rxNext)
    (hahead : (h.psn.toNat + 2 ^ 24 - c.rxNext) % 2 ^ 24 < 2 ^ 23) :
    roceIn h p s = sendNak idx 0 (onCtx idx (fun c => { c with gapNak := true }) (s.heard h idx)) := by
  rw [roceIn_hears hh, rcPacket_hears hh, if_neg (not_not_intro hp), if_neg hpsn, if_pos hahead, if_neg (Bool.eq_false_iff.1 hnak)]

end

/-! ## Requests in order -/

/-- A capsule is taken (R172). -/
theorem rcRequest_capsule {idx : Nat} {c : Ctx} {h : RoceHdr} {raw : Bytes} {s : State} (hlen : raw.length = 64)
    (hfree : s.slotFree (qpnOf idx c) c = true) :
    rcRequest idx c (.send h .only raw) s = takeCapsule idx c h.psn.toNat raw (advance idx 1 true s) :=
  (if_neg (by simp [hlen])).trans (if_neg (by simp [hfree]))

/-- A SEND of several packets, or of another length, ends the queue pair (R131, R172). -/
theorem rcRequest_badSend {idx : Nat} {c : Ctx} {h : RoceHdr} {pos : PktPos} {raw : Bytes} {s : State} (hbad : pos ≠ .only ∨ raw.length ≠ 64) :
    rcRequest idx c (.send h pos raw) s = qpError idx none (sendNak idx 1 s) := if_pos hbad

section

variable {idx key va : Nat} {c : Ctx} {raw : Bytes} {s : State}

/-- A write whose key names no window ends the queue pair (R144). -/
theorem writePacket_noWindow (hno : s.winAt c.taken key = none) (imm : Option Nat) :
    writePacket idx c .only key va imm raw s = qpError idx (some 0x0104) (sendNak idx 2 s) := by
  unfold writePacket badAccess
  simp only [hno]

/-- A read whose key names no window ends the queue pair (R144). -/
theorem readRequest_noWindow {psn len : Nat} {fresh : Bool} (hno : s.winAt c.taken key = none) (hout : s.readsOut c < 16) :
    readRequest idx c psn key va len fresh s = qpError idx (some 0x0104) (sendNak idx 2 s) := by
  unfold readRequest badAccess
  simp only [if_neg (Nat.not_le.2 hout), hno]

variable {i : Nat} {w : Window} (hwin : s.winAt c.taken key = some (i, w)) (hperm : w.readPerm = false)
include hwin hperm

/-- A write in one packet without an immediate (R181). -/
theorem writePacket_plain : writePacket idx c .only key va none raw s
    = advance idx 1 true (onCtx idx (fun c => { c with wrCur := none }) (placeData false false i va raw s)) := by
  unfold writePacket
  simp [hwin, hperm]

/-- One whose immediate is the key completes the window (R181). -/
theorem writePacket_completes (hopen : w.complete = false) : writePacket idx c .only key va (some key) raw s
    = advance idx 1 true (onCtx idx (fun c => { c with wrCur := none }) (windowDone i (placeData false true i va raw s))) := by
  unfold writePacket
  simp [hwin, hperm, hopen]

/-- One with another immediate fails its command (R181). -/
theorem writePacket_otherImm {m : Nat} (hm : m ≠ key) : writePacket idx c .only key va (some m) raw s
    = advance idx 1 true (onCtx idx (fun c => { c with wrCur := none }) (failCmd w.acc 0x03 0xFFFFFFFF 0 (placeData false false i va raw s))) := by
  unfold writePacket
  simp [hwin, hperm, hm, beq_false_of_ne hm]

end

/-- Settles O25, request by request. -/
theorem reliableRequests : Obligations.ReliableRequests := by
  intro h idx c s hh hpsn
  have hrequest {p : Inbound} {t : State} (hp : p.isRequest = true) (ht : rcRequest idx c p (s.heard h idx) = t) :
      (.next (after (roceIn h p s)) : Host.Outcome State Fault Refusal) = .next (after t) :=
    next_after ((roceIn_inOrder hh hp hpsn).trans ht)
  refine ⟨?capsule, ?badSend, ?window, ?noWindow, ?read, ?unsupported⟩
  case capsule =>
    intro raw hlen hfree
    exact hrequest rfl (hpsn ▸ rcRequest_capsule hlen hfree)
  case badSend => intro raw pos hbad; exact hrequest rfl (rcRequest_badSend hbad)
  case window =>
    intro key imm va raw i w hwin hperm
    refine ⟨hrequest rfl (writePacket_plain hwin hperm), fun hopen => ?_, fun hne => ?_⟩
    · exact hrequest rfl (writePacket_completes hwin hperm hopen)
    · exact hrequest rfl (writePacket_otherImm hwin hperm fun hm => hne (BitVec.eq_of_toNat_eq hm))
  case noWindow =>
    intro key imm va raw hno
    refine ⟨hrequest rfl (writePacket_noWindow hno _), hrequest rfl (writePacket_noWindow hno _), fun hout len => ?_⟩
    exact hrequest rfl (readRequest_noWindow hno hout)
  case read =>
    intro key len va i w hwin hperm hout
    exact hrequest rfl (by rw [← hpsn]; rfl)
  case unsupported => exact hrequest rfl rfl

/-! ## Answers of the host -/

/-- What an answer of the host acknowledges besides itself: every packet below its PSN (R154). -/
def beforeNak (idx : Nat) (h : RoceHdr) (s : State) : State :=
  acknowledge idx (fun o => numLe (2 ^ 24) o.num ((h.psn.toNat + 2 ^ 24 - 1) % 2 ^ 24)) s

section

variable {idx : Nat} {c : Ctx} {h : RoceHdr} {delay : BitVec 32} {s : State}

/-- A sequence-error NAK has the rest sent again (R154). -/
theorem rcResponse_sequenceNak (hprobe : tabHas idx s.prt.probes = false) :
    rcResponse idx c (.nak h 0 delay) s = resendAll idx (beforeNak idx h s) :=
  (if_neg fun k => Bool.eq_false_iff.1 hprobe k.2).trans (if_pos rfl)

/-- An access or operational error ends the queue pair (R154). -/
theorem rcResponse_errorNak {code : BitVec 8} (h0 : code ≠ 0) (hrnr : code ≠ 0x20) :
    rcResponse idx c (.nak h code delay) s = qpError idx (if code = 2 then some 0x0104 else none) (beforeNak idx h s) := by
  unfold rcResponse
  simp only [h0, hrnr, false_and, if_false, beforeNak]

/-- An RNR NAK without a limit waits its delay (R154). -/
theorem rcResponse_rnr (hlim : s.param P.rnrRetryLimit = 7) : rcResponse idx c (.nak h 0x20 delay) s
    = onCtx idx (fun c => { c with rnrs := c.rnrs + 1, timeout := max 1 delay.toNat, sent := c.sent.map fun o => { o with rnrWait := true } })
      (beforeNak idx h s) := by
  have h0 : ¬ (0x20 : BitVec 8) = 0 := by decide
  unfold rcResponse
  simp only [h0, hlim, false_and, ne_eq, not_true_eq_false, if_false, if_true, beforeNak]

end

/-- A PSN above the expected one is another. -/
theorem psn_ne_of_ahead {psn : BitVec 24} {next : Nat} (h : 0 < (psn.toNat + 2 ^ 24 - next) % 2 ^ 24) : psn.toNat ≠ next := by
  rintro rfl
  rw [Nat.add_sub_cancel_left, Nat.mod_self] at h
  exact absurd h (Nat.lt_irrefl 0)

/-- Settles O26, answer by answer, then the gap and the bad ICRC. -/
theorem reliableAnswers : Obligations.ReliableAnswers := by
  intro h idx c s hh
  have hanswer {p : Inbound} {t : State} (hp : p.isRequest = false) (ht : rcResponse idx c p (s.heard h idx) = t) :
      (.next (after (roceIn h p s)) : Host.Outcome State Fault Refusal) = .next (after t) :=
    next_after ((roceIn_answer hh hp).trans ht)
  refine ⟨?ack, ?sequence, ?access, ?operational, ?rnr, ?cnp, ?gap, ?badIcrc⟩
  case ack => exact hanswer rfl rfl
  case sequence => intro hprobe delay; exact hanswer rfl (rcResponse_sequenceNak hprobe)
  case access => intro delay; exact hanswer rfl (rcResponse_errorNak (code := 2) (by decide) (by decide))
  case operational => intro delay; exact hanswer rfl (rcResponse_errorNak (code := 3) (by decide) (by decide))
  case rnr => intro hlim delay; exact hanswer rfl (rcResponse_rnr hlim)
  case cnp => exact hanswer rfl rfl
  case gap =>
    intro hnak hahead hhalf _ pos raw
    exact next_after (roceIn_gap hh rfl hnak (psn_ne_of_ahead hahead) hhalf)
  case badIcrc => intro pos raw; exact next_after (roceIn_badIcrc hh _)

/-! ## Connection management -/

/-- A head in Run with no entry under way has nothing to wake from (R108). -/
theorem wakeHost_run {s : State} (hrun : s.pwr.state = .run) (hstay : s.pwr.transit = none) : wakeHost s = s :=
  if_neg (by simp [hrun, hstay])

/-- What a head that is not Fenced sends goes out (R445). -/
theorem hostSend_unfenced {s : State} {x : Tx} (h : s.prt.pair ≠ .fenced) : hostSend x s = s.send x := if_neg h

/-- The context that a request for a reliable connection makes (R132, R147), with its generation and what is granted. -/
def ConnReq.context (r : ConnReq) (g d : Nat) (ev pull : Bool) (hid : Nat) : Ctx :=
  { gen := g, state := .connecting, src := r.src.toNat, sub := r.sub.toNat, addrs := [r.src.toNat], peer := r.qpn.toNat, commId := r.commId.toNat
    mac := r.mac.toNat, sport := r.sport.toNat, pkey := r.pkey.toNat, localPort := r.sub.toNat, depth := d, events := ev, pull := pull
    hostId := hid, rxNext := r.psn.toNat, acked := r.psn.toNat }

section

variable {r : ConnReq} {s : State} (hpair : s.prt.pair ≠ .fenced) (hhost : s.rst.hostUp = true) (hup : s.subIsUp r.sub.toNat = true)
  (hctx : s.qpc.ctx = []) (hrun : s.pwr.state = .run) (hstay : s.pwr.transit = none)
include hpair hhost hup hctx hrun hstay

/-- A request whose Munatra parameters fail is refused (R133, R170). -/
theorem cmReq_refused (hbad : s.munatraGrant r.priv false = none) : cmReq r s = s.send (.cm r.sub.toNat (.rej r.commId.toNat)) := by
  unfold cmReq
  simp [hhost, hup, hpair, wakeHost_run hrun hstay, hctx, hbad, hostSend_unfenced]

/-- A request that passes makes a Connecting context, and REP answers it (R132, R133). -/
theorem cmReq_granted {d hid i g : Nat} {ev pull : Bool} {m : Bytes} (hgrant : s.munatraGrant r.priv false = some (d, ev, pull, hid, m))
    (hrc : r.rc = true) (hmtu : s.param P.pmtu ≤ r.pmtu) (hfree : s.freeCtx = some (i, g)) :
    cmReq r s = sendRep i (cacheIn i (addCtx i (r.context g d ev pull hid) s)) := by
  unfold cmReq
  simp [hhost, hup, hpair, wakeHost_run hrun hstay, hctx, hgrant, hrc, Nat.not_lt.2 hmtu, hfree, ConnReq.context]

end

section

variable {qpn i : Nat} {c : Ctx} {s : State} (hat : s.ctxAt qpn = some (i, c)) (hrc : c.lot = false)
include hat hrc

/-- RTU makes a Connecting context Ready (R147). -/
theorem cmRtu_connecting (hst : c.state = .connecting) : cmRtu qpn s = connReady i s := by
  unfold cmRtu
  simp [hat, hrc, hst]

/-- The host's REJ closes it (R133). -/
theorem cmRej_connecting (hst : c.state = .connecting) : cmRej qpn s = closeCtx i s := by
  unfold cmRej
  simp [hat, hrc, hst]

/-- A REP that stays unanswered is repeated, and after the third the context closes (R147). -/
theorem repRetry_connecting (hst : c.state = .connecting) (hround : s.prt.round = none) :
    repRetry qpn s = if 3 ≤ c.reps then closeCtx i s else sendRep i s := by
  unfold repRetry
  simp [hat, hrc, hst, hround]

/-- A disconnect drains a connection with nothing in a miss buffer (R147, R162). -/
theorem cmDreq_ready (hst : c.state = .ready) (hmiss : (s.qpc.miss.any fun m => m.2.1 == i) = false) :
    cmDreq qpn s = onCtx i (fun c => { c with state := .draining }) s := by
  unfold cmDreq disconnect
  simp only [hat, hrc, hst, hmiss]
  rfl

/-- From Error it answers and closes the connection (R147). -/
theorem cmDreq_error (hpair : s.prt.pair ≠ .fenced) (hst : c.state = .error) :
    cmDreq qpn s = closeCtx i (s.send (.cm c.sub (.drep c.commId))) := by
  unfold cmDreq disconnect
  simp [hat, hrc, hst, hostSend_unfenced hpair]

end

/-- Settles O27: requests refused and granted, then each message of a connection. -/
theorem connectionManagement : Obligations.ConnectionManagement := by
  intro s hpair
  constructor
  · intro r hhost hup hctx hrun hstay
    refine ⟨fun hbad => ?refused, fun d ev pull hid m i g hgrant hrc hmtu hfree => ?granted⟩
    case refused => exact next_after (cmReq_refused hpair hhost hup hctx hrun hstay hbad)
    case granted => exact next_after (cmReq_granted hpair hhost hup hctx hrun hstay hgrant hrc hmtu hfree)
  · intro qpn i c hat hrc
    refine ⟨fun hst => ⟨?rtu, ?rej⟩, fun hst hround => ?rep, fun hst hmiss => ?drain, fun hst => ?close⟩
    case rtu => exact next_after (cmRtu_connecting hat hrc hst)
    case rej => exact next_after (cmRej_connecting hat hrc hst)
    case rep => exact next_after (repRetry_connecting hat hrc hst hround)
    case drain => exact next_after (cmDreq_ready hat hrc hst hmiss)
    case close => exact next_after (cmDreq_error hat hrc hpair hst)

/-! ## LOT connections -/

/-- What is counted of a LOT packet that opens a connection (R160). -/
def State.countedLot (s : State) (h : LotHdr) : State := fabCount h.sub.toNat 0 1 (fabCount h.sub.toNat 6 1 s)

/-- The context that a LOT OPEN makes (R136, R147), with its generation and what is granted. -/
def LotHdr.context (h : LotHdr) (body : Bytes) (g d : Nat) (ev : Bool) (hid : Nat) : Ctx :=
  { gen := g, state := .ready, lot := true, src := h.src.toNat, addrs := openAddrs body, peer := fieldLe body 0 4, localPort := h.sub.toNat
    depth := d, events := ev, hostId := hid, rxNext := fieldLe body 4 4, rxMsg := fieldLe body 8 4, acked := fieldLe body 4 4 }

section

variable {h : LotHdr} {raw : Bytes} {s : State} (hhost : s.rst.hostUp = true) (hup : s.subIsUp h.sub.toNat = true) (hcrc : crcGood raw = true)
  (hshape : lotShape raw = true)

section

variable (hpair : s.prt.pair ≠ .fenced) (hlot : s.param P.lotEnable ≠ 0) (hop : (lotOf raw).op = 5) (hctx : s.qpc.ctx = [])
  (hrun : s.pwr.state = .run) (hstay : s.pwr.transit = none) (hpeer : fieldLe (lotOf raw).pay 0 4 < 2 ^ 24)
include hhost hup hcrc hshape hpair hlot hop hctx hrun hstay hpeer

/-- An OPEN with bad Munatra parameters is answered with status 3 (R136, R170). -/
theorem lotOpenIn_refused (hbad : s.munatraGrant (slice (lotOf raw).pay 80 8) true = none) :
    lotOpenIn h raw s = openReply h.sub.toNat h.src.toNat (fieldLe (lotOf raw).pay 0 4) 3 0 [] (s.countedLot h) := by
  unfold lotOpenIn
  simp only [hhost, hup, hpair, hlot, hcrc, hshape, hop, hctx, hbad, fabCount_qpc, fabCount_prt, fabCount_munatraGrant,
    wakeHost_run (s := fabCount h.sub.toNat 0 1 (fabCount h.sub.toNat 6 1 s)) hrun hstay, Nat.mod_eq_of_lt hpeer, List.find?_nil,
    not_true_eq_false, ne_eq, or_self, if_false]
  rfl

/-- One that passes makes a Ready context, is answered with status 0, and its connection record goes out (R136, R147, R169). -/
theorem lotOpenIn_granted {d hid i g : Nat} {ev pull : Bool} {m : Bytes} (hlen : (lotOf raw).pay.length = 88)
    (h1 : 1 ≤ fieldLe (lotOf raw).pay 12 4) (h4 : fieldLe (lotOf raw).pay 12 4 ≤ 4)
    (hgrant : s.munatraGrant (slice (lotOf raw).pay 80 8) true = some (d, ev, pull, hid, m)) (hfree : s.freeCtx = some (i, g)) :
    lotOpenIn h raw s = connReady i (openReply h.sub.toNat h.src.toNat (fieldLe (lotOf raw).pay 0 4) 0 (g * 2 ^ 18 + i) m
      (cacheIn i (addCtx i (h.context (lotOf raw).pay g d ev hid) (s.countedLot h)))) := by
  have haddrs : ¬ (fieldLe (lotOf raw).pay 12 4 = 0 ∨ 4 < fieldLe (lotOf raw).pay 12 4) := by omega
  unfold lotOpenIn
  simp only [hhost, hup, hpair, hlot, hcrc, hshape, hop, hctx, hgrant, hfree, hlen, fabCount_qpc, fabCount_prt,
    fabCount_munatraGrant, fabCount_freeCtx, haddrs,
    wakeHost_run (s := fabCount h.sub.toNat 0 1 (fabCount h.sub.toNat 6 1 s)) hrun hstay, Nat.mod_eq_of_lt hpeer, List.find?_nil,
    not_true_eq_false, ne_eq, or_self, if_false]
  rfl

end

section

variable {i t : Nat} {c : Ctx} (hop : (lotOf raw).op = 6) (hlen : (lotOf raw).pay.length = 88) (hat : s.ctxAt (lotOf raw).conn = some (i, c))
  (htarget : c.replTarget = some t) (hst : c.state = .connecting)
include hhost hup hcrc hshape hop hlen hat htarget hst

/-- An OPEN_REPLY that refuses closes the connection (R473). -/
theorem lotOpenReplyIn_refuses (hstatus : 2 ^ 24 ≤ fieldLe (lotOf raw).pay 0 4) : lotOpenReplyIn h raw s = closeCtx i (s.countedLot h) := by
  have hrefused : fieldLe (lotOf raw).pay 0 4 / 2 ^ 24 ≠ 0 := by omega
  unfold lotOpenReplyIn
  simp only [hhost, hup, hcrc, hshape, hop, hlen, fabCount_ctxAt, hat, htarget, hst, hrefused, not_true_eq_false, ne_eq, or_self, if_false,
    not_false_eq_true, if_true]
  rfl

/-- One that accepts makes the replication session's connection Ready (R473). -/
theorem lotOpenReplyIn_accepts (hstatus : fieldLe (lotOf raw).pay 0 4 < 2 ^ 24) (haddrs : openAddrs (lotOf raw).pay ≠ []) :
    lotOpenReplyIn h raw s = onTarget t (fun x => { x with ready := true }) (connReady i (onCtx i (fun c =>
      { c with peer := fieldLe (lotOf raw).pay 0 4, rxNext := fieldLe (lotOf raw).pay 4 4, acked := fieldLe (lotOf raw).pay 4 4
               rxMsg := fieldLe (lotOf raw).pay 8 4, retries := 0, addrs := openAddrs (lotOf raw).pay }) (s.countedLot h))) := by
  obtain ⟨a, l, hnamed⟩ := List.exists_cons_of_ne_nil haddrs
  unfold lotOpenReplyIn
  simp only [hhost, hup, hcrc, hshape, hop, hlen, fabCount_ctxAt, hat, htarget, hst, Nat.div_eq_of_lt hstatus, Nat.mod_eq_of_lt hstatus, hnamed,
    not_true_eq_false, ne_eq, or_self, if_false]
  rfl

end

end

/-- Settles O30: an OPEN granted and refused, then an OPEN_REPLY that refuses and one that accepts. -/
theorem looseOrderConnections : Obligations.LooseOrderConnections := by
  intro h raw s hhost hup hpair hlot hcrc hshape hlen
  refine ⟨fun hop hctx hrun hstay hpeer h1 h4 => ⟨fun d ev pull hid m i g hgrant hfree => ?granted, fun hbad => ?refused⟩,
    fun i c t hop hat htarget hst => ⟨fun hstatus => ?refuses, fun hstatus haddrs => ?accepts⟩⟩
  case granted =>
    exact next_after (lotOpenIn_granted hhost hup hcrc hshape hpair hlot hop hctx hrun hstay hpeer hlen h1 h4 hgrant hfree)
  case refused => exact next_after (lotOpenIn_refused hhost hup hcrc hshape hpair hlot hop hctx hrun hstay hpeer hbad)
  case refuses => exact next_after (lotOpenReplyIn_refuses hhost hup hcrc hshape hop hlen hat htarget hst hstatus)
  case accepts => exact next_after (lotOpenReplyIn_accepts hhost hup hcrc hshape hop hlen hat htarget hst hstatus haddrs)

end Sys2Proof.Machine

/-! SUPPORT. The statements of chapter 05's family: the checks of a capsule and the step of its opcode, what the commands that only inform
answer, and transfer-ready messages, windows and orphan records. -/

namespace Sys2Proof.Machine

/-! ## The verdict of a list of checks -/

section

variable {o : Option Verdict} {l : List (Option Verdict)} {st d : Nat}

@[simp] theorem firstFail_nil : firstFail [] = none := rfl

/-- The first failing check decides, and without one the rest of the list. -/
@[simp] theorem firstFail_cons : firstFail (o :: l) = o.or (firstFail l) := by
  cases o with
  | none => rfl
  | some v => rfl

@[simp] theorem failIf_true : failIf true st d = some (st, d, []) := rfl

@[simp] theorem failIf_false : failIf false st d = none := rfl

end

/-! ## The step of an opcode -/

/-- Each row of the table runs the step of its opcode. -/
theorem exec_capsuleRow (qpn : BitVec 24) (s : State) : ∀ row ∈ capsuleRows,
    exec (row.2 qpn) s = .next (after (capsuleStep row.1 qpn.toNat s)) := by
  unfold capsuleRows
  repeat refine List.forall_mem_cons.2 ⟨rfl, ?_⟩
  exact fun _ h => absurd h List.not_mem_nil

/-- Without an unchecked capsule a queue is left alone (log entry 4). -/
theorem capsuleStep_none {op qpn : Nat} {s : State} (h : s.unchecked qpn = none) : capsuleStep op qpn s = s := by
  unfold capsuleStep
  rw [h]

/-- So is it by a RELEASE. -/
theorem releaseStep_none {qpn : Nat} {s : State} (h : s.unchecked qpn = none) : releaseStep qpn s = s := by
  unfold releaseStep
  rw [h]

/-- So is it by an ABORT. -/
theorem abortStep_none {qpn : Nat} {s : State} (h : s.unchecked qpn = none) : abortStep qpn s = s := by
  unfold abortStep
  rw [h]

section

variable {op qpn i : Nat} {c : Cmd} {x : Ctx} {v : Verdict} {s : State} (hnext : s.unchecked qpn = some c) (hat : s.ctxAt qpn = some (i, x))
include hnext hat

/-- A queue whose next capsule is of another opcode is left alone (log entry 4). -/
theorem capsuleStep_other (hop : c.op ≠ op) : capsuleStep op qpn s = s := by
  unfold capsuleStep
  simp only [hnext, hat, if_pos hop]

/-- A capsule that fails a check ends with that check's status (R185). -/
theorem capsuleStep_refused (hop : c.op = op) (hcheck : s.checkCapsule c x = some v) :
    capsuleStep op qpn s = finish c.acc v.1 0 v.2.1 0 v.2.2 s := by
  unfold capsuleStep
  simp only [hnext, hat, if_neg (not_not_intro hop), hcheck]

/-- One that passes them all is accepted (R175). -/
theorem capsuleStep_accepted (hop : c.op = op) (hcheck : s.checkCapsule c x = none) : capsuleStep op qpn s = takeIn c s := by
  unfold capsuleStep
  simp only [hnext, hat, if_neg (not_not_intro hop), hcheck]

/-- A RELEASE that fails a check is discarded (R183; log entry 56). -/
theorem releaseStep_refused (hop : c.op = 0x0F) (hcheck : s.checkCapsule c x = some v) : releaseStep qpn s = discardRelease c s := by
  unfold releaseStep
  simp only [hnext, hat, if_neg (not_not_intro hop), hcheck, Option.isSome_some, if_true]

/-- One that passes is accepted. -/
theorem releaseStep_accepted (hop : c.op = 0x0F) (hcheck : s.checkCapsule c x = none) : releaseStep qpn s = takeIn c s := by
  unfold releaseStep
  simp only [hnext, hat, if_neg (not_not_intro hop), hcheck, Option.isSome_none, Bool.false_eq_true, if_false]

end

/-! ## Commands and what goes to the partner -/

section

variable (s : State)

/-- A partner-link frame leaves the commands. -/
@[simp] theorem cmd_plFrame (body : Bytes) : (plFrame body s).cmd = s.cmd := by
  unfold plFrame
  split
  · rfl
  · rfl

@[simp] theorem cmd_plRecords (m : Nat) (recs : List Bytes) (tag : PlTag) : (plRecords m recs tag s).cmd = s.cmd := by
  unfold plRecords plSend
  simp

@[simp] theorem cmd_mirrorCmd (c : Cmd) (cstate status : Nat) : (mirrorCmd c cstate status s).cmd = s.cmd := by
  unfold mirrorCmd mirror
  split
  · exact cmd_plRecords s _ _ _
  · rfl

end

/-- The command found by its acceptance number has that number. -/
theorem cmdAt_acc {acc : Nat} {c : Cmd} {s : State} (h : s.cmdAt acc = some c) : c.acc = acc := by
  unfold State.cmdAt at h
  simpa using List.find?_some h

/-- A command is found again as it was changed, if the change keeps its acceptance number. -/
theorem cmdAt_chg {acc : Nat} {c : Cmd} {f : Cmd → Cmd} {s : State} (hf : ∀ c, (f c).acc = c.acc) (h : s.cmdAt acc = some c) :
    (chg acc f s).cmdAt acc = some (f c) := by
  have hkeeps : ((fun d : Cmd => d.acc == acc) ∘ fun d => if d.acc = acc then f d else d) = fun d => d.acc == acc := by
    funext d
    by_cases hd : d.acc = acc <;> simp [hd, hf]
  have hacc := cmdAt_acc h
  unfold State.cmdAt at h ⊢
  unfold chg
  rw [onCmd_cmd, List.find?_map, hkeeps, h]
  simp [hacc]

/-- An accepted ABORT stands recorded and waiting (R175). -/
theorem cmdAt_takeIn_abort {c : Cmd} {s : State} (hop : c.op = 0x42) (h : s.cmdAt c.acc = some c) :
    (takeIn c s).cmdAt c.acc = some { c with recorded := true, phase := .waiting } := by
  have hreserves (u : State) : claimAtAccept { c with recorded := true, phase := .waiting } u = u := by
    unfold claimAtAccept
    simp [hop]
  unfold takeIn
  rw [hreserves]
  unfold State.cmdAt
  rw [cmd_mirrorCmd]
  exact cmdAt_chg (fun _ => rfl) h

section

variable {qpn i : Nat} {c : Cmd} {x : Ctx} {s : State} (hnext : s.unchecked qpn = some c) (hat : s.ctxAt qpn = some (i, x))
  (hop : c.op = 0x42) (hcheck : s.checkCapsule c x = none) (hcmd : s.cmdAt c.acc = some c)
include hnext hat hop hcheck hcmd

/-- A fenced ABORT that passes its checks is accepted and waits (R188). -/
theorem abortStep_fenced (hfence : c.fence = true) : abortStep qpn s = takeIn c s := by
  unfold abortStep
  simp only [hnext, capsuleStep_accepted hnext hat hop hcheck, cmdAt_takeIn_abort hop hcmd, hfence, not_true_eq_false, and_false, if_false]

/-- One without FENCE starts at once (R194; log entry 50). -/
theorem abortStep_atOnce (hfence : c.fence = false) :
    abortStep qpn s = startCmd { c with recorded := true, phase := .waiting } (takeIn c s) := by
  unfold abortStep
  simp only [hnext, capsuleStep_accepted hnext hat hop hcheck, cmdAt_takeIn_abort hop hcmd, hop, hfence, Bool.false_eq_true,
    not_false_eq_true, and_self, if_true]

end

/-- Settles O31: a queue with no unchecked capsule, then one whose next capsule is refused, accepted, or of another opcode, then RELEASE and
ABORT. -/
theorem capsuleSteps : Obligations.CapsuleSteps := by
  intro qpn s
  refine ⟨fun hnone => ⟨fun row hrow => ?idle, ?idleRelease, ?idleAbort⟩, fun c i x hnext hat =>
    ⟨fun row hrow => ⟨fun hop hcheck => ?accepted, fun v hop hcheck => ?refused, fun hop => ?other⟩,
      fun hop hcheck => ?release, fun v hop hcheck => ?discarded, fun hop hcheck hcmd => ⟨fun hfence => ?fenced, fun hfence => ?atOnce⟩⟩⟩
  case idle => exact (exec_capsuleRow qpn s row hrow).trans (next_after (capsuleStep_none hnone))
  case idleRelease => exact next_after (releaseStep_none hnone)
  case idleAbort => exact next_after (abortStep_none hnone)
  case accepted => exact (exec_capsuleRow qpn s row hrow).trans (next_after (capsuleStep_accepted hnext hat hop hcheck))
  case refused => exact (exec_capsuleRow qpn s row hrow).trans (next_after (capsuleStep_refused hnext hat hop hcheck))
  case other => exact (exec_capsuleRow qpn s row hrow).trans (next_after (capsuleStep_other hnext hat hop))
  case release => exact next_after (releaseStep_accepted hnext hat hop hcheck)
  case discarded => exact next_after (releaseStep_refused hnext hat hop hcheck)
  case fenced => exact next_after (abortStep_fenced hnext hat hop hcheck hcmd hfence)
  case atOnce => exact next_after (abortStep_atOnce hnext hat hop hcheck hcmd hfence)

/-! ## The checks of a READ or WRITE -/

/-- The reserved bits and bytes of a capsule are 0 (R174). -/
def Cmd.Plain (c : Cmd) : Prop :=
  fieldLe c.raw 1 1 / 4 = 0 ∧ allZero (slice c.raw 6 2) = true ∧ allZero (slice c.raw 28 4) = true ∧ allZero (slice c.raw 48 12) = true

/-- Whether another outstanding command of the queue has a command's CID (R171). -/
def State.cidTaken (s : State) (c : Cmd) : Bool := (s.outstandingOn c.qpn).any fun y => y.acc != c.acc && y.cid == c.cid

/-- The checks of a READ or WRITE that name no volume: the reserved bits and bytes, and the CID (R185). -/
def State.blockEarly (s : State) (c : Cmd) : Option Verdict :=
  firstFail [failIf (fieldLe c.raw 1 1 / 4 != 0) 0x03 1, failIf (!allZero (slice c.raw 6 2)) 0x03 6, failIf (!allZero (slice c.raw 28 4)) 0x03 28,
    failIf (!allZero (slice c.raw 48 12)) 0x03 48, failIf (s.cidTaken c) 0x04]

/-- The fields that a READ or WRITE uses (R174, R175). -/
def blockFields (op : Nat) : List Nat := if op = 0x01 then [8, 20, 24, 32] else [8, 20]

/-- Whether a READ or WRITE asks for no bytes, for part of a block, or for more than CMD_MAX_LEN (R174, R175). -/
def State.badBlockLen (s : State) (c : Cmd) : Bool := c.len == 0 || c.len % 4096 != 0 || decide (s.param P.cmdMaxLen < c.len)

/-- The fields of a READ or WRITE (R185, check 7). -/
def State.blockFieldCheck (s : State) (c : Cmd) (x : Ctx) (v : VolPolicy) : Option Verdict :=
  firstFail [(c.unusedField (blockFields c.op)).map fun o => (0x03, o, []), (s.badField c x v.stream).map fun o => (0x03, o, [])]

/-- What a READ or WRITE asks of its volume: its range, its role, its key (R185, checks 8 to 10). -/
def State.blockReach (s : State) (c : Cmd) (v : VolPolicy) : Option Verdict :=
  firstFail [failIf (decide (v.capacity < c.lba + c.len / 4096)) 0x09, failIf (c.op == 0x02 && s.isReplica v) 0x0A,
    failIf (v.encrypt && (s.volKey v).isNone) 0x0B v.keySlot]

/-- The checks of a READ or WRITE against its volume, in order (R185). -/
def State.blockChecks (s : State) (c : Cmd) (x : Ctx) (v : VolPolicy) : Option Verdict :=
  firstFail [if s.mantle v then none else some (0x06, 0, leBytes 1 (s.mantleOf c.volId)),
    failIf (c.vol / 2 ^ 12 != v.vol / 2 ^ 12) 0x07 (v.vol / 2 ^ 12), failIf v.stream 0x08, s.blockFieldCheck c x v, s.blockReach c v]

section

variable {c : Cmd} {x : Ctx} {s : State} (hop : c.op = 0x01 ∨ c.op = 0x02)
include hop

/-- The opcodes READ and WRITE name a block volume (R175). -/
theorem opInfo_block : opInfo c.op = some (.block, blockFields c.op) := by
  obtain h | h := hop <;> rw [h] <;> rfl

/-- The take rules ask nothing of a READ or WRITE. -/
theorem takeCheck_block (v : VolPolicy) : s.takeCheck c v = none := by
  unfold State.takeCheck
  obtain h | h := hop <;> rw [h] <;> rfl

/-- Nor do those of snapshots and replication. -/
theorem replCheck_block (v : VolPolicy) : s.replCheck c v = none := by
  unfold State.replCheck
  obtain h | h := hop <;> rw [h] <;> rfl

/-- What the checks of a capsule come to for a READ or WRITE: those that name no volume, then those against the volume (R185). -/
theorem checkCapsule_block : s.checkCapsule c x = (s.blockEarly c).or (match s.volOf c with
    | none => some (0x06, 0, [0xFF])
    | some v => s.blockChecks c x v) := by
  have hkind : (OpVol.block == OpVol.stream) = false := rfl
  have htake := takeCheck_block (s := s) hop
  have hrepl := replCheck_block (s := s) hop
  unfold State.checkCapsule
  simp only [opInfo_block hop]
  have hearly : firstFail [failIf (fieldLe c.raw 1 1 / 4 != 0) 0x03 1, failIf (!allZero (slice c.raw 6 2)) 0x03 6,
      failIf ((OpVol.block == OpVol.stream) && decide (2 ^ 40 ≤ c.lba)) 0x03 8, failIf (!allZero (slice c.raw 28 4)) 0x03 28,
      failIf (!allZero (slice c.raw 48 12)) 0x03 48,
      failIf ((s.outstandingOn c.qpn).any fun y => y.acc != c.acc && y.cid == c.cid) 0x04] = s.blockEarly c := by
    simp [State.blockEarly, State.cidTaken, hkind]
  rw [hearly]
  cases s.blockEarly c with
  | some v => rfl
  | none =>
    cases s.volOf c with
    | none => rfl
    | some v =>
      obtain h | h := hop
      · simp [State.blockChecks, State.blockFieldCheck, State.blockReach, Cmd.changes, h, hkind, htake, hrepl]
      · simp [State.blockChecks, State.blockFieldCheck, State.blockReach, Cmd.changes, h, hkind, htake, hrepl]

end

/-! ### Which check decides -/

section

variable {c : Cmd} {s : State}

/-- A reserved flag set is the first thing found (R174). -/
theorem blockEarly_flags (h : fieldLe c.raw 1 1 / 4 ≠ 0) : s.blockEarly c = some (0x03, 1, []) := by
  have hset : (fieldLe c.raw 1 1 / 4 != 0) = true := bne_iff_ne.2 h
  unfold State.blockEarly
  rw [hset]
  rfl

/-- On a capsule whose reserved bits and bytes are 0 only the CID is left to check (R171). -/
theorem blockEarly_plain (h : c.Plain) : s.blockEarly c = failIf (s.cidTaken c) 0x04 := by
  obtain ⟨hflags, h6, h28, h48⟩ := h
  unfold State.blockEarly
  simp [hflags, h6, h28, h48]

end

section

variable {c : Cmd} {x : Ctx} {v : VolPolicy} {s : State}

/-- A head that is not Mantle for the volume names the one that is (R186). -/
theorem blockChecks_notMantle (h : s.mantle v = false) : s.blockChecks c x v = some (0x06, 0, leBytes 1 (s.mantleOf c.volId)) := by
  unfold State.blockChecks
  simp [h]

/-- A capsule of another generation is told the volume's (R185). -/
theorem blockChecks_oldGeneration (hm : s.mantle v = true) (h : c.vol / 2 ^ 12 ≠ v.vol / 2 ^ 12) :
    s.blockChecks c x v = some (0x07, v.vol / 2 ^ 12, []) := by
  have hdiffers : (c.vol / 2 ^ 12 != v.vol / 2 ^ 12) = true := bne_iff_ne.2 h
  unfold State.blockChecks
  rw [hm, hdiffers]
  rfl

section

variable (hm : s.mantle v = true) (hg : c.vol / 2 ^ 12 = v.vol / 2 ^ 12)
include hm hg

/-- A stream volume takes no READ or WRITE (R175). -/
theorem blockChecks_stream (h : v.stream = true) : s.blockChecks c x v = some (0x08, 0, []) := by
  unfold State.blockChecks
  rw [hm, hg, bne_self_eq_false, h]
  rfl

/-- On the head's own block volume the fields are checked, then what they ask for (R185, checks 7 to 10). -/
theorem blockChecks_fields (hb : v.stream = false) : s.blockChecks c x v = (s.blockFieldCheck c x v).or (s.blockReach c v) := by
  unfold State.blockChecks
  rw [hm, hg, bne_self_eq_false, hb]
  simp

end

section

variable (hop : c.op = 0x01 ∨ c.op = 0x02)
include hop

/-- A TAKE that is not 0 is a field the opcode does not use (R174; log entry 50). -/
theorem blockFieldCheck_take (h : c.take ≠ 0) : s.blockFieldCheck c x v = some (0x03, 16, []) := by
  unfold State.blockFieldCheck Cmd.unusedField blockFields
  obtain hr | hw := hop
  · simp [hr, h]
  · simp [hw, h]

section

variable (ht : c.take = 0) (hp : c.param = 0) (hpull : c.pull = false) (haddr : c.op = 0x02 → c.hkey = 0 ∧ c.haddr = 0)
include ht hp hpull haddr

/-- With the fields that the opcode does not use at 0 and no PULL, the length is what is left to check (R175). -/
theorem blockFieldCheck_length : s.blockFieldCheck c x v = failIf (s.badBlockLen c) 0x03 20 := by
  have hunused : c.unusedField (blockFields c.op) = none := by
    unfold Cmd.unusedField blockFields
    obtain hr | hw := hop
    · simp [hr, ht, hp]
    · obtain ⟨hkey, hha⟩ := haddr hw
      simp [hw, ht, hp, hkey, hha]
  have hbad : s.badField c x v.stream = if s.badBlockLen c then some 20 else none := by
    unfold State.badField State.badBlockLen
    obtain hr | hw := hop
    · simp [hr, hpull]
    · simp [hw, hpull]
  unfold State.blockFieldCheck failIf
  rw [hunused, hbad]
  split <;> simp

/-- A bad length is told by its offset (R175). -/
theorem blockFieldCheck_badLength (h : c.len = 0 ∨ c.len % 4096 ≠ 0 ∨ s.param P.cmdMaxLen < c.len) :
    s.blockFieldCheck c x v = some (0x03, 20, []) := by
  have hbad : s.badBlockLen c = true := by simpa [State.badBlockLen, or_assoc] using h
  rw [blockFieldCheck_length hop ht hp hpull haddr, hbad, failIf_true]

/-- With a good length no field is wrong. -/
theorem blockFieldCheck_passed (h0 : c.len ≠ 0) (h4096 : c.len % 4096 = 0) (hmax : c.len ≤ s.param P.cmdMaxLen) :
    s.blockFieldCheck c x v = none := by
  have hgood : s.badBlockLen c = false := by simp [State.badBlockLen, h0, h4096, hmax]
  rw [blockFieldCheck_length hop ht hp hpull haddr, hgood, failIf_false]

end

end

/-- A range beyond CAPACITY comes before the volume's role and key (R185). -/
theorem blockReach_beyond (h : v.capacity < c.lba + c.len / 4096) : s.blockReach c v = some (0x09, 0, []) := by
  unfold State.blockReach
  simp [h]

/-- Within CAPACITY, a WRITE is refused by a replica (R472). -/
theorem blockReach_replica (hcap : c.lba + c.len / 4096 ≤ v.capacity) (hw : c.op = 0x02) (h : s.isReplica v = true) :
    s.blockReach c v = some (0x0A, 0, []) := by
  unfold State.blockReach
  simp [Nat.not_lt.2 hcap, hw, h]

/-- Within CAPACITY, with no WRITE to a replica, only the volume's key is left to check (R269). -/
theorem blockReach_key (hcap : c.lba + c.len / 4096 ≤ v.capacity) (h : c.op = 0x02 → s.isReplica v = false) :
    s.blockReach c v = failIf (v.encrypt && (s.volKey v).isNone) 0x0B v.keySlot := by
  have hrole : (c.op == 0x02 && s.isReplica v) = false := by
    by_cases hw : c.op = 0x02 <;> simp [hw, h]
  unfold State.blockReach
  simp [Nat.not_lt.2 hcap, hrole]

end

/-- Settles O32: the checks in their order, each with those before it passed. -/
theorem blockCapsuleChecks : Obligations.BlockCapsuleChecks := by
  intro qpn c i x row s hnext hat hrow hcop ends plain fresh
  have hop : c.op = 0x01 ∨ c.op = 0x02 := by
    obtain rfl | rfl : row = (0x01, Instr.read) ∨ row = (0x02, Instr.write) := by simpa using hrow
    · exact .inl hcop
    · exact .inr hcop
  have hexec : exec (row.2 qpn) s = .next (after (capsuleStep row.1 qpn.toNat s)) :=
    exec_capsuleRow qpn s row (List.mem_of_mem_take (i := 2) hrow)
  have hcheck := checkCapsule_block (x := x) (s := s) hop
  have refused {st detail : Nat} {extra : Bytes} (h : s.checkCapsule c x = some (st, detail, extra)) : ends st detail extra :=
    hexec.trans (next_after (capsuleStep_refused hnext hat hcop h))
  have hpassed (hplain : plain) (hfresh : fresh) : s.blockEarly c = none := by
    rw [blockEarly_plain hplain, show s.cidTaken c = false from hfresh, failIf_false]
  refine ⟨fun hflags => ?flags, fun hplain htaken => ?cid, fun hplain hfresh hnone => ?volume, fun v hplain hfresh hvol => ?against⟩
  case flags => exact refused (by rw [hcheck, blockEarly_flags hflags, Option.some_or])
  case cid =>
    have htaken : s.cidTaken c = true := Bool.not_eq_false _ ▸ htaken
    exact refused (by rw [hcheck, blockEarly_plain hplain, htaken, failIf_true, Option.some_or])
  case volume => exact refused (by rw [hcheck, hpassed hplain hfresh, hnone, Option.none_or])
  case against =>
    have hagainst : s.checkCapsule c x = s.blockChecks c x v := by rw [hcheck, hpassed hplain hfresh, hvol, Option.none_or]
    refine ⟨fun hm => refused (hagainst.trans (blockChecks_notMantle hm)),
      fun hm hg => refused (hagainst.trans (blockChecks_oldGeneration hm hg)), fun hm hg =>
      ⟨fun hstream => refused (hagainst.trans (blockChecks_stream hm hg hstream)), fun hb htake => ?take, fun hb ht hp hpull haddr => ?fields⟩⟩
    case take => exact refused (by rw [hagainst, blockChecks_fields hm hg hb, blockFieldCheck_take hop htake, Option.some_or])
    case fields =>
      have hfields := hagainst.trans (blockChecks_fields hm hg hb)
      have haddr (hw : c.op = 0x02) : c.hkey = 0 ∧ c.haddr = 0 := haddr (hcop ▸ hw)
      refine ⟨fun hbad => ?length, fun h0 h4096 hmax => ?reach⟩
      case length => exact refused (by rw [hfields, blockFieldCheck_badLength hop ht hp hpull haddr hbad, Option.some_or])
      case reach =>
        rw [blockFieldCheck_passed hop ht hp hpull haddr h0 h4096 hmax, Option.none_or] at hfields
        refine ⟨fun hcap => refused (hfields.trans (blockReach_beyond hcap)),
          fun hcap hw hrepl => refused (hfields.trans (blockReach_replica hcap (hcop.trans hw) hrepl)),
          fun hcap hrepl henc hkey => ?key, fun hcap hrepl henc => ?passed⟩
        case key =>
          rw [blockReach_key hcap fun hw => hrepl (hcop ▸ hw), henc, hkey] at hfields
          exact refused hfields
        case passed =>
          rw [blockReach_key hcap fun hw => hrepl (hcop ▸ hw), henc, Bool.false_and] at hfields
          exact hexec.trans (next_after (capsuleStep_accepted hnext hat hcop hfields))

/-! ## Little-endian fields -/

/-- The low bytes of a number read back as its remainder (R11). -/
theorem leNat_leBytes (k n : Nat) : leNat (leBytes k n) = n % 256 ^ k := by
  induction k generalizing n with
  | zero => exact (Nat.mod_one n).symm
  | succ k ih =>
    have hbyte : (BitVec.ofNat 8 (n % 256)).toNat = n % 256 := by simp
    rw [leBytes, leNat, ih, hbyte, Nat.pow_succ', Nat.mod_mul]

@[simp] theorem leBytes_length (k n : Nat) : (leBytes k n).length = k := by
  induction k generalizing n with
  | zero => rfl
  | succ k ih => rw [leBytes, List.length_cons, ih]

/-- A field that follows other bytes. -/
theorem fieldLe_append_right {a b : Bytes} {off len : Nat} (h : a.length ≤ off) : fieldLe (a ++ b) off len = fieldLe b (off - a.length) len := by
  unfold fieldLe slice
  rw [List.drop_append, List.drop_eq_nil_of_le h, List.nil_append]

/-- The field at the front of a structure that a number was written into (R11). -/
theorem fieldLe_leBytes_append (k n : Nat) (b : Bytes) : fieldLe (leBytes k n ++ b) 0 k = n % 256 ^ k := by
  unfold fieldLe slice
  rw [List.drop_zero, List.take_left' (leBytes_length k n), leNat_leBytes]

/-! ## Commands that only inform -/

/-- A command as it is once it has started. -/
def Cmd.started (c : Cmd) : Cmd := { c with phase := .moving }

/-- The state in which a command has started and done nothing yet. -/
def State.started (s : State) (c : Cmd) : State := chg c.acc Cmd.started s

section

variable {c : Cmd} {s : State}

/-- IDENTIFY, VOLUME_INFO, ABORT and ORPHAN_STATUS name no volume. -/
theorem startCmd_admin (h : [0x40, 0x41, 0x42, 0x43].contains c.op = true) : startCmd c s = startAdmin c.started (s.started c) := by
  unfold startCmd
  exact if_pos h

/-- IDENTIFY answers at once (R178). -/
theorem startCmd_identify (hop : c.op = 0x40) :
    startCmd c s = finish c.acc 0 0 0 (s.started c).identifyInfo.1 (s.started c).identifyInfo.2 (s.started c) := by
  rw [startCmd_admin (by rw [hop]; rfl)]
  unfold startAdmin
  rw [show c.started.op = 0x40 from hop]
  rfl

/-- So does VOLUME_INFO (R178). -/
theorem startCmd_volumeInfo {v : VolPolicy} (hop : c.op = 0x41) (hvol : s.vol c.param = some v) :
    startCmd c s = finish c.acc 0 0 0 v.capacity ((s.started c).volumeInfo v).2 (s.started c) := by
  rw [startCmd_admin (by rw [hop]; rfl)]
  unfold startAdmin
  rw [show c.started.op = 0x41 from hop, show (s.started c).vol c.started.param = some v from hvol]
  rfl

/-- An ABORT that finds no command to end is TOO_LATE with DETAIL 1 (R194). -/
theorem abort_gone (hgone : (s.cmd.cmds.find? fun x => x.qpn == c.qpn && x.cid == c.param % 2 ^ 16 && x.acc != c.acc && !x.orphan) = none) :
    abort c s = finish c.acc 0x13 0 1 0 [] s := by
  unfold abort
  rw [hgone]

/-- So it is with one that has started and finds none. -/
theorem startCmd_abort_gone (hop : c.op = 0x42)
    (hgone : ((s.started c).cmd.cmds.find? fun x => x.qpn == c.qpn && x.cid == c.param % 2 ^ 16 && x.acc != c.acc && !x.orphan) = none) :
    startCmd c s = finish c.acc 0x13 0 1 0 [] (s.started c) := by
  rw [startCmd_admin (by rw [hop]; rfl)]
  unfold startAdmin
  rw [show c.started.op = 0x42 from hop]
  exact abort_gone (c := c.started) hgone

/-- TAKE_INFO answers with its take, if nothing stops it for want of space (R178). -/
theorem startCmd_takeInfo {v : VolPolicy} {t : Take} (hop : c.op = 0x15) (hvol : (s.started c).volOf c = some v)
    (hspace : (s.started c).spaceStop c v = none) (htake : s.take c.volId c.take = some t) :
    startCmd c s = finish c.acc 0 0 0 (takeInfo t).1 (takeInfo t).2 (s.started c) := by
  unfold startCmd
  extract_lets s1 c1
  have hadmin : [0x40, 0x41, 0x42, 0x43].contains c1.op = false := by rw [show c1.op = 0x15 from hop]; rfl
  rw [hadmin, show s1.volOf c1 = some v from hvol]
  simp only [Bool.false_eq_true, if_false, show s1.spaceStop c1 v = none from hspace, show c1.op = 0x15 from hop,
    show s1.take c1.volId c1.take = some t from htake]
  rfl

end

/-- The part register is the part's (R544). -/
theorem chipId_part (s : State) : s.chipId = s.part.chipId := by
  unfold State.chipId Part.chipId b2n
  cases s.part.profile2 <;> rfl

/-- The first bytes of TAKE_INFO's EXTRA are the count of stored frames (R178). -/
theorem takeInfo_frames (t : Take) : fieldLe (takeInfo t).2 0 8 = t.frames.length % 2 ^ 64 := by
  unfold takeInfo
  simp only [List.append_assoc]
  exact fieldLe_leBytes_append 8 _ _

/-- The next one is the take's state (R178). -/
theorem takeInfo_state (t : Take) : fieldLe (takeInfo t).2 8 1 = takeCode t.state := by
  have hcode : takeCode t.state % 256 ^ 1 = takeCode t.state := by cases t.state <;> rfl
  unfold takeInfo
  simp only [List.append_assoc]
  rw [fieldLe_append_right (by simp), leBytes_length, Nat.sub_self, fieldLe_leBytes_append, hcode]

/-- Settles O33, command by command. -/
theorem informationResults : Obligations.InformationResults := by
  intro c s s1
  refine ⟨fun hop => ⟨_, startCmd_identify hop, ?identify⟩, fun v hop hvol => ⟨_, startCmd_volumeInfo hop hvol, rfl⟩,
    fun v t hop hvol hspace htake => ⟨_, _, startCmd_takeInfo hop hvol hspace htake, rfl, ?frames, ?state⟩,
    fun hop hgone => startCmd_abort_gone hop hgone⟩
  case identify =>
    have hpair : pairCode s.prt.pair = (match s.prt.pair with
        | .joining => 0
        | .paired => 1
        | .lone => 2
        | .fenced => pairCode .fenced) := by cases s.prt.pair <;> rfl
    show leBytes 4 s.chipId ++ leBytes 1 s.head ++ leBytes 1 (pairCode s.prt.pair) ++ _ ++ _ = _
    rw [chipId_part, hpair]
    rfl
  case frames => exact takeInfo_frames t
  case state => exact takeInfo_state t

/-! ## Windows and orphans -/

/-- The next window of a started command is named (R179, R340). -/
theorem transferReadySend_moving {qpn cid : Nat} {c : Cmd} {s : State}
    (hfound : (s.cmd.cmds.find? fun c => c.qpn == qpn && c.cid == cid && c.takesData && !c.orphan) = some c) (hphase : c.phase = .moving) :
    transferReadySend qpn cid s = nameWindow c.acc s := by
  unfold transferReadySend
  rw [hfound]
  exact if_pos hphase

section

variable {i : Nat} {w : Window} {c : Cmd} {s : State} (hwin : tabGet i s.cmd.wins = some w) (hcmd : s.cmdAt w.acc = some c)
include hwin hcmd

/-- A window that is not completed in time ends a command that takes data with TIMEOUT and the window's number (R192, R193). -/
theorem windowTimeout_ends (hvalid : w.valid = true) (hheld : c.held = none) (hdata : c.takesData = true) (hopen : w.complete = false)
    (hhold : s.pwr.hold = false) (hround : s.roundHolds c.vol = false) (hfail : c.fail = none) :
    windowTimeout i s = finish c.acc 0x11 c.rxBytes (w.seq % 2 ^ 16) 0 [] (dropWindows c.acc s) := by
  unfold windowTimeout
  simp [hwin, hcmd, hvalid, hheld, hdata, hopen, hhold, hround, hfail]

/-- The time of a complete window is over, and that of any window does not run in a hold or a claim round (R193). -/
theorem windowTimeout_stands (h : w.complete = true ∨ s.pwr.hold = true ∨ s.roundHolds c.vol = true) : windowTimeout i s = s := by
  have hstands : w.complete = true ∨ ¬ w.valid = true ∨ c.held.isSome = true ∨ s.pwr.hold = true ∨ s.roundHolds c.vol = true :=
    h.imp_right fun h => .inr (.inr h)
  unfold windowTimeout
  simp only [hwin, hcmd]
  exact if_pos hstands

end

/-- The oldest orphan record leaves when its time is over (R196). -/
theorem exec_orphanKeepExpiry {o : Orphan} {rest : List Orphan} {s : State} (h : s.cmd.orphans = o :: rest) :
    exec .orphanKeepExpiry s = .next { s with cmd := { s.cmd with orphans := rest } } := by
  have hrest : s.cmd.orphans.drop 1 = rest := congrArg (List.drop 1) h
  rw [← hrest]
  rfl

/-- Settles O34: windows named, windows timed out, and orphan records over. -/
theorem windowsAndOrphans : Obligations.WindowsAndOrphans := by
  intro s
  refine ⟨fun qpn cid c hfound hphase => ?named, fun i w c hwin hcmd hvalid hheld hdata =>
    ⟨fun hopen hhold hround hfail => ?ends, fun h => ?stands⟩, fun o rest horphans => ?orphan⟩
  case named => exact next_after (transferReadySend_moving hfound hphase)
  case ends => exact next_after (windowTimeout_ends hwin hcmd hvalid hheld hdata hopen hhold hround hfail)
  case stands => exact next_after (windowTimeout_stands hwin hcmd h)
  case orphan => exact exec_orphanKeepExpiry horphans

end Sys2Proof.Machine

/-! SUPPORT. The statement of chapter 06's family: how a block of a write leaves the data engines. -/

namespace Sys2Proof.Machine

/-! ## What the engines leave alone -/

/-- A failed check outside the compressor and the cipher (stages other than 0x04 and 0x05) leaves the engines' lanes and counts (R221, R263). -/
theorem engineFault_other {f lane : Nat} {s : State} (hmismatch : f ≠ 0x100) (hcmp : f ≠ 0x04) (hcip : f ≠ 0x05) : engineFault f lane s = s := by
  unfold engineFault
  rw [if_neg hmismatch, if_neg hcip, if_neg hcmp]

/-! ## A block of a write command -/

/-- While the data path answers, the block leaves the engines. -/
theorem exec_ingestBlockDone {qpn : BitVec 24} {cid : BitVec 16} {num lane : Nat} {fault : Option Nat} {s : State} (hdp : s.dpAnswers = true) :
    exec (.ingestBlockDone qpn cid num fault lane) s = .next (after (ingestBlock qpn.toNat cid.toNat num fault lane s)) :=
  congrArg Host.Outcome.next (if_pos hdp)

section

variable {qpn cid num lane f : Nat} {fault : Option Nat} {c : Cmd} {v : VolPolicy} {data : Bytes} {s : State}
  (hfound : (s.cmd.cmds.find? fun c => c.qpn == qpn && c.cid == cid && c.isWrite && c.held.isNone) = some c) (hvol : s.volOf c = some v)
include hfound hvol

/-- A block beyond the command's last, or one that has left the engines, is left alone (log entry 4). -/
theorem ingestBlock_past (hpast : c.blocks ≤ num ∨ c.blocksIn.contains num = true ∨ c.blocksBad.contains num = true) :
    ingestBlock qpn cid num fault lane s = s := by
  unfold ingestBlock
  simp only [hfound, hvol, if_pos hpast]

section

variable (hopen : ¬ (c.blocks ≤ num ∨ c.blocksIn.contains num = true ∨ c.blocksBad.contains num = true))
  (hdata : s.assemble c.acc (num * 4096) (c.blockLen num) = some data)
include hopen hdata

/-- A block whose bytes have all been accepted and that passes its checks enters the write buffer (R210, R218). -/
theorem ingestBlock_whole : ingestBlock qpn cid num none lane s = bufferBlock c v num (padTo 4096 data) s := by
  unfold ingestBlock
  simp only [hfound, hvol, if_neg hopen, hdata]

/-- One that a check has failed fails its command with the stage, after what the failure leaves in the engines (R221, R222). -/
theorem ingestBlock_failed (hstage : 1 ≤ f % 256 ∧ f % 256 ≤ 6) :
    ingestBlock qpn cid num (some f) lane s = dropFrags c.acc (stageFail c.acc (f % 256) num (engineFault f lane s)) := by
  unfold ingestBlock
  simp only [hfound, hvol, if_neg hopen, hdata, if_pos hstage]

end

end

/-- Settles O35: a block enters the write buffer or fails its command, and one already there or beyond the last changes nothing. -/
theorem ingestBlocks : Obligations.IngestBlocks := by
  intro qpn cid num lane c v data s hdp hfound hvol
  refine ⟨fun hlast hin hbad hdata => ?fresh, fun hpast f => ?past⟩
  case fresh =>
    have hopen : ¬ (c.blocks ≤ num ∨ c.blocksIn.contains num = true ∨ c.blocksBad.contains num = true) :=
      not_or.2 ⟨Nat.not_le.2 hlast, not_or.2 ⟨ne_true_of_eq_false hin, ne_true_of_eq_false hbad⟩⟩
    refine ⟨(exec_ingestBlockDone hdp).trans (next_after (ingestBlock_whole hfound hvol hopen hdata)), fun f hf => ?failed⟩
    have hcode : f % 256 = f := by omega
    have hstage : 1 ≤ f % 256 ∧ f % 256 ≤ 6 := by omega
    have hengines : engineFault f lane s = s := engineFault_other (by omega) (by omega) (by omega)
    have hfailed : ingestBlock qpn.toNat cid.toNat num (some f) lane s = dropFrags c.acc (stageFail c.acc f num s) := by
      rw [ingestBlock_failed hfound hvol hopen hdata hstage, hengines, hcode]
    exact (exec_ingestBlockDone hdp).trans (next_after hfailed)
  case past =>
    have hout : c.blocks ≤ num ∨ c.blocksIn.contains num = true ∨ c.blocksBad.contains num = true := hpast.imp_right Or.inl
    exact (exec_ingestBlockDone hdp).trans (next_after (ingestBlock_past hfound hvol hout))

end Sys2Proof.Machine

/-! SUPPORT. The statements of chapter 07's family: compression jobs, the fingerprint filter's rebuild, and the key bus. -/

namespace Sys2Proof.Machine

/-! ## Compression jobs: one block -/

section

variable {s : State} {size used : Nat} {input o : Bytes} {r : CmpRun}

/-- A block's output that fits in the space left is written, and the block is counted (R247). -/
theorem CmpRun.put_fits (hfit : r.out.length + o.length ≤ size) :
    r.put size used o = { r with blocks := r.blocks + 1, inBytes := r.inBytes + used, out := r.out ++ o } :=
  if_neg (Nat.not_lt.2 hfit)

/-- A block of a compress job that is there, and whose record fits, goes into the output (R246, R247). -/
theorem compressOne_fits (hrun : r.status = none) (hwhole : (slice input r.inBytes 4096).length = 4096)
    (hfit : r.out.length + (s.dataRecord (slice input r.inBytes 4096)).length ≤ size) :
    s.compressOne size input r = { r with
      blocks := r.blocks + 1, inBytes := r.inBytes + 4096, out := r.out ++ s.dataRecord (slice input r.inBytes 4096) } := by
  have hthere : ¬ (slice input r.inBytes 4096).length < 4096 := by omega
  unfold State.compressOne
  rw [if_neg (by simp [hrun]), if_neg hthere]
  exact CmpRun.put_fits hfit

end

/-- A step of a job: a block of a compress job, or a record of an expand job (R246). -/
def State.jobOne (s : State) (j : CmpJob) (input : Bytes) (r : CmpRun) : CmpRun :=
  if j.op = 1 then s.compressOne j.outSize input r else expandOne j.outSize input r

/-- A job that has stopped goes no further (R247, R248). -/
theorem jobOne_stopped {s : State} {j : CmpJob} {input : Bytes} {r : CmpRun} (hstop : r.status.isSome = true) : s.jobOne j input r = r := by
  unfold State.jobOne State.compressOne expandOne
  rw [if_pos hstop, if_pos hstop, ite_self]

/-- A job none of whose input is there stops with a DRAM error (log entry 66). -/
theorem jobOne_noInput {s : State} {j : CmpJob} {r : CmpRun} (hrun : r.status = none) : s.jobOne j [] r = { r with status := some 5 } := by
  have hgo : ¬ r.status.isSome = true := by simp [hrun]
  have hslice : (slice ([] : Bytes) r.inBytes 4096).length < 4096 := by simp [slice]
  have hrest : (([] : Bytes).drop r.inBytes).length < 16 := by simp
  unfold State.jobOne State.compressOne expandOne
  rw [if_neg hgo, if_neg hgo]
  exact (ite_congr rfl (fun _ => if_pos hslice) fun _ => if_pos hrest).trans (ite_self _)

/-! ## Compression jobs: a run -/

section

variable {s : State} {j : CmpJob}

/-- The steps of a job over its input. -/
def State.jobRun (s : State) (j : CmpJob) (input : Bytes) : CmpRun := (List.range j.blocks).foldl (fun r _ => s.jobOne j input r) {}

/-- The steps left after a stop change nothing. -/
theorem foldl_jobOne_stopped {input : Bytes} {r : CmpRun} {steps : List Nat} (hstop : r.status.isSome = true) :
    steps.foldl (fun r _ => s.jobOne j input r) r = r := by
  induction steps with
  | nil => rfl
  | cons k steps ih => rw [List.foldl_cons, jobOne_stopped hstop, ih]

/-- A job of at least one block, none of whose input is there, ends with status 5 and nothing done. -/
theorem jobRun_noInput {n : Nat} (hblocks : j.blocks = n + 1) : s.jobRun j [] = { status := some 5 } := by
  unfold State.jobRun
  rw [hblocks, List.range_succ_eq_map, List.foldl_cons, jobOne_noInput rfl, foldl_jobOne_stopped rfl]

/-- A compress job goes through whole blocks whose records fit: it writes their records in order (R246, R247). The input
it has gone through already is `before`. -/
theorem foldl_jobOne_whole {before : Bytes} {blocks : List Bytes} {r : CmpRun} {steps : List Nat} (hop : j.op = 1)
    (hsteps : steps.length = blocks.length) (hwhole : ∀ b ∈ blocks, b.length = 4096) (hrun : r.status = none) (hat : r.inBytes = before.length)
    (hfit : r.out.length + (blocks.flatMap s.dataRecord).length ≤ j.outSize) :
    steps.foldl (fun r _ => s.jobOne j (before ++ blocks.flatten) r) r = { r with
      blocks := r.blocks + blocks.length, inBytes := r.inBytes + 4096 * blocks.length, out := r.out ++ blocks.flatMap s.dataRecord } := by
  induction blocks generalizing before r steps with
  | nil =>
    rw [List.eq_nil_of_length_eq_zero hsteps]
    simp
  | cons b blocks ih =>
    obtain ⟨k, steps, rfl⟩ := List.exists_cons_of_length_eq_add_one hsteps
    rw [List.flatMap_cons, List.length_append] at hfit
    have hb : b.length = 4096 := hwhole b List.mem_cons_self
    have hnext : slice (before ++ (b :: blocks).flatten) r.inBytes 4096 = b := by
      rw [slice, hat, List.drop_left, List.flatten_cons, ← hb, List.take_left]
    have hone : s.jobOne j (before ++ (b :: blocks).flatten) r = { r with
        blocks := r.blocks + 1, inBytes := r.inBytes + 4096, out := r.out ++ s.dataRecord b } := by
      rw [State.jobOne, if_pos hop, compressOne_fits hrun (by rw [hnext, hb]) (by rw [hnext]; omega), hnext]
    have hrest := ih (before := before ++ b) (steps := steps) (Nat.succ.inj hsteps) (fun c hc => hwhole c (List.mem_cons_of_mem b hc))
      (r := { r with blocks := r.blocks + 1, inBytes := r.inBytes + 4096, out := r.out ++ s.dataRecord b }) hrun
      (by rw [List.length_append, hb, ← hat]) (by rw [List.length_append]; omega)
    rw [List.append_assoc, ← List.flatten_cons] at hrest
    rw [List.foldl_cons, hone, hrest]
    simp only [CmpRun.mk.injEq, List.length_cons, List.flatMap_cons, List.append_assoc, true_and, and_true]
    omega

/-- A compress job over all of its input, in whole blocks whose records fit in its output space. -/
theorem jobRun_whole {blocks : List Bytes} (hop : j.op = 1) (hblocks : j.blocks = blocks.length) (hwhole : ∀ b ∈ blocks, b.length = 4096)
    (hfit : (blocks.flatMap s.dataRecord).length ≤ j.outSize) :
    s.jobRun j blocks.flatten = { blocks := blocks.length, inBytes := 4096 * blocks.length, out := blocks.flatMap s.dataRecord } := by
  have hrun := foldl_jobOne_whole (before := []) (r := {}) (steps := List.range j.blocks) hop (by rw [List.length_range, hblocks]) hwhole rfl rfl
    (by simpa using hfit)
  unfold State.jobRun
  simpa using hrun

end

/-! ## Compression jobs: submission and end -/

/-- The completion record of a run of a job (R248). -/
def CmpRun.completion (r : CmpRun) (id : Nat) : CmpDone :=
  { jobId := id, status := r.status.getD 0, inBlocks := r.blocks, inBytes := r.inBytes, outBytes := r.out.length, out := r.out }

section

variable {s : State} {j : CmpJob} {input : Bytes}

/-- Counting the blocks compressed leaves the jobs and the completion records. -/
theorem foldl_cmpCount_jobs {α : Type} (f : α → Bytes) (l : List α) (s : State) :
    (l.foldl (fun s k => cmpCount (f k) s) s).cmp.jobs = s.cmp.jobs ∧ (l.foldl (fun s k => cmpCount (f k) s) s).cmp.done = s.cmp.done := by
  induction l generalizing s with
  | nil => exact ⟨rfl, rfl⟩
  | cons k l ih => exact ih (cmpCount (f k) s)

/-- The state after a job's end has counted the blocks it compressed (R277). -/
def State.jobCounted (s : State) (j : CmpJob) (input : Bytes) (blocks : Nat) : State :=
  if j.op = 1 then (List.range blocks).foldl (fun s k => cmpCount (slice input (k * 4096) 4096) s) s else s

/-- It leaves the jobs and the completion records. -/
theorem jobCounted_jobs {blocks : Nat} :
    (s.jobCounted j input blocks).cmp.jobs = s.cmp.jobs ∧ (s.jobCounted j input blocks).cmp.done = s.cmp.done := by
  unfold State.jobCounted
  split
  · exact foldl_cmpCount_jobs _ _ s
  · exact ⟨rfl, rfl⟩

/-- A job that ends leaves the queue, and the completion record of its run goes to its client (R248). -/
theorem cmpJobDone_found {id : Nat} (hfound : (s.cmp.jobs.find? fun j => j.jobId == id) = some j) :
    (cmpJobDone id input s).cmp.jobs = s.cmp.jobs.filter (· ≠ j)
      ∧ (cmpJobDone id input s).cmp.done = s.cmp.done ++ [(s.jobRun j input).completion id] := by
  obtain ⟨hjobs, hdone⟩ := jobCounted_jobs (s := s) (j := j) (input := input) (blocks := (s.jobRun j input).blocks)
  unfold cmpJobDone
  rw [hfound]
  exact ⟨congrArg (List.filter (· ≠ j)) hjobs, congrArg (· ++ [(s.jobRun j input).completion id]) hdone⟩

/-- So it is with the only job of the queue, whose end empties it. -/
theorem cmpJobDone_only (hjobs : s.cmp.jobs = [j]) :
    (cmpJobDone j.jobId input s).cmp.jobs = []
      ∧ (cmpJobDone j.jobId input s).cmp.done = s.cmp.done ++ [(s.jobRun j input).completion j.jobId] := by
  have hfound : (s.cmp.jobs.find? fun k => k.jobId == j.jobId) = some j := by simp [hjobs]
  obtain ⟨hleft, hdone⟩ := cmpJobDone_found (input := input) hfound
  exact ⟨by simp [hleft, hjobs], hdone⟩

/-- A job with a defined OP, a count of blocks in range and an output space in units of 16 bytes is queued (R246). -/
theorem exec_cmpJobSubmit (hdp : s.dpAnswers = true) (hop : j.op = 1 ∨ j.op = 2) (hlow : 1 ≤ j.blocks) (hhigh : j.blocks ≤ 65536)
    (hspace : j.outSize % 16 = 0) : exec (.cmpJobSubmit j) s = .next { s with cmp := { s.cmp with jobs := s.cmp.jobs ++ [j] } } :=
  next_eq (if_pos ⟨hdp, hop, hlow, hhigh, hspace⟩)

/-- A job of a reserved OP is no job (log entry 66). -/
theorem exec_cmpJobSubmit_reserved (hcompress : j.op ≠ 1) (hexpand : j.op ≠ 2) : exec (.cmpJobSubmit j) s = .next s :=
  next_eq (if_neg fun ⟨_, hop, _⟩ => hop.elim hcompress hexpand)

end

/-! ## The filter -/

/-- The end of a rebuild swaps the banks and clears the old one (R254, R272). -/
theorem exec_filterRebuildDone {s : State} (h : s.fpr.rebuilding = true) :
    exec .filterRebuildDone s = .next { s with fpr := { s.fpr with active := s.fpr.second, second := [], rebuilding := false, allPositive := false } } :=
  next_eq (if_pos h)

/-- With no rebuild running there is none to end (log entry 4). -/
theorem exec_filterRebuildDone_none {s : State} (h : s.fpr.rebuilding = false) : exec .filterRebuildDone s = .next s :=
  next_eq (if_neg (ne_true_of_eq_false h))

/-- Settles O36: a job by the run over its input, and the filter by whether a rebuild runs. -/
theorem jobsAndFilter : Obligations.JobsAndFilter := by
  intro job s
  refine ⟨exec_cmpJobSubmit, exec_cmpJobSubmit_reserved, fun a b hjobs hop hblocks ha hb hfit => ?whole, fun hjobs n hblocks => ?noInput,
    fun r val hreach => next_eq (accessWrite_at hreach), exec_filterRebuildDone, exec_filterRebuildDone_none⟩
  case whole =>
    have hrun : s.jobRun job (a ++ b) = { blocks := 2, inBytes := 8192, out := s.dataRecord a ++ s.dataRecord b } := by
      simpa using jobRun_whole (s := s) (blocks := [a, b]) hop hblocks (by simp [ha, hb]) (by simpa using hfit)
    obtain ⟨hempty, hdone⟩ := cmpJobDone_only (input := a ++ b) hjobs
    refine ⟨_, rfl, hempty, hdone.trans ?_⟩
    rw [hrun, CmpRun.completion, List.length_append]
    rfl
  case noInput =>
    obtain ⟨hempty, hdone⟩ := cmpJobDone_only (input := []) hjobs
    rw [jobRun_noInput hblocks] at hdone
    exact ⟨_, _, rfl, hempty, hdone, rfl, rfl, rfl⟩

/-! ## The key bus: what a load carries -/

section

variable {s : State} {slot kind op : Nat} {wrapped : Bool}

/-- A load into a slot that is not EMPTY is refused first of all, with reason 1 (R261; the order is log entry 66). -/
theorem loadKey_occupied {k : KeySlot} (hslot : tabGet slot s.cip.slots = some k) (hstate : k.state ≠ .empty) :
    s.loadKey slot kind op wrapped = .error 1 := by
  unfold State.loadKey
  simp only [hslot, Option.map_some, Option.getD_some]
  exact if_pos hstate

section

variable (hslot : tabGet slot s.cip.slots = none)
include hslot

/-- A load of no kind is refused with reason 2 (R261). -/
theorem loadKey_noKind (hkind : kind = 0) : s.loadKey slot kind op wrapped = .error 2 := by
  unfold State.loadKey
  simp [hslot, hkind]

/-- A clear key, other than a KEK, is refused with reason 4 where KEY_CLEAR_ALLOW is 0 (R261). -/
theorem loadKey_clearBarred (hkind : kind = 1 ∨ kind = 2) (hbarred : s.param P.keyClearAllow = 0) :
    s.loadKey slot kind 1 false = .error 4 := by
  have hsome : kind ≠ 0 := by omega
  have hkek : kind ≠ 3 := by omega
  unfold State.loadKey
  simp [hslot, hsome, hkek, hbarred]

/-- A clear GCM key is the first 32 bytes of the data registers, where KEY_CLEAR_ALLOW lets it in (R259, R261). -/
theorem loadKey_clearGcm (hallowed : s.param P.keyClearAllow ≠ 0) : s.loadKey slot 2 1 false = .ok (s.kbusBytes 32) := by
  unfold State.loadKey
  simp [hslot, hallowed, keyLen]

end

end

/-! ## The key bus: the command register -/

/-- A write of CIP_KBUS_CMD by JTAG, without its KEY or while the bus is busy is an access error (R259, R261). -/
theorem kbusCmd_accessError {r : Requester} {v : Nat} {s : State} (h : r = .jtag ∨ bitsAt v 16 16 ≠ 0x9640 ∨ s.cip.kbusStat = 1) :
    kbusCmd r v s = accessError r 0x70008 true s := if_pos h

section

variable {r : Requester} {v slot : Nat} {s : State} (haccept : ¬ (r = .jtag ∨ bitsAt v 16 16 ≠ 0x9640 ∨ s.cip.kbusStat = 1))
  (hslot : bitsAt v 0 10 = slot)
include haccept hslot

/-- An accepted load whose key is refused reports the reason (R261). -/
theorem kbusCmd_refused {reason : Nat} (hop : bitsAt v 13 2 ≠ 2)
    (hload : s.loadKey slot (bitsAt v 10 2) (bitsAt v 13 2) (bitAt v 12) = .error reason) : kbusCmd r v s = kbusRefuse slot reason s := by
  subst hslot
  unfold kbusCmd
  simp only [if_neg haccept, if_neg hop, hload]

/-- An accepted load with its key leaves the slot loading, and the bus busy with it (R258, R259). -/
theorem kbusCmd_loads {key : Bytes} (hop : bitsAt v 13 2 ≠ 2)
    (hload : s.loadKey slot (bitsAt v 10 2) (bitsAt v 13 2) (bitAt v 12) = .ok key) :
    kbusCmd r v s = { s with cip := { s.cip with
      kbusStat := 1, kbusReason := 0, kbusSlot := BitVec.ofNat 10 slot
      slots := tabPut slot { state := .loading, kind := bitsAt v 10 2, wrapped := bitAt v 12 } s.cip.slots
      kbusOp := some { slot := slot, kind := bitsAt v 10 2, wrapped := bitAt v 12, key := key } } } := by
  subst hslot
  unfold kbusCmd
  simp only [if_neg haccept, if_neg hop, hload]
  rfl

/-- An accepted erase of a slot with nothing in it is done at once (log entry 66). -/
theorem kbusCmd_erase_none (hop : bitsAt v 13 2 = 2) (hnone : tabGet slot s.cip.slots = none) : kbusCmd r v s = kbusEnd 2 0 slot s := by
  subst hslot
  unfold kbusCmd
  simp only [if_neg haccept, if_pos hop, hnone]

/-- An accepted erase of a slot takes its key from those who use it, and the bus is busy with it (R258, R269). -/
theorem kbusCmd_erase {k : KeySlot} (hop : bitsAt v 13 2 = 2) (hsome : tabGet slot s.cip.slots = some k) :
    kbusCmd r v s = slotGone slot { s with cip := { s.cip with
      kbusStat := 1, kbusReason := 0, kbusSlot := BitVec.ofNat 10 slot
      slots := tabUpd slot (fun k => { k with state := .erasing }) s.cip.slots } } := by
  subst hslot
  unfold kbusCmd
  simp only [if_neg haccept, if_pos hop, hsome]
  rfl

end

/-! ## The key bus: ends of its operations -/

/-- A load that passes its self-test leaves the slot READY, and the measurement is extended by the key's check value (R258, R558). -/
theorem keyLoadDone_pass {s : State} {o : KbusOp} (hload : s.cip.kbusOp = some o) :
    keyLoadDone true s = msrExtend 4 (leBytes 2 o.slot ++ leBytes 1 o.kind ++ leBytes 1 (b2n o.wrapped) ++ kcvOf o.key)
      (note 0x0701 o.slot (kbusEnd 2 0 o.slot { s with cip := { s.cip with
        slots := tabPut o.slot { state := .ready, kind := o.kind, wrapped := o.wrapped, key := o.key, kcv := kcvOf o.key } s.cip.slots } })) := by
  unfold keyLoadDone
  rw [hload]
  rfl

/-- One that fails it leaves the slot FAILED, and is refused with reason 6 (R258, R261). -/
theorem keyLoadDone_fail {s : State} {o : KbusOp} (hload : s.cip.kbusOp = some o) :
    keyLoadDone false s = kbusRefuse o.slot 6 (note 0x0704 o.slot { s with cip := { s.cip with
      slots := tabPut o.slot { state := .failed, kind := o.kind, wrapped := o.wrapped } s.cip.slots } }) := by
  unfold keyLoadDone
  rw [hload]
  rfl

/-- An erase that ends leaves its slot EMPTY (R258). -/
theorem exec_keyEraseDone {s : State} {n : Nat} {k : KeySlot} (hslot : tabGet n s.cip.slots = some k) (herasing : k.state = .erasing) :
    exec (.keyEraseDone n) s = .next (note 0x0702 n (kbusEnd 2 0 n { s with cip := { s.cip with slots := tabDel n s.cip.slots } })) :=
  next_eq (if_pos (by rw [hslot, Option.map_some, herasing]))

/-- A field at the low end of a word. -/
theorem bitsAt_low (n w : Nat) : bitsAt n 0 w = n % 2 ^ w := by rw [bitsAt, Nat.pow_zero, Nat.div_one]

/-- A bit that is 0. -/
theorem bitAt_clear {n i : Nat} (h : n / 2 ^ i % 2 = 0) : bitAt n i = false := by rw [bitAt, h]; rfl

/-- Settles O37: the command register by its fields and the slot, then the ends of a load and of an erase. -/
theorem keyBus : Obligations.KeyBus := by
  intro r val s hreach slot kind refused
  have hslot : bitsAt val.toNat 0 10 = slot := bitsAt_low _ _
  have hwrite {t : State} (h : kbusCmd r val.toNat s = t) : accessWrite r 0x70008 (kbusCmd r val.toNat) s = t := (accessWrite_at hreach).trans h
  refine ⟨fun h => ?badKey, fun hcore hkey hidle => ?accepted, fun o hload => ?ends, fun n k hn herasing => exec_keyEraseDone hn herasing⟩
  case badKey =>
    rw [← bitsAt_key] at h
    exact next_eq (hwrite (kbusCmd_accessError h))
  case accepted =>
    have haccept : ¬ (r = .jtag ∨ bitsAt val.toNat 16 16 ≠ 0x9640 ∨ s.cip.kbusStat = 1) :=
      not_or.2 ⟨hcore, not_or.2 ⟨not_not_intro ((bitsAt_key val).trans hkey), hidle⟩⟩
    refine ⟨fun hop => ?load, fun hop hnone => ?eraseNone, fun hop k hsome => ?erase⟩
    case load =>
      have hop1 : bitsAt val.toNat 13 2 = 1 := hop
      have hop2 : bitsAt val.toNat 13 2 ≠ 2 := by omega
      have hrefused {why : Nat} (h : s.loadKey slot kind 1 (bitAt val.toNat 12) = .error why) : refused why :=
        next_eq (hwrite (kbusCmd_refused haccept hslot hop2 (by rw [hop1]; exact h)))
      refine ⟨fun k hsome hstate => hrefused (loadKey_occupied hsome hstate), fun hnone hkind => hrefused (loadKey_noKind hnone hkind),
        fun hnone hkind hclear hbarred => ?barred, fun hnone hkind hclear hallowed => ?carried⟩
      case barred =>
        apply hrefused
        rw [bitAt_clear hclear]
        exact loadKey_clearBarred hnone hkind hbarred
      case carried =>
        have hkind2 : bitsAt val.toNat 10 2 = 2 := hkind
        have hclear' : bitAt val.toNat 12 = false := bitAt_clear hclear
        have hload : s.loadKey slot (bitsAt val.toNat 10 2) (bitsAt val.toNat 13 2) (bitAt val.toNat 12) = .ok (s.kbusBytes 32) := by
          rw [hkind2, hop1, hclear']
          exact loadKey_clearGcm hnone hallowed
        have hcarried := kbusCmd_loads haccept hslot hop2 hload
        rw [hkind2, hclear'] at hcarried
        exact next_eq (hwrite hcarried)
    case eraseNone => exact next_after (hwrite (kbusCmd_erase_none haccept hslot hop hnone))
    case erase => exact next_after (hwrite (kbusCmd_erase haccept hslot hop hsome))
  case ends => exact ⟨next_after (keyLoadDone_pass hload), next_after (keyLoadDone_fail hload)⟩

end Sys2Proof.Machine

/-! SUPPORT. The statement of chapter 09's family: what the operations of the flash translation do to the map words. -/

namespace Sys2Proof.Machine

/-! ## What goes to the Cloak leaves the flash translation -/

section

variable (s : State)

/-- A partner-link frame leaves the flash translation, whether a session carries it or not. -/
@[simp] theorem ftl_plFrame (body : Bytes) : (plFrame body s).ftl = s.ftl := by
  unfold plFrame
  split
  · rfl
  · rfl

@[simp] theorem ftl_plSend (c : PlClass) (m : Nat) (body : Bytes) (tag : PlTag) : (plSend c m body tag s).ftl = s.ftl :=
  ftl_plFrame _ _

variable {s}

/-- What is mirrored leaves the flash translation where the messages do. -/
theorem ftl_mirrorMap {f : State → State} (hsend : (f s).ftl = s.ftl) : (mirrorMap f s).ftl = s.ftl := by
  unfold mirrorMap
  split
  · exact hsend
  · rfl

end

/-! ## What leaves the map words -/

section

variable (s : State)

@[simp] theorem map_onLog (h : Nat) (f : MapLog → MapLog) : (onLog h f s).ftl.map = s.ftl.map := by
  unfold onLog
  dsimp only [onFtl_ftl]
  split
  · rfl
  · rfl

/-- Entering a change in the log changes no map word: the log takes the item, and the messages go to the Cloak (R334, R439). -/
@[simp] theorem map_logItem (h : Nat) (i : LogItem) : (logItem h i s).2.ftl.map = s.ftl.map := by
  unfold logItem
  refine (congrArg Ftl.map (ftl_mirrorMap ?_)).trans (map_onLog s h _)
  exact List.foldlRecOn (motive := fun u : State => u.ftl = _) _ _ rfl fun u hu _ _ => (ftl_plSend u _ _ _ _).trans hu

@[simp] theorem map_addValid (w : Nat) (gain : Bool) : (addValid w gain s).ftl.map = s.ftl.map := by
  unfold addValid
  split
  · rfl
  · rfl

@[simp] theorem map_fprClear (loc : Nat) : (fprClear loc s).ftl.map = s.ftl.map := rfl

/-- Taking a reference from a shared entry, the last one or not, changes no map word (R331). -/
@[simp] theorem map_shareDrop (h i : Nat) : (shareDrop h i s).ftl.map = s.ftl.map := by
  unfold shareDrop
  split
  · rfl
  · split
    · rw [map_logItem, map_addValid, map_fprClear]; rfl
    · rw [map_logItem]; rfl

/-- Letting go of what a word names changes no map word (R331, R341). -/
@[simp] theorem map_dropWord (h w : Nat) : (dropWord h w s).ftl.map = s.ftl.map := by
  unfold dropWord
  split
  · rw [map_addValid, map_fprClear]
  · split
    · exact map_shareDrop s h _
    · rfl

end

/-! ## A word that is put -/

section

variable {vol lba acc w : Nat} {s : State}

theorem map_putWord :
    (putWord vol lba w s).ftl.map = if w = 0 then tabDel (vol, lba) s.ftl.map else tabPut (vol, lba) w s.ftl.map := rfl

/-- The map words are a function of the map. -/
theorem mapWord_congr {t : State} (h : t.ftl.map = s.ftl.map) (v l : Nat) : t.mapWord v l = s.mapWord v l := by
  unfold State.mapWord
  rw [h]

/-- The block reads as the word put; the word 0 stands for a block that is not listed (R330). -/
theorem mapWord_putWord_same : (putWord vol lba w s).mapWord vol lba = w := by
  unfold State.mapWord tabGetD
  rw [map_putWord]
  split
  case isTrue hzero => rw [tabGet_del_same, hzero]; rfl
  case isFalse => rw [tabGet_put_same]; rfl

theorem mapWord_putWord_other {v l : Nat} (hother : (v, l) ≠ (vol, lba)) : (putWord vol lba w s).mapWord v l = s.mapWord v l := by
  unfold State.mapWord tabGetD
  rw [map_putWord]
  split
  · rw [tabGet_del_other hother]
  · rw [tabGet_put_other hother]

/-- Where no snapshot needs the page, nothing is preserved (R464). -/
theorem preserve_unneeded (hview : s.needsView vol (lba / pageWords) acc = none) : preserve vol lba acc s = s := by
  unfold preserve
  rw [hview]

/-- A change of a map word does to the map what putting the word does once the page is preserved: letting go of the old word, the valid
sectors and the log entry leave the map. -/
theorem map_setWord : (setWord vol lba acc w s).2.ftl.map = (putWord vol lba w (preserve vol lba acc s)).ftl.map := by
  unfold setWord
  have hgain {p : Prop} [Decidable p] (t : State) : (if p then addValid w true t else t).ftl.map = t.ftl.map := by
    split
    · exact map_addValid t w true
    · rfl
  have hdrop {p : Prop} [Decidable p] (h old : Nat) (t : State) : (if p then t else dropWord h old t).ftl.map = t.ftl.map := by
    split
    · rfl
    · exact map_dropWord t h old
  rw [map_logItem, hgain, map_putWord, hdrop, map_putWord]

end

/-! ## The statement -/

/-- Settles O60: the map becomes what `putWord` makes of it (`map_setWord`), the page preserved first or, where no view needs it, left. Whatever the tables hold:
the write and the removal both settle what the key reads as, so the canonical form is not used. -/
theorem mapWordReadsBack : Obligations.MapWordReadsBack := by
  intro vol lba acc w s _
  refine ⟨?same, fun hview v l hother => ?other⟩
  case same => exact (mapWord_congr map_setWord vol lba).trans mapWord_putWord_same
  case other =>
    calc (setWord vol lba acc w s).2.mapWord v l
      _ = (putWord vol lba w (preserve vol lba acc s)).mapWord v l := mapWord_congr map_setWord v l
      _ = (preserve vol lba acc s).mapWord v l := mapWord_putWord_other hother
      _ = s.mapWord v l := by rw [preserve_unneeded hview]

end Sys2Proof.Machine

/-! SUPPORT. The statements of chapter 11's family: a sled port's presence, link and retrains, its flits, control words and rest, and what
the sled bridges answer. -/

namespace Sys2Proof.Machine

/-! ## A sled port -/

section

variable {p : Nat} {s : State}

@[simp] theorem port_onPort (f : SledPort → SledPort) : (onPort p f s).port p = f (s.port p) := by
  unfold onPort State.port tabUpdD
  rw [onSld_sld, tabGetD, tabGet_put_same]
  rfl

/-- A port in L0 is not outside the states in which flits pass. -/
theorem l0_passes {q : SledPort} (h : q.state = .l0) : ¬ (q.state ≠ .l0 ∧ q.state ≠ .resync) := fun hout => hout.1 h

theorem live_of_l0 {q : SledPort} (h : q.state = .l0) : q.live = true := by rw [SledPort.live, h]

/-- A row of one of the 32 ports acts on the port it names. -/
theorem next_atPort (hp : p < 32) (f : Nat → State → State) {t : State} (h : f p s = t) :
    (.next (afterP (f (p % 32) s)) : Host.Outcome State Fault Refusal) = .next (afterP t) := by rw [Nat.mod_eq_of_lt hp, h]

/-! ## Presence -/

/-- A port whose debounced presence follows the pin. -/
def SledPort.settled (q : SledPort) : SledPort := { q with bouncing := false, present := q.raw }

theorem exec_prsntChange (hp : p < 32) (low : Bool) :
    exec (.prsntChange p low) s = .next (onPort p (fun q => { q with raw := low, bouncing := true }) s) := by
  show execPrsntChange p low s = _
  rw [execPrsntChange, Nat.mod_eq_of_lt hp]

/-- A port that is enabled, down, powered and has its sled trains (R401, R418). -/
theorem portStart_trains (hpresent : (s.port p).present = true) (hdown : (s.port p).state = .down) (hon : s.portOn p = true)
    (hpowered : s.sledsOn = true) : portStart p s = (onPort p (fun q => { q with state := .training }) s).send (.oslCtl p 4 0) :=
  if_pos ⟨hpresent, hon, hpowered, hdown⟩

theorem presenceStable_idle (h : (s.port p).bouncing = false) : presenceStable p s = s := if_pos (Bool.eq_false_iff.1 h)

/-- The end of the debounce (R418). -/
theorem presenceStable_bouncing (h : (s.port p).bouncing = true) :
    presenceStable p s = if (s.port p).raw then portStart p (onPort p .settled s)
      else if (s.port p).present then portDown p 0 (onPort p .settled s) else onPort p .settled s := if_neg (not_not_intro h)

theorem presenceStable_trains (h : (s.port p).bouncing = true) (hraw : (s.port p).raw = true) (hdown : (s.port p).state = .down)
    (hon : s.portOn p = true) (hpowered : s.sledsOn = true) :
    presenceStable p s = (onPort p (fun q => { q with state := .training }) (onPort p .settled s)).send (.oslCtl p 4 0) := by
  rw [presenceStable_bouncing h, if_pos hraw]
  refine portStart_trains ?_ ?_ hon hpowered
  · rw [port_onPort]; exact hraw
  · rw [port_onPort]; exact hdown

theorem presenceStable_gone (h : (s.port p).bouncing = true) (hraw : (s.port p).raw = false) (hpresent : (s.port p).present = true) :
    presenceStable p s = portDown p 0 (onPort p .settled s) := by
  rw [presenceStable_bouncing h, if_neg (Bool.eq_false_iff.1 hraw), if_pos hpresent]

theorem presenceStable_absent (h : (s.port p).bouncing = true) (hraw : (s.port p).raw = false) (hpresent : (s.port p).present = false) :
    presenceStable p s = onPort p .settled s := by
  rw [presenceStable_bouncing h, if_neg (Bool.eq_false_iff.1 hraw), if_neg (Bool.eq_false_iff.1 hpresent)]

/-! ## L0 -/

/-- A port as it reaches L0, on two lanes or one. -/
def portUp (p : Nat) (x1 : Bool) (s : State) : State :=
  onPort p (fun q => { q with state := .l0, x1 := x1, known := false, infoLeft := [], retrains := [] }) s

/-- The head's credits for channels 0 and 3, and IDENTIFY (R408, R419). -/
def portOffers (p : Nat) (s : State) : State :=
  oslIdentify p .identify (sendControl p 0x02 (3 * 2 ^ 8 + 8192 * 2 ^ 16) (sendControl p 0x02 (16 * 2 ^ 16) s))

/-- A port may come up: it is not up yet, is enabled and powered, and has its sled. -/
def State.mayComeUp (s : State) (p : Nat) : Prop :=
  (s.port p).live = false ∧ (s.port p).present = true ∧ s.portOn p = true ∧ s.sledsOn = true

theorem linkUp_again (h : (s.port p).live = true) (lost : Option Nat) : linkUp p lost s = s := if_pos (.inl h)

/-- A port that may come up does, on one lane only where SLD_X1_ALLOW lets it (R402). -/
theorem linkUp_mayComeUp (h : s.mayComeUp p) (lost : Option Nat) :
    linkUp p lost s = if lost.isSome ∧ ¬ s.flag P.sldX1Allow then onPort p (fun q => { q with state := .down }) s
      else portOffers p (match lost with
        | some l => note 0x0C04 (p + (l % 2) * 2 ^ 5) (portUp p lost.isSome s)
        | none => portUp p lost.isSome s) := by
  obtain ⟨hnew, hpresent, hon, hpowered⟩ := h
  refine (if_neg ?_).trans rfl
  simp [hnew, hpresent, hon, hpowered]

theorem linkUp_twoLanes (h : s.mayComeUp p) : linkUp p none s = portOffers p (portUp p false s) :=
  (linkUp_mayComeUp h none).trans (if_neg (by simp))

theorem linkUp_oneLane (h : s.mayComeUp p) (hallow : s.flag P.sldX1Allow = true) (lane : Nat) :
    linkUp p (some lane) s = portOffers p (note 0x0C04 (p + lane % 2 * 2 ^ 5) (portUp p true s)) :=
  (linkUp_mayComeUp h (some lane)).trans (if_neg (by simp [hallow]))

theorem linkUp_oneLane_barred (h : s.mayComeUp p) (hbar : s.flag P.sldX1Allow = false) (lane : Nat) :
    linkUp p (some lane) s = onPort p (fun q => { q with state := .down }) s :=
  (linkUp_mayComeUp h (some lane)).trans (if_pos ⟨rfl, Bool.eq_false_iff.1 hbar⟩)

/-! ## Retrains and timeouts -/

theorem retrained_elsewhere (h : (s.port p).state ≠ .recovery) : retrained p s = s := if_pos h

/-- A retrain with no flit to replay, no timeout behind it and no die that resynchronises ends in L0 (R406). -/
theorem retrained_clean (hstate : (s.port p).state = .recovery) (hreplay : (s.port p).replay = []) (htimeout : (s.port p).forTimeout = false)
    (hsync : s.par.resyncs = []) : retrained p s = pumpSled p (onPort p (fun q => { q with state := .l0, forTimeout := false }) s) := by
  unfold retrained
  rw [if_neg (not_not_intro hstate), hreplay, htimeout, hsync]
  rfl

theorem exec_retrainTimeout (hp : p < 32) : exec (.retrainTimeout p) s
    = .next (afterP (if (s.port p).state = .recovery then portDown p (if (s.port p).forTimeout then 2 else 1) s else s)) := by
  show execRetrainTimeout p s = _
  rw [execRetrainTimeout, Nat.mod_eq_of_lt hp]

theorem cmdTimeout_ended {tag : Nat} (h : tabHas tag (s.port p).tx = false) : cmdTimeout p tag s = s :=
  if_pos (.inr (Bool.eq_false_iff.1 h))

/-- A transaction past its timeout counts, is overdue, and has its port retrain (R418). -/
theorem cmdTimeout_l0 {tag : Nat} (hl0 : (s.port p).state = .l0) (htag : tabHas tag (s.port p).tx = true) :
    cmdTimeout p tag s = retrain p true
      ((onPort p (fun q => { q with tx := tabUpd tag (fun (t : OslTx) => { t with overdue := true }) q.tx }) s).onSld fun l =>
        { l with timeouts := satInc l.timeouts }) := by
  have hopen : ¬ (¬ (s.port p).live = true ∨ ¬ tabHas tag (s.port p).tx = true) := by simp [live_of_l0 hl0, htag]
  have hrecovery : (s.port p).state ≠ .recovery := by rw [hl0]; exact LState.noConfusion
  exact (if_neg hopen).trans (if_neg hrecovery)

end

/-- Settles O41: presence, L0, the ends of a retrain, and timeouts. -/
theorem sledPresenceAndLinks : Obligations.SledPresenceAndLinks := by
  intro p s hp
  refine ⟨exec_prsntChange hp, fun hbounce => ⟨?trains, ?gone, ?absent⟩, ?idle, fun hnew hpresent hon hpowered => ?up, ?again,
    fun hrec => ⟨?failed, ?done⟩, fun helse => ⟨?failedElsewhere, ?doneElsewhere⟩, fun tag => ⟨?ended, ?overdue⟩⟩
  case trains =>
    intro hraw hdown hon hpowered
    exact next_atPort hp presenceStable (presenceStable_trains hbounce hraw hdown hon hpowered)
  case gone => intro hraw hpresent; exact next_atPort hp presenceStable (presenceStable_gone hbounce hraw hpresent)
  case absent => intro hraw hpresent; exact next_atPort hp presenceStable (presenceStable_absent hbounce hraw hpresent)
  case idle => intro h; exact next_atPort hp presenceStable (presenceStable_idle h)
  case up =>
    have hmay : s.mayComeUp p := ⟨hnew, hpresent, hon, hpowered⟩
    refine ⟨next_atPort hp (linkUp · none) (linkUp_twoLanes hmay), fun lane hallow => ?_, fun lane hbar => ?_⟩
    · exact next_atPort hp (linkUp · (some lane)) (linkUp_oneLane hmay hallow lane)
    · exact next_atPort hp (linkUp · (some lane)) (linkUp_oneLane_barred hmay hbar lane)
  case again => intro h lost; exact next_atPort hp (linkUp · lost) (linkUp_again h lost)
  case failed => exact (exec_retrainTimeout hp).trans (next_afterP (if_pos hrec))
  case done => intro hreplay htimeout hsync; exact next_atPort hp retrained (retrained_clean hrec hreplay htimeout hsync)
  case failedElsewhere => exact (exec_retrainTimeout hp).trans (next_afterP (if_neg helse))
  case doneElsewhere => exact next_atPort hp retrained (retrained_elsewhere helse)
  case ended => intro h; exact next_atPort hp (cmdTimeout · tag) (cmdTimeout_ended h)
  case overdue => intro hl0 htag; exact next_atPort hp (cmdTimeout · tag) (cmdTimeout_l0 hl0 htag)

section

variable {p : Nat} {raw : Bytes} {s : State}

/-! ## Flits -/

/-- The flit expected next is accepted (R405). -/
theorem flitIn_next (hl0 : (s.port p).state = .l0) (hgood : flitGood raw = true) (hbusy : fieldLe raw 0 1 % 16 ≠ 0)
    (hnext : BitVec.ofNat 12 (fieldLe raw 2 2) = (s.port p).acked.getD (BitVec.allOnes 12) + 1) :
    flitIn p raw s = flitTakes p raw (onPort p (fun q => { q with acked := some (BitVec.ofNat 12 (fieldLe raw 2 2)), naked := false }) s) := by
  unfold flitIn
  rw [if_neg (l0_passes hl0), if_neg (not_not_intro hgood), if_neg hbusy]
  exact if_pos hnext

/-- A bad flit that is not idle asks for a NAK (R405). -/
theorem flitIn_bad (hl0 : (s.port p).state = .l0) (hbad : flitGood raw = false) (hbusy : fieldLe raw 0 1 % 16 ≠ 0) :
    flitIn p raw s = flitNak p s := by
  unfold flitIn
  rw [if_neg (l0_passes hl0), if_pos (Bool.eq_false_iff.1 hbad), if_neg hbusy]

/-- The first NAK of a gap names the last flit accepted (R405, R407). -/
theorem flitNak_first (h : (s.port p).naked = false) :
    flitNak p s = sendControl p 0x01 (((s.port p).acked.getD (BitVec.allOnes 12)).toNat * 2 ^ 16) (onPort p (fun q => { q with naked := true }) s) :=
  if_neg (Bool.eq_false_iff.1 h)

/-- A gap has one NAK (log entry 76). -/
theorem flitNak_again (h : (s.port p).naked = true) : flitNak p s = s := if_pos h

/-! ## Control words -/

/-- The flits up to a NAK's ACKSEQ leave the replay buffer, and the state of the first that stays decides (R405, R406). -/
theorem nakIn_l0 (hl0 : (s.port p).state = .l0) (hcode : fieldLe raw 0 1 = 0x01) {t : State}
    (hacked : ackFlits p (BitVec.ofNat 12 (bitsAt (leNat (raw.take 8)) 16 12)) s = t) :
    nakIn p raw s = match (t.port p).replay with
      | [] => t
      | e :: _ => if s.param P.sldReplayLimit ≤ e.2.2 then retrain p false t else replayFlits p t := by
  subst hacked
  exact if_neg (not_or.2 ⟨l0_passes hl0, not_not_intro hcode⟩)

/-- INIT_CREDIT sets a channel's credits (R407, R408). -/
theorem initCredit_live (hlive : (s.port p).live = true) (hcode : leNat (raw.take 8) % 256 = 0x02) :
    initCredit p raw s = pumpSled p (onPort p (fun q => { q with
      credit := modAt (bitsAt (leNat (raw.take 8)) 8 2) (fun _ => bitsAt (leNat (raw.take 8)) 16 16) q.credit }) s) :=
  if_neg (not_or.2 ⟨not_not_intro hlive, not_not_intro hcode⟩)

/-- The coefficients that an EQ_SET or EQ_ACK word carries (R407). -/
def eqCoeffs (v : Nat) : Nat × Nat × Nat := (bitsAt v 9 6, bitsAt v 15 6, bitsAt v 21 6)

/-- The arguments of an EQ_ACK that is no refusal: a lane and the coefficients it has in force (R407). -/
def eqWord (lane : Nat) (f : Nat × Nat × Nat) : Nat := lane * 2 ^ 8 + f.1 * 2 ^ 9 + f.2.1 * 2 ^ 15 + f.2.2 * 2 ^ 21

/-- A port whose transmitter has coefficients in force on a lane. -/
def SledPort.equalised (lane : Nat) (f : Nat × Nat × Nat) (q : SledPort) : SledPort := { q with eq := setAt lane f q.eq }

/-- EQ_SET is answered with what the lane then has in force (R407, R423). -/
theorem eqSet_l0 {v : Nat} (hv : leNat (raw.take 8) = v) (hl0 : (s.port p).state = .l0) (hcode : v % 256 = 0x03) {fits : Bool}
    (hfits : eqFits (bitsAt v 9 6) (bitsAt v 15 6) (bitsAt v 21 6) = fits) {t : State}
    (ht : (if fits then onPort p (.equalised (bitsAt v 8 1) (eqCoeffs v)) s else s) = t) :
    eqSet p raw s = sendControl p 0x04 (eqWord (bitsAt v 8 1) (((t.port p).eq[bitsAt v 8 1]?).getD (0, 0, 0)) + b2n (!fits) * 2 ^ 27) t := by
  subst hv hfits ht
  exact if_neg (not_or.2 ⟨l0_passes hl0, not_not_intro hcode⟩)

/-- Coefficients out of range are refused with those in force (R423). -/
theorem eqSet_refused {v : Nat} (hv : leNat (raw.take 8) = v) (hl0 : (s.port p).state = .l0) (hcode : v % 256 = 0x03)
    (hunfit : eqFits (bitsAt v 9 6) (bitsAt v 15 6) (bitsAt v 21 6) = false) :
    eqSet p raw s = sendControl p 0x04 (eqWord (bitsAt v 8 1) (((s.port p).eq[bitsAt v 8 1]?).getD (0, 0, 0)) + 2 ^ 27) s := by
  have hbit : b2n (!false) * 2 ^ 27 = 2 ^ 27 := Nat.one_mul _
  rw [eqSet_l0 hv hl0 hcode hunfit rfl, hbit, if_neg Bool.false_ne_true]

/-- Those within range are applied and answered (R423). -/
theorem eqSet_applied {v : Nat} (hv : leNat (raw.take 8) = v) (hl0 : (s.port p).state = .l0) (hcode : v % 256 = 0x03)
    (hfit : eqFits (bitsAt v 9 6) (bitsAt v 15 6) (bitsAt v 21 6) = true) (hlane : bitsAt v 8 1 < (s.port p).eq.length) :
    eqSet p raw s = sendControl p 0x04 (eqWord (bitsAt v 8 1) (eqCoeffs v)) (onPort p (.equalised (bitsAt v 8 1) (eqCoeffs v)) s) := by
  have hforce : (((s.port p).equalised (bitsAt v 8 1) (eqCoeffs v)).eq[bitsAt v 8 1]?).getD (0, 0, 0) = eqCoeffs v := by
    rw [SledPort.equalised, setAt, List.getElem?_set_self hlane, Option.getD_some]
  have hbit : b2n (!true) * 2 ^ 27 = 0 := Nat.zero_mul _
  rw [eqSet_l0 hv hl0 hcode hfit rfl, if_pos rfl, port_onPort, hforce, hbit, Nat.add_zero]

/-- EQ_ACK tells what the bridge's transmitter has in force (R423). -/
theorem eqAck_told (hcode : leNat (raw.take 8) % 256 = 0x04) :
    eqAck p raw s = onPort p (fun q => { q with
      eqFar := setAt (bitsAt (leNat (raw.take 8)) 8 1) (eqCoeffs (leNat (raw.take 8))) q.eqFar }) s := if_neg (not_not_intro hcode)

/-! ## Rest -/

/-- In Armed a port without transactions asks for rest (R422). -/
theorem restIdle_armed (hl0 : (s.port p).state = .l0) (htx : (s.port p).tx = []) (hqueue : (s.port p).queue = [])
    (hasked : (s.port p).restAsked = false) (harmed : s.pwr.state = .armed) :
    restIdle p s = sendControl p 0x05 0 (onPort p (fun q => { q with restAsked := true }) s) :=
  if_pos ⟨hl0, htx, hqueue, Bool.eq_false_iff.1 hasked, .inl harmed⟩

/-- REST_ACK answers a port that asked (R422). -/
theorem restAck_asked (hl0 : (s.port p).state = .l0) (hasked : (s.port p).restAsked = true) :
    restAck p s = pumpSled p ((onPort p (fun q => { q with state := .rest, restAsked := false }) s).send (.oslCtl p 3 0)) := if_pos ⟨hl0, hasked⟩

theorem exec_restExit (hp : p < 32) : exec (.restExit p) s
    = .next (if (s.port p).state = .rest then (onPort p (fun q => { q with state := .recovery }) s).send (.oslCtl p 2 0) else s) := by
  show execRestExit p s = _
  rw [execRestExit, Nat.mod_eq_of_lt hp]

end

/-- Settles O42: flits, a NAK with the replay it asks for, the control words, and rest. -/
theorem sledFlits : Obligations.SledFlits := by
  intro p raw s hp hl0 q word0
  refine ⟨?next, ?bad, ?badAgain, fun hcode => ?nak, ?credit, ?refused, ?applied, ?told, ?idle, ?acked, ?exitL0, ?exitRest⟩
  case next => intro hgood hbusy hnext; exact next_atPort hp (flitIn · raw) (flitIn_next hl0 hgood hbusy hnext)
  case bad => intro hbad hbusy hfirst; exact next_atPort hp (flitIn · raw) ((flitIn_bad hl0 hbad hbusy).trans (flitNak_first hfirst))
  case badAgain => intro hbad hbusy hagain; exact next_atPort hp (flitIn · raw) ((flitIn_bad hl0 hbad hbusy).trans (flitNak_again hagain))
  case nak =>
    intro t
    have hnak := nakIn_l0 (t := t) hl0 hcode rfl
    refine ⟨fun hnone => ?allAcked, fun e rest hreplay => ?replay⟩
    case allAcked =>
      rw [hnone] at hnak
      exact next_atPort hp (nakIn · raw) hnak
    case replay =>
      rw [hreplay] at hnak
      exact ⟨fun hbelow => next_atPort hp (nakIn · raw) (hnak.trans (if_neg (Nat.not_le.2 hbelow))),
        fun hlimit => next_atPort hp (nakIn · raw) (hnak.trans (if_pos hlimit))⟩
  case credit => intro hcode; exact next_atPort hp (initCredit · raw) (initCredit_live (live_of_l0 hl0) hcode)
  case refused => intro hcode hunfit; exact next_atPort hp (eqSet · raw) (eqSet_refused rfl hl0 hcode hunfit)
  case applied => intro hcode hfit hlane; exact next_atPort hp (eqSet · raw) (eqSet_applied rfl hl0 hcode hfit hlane)
  case told => intro hcode; exact next_atPort hp (eqAck · raw) (eqAck_told hcode)
  case idle => intro htx hqueue hasked harmed; exact next_atPort hp restIdle (restIdle_armed hl0 htx hqueue hasked harmed)
  case acked => intro hasked; exact next_atPort hp restAck (restAck_asked hl0 hasked)
  case exitL0 =>
    have hnotRest : (s.port p).state ≠ .rest := by rw [hl0]; exact LState.noConfusion
    exact (exec_restExit hp).trans (next_eq (if_neg hnotRest))
  case exitRest => exact (exec_restExit hp).trans (next_eq (if_pos (by rw [port_onPort])))

/-! ## Messages of the bridges -/

section

variable {p op : Nat} {raw : Bytes} {s : State}

/-- What every message of a bridge tells of its port: whether the claim is current there by the CUR it carries, and the credits that are
owed for it (R408, R417). -/
def SledPort.told (raw : Bytes) (q : SledPort) : SledPort :=
  { q with
    current := match q.grant with
      | some (n, _, _) => q.holds && decide (n / 256 = fieldLe raw 8 8 / 256)
      | none => false
    owed := modAt (fieldLe raw 1 1 % 4) (· + oslUnits (fieldLe raw 4 4 % 2 ^ 20)) q.owed }

/-- What a reply tells, and the end of the transaction it answers (R409). -/
def SledPort.answered (raw : Bytes) (q : SledPort) : SledPort :=
  { q.told raw with tx := tabDel (fieldLe raw 2 2) q.tx, queue := q.queue.filter (· ≠ fieldLe raw 2 2) }

/-- A message passes the checks of its row: the port is in L0, the header is whole, and OP is the row's. -/
theorem message_passes (hl0 : (s.port p).state = .l0) (hlen : 32 ≤ raw.length) (hop : fieldLe raw 0 1 = op) :
    ¬ (((s.port p).state ≠ .l0 ∧ (s.port p).state ≠ .resync) ∨ raw.length < 32 ∨ fieldLe raw 0 1 ≠ op) :=
  not_or.2 ⟨l0_passes hl0, not_or.2 ⟨Nat.not_lt.2 hlen, not_not_intro hop⟩⟩

/-- A reply to a transaction that is no RECALL, and not FENCED, ends it with its status, and the next may start (R408, R410). -/
theorem oslReply_done {t : OslTx} (hl0 : (s.port p).state = .l0) (hlen : 32 ≤ raw.length) (hop : fieldLe raw 0 1 = op)
    (htag : tabGet (fieldLe raw 2 2) (s.port p).tx = some t) (hrecall : ∀ old, t.what ≠ .recall old) (hfenced : fieldLe raw 16 1 ≠ 0x07) :
    oslReply p op raw s = pumpSled p (oslDone p (fieldLe raw 2 2) t (fieldLe raw 16 1) (fieldLe raw 18 2) (fieldLe raw 8 8)
      (slice raw 32 (fieldLe raw 4 4 % 2 ^ 20)) (claimSeen (fieldLe raw 8 8) (onPort p (.answered raw) s))) := by
  unfold oslReply
  rw [if_neg (message_passes hl0 hlen hop)]
  dsimp only
  rw [htag, if_neg hfenced]
  dsimp only
  split
  next old hwhat => exact absurd hwhat (hrecall old)
  next => rfl

/-- A message of another OP is not the row's (log entry 4). -/
theorem oslReply_other (hop : fieldLe raw 0 1 ≠ op) : oslReply p op raw s = s := if_pos (.inr (.inr hop))

/-- A NOTICE by its KIND (R409, R416, R425, R426). -/
theorem noticeIn_kind (hl0 : (s.port p).state = .l0) (hlen : 32 ≤ raw.length) (hop : fieldLe raw 0 1 = 0x82) {kind : Nat}
    (hkind : fieldLe raw 16 1 = kind) {u : State} (hu : claimSeen (fieldLe raw 8 8) (onPort p (.told raw) s) = u) :
    noticeIn p raw s = match (generalizing := false) kind with
      | 1 => if (s.dieOf (p * 64 + fieldLe raw 17 1)).isSome then failDie (p * 64 + fieldLe raw 17 1) 0 u else u
      | 2 => blockBad (p * 64 + fieldLe raw 17 1) (fieldLe raw 18 2) u
      | 3 => onPort p (fun q => { q with throttle := fieldLe raw 20 1 % 8 }) u
      | 4 => claimLost p u
      | _ => u := by
  subst hkind hu
  exact if_neg (message_passes hl0 hlen hop)

end

/-- Settles O43: replies, with data or without, and the four kinds of NOTICE. -/
theorem sledReplies : Obligations.SledReplies := by
  intro p raw s hp hl0 hlen cur current owed
  refine ⟨fun t htag hrecall hfenced => ⟨fun hop => ?cpl, fun hop => ?rdata⟩, fun hop => ?otherCpl, fun hop => ?otherRdata,
    fun hop => ?notice⟩
  case cpl => exact next_atPort hp (oslReply · 0x80 raw) (oslReply_done hl0 hlen hop htag hrecall hfenced)
  case rdata => exact next_atPort hp (oslReply · 0x81 raw) (oslReply_done hl0 hlen hop htag hrecall hfenced)
  case otherCpl => exact next_atPort hp (oslReply · 0x80 raw) (oslReply_other hop)
  case otherRdata => exact next_atPort hp (oslReply · 0x81 raw) (oslReply_other hop)
  case notice =>
    intro u
    have hnotice {kind : Nat} (hkind : fieldLe raw 16 1 = kind) := noticeIn_kind hl0 hlen hop hkind rfl
    refine ⟨fun hkind => ?throttle, fun hkind => ?claimChanged, fun hkind => ?badBlock, fun hkind hdie => ?failedDie⟩
    case throttle => exact next_atPort hp (noticeIn · raw) (hnotice hkind)
    case claimChanged => exact next_atPort hp (noticeIn · raw) (hnotice hkind)
    case badBlock => exact next_atPort hp (noticeIn · raw) (hnotice hkind)
    case failedDie => exact next_atPort hp (noticeIn · raw) ((hnotice hkind).trans (if_pos hdie))

end Sys2Proof.Machine

/-! SUPPORT. The statements of chapter 12's family: the partner link's groups, sessions and frames, the partner's messages by class, the pulse
link and its heartbeats, and PRT_CTRL with the waits of a round and of a solo start. -/

namespace Sys2Proof.Machine

/-! ## What the recorder leaves of the pairing -/

section

variable (code detail : Nat) (v : Option Nat) (s : State)

/-- One raise into the recorder leaves the state of the pairing. -/
theorem prt_evrRecord : (evrRecord code detail v s).prt = s.prt := by
  obtain ⟨n, hfree⟩ := raiseValue_free code detail v s
  have hprt : (s.raiseValue code detail v).2.2.prt = s.prt := by rw [hfree]
  unfold evrRecord
  dsimp only
  split
  · exact hprt
  · split
    · exact hprt
    · exact hprt

/-- So does a raise with the trigger of R556. -/
theorem prt_evrRaise : (evrRaise code detail v s).prt = s.prt := by
  unfold evrRaise
  dsimp only
  split
  · exact (prt_evrRecord 0x1007 code none _).trans (prt_evrRecord code detail v s)
  · exact prt_evrRecord code detail v s

@[simp] theorem prt_note : (note code detail s).prt = s.prt := prt_evrRaise code detail none s

end

/-! ## Groups of the partner link -/

section

variable {g : Nat} {up : Bool} {s : State}

/-- The head with a group of its link set up or down. -/
def withGroup (g : Nat) (up : Bool) (s : State) : State := { s with prt := { s.prt with groups := setBit s.prt.groups g up } }

theorem plGroups_le (s : State) : s.plGroups ≤ 4 := by
  unfold State.plGroups
  split
  · decide
  · decide

/-- With a bit set a bit vector is not 0. -/
theorem setBit_true_ne_zero {w : Nat} (x : BitVec w) (h : g < w) : setBit x g true ≠ 0 := fun hzero => by
  have hset := getBit_setBit_true x h
  rw [hzero] at hset
  simp [getBit] at hset

theorem plGroup_same (h : getBit s.prt.groups g = up) : plGroup g up s = s := if_pos (.inr (.inr h))

/-- A group that changes is counted, and the session ends with the last one (R432, R434). -/
theorem plGroup_changed (hdp : s.rst.dpUp = true) (hg : g < s.plGroups) (hchange : getBit s.prt.groups g ≠ up) :
    plGroup g up s =
      if setBit s.prt.groups g up = 0 then plSessionEnd (note 0x0D0B (popCount (setBit s.prt.groups g up)) (withGroup g up s))
      else plKeyAlarm (note 0x0D0B (popCount (setBit s.prt.groups g up)) (withGroup g up s)) := by
  have hpasses : ¬ (¬ s.rst.dpUp = true ∨ s.plGroups ≤ g ∨ getBit s.prt.groups g = up) :=
    not_or.2 ⟨not_not_intro hdp, not_or.2 ⟨Nat.not_le.2 hg, hchange⟩⟩
  unfold plGroup
  rw [if_neg hpasses]
  dsimp only
  rw [prt_note]
  rfl

theorem plGroup_up (hdp : s.rst.dpUp = true) (hg : g < s.plGroups) (hdown : getBit s.prt.groups g = false) :
    plGroup g true s = plKeyAlarm (note 0x0D0B (popCount (withGroup g true s).prt.groups) (withGroup g true s)) :=
  (plGroup_changed hdp hg (by simp [hdown])).trans (if_neg (setBit_true_ne_zero _ (Nat.lt_of_lt_of_le hg (plGroups_le s))))

/-- The last group goes down (R434). -/
theorem plGroup_lastDown (hdp : s.rst.dpUp = true) (hg : g < s.plGroups) (hup : getBit s.prt.groups g = true)
    (hlast : setBit s.prt.groups g false = 0) :
    plGroup g false s = plSessionEnd (note 0x0D0B 0 { s with prt := { s.prt with groups := 0 } }) := by
  rw [plGroup_changed hdp hg (by simp [hup]), if_pos hlast, withGroup, hlast]
  rfl

end

/-! ## Sessions -/

section

variable {n : Nat} {s : State}

/-- The head as a session begins: the number drawn with HEAD_ID on top, and frames from 0 (R434). -/
def sessionBegun (n : Nat) (s : State) : State :=
  { s with prt := { s.prt with session := some (BitVec.ofNat 32 (n % 2 ^ 31 + s.head * 2 ^ 31)), fseq := 0, noKey := false } }

/-- What a new session begins with: the classes start again, then the segments and the backlog, then HELLO (R435, R450). -/
def sessionGreets (u : State) : State := sendUpdDone (sendHello (teeDrain (u.ing.teed.foldl (fun s g => sendSeg g s) u)))

/-- A session starts where none is, a group is up, the head is not Fenced and the link has its key (R434). -/
theorem plSessionStart_starts (hdp : s.rst.dpUp = true) (hgroups : s.prt.groups ≠ 0) (hnone : s.prt.session = none)
    (hpair : s.prt.pair ≠ .fenced) (hkey : s.plKey.isSome = true) :
    plSessionStart n s = sessionGreets (plRestart .map (plRestart .jnl (plRestart .ckpt (sessionBegun n s)))) := by
  have hpasses : ¬ (¬ s.rst.dpUp = true ∨ s.prt.groups = 0 ∨ s.prt.session.isSome = true ∨ s.prt.pair = .fenced) := by
    rw [hnone]
    exact not_or.2 ⟨not_not_intro hdp, not_or.2 ⟨hgroups, not_or.2 ⟨Bool.false_ne_true, hpair⟩⟩⟩
  have hready : ¬ s.plKey.isNone = true := by rw [Option.isNone_iff_eq_none]; exact Option.isSome_iff_ne_none.1 hkey
  exact (if_neg hpasses).trans (if_neg hready)

end

/-! ## Frames -/

section

variable {raw key : Bytes} {n : Nat} {s : State}

/-- Frames come in where the datapath runs and a group is up. -/
theorem framesComeIn (hdp : s.rst.dpUp = true) (hgroups : s.prt.groups ≠ 0) : ¬ (¬ s.rst.dpUp = true ∨ s.prt.groups = 0) :=
  not_or.2 ⟨not_not_intro hdp, hgroups⟩

/-- A frame whose tag does not verify is counted (R434). -/
theorem plFrameIn_authFail (hdp : s.rst.dpUp = true) (hgroups : s.prt.groups ≠ 0) (hkey : s.plKey = some key)
    (hbad : gcmOpen key (leBytes 4 (fieldLe (raw.take 48) 4 4) ++ leBytes 8 (fieldLe (raw.take 48) 8 8)) (raw.take 48) (raw.drop 48) = none) :
    plFrameIn raw s = { s with prt := { s.prt with authFail := satInc s.prt.authFail } } := by
  unfold plFrameIn
  rw [if_neg (framesComeIn hdp hgroups), hkey]
  exact if_pos (.inr (by rw [hbad]; rfl))

/-- The frame after the last one, with none received beyond it, closes up: no gap is reported (R434, R435). -/
theorem plCount_next (hlast : s.prt.fack = some n) (hahead : s.prt.ahead = []) :
    plCount (n + 1) s = { s with prt := { s.prt with fack := some (n + 1), ahead := [] } } := by
  unfold plCount
  simp [hlast, hahead, State.onPrt, List.range_succ]

/-- What a good frame's header tells: the acknowledgements of the three classes, of the segments, and a heartbeat (R434, R435, R442). -/
def headerTaken (h : Bytes) (s : State) : State :=
  let acked := plAck .map (fieldLe h 44 4) (plAck .jnl (fieldLe h 40 4) (plAck .ckpt (fieldLe h 36 4) s))
  heartbeat false (fieldLe h 24 4) (fieldLe h 28 1)
    (segReceipts (fieldLe h 32 4) { acked with prt := { acked.prt with segAcked := some (fieldLe h 32 4) } })

/-- A whole frame of the partner by its header, session and number, whose tag verifies under the key (R433, R434). -/
structure FrameGood (raw key h : Bytes) (ses : BitVec 32) (num : Nat) (s : State) : Prop where
  whole : 64 ≤ raw.length
  header : raw.take 48 = h
  session : fieldLe h 4 4 = ses.toNat
  number : fieldLe h 8 8 = num
  body : fieldLe h 2 2 + 64 = raw.length
  kind : fieldLe h 0 1 = 0x11 ∨ fieldLe h 0 1 = 0x12
  peer : fieldLe h 1 1 ≠ s.head
  verifies : (gcmOpen key (leBytes 4 ses.toNat ++ leBytes 8 num) h (raw.drop 48)).isSome = true

/-- A good frame of the session under way that was not seen before is counted, and its header taken (R434, R435). -/
theorem plFrameIn_unseen {h : Bytes} {ses : BitVec 32} {num : Nat} (hgood : FrameGood raw key h ses num s) (hdp : s.rst.dpUp = true)
    (hgroups : s.prt.groups ≠ 0) (hkey : s.plKey = some key) (hpeer : s.prt.peerSession = some ses)
    (hunseen : ¬ ((s.prt.fack.any fun a => decide (num ≤ a)) = true ∨ s.prt.ahead.contains num = true)) :
    plFrameIn raw s = headerTaken h (plCount num s) := by
  have hcurrent : s.prt.peerSession = some (BitVec.ofNat 32 ses.toNat) := by rw [BitVec.ofNat_toNat, BitVec.setWidth_eq, hpeer]
  have hverified : ¬ (raw.length < 64 ∨ (gcmOpen key (leBytes 4 ses.toNat ++ leBytes 8 num) h (raw.drop 48)).isNone = true) := by
    rw [Option.isNone_iff_eq_none]
    exact not_or.2 ⟨Nat.not_lt.2 hgood.whole, Option.isSome_iff_ne_none.1 hgood.verifies⟩
  unfold plFrameIn
  rw [if_neg (framesComeIn hdp hgroups), hkey]
  dsimp only
  rw [hgood.header, hgood.session, hgood.number, if_neg hverified, if_neg, if_pos hcurrent]
  · rfl
  · rintro (⟨hnot11, hnot12⟩ | hown | hcut | ⟨-, hseen⟩)
    · exact hgood.kind.elim hnot11 hnot12
    · exact hgood.peer hown
    · exact hcut hgood.body
    · exact hunseen hseen

/-- The frame after the last one, with none received beyond it. -/
theorem plFrameIn_next {h : Bytes} {ses : BitVec 32} (hgood : FrameGood raw key h ses (n + 1) s) (hdp : s.rst.dpUp = true)
    (hgroups : s.prt.groups ≠ 0) (hkey : s.plKey = some key) (hpeer : s.prt.peerSession = some ses) (hlast : s.prt.fack = some n)
    (hahead : s.prt.ahead = []) :
    plFrameIn raw s = headerTaken h { s with prt := { s.prt with fack := some (n + 1), ahead := [] } } := by
  rw [plFrameIn_unseen hgood hdp hgroups hkey hpeer (by simp [hlast, hahead]), plCount_next hlast hahead]

end

/-! ## Resends -/

section

variable {c : PlClass} {s : State}

/-- A message goes again, in a new frame (R435). -/
def resendMsg (c : PlClass) (s : State) (m : PlMsg) : State :=
  plFrame (plMsgBytes m.mtype m.cseq m.body) (s.onPrt fun p => p.onChan c fun ch =>
    { ch with sent := ch.sent.map fun x => if x.cseq = m.cseq then { x with fseq := p.fseq } else x })

/-- The messages of an acknowledged class go again, in order. -/
theorem plResend_acknowledged (hc : c ≠ .mirror) : plResend c s = (s.prt.chan c).sent.foldl (resendMsg c) s := by
  cases c with
  | ckpt => rfl
  | jnl => rfl
  | map => rfl
  | mirror => exact absurd rfl hc

theorem plResend_none (hc : c ≠ .mirror) (hsent : (s.prt.chan c).sent = []) : plResend c s = s := by
  rw [plResend_acknowledged hc, hsent]
  rfl

/-- The only message of the map class that waits. -/
theorem plResend_map_one {m : PlMsg} (hsent : s.prt.map.sent = [m]) :
    plResend .map s = plFrame (plMsgBytes m.mtype m.cseq m.body)
      { s with prt := { s.prt with map := { s.prt.map with sent := [{ m with fseq := s.prt.fseq }] } } } := by
  have hchan : (s.prt.chan .map).sent = [m] := hsent
  rw [plResend_acknowledged PlClass.noConfusion, hchan]
  simp [resendMsg, State.onPrt, Prt.onChan, hsent]

end

/-- Settles O44: groups, the start of a session, a frame whose tag fails, and resends. -/
theorem partnerLink : Obligations.PartnerLink := by
  intro s hdp
  refine ⟨fun g hg hdown => ⟨?up, ?downAlready⟩, fun g hg hup hlast => ?lastDown, fun n hgroups hnone hpair hkey => ?session,
    fun raw key hgroups hkey hbad _ => ?authFail, fun m hsent => ?resend, fun hsent => ?nothing⟩
  case up => exact next_afterP (plGroup_up hdp hg hdown)
  case downAlready => exact next_afterP (plGroup_same hdown)
  case lastDown => exact next_afterP (plGroup_lastDown hdp hg hup hlast)
  case session => exact next_afterP (plSessionStart_starts hdp hgroups hnone hpair hkey)
  case authFail => exact next_afterP (plFrameIn_authFail hdp hgroups hkey hbad)
  case resend => exact next_eq (plResend_map_one hsent)
  case nothing => exact next_eq (plResend_none PlClass.noConfusion hsent)

/-- Settles O45: the frame passes every check of R433 to R435, and its header is taken. -/
theorem partnerFrames : Obligations.PartnerFrames := by
  intro raw key ses n s hdp hgroups hkey hpeer hlast hahead hlen h hses hnum hbody htype hhead hopens
  have hgood : FrameGood raw key h ses (n + 1) s := ⟨hlen, rfl, hses, hnum, hbody, htype, hhead, hopens⟩
  exact next_afterP (plFrameIn_next hgood hdp hgroups hkey hpeer hlast hahead)

/-! ## Messages of the checkpoint class -/

section

variable {cseq fence : Nat} {m : CkptMsg} {s : State}

/-- The head once the next message of the checkpoint class is applied, and none waits behind it (R435, R436). -/
def ckptTaken (s : State) : State :=
  { s with prt := { s.prt with fenceWait := [], ckpt := { s.prt.ckpt with rxNext := (s.prt.ckpt.rxNext + 1) % 2 ^ 32 } } }

/-- The head with one message of the class waiting for its segments (R436). -/
def ckptHeld (e : Nat × Nat × CkptMsg) (s : State) : State := { s with prt := { s.prt with fenceWait := [e] } }

/-- The one message that waits is applied once its fence is met. -/
theorem ckptDrain_held (cseq fence : Nat) (m : CkptMsg) (s : State) :
    ckptDrain 1 (ckptHeld (cseq, fence, m) s)
      = if s.fenceMet fence then ckptApply fence m (ckptTaken s) else ckptHeld (cseq, fence, m) s :=
  ite_not (s.fenceMet fence = true) _ _

/-- With none waiting the message that is next is the one after the last applied. -/
theorem nextCkpt_noneWaits (hwait : s.prt.fenceWait = []) (hrange : s.prt.ckpt.rxNext < 2 ^ 32) :
    (s.prt.ckpt.rxNext + s.prt.fenceWait.length) % 2 ^ 32 = s.prt.ckpt.rxNext := by
  rw [hwait, List.length_nil, Nat.add_zero, Nat.mod_eq_of_lt hrange]

/-- A message that is not the next in order is discarded (R435). -/
theorem ckptIn_outOfOrder (hwait : s.prt.fenceWait = []) (hrange : s.prt.ckpt.rxNext < 2 ^ 32) (hother : cseq ≠ s.prt.ckpt.rxNext) :
    ckptIn cseq fence m s = s :=
  if_pos (.inr (by rw [nextCkpt_noneWaits hwait hrange]; exact hother))

section

variable (htakes : s.plTakes = true) (hwait : s.prt.fenceWait = []) (hrange : s.prt.ckpt.rxNext < 2 ^ 32)
include htakes hwait hrange

/-- The next in order, with none before it, is applied if the segments of its SEG_FENCE are here, and waits for them otherwise (R436). -/
theorem ckptIn_next (hnext : cseq = s.prt.ckpt.rxNext) :
    ckptIn cseq fence m s = plConfirm (if s.fenceMet fence then ckptApply fence m (ckptTaken s) else ckptHeld (cseq, fence, m) s) := by
  have hpasses : ¬ (¬ s.plTakes = true ∨ cseq ≠ (s.prt.ckpt.rxNext + s.prt.fenceWait.length) % 2 ^ 32) := by
    rw [nextCkpt_noneWaits hwait hrange]
    exact not_or.2 ⟨not_not_intro htakes, not_not_intro hnext⟩
  have hheld : (s.onPrt fun p => { p with fenceWait := p.fenceWait ++ [(cseq, fence, m)] }) = ckptHeld (cseq, fence, m) s := by
    rw [State.onPrt, hwait]
    rfl
  unfold ckptIn
  rw [if_neg hpasses, hheld]
  exact congrArg plConfirm (ckptDrain_held cseq fence m s)

/-- A control word with none before it is applied: its fence is what the partner has receipted (log entry 29). -/
theorem wordIn_next {code : Nat} {args : Bytes} : wordIn code args s = plConfirm (controlIn code args (ckptTaken s)) := by
  have hmet : s.fenceMet (s.prt.segAck.getD (2 ^ 32 - 1)) = true := by simp [State.fenceMet, seqLe]
  unfold wordIn
  rw [nextCkpt_noneWaits hwait hrange, hwait]
  exact (ckptIn_next htakes hwait hrange rfl).trans (congrArg plConfirm (if_pos hmet))

end

/-- Every row of records brings its message of the checkpoint class. -/
theorem exec_recordRow {row : (BitVec 32 → BitVec 32 → Bytes → Instr) × (Bytes → CkptMsg)} (hrow : row ∈ recordRows)
    (cseq fence : BitVec 32) (body : Bytes) (s : State) :
    exec (row.1 cseq fence body) s = .next (afterP (ckptIn cseq.toNat fence.toNat (row.2 body) s)) := by
  simp only [recordRows, List.mem_cons, List.not_mem_nil, or_false] at hrow
  rcases hrow with rfl | rfl | rfl | rfl | rfl | rfl
  all_goals rfl

/-- Every row of control words brings its word. -/
theorem exec_wordRow {row : (Bytes → Instr) × Nat} (hrow : row ∈ wordRows) (args : Bytes) (s : State) :
    exec (row.1 args) s = .next (afterP (wordIn row.2 args s)) := by
  simp only [wordRows, List.mem_cons, List.not_mem_nil, or_false] at hrow
  rcases hrow with rfl | rfl | rfl | rfl | rfl | rfl | rfl | rfl | rfl
  all_goals rfl

end

/-! ## Messages of the other classes -/

section

variable {cseq : Nat} {body : Bytes} {s : State}

theorem jnlIn_outOfOrder (hother : cseq ≠ s.prt.jnl.rxNext) : jnlIn cseq body s = s := if_pos (.inr hother)

section

variable (htakes : s.plTakes = true)
include htakes

/-- A message that is the next of its class passes. -/
theorem nextOfClass_passes {rxNext : Nat} (hnext : cseq = rxNext) : ¬ (¬ s.plTakes = true ∨ cseq ≠ rxNext) :=
  not_or.2 ⟨not_not_intro htakes, not_not_intro hnext⟩

/-- A journal message in the Paired state goes to the shadow (R439). -/
theorem jnlIn_paired (hnext : cseq = s.prt.jnl.rxNext) (hpaired : s.prt.pair = .paired) :
    jnlIn cseq body s = plConfirm (shadowJnl body
      { s with prt := { s.prt with jnl := { s.prt.jnl with rxNext := (s.prt.jnl.rxNext + 1) % 2 ^ 32 } } }) :=
  (if_neg (nextOfClass_passes htakes hnext)).trans (congrArg plConfirm (if_pos (.inl hpaired)))

/-- So does a map message. -/
theorem mapIn_paired (hnext : cseq = s.prt.map.rxNext) (hpaired : s.prt.pair = .paired) :
    mapIn cseq body s = plConfirm (shadowMap body (mapTaken s)) :=
  (if_neg (nextOfClass_passes htakes hnext)).trans (congrArg plConfirm (if_pos (.inl hpaired)))

/-- RELEASE entries go to the shadow where there is one (R441). -/
theorem exec_plRelease_shadow (hshadow : s.holdsShadow = true) :
    exec (.plRelease body) s = .next (afterP (plConfirm (shadowRelease body (mapTaken s)))) :=
  next_afterP ((if_pos htakes).trans (congrArg plConfirm (if_pos hshadow)))

/-- A segment that the shadow took or that failed, what waited for it, and in the second case SEGFAIL (R213, R215). -/
theorem segIn_shadow {failed : Bool} {u : State} (hshadow : s.holdsShadow = true) (hseg : shadowSeg body s = (failed, u)) :
    segIn body s = plConfirm (if failed then plControl 0x02 (leBytes 4 (fieldLe body 20 4)) (ckptDrain u.prt.fenceWait.length u)
      else ckptDrain u.prt.fenceWait.length u) := by
  unfold segIn
  rw [if_neg (by simp [htakes, hshadow]), hseg]

/-- A message of the reply class is taken as it comes (R435). -/
theorem replyIn_taken {f : State → State} :
    replyIn cseq f s = f { s with prt := { s.prt with reply := { s.prt.reply with rxNext := (cseq + 1) % 2 ^ 32 } } } :=
  if_neg (not_not_intro htakes)

end

end

/-- Settles O46: the checkpoint class with its control words, then the journal and map classes, segments and replies. -/
theorem partnerMessages : Obligations.PartnerMessages := by
  intro cseq fence body s htakes hrange
  refine ⟨fun hwait => ⟨fun row hrow hnext => ?record, fun row hrow hother => ?outOfOrder, fun row hrow => ?word⟩,
    fun hnext hpaired => ?jnl, fun hother => ?jnlOutOfOrder, fun hnext hpaired => ?map, exec_plRelease_shadow htakes,
    fun hshadow u hseg => ?segment, fun hshadow u hseg => ?segfail, next_afterP (replyIn_taken htakes), next_afterP (replyIn_taken htakes)⟩
  case record =>
    have hin := ckptIn_next (fence := fence.toNat) (m := row.2 body) htakes hwait hrange hnext
    refine ⟨fun hmet => ?applied, fun hunmet => ?waits⟩
    case applied =>
      rw [if_pos hmet] at hin
      exact (exec_recordRow hrow cseq fence body s).trans (next_afterP hin)
    case waits =>
      rw [if_neg (ne_true_of_eq_false hunmet)] at hin
      exact (exec_recordRow hrow cseq fence body s).trans (next_afterP hin)
  case outOfOrder => exact (exec_recordRow hrow cseq fence body s).trans (next_afterP (ckptIn_outOfOrder hwait hrange hother))
  case word => exact (exec_wordRow hrow body s).trans (next_afterP (wordIn_next htakes hwait hrange))
  case jnl => exact next_afterP (jnlIn_paired htakes hnext hpaired)
  case jnlOutOfOrder => exact next_afterP (jnlIn_outOfOrder hother)
  case map => exact next_afterP (mapIn_paired htakes hnext hpaired)
  case segment => exact next_afterP (segIn_shadow htakes hshadow hseg)
  case segfail => exact next_afterP (segIn_shadow htakes hshadow hseg)

/-! ## The pulse link -/

section

variable {s : State}

theorem pulseSend_silent (h : s.beats = false) : pulseSend s = s := if_pos (ne_true_of_eq_false h)

/-- The head as a heartbeat goes that repeats no pulse command (R437). -/
def beatCounted (s : State) : State :=
  { s with prt := { s.prt with hbSeq := s.prt.hbSeq + 1, pulseCmd := (s.prt.pulseCmd.1, 0, 0, 0) } }

/-- A heartbeat: the pulse frame, and in Run or Armed the partner link's idle frame (R437). -/
theorem pulseSend_beats (hbeats : s.beats = true) (hcmd : s.prt.pulseCmd.2.2.2 = 0) :
    pulseSend s = if s.pwr.state = .run ∨ s.pwr.state = .armed then plFrame [] ((beatCounted s).send (.pulse (beatCounted s).pulseFrame))
      else (beatCounted s).send (.pulse (beatCounted s).pulseFrame) := by
  unfold pulseSend
  rw [if_neg (not_not_intro hbeats)]
  simp only [State.onPrt, hcmd, if_true]
  rfl

end

/-! ## Pulse frames -/

section

variable {raw : Bytes} {cmd : Nat} {f : State → State} {s : State}

/-- A frame that passes: the always-on domain runs, PCRC is good, and the frame is one of the partner's (R437). -/
structure PulsePasses (raw : Bytes) (s : State) : Prop where
  ao : s.rst.aoUp = true
  good : pulseGood raw = true
  version : fieldLe raw 0 1 = 1
  peer : fieldLe raw 1 1 ≠ s.head

/-- A frame with a bad PCRC is counted (R437). -/
theorem pulseIn_bad (hao : s.rst.aoUp = true) (hbad : pulseGood raw = false) :
    pulseIn raw s = { s with prt := { s.prt with pulseErr := satInc s.prt.pulseErr } } :=
  (if_neg (not_not_intro hao)).trans (if_pos (ne_true_of_eq_false hbad))

theorem pulseIn_passes (h : PulsePasses raw s) : pulseIn raw s = heartbeat true (fieldLe raw 4 4) (fieldLe raw 8 1) s :=
  (if_neg (not_not_intro h.ao)).trans ((if_neg (not_not_intro h.good)).trans (if_neg (not_or.2 ⟨not_not_intro h.version, h.peer⟩)))

/-- The command of a bad frame is not done. -/
theorem pulseDo_bad (hao : s.rst.aoUp = true) (hbad : pulseGood raw = false) :
    pulseDo cmd raw f s = { s with prt := { s.prt with pulseErr := satInc s.prt.pulseErr } } :=
  (if_pos (.inr (.inl (ne_true_of_eq_false hbad)))).trans (pulseIn_bad hao hbad)

/-- The command of a frame whose CMD_ID is new is done, and its CMD_ID kept (R438). -/
theorem pulseDo_new (h : PulsePasses raw s) (hcmd : fieldLe raw 9 1 = cmd) (hnew : s.prt.peerCmdId ≠ some (BitVec.ofNat 8 (fieldLe raw 2 1))) :
    pulseDo cmd raw f s = f ((heartbeat true (fieldLe raw 4 4) (fieldLe raw 8 1) s).onPrt fun p =>
      { p with peerCmdId := some (BitVec.ofNat 8 (fieldLe raw 2 1)) }) := by
  unfold pulseDo
  rw [pulseIn_passes h]
  exact if_neg (by simp [h.ao, h.good, h.version, h.peer, hcmd, hnew])

/-- A repeat of the command last done is a heartbeat alone (R438). -/
theorem pulseDo_repeat (h : PulsePasses raw s) (hid : s.prt.peerCmdId = some (BitVec.ofNat 8 (fieldLe raw 2 1))) :
    pulseDo cmd raw f s = heartbeat true (fieldLe raw 4 4) (fieldLe raw 8 1) s :=
  (if_pos (.inr (.inr (.inr (.inr (.inr hid)))))).trans (pulseIn_passes h)

end

/-! ## Judging the partner -/

section

variable {s : State}

/-- Once both links have missed HB_MISSES periods the partner is lost; a head in Quiet or Dormant wakes and no more (R108, R442). -/
theorem judge_bothMissed (hpl : s.param P.hbMisses ≤ s.prt.missPl) (hpulse : s.param P.hbMisses ≤ s.prt.missPulse)
    (hraised : s.prt.lostRaised = false) (hseen : s.prt.peerSeen = true) :
    judge s =
      let t := raise 0x0D01 0 .all { s with prt := { s.prt with lostRaised := true, hbPl := none, hbPulse := none } }
      if s.pwr.state = .quiet ∨ s.pwr.state = .dormant then wake 5 t else partnerGone (wake 5 t) := by
  unfold judge
  dsimp only
  rw [if_pos ⟨by simp [hpl], by simp [hpulse]⟩, if_neg (by simp [hraised, hseen])]
  rfl

/-- The period that makes the pulse link's misses equal to the partner link's raises the count of periods missed on both (R442, log entry 73). -/
theorem periodMiss_pulse_both (h : s.prt.missPulse < s.prt.missPl) :
    periodMiss true s = judge { s with prt := { s.prt with missPulse := s.prt.missPulse + 1, hbMiss := satInc s.prt.hbMiss } } := by
  have hmore : min s.prt.missPl s.prt.missPulse < min s.prt.missPl (s.prt.missPulse + 1) := by omega
  unfold periodMiss
  simp only [State.onPrt, if_true, hmore]

/-- PL_LOST_WAIT decides by PREF_HEAD (R442). -/
theorem plLostWait_decides (hpaired : s.prt.pair = .paired) (hhold : s.prt.hold = true) (hdown : s.prt.plDown = true) :
    plLostWait s = if s.rst.prefHead then startRound .linkLost false s else enterFenced 2 (pulseCommand 3 0 s) :=
  if_neg (by simp [hpaired, hhold, hdown])

end

/-- Settles O47: heartbeats sent, pulse frames with their commands, a period missed on both links, and PL_LOST_WAIT. -/
theorem pulseLink : Obligations.PulseLink := by
  intro raw s hao
  refine ⟨fun hbeats hcmd => ?beat, fun hsilent => ?silent, fun hbad => ?badFrame, fun hgood hversion hpeer => ?goodFrame,
    fun hbeats hseen hraised hpl hpulse => ?lost, fun hsilent pulse => ?noPeriod, fun hpaired hhold hdown => ?lostWait, fun hpair => ?notPaired⟩
  case beat =>
    have hsent := pulseSend_beats hbeats hcmd
    refine ⟨fun hrun => next_eq (hsent.trans (if_pos (.inl hrun))), fun hquiet => next_eq (hsent.trans (if_neg ?_))⟩
    rw [hquiet]
    decide
  case silent => exact next_eq (pulseSend_silent hsilent)
  case badFrame =>
    exact ⟨next_afterP (pulseIn_bad hao hbad), next_afterP (pulseDo_bad hao hbad), next_afterP (pulseDo_bad hao hbad),
      next_afterP (pulseDo_bad hao hbad), next_afterP (pulseDo_bad hao hbad)⟩
  case goodFrame =>
    have hpasses : PulsePasses raw s := ⟨hao, hgood, hversion, hpeer⟩
    refine ⟨next_afterP (pulseIn_passes hpasses), fun hnew => ⟨fun hcmd => ?wake, fun hcmd => ?reset, fun hcmd => ?yield,
      fun hcmd harg => ?handover⟩, fun hold => ⟨next_afterP (pulseDo_repeat hpasses hold), next_afterP (pulseDo_repeat hpasses hold)⟩⟩
    case wake => exact next_afterP (pulseDo_new hpasses hcmd hnew)
    case reset => exact next_afterP (pulseDo_new hpasses hcmd hnew)
    case yield => exact next_afterP (pulseDo_new hpasses hcmd hnew)
    case handover => exact next_afterP ((pulseDo_new hpasses hcmd hnew).trans (if_pos harg))
  case lost =>
    have hboth : s.prt.missPulse < s.prt.missPl := by omega
    refine next_afterP ((if_pos hbeats).trans ((periodMiss_pulse_both hboth).trans ?_))
    exact judge_bothMissed (Nat.le_of_eq hpl.symm) (Nat.le_of_eq hpulse.symm) hraised hseen
  case noPeriod => exact next_afterP (if_neg (ne_true_of_eq_false hsilent))
  case lostWait =>
    have hdecided := plLostWait_decides hpaired hhold hdown
    exact ⟨fun hpref => next_afterP (hdecided.trans (if_pos hpref)),
      fun hpref => next_afterP (hdecided.trans (if_neg (ne_true_of_eq_false hpref)))⟩
  case notPaired => exact next_afterP (if_pos (.inl hpair))

/-! ## PRT_CTRL -/

section

variable {r : Requester} {val : Word} {s : State}

/-- The four rows of PRT_CTRL are one write: the value names the operation (log entry 98). -/
theorem exec_prtCtrlRow {row : Requester → Word → Instr}
    (hrow : row ∈ ([.prtCtrlGiveVolumes, .prtCtrlHandback, .prtCtrlSoloStart, .prtCtrlSendResetReq] : List (Requester → Word → Instr)))
    (hreach : s.accessStop r 0xD001C 4 = none) : exec (row r val) s = .next (afterP (prtCtrl r val.toNat s)) := by
  have hwrite : accessWrite r 0xD001C (prtCtrl r val.toNat) s = prtCtrl r val.toNat s := accessWrite_at hreach
  simp only [List.mem_cons, List.not_mem_nil, or_false] at hrow
  rcases hrow with rfl | rfl | rfl | rfl
  all_goals exact next_afterP hwrite

theorem prtCtrl_badKey (hkey : val.toNat / 2 ^ 16 ≠ 0x9640) : prtCtrl r val.toNat s = accessError r 0xD001C true s :=
  if_pos (by rw [bitsAt_key]; exact hkey)

/-- With the key the operation is the one that the value names (R461). -/
theorem prtCtrl_op {op : Nat} (hkey : val.toNat / 2 ^ 16 = 0x9640) (hop : val.toNat % 16 = op) :
    prtCtrl r val.toNat s = match (generalizing := false) op with
      | 1 => giveVolumes s
      | 2 => startHandback s
      | 3 => if s.prt.pair = .joining then startRound .solo false s else s
      | 4 => pulseCommand 2 0 s
      | _ => accessError r 0xD001C true s := by
  subst hop
  have hfield : bitsAt val.toNat 0 4 = val.toNat % 16 := bitsAt_low val.toNat 4
  rw [← hfield]
  exact if_neg (not_not_intro ((bitsAt_key val).trans hkey))

end

/-! ## The waits of a round and of a solo start -/

section

variable {d : Round} {s : State}

/-- A round whose CLAIM_WAIT is over is decided (R444). -/
theorem claimWait_round (hround : s.prt.round = some d) : claimWait s = decideRound s := if_pos (by rw [hround]; rfl)

/-- Without a round the join claims that have not completed count as not held (R450). -/
theorem claimWait_noRound (hround : s.prt.round = none) : claimWait s = { s with prt := { s.prt with joinWait := [] } } :=
  if_neg (by simp [hround])

/-- More than half of the sleds granted: the round is won (R444). -/
theorem decideRound_won (hround : s.prt.round = some d) (hmore : s.claimSleds.length < 2 * d.granted.length) (htie : d.tie = false) :
    decideRound s = roundOver d 1 s := by
  unfold decideRound
  rw [hround]
  dsimp only
  rw [if_pos hmore, htie]
  rfl

/-- Less than half: it is lost. -/
theorem decideRound_lost (hround : s.prt.round = some d) (hless : 2 * d.granted.length < s.claimSleds.length) :
    decideRound s = roundOver d 2 s := by
  unfold decideRound
  rw [hround]
  dsimp only
  rw [if_neg (Nat.lt_asymm hless), if_pos (.inr (.inl hless))]

theorem joinWaitOver_notJoining (hpair : s.prt.pair ≠ .joining) : joinWaitOver s = s := if_pos (.inl hpair)

/-- Where no sled lives, none is asked (R449). -/
theorem joinWaitOver_noSled (hpair : s.prt.pair = .joining) (hseen : s.prt.peerSeen = false) (hround : s.prt.round = none)
    (hdp : s.rst.dpUp = true) (hwait : s.prt.soloWait = []) (hdead : ∀ p ∈ s.claimSleds, (s.port p).live = false) :
    joinWaitOver s = { s with prt := { s.prt with soloReads := [], soloWait := [] } } := by
  have hnone : (s.claimSleds.filter fun p => (s.port p).live) = [] :=
    List.filter_eq_nil_iff.2 fun p hp => ne_true_of_eq_false (hdead p hp)
  unfold joinWaitOver
  rw [if_neg (by simp [hpair, hseen, hround, hdp, hwait]), hnone]
  rfl

end

/-- Settles O48: the four rows of PRT_CTRL by the value, then CLAIM_WAIT and JOIN_WAIT. -/
theorem pairingCommands : Obligations.PairingCommands := by
  intro r val s
  refine ⟨fun hreach row hrow => ?ctrl, fun d hround => ?round, fun hround => ?noRound, fun hpair => ?notJoining,
    fun hpair hseen hround hdp hwait hdead => ?solo⟩
  case ctrl =>
    have hexec := exec_prtCtrlRow (val := val) hrow hreach
    refine ⟨fun hkey => hexec.trans (next_afterP (prtCtrl_badKey hkey)), fun hkey => ⟨fun hop => ?give, fun hop => ?handback,
      fun hop hpair => ?soloStart, fun hop => ?resetReq⟩⟩
    case give => exact hexec.trans (next_afterP (prtCtrl_op hkey hop))
    case handback => exact hexec.trans (next_afterP (prtCtrl_op hkey hop))
    case soloStart => exact hexec.trans (next_afterP ((prtCtrl_op hkey hop).trans (if_pos hpair)))
    case resetReq => exact hexec.trans (next_afterP (prtCtrl_op hkey hop))
  case round =>
    have hdecided := claimWait_round hround
    exact ⟨fun hmore htie => next_afterP (hdecided.trans (decideRound_won hround hmore htie)),
      fun hless => next_afterP (hdecided.trans (decideRound_lost hround hless))⟩
  case noRound => exact next_afterP (claimWait_noRound hround)
  case notJoining =>
    have hover := joinWaitOver_notJoining hpair
    refine next_afterP ((if_neg ?_).trans hover)
    rw [hover]
    exact fun hjoining => hpair hjoining.1
  case solo =>
    have hover := joinWaitOver_noSled hpair hseen hround hdp hwait hdead
    refine next_afterP ?_
    rw [hover]
    exact if_pos ⟨hpair, ne_true_of_eq_false hseen, hdp, rfl, by rw [hround]; rfl⟩

end Sys2Proof.Machine

/-! SUPPORT. The statement of chapter 13's family: pages of released snapshots, and replication's period, session wait and lag. -/

namespace Sys2Proof.Machine

section

variable {vol t : Nat} {v : VolPolicy} {s : State}

/-! ## Points ordered by the period -/

/-- The point that REPL_PERIOD orders waits among the volume's commands as one that no queue sent (R463, R474). -/
theorem replPeriod_orders (hvol : s.vol vol = some v) (hrole : s.role v = .source t) (hblock : v.stream = false)
    (hmantle : s.mantle v = true) (hready : s.ftl.ready = true)
    (hnone : (s.cmd.cmds.any fun c => c.qpn == headQpn && c.volId == vol % 2 ^ 12) = false) :
    replPeriod vol s = { s with cmd := { s.cmd with nextAcc := s.cmd.nextAcc + 1, cmds := s.cmd.cmds ++
      [{ acc := s.cmd.nextAcc, qpn := headQpn, cid := 0, op := 0x55, vol := v.vol, phase := .waiting, orphan := true }] } } := by
  have hpasses : ¬ (v.stream = true ∨ ¬ s.mantle v = true ∨ ¬ s.ftl.ready = true
      ∨ (s.cmd.cmds.any fun c => c.qpn == headQpn && c.volId == vol % 2 ^ 12) = true) :=
    not_or.2 ⟨ne_true_of_eq_false hblock, not_or.2 ⟨not_not_intro hmantle, not_or.2 ⟨not_not_intro hready, ne_true_of_eq_false hnone⟩⟩⟩
  unfold replPeriod
  rw [hvol]
  dsimp only
  rw [hrole]
  exact if_neg hpasses

theorem replPeriod_noVolume (hvol : s.vol vol = none) : replPeriod vol s = s := by
  unfold replPeriod
  rw [hvol]

/-! ## The session wait -/

/-- No connection is opened to a target that no source volume of this head names (R473). -/
theorem openTarget_noSources (hsources : s.sourcesOf t = []) : openTarget t s = s := if_pos (.inr (.inr (.inr hsources)))

theorem replSessionWait_noSources (hsources : s.sourcesOf t = []) : replSessionWait t s = s := by
  unfold replSessionWait
  rw [hsources]
  exact openTarget_noSources hsources

/-- The target's one source starts its point again before the connection is opened (R479). -/
theorem replSessionWait_oneSource (hsources : s.sourcesOf t = [v]) :
    replSessionWait t s = openTarget t (onSource (v.vol % 2 ^ 12) (fun x => { x with stopped := false }) s) := by
  unfold replSessionWait
  rw [hsources]
  rfl

/-! ## The lag and its alarm -/

/-- The alarm is raised at the upward crossing (R488). -/
theorem replLag_crosses (hlate : s.param P.replLagAlarm * 1000 ≤ s.tgtLag t) (hquiet : (s.target t).lagRaised = false) :
    replLag t s = raise 0x0E04 t .all (onTarget t (fun x => { x with lagRaised := true }) s) :=
  if_pos ⟨decide_eq_true hlate, ne_true_of_eq_false hquiet⟩

/-- Below the alarm nothing is raised, and the next crossing counts anew. -/
theorem replLag_below (hearly : s.tgtLag t < s.param P.replLagAlarm * 1000) :
    replLag t s = onTarget t (fun x => { x with lagRaised := false }) s := by
  have hbeyond : decide (s.param P.replLagAlarm * 1000 ≤ s.tgtLag t) = false := decide_eq_false (Nat.not_le.2 hearly)
  unfold replLag
  rw [hbeyond]
  rfl

/-! ## The rows of a target -/

/-- The row of a target below 16 waits for that target. -/
theorem exec_replSessionWaitExpiry (ht : t < 16) : exec (.replSessionWaitExpiry t) s = .next (after (replSessionWait t s)) :=
  next_after (by rw [Nat.mod_eq_of_lt ht])

/-- So does the row of its lag. -/
theorem exec_replLag (ht : t < 16) : exec (.replLag t) s = .next (replLag t s) :=
  next_eq (by rw [Nat.mod_eq_of_lt ht])

end

/-- Settles O49: pages released, then REPL_PERIOD, REPL_SESSION_WAIT and the lag. -/
theorem replicationTimers : Obligations.ReplicationTimers := by
  intro s
  refine ⟨fun slot page hready => ?releases, fun slot page hready => ?notReady,
    fun vol v t hvol hrole hblock hmantle hready hnone => ?orders, fun vol hvol => ?noVolume,
    fun t ht hsources => ?noSources, fun t v ht hsources => ?oneSource,
    fun t ht hlate hquiet => ?crosses, fun t ht hearly => ?below⟩
  case releases => exact next_after (if_pos hready)
  case notReady => exact next_after (if_neg (ne_true_of_eq_false hready))
  case orders => exact next_after (replPeriod_orders hvol hrole hblock hmantle hready hnone)
  case noVolume => exact next_after (replPeriod_noVolume hvol)
  case noSources => exact (exec_replSessionWaitExpiry ht).trans (next_after (replSessionWait_noSources hsources))
  case oneSource => exact (exec_replSessionWaitExpiry ht).trans (next_after (replSessionWait_oneSource hsources))
  case crosses => exact (exec_replLag ht).trans (next_eq (replLag_crosses hlate hquiet))
  case below => exact (exec_replLag ht).trans (next_eq (replLag_below hearly))

end Sys2Proof.Machine

/-! SUPPORT. The statement of chapter 14's family: the DRAM controller at work. -/

namespace Sys2Proof.Machine

section

variable {armed : Bool} {a ch rank : Nat} {raw : Bytes} {s : State}

/-! ## Lines of DRAM -/

/-- What the code makes of a line of a channel, after its row's activate (R498, R499, R504). -/
def lineDecoded (armed : Bool) (a : Nat) (raw : Bytes) (s : State) : LineResult × State :=
  let place := s.ddrPlace armed a
  correctLine place.1 (s.ddrLine place.2) (padTo 80 raw) (a / 64) (actRow place.1 (s.ddrLine place.2) s)

/-- The state that keeps what was returned for the line at an address (R500). -/
def lineKept (armed : Bool) (a : Nat) (read : LineResult × State) : State :=
  read.2.onBuf fun b => { b with lastLine := some (a, armed, read.1.data) }

/-- A line of a channel that takes requests, inside the channel. -/
structure LineThere (armed : Bool) (a : Nat) (s : State) : Prop where
  up : s.channelUp (s.ddrPlace armed a).1 = true
  inside : (s.ddrPlace armed a).2 < s.buf.channelBytes

theorem LineThere.passes (h : LineThere armed a s) :
    ¬ (¬ s.channelUp (s.ddrPlace armed a).1 = true ∨ s.buf.channelBytes ≤ (s.ddrPlace armed a).2) :=
  not_or.2 ⟨not_not_intro h.up, Nat.not_le.2 h.inside⟩

/-- A line that the code can correct is returned (R498). -/
theorem lineRead_corrected {read : LineResult × State} {d : Bytes} (h : LineThere armed a s) (hread : lineDecoded armed a raw s = read)
    (hdata : read.1.data = some d) : lineRead armed a raw s = lineKept armed (a / 64 * 64) read := by
  unfold lineDecoded at hread
  unfold lineRead lineKept
  dsimp only at hread ⊢
  rw [if_neg h.passes, hread, hdata]

/-- An uncorrectable line outside every region is raised, and counts against its channel (R500, R501). -/
theorem lineRead_uncorrectable {read : LineResult × State} (h : LineThere armed a s) (hread : lineDecoded armed a raw s = read)
    (hdata : read.1.data = none) (hregion : s.regionOf armed (a / 64 * 64) = none) :
    lineRead armed a raw s = channelCount (s.ddrPlace armed a).1
      (lineRaised (s.ddrPlace armed a).1 armed read.1.address (a / 64 * 64) (lineKept armed (a / 64 * 64) read)) := by
  unfold lineDecoded at hread
  unfold lineRead lineKept
  dsimp only at hread ⊢
  rw [if_neg h.passes, hread, hdata, hregion]

/-! ## The scrubber -/

theorem scrubStep_belowRun (h : s.pwr.state ≠ .run) : scrubStep raw s = s := by
  unfold scrubStep
  extract_lets
  exact if_pos (.inl h)

/-- Bytes that no address uses hold no line (R492, R502). -/
theorem scrubStep_unused (hrun : s.pwr.state = .run)
    (hup : s.channelUp (s.buf.scrubPos / max 1 (s.buf.channelBytes / 64)) = true)
    (hnone : s.ddrAddress (s.buf.scrubPos / max 1 (s.buf.channelBytes / 64)) (s.buf.scrubPos % max 1 (s.buf.channelBytes / 64) * 64) = none) :
    scrubStep raw s = { s with buf := { s.buf with scrubPos := (s.buf.scrubPos + 1) % max 1 s.scrubLines } } := by
  unfold scrubStep
  extract_lets per ch off l next
  refine (if_neg (by simp [hrun, ch, per, hup])).trans ?_
  have hunused : s.ddrAddress ch off = none := hnone
  rw [hunused]
  rfl

/-! ## Refresh -/

/-- The rows of a rank act on a rank that is there, of a channel that takes requests. -/
theorem exec_rank (hup : s.channelUp ch = true) (hrank : rank < s.buf.ranks) :
    exec (.refreshDue ch rank) s = .next (refresh ch rank s)
      ∧ ∀ rate, exec (.mr4Poll ch rank rate) s = .next (mr4Reading ch rank rate s) :=
  ⟨next_eq (if_pos ⟨hup, hrank⟩), fun _ => next_eq (if_pos ⟨hup, hrank⟩)⟩

/-- A reading of twice the normal rate doubles the refresh, and says so (R508). -/
theorem mr4Reading_doubles (hnormal : tabGet (ch, rank) s.buf.doubled = none) :
    mr4Reading ch rank 1 s = note 0x0804 (ch + 16 * (rank % 4) + 64) { s with buf := { s.buf with
      hot := s.buf.hot.filter (· ≠ (ch, rank)), doubled := tabPut (ch, rank) 0 s.buf.doubled } } := by
  unfold mr4Reading
  dsimp only
  rw [hnormal]
  rfl

theorem mr4Reading_normal (hnormal : tabGet (ch, rank) s.buf.doubled = none) :
    mr4Reading ch rank 0 s = { s with buf := { s.buf with hot := s.buf.hot.filter (· ≠ (ch, rank)) } } := by
  unfold mr4Reading
  dsimp only
  rw [hnormal]
  rfl

/-! ## The exit from self-refresh -/

theorem selfRefreshExit_none (h : s.buf.exiting = 0) (l : List (Nat × Nat × Nat)) : selfRefreshExit l s = s := if_pos h

theorem selfRefreshExit_out (h : s.buf.exiting ≠ 0) :
    selfRefreshExit [] s = l2Release { s with buf := { s.buf with
      selfRef := s.buf.selfRef &&& ~~~s.buf.exiting, exiting := 0, acts := s.buf.acts.filter fun e => !getBit s.buf.exiting e.1.1 } } := if_neg h

end

/-- Settles O50: lines read, the scrubber, refresh and MR4, the activate window, and the exit from self-refresh. -/
theorem bufferMemory : Obligations.BufferMemory := by
  intro s
  refine ⟨fun armed addr raw => ?lines, fun raw hbelow => ?belowRun, fun raw hrun hup hnone => ?unused,
    fun ch rank hup hrank => ?rank, rfl, fun hnone l => ?notExiting, fun hexiting => ?exiting⟩
  case lines =>
    intro place hup hinside read kept
    have hthere : LineThere armed addr.toNat s := ⟨hup, hinside⟩
    have hread : lineDecoded armed addr.toNat raw s = read := rfl
    clear_value read
    exact ⟨fun d hdata => next_after (lineRead_corrected hthere hread hdata),
      fun hdata hregion => next_after (lineRead_uncorrectable hthere hread hdata hregion)⟩
  case belowRun => exact next_after (scrubStep_belowRun hbelow)
  case unused => exact next_after (scrubStep_unused hrun hup hnone)
  case rank =>
    obtain ⟨hrefresh, hpoll⟩ := exec_rank hup hrank
    exact ⟨hrefresh, fun hnormal => (hpoll 1).trans (next_eq (mr4Reading_doubles hnormal)),
      fun hnormal => (hpoll 0).trans (next_eq (mr4Reading_normal hnormal))⟩
  case notExiting => exact next_after (selfRefreshExit_none hnone l)
  case exiting => exact next_after (selfRefreshExit_out hexiting)

end Sys2Proof.Machine

/-! SUPPORT. The statement of chapter 15's family: the samples of the adaptive loops, after what a raise changes. -/

namespace Sys2Proof.Machine

/-! ## What the recorder leaves -/

section

variable (code detail : Nat) (v : Option Nat) (s : State)

/-- One raise into the recorder changes the recorder and takes free values, and no more. -/
theorem evrRecord_frame : ∃ e n, evrRecord code detail v s = { s with evr := e, free := n } := by
  obtain ⟨n, hfree⟩ := raiseValue_free code detail v s
  unfold evrRecord
  dsimp only
  rw [hfree]
  split
  · exact ⟨_, n, rfl⟩
  · split
    · exact ⟨_, n, rfl⟩
    · exact ⟨_, n, rfl⟩

/-- So does a raise with the trigger of R556. -/
theorem evrRaise_frame : ∃ e n, evrRaise code detail v s = { s with evr := e, free := n } := by
  obtain ⟨e, n, hrecord⟩ := evrRecord_frame code detail v s
  unfold evrRaise
  dsimp only
  rw [hrecord]
  split
  · obtain ⟨e', n', htrigger⟩ := evrRecord_frame 0x1007 code none (({ s with evr := e, free := n } : State).onEvr fun x => { x with freeze := true })
    exact ⟨e', n', htrigger⟩
  · exact ⟨e, n, rfl⟩

end

/-! ## What the bookkeeping of a loop leaves -/

section

variable {l i dwell w : Nat} {up : Bool} {f : LoopInst → LoopInst} {s : State}

/-- The clusters' points and the flash translation are the same. -/
def SamePoints (s t : State) : Prop := t.adp.freq = s.adp.freq ∧ t.ftl = s.ftl

theorem SamePoints.trans {t u : State} (h : SamePoints s t) (k : SamePoints t u) : SamePoints s u := ⟨k.1.trans h.1, k.2.trans h.2⟩

theorem SamePoints.top_eq {t : State} (h : SamePoints s t) (u : Nat) : t.top u = s.top u := by
  unfold State.top
  rw [h.2]

theorem samePoints_note (code detail : Nat) (s : State) : SamePoints s (note code detail s) := by
  obtain ⟨e, n, hframe⟩ := evrRaise_frame code detail none s
  rw [note, hframe]
  exact ⟨rfl, rfl⟩

theorem samePoints_onLoop : SamePoints s (onLoop l i f s) := ⟨rfl, rfl⟩

theorem samePoints_countReversal : SamePoints s (countReversal l s) := ⟨rfl, rfl⟩

theorem samePoints_countAction : SamePoints s (countAction l s) := ⟨rfl, rfl⟩

theorem samePoints_selfFreeze : SamePoints s (selfFreeze l i s) := by
  have hfrozen : SamePoints s (s.onAdp fun a => { a with freeze := setBit a.freeze l true, cause := setBit a.cause l true }) := ⟨rfl, rfl⟩
  exact hfrozen.trans (samePoints_note 0x0F01 (l + i * 2 ^ 16) _)

/-- An action is counted, and may freeze its loop (R516, R519): no actuator is in that. -/
theorem samePoints_loopAct : SamePoints s (loopAct l i dwell up w s) := by
  unfold loopAct
  extract_lets x rev revs s1 s2
  have hs1 : SamePoints s s1 := samePoints_onLoop.trans samePoints_countAction
  have hs2 : SamePoints s s2 := by
    show SamePoints s (if rev then countReversal l s1 else s1)
    split
    · exact hs1.trans samePoints_countReversal
    · exact hs1
  split
  · exact hs2.trans samePoints_selfFreeze
  · exact hs2

end

/-! ## AL-VF -/

section

variable {i busy : Nat} {full hot : Bool} {tj : Int} {s : State}

/-- A cluster whose work asks for more runs at the demand point at once (R522). -/
theorem vfCluster_raises {f : Nat} (hf : s.adp.freq[i]? = some f) (hruns : f ≠ 0) (hmore : f < s.vfPoint (s.vfDemand f busy full hot)) :
    (vfCluster i busy full hot s).adp.freq = setAt i (s.vfPoint (s.vfDemand f busy full hot)) s.adp.freq := by
  unfold vfCluster
  rw [hf]
  extract_lets f' want point dwell set s1 s2 g
  have hset (up : Bool) (g : Nat) : (set up g s1).adp.freq = setAt i g s.adp.freq := by
    obtain ⟨hfreq, -⟩ := samePoints_loopAct (l := 2) (i := i) (dwell := dwell) (up := up) (w := g) (s := s1)
    show setAt i g (loopAct 2 i dwell up g s1).adp.freq = _
    rw [hfreq]
    rfl
  have hs2 : s2 = if s.param P.vfFmax < want then limitHit 2 (set true point s1) else set true point s1 :=
    (if_neg hruns).trans (if_pos hmore)
  show s2.adp.freq = _
  rw [hs2]
  split
  · exact hset true point
  · exact hset true point

/-- A sample of one cluster below VF_TJ_SOFT (R521). -/
theorem vfSample_cool (hdp : s.rst.dpUp = true) (hrun : s.pwr.state = .run) (hcool : tj < (s.param P.vfTjSoft : Int)) :
    vfSample [(busy, false)] tj s = vfCluster 0 (min busy 1000) false false (s.onAdp fun a => { a with vfHot := false }) := by
  have hhot : decide ((s.param P.vfTjSoft : Int) ≤ tj) = false := decide_eq_false (by omega)
  unfold vfSample
  rw [if_neg (by simp [hdp, hrun]), hhot]
  rfl

theorem vfSample_belowRun {cs : List (Nat × Bool)} (h : s.pwr.state ≠ .run) : vfSample cs tj s = s := if_pos (.inr h)

end

/-! ## AL-EQ, AL-GC and AL-RB -/

section

variable {i m top : Nat} {dies : List (Nat × Nat × Nat)} {s : State}

theorem eqLane_off (h : s.eqRuns i = false) : eqLane i m s = s := if_pos (ne_true_of_eq_false h)

/-- A unit's state is read back as it was changed. -/
theorem top_onTop (f : TopSt → TopSt) : (onTop top f s).top top = f (s.top top) :=
  congrArg (fun x : Option TopSt => x.getD {}) tabGet_put_same

theorem top_onAdp (g : Adp → Adp) : (s.onAdp g).top top = s.top top := rfl

theorem top_onLoop {l : Nat} (g : LoopInst → LoopInst) : (onLoop l i g s).top top = s.top top := rfl

/-- Out of a hold collection's mode is the one that the free level selects (R340, R525, R536). -/
theorem gcUnit_mode (hhold : s.pwr.hold = false) : ((gcUnit dies top s).top top).mode = s.gcModeOf top := by
  unfold gcUnit
  obtain ⟨band, host⟩ := s.gcBand top dies
  obtain ⟨valid, all⟩ := s.gcVictimFill top
  extract_lets n s1 old mode pace0 share0 entry dwell moves share said s2 s3
  have hmode : (s2.top top).mode = mode := congrArg TopSt.mode (top_onTop _)
  have hs3 : SamePoints s2 s3 := by
    show SamePoints s2 (if said then note _ _ s2 else s2)
    split
    · exact samePoints_note ..
    · exact ⟨rfl, rfl⟩
  clear_value s3
  refine (congrArg (fun u : State => (u.top top).mode) (if_neg (ne_true_of_eq_false hhold))).trans ?_
  extract_lets full pace up s4
  have hs4 : SamePoints s3 s4 := samePoints_loopAct
  clear_value s4
  split
  · exact (congrArg TopSt.mode (hs3.top_eq top)).trans hmode
  · rw [top_onLoop, top_onAdp]
    exact (congrArg TopSt.mode ((hs3.trans hs4).top_eq top)).trans hmode

theorem gcSample_off (h : s.pwr.state ≠ .run ∨ s.ftl.ready = false) : gcSample dies s = s := if_pos (h.imp_right ne_true_of_eq_false)

/-- The sample of a head that serves one formatted block top unit is that unit's (R523). -/
theorem gcSample_one (hrun : s.pwr.state = .run) (hready : s.ftl.ready = true)
    (htop : (s.blockTops.filter fun u => s.serves u && (s.top u).formatted) = [top]) :
    gcSample dies s = gcUnit dies top (s.onAdp fun a => { a with gcDemand := word (satN 32 (s.gcDemandNow dies)) }) := by
  unfold gcSample
  rw [if_neg (by simp [hrun, hready]), htop]
  rfl

theorem rbSample_belowRun {latency rate : Nat} (h : s.pwr.state ≠ .run) : rbSample latency rate s = s := if_pos h

/-- With nothing rebuilt the sample takes what was read, and forgets the runs that have ended (R529). -/
theorem rbSample_noRuns {latency rate : Nat} (hrun : s.pwr.state = .run) (hnone : s.rbRuns = []) :
    rbSample latency rate s = { s with
      par := { s.par with rbRate := word (satN 32 rate) }, adp := { s.adp with inst := s.adp.inst.filter fun e => e.1.1 ≠ 5 } } := by
  unfold rbSample
  rw [if_neg (not_not_intro hrun), hnone]
  simp [State.onPar, State.onAdp]

/-- ADP_FREEZE's bits (R518, R519). -/
theorem freezeWrite_word (val : Word) : freezeWrite val.toNat s = { s with
    adp := { s.adp with freeze := val.setWidth 6, cause := s.adp.cause &&& val.setWidth 6 } } := by
  rw [← ofNat_toNat_word]
  rfl

end

/-- Settles O51: the samples loop by loop, and ADP_FREEZE. -/
theorem adaptiveLoops : Obligations.AdaptiveLoops := by
  intro s
  refine ⟨fun busy tj f hdp hrun hcool hf hruns hmore => ?raises, fun cs tj hbelow => ?vfOff, fun i m => rfl, fun i m hoff => ?eqOff,
    fun dies hoff => ?gcOff, fun dies top hrun hready htop hhold => ?gc, fun latency rate hrun hnone => ?rb,
    fun latency rate hbelow => ?rbOff, fun r val hreach => ?freeze⟩
  case raises => exact ⟨_, next_eq (vfSample_cool hdp hrun hcool), vfCluster_raises hf hruns hmore⟩
  case vfOff => exact next_eq (vfSample_belowRun hbelow)
  case eqOff => exact next_afterP (eqLane_off hoff)
  case gcOff => exact next_after (gcSample_off hoff)
  case gc => exact ⟨_, next_after (gcSample_one hrun hready htop), gcUnit_mode hhold⟩
  case rb => exact next_eq (rbSample_noRuns hrun hnone)
  case rbOff => exact next_eq (rbSample_belowRun hbelow)
  case freeze => exact next_eq ((accessWrite_at hreach).trans (freezeWrite_word val))

end Sys2Proof.Machine

/-! SUPPORT. The statements of chapter 16's family: datagrams, measurement registers, the debug mode and the recorder, the chain, and updates. -/

namespace Sys2Proof.Machine

/-! ## Management datagrams -/

section

variable {src : Option (BitVec 32)} {raw : Bytes} {a : MgmtAnswer} {s u : State}

/-- The rows of datagrams are one arrival: the MOP says what is asked (R545, log entry 98). -/
theorem exec_mgmtRow {row : Option (BitVec 32) → Bytes → Instr} (hrow : row ∈ mgmtRows) :
    exec (row src raw) s = .next (mgmtIn src raw s) := by
  simp only [mgmtRows, List.mem_cons, List.not_mem_nil, or_false] at hrow
  rcases hrow with rfl | rfl | rfl | rfl
  all_goals rfl

/-- A datagram that the core answers: MCRC is good, it is no REPLY, and MGMT_ALLOW admits its source (R545). -/
structure MgmtPasses (src : Option (BitVec 32)) (raw : Bytes) (s : State) : Prop where
  core : s.rst.mgUp = true
  length : 20 ≤ raw.length
  good : crcGood raw = true
  request : fieldLe raw 0 1 ≠ 5
  admitted : (src.any fun a => !s.mgmtAllows a.toNat) = false

/-- Any other is discarded. -/
theorem mgmtIn_discarded (h : crcGood raw = false ∨ fieldLe raw 0 1 = 5 ∨ (src.any fun a => !s.mgmtAllows a.toNat) = true) :
    mgmtIn src raw s = s :=
  if_pos (.inr (.inr (h.imp_left ne_true_of_eq_false)))

/-- The core's answer goes out unless what was asked reset the core. -/
theorem mgmtIn_passes (h : MgmtPasses src raw s) (hrequest : mgmtRequest raw s = (a, u)) :
    mgmtIn src raw s = if u.rst.mgUp then mgmtReply raw a u else u := by
  unfold mgmtIn
  rw [if_neg (by simp [h.core, h.length, h.good, h.request, h.admitted]), hrequest]

theorem mgmtIn_answered (h : MgmtPasses src raw s) (hrequest : mgmtRequest raw s = (a, u)) (hup : u.rst.mgUp = true) :
    mgmtIn src raw s = mgmtReply raw a u :=
  (mgmtIn_passes h hrequest).trans (if_pos hup)

theorem mgmtIn_coreReset (h : MgmtPasses src raw s) (hrequest : mgmtRequest raw s = (a, u)) (hdown : u.rst.mgUp = false) :
    mgmtIn src raw s = u :=
  (mgmtIn_passes h hrequest).trans (if_neg (ne_true_of_eq_false hdown))

/-- A length that disagrees with MLEN is malformed (log entry 97). -/
theorem mgmtRequest_badLength (h : raw.length ≠ 20 + fieldLe raw 2 2) : mgmtRequest raw s = ((2, []), s) := if_pos h

/-- What a request of the right length asks for, by its MOP (R545). -/
theorem mgmtRequest_mop (hlen : raw.length = 20 + fieldLe raw 2 2) :
    (fieldLe raw 0 1 = 1 → 1 ≤ fieldLe raw 12 4 → fieldLe raw 12 4 ≤ 256 →
      mgmtRequest raw s = mgmtReadWords (fieldLe raw 12 4) (fieldLe raw 8 4) [] s)
      ∧ (fieldLe raw 0 1 = 2 → 1 ≤ fieldLe raw 12 4 → fieldLe raw 12 4 ≤ 256 → fieldLe raw 2 2 = 4 * fieldLe raw 12 4 →
        mgmtRequest raw s = mgmtWriteWords (fieldLe raw 12 4) (fieldLe raw 8 4) (slice raw 16 (fieldLe raw 2 2)) s)
      ∧ (fieldLe raw 0 1 = 3 → mgmtRequest raw s = mgmtBlock (slice raw 16 (fieldLe raw 2 2)) s)
      ∧ (fieldLe raw 0 1 = 4 → mgmtRequest raw s = if 1 ≤ fieldLe raw 12 4 ∧ fieldLe raw 12 4 ≤ 128 then
        ((0, (List.range (fieldLe raw 12 4)).flatMap fun k => s.ringBytes (fieldLe raw 8 4 + k)), s) else ((2, []), s)) := by
  unfold mgmtRequest
  dsimp only
  rw [if_neg (not_not_intro hlen)]
  refine ⟨fun hmop h1 h256 => ?read, fun hmop h1 h256 hdata => ?write, fun hmop => ?block, fun hmop => ?events⟩
  case read => rw [hmop]; exact if_pos ⟨h1, h256⟩
  case write => rw [hmop]; exact if_pos ⟨h1, h256, hdata⟩
  case block => rw [hmop]; rfl
  case events => rw [hmop]; rfl

end

/-- Settles O52: datagrams discarded, then those that pass by their length and their MOP. -/
theorem managementDatagrams : Obligations.ManagementDatagrams := by
  intro src raw s hmg row hrow
  have hexec := exec_mgmtRow (src := src) (raw := raw) (s := s) hrow
  refine ⟨fun hbad => hexec.trans (next_eq (mgmtIn_discarded hbad)), fun hlong hgood hno hadm => ?_⟩
  have hpass : MgmtPasses src raw s := ⟨hmg, hlong, hgood, hno, hadm⟩
  refine ⟨fun hlen => hexec.trans (next_eq (mgmtIn_answered hpass (mgmtRequest_badLength hlen) hmg)), fun hlen => ?_⟩
  obtain ⟨read, write, block, events⟩ := mgmtRequest_mop (s := s) hlen
  refine ⟨fun hmop h1 h256 a u hread hup => ?reads, fun hmop h1 h256 hdata a u hwrite => ?writes,
    fun hmop a u hblock hup => ?takes, fun hmop h1 h128 => ?entries, fun hmop hcount => ?badCount⟩
  case reads => exact hexec.trans (next_eq (mgmtIn_answered hpass ((read hmop h1 h256).trans hread) hup))
  case writes =>
    have hrequest := (write hmop h1 h256 hdata).trans hwrite
    exact ⟨fun hup => hexec.trans (next_eq (mgmtIn_answered hpass hrequest hup)),
      fun hdown => hexec.trans (next_eq (mgmtIn_coreReset hpass hrequest hdown))⟩
  case takes => exact hexec.trans (next_eq (mgmtIn_answered hpass ((block hmop).trans hblock) hup))
  case entries => exact hexec.trans (next_eq (mgmtIn_answered hpass ((events hmop).trans (if_pos ⟨h1, h128⟩)) hmg))
  case badCount =>
    have hrange : ¬ (1 ≤ fieldLe raw 12 4 ∧ fieldLe raw 12 4 ≤ 128) := by omega
    exact hexec.trans (next_eq (mgmtIn_answered hpass ((events hmop).trans (if_neg hrange)) hmg))

/-! ## Measurement registers -/

/-- The first access error of a head without a trigger takes a free value for its ring entry (R552, log entry 6). -/
theorem accessError_first_free {r : Requester} {addr : Nat} {write : Bool} {s : State} (hprev : tabGet 0x1001 s.evr.prev = none)
    (htrig : s.evr.trigEn = false) : (accessError r addr write s).free = s.free + 1 :=
  evrRaise_first_free hprev rfl htrig

/-- Refutes O54: a write of MSR_EXT_GO that names MSR0 without the key, the first access error of a head whose management domain is up, takes
a free value for the error's ring entry (log entry 6), so it changes the model's counter of free values beside the recorder and the space's
own state. -/
theorem not_measurementRegisters : ¬ Obligations.MeasurementRegisters := by
  intro h
  obtain ⟨hgo, -⟩ := h .core 0 { rst := { mgUp := true } }
  obtain ⟨-, e, b, hframe⟩ := (hgo (by decide)).2 (.inl (by decide))
  have hfree : 0 + 1 = 0 := (accessError_first_free rfl rfl).symm.trans (congrArg State.free hframe)
  exact absurd hfree (by decide)

/-! ## Debug mode -/

section

variable {r : Requester} {val : Word} {s : State}

/-- A bit of a word written is the word's bit. -/
theorem bitAt_toNat (v : Word) (i : Nat) : bitAt v.toNat i = v.getLsbD i := by
  rw [bitAt, BitVec.getLsbD, Nat.testBit_eq_decide_div_mod_eq]
  rfl

theorem bitAt_zero (n : Nat) : bitAt n 0 = (n % 2 == 1) := by rw [bitAt, Nat.pow_zero, Nat.div_one]

/-- The two rows of MGT_DEBUG_CTRL are one write (log entry 98). -/
theorem exec_mgtDebugRows (hreach : s.accessStop r 0x100008 4 = none) :
    exec (.mgtDebugSet r val) s = .next (debugWrite r val.toNat s) ∧ exec (.mgtDebugClear r val) s = .next (debugWrite r val.toNat s) :=
  ⟨next_eq (accessWrite_at hreach), next_eq (accessWrite_at hreach)⟩

theorem debugWrite_badKey (hkey : val.toNat / 2 ^ 16 ≠ 0x9640) : debugWrite r val.toNat s = accessError r 0x100008 true s :=
  if_pos (by rw [bitsAt_key]; exact hkey)

theorem debugWrite_clear (hkey : val.toNat / 2 ^ 16 = 0x9640) (hbit : val.toNat % 2 = 0) :
    debugWrite r val.toNat s = { s with mgt := { s.mgt with debug := false } } :=
  (if_neg (not_not_intro ((bitsAt_key val).trans hkey))).trans (if_pos (by simp [bitAt_zero, hbit]))

/-- With the bit set the mode is entered where it is off and may be on, measured and recorded (R546, R558). -/
theorem debugWrite_set (hkey : val.toNat / 2 ^ 16 = 0x9640) (hbit : val.toNat % 2 = 1) :
    debugWrite r val.toNat s = if s.mgt.debug ∨ ¬ (s.flag P.debugAllow ∨ s.mgt.recovery) then s
      else note 0x1008 0 (msrExtend 1 [1] { s with mgt := { s.mgt with debug := true } }) :=
  (if_neg (not_not_intro ((bitsAt_key val).trans hkey))).trans (if_neg (by simp [bitAt_zero, hbit]))

/-! ## Controls of the recorder -/

theorem evrCtrl_word (v : Word) :
    evrCtrl v.toNat s = { s with evr := { s.evr with freeze := v.getLsbD 0, trigEn := v.getLsbD 1 } } := by
  rw [evrCtrl, bitAt_toNat, bitAt_toNat]
  rfl

theorem evrClear_all (hall : val.getLsbD 16 = true) : evrClear val.toNat s = { s with evr := { s.evr with recs := [], prev := [] } } :=
  congrArg (fun e => s.onEvr fun _ => e) (if_pos ((bitAt_toNat val 16).trans hall))

theorem evrClear_one (hone : val.getLsbD 16 = false) :
    evrClear val.toNat s = { s with evr := { s.evr with
      recs := tabDel (val.toNat % 2 ^ 16) s.evr.recs, prev := tabDel (val.toNat % 2 ^ 16) s.evr.prev } } :=
  congrArg (fun e => s.onEvr fun _ => e) (if_neg (ne_true_of_eq_false ((bitAt_toNat val 16).trans hone)))

/-! ## The spill -/

/-- Without a spill region nothing is spilt (R555). -/
theorem evrSpill_noRegion {n : Nat} (h : fieldLe s.cfg.opt 32 4 < 65536) : evrSpill n s = s :=
  if_pos (.inr (.inr (.inr (.inr (by simp; omega)))))

/-- Where the region is there and nothing holds the spill up, the entries that wait are written (R555, R565, R575). -/
theorem evrSpill_writes {n : Nat} (hmg : s.rst.mgUp = true) (himg : s.cfg.img.isSome) (hread : s.cfg.reread = none)
    (hstaging : s.upd.staging = []) (hregion : 65536 ≤ fieldLe s.cfg.opt 32 4) :
    let due := (s.evr.ring.filter fun e => decide (s.evr.spilled ≤ e.eseq)).take n
    evrSpill n s = spillEntries (2 * due.length + 2) due s := by
  obtain ⟨i, hi⟩ := Option.isSome_iff_exists.1 himg
  exact if_neg (by simp [hmg, hi, hread, hstaging, hregion])

/-- Where the next entry of the sector under way goes, behind `f` entries and the header (R555). -/
def State.spillAddr (s : State) (f : Nat) : Nat :=
  fieldLe s.cfg.opt 28 4 + (s.evr.sseq - 1) % max 1 (fieldLe s.cfg.opt 32 4 / 65536) * 65536 + 32 * (f + 1)

/-- An entry that does not fill its sector goes behind those already there. -/
theorem spillEntries_one {fuel f : Nat} {e : RingEntry} (hfill : s.evr.sectorFill = some f) (hroom : f + 1 < sectorEntries) :
    spillEntries (fuel + 2) [e] s = { s with
      tx := .spi s.cfg.src (.program (s.spillAddr f) e.bytes) :: s.tx
      evr := { s.evr with sectorFill := some (f + 1), spilled := e.eseq + 1 } } := by
  have hpage : 1 ≤ min (8 - (f + 1) % 8) (sectorEntries - f) := by omega
  have htake : [e].take (min (8 - (f + 1) % 8) (sectorEntries - f)) = [e] := List.take_of_length_le hpage
  have hdrop : [e].drop (min (8 - (f + 1) % 8) (sectorEntries - f)) = [] := List.drop_of_length_le hpage
  unfold spillEntries
  rw [hfill]
  dsimp only
  rw [htake, hdrop]
  simp [spillEntries, Nat.ne_of_lt hroom, State.onEvr, State.send, State.spillAddr]

/-! ## Digest jobs -/

theorem digGo_starts (hidle : s.msr.busy = false) : digGo 1 s = { s with msr := { s.msr with busy := true, jobDone := false } } :=
  if_neg (by simp [hidle])

/-- What the digest engine brings takes free values alone (log entry 3). -/
theorem freeWords_msr (n : Nat) (s : State) : (freeWords n s).2.msr = s.msr := by
  induction n generalizing s with
  | zero => rfl
  | succ n ih => exact ih (s.freeNat 32).2

theorem digDone_idle (hidle : s.msr.busy = false) : digDone s = s := if_pos (ne_true_of_eq_false hidle)

theorem digDone_busy (hbusy : s.msr.busy = true) :
    (digDone s).msr = { s.msr with busy := false, jobDone := true, digOut := (freeWords 12 s).1 } := by
  unfold digDone
  rw [if_neg (not_not_intro hbusy), onMsr_msr, freeWords_msr]

end

/-- Settles O55: the debug mode by the key, the bit and the parameter, the recorder's controls, the spill, and digest jobs. -/
theorem debugAndRecorder : Obligations.DebugAndRecorder := by
  intro r val s
  refine ⟨fun hreach => ?debug, fun hreach => ?ctrl, fun hreach => ?clear, fun n hsmall => ?noRegion,
    fun n e f hmg himg hread hstaging hregion hn hring hspilled hfill hroom => ?spill, fun hreach hval hidle => ?starts,
    fun hbusy => ?ends, fun hidle => ?idle⟩
  case debug =>
    obtain ⟨hset, hclear⟩ := exec_mgtDebugRows (val := val) hreach
    refine ⟨fun hkey hbit hoff hallow => ?on, fun hkey hbit hbar hnorm => ?barred, fun hkey hbit => ?off, fun hkey => ?badKey⟩
    case on => exact hset.trans (next_eq ((debugWrite_set hkey hbit).trans (if_neg (by simp [hoff, hallow]))))
    case barred => exact hset.trans (next_eq ((debugWrite_set hkey hbit).trans (if_pos (by simp [hbar, hnorm]))))
    case off => exact hclear.trans (next_eq (debugWrite_clear hkey hbit))
    case badKey => exact ⟨hset.trans (next_eq (debugWrite_badKey hkey)), hclear.trans (next_eq (debugWrite_badKey hkey))⟩
  case ctrl => exact next_eq ((accessWrite_at hreach).trans (evrCtrl_word val))
  case clear =>
    exact ⟨fun hall => next_eq ((accessWrite_at hreach).trans (evrClear_all hall)),
      fun hone => next_eq ((accessWrite_at hreach).trans (evrClear_one hone))⟩
  case noRegion => exact next_eq (evrSpill_noRegion hsmall)
  case spill =>
    have hdue : (s.evr.ring.filter fun e => decide (s.evr.spilled ≤ e.eseq)).take n = [e] := by
      rw [hring, List.filter_singleton, decide_eq_true hspilled]
      exact List.take_of_length_le hn
    have hwrites : evrSpill n s = spillEntries 4 [e] s := by
      rw [evrSpill_writes hmg himg hread hstaging hregion, hdue]
      rfl
    exact ⟨_, next_eq (hwrites.trans (spillEntries_one hfill hroom)), rfl, rfl, _, rfl⟩
  case starts =>
    subst hval
    exact next_eq ((accessWrite_at hreach).trans (digGo_starts hidle))
  case ends =>
    refine ⟨digDone s, rfl, ?_⟩
    rw [digDone_busy hbusy]
    exact ⟨rfl, rfl, rfl⟩
  case idle => exact next_eq (digDone_idle hidle)

section

variable {dn : Bool} {raw body : Bytes} {cseq : Nat} {f : ChainSent} {s u : State}

/-! ## Frames of the chain -/

theorem exec_chainLinkUp (hmg : s.rst.mgUp = true) (dn : Bool) : exec (.chainLinkUp dn) s = .next (chainUp dn s) := next_eq (if_pos hmg)

/-- A frame that the chain carries: the core runs an image out of recovery, and the header's length is the body's (R76, R562). -/
structure ChainPasses (raw : Bytes) (s : State) : Prop where
  core : s.rst.mgUp = true
  normal : s.mgt.recovery = false
  image : s.cfg.img.isSome
  header : 16 ≤ raw.length
  length : fieldLe raw 2 2 = (raw.drop 16).length

/-- A frame is taken by its kind and its port (R562). -/
theorem chainIn_kind (h : ChainPasses raw s) :
    (fieldLe raw 0 1 = 1 → chainIn false raw s = blockIn (fieldLe raw 4 4) (raw.drop 16) s)
      ∧ (fieldLe raw 0 1 = 2 → chainIn dn raw s = chainAcked dn (answered raw) s)
      ∧ (fieldLe raw 0 1 = 3 → chainIn dn raw s = chainResend dn (answered raw) s)
      ∧ (fieldLe raw 0 1 = 4 → chainIn false raw s = tokenIn (fieldLe raw 4 4) (raw.drop 16) s) := by
  obtain ⟨i, himg⟩ := Option.isSome_iff_exists.1 h.image
  have hpasses : ¬ (¬ s.rst.mgUp ∨ s.mgt.recovery ∨ s.cfg.img.isNone ∨ raw.length < 16 ∨ fieldLe raw 2 2 ≠ (raw.drop 16).length) := by
    simp [h.core, h.normal, himg, h.header, h.length]
  unfold chainIn
  simp only [if_neg hpasses]
  refine ⟨?block, ?ack, ?nak, ?token⟩
  all_goals
    intro hkind
    rw [hkind]
    rfl

/-! ## Blocks and tokens -/

theorem takeBlock_bad (hbad : blockGood body = false) :
    takeBlock body s = (.naked, { s with upd := { s.upd with crcErr := satInc s.upd.crcErr } }) := if_pos (ne_true_of_eq_false hbad)

/-- A BLOCK whose check fails is counted and answered with NAK (R563). -/
theorem blockIn_bad (hbad : blockGood body = false) :
    blockIn cseq body s = { s with
      upd := { s.upd with crcErr := satInc s.upd.crcErr }, tx := .chain false (chainFrame 3 0 (leBytes 4 cseq)) :: s.tx } := by
  unfold blockIn
  rw [takeBlock_bad hbad]
  rfl

theorem blockIn_acked (htaken : takeBlock body s = (.acked, u)) : blockIn cseq body s = chainAnswer false 2 cseq u := by
  unfold blockIn
  rw [htaken]

/-- So is a TOKEN (log entry 94). -/
theorem tokenIn_bad (hbad : tokenGood body = false) :
    tokenIn cseq body s = { s with
      upd := { s.upd with crcErr := satInc s.upd.crcErr }, tx := .chain false (chainFrame 3 0 (leBytes 4 cseq)) :: s.tx } :=
  if_pos (ne_true_of_eq_false hbad)

/-! ## Resends -/

/-- A frame that stands alone is found by its CSEQ. -/
theorem find_sent_one (hsent : s.chain.dn.sent = [f]) : ((s.chainPort true).sent.find? fun x => x.cseq == f.cseq) = some f := by
  have hport : (s.chainPort true).sent = [f] := hsent
  rw [hport, List.find?_singleton, if_pos (beq_self_eq_true f.cseq)]

theorem chainResend_again (hsent : s.chain.dn.sent = [f]) (hfew : f.resends < 16) :
    chainResend true f.cseq s = { s with
      chain := { s.chain with dn := { s.chain.dn with sent := [{ f with resends := f.resends + 1 }] } }
      upd := { s.upd with resends := satInc s.upd.resends }, tx := .chain true f.frame :: s.tx } := by
  unfold chainResend
  rw [find_sent_one hsent]
  dsimp only
  rw [if_neg (Nat.not_le.2 hfew)]
  simp [onChain, State.onChain, State.onUpd, State.send, hsent]

/-- The sixteenth resend without an answer takes the link down (R563). -/
theorem chainResend_last (hsent : s.chain.dn.sent = [f]) (hmany : 16 ≤ f.resends) :
    chainResend true f.cseq s = note 0x100C 1 { s with
      chain := { s.chain with dn := { s.chain.dn with down := true, sent := [], waiting := [] } } } := by
  unfold chainResend
  rw [find_sent_one hsent]
  exact if_pos hmany

/-! ## The agreement token -/

theorem agreePeriod_origin (hmg : s.rst.mgUp = true) (hnormal : s.mgt.recovery = false) (himg : s.cfg.img.isSome)
    (horigin : s.flag P.chainOrigin = true) :
    agreePeriod s = chainSend true 4 (tokenBody s.chain.tseq s.imageSeq s.tokenEntry) { s with
      chain := { s.chain with tseq := (s.chain.tseq + 1) % 2 ^ 32 }
      upd := { s.upd with tokenSeen := true, mismatch := false, tokCount := 1, tokSeq := BitVec.ofNat 24 s.chain.tseq } } := by
  obtain ⟨i, hi⟩ := Option.isSome_iff_exists.1 himg
  exact if_neg (by simp [hmg, hnormal, hi, horigin])

theorem agreePeriod_other (horigin : s.flag P.chainOrigin = false) : agreePeriod s = s :=
  if_pos (.inr (.inr (.inr (ne_true_of_eq_false horigin))))

theorem agreeLost_first (hmg : s.rst.mgUp = true) (hnormal : s.mgt.recovery = false) (himg : s.cfg.img.isSome)
    (horigin : s.flag P.chainOrigin = false) (hquiet : s.upd.lostRaised = false) :
    agreeLost s = note 0x100B 0 { s with upd := { s.upd with tokenSeen := false, lostRaised := true } } := by
  obtain ⟨i, hi⟩ := Option.isSome_iff_exists.1 himg
  exact if_neg (by simp [hmg, hnormal, hi, horigin, hquiet])

/-- AGREE_LOST is raised once for each loss (R572). -/
theorem agreeLost_again (hsaid : s.upd.lostRaised = true) : agreeLost s = s := if_pos (.inr (.inr (.inr (.inr hsaid))))

end

/-- Settles O56: links that come up, frames by their kind, the resend timer, and the two timers of the token. -/
theorem chainFrames : Obligations.ChainFrames := by
  intro dn raw s hmg
  refine ⟨exec_chainLinkUp hmg true, exec_chainLinkUp hmg false, fun i hnormal himg hheader hlength => ?frames, fun f hsent => ?timer,
    fun hnormal himg horigin => ?token, fun horigin => ?noToken, fun hnormal himg horigin hquiet => ?lost, fun hsaid => ?again⟩
  case frames =>
    have hpass : ChainPasses raw s := ⟨hmg, hnormal, by rw [himg]; rfl, hheader, hlength⟩
    obtain ⟨block, ack, nak, token⟩ := chainIn_kind (dn := dn) hpass
    refine ⟨fun hkind hbad => ?badBlock, fun hkind u htaken => ?takenBlock, fun hkind => ?acked, fun hkind => ?naked, fun hkind => ?tokens,
      fun hkind hbad => ?badToken⟩
    case badBlock => exact next_eq ((block hkind).trans (blockIn_bad hbad))
    case takenBlock => exact next_eq ((block hkind).trans (blockIn_acked htaken))
    case acked => exact next_eq (ack hkind)
    case naked => exact next_eq (nak hkind)
    case tokens => exact next_eq (token hkind)
    case badToken => exact next_eq ((token hkind).trans (tokenIn_bad hbad))
  case timer =>
    exact ⟨fun hfew => next_eq ((if_pos hmg).trans (chainResend_again hsent hfew)),
      fun hmany => next_eq ((if_pos hmg).trans (chainResend_last hsent hmany))⟩
  case token => exact next_eq (agreePeriod_origin hmg hnormal himg horigin)
  case noToken => exact next_eq (agreePeriod_other horigin)
  case lost => exact next_eq (agreeLost_first hmg hnormal himg horigin hquiet)
  case again => exact next_eq (agreeLost_again hsaid)

section

variable {r : Requester} {val : Word} {same : Bool} {s : State}

/-! ## Verification -/

theorem updVerified_elsewhere (h : s.upd.state ≠ .verifying) : updVerified same s = s := if_pos h

/-- The first check of R566 that fails gives UPD_FAILED its code. -/
theorem updVerified_fault {code : Nat} (h : s.upd.state = .verifying) (hfault : s.updFault same = some code) :
    updVerified same s = note 0x100E code { s with upd := { s.upd with state := .idle, fail := BitVec.ofNat 4 code } } := by
  unfold updVerified
  rw [if_neg (not_not_intro h), hfault]
  rfl

/-- The trailer of the stored image, which holds its digest and the index of its key (R562). -/
def Upd.trailer (u : Upd) : Bytes := rawBody (cutRecords (u.image.length / 16 + 1) u.image) 0xFFFF

/-- The verified image as it is staged (R566). -/
def Upd.verified (u : Upd) : Verified := { seq := u.updId.toNat, digest := u.trailer.take 48, keyId := fieldLe u.trailer 144 4 }

/-- Out of recovery head 0 stages an image without fault, measures it and waits for UPD_CTRL (R566, R568). -/
theorem updVerified_staged (h : s.upd.state = .verifying) (hfault : s.updFault same = none) (hnormal : s.mgt.recovery = false)
    (hhead : s.head = 0) :
    updVerified same s = updRetry ((note 0x100D s.upd.updId.toNat (msrExtend 5 (s.upd.trailer.take 48) { s with upd := { s.upd with
      state := .staged, stagedImg := some s.upd.verified } })).onUpd fun u => { u with autoReady := false }) := by
  unfold updVerified
  rw [if_neg (not_not_intro h), hfault, hnormal, hhead]
  rfl

/-! ## UPD_CTRL -/

/-- The four rows of UPD_CTRL are one write: the value names the operation (log entry 98). -/
theorem exec_updCtrlRow {row : Requester → Word → Instr}
    (hrow : row ∈ ([.updCtrlActivate, .updCtrlAbandon, .updCtrlRollback, .updCtrlRevoke] : List (Requester → Word → Instr)))
    (hreach : s.accessStop r 0x13000C 4 = none) : exec (row r val) s = .next (afterP (updCtrl r val.toNat s)) := by
  have hwrite : accessWrite r 0x13000C (updCtrl r val.toNat) s = updCtrl r val.toNat s := accessWrite_at hreach
  simp only [List.mem_cons, List.not_mem_nil, or_false] at hrow
  rcases hrow with rfl | rfl | rfl | rfl
  all_goals exact next_afterP hwrite

theorem updCtrl_badKey (hkey : val.toNat / 2 ^ 16 ≠ 0x9640) : updCtrl r val.toNat s = accessError r 0x13000C true s :=
  if_pos (by rw [bitsAt_key]; exact hkey)

/-- With the key OP activates, abandons what is staged, rolls back to the other slot's image, or burns the fuse of a key below the one that
signs the image in force (R567 to R569). -/
theorem updCtrl_op (hkey : val.toNat / 2 ^ 16 = 0x9640) :
    (val.toNat % 16 = 1 → updCtrl r val.toNat s = updActivate s)
      ∧ (val.toNat % 16 = 2 → s.upd.state = .staged → updCtrl r val.toNat s = { s with
        upd := { s.upd with state := .idle, stagedImg := none, autoReady := false, deny := 0 } })
      ∧ (val.toNat % 16 = 3 → ∀ v, s.upd.other = some v → updCtrl r val.toNat s = updRollTo v s)
      ∧ (val.toNat % 16 = 4 → ∀ i, s.cfg.img = some i →
        updCtrl r val.toNat s = if val.toNat / 16 % 4 < i.keyId then burnKey (val.toNat / 16 % 4) (updDeny 0 s) else updDeny 4 s) := by
  have hfield : bitsAt val.toNat 0 4 = val.toNat % 16 := bitsAt_low val.toNat 4
  have hindex : bitsAt val.toNat 4 2 = val.toNat / 16 % 4 := rfl
  unfold updCtrl
  rw [if_neg (not_not_intro ((bitsAt_key val).trans hkey)), hfield, hindex]
  refine ⟨fun hop => ?activate, fun hop hstaged => ?abandon, fun hop v hother => ?rollback, fun hop i himg => ?revoke⟩
  case activate => rw [hop]; rfl
  case abandon => rw [hop]; exact if_pos hstaged
  case rollback => rw [hop, hother]; rfl
  case revoke => rw [hop, himg]; simp

theorem updActivate_nothing (hstaged : s.upd.stagedImg = none) : updActivate s = { s with upd := { s.upd with deny := 5 } } := by
  unfold updActivate
  rw [hstaged]
  rfl

/-- Out of Paired a staged image is not activated (R568). -/
theorem updActivate_notPaired (hstaged : s.upd.stagedImg.isSome) (hpair : s.prt.pair ≠ .paired) :
    updActivate s = { s with upd := { s.upd with deny := 1 } } := by
  obtain ⟨v, hv⟩ := Option.isSome_iff_exists.1 hstaged
  have hstops : s.updStops = 1 := if_pos hpair
  unfold updActivate
  rw [hv, hstops]
  rfl

end

/-- Settles O57: the end of a verification, UPD_CTRL by its key and OP, and the confirmation timeout. -/
theorem updateControl : Obligations.UpdateControl := by
  intro r val s
  refine ⟨fun same h => ?elsewhere, fun same code h hfault => ?fault, fun same h hfault hnormal hhead => ?staged,
    fun hreach row hrow => ?ctrl, fun hpend hmg => ?unconfirmed, fun hpend => ?confirmed⟩
  case elsewhere => exact next_afterP (updVerified_elsewhere h)
  case fault => exact next_afterP (updVerified_fault h hfault)
  case staged => exact next_afterP (updVerified_staged h hfault hnormal hhead)
  case ctrl =>
    have hexec := exec_updCtrlRow (val := val) hrow hreach
    refine ⟨fun hkey => hexec.trans (next_afterP (updCtrl_badKey hkey)), fun hkey => ?_⟩
    obtain ⟨activate, abandon, rollback, revoke⟩ := updCtrl_op (r := r) (s := s) hkey
    refine ⟨fun hop hnone => ?nothing, fun hop hsome hpair => ?notPaired, fun v hop hsome hstops => ?activates,
      fun hop hstaged => ?abandons, fun v hop hother => ?rollsBack, fun i k hop hk himg hbelow => ?burns, fun i k hop hk himg habove => ?keeps⟩
    case nothing => exact hexec.trans (next_afterP ((activate hop).trans (updActivate_nothing hnone)))
    case notPaired => exact hexec.trans (next_afterP ((activate hop).trans (updActivate_notPaired hsome hpair)))
    case activates => exact hexec.trans (next_afterP (activate hop))
    case abandons => exact hexec.trans (next_afterP (abandon hop hstaged))
    case rollsBack => exact hexec.trans (next_afterP (rollback hop v hother))
    case burns => subst hk; exact hexec.trans (next_afterP ((revoke hop i himg).trans (if_pos hbelow)))
    case keeps => subst hk; exact hexec.trans (next_afterP ((revoke hop i himg).trans (if_neg (Nat.not_lt.2 habove))))
  case unconfirmed => exact next_afterP (if_pos ⟨hpend, hmg⟩)
  case confirmed => exact next_afterP (if_neg fun hwaits => ne_true_of_eq_false hpend hwaits.1)

end Sys2Proof.Machine

/-! SUPPORT. The statements across commands: a step runs the front of the queue, and the datapath leaves the control blocks. -/

namespace Sys2Proof.Machine

/-- Settles O4: what waits is the command and the rest of the queue (`step_front`). -/
theorem stepRunsTheFront : Obligations.StepRunsTheFront := fun _ _ _ => step_front rfl

/-- A command of the datapath leaves the control blocks, whatever follows from it. -/
theorem exec_same {c : Instr} (h : c.datapath = true) (s : State) : ∃ t, exec c s = .next t ∧ Same s t := by
  cases c with
  | subportDown => exact same_execSubportDown
  | subportUp => exact same_execSubportUp
  | pauseFrameReceive => exact same_execPauseFrameReceive
  | addrAnnounceRepeat => exact same_execAddrAnnounceRepeat
  | arpRequest => exact same_execArpRequest
  | neighbourSolicitation => exact same_execNeighbourSolicitation
  | icmpEcho => exact same_execIcmpEcho
  | cmRtu => exact same_execCmRtu
  | cmDreq => exact same_execCmDreq
  | cmRej => exact same_execCmRej
  | repRetryTimer => exact same_execRepRetryTimer
  | retryTimeout => exact same_execRetryTimeout
  | rnrResendTimer => exact same_execRnrResendTimer
  | qpErrLingerExpiry => exact same_execQpErrLingerExpiry
  | checkpointBatch => exact same_execCheckpointBatch
  | cnpRateRaise => exact same_execCnpRateRaise
  | eventMergeInterval => exact same_execEventMergeInterval
  | lotOpenReply => exact same_execLotOpenReply
  | read => exact same_execRead
  | write => exact same_execWrite
  | trim => exact same_execTrim
  | flush => exact same_execFlush
  | release => exact same_execRelease
  | takeOpen => exact same_execTakeOpen
  | frameAppend => exact same_execFrameAppend
  | frameRead => exact same_execFrameRead
  | takeSeal => exact same_execTakeSeal
  | takeDelete => exact same_execTakeDelete
  | takeInfo => exact same_execTakeInfo
  | identify => exact same_execIdentify
  | volumeInfo => exact same_execVolumeInfo
  | abort => exact same_execAbort
  | orphanStatus => exact same_execOrphanStatus
  | snapCreate => exact same_execSnapCreate
  | snapDelete => exact same_execSnapDelete
  | snapRead => exact same_execSnapRead
  | snapFrameRead => exact same_execSnapFrameRead
  | snapList => exact same_execSnapList
  | replPoint => exact same_execReplPoint
  | replInfo => exact same_execReplInfo
  | replPromote => exact same_execReplPromote
  | replBegin => exact same_execReplBegin
  | replData => exact same_execReplData
  | replEnd => exact same_execReplEnd
  | replTakeDelete => exact same_execReplTakeDelete
  | transferReadySend => exact same_execTransferReadySend
  | windowTimeout => exact same_execWindowTimeout
  | orphanKeepExpiry => exact same_execOrphanKeepExpiry
  | ingestBlockDone => exact same_execIngestBlockDone
  | cmpJobSubmit => exact same_execCmpJobSubmit
  | cmpJobDone => exact same_execCmpJobDone
  | filterRebuildDone => exact same_execFilterRebuildDone
  | keyEraseDone => exact same_execKeyEraseDone
  | cipContextSave => exact same_execCipContextSave
  | cipContextResume => exact same_execCipContextResume
  | mapSpillTimer => exact same_execMapSpillTimer
  | gcVictimStart => exact same_execGcVictimStart
  | partialWaitExpiry => exact same_execPartialWaitExpiry
  | padWaitExpiry => exact same_execPadWaitExpiry
  | rowIdleCloseExpiry => exact same_execRowIdleCloseExpiry
  | journalSpill => exact same_execJournalSpill
  | rebuildWaitExpiry => exact same_execRebuildWaitExpiry
  | hemPatrolPace => exact same_execHemPatrolPace
  | plResendTimer => exact same_execPlResendTimer
  | pulseSend => exact same_execPulseSend
  | prsntChange => exact same_execPrsntChange
  | restExit => exact same_execRestExit
  | preservedPageRelease => exact same_execPreservedPageRelease
  | replPeriodExpiry => exact same_execReplPeriodExpiry
  | replSessionWaitExpiry => exact same_execReplSessionWaitExpiry
  | replLag => exact same_execReplLag
  | alVfSample => exact same_execAlVfSample
  | alGcSample => exact same_execAlGcSample
  | alRbSample => exact same_execAlRbSample
  | evrSpill => exact same_execEvrSpill
  | _ => exact absurd h Bool.false_ne_true

/-- Settles O58, by the relation `Same` that the meaning of every datapath command stands in to the state it is given. -/
theorem datapathLeavesControl : Obligations.DatapathLeavesControl := fun _ s h => exec_same h s

end Sys2Proof.Machine
